-- ==== Sys2Proof/Word.lean ====
section
/-! DEFINITION. The word types of the GX-4 and the sparse maps that hold its registers, tiles, lines and tables. -/

namespace Sys2Proof

/-- A 64-bit register, address or field value. -/
abbrev Word := BitVec 64

/-- A 64-byte block, a flit or a v register: byte i is bits 8i+7:8i (R6). -/
abbrev Blk := BitVec 512

/-- A map from numbers, held as a list of pairs in rising order of the key. -/
abbrev Sparse (α : Type) := List (Nat × α)

/-- The value at key `k`, `d` where the key is not listed. -/
def Sparse.get {α : Type} (m : Sparse α) (d : α) (k : Nat) : α :=
  match m with
  | [] => d
  | (j, v) :: r => if j = k then v else Sparse.get r d k

/-- The value at key `k`, when it is listed. -/
def Sparse.find? {α : Type} (m : Sparse α) (k : Nat) : Option α :=
  match m with
  | [] => none
  | (j, v) :: r => if j = k then some v else Sparse.find? r k

/-- The map with `v` at key `k`, the keys kept in rising order. -/
def Sparse.set {α : Type} (m : Sparse α) (k : Nat) (v : α) : Sparse α :=
  match m with
  | [] => [(k, v)]
  | (j, w) :: r =>
    if k < j then (k, v) :: (j, w) :: r
    else if k = j then (k, v) :: r
    else (j, w) :: Sparse.set r k v

/-- The map without key `k`. -/
def Sparse.del {α : Type} (m : Sparse α) (k : Nat) : Sparse α :=
  match m with
  | [] => []
  | (j, w) :: r => if j = k then Sparse.del r k else (j, w) :: Sparse.del r k

/-- A format code and an E8M0 scale, the pair that travels with 64 bytes of data (R99). -/
structure Pair where
  fmt : BitVec 8
  scale : BitVec 8
  deriving DecidableEq, Repr

/-- The pair of Raw data (R23). -/
def Pair.raw : Pair := ⟨0x00, 127⟩

/-- The pair of integer results (R238). -/
def Pair.int64 : Pair := ⟨0x08, 127⟩

/-- The pair of FP32 results (R243). -/
def Pair.fp32 : Pair := ⟨0x01, 127⟩

/-- The pair of a register that holds an error token (R400). -/
def Pair.token : Pair := ⟨0xFF, 0xFF⟩

end Sys2Proof
end

