-- ==== Sys2Proof/Syntax.lean ====
section
/-! DEFINITION. The steps of the GX-4: one constructor of `Instr` for each row of spec/opcode_table.json, with the
operand forms that the instruction entries give (R190 to R205, R238 to R370, R343). -/

namespace Sys2Proof

/-- The integer types of R196. -/
inductive IntTy where
  | i8 | i16 | i32 | i64 | n8 | n16 | n32 | n64
  deriving DecidableEq, Repr

/-- The comparison conditions of R241; `un` is for FCMP and VCMP only. -/
inductive Cond where
  | eq | ne | lt | le | gt | ge | un
  deriving DecidableEq, Repr

/-- The rounding modes of R85. -/
inductive Rm where
  | rn | rz | ru | rd | rs
  deriving DecidableEq, Repr

/-- The format codes of R74 that are not reserved. -/
inductive Fmt where
  | raw | fp32 | bf16 | fp16 | e4m3 | e5m2 | int8 | int32 | int64
  | cb (n : Fin 16)
  deriving DecidableEq, Repr

/-- The group sizes of R288: 1, 2 or 4 registers. -/
inductive Grp where
  | one | two | four
  deriving DecidableEq, Repr

/-- The cache-policy codes of R63. -/
inductive Pol where
  | cached | streaming | homeOnly | uncached
  deriving DecidableEq, Repr

/-- The orders of R140. -/
inductive Ord4 where
  | relaxed | acquire | release | acqRel
  deriving DecidableEq, Repr

/-- The scope levels L0 to L5 of R133. -/
abbrev Scope := Fin 6

/-- A wave triple: own number, predecessor and successor (R135, R206). -/
structure Wave where
  s : BitVec 8
  p : BitVec 8
  n : BitVec 8
  deriving DecidableEq, Repr

/-- The address part of layout 1 of R200: a signed offset in elements when ORD = 00, otherwise an order with its
scope. -/
inductive Off where
  | plain (off : BitVec 8)
  | ordered (sc : Scope)
  deriving DecidableEq, Repr

/-- The address of a scratchpad access: a g register, or the next element of a generator (R272). -/
inductive SpAddr where
  | index (g : Fin 16)
  | gen (ag : Fin 4)
  deriving DecidableEq, Repr

/-- Where EMIT takes its flit (R251). -/
inductive EmitSrc where
  | reg (v : Fin 16)
  | queue (q : Fin 8)
  deriving DecidableEq, Repr

/-- A small number in the word, or taken from a g register (ROUTE, SWITCH, FEAT). -/
inductive ImmOrG where
  | imm (n : Fin 16)
  | reg (g : Fin 16)
  deriving DecidableEq, Repr

/-- The amount of VSHL and VSHR (R295). -/
inductive VAmount where
  | imm (n : Fin 64)
  | lanes (s2 : Fin 16)
  deriving DecidableEq, Repr

/-- The header fields of R252. -/
inductive HField where
  | wid | seq | rows | shape | ctag | rtag | fmt | scale | flags
  deriving DecidableEq, Repr

/-- The reductions of VRED (R303). -/
inductive RedOp where
  | sum | max | min | amax
  deriving DecidableEq, Repr

/-- The scans of VSCAN (R304). -/
inductive ScanOp where
  | sum | xsum | max | min
  deriving DecidableEq, Repr

/-- A matrix source operand (R314). The descriptor pair number j names g(2j) and g(2j+1). -/
inductive MSrc where
  | m (r : Fin 8)
  | sp (j : Fin 8)
  | queue (q : Fin 8)
  deriving DecidableEq, Repr

/-- What MST stores (R321). -/
inductive MstSrc where
  | m (r : Fin 8)
  | a (r : Fin 4)
  deriving DecidableEq, Repr

/-- What MZERO clears (R322). -/
inductive MzDst where
  | m (r : Fin 8)
  | a (r : Fin 4)
  | pv (r : Fin 4)
  deriving DecidableEq, Repr

/-- The steering token of MDRAIN (R326). -/
inductive DrainT where
  | reg (g : Fin 16)
  | queue (q : Fin 8)
  deriving DecidableEq, Repr

/-- The conversions of FCVT (R244). -/
inductive FcvtOp where
  | toInt (t : IntTy)
  | fromI64 | fromN64 | toBf16 | toFp16 | fromBf16 | fromFp16
  deriving DecidableEq, Repr

/-- The flag conditions of ACQ (R276). -/
inductive FlagCond where
  | eq | ne | ge
  deriving DecidableEq, Repr

/-- The transitions of WATCH (R366). -/
inductive WatchTr where
  | arr | last | flip
  deriving DecidableEq, Repr

/-- The predicate that a scalar or vector instruction writes: PD when PDE = 1. -/
abbrev PDst := Option (Fin 8)

/-- The predicate that a flow instruction writes, with its value IMM[11], when PSE = 1 (R248). -/
abbrev PSet := Option (Fin 8 × Bool)

/-- The steps of the device: the instructions of Tablek, then the events of opcode_table.json. The arguments of an
event name the party it happens to. -/
inductive Instr where
  -- class 000, scalar integer (R239)
  | add (ty : IntTy) (sat : Bool) (pd : PDst) (d s1 s2 : Fin 16)
  | sub (ty : IntTy) (sat : Bool) (pd : PDst) (d s1 s2 : Fin 16)
  | mul (ty : IntTy) (sat : Bool) (pd : PDst) (d s1 s2 : Fin 16)
  | mulh (ty : IntTy) (pd : PDst) (d s1 s2 : Fin 16)
  | div (ty : IntTy) (sat : Bool) (pd : PDst) (d s1 s2 : Fin 16)
  | rem (ty : IntTy) (pd : PDst) (d s1 s2 : Fin 16)
  | and (ty : IntTy) (pd : PDst) (d s1 s2 : Fin 16)
  | or (ty : IntTy) (pd : PDst) (d s1 s2 : Fin 16)
  | xor (ty : IntTy) (pd : PDst) (d s1 s2 : Fin 16)
  | andn (ty : IntTy) (pd : PDst) (d s1 s2 : Fin 16)
  | shl (ty : IntTy) (sat : Bool) (pd : PDst) (d s1 s2 : Fin 16)
  | shr (ty : IntTy) (pd : PDst) (d s1 s2 : Fin 16)
  | sar (ty : IntTy) (pd : PDst) (d s1 s2 : Fin 16)
  | min (ty : IntTy) (pd : PDst) (d s1 s2 : Fin 16)
  | max (ty : IntTy) (pd : PDst) (d s1 s2 : Fin 16)
  | clz (ty : IntTy) (pd : PDst) (d s1 : Fin 16)
  | popc (ty : IntTy) (pd : PDst) (d s1 : Fin 16)
  | bfx (sgn : Bool) (pos widm : Fin 64) (pd : PDst) (d s1 : Fin 16)
  | bfi (pos widm : Fin 64) (pd : PDst) (d s1 : Fin 16)
  | sel (p : Fin 8) (d s1 s2 : Fin 16)
  | cmp (ty : IntTy) (c : Cond) (pd : Fin 8) (s1 s2 : Fin 16)
  | widx (i : Fin 6) (pd : PDst) (d : Fin 16)
  -- class 000, scalar FP32 (R243, R244)
  | fadd (rm : Rm) (sat : Bool) (pd : PDst) (d s1 s2 : Fin 16)
  | fsub (rm : Rm) (sat : Bool) (pd : PDst) (d s1 s2 : Fin 16)
  | fmul (rm : Rm) (sat : Bool) (pd : PDst) (d s1 s2 : Fin 16)
  | ffma (rm : Rm) (sat : Bool) (pd : PDst) (d s1 s2 : Fin 16)
  | fmin (pd : PDst) (d s1 s2 : Fin 16)
  | fmax (pd : PDst) (d s1 s2 : Fin 16)
  | fcmp (c : Cond) (pd : Fin 8) (s1 s2 : Fin 16)
  | fcvt (op : FcvtOp) (rm : Rm) (sat : Bool) (pd : PDst) (d s1 : Fin 16)
  -- class 001 (R245, R246)
  | addi (ty : IntTy) (pd : PDst) (d s1 : Fin 16) (imm : BitVec 24)
  | movi (sgn : Bool) (pd : PDst) (d : Fin 16) (imm : BitVec 24)
  | movhi (q : Fin 4) (d : Fin 16) (imm : BitVec 16)
  | andi (sgn : Bool) (pd : PDst) (d s1 : Fin 16) (imm : BitVec 24)
  | ori (sgn : Bool) (pd : PDst) (d s1 : Fin 16) (imm : BitVec 24)
  | xori (sgn : Bool) (pd : PDst) (d s1 : Fin 16) (imm : BitVec 24)
  | shli (ty : IntTy) (pd : PDst) (d s1 : Fin 16) (n : Fin 64)
  | shri (ty : IntTy) (pd : PDst) (d s1 : Fin 16) (n : Fin 64)
  | cmpi (uns : Bool) (c : Cond) (pd : Fin 8) (s1 : Fin 16) (imm : BitVec 24)
  | pset (mask vals : BitVec 8)
  | plog (t : BitVec 4) (a b : Fin 8) (pd : Fin 8)
  | pmovRead (d : Fin 16)
  | pmovWrite (s1 : Fin 16) (mask : BitVec 8)
  -- class 010, loads, stores and prefetch (R265), objects by STB (R271), scratchpad (R272)
  | ld (ty : IntTy) (off : Off) (pol : Pol) (d s1 : Fin 16) (w : Wave)
  | st (ty : IntTy) (off : Off) (pol : Pol) (d s1 : Fin 16) (w : Wave)
  | ldb (off : Off) (pol : Pol) (d s1 : Fin 16) (w : Wave)
  | stb (off : Off) (pol : Pol) (d s1 : Fin 16) (w : Wave)
  | stbObj (off : BitVec 8) (pol : Pol) (d s1 : Fin 16) (w : Wave)
  | stbUnobj (off : BitVec 8) (pol : Pol) (s1 : Fin 16) (w : Wave)
  | pref (off : BitVec 8) (pol : Pol) (s1 : Fin 16) (w : Wave)
  | sld (ty : IntTy) (a : SpAddr) (d : Fin 16)
  | sst (ty : IntTy) (a : SpAddr) (d : Fin 16)
  | sldb (a : SpAddr) (d : Fin 16)
  | sstb (a : SpAddr) (d : Fin 16)
  -- class 010, atomics (R274)
  | afadd (sc : Scope) (w64 : Bool) (o : Ord4) (d s1 s2 : Fin 16) (w : Wave)
  | acas (sc : Scope) (w64 : Bool) (o : Ord4) (ford : Bool) (d s1 s2 : Fin 16) (w : Wave)
  | aswap (sc : Scope) (w64 : Bool) (o : Ord4) (d s1 s2 : Fin 16) (w : Wave)
  | amin (sc : Scope) (w64 : Bool) (o : Ord4) (sgn : Bool) (d s1 s2 : Fin 16) (w : Wave)
  | amax (sc : Scope) (w64 : Bool) (o : Ord4) (sgn : Bool) (d s1 s2 : Fin 16) (w : Wave)
  | aand (sc : Scope) (w64 : Bool) (o : Ord4) (d s1 s2 : Fin 16) (w : Wave)
  | aor (sc : Scope) (w64 : Bool) (o : Ord4) (d s1 s2 : Fin 16) (w : Wave)
  -- class 010, binding, synchronisation and cells (R275 to R284)
  | bind (d s1 s2 : Fin 16) (w : Wave)
  | unbind (s1 : Fin 16) (w : Wave)
  | unbindObj (s1 : Fin 16) (w : Wave)
  | acqLockWait (sc : Scope) (d s1 s2 : Fin 16) (w : Wave)
  | acqLockTry (sc : Scope) (d s1 s2 : Fin 16) (w : Wave)
  | acqFlagWait (c : FlagCond) (sc : Scope) (d s1 s2 : Fin 16) (w : Wave)
  | acqFlagAny (sc : Scope) (d s1 s2 : Fin 16) (w : Wave)
  | relLock (sc : Scope) (s1 s2 : Fin 16) (w : Wave)
  | relSet (sc : Scope) (s1 s2 : Fin 16) (w : Wave)
  | relAdd (sc : Scope) (s1 s2 : Fin 16) (w : Wave)
  | fenceRel (sc : Scope) (w : Wave)
  | fenceAcq (sc : Scope) (w : Wave)
  | fenceAr (sc : Scope) (w : Wave)
  | barr (sc : Scope) (d s1 s2 : Fin 16) (w : Wave)
  | barrNowait (sc : Scope) (d s1 s2 : Fin 16) (w : Wave)
  | sdec (sc : Scope) (d s1 s2 : Fin 16) (w : Wave)
  | sinc (sc : Scope) (d s1 s2 : Fin 16) (w : Wave)
  | rpush (sc : Scope) (nb : Bool) (pn : Fin 8) (s1 s2 : Fin 16) (w : Wave)
  | rpop (sc : Scope) (nb : Bool) (pn : Fin 8) (d s1 : Fin 16) (w : Wave)
  | csusp (d : Fin 8) (s1 s2 : Fin 16) (w : Wave)
  | cres (d s1 s2 : Fin 16) (w : Wave)
  | cresSp (d s1 s2 : Fin 16) (w : Wave)
  | ctag (d s1 : Fin 16) (w : Wave)
  | cpois (s1 s2 : Fin 16) (w : Wave)
  -- class 011, vector (R292 to R308)
  | vadd (g : Grp) (rm : Rm) (sat : Bool) (f : Fmt) (tsc : BitVec 8) (d s1 s2 : Fin 16)
  | vsub (g : Grp) (rm : Rm) (sat : Bool) (f : Fmt) (tsc : BitVec 8) (d s1 s2 : Fin 16)
  | vmul (g : Grp) (rm : Rm) (sat : Bool) (f : Fmt) (tsc : BitVec 8) (d s1 s2 : Fin 16)
  | vfma (g : Grp) (rm : Rm) (sat : Bool) (f : Fmt) (tsc : BitVec 8) (d s1 s2 : Fin 16)
  | vmin (g : Grp) (rm : Rm) (sat : Bool) (f : Fmt) (tsc : BitVec 8) (d s1 s2 : Fin 16)
  | vmax (g : Grp) (rm : Rm) (sat : Bool) (f : Fmt) (tsc : BitVec 8) (d s1 s2 : Fin 16)
  | vabs (g : Grp) (rm : Rm) (sat : Bool) (f : Fmt) (tsc : BitVec 8) (d s1 : Fin 16)
  | vneg (g : Grp) (rm : Rm) (sat : Bool) (f : Fmt) (tsc : BitVec 8) (d s1 : Fin 16)
  | vand (g : Grp) (d s1 s2 : Fin 16)
  | vor (g : Grp) (d s1 s2 : Fin 16)
  | vxor (g : Grp) (d s1 s2 : Fin 16)
  | vshl (g : Grp) (f : Fmt) (n : VAmount) (d s1 : Fin 16)
  | vshrLsr (g : Grp) (f : Fmt) (n : VAmount) (d s1 : Fin 16)
  | vshrAsr (g : Grp) (f : Fmt) (n : VAmount) (d s1 : Fin 16)
  | vcmp (g : Grp) (c : Cond) (uns : Bool) (f : Fmt) (pd : PDst) (d s1 s2 : Fin 16)
  | vsel (g : Grp) (f : Fmt) (d s1 s2 : Fin 16)
  | vrcp (g : Grp) (rm : Rm) (sat : Bool) (f : Fmt) (tsc : BitVec 8) (d s1 : Fin 16)
  | vrsq (g : Grp) (rm : Rm) (sat : Bool) (f : Fmt) (tsc : BitVec 8) (d s1 : Fin 16)
  | vexp2 (g : Grp) (rm : Rm) (sat : Bool) (f : Fmt) (tsc : BitVec 8) (d s1 : Fin 16)
  | vlog2 (g : Grp) (rm : Rm) (sat : Bool) (f : Fmt) (tsc : BitVec 8) (d s1 : Fin 16)
  | vcvt (g : Grp) (rm : Rm) (sat : Bool) (f : Fmt) (tsc : BitVec 8) (part : Fin 16) (d s1 : Fin 16)
  | vqnt (g : Grp) (rm : Rm) (sat : Bool) (f : Fmt) (d s1 : Fin 16)
  | vcbx (g : Grp) (part : Fin 16) (d s1 : Fin 16)
  | vred (op : RedOp) (g : Grp) (rm : Rm) (sat : Bool) (f : Fmt) (tsc : BitVec 8) (pd : PDst) (d s1 : Fin 16)
  | vscan (op : ScanOp) (g : Grp) (rm : Rm) (sat : Bool) (f : Fmt) (tsc : BitVec 8) (d s1 : Fin 16)
  | vperm (g : Grp) (f : Fmt) (d s1 s2 : Fin 16)
  | vbcast (g : Grp) (f : Fmt) (tsc : BitVec 8) (d s1 : Fin 16)
  | vbcastLane (g : Grp) (f : Fmt) (lane : BitVec 8) (d s1 : Fin 16)
  | viota (g : Grp) (f : Fmt) (tsc : BitVec 8) (d s1 : Fin 16)
  | vmovg (l : Fin 8) (d s1 : Fin 16)
  | vmovgIns (l : Fin 8) (d s1 : Fin 16)
  | vmovgCp (g : Grp) (d s1 : Fin 16)
  | vmovgPair (d s1 : Fin 16)
  -- class 100, matrix (R319 to R338)
  | mld (f : Fmt) (d : Fin 8) (sp : Fin 8) (gx : Fin 16)
  | mldQueue (d : Fin 8) (q : Fin 8) (gx : Fin 16)
  | mldt (f : Fmt) (d : Fin 8) (sp : Fin 8) (gx : Fin 16)
  | mst (f : Fmt) (rm : Rm) (sat : Bool) (sp : Fin 8) (src : MstSrc) (gx : Fin 16)
  | mzero (d : MzDst)
  | mma (fwd za : Bool) (f : Fmt) (d : Fin 4) (a b : MSrc) (gx : Fin 16)
  | mmat (fwd za : Bool) (f : Fmt) (d : Fin 4) (a b : MSrc) (gx : Fin 16)
  | macc (rm : Rm) (sat : Bool) (d s : Fin 4)
  | maccQueue (f : Fmt) (rm : Rm) (sat : Bool) (d : Fin 4) (q : Fin 8) (gx : Fin 16)
  | mdrain (f : Fmt) (rm : Rm) (sat : Bool) (oq : Fin 8) (a : Fin 4) (t : DrainT) (gx : Fin 16)
  | mluF (d : Fin 4) (pv : Fin 4) (n gx : Fin 16)
  | mluC (d : Fin 4) (pv : Fin 4) (n gx : Fin 16)
  | mchol (d : Fin 4) (n gx : Fin 16)
  | mqr (d : Fin 4) (pv : Fin 4) (n gx : Fin 16)
  | mtrsm (up unit right tr : Bool) (d s : Fin 4) (n : Fin 16)
  | mperm (cols inv : Bool) (d : Fin 4) (pv : Fin 4) (n : Fin 16)
  | mqapp (right tr : Bool) (d s : Fin 4) (pv : Fin 4) (gx : Fin 16)
  | mfst (d : Fin 16)
  | mfstHi (d : Fin 16)
  | mfstW (s : Fin 16)
  | mfstWhi (s : Fin 16)
  | mfstClr
  -- class 101, streams and engines (R343 to R357)
  | sspec (d s1 : Fin 16)
  | sbarWait (d s1 : Fin 16)
  | sbarCommit (d s1 s2 : Fin 16)
  | sbarFlush (d s1 : Fin 16)
  | sbarStop (d s1 : Fin 16)
  | sbarQuery (d s1 : Fin 16)
  | jcopy (d s1 : Fin 16) (w : Wave)
  | jgath (d s1 : Fin 16) (w : Wave)
  | jscat (d s1 : Fin 16) (w : Wave)
  | jcoll (d s1 : Fin 16) (w : Wave)
  | prom (d s1 : Fin 16)
  | waitb (s1 : Fin 16)
  | waitbJob (d s1 : Fin 16)
  | hist (d s1 s2 : Fin 16) (w : Wave)
  | histRd (d s1 : Fin 16) (w : Wave)
  | hoffer (d s1 s2 : Fin 16) (w : Wave)
  | hdump (d s1 s2 : Fin 16) (w : Wave)
  | hdumpClr (d s1 s2 : Fin 16) (w : Wave)
  | hdumpInit (d s1 s2 : Fin 16) (w : Wave)
  -- class 110, flow (R248 to R260)
  | hand (ps : PSet)
  | emit (oq : Fin 8) (src : EmitSrc) (ps : PSet)
  | deq (d : Fin 16) (q : Fin 8) (ps : PSet)
  | deqDiscard (q : Fin 8) (ps : PSet)
  | hdr (d : Fin 16) (q : Fin 8) (f : HField) (ps : PSet)
  | hdrOwn (d : Fin 16) (f : HField) (ps : PSet)
  | sethdr (f : HField) (s1 : Fin 16) (ps : PSet)
  | route (oq : Fin 8) (e : ImmOrG) (ps : PSet)
  | steer (p : Fin 8) (a b : Fin 8)
  | cancel (oq : Fin 8) (ps : PSet)
  | cancelSeq (oq : Fin 8) (s1 : Fin 16) (ps : PSet)
  | pull (q : Fin 8) (n : BitVec 11) (ps : PSet)
  | switch (c : ImmOrG) (ps : PSet)
  | splice (s1 : Fin 16) (ps : PSet)
  | nop (ps : PSet)
  -- class 111, system (R358 to R368)
  | trap (poi : Bool) (g : Option (Fin 16)) (imm : BitVec 16)
  | feat (d : Fin 16) (n : ImmOrG)
  | beat (d s1 : Fin 16)
  | beatB (d : Fin 16) (b : BitVec 16)
  | govn (d : Fin 16) (s : Fin 8)
  | cfg (d s1 s2 : Fin 16)
  | yield
  | exitl
  | exitlNow
  | rdctr (d : Fin 16) (c : Fin 11) (i : Fin 8)
  | watch (d s1 : Fin 16) (t : WatchTr) (once clr : Bool) (id : Fin 16)
  | rdbeat (d : Fin 16) (c : Fin 5)
  | ldcb (cb : Fin 16) (s1 : Fin 16)
  | ldcbV (cb : Fin 16) (v : Fin 16) (half : Bool)
  | rngseed (s1 : Fin 16)
  -- events
  | resultLatencyExpiry
  | answerDelivery (id : Nat)
  | configSwitchEnd (actor : Nat)
  | lineBoundary (line : Nat)
  | deferredBoundary (line : Nat)
  | bayConfigFetch (tile : Nat)
  | governorAdjustment (line : Nat)
  | waitbWake (actor : Nat)
  | flitSend (tile : Nat) (port : Fin 4)
  | flitArrival (id : Nat)
  | requestTokenArrival (id : Nat)
  | parkedDelivery (die : Nat) (dest : Nat)
  | homeAccess (id : Nat)
  | translationWalk (die : Nat)
  | migrationRewalk (die : Nat)
  | migrationTimeout (die : Nat)
  | firstTouch (id : Nat)
  | evaluationStart (die : Nat) (evid : Nat)
  | waiterJoin (id : Nat)
  | parking (die : Nat) (evid : Nat)
  | waking (die : Nat) (evid : Nat)
  | groupResolution (id : Nat)
  | evaluationAbandon (die : Nat) (evid : Nat) (cause : BitVec 8)
  | barrierWithdrawal (pa : Nat) (i : Nat)
  | launchRecordTake (die : Nat)
  | dispatch (die : Nat)
  | streamLoad (line : Nat) (ctx : Nat) (va : Word) (len : Nat)
  | configWriteEffect (tile : Nat)
  | lineExit (line : Nat)
  | graphEnd (graph : Nat)
  | resizeWidths (line : Nat)
  | regulatorPeriod (die : Nat)
  | budgetFreeze (die : Nat) (kind : Fin 6) (index : Nat)
  | ctrlThaw (ctx : Nat) (kind : BitVec 8) (index : Nat) (die : Fin 4)
  | ctrlTeardown (ctx : Nat)
  | ctrlInvalidate (ctx : Nat)
  | trapRecordWrite
  | ringStallTimeout
  | watchdogExpiry (line : Nat)
  | remoteTimeout (id : Nat)
  | streamElement (die : Nat) (engine : Nat)
  | jobStart (die : Nat) (engine : Nat)
  | jobElement (die : Nat) (engine : Nat)
  | jobCompletion (die : Nat) (engine : Nat)
  | collectiveTimeout (coll : Word)
  | linkResend (port : Nat)
  | routeEntryEffect (dev : Nat)
  | preemptDrainEnd (ctx : Nat)
  | debugStop (line : Nat)
  | intervalRecord (tile : Nat)
  | boot
  | healthUpdate (die : Nat)
  | thermalFreeze (die : Nat)
  | registerWrite (off : Nat) (v : Word)
  | devnumWrite (v : Word)
  | launchQueueEnable (die q : Nat) (w0 w1 : Word)
  | launchQueueDisable (die q : Nat) (w0 : Word)
  | invRange (w0 : Word)
  | invContext (w0 : Word)
  | invKeyId (w0 : Word)
  | preCmdPreempt (w0 : Word)
  | preCmdRestore (w0 : Word)
  | stopRequest (v : Word)
  | stopResume (v : Word)
  | hsyncRelSet (ctx : BitVec 8)
  | hsyncRelAdd (ctx : BitVec 8)
  | hsyncAcqEq (ctx : BitVec 8)
  | hsyncAcqNe (ctx : BitVec 8)
  | hsyncAcqGe (ctx : BitVec 8)
  | hsyncAcqAny (ctx : BitVec 8)
  | hsyncLockWait (ctx : BitVec 8)
  | hsyncLockTry (ctx : BitVec 8)
  | hsyncLockRel (ctx : BitVec 8)
  | replicaTableWrite (ctx ch : Nat) (v : BitVec 128)
  | routeTableWrite (word : Nat) (v : Word)
  | kemNew (ctx : BitVec 8)
  | kemSet (ctx : BitVec 8) (ct : Nat)
  | keyNew (ctx : BitVec 8)
  | attestationReport (nonce : BitVec 512) (ctx : BitVec 8)
  | measExtend (k : Nat) (digest : BitVec 512)
  | signerRegister (key : BitVec 512)
  | managementThaw (kind : BitVec 8) (index : Nat) (die : Fin 4) (ctx : Nat)
  | managementTeardown (ctx : Nat)
  | cacheLineEviction (rdc : Bool) (owner : Nat) (block : Nat)
  | storedByteError (block : Nat) (byte : Nat) (v : BitVec 8)
  | backgroundCorrection (block : Nat)
  | frameScrub (frame : Nat) (key : Nat)
  | scratchpadScrub (tile : Nat)
  | dirtyWriteback (tile : Nat) (block : Nat)
  | rdcWriteback (die : Nat) (block : Nat)
  | hostWindowRead (off : Nat) (n : Nat)
  | hostWindowWrite (off : Nat) (n : Nat) (data : Blk)
  | strayWindowAccess (off : Nat) (isWrite : Bool)
  | linkFrameReceive (port : Nat) (seq ack : BitVec 12) (crcOk : Bool) (flit : Blk)
  | portDown (port : Nat)
  | linkRetrain (port : Nat)
  deriving DecidableEq, Repr

end Sys2Proof
end

