-- ==== Sys2Proof/WellFormed.lean ====
section
/-! DEFINITION. Which instruction terms stand for an operation word: the value limits that the entries of chapters 8 to
12 state beyond the types of `Instr` (R239, R241, R276, R288 to R308, R318, R323, R327, R345 to R366). -/

namespace Sys2Proof

/-- A format with a scale of its own (R74, "Scaled"). -/
def Fmt.scaled : Fmt → Bool
  | .bf16 | .fp16 | .e4m3 | .e5m2 | .int8 | .cb _ => true
  | .raw | .fp32 | .int32 | .int64 => false

/-- The formats of the lane-wise arithmetic instructions (R292). -/
def Fmt.arith : Fmt → Bool
  | .fp32 | .bf16 | .fp16 | .e4m3 | .e5m2 | .int8 | .int32 | .int64 => true
  | .raw | .cb _ => false

/-- The integer formats (R293, R295). -/
def Fmt.isInt : Fmt → Bool
  | .int8 | .int32 | .int64 => true
  | _ => false

/-- The formats of the special functions (R298). -/
def Fmt.special : Fmt → Bool
  | .fp32 | .bf16 | .fp16 => true
  | _ => false

/-- The formats that fix a lane width of 8 bits or more (R297, R305, R306). -/
def Fmt.lanewise : Fmt → Bool
  | .cb _ => false
  | _ => true

/-- The target formats of VQNT (R301). -/
def Fmt.quant : Fmt → Bool
  | .bf16 | .fp16 | .e4m3 | .e5m2 | .int8 | .cb _ => true
  | _ => false

/-- The formats that name a width class of the matrix array (R313). -/
def Fmt.width : Fmt → Bool
  | .fp32 | .bf16 | .fp16 | .e4m3 | .e5m2 | .int8 | .cb _ => true
  | _ => false

/-- The target formats of MST from an accumulator and of MDRAIN (R321, R326). -/
def Fmt.target : Fmt → Bool
  | .fp32 | .bf16 | .fp16 | .e4m3 | .e5m2 | .int8 => true
  | _ => false

/-- A target scale that R288 accepts for a format. -/
def tscOk (f : Fmt) (t : BitVec 8) : Bool :=
  if f.scaled then t != 0xFF else t == 0x7F

/-- The number of registers of a group (R287). -/
def Grp.size : Grp → Nat
  | .one => 1
  | .two => 2
  | .four => 4

/-- The first register of a group has an index that is a multiple of the group's size (R287). -/
def Grp.aligned (g : Grp) (r : Fin 16) : Bool := r.val % g.size == 0

/-- A rounding mode and saturation that are both absent. -/
def noRound (rm : Rm) (sat : Bool) : Bool := rm == .rn && !sat

/-- Integer forms of the lane-wise arithmetic take RM 000 (R293). DESIGN CHOICE: the loader reports another RM as VALUE (R210;
notes/assumptions/130.md). -/
def laneRm (f : Fmt) (rm : Rm) : Bool := !f.isInt || rm == .rn

/-- Lanes of a register of a format (R286). -/
def Fmt.lanes : Fmt → Nat
  | .raw | .e4m3 | .e5m2 | .int8 => 64
  | .bf16 | .fp16 => 32
  | .fp32 | .int32 => 16
  | .int64 => 8
  | .cb _ => 128

/-- The per-lane amount register of a shift is group-aligned (R295). -/
def VAmount.ok (g : Grp) : VAmount → Bool
  | .imm _ => true
  | .lanes s => g.aligned s

/-- The conditions of an integer comparison (R241, R246, R296). -/
def Cond.intOk : Cond → Bool
  | .un => false
  | _ => true

/-- The second matrix operand of MMA and MMAT: a register or the scratchpad, a register when A is a queue (R323). -/
def mmaOk (fwd : Bool) (a b : MSrc) : Bool :=
  match a, b with
  | .queue _, .m _ => true
  | .queue _, _ => false
  | _, .queue _ => false
  | _, _ => !fwd

/-- The three-operand lane arithmetic (R292). -/
def vecOk (g : Grp) (rm : Rm) (f : Fmt) (t : BitVec 8) (rs : List (Fin 16)) : Bool :=
  f.arith && laneRm f rm && tscOk f t && rs.all g.aligned

/-- The term stands for an operation word of an instruction entry (R197). Events have no operation word. -/
def Instr.wellFormed : Instr → Bool
  | .bfx _ pos widm _ _ _ => pos.val + widm.val ≤ 63
  | .bfi pos widm _ _ _ => pos.val + widm.val ≤ 63
  | .cmp _ c _ _ _ => c.intOk
  | .cmpi _ c _ _ _ => c.intOk
  | .fcvt op rm sat _ _ _ =>
    match op with
    | .toInt _ | .fromI64 | .fromN64 | .toBf16 | .toFp16 => true
    | .fromBf16 | .fromFp16 => noRound rm sat
  | .vadd g rm _ f t d a b | .vsub g rm _ f t d a b | .vmul g rm _ f t d a b | .vfma g rm _ f t d a b =>
    vecOk g rm f t [d, a, b]
  | .vmin g rm _ f t d a b | .vmax g rm _ f t d a b => vecOk g rm f t [d, a, b]
  | .vabs g rm _ f t d a | .vneg g rm _ f t d a => vecOk g rm f t [d, a]
  | .vand g d a b | .vor g d a b | .vxor g d a b => [d, a, b].all g.aligned
  | .vshl g f n d a | .vshrLsr g f n d a | .vshrAsr g f n d a => f.isInt && [d, a].all g.aligned && n.ok g
  | .vcmp g c uns f _ d a b =>
    f.arith && [d, a, b].all g.aligned && !(c == .un && f.isInt) && !(uns && !f.isInt)
  | .vsel g f d a b => f.lanewise && [d, a, b].all g.aligned
  | .vrcp g _ _ f t d a | .vrsq g _ _ f t d a | .vexp2 g _ _ f t d a | .vlog2 g _ _ f t d a =>
    f.special && tscOk f t && [d, a].all g.aligned
  | .vcvt _ _ _ f t _ _ _ => f != .raw && tscOk f t
  | .vqnt _ _ _ f _ _ => f.quant
  | .vcbx g _ d _ => g.aligned d
  | .vred _ g rm _ f t _ _ a => vecOk g rm f t [a]
  | .vscan _ g rm _ f t d a => vecOk g rm f t [d, a]
  | .vperm g f d a b => f.lanewise && [d, a, b].all g.aligned
  | .vbcast g f t d _ => f.lanewise && tscOk f t && g.aligned d
  | .vbcastLane g f l d _ => f.lanewise && g.aligned d && decide (l.toNat < f.lanes)
  | .viota g f _ d _ => f.isInt && g.aligned d
  | .vmovgCp g d a => [d, a].all g.aligned
  | .mldt f _ _ _ => f.width
  | .mst f rm sat _ src _ =>
    match src with
    | .m _ => f == .raw && noRound rm sat
    | .a _ => f.target
  | .mma fwd _ f _ a b _ | .mmat fwd _ f _ a b _ => f.width && mmaOk fwd a b
  | .maccQueue f _ _ _ _ _ => f.special
  | .mdrain f _ _ _ _ _ _ => f.target
  | .mtrsm _ _ _ _ d s _ => d != s
  | .mqapp _ _ d s _ _ => d != s
  | .steer _ a b => a != b
  | .sethdr f _ _ =>
    match f with
    | .rtag | .fmt | .scale => false
    | _ => true
  | .switch c _ =>
    match c with
    | .imm n => n.val < 8
    | .reg _ => true
  | .pull _ n _ => n != 0
  | .beatB _ b => decide (8 ≤ b.toNat)
  | .acqFlagWait c _ _ _ _ _ => c == .ge || c == .eq || c == .ne
  | .rdctr _ c i =>
    if c.val == 1 || c.val == 9 then true else if c.val == 2 then i.val < 4 else i.val == 0
  | _ => true

end Sys2Proof
end

