-- ==== Sys2Proof/Decode.lean ====
section
/-! DEFINITION. Decoding an operation word (R193 to R209 and the entries of chapters 8 to 12), total on all 64-bit
words and refusing by the cause of R210 in the order of R224: opcode, variant, reserved bits, operands, values. After it
the encoder, from the same tables, and the two interfaces to the opcode table. -/

namespace Sys2Proof

/-- The refusal causes of the loader (R210, R215, R216, R224), with R374's LAUNCH. -/
inductive LoadCause where
  | streamForm | fieldReserved | opcodeUnassigned | variantReserved | reservedBits | operandClass
  | trigger | generator | wave | value | rework | feedback | launch
  deriving DecidableEq, Repr

/-- The code of a cause (R210, R215, R216, R224, R374). -/
def LoadCause.code : LoadCause → BitVec 8
  | .streamForm => 0x01
  | .fieldReserved => 0x02
  | .opcodeUnassigned => 0x03
  | .variantReserved => 0x04
  | .reservedBits => 0x05
  | .operandClass => 0x06
  | .trigger => 0x07
  | .generator => 0x08
  | .wave => 0x09
  | .value => 0x0A
  | .rework => 0x0B
  | .feedback => 0x0C
  | .launch => 0x0D

/-- Bits `pos + n − 1 : pos` of a word. -/
def fld (w pos n : Nat) : Nat := w / 2 ^ pos % 2 ^ n

/-- Bit `pos` of a word. -/
def bitAt (w pos : Nat) : Bool := fld w pos 1 == 1

/-- A check that refuses with a cause. -/
def req (b : Bool) (c : LoadCause) : Except LoadCause Unit := if b then .ok () else .error c

/-- The value, or a refusal with a cause. -/
def getOr {α : Type} (o : Option α) (c : LoadCause) : Except LoadCause α :=
  match o with
  | some a => .ok a
  | none => .error c

/-- The variant field. -/
def vari (w : Nat) : Nat := fld w 52 4
/-- The specifier D. -/
def dSp (w : Nat) : Nat := fld w 44 8
/-- The specifier S1. -/
def s1Sp (w : Nat) : Nat := fld w 36 8
/-- The specifier S2. -/
def s2Sp (w : Nat) : Nat := fld w 28 8

/-- The register of class `cls` with `n` indices that a specifier names (R194). -/
def regOf (cls n x : Nat) : Except LoadCause (Fin n) :=
  if h : x % 32 < n then
    if x / 32 = cls then .ok ⟨x % 32, h⟩ else .error .operandClass
  else .error .operandClass

/-- A g register. -/
def gOf (x : Nat) : Except LoadCause (Fin 16) := regOf 0 16 x
/-- A v register. -/
def vOf (x : Nat) : Except LoadCause (Fin 16) := regOf 1 16 x
/-- An m register. -/
def mOf (x : Nat) : Except LoadCause (Fin 8) := regOf 2 8 x
/-- An accumulator. -/
def aOf (x : Nat) : Except LoadCause (Fin 4) := regOf 3 4 x
/-- A pivot register. -/
def pvOf (x : Nat) : Except LoadCause (Fin 4) := regOf 4 4 x
/-- An input queue. -/
def iqOf (x : Nat) : Except LoadCause (Fin 8) := regOf 5 8 x
/-- An output queue. -/
def oqOf (x : Nat) : Except LoadCause (Fin 8) := regOf 6 8 x
/-- A codebook register (R195). -/
def cbOf (x : Nat) : Except LoadCause (Fin 16) := regOf 7 16 x
/-- A scratchpad descriptor pair: an even g index (R314). -/
def spOf (x : Nat) : Except LoadCause (Fin 8) :=
  if h : x / 2 < 8 then
    if x % 2 = 0 then .ok ⟨x / 2, h⟩ else .error .operandClass
  else .error .operandClass
/-- A vector register that starts a group (R288). -/
def vgOf (g : Grp) (x : Nat) : Except LoadCause (Fin 16) := do
  let r ← vOf x
  let _ ← req (g.aligned r) .operandClass
  return r

/-- A field of `n` bits as a number below 2^n. -/
def fin8 (w pos : Nat) : Fin 8 := ⟨fld w pos 3, Nat.mod_lt _ (by decide)⟩
/-- A 4-bit field. -/
def fin16 (w pos : Nat) : Fin 16 := ⟨fld w pos 4, Nat.mod_lt _ (by decide)⟩
/-- A 6-bit field. -/
def fin64 (w pos : Nat) : Fin 64 := ⟨fld w pos 6, Nat.mod_lt _ (by decide)⟩

/-- The integer type of a variant (R196). -/
def intTyOf (v : Nat) : Option IntTy :=
  match v with
  | 0 => some .i8
  | 1 => some .i16
  | 2 => some .i32
  | 3 => some .i64
  | 4 => some .n8
  | 5 => some .n16
  | 6 => some .n32
  | 7 => some .n64
  | _ => none

/-- The rounding mode of a code (R85). -/
def rmOf (v : Nat) : Option Rm :=
  match v with
  | 0 => some .rn
  | 1 => some .rz
  | 2 => some .ru
  | 3 => some .rd
  | 4 => some .rs
  | _ => none

/-- The condition of a code (R241). -/
def condOf (v : Nat) : Option Cond :=
  match v with
  | 0 => some .eq
  | 1 => some .ne
  | 2 => some .lt
  | 3 => some .le
  | 4 => some .gt
  | 5 => some .ge
  | 6 => some .un
  | _ => none

/-- A condition other than `.un`. -/
def intCondOf (v : Nat) : Option Cond := if v < 6 then condOf v else none

/-- The format of a code (R74). -/
def fmtOf (v : Nat) : Option Fmt :=
  if h : 0x40 ≤ v ∧ v < 0x50 then some (.cb ⟨v - 0x40, by omega⟩)
  else
    match v with
    | 0 => some .raw
    | 1 => some .fp32
    | 2 => some .bf16
    | 3 => some .fp16
    | 4 => some .e4m3
    | 5 => some .e5m2
    | 6 => some .int8
    | 7 => some .int32
    | 8 => some .int64
    | _ => none

/-- A format that a test accepts. -/
def fmtIf (p : Fmt → Bool) (v : Nat) : Option Fmt :=
  match fmtOf v with
  | some f => if p f then some f else none
  | none => none

/-- The group of GRP (R288). -/
def grpOf (v : Nat) : Option Grp :=
  match v with
  | 0 => some .one
  | 1 => some .two
  | 2 => some .four
  | _ => none

/-- The policy of POL (R63). -/
def polOf (v : Nat) : Pol :=
  match v with
  | 0 => .cached
  | 1 => .streaming
  | 2 => .homeOnly
  | _ => .uncached

/-- The order of ORD (R140). -/
def ordOf (v : Nat) : Ord4 :=
  match v with
  | 0 => .relaxed
  | 1 => .acquire
  | 2 => .release
  | _ => .acqRel

/-- The scope of a code (R133). -/
def scopeOf (v : Nat) : Option Scope := if h : v < 6 then some ⟨v, h⟩ else none

/-- The header field of a code (R252). -/
def hfieldOf (v : Nat) : Option HField :=
  match v with
  | 0 => some .wid
  | 1 => some .seq
  | 2 => some .rows
  | 3 => some .shape
  | 4 => some .ctag
  | 5 => some .rtag
  | 6 => some .fmt
  | 7 => some .scale
  | 8 => some .flags
  | _ => none

/-- The header fields that SETHDR may write (R252). -/
def setFieldOf (v : Nat) : Option HField :=
  match v with
  | 0 => some .wid
  | 1 => some .seq
  | 2 => some .rows
  | 3 => some .shape
  | 4 => some .ctag
  | 8 => some .flags
  | _ => none

/-- The wave triple in bits 23:0 (R206). -/
def waveOf (w : Nat) : Wave := ⟨BitVec.ofNat 8 (fld w 16 8), BitVec.ofNat 8 (fld w 8 8), BitVec.ofNat 8 (fld w 0 8)⟩

/-- The predicate destination in bits 27:24 of classes 000 and 001 (R198, R199). -/
def pdAt (w en pos : Nat) : PDst := if bitAt w en then some (fin8 w pos) else none

/-- An absent predicate destination leaves its number zero. -/
def pdClean (w en pos : Nat) : Bool := bitAt w en || fld w pos 3 == 0

/-- The reserved and unused bits of class 000 are zero (R198): the flags say which of RM, SAT, POS and WIDM are used. -/
def scalarClean (w : Nat) (rm sat pos wid : Bool) : Bool :=
  pdClean w 27 24 && (rm || fld w 21 3 == 0) && (sat || !bitAt w 20) && (pos || fld w 14 6 == 0) &&
    (wid || fld w 8 6 == 0) && fld w 0 8 == 0

/-- A three-operand integer instruction with saturation (R239). -/
def dec3s (w : Nat) (mk : IntTy → Bool → PDst → Fin 16 → Fin 16 → Fin 16 → Instr) : Except LoadCause Instr := do
  let ty ← getOr (intTyOf (vari w)) .variantReserved
  let _ ← req (scalarClean w false true false false) .reservedBits
  let d ← gOf (dSp w)
  let s1 ← gOf (s1Sp w)
  let s2 ← gOf (s2Sp w)
  return mk ty (bitAt w 20) (pdAt w 27 24) d s1 s2

/-- A three-operand integer instruction without saturation (R239). -/
def dec3 (w : Nat) (mk : IntTy → PDst → Fin 16 → Fin 16 → Fin 16 → Instr) : Except LoadCause Instr := do
  let ty ← getOr (intTyOf (vari w)) .variantReserved
  let _ ← req (scalarClean w false false false false) .reservedBits
  let d ← gOf (dSp w)
  let s1 ← gOf (s1Sp w)
  let s2 ← gOf (s2Sp w)
  return mk ty (pdAt w 27 24) d s1 s2

/-- CLZ and POPC: S2 is unused (R239). -/
def dec2 (w : Nat) (mk : IntTy → PDst → Fin 16 → Fin 16 → Instr) : Except LoadCause Instr := do
  let ty ← getOr (intTyOf (vari w)) .variantReserved
  let _ ← req (scalarClean w false false false false && s2Sp w == 0) .reservedBits
  let d ← gOf (dSp w)
  let s1 ← gOf (s1Sp w)
  return mk ty (pdAt w 27 24) d s1

/-- An FP32 instruction with RM and SAT (R243). -/
def decF (w : Nat) (mk : Rm → Bool → PDst → Fin 16 → Fin 16 → Fin 16 → Instr) : Except LoadCause Instr := do
  let _ ← req (vari w == 0) .variantReserved
  let _ ← req (scalarClean w true true false false) .reservedBits
  let d ← gOf (dSp w)
  let s1 ← gOf (s1Sp w)
  let s2 ← gOf (s2Sp w)
  let rm ← getOr (rmOf (fld w 21 3)) .value
  return mk rm (bitAt w 20) (pdAt w 27 24) d s1 s2

/-- FMIN and FMAX: RM and SAT must be zero (R243). -/
def decFm (w : Nat) (mk : PDst → Fin 16 → Fin 16 → Fin 16 → Instr) : Except LoadCause Instr := do
  let _ ← req (vari w == 0) .variantReserved
  let _ ← req (scalarClean w false false false false) .reservedBits
  let d ← gOf (dSp w)
  let s1 ← gOf (s1Sp w)
  let s2 ← gOf (s2Sp w)
  return mk (pdAt w 27 24) d s1 s2

/-- The conversion of FCVT's variant (R244). -/
def fcvtOf (v : Nat) : Option FcvtOp :=
  match v with
  | 8 => some .fromI64
  | 9 => some .fromN64
  | 10 => some .toBf16
  | 11 => some .toFp16
  | 12 => some .fromBf16
  | 13 => some .fromFp16
  | _ =>
    match intTyOf v with
    | some t => some (.toInt t)
    | none => none

/-- Whether FCVT takes SAT: integer targets ignore it, and it is accepted on every target but those of an exact conversion
(R87, R244). -/
def FcvtOp.usesSat : FcvtOp → Bool
  | .fromBf16 | .fromFp16 => false
  | _ => true

/-- Whether FCVT uses RM (R244). -/
def FcvtOp.usesRm : FcvtOp → Bool
  | .fromBf16 | .fromFp16 => false
  | _ => true

/-- Class 000 (R239 to R244). -/
def decode0 (op w : Nat) : Except LoadCause Instr :=
  match op with
  | 0x00 => dec3s w .add
  | 0x01 => dec3s w .sub
  | 0x02 => dec3s w .mul
  | 0x03 => dec3 w .mulh
  | 0x04 => dec3s w .div
  | 0x05 => dec3 w .rem
  | 0x06 => dec3 w .and
  | 0x07 => dec3 w .or
  | 0x08 => dec3 w .xor
  | 0x09 => dec3 w .andn
  | 0x0A => dec3s w .shl
  | 0x0B => dec3 w .shr
  | 0x0C => dec3 w .sar
  | 0x0D => dec3 w .min
  | 0x0E => dec3 w .max
  | 0x0F => dec2 w .clz
  | 0x10 => dec2 w .popc
  | 0x11 => do
    let _ ← req (vari w == 3 || vari w == 7) .variantReserved
    let _ ← req (scalarClean w false false true true && s2Sp w == 0) .reservedBits
    let d ← gOf (dSp w)
    let s1 ← gOf (s1Sp w)
    let _ ← req (fld w 14 6 + fld w 8 6 ≤ 63) .value
    return .bfx (vari w == 3) (fin64 w 14) (fin64 w 8) (pdAt w 27 24) d s1
  | 0x12 => do
    let _ ← req (vari w == 7) .variantReserved
    let _ ← req (scalarClean w false false true true && s2Sp w == 0) .reservedBits
    let d ← gOf (dSp w)
    let s1 ← gOf (s1Sp w)
    let _ ← req (fld w 14 6 + fld w 8 6 ≤ 63) .value
    return .bfi (fin64 w 14) (fin64 w 8) (pdAt w 27 24) d s1
  | 0x13 => do
    let _ ← req (vari w == 7) .variantReserved
    let _ ← req (fld w 0 24 == 0) .reservedBits
    let d ← gOf (dSp w)
    let s1 ← gOf (s1Sp w)
    let s2 ← gOf (s2Sp w)
    let _ ← req (!bitAt w 27) .value
    return .sel (fin8 w 24) d s1 s2
  | 0x14 => do
    let ty ← getOr (intTyOf (vari w)) .variantReserved
    let _ ← req (fld w 0 21 == 0 && dSp w == 0) .reservedBits
    let s1 ← gOf (s1Sp w)
    let s2 ← gOf (s2Sp w)
    let _ ← req (bitAt w 27) .value
    let c ← getOr (intCondOf (fld w 21 3)) .value
    return .cmp ty c (fin8 w 24) s1 s2
  | 0x15 => do
    let _ ← req (vari w == 7) .variantReserved
    let _ ← req (scalarClean w false false true false && s1Sp w == 0 && s2Sp w == 0) .reservedBits
    let d ← gOf (dSp w)
    if h : fld w 14 6 < 6 then return .widx ⟨fld w 14 6, h⟩ (pdAt w 27 24) d
    else .error .value
  | 0x16 => decF w .fadd
  | 0x17 => decF w .fsub
  | 0x18 => decF w .fmul
  | 0x19 => decF w .ffma
  | 0x1A => decFm w .fmin
  | 0x1B => decFm w .fmax
  | 0x1C => do
    let _ ← req (vari w == 0) .variantReserved
    let _ ← req (fld w 0 21 == 0 && dSp w == 0) .reservedBits
    let s1 ← gOf (s1Sp w)
    let s2 ← gOf (s2Sp w)
    let _ ← req (bitAt w 27) .value
    let c ← getOr (condOf (fld w 21 3)) .value
    return .fcmp c (fin8 w 24) s1 s2
  | 0x1D => do
    let o ← getOr (fcvtOf (vari w)) .variantReserved
    let _ ← req (scalarClean w o.usesRm o.usesSat false false && s2Sp w == 0) .reservedBits
    let d ← gOf (dSp w)
    let s1 ← gOf (s1Sp w)
    let rm ← getOr (rmOf (fld w 21 3)) .value
    return .fcvt o rm (bitAt w 20) (pdAt w 27 24) d s1
  | _ => .error .opcodeUnassigned

/-- The immediate of class 001. -/
def imm24 (w : Nat) : BitVec 24 := BitVec.ofNat 24 (fld w 0 24)

/-- ANDI, ORI and XORI (R245). -/
def decLogI (w : Nat) (mk : Bool → PDst → Fin 16 → Fin 16 → BitVec 24 → Instr) : Except LoadCause Instr := do
  let _ ← req (vari w == 3 || vari w == 7) .variantReserved
  let _ ← req (pdClean w 27 24 && s2Sp w == 0) .reservedBits
  let d ← gOf (dSp w)
  let s1 ← gOf (s1Sp w)
  return mk (vari w == 3) (pdAt w 27 24) d s1 (imm24 w)

/-- SHLI and SHRI (R245). -/
def decShI (w : Nat) (mk : IntTy → PDst → Fin 16 → Fin 16 → Fin 64 → Instr) : Except LoadCause Instr := do
  let ty ← getOr (intTyOf (vari w)) .variantReserved
  let _ ← req (pdClean w 27 24 && s2Sp w == 0 && fld w 6 18 == 0) .reservedBits
  let d ← gOf (dSp w)
  let s1 ← gOf (s1Sp w)
  return mk ty (pdAt w 27 24) d s1 (fin64 w 0)

/-- Class 001 (R245, R246). DESIGN CHOICE: a reserved condition of CMPI, which stands in the variant, is reported as VALUE (R210;
notes/assumptions/129.md). -/
def decode1 (op w : Nat) : Except LoadCause Instr :=
  match op with
  | 0x00 => do
    let ty ← getOr (intTyOf (vari w)) .variantReserved
    let _ ← req (pdClean w 27 24 && s2Sp w == 0) .reservedBits
    let d ← gOf (dSp w)
    let s1 ← gOf (s1Sp w)
    return .addi ty (pdAt w 27 24) d s1 (imm24 w)
  | 0x01 => do
    let _ ← req (vari w == 3 || vari w == 7) .variantReserved
    let _ ← req (pdClean w 27 24 && s1Sp w == 0 && s2Sp w == 0) .reservedBits
    let d ← gOf (dSp w)
    return .movi (vari w == 3) (pdAt w 27 24) d (imm24 w)
  | 0x02 => do
    let _ ← req (vari w < 4) .variantReserved
    let _ ← req (fld w 16 12 == 0 && s1Sp w == 0 && s2Sp w == 0) .reservedBits
    let d ← gOf (dSp w)
    return .movhi ⟨vari w % 4, Nat.mod_lt _ (by decide)⟩ d (BitVec.ofNat 16 (fld w 0 16))
  | 0x03 => decLogI w .andi
  | 0x04 => decLogI w .ori
  | 0x05 => decLogI w .xori
  | 0x06 => decShI w .shli
  | 0x07 => decShI w .shri
  | 0x08 => do
    let _ ← req (dSp w == 0 && s2Sp w == 0) .reservedBits
    let s1 ← gOf (s1Sp w)
    let _ ← req (bitAt w 27) .value
    let c ← getOr (intCondOf (vari w % 8)) .value
    return .cmpi (vari w / 8 == 1) c (fin8 w 24) s1 (imm24 w)
  | 0x09 => do
    let _ ← req (vari w == 0) .variantReserved
    let _ ← req (fld w 16 12 == 0 && dSp w == 0 && s1Sp w == 0 && s2Sp w == 0) .reservedBits
    return .pset (BitVec.ofNat 8 (fld w 0 8)) (BitVec.ofNat 8 (fld w 8 8))
  | 0x0A => do
    let _ ← req (fld w 6 18 == 0 && dSp w == 0 && s1Sp w == 0 && s2Sp w == 0) .reservedBits
    let _ ← req (bitAt w 27) .value
    return .plog (BitVec.ofNat 4 (vari w)) (fin8 w 0) (fin8 w 3) (fin8 w 24)
  | 0x0B => do
    let _ ← req (vari w < 2) .variantReserved
    if vari w == 0 then
      let _ ← req (fld w 0 28 == 0 && s1Sp w == 0 && s2Sp w == 0) .reservedBits
      let d ← gOf (dSp w)
      return .pmovRead d
    else
      let _ ← req (fld w 8 20 == 0 && dSp w == 0 && s2Sp w == 0) .reservedBits
      let s1 ← gOf (s1Sp w)
      return .pmovWrite s1 (BitVec.ofNat 8 (fld w 0 8))
  | _ => .error .opcodeUnassigned

/-- The address part of a load or store: `ordered` is the ORD code that the entry accepts beside 00 (R200, R265). -/
def offOf (w ordered : Nat) : Except LoadCause Off :=
  if fld w 26 2 = 0 then .ok (.plain (BitVec.ofNat 8 (s2Sp w)))
  else if fld w 26 2 = ordered then
    match scopeOf (fld w 28 3) with
    | some sc => .ok (.ordered sc)
    | none => .error .value
  else .error .value

/-- An ordered access keeps bits 7:3 of S2 zero (R200). -/
def offClean (w : Nat) : Bool := fld w 26 2 == 0 || fld w 31 5 == 0

/-- LD and ST (R265). -/
def decLdSt (w ordered : Nat) (mk : IntTy → Off → Pol → Fin 16 → Fin 16 → Wave → Instr) : Except LoadCause Instr := do
  let ty ← getOr (intTyOf (vari w)) .variantReserved
  let _ ← req (offClean w) .reservedBits
  let d ← gOf (dSp w)
  let s1 ← gOf (s1Sp w)
  let off ← offOf w ordered
  return mk ty off (polOf (fld w 24 2)) d s1 (waveOf w)

/-- The scratchpad address of S2 and S1 (R272). -/
def spAddrOf (w : Nat) : Except LoadCause SpAddr :=
  if s2Sp w = 0 then do
    let g ← gOf (s1Sp w)
    return .index g
  else .ok (.gen ⟨s2Sp w % 4, Nat.mod_lt _ (by decide)⟩)

/-- The unused bits of a scratchpad access (R272). -/
def spClean (w : Nat) : Bool :=
  fld w 0 28 == 0 && (s2Sp w == 0 || (s2Sp w / 4 == 1 && s1Sp w == 0))

/-- SLD and SST. -/
def decSp (w : Nat) (mk : IntTy → SpAddr → Fin 16 → Instr) : Except LoadCause Instr := do
  let ty ← getOr (intTyOf (vari w)) .variantReserved
  let _ ← req (spClean w) .reservedBits
  let d ← gOf (dSp w)
  let a ← spAddrOf w
  return mk ty a d

/-- SLDB and SSTB. -/
def decSpB (w : Nat) (mk : SpAddr → Fin 16 → Instr) : Except LoadCause Instr := do
  let _ ← req (vari w == 0) .variantReserved
  let _ ← req (spClean w) .reservedBits
  let d ← vOf (dSp w)
  let a ← spAddrOf w
  return mk a d

/-- An atomic (R274): `ford` and `sgn` say which of the two bits the entry uses. -/
def decAtomic (w : Nat) (ford sgn : Bool)
    (mk : Scope → Bool → Ord4 → Fin 16 → Fin 16 → Fin 16 → Wave → Instr) : Except LoadCause Instr := do
  let _ ← req ((ford || !bitAt w 25) && (sgn || !bitAt w 24)) .reservedBits
  let d ← gOf (dSp w)
  let s1 ← gOf (s1Sp w)
  let s2 ← gOf (s2Sp w)
  let sc ← getOr (scopeOf (fld w 53 3)) .value
  return mk sc (bitAt w 52) (ordOf (fld w 26 2)) d s1 s2 (waveOf w)

/-- The scope of a synchronising instruction of layout 4. -/
def sc4 (w : Nat) : Except LoadCause Scope := getOr (scopeOf (fld w 53 3)) .value

/-- SUB, bits 27:24. -/
def subF (w : Nat) : Nat := fld w 24 4

/-- BIND to CPOIS (R275). DESIGN CHOICE: a nonzero reserved bit 52, or a SCOPE where the entry has
none, is reported as VARIANT_RESERVED, since both are bits of the variant (R210; notes/assumptions/129.md). -/
def decode2b (op w : Nat) : Except LoadCause Instr :=
  match op with
  | 0x10 => do
    let _ ← req (vari w == 0) .variantReserved
    let d ← gOf (dSp w)
    let s1 ← gOf (s1Sp w)
    let s2 ← gOf (s2Sp w)
    let _ ← req (subF w == 0) .value
    return .bind d s1 s2 (waveOf w)
  | 0x11 => do
    let _ ← req (vari w == 0) .variantReserved
    let _ ← req (dSp w == 0 && s2Sp w == 0) .reservedBits
    let s1 ← gOf (s1Sp w)
    let _ ← req (subF w < 2) .value
    if subF w == 0 then return .unbind s1 (waveOf w) else return .unbindObj s1 (waveOf w)
  | 0x12 => do
    let _ ← req (!bitAt w 52) .variantReserved
    let d ← gOf (dSp w)
    let s1 ← gOf (s1Sp w)
    let s2 ← gOf (s2Sp w)
    let sc ← sc4 w
    match subF w with
    | 0 => return .acqLockWait sc d s1 s2 (waveOf w)
    | 1 => return .acqLockTry sc d s1 s2 (waveOf w)
    | 2 => return .acqFlagWait .ge sc d s1 s2 (waveOf w)
    | 3 => return .acqFlagAny sc d s1 s2 (waveOf w)
    | _ => .error .value
  | 0x13 => do
    let _ ← req (!bitAt w 52) .variantReserved
    let _ ← req (dSp w == 0) .reservedBits
    let s1 ← gOf (s1Sp w)
    let s2 ← gOf (s2Sp w)
    let sc ← sc4 w
    match subF w with
    | 0 => return .relSet sc s1 s2 (waveOf w)
    | 1 => return .relAdd sc s1 s2 (waveOf w)
    | _ => .error .value
  | 0x14 => do
    let _ ← req (!bitAt w 52) .variantReserved
    let _ ← req (dSp w == 0 && s1Sp w == 0 && s2Sp w == 0) .reservedBits
    let sc ← sc4 w
    match subF w with
    | 1 => return .fenceRel sc (waveOf w)
    | 2 => return .fenceAcq sc (waveOf w)
    | 3 => return .fenceAr sc (waveOf w)
    | _ => .error .value
  | 0x15 => do
    let _ ← req (!bitAt w 52) .variantReserved
    let d ← gOf (dSp w)
    let s1 ← gOf (s1Sp w)
    let s2 ← gOf (s2Sp w)
    let sc ← sc4 w
    match subF w with
    | 0 => return .barr sc d s1 s2 (waveOf w)
    | 1 => return .barrNowait sc d s1 s2 (waveOf w)
    | _ => .error .value
  | 0x16 => do
    let _ ← req (!bitAt w 52) .variantReserved
    let d ← gOf (dSp w)
    let s1 ← gOf (s1Sp w)
    let s2 ← gOf (s2Sp w)
    let sc ← sc4 w
    let _ ← req (subF w == 0) .value
    return .sdec sc d s1 s2 (waveOf w)
  | 0x17 => do
    let _ ← req (!bitAt w 52) .variantReserved
    let d ← gOf (dSp w)
    let s1 ← gOf (s1Sp w)
    let s2 ← gOf (s2Sp w)
    let sc ← sc4 w
    let _ ← req (subF w == 0) .value
    return .sinc sc d s1 s2 (waveOf w)
  | 0x18 => do
    let _ ← req (!bitAt w 52) .variantReserved
    let _ ← req (dSp w == 0) .reservedBits
    let s1 ← gOf (s1Sp w)
    let s2 ← vOf (s2Sp w)
    let sc ← sc4 w
    return .rpush sc (bitAt w 27) (fin8 w 24) s1 s2 (waveOf w)
  | 0x19 => do
    let _ ← req (!bitAt w 52) .variantReserved
    let _ ← req (s2Sp w == 0) .reservedBits
    let d ← vOf (dSp w)
    let s1 ← gOf (s1Sp w)
    let sc ← sc4 w
    return .rpop sc (bitAt w 27) (fin8 w 24) d s1 (waveOf w)
  | 0x1A => do
    let _ ← req (vari w == 0) .variantReserved
    let d ← spOf (dSp w)
    let s1 ← gOf (s1Sp w)
    let s2 ← gOf (s2Sp w)
    let _ ← req (subF w == 0) .value
    return .csusp d s1 s2 (waveOf w)
  | 0x1B => do
    let _ ← req (vari w == 0) .variantReserved
    let d ← gOf (dSp w)
    let s1 ← gOf (s1Sp w)
    if subF w == 1 then
      let s2 ← gOf (s2Sp w)
      return .cresSp d s1 s2 (waveOf w)
    else
      let s2 ← vOf (s2Sp w)
      let _ ← req (subF w == 0) .value
      return .cres d s1 s2 (waveOf w)
  | 0x1C => do
    let _ ← req (vari w == 0) .variantReserved
    let _ ← req (s2Sp w == 0) .reservedBits
    let d ← gOf (dSp w)
    let s1 ← gOf (s1Sp w)
    let _ ← req (subF w == 0) .value
    return .ctag d s1 (waveOf w)
  | 0x1D => do
    let _ ← req (vari w == 0) .variantReserved
    let _ ← req (dSp w == 0) .reservedBits
    let s1 ← gOf (s1Sp w)
    let s2 ← gOf (s2Sp w)
    let _ ← req (subF w == 0) .value
    return .cpois s1 s2 (waveOf w)
  | _ => .error .opcodeUnassigned

/-- Class 010 (R265, R272, R274, R275). -/
def decode2 (op w : Nat) : Except LoadCause Instr :=
  match op with
  | 0x00 => decLdSt w 1 .ld
  | 0x01 => decLdSt w 2 .st
  | 0x02 => do
    let _ ← req (vari w == 0) .variantReserved
    let _ ← req (offClean w) .reservedBits
    let d ← vOf (dSp w)
    let s1 ← gOf (s1Sp w)
    let off ← offOf w 1
    return .ldb off (polOf (fld w 24 2)) d s1 (waveOf w)
  | 0x03 => do
    let _ ← req (vari w < 3) .variantReserved
    let _ ← req (offClean w && (vari w < 2 || dSp w == 0)) .reservedBits
    match vari w with
    | 0 => do
      let d ← vOf (dSp w)
      let s1 ← gOf (s1Sp w)
      let off ← offOf w 2
      return .stb off (polOf (fld w 24 2)) d s1 (waveOf w)
    | 1 => do
      let d ← vOf (dSp w)
      let s1 ← gOf (s1Sp w)
      let _ ← req (fld w 26 2 == 0) .value
      return .stbObj (BitVec.ofNat 8 (s2Sp w)) (polOf (fld w 24 2)) d s1 (waveOf w)
    | _ => do
      let s1 ← gOf (s1Sp w)
      let _ ← req (fld w 26 2 == 0) .value
      return .stbUnobj (BitVec.ofNat 8 (s2Sp w)) (polOf (fld w 24 2)) s1 (waveOf w)
  | 0x04 => decSp w .sld
  | 0x05 => decSp w .sst
  | 0x06 => decSpB w .sldb
  | 0x07 => decSpB w .sstb
  | 0x08 => do
    let _ ← req (vari w == 0) .variantReserved
    let _ ← req (dSp w == 0) .reservedBits
    let s1 ← gOf (s1Sp w)
    let _ ← req (fld w 26 2 == 0) .value
    return .pref (BitVec.ofNat 8 (s2Sp w)) (polOf (fld w 24 2)) s1 (waveOf w)
  | 0x09 => decAtomic w false false .afadd
  | 0x0A => decAtomic w true false (fun sc b o d s1 s2 wv => .acas sc b o (bitAt w 25) d s1 s2 wv)
  | 0x0B => decAtomic w false false .aswap
  | 0x0C => decAtomic w false true (fun sc b o d s1 s2 wv => .amin sc b o (bitAt w 24) d s1 s2 wv)
  | 0x0D => decAtomic w false true (fun sc b o d s1 s2 wv => .amax sc b o (bitAt w 24) d s1 s2 wv)
  | 0x0E => decAtomic w false false .aand
  | 0x0F => decAtomic w false false .aor
  | _ => decode2b op w

/-- The target scale or immediate TSC of class 011 (R201). -/
def tscF (w : Nat) : BitVec 8 := BitVec.ofNat 8 (fld w 8 8)

/-- The group of a vector instruction (R288). -/
def vgrp (w : Nat) : Except LoadCause Grp := do
  let _ ← req (fld w 52 2 == 0) .variantReserved
  getOr (grpOf (fld w 54 2)) .variantReserved

/-- The unused fields of class 011 are zero: RM with SAT, FMT, TSC, PDE with PD, SUB (R201, R288). -/
def vecClean (w : Nat) (rm fmt tsc pd sub : Bool) : Bool :=
  (rm || fld w 24 4 == 0) && (fmt || fld w 16 8 == 0) && (tsc || fld w 8 8 == 0) &&
    (if pd then pdClean w 7 4 else fld w 4 4 == 0) && (sub || fld w 0 4 == 0)

/-- A format and its target scale, checked by R288. -/
def fmtTsc (p : Fmt → Bool) (w : Nat) : Except LoadCause Fmt := do
  let f ← getOr (fmtIf p (fld w 16 8)) .value
  let _ ← req (tscOk f (tscF w)) .value
  return f

/-- The rounding mode of classes 011 and 100. -/
def rmF (w : Nat) : Except LoadCause Rm := getOr (rmOf (fld w 25 3)) .value

/-- A three-operand lane-wise instruction (R292). -/
def decV3 (w : Nat) (mk : Grp → Rm → Bool → Fmt → BitVec 8 → Fin 16 → Fin 16 → Fin 16 → Instr) :
    Except LoadCause Instr := do
  let g ← vgrp w
  let _ ← req (vecClean w true true true false true) .reservedBits
  let d ← vgOf g (dSp w)
  let s1 ← vgOf g (s1Sp w)
  let s2 ← vgOf g (s2Sp w)
  let rm ← rmF w
  let f ← fmtTsc Fmt.arith w
  let _ ← req (laneRm f rm && fld w 0 4 == 0) .value
  return mk g rm (bitAt w 24) f (tscF w) d s1 s2

/-- A two-operand lane-wise instruction whose formats pass a test (R292, R298). -/
def decV2 (p : Fmt → Bool) (w : Nat) (mk : Grp → Rm → Bool → Fmt → BitVec 8 → Fin 16 → Fin 16 → Instr) :
    Except LoadCause Instr := do
  let g ← vgrp w
  let _ ← req (vecClean w true true true false true && s2Sp w == 0) .reservedBits
  let d ← vgOf g (dSp w)
  let s1 ← vgOf g (s1Sp w)
  let rm ← rmF w
  let f ← fmtTsc p w
  let _ ← req (laneRm f rm && fld w 0 4 == 0) .value
  return mk g rm (bitAt w 24) f (tscF w) d s1

/-- A logical vector instruction (R294). -/
def decVL (w : Nat) (mk : Grp → Fin 16 → Fin 16 → Fin 16 → Instr) : Except LoadCause Instr := do
  let g ← vgrp w
  let _ ← req (vecClean w false false false false true) .reservedBits
  let d ← vgOf g (dSp w)
  let s1 ← vgOf g (s1Sp w)
  let s2 ← vgOf g (s2Sp w)
  let _ ← req (fld w 0 4 == 0) .value
  return mk g d s1 s2

/-- A vector shift (R295): `maxSub` is the greatest SUB value. -/
def decVS (w maxSub : Nat) (mk : Grp → Fmt → VAmount → Fin 16 → Fin 16 → Instr) : Except LoadCause Instr := do
  let g ← vgrp w
  let _ ← req (vecClean w false true (s2Sp w == 0) false true) .reservedBits
  let d ← vgOf g (dSp w)
  let s1 ← vgOf g (s1Sp w)
  if s2Sp w == 0 then
    let f ← getOr (fmtIf Fmt.isInt (fld w 16 8)) .value
    let _ ← req (fld w 8 8 < 64 && fld w 0 4 ≤ maxSub) .value
    return mk g f (.imm (fin64 w 8)) d s1
  else
    let s2 ← vgOf g (s2Sp w)
    let f ← getOr (fmtIf Fmt.isInt (fld w 16 8)) .value
    let _ ← req (fld w 0 4 ≤ maxSub) .value
    return mk g f (.lanes s2) d s1

/-- A lane permutation or selection (R297, R305). -/
def decVP (w : Nat) (mk : Grp → Fmt → Fin 16 → Fin 16 → Fin 16 → Instr) : Except LoadCause Instr := do
  let g ← vgrp w
  let _ ← req (vecClean w false true false false true) .reservedBits
  let d ← vgOf g (dSp w)
  let s1 ← vgOf g (s1Sp w)
  let s2 ← vgOf g (s2Sp w)
  let f ← getOr (fmtIf Fmt.lanewise (fld w 16 8)) .value
  let _ ← req (fld w 0 4 == 0) .value
  return mk g f d s1 s2

/-- The reduction of SUB (R303). -/
def redOf (v : Nat) : Option RedOp :=
  match v with
  | 0 => some .sum
  | 1 => some .max
  | 2 => some .min
  | 3 => some .amax
  | _ => none

/-- The scan of SUB (R304). -/
def scanOf (v : Nat) : Option ScanOp :=
  match v with
  | 0 => some .sum
  | 1 => some .xsum
  | 2 => some .max
  | 3 => some .min
  | _ => none

/-- The forms of VMOVG (R308): only a copy takes a group, and only a form that names a lane uses TSC. -/
def decVmovg (w : Nat) : Except LoadCause Instr := do
  let g ← vgrp w
  let _ ← req (fld w 0 4 == 2 || g == .one) .variantReserved
  let _ ← req (vecClean w false false (fld w 0 4 != 2 && fld w 0 4 != 3) false true && s2Sp w == 0) .reservedBits
  match fld w 0 4 with
  | 0 =>
    let d ← gOf (dSp w)
    let s1 ← vOf (s1Sp w)
    let _ ← req (fld w 8 8 < 8) .value
    return .vmovg (fin8 w 8) d s1
  | 1 =>
    let d ← vOf (dSp w)
    let s1 ← gOf (s1Sp w)
    let _ ← req (fld w 8 8 < 8) .value
    return .vmovgIns (fin8 w 8) d s1
  | 2 =>
    let d ← vgOf g (dSp w)
    let s1 ← vgOf g (s1Sp w)
    return .vmovgCp g d s1
  | 3 =>
    let d ← vOf (dSp w)
    let s1 ← gOf (s1Sp w)
    return .vmovgPair d s1
  | _ => .error .value

/-- The conversions, reductions and moves of class 011 (R299 to R308). -/
def decode3b (op w : Nat) : Except LoadCause Instr :=
  match op with
  | 0x13 => do
    let g ← vgrp w
    let _ ← req (vecClean w true true true false true && s2Sp w == 0) .reservedBits
    let d ← vOf (dSp w)
    let s1 ← vOf (s1Sp w)
    let rm ← rmF w
    let f ← fmtTsc (fun f => f != .raw) w
    return .vcvt g rm (bitAt w 24) f (tscF w) (fin16 w 0) d s1
  | 0x14 => do
    let g ← vgrp w
    let _ ← req (vecClean w true true false false true && s2Sp w == 0) .reservedBits
    let d ← vOf (dSp w)
    let s1 ← vOf (s1Sp w)
    let rm ← rmF w
    let f ← getOr (fmtIf Fmt.quant (fld w 16 8)) .value
    let _ ← req (fld w 0 4 == 0) .value
    return .vqnt g rm (bitAt w 24) f d s1
  | 0x15 => do
    let g ← vgrp w
    let _ ← req (vecClean w false true false false true && s2Sp w == 0) .reservedBits
    let d ← vgOf g (dSp w)
    let s1 ← vOf (s1Sp w)
    let _ ← req (fld w 16 8 == 2) .value
    return .vcbx g (fin16 w 0) d s1
  | 0x16 => do
    let g ← vgrp w
    let _ ← req (vecClean w true true true true true && s2Sp w == 0) .reservedBits
    let d ← vOf (dSp w)
    let s1 ← vgOf g (s1Sp w)
    let rm ← rmF w
    let f ← fmtTsc Fmt.arith w
    let _ ← req (laneRm f rm) .value
    let o ← getOr (redOf (fld w 0 4)) .value
    return .vred o g rm (bitAt w 24) f (tscF w) (pdAt w 7 4) d s1
  | 0x17 => do
    let g ← vgrp w
    let _ ← req (vecClean w true true true false true && s2Sp w == 0) .reservedBits
    let d ← vgOf g (dSp w)
    let s1 ← vgOf g (s1Sp w)
    let rm ← rmF w
    let f ← fmtTsc Fmt.arith w
    let _ ← req (laneRm f rm) .value
    let o ← getOr (scanOf (fld w 0 4)) .value
    return .vscan o g rm (bitAt w 24) f (tscF w) d s1
  | 0x18 => decVP w .vperm
  | 0x19 => do
    let g ← vgrp w
    let _ ← req (vecClean w false true true false true && s2Sp w == 0) .reservedBits
    let d ← vgOf g (dSp w)
    if fld w 0 4 == 1 then
      let s1 ← vOf (s1Sp w)
      let f ← getOr (fmtIf Fmt.lanewise (fld w 16 8)) .value
      let _ ← req (decide ((tscF w).toNat < f.lanes)) .value
      return .vbcastLane g f (tscF w) d s1
    else
      let s1 ← gOf (s1Sp w)
      let f ← fmtTsc Fmt.lanewise w
      let _ ← req (fld w 0 4 == 0) .value
      return .vbcast g f (tscF w) d s1
  | 0x1A => do
    let g ← vgrp w
    let _ ← req (vecClean w false true true false true && s2Sp w == 0) .reservedBits
    let d ← vgOf g (dSp w)
    let s1 ← gOf (s1Sp w)
    let f ← getOr (fmtIf Fmt.isInt (fld w 16 8)) .value
    let _ ← req (fld w 0 4 == 0) .value
    return .viota g f (tscF w) d s1
  | 0x1B => decVmovg w
  | _ => .error .opcodeUnassigned

/-- Class 011 (R288 to R308). -/
def decode3 (op w : Nat) : Except LoadCause Instr :=
  match op with
  | 0x00 => decV3 w .vadd
  | 0x01 => decV3 w .vsub
  | 0x02 => decV3 w .vmul
  | 0x03 => decV3 w .vfma
  | 0x04 => decV3 w .vmin
  | 0x05 => decV3 w .vmax
  | 0x06 => decV2 Fmt.arith w .vabs
  | 0x07 => decV2 Fmt.arith w .vneg
  | 0x08 => decVL w .vand
  | 0x09 => decVL w .vor
  | 0x0A => decVL w .vxor
  | 0x0B => decVS w 0 .vshl
  | 0x0C => if fld w 0 4 = 1 then decVS w 1 .vshrAsr else decVS w 0 .vshrLsr
  | 0x0D => do
    let g ← vgrp w
    let _ ← req (vecClean w false true false true true) .reservedBits
    let d ← vgOf g (dSp w)
    let s1 ← vgOf g (s1Sp w)
    let s2 ← vgOf g (s2Sp w)
    let f ← getOr (fmtIf Fmt.arith (fld w 16 8)) .value
    let c ← getOr (condOf (fld w 0 3)) .value
    let _ ← req (!(c == .un && f.isInt) && !(bitAt w 3 && !f.isInt)) .value
    return .vcmp g c (bitAt w 3) f (pdAt w 7 4) d s1 s2
  | 0x0E => decVP w .vsel
  | 0x0F => decV2 Fmt.special w .vrcp
  | 0x10 => decV2 Fmt.special w .vrsq
  | 0x11 => decV2 Fmt.special w .vexp2
  | 0x12 => decV2 Fmt.special w .vlog2
  | _ => decode3b op w

/-- The unused fields of class 100 are zero: RM with SAT, FMT, GX; AUX and bits 7:0 always (R202, R327). -/
def matClean (w : Nat) (rm fmt gx : Bool) : Bool :=
  (rm || fld w 24 4 == 0) && (fmt || fld w 16 8 == 0) && (gx || fld w 12 4 == 0) && fld w 0 12 == 0

/-- A matrix source of MMA (R314). -/
def msrcOf (x : Nat) : Except LoadCause MSrc :=
  match x / 32 with
  | 0 => do
    let j ← spOf x
    return .sp j
  | 2 => do
    let r ← mOf x
    return .m r
  | 5 => do
    let q ← iqOf x
    return .queue q
  | _ => .error .operandClass

/-- MMA and MMAT (R323). -/
def decMma (w : Nat) (mk : Bool → Bool → Fmt → Fin 4 → MSrc → MSrc → Fin 16 → Instr) : Except LoadCause Instr := do
  let _ ← req (vari w < 4) .variantReserved
  let _ ← req (matClean w false true true) .reservedBits
  let d ← aOf (dSp w)
  let a ← msrcOf (s1Sp w)
  let b ← msrcOf (s2Sp w)
  let _ ← req (mmaOk false a b) .operandClass
  let f ← getOr (fmtIf Fmt.width (fld w 16 8)) .value
  let _ ← req (mmaOk (bitAt w 52) a b) .value
  return mk (bitAt w 52) (bitAt w 53) f d a b (fin16 w 12)

/-- MLU and MQR (R332, R334). -/
def decFac (w : Nat) (mk : Fin 4 → Fin 4 → Fin 16 → Fin 16 → Instr) : Except LoadCause Instr := do
  let _ ← req (matClean w false false true) .reservedBits
  let d ← aOf (dSp w)
  let p ← pvOf (s1Sp w)
  let n ← gOf (s2Sp w)
  return mk d p n (fin16 w 12)

/-- The factorisation, permutation and state instructions of class 100 (R332 to R338). -/
def decode4b (op w : Nat) : Except LoadCause Instr :=
  match op with
  | 0x08 => do
    let _ ← req (vari w < 2) .variantReserved
    if vari w == 0 then decFac w .mluF else decFac w .mluC
  | 0x09 => do
    let _ ← req (vari w == 0) .variantReserved
    let _ ← req (matClean w false false true && s1Sp w == 0) .reservedBits
    let d ← aOf (dSp w)
    let n ← gOf (s2Sp w)
    return .mchol d n (fin16 w 12)
  | 0x0A => do
    let _ ← req (vari w == 0) .variantReserved
    decFac w .mqr
  | 0x0B => do
    let _ ← req (matClean w false false false) .reservedBits
    let d ← aOf (dSp w)
    let s ← aOf (s1Sp w)
    let n ← gOf (s2Sp w)
    let _ ← req (d != s) .operandClass
    return .mtrsm (bitAt w 52) (bitAt w 53) (bitAt w 54) (bitAt w 55) d s n
  | 0x0C => do
    let _ ← req (vari w < 4) .variantReserved
    let _ ← req (matClean w false false false) .reservedBits
    let d ← aOf (dSp w)
    let p ← pvOf (s1Sp w)
    let n ← gOf (s2Sp w)
    return .mperm (bitAt w 52) (bitAt w 53) d p n
  | 0x0D => do
    let _ ← req (vari w < 4) .variantReserved
    let _ ← req (matClean w false false true) .reservedBits
    let d ← aOf (dSp w)
    let s ← aOf (s1Sp w)
    let p ← pvOf (s2Sp w)
    let _ ← req (d != s) .operandClass
    return .mqapp (bitAt w 53) (bitAt w 52) d s p (fin16 w 12)
  | 0x0E => do
    let _ ← req (vari w < 5) .variantReserved
    let _ ← req (matClean w false false false && s2Sp w == 0 && (vari w < 2 || dSp w == 0) &&
      (vari w == 2 || vari w == 3 || s1Sp w == 0)) .reservedBits
    match vari w with
    | 0 =>
      let d ← gOf (dSp w)
      return .mfst d
    | 1 =>
      let d ← gOf (dSp w)
      return .mfstHi d
    | 2 =>
      let s ← gOf (s1Sp w)
      return .mfstW s
    | 3 =>
      let s ← gOf (s1Sp w)
      return .mfstWhi s
    | _ => return .mfstClr
  | _ => .error .opcodeUnassigned

/-- Class 100 (R319 to R338). DESIGN CHOICE: a nonzero field that must be zero only in one form of an instruction is reported as VALUE
(R210; notes/assumptions/130.md). -/
def decode4 (op w : Nat) : Except LoadCause Instr :=
  match op with
  | 0x00 => do
    let _ ← req (vari w == 0) .variantReserved
    let _ ← req (matClean w false true true && s2Sp w == 0) .reservedBits
    let d ← mOf (dSp w)
    match s1Sp w / 32 with
    | 5 =>
      let q ← iqOf (s1Sp w)
      let _ ← req (fld w 16 8 == 0) .value
      return .mldQueue d q (fin16 w 12)
    | _ =>
      let j ← spOf (s1Sp w)
      let f ← getOr (fmtOf (fld w 16 8)) .value
      return .mld f d j (fin16 w 12)
  | 0x01 => do
    let _ ← req (vari w == 0) .variantReserved
    let _ ← req (matClean w false true true && s2Sp w == 0) .reservedBits
    let d ← mOf (dSp w)
    let j ← spOf (s1Sp w)
    let f ← getOr (fmtIf Fmt.width (fld w 16 8)) .value
    return .mldt f d j (fin16 w 12)
  | 0x02 => do
    let _ ← req (vari w == 0) .variantReserved
    let _ ← req (matClean w true true true && s2Sp w == 0) .reservedBits
    let j ← spOf (dSp w)
    match s1Sp w / 32 with
    | 3 =>
      let a ← aOf (s1Sp w)
      let rm ← rmF w
      let f ← getOr (fmtIf Fmt.target (fld w 16 8)) .value
      return .mst f rm (bitAt w 24) j (.a a) (fin16 w 12)
    | _ =>
      let m ← mOf (s1Sp w)
      let _ ← req (fld w 16 12 == 0) .value
      return .mst .raw .rn false j (.m m) (fin16 w 12)
  | 0x03 => do
    let _ ← req (vari w == 0) .variantReserved
    let _ ← req (matClean w false false false && s1Sp w == 0 && s2Sp w == 0) .reservedBits
    match dSp w / 32 with
    | 2 =>
      let r ← mOf (dSp w)
      return .mzero (.m r)
    | 3 =>
      let r ← aOf (dSp w)
      return .mzero (.a r)
    | _ =>
      let r ← pvOf (dSp w)
      return .mzero (.pv r)
  | 0x04 => decMma w .mma
  | 0x05 => decMma w .mmat
  | 0x06 => do
    let _ ← req (vari w == 0) .variantReserved
    let _ ← req (matClean w true true true && s2Sp w == 0) .reservedBits
    let d ← aOf (dSp w)
    match s1Sp w / 32 with
    | 5 =>
      let q ← iqOf (s1Sp w)
      let rm ← rmF w
      let f ← getOr (fmtIf Fmt.special (fld w 16 8)) .value
      return .maccQueue f rm (bitAt w 24) d q (fin16 w 12)
    | _ =>
      let s ← aOf (s1Sp w)
      let rm ← rmF w
      let _ ← req (fld w 12 12 == 0) .value
      return .macc rm (bitAt w 24) d s
  | 0x07 => do
    let _ ← req (vari w == 0) .variantReserved
    let _ ← req (matClean w true true true) .reservedBits
    let q ← oqOf (dSp w)
    let a ← aOf (s1Sp w)
    let rm ← rmF w
    let f ← getOr (fmtIf Fmt.target (fld w 16 8)) .value
    match s2Sp w / 32 with
    | 5 =>
      let t ← iqOf (s2Sp w)
      return .mdrain f rm (bitAt w 24) q a (.queue t) (fin16 w 12)
    | _ =>
      let t ← gOf (s2Sp w)
      return .mdrain f rm (bitAt w 24) q a (.reg t) (fin16 w 12)
  | _ => decode4b op w

/-- A job-card submission (R343). -/
def decJob (w : Nat) (mk : Fin 16 → Fin 16 → Wave → Instr) : Except LoadCause Instr := do
  let _ ← req (s2Sp w == 0) .reservedBits
  let d ← gOf (dSp w)
  let s1 ← gOf (s1Sp w)
  let _ ← req (subF w == 0) .value
  return mk d s1 (waveOf w)

/-- Class 101 (R343). -/
def decode5 (op w : Nat) : Except LoadCause Instr := do
  let _ ← req (op < 0x0B) .opcodeUnassigned
  let _ ← req (vari w == 0) .variantReserved
  match op with
  | 0x00 =>
    let _ ← req (fld w 0 24 == 0 && s2Sp w == 0) .reservedBits
    let d ← gOf (dSp w)
    let s1 ← gOf (s1Sp w)
    let _ ← req (subF w == 0) .value
    return .sspec d s1
  | 0x01 =>
    let _ ← req (fld w 0 24 == 0 && (subF w == 1 || s2Sp w == 0)) .reservedBits
    let d ← gOf (dSp w)
    let s1 ← gOf (s1Sp w)
    let s2 ← gOf (s2Sp w)
    match subF w with
    | 0 => return .sbarWait d s1
    | 1 => return .sbarCommit d s1 s2
    | 2 => return .sbarFlush d s1
    | 3 => return .sbarStop d s1
    | 4 => return .sbarQuery d s1
    | _ => .error .value
  | 0x02 => decJob w .jcopy
  | 0x03 => decJob w .jgath
  | 0x04 => decJob w .jscat
  | 0x05 => decJob w .jcoll
  | 0x06 =>
    let _ ← req (fld w 0 24 == 0 && s2Sp w == 0) .reservedBits
    let d ← gOf (dSp w)
    let s1 ← gOf (s1Sp w)
    let _ ← req (subF w == 0) .value
    return .prom d s1
  | 0x07 =>
    let _ ← req (fld w 0 24 == 0 && s2Sp w == 0 && (subF w == 1 || dSp w == 0)) .reservedBits
    let d ← gOf (dSp w)
    let s1 ← gOf (s1Sp w)
    match subF w with
    | 0 => return .waitb s1
    | 1 => return .waitbJob d s1
    | _ => .error .value
  | 0x08 =>
    let _ ← req (subF w == 0 || s2Sp w == 0) .reservedBits
    let d ← gOf (dSp w)
    let s1 ← gOf (s1Sp w)
    let s2 ← gOf (s2Sp w)
    match subF w with
    | 0 => return .hist d s1 s2 (waveOf w)
    | 1 => return .histRd d s1 (waveOf w)
    | _ => .error .value
  | 0x09 =>
    let d ← gOf (dSp w)
    let s1 ← gOf (s1Sp w)
    let s2 ← gOf (s2Sp w)
    let _ ← req (subF w == 0) .value
    return .hoffer d s1 s2 (waveOf w)
  | _ =>
    let d ← gOf (dSp w)
    let s1 ← gOf (s1Sp w)
    let s2 ← gOf (s2Sp w)
    match subF w with
    | 0 => return .hdump d s1 s2 (waveOf w)
    | 1 => return .hdumpClr d s1 s2 (waveOf w)
    | 2 => return .hdumpInit d s1 s2 (waveOf w)
    | _ => .error .value

/-- The predicate write of a flow instruction (R204, R248). -/
def psOf (w : Nat) : PSet := if bitAt w 15 then some (fin8 w 12, bitAt w 11) else none

/-- The unused fields of class 110 outside STEER: the exits, an absent predicate write, and the bits of IMM[10:0] at or
above `immBits` (R248). -/
def flowClean (w immBits : Nat) : Bool :=
  fld w 16 8 == 0 && (bitAt w 15 || fld w 11 4 == 0) && fld w immBits (11 - immBits) == 0

/-- Class 110 (R248 to R260). -/
def decode6 (op w : Nat) : Except LoadCause Instr := do
  let _ ← req (op < 0x0C) .opcodeUnassigned
  let _ ← req (vari w == 0) .variantReserved
  match op with
  | 0x00 =>
    let _ ← req (flowClean w 0 && dSp w == 0 && s1Sp w == 0 && s2Sp w == 0) .reservedBits
    let _ ← req (subF w == 0) .value
    return .hand (psOf w)
  | 0x01 =>
    let _ ← req (flowClean w 0 && s2Sp w == 0) .reservedBits
    let o ← oqOf (dSp w)
    match s1Sp w / 32 with
    | 1 =>
      let v ← vOf (s1Sp w)
      let _ ← req (subF w == 0) .value
      return .emit o (.reg v) (psOf w)
    | _ =>
      let q ← iqOf (s1Sp w)
      let _ ← req (subF w == 0) .value
      return .emit o (.queue q) (psOf w)
  | 0x02 =>
    let _ ← req (flowClean w 0 && s2Sp w == 0 && (subF w != 1 || dSp w == 0)) .reservedBits
    if subF w == 1 then
      let q ← iqOf (s1Sp w)
      return .deqDiscard q (psOf w)
    else
      let d ← vOf (dSp w)
      let q ← iqOf (s1Sp w)
      let _ ← req (subF w == 0) .value
      return .deq d q (psOf w)
  | 0x03 =>
    let _ ← req (flowClean w 4 && s2Sp w == 0 && (subF w != 1 || s1Sp w == 0)) .reservedBits
    let d ← gOf (dSp w)
    if subF w == 1 then
      let f ← getOr (hfieldOf (fld w 0 4)) .value
      return .hdrOwn d f (psOf w)
    else
      let q ← iqOf (s1Sp w)
      let _ ← req (subF w == 0) .value
      let f ← getOr (hfieldOf (fld w 0 4)) .value
      return .hdr d q f (psOf w)
  | 0x04 =>
    let _ ← req (flowClean w 4 && dSp w == 0 && s2Sp w == 0) .reservedBits
    let s1 ← gOf (s1Sp w)
    let _ ← req (subF w == 0) .value
    let f ← getOr (setFieldOf (fld w 0 4)) .value
    return .sethdr f s1 (psOf w)
  | 0x05 =>
    let _ ← req (flowClean w (if subF w == 0 then 4 else 0) && s2Sp w == 0 && (subF w == 1 || s1Sp w == 0)) .reservedBits
    let o ← oqOf (dSp w)
    match subF w with
    | 0 => return .route o (.imm (fin16 w 0)) (psOf w)
    | 1 =>
      let g ← gOf (s1Sp w)
      return .route o (.reg g) (psOf w)
    | _ => .error .value
  | 0x06 =>
    let _ ← req (subF w == 0 && fld w 0 12 == 0 && dSp w == 0 && s1Sp w == 0 && s2Sp w == 0 && bitAt w 23 &&
      bitAt w 19 && bitAt w 15 && fld w 20 3 != fld w 16 3) .value
    return .steer (fin8 w 12) (fin8 w 20) (fin8 w 16)
  | 0x07 =>
    let _ ← req (flowClean w 0 && s2Sp w == 0 && (subF w == 1 || s1Sp w == 0)) .reservedBits
    let o ← oqOf (dSp w)
    match subF w with
    | 0 => return .cancel o (psOf w)
    | 1 =>
      let g ← gOf (s1Sp w)
      return .cancelSeq o g (psOf w)
    | _ => .error .value
  | 0x08 =>
    let _ ← req (flowClean w 11 && dSp w == 0 && s2Sp w == 0) .reservedBits
    let q ← iqOf (s1Sp w)
    let _ ← req (subF w == 0 && fld w 0 11 != 0) .value
    return .pull q (BitVec.ofNat 11 (fld w 0 11)) (psOf w)
  | 0x09 =>
    let _ ← req (flowClean w (if subF w == 0 then 3 else 0) && dSp w == 0 && s2Sp w == 0 && (subF w == 1 || s1Sp w == 0))
      .reservedBits
    match subF w with
    | 0 => return .switch (.imm ⟨fld w 0 3, by have := Nat.mod_lt (w / 2 ^ 0) (show 0 < 2 ^ 3 by decide); unfold fld; omega⟩) (psOf w)
    | 1 =>
      let g ← gOf (s1Sp w)
      return .switch (.reg g) (psOf w)
    | _ => .error .value
  | 0x0A =>
    let _ ← req (flowClean w 0 && dSp w == 0 && s2Sp w == 0) .reservedBits
    let s1 ← gOf (s1Sp w)
    let _ ← req (subF w == 0) .value
    return .splice s1 (psOf w)
  | _ =>
    let _ ← req (flowClean w 0 && dSp w == 0 && s1Sp w == 0 && s2Sp w == 0) .reservedBits
    let _ ← req (subF w == 0) .value
    return .nop (psOf w)

/-- SEL, bits 27:16 of class 111 (R205). -/
def selF (w : Nat) : Nat := fld w 16 12
/-- IMM, bits 15:0 of class 111 (R205). -/
def immF (w : Nat) : Nat := fld w 0 16

/-- The index that RDCTR takes in IMM (R365). -/
def rdctrImmOk (c i : Nat) : Bool :=
  if c == 1 || c == 9 then i < 8 else if c == 2 then i < 4 else i == 0

/-- The register reads and line instructions of class 111 (R343). -/
def decode7b (op w : Nat) : Except LoadCause Instr :=
  match op with
  | 0x07 => do
    let _ ← req (s1Sp w == 0 && s2Sp w == 0) .reservedBits
    let d ← gOf (dSp w)
    if h : selF w < 11 then
      let _ ← req (rdctrImmOk (selF w) (immF w)) .value
      return .rdctr d ⟨selF w, h⟩ ⟨immF w % 8, Nat.mod_lt _ (by decide)⟩
    else .error .value
  | 0x08 => do
    let _ ← req (fld w 20 8 == 0 && s2Sp w == 0) .reservedBits
    let d ← gOf (dSp w)
    let s1 ← gOf (s1Sp w)
    let _ ← req (immF w < 16) .value
    match fld w 16 2 with
    | 0 => return .watch d s1 .arr (bitAt w 18) (bitAt w 19) (fin16 w 0)
    | 1 => return .watch d s1 .last (bitAt w 18) (bitAt w 19) (fin16 w 0)
    | 2 => return .watch d s1 .flip (bitAt w 18) (bitAt w 19) (fin16 w 0)
    | _ => .error .value
  | 0x09 => do
    let _ ← req (immF w == 0 && s1Sp w == 0 && s2Sp w == 0) .reservedBits
    let d ← gOf (dSp w)
    if h : selF w < 5 then return .rdbeat d ⟨selF w, h⟩ else .error .value
  | 0x0A => do
    let _ ← req (s2Sp w == 0 && (selF w == 1 || immF w == 0)) .reservedBits
    let c ← cbOf (dSp w)
    match selF w with
    | 0 =>
      let s1 ← gOf (s1Sp w)
      return .ldcb c s1
    | 1 =>
      let v ← vOf (s1Sp w)
      let _ ← req (immF w < 2) .value
      return .ldcbV c v (bitAt w 0)
    | _ => .error .value
  | 0x0B => do
    let _ ← req (immF w == 0 && dSp w == 0 && s2Sp w == 0) .reservedBits
    let s1 ← gOf (s1Sp w)
    let _ ← req (selF w == 0) .value
    return .rngseed s1
  | _ => .error .opcodeUnassigned

/-- Class 111 (R343). -/
def decode7 (op w : Nat) : Except LoadCause Instr := do
  let _ ← req (op < 0x0C) .opcodeUnassigned
  let _ ← req (vari w == 0) .variantReserved
  match op with
  | 0x00 =>
    let _ ← req (fld w 18 10 == 0 && dSp w == 0 && s2Sp w == 0 && (bitAt w 17 || s1Sp w == 0)) .reservedBits
    if bitAt w 17 then
      let g ← gOf (s1Sp w)
      return .trap (bitAt w 16) (some g) (BitVec.ofNat 16 (immF w))
    else return .trap (bitAt w 16) none (BitVec.ofNat 16 (immF w))
  | 0x01 =>
    let _ ← req (s2Sp w == 0 && (selF w == 1 || s1Sp w == 0) && (selF w == 0 || immF w == 0)) .reservedBits
    let d ← gOf (dSp w)
    match selF w with
    | 0 =>
      let _ ← req (immF w < 16) .value
      return .feat d (.imm (fin16 w 0))
    | 1 =>
      let g ← gOf (s1Sp w)
      return .feat d (.reg g)
    | _ => .error .value
  | 0x02 =>
    let _ ← req (s2Sp w == 0 && (selF w == 0 || s1Sp w == 0) && (selF w == 1 || immF w == 0)) .reservedBits
    let d ← gOf (dSp w)
    match selF w with
    | 0 =>
      let s1 ← gOf (s1Sp w)
      return .beat d s1
    | 1 =>
      let _ ← req (8 ≤ immF w) .value
      return .beatB d (BitVec.ofNat 16 (immF w))
    | _ => .error .value
  | 0x03 =>
    let _ ← req (immF w == 0 && s2Sp w == 0) .reservedBits
    let d ← gOf (dSp w)
    let j ← spOf (s1Sp w)
    let _ ← req (selF w == 0) .value
    return .govn d j
  | 0x04 =>
    let _ ← req (immF w == 0) .reservedBits
    let d ← gOf (dSp w)
    let s1 ← gOf (s1Sp w)
    let s2 ← gOf (s2Sp w)
    let _ ← req (selF w == 0) .value
    return .cfg d s1 s2
  | 0x05 =>
    let _ ← req (immF w == 0 && dSp w == 0 && s1Sp w == 0 && s2Sp w == 0) .reservedBits
    let _ ← req (selF w == 0) .value
    return .yield
  | 0x06 =>
    let _ ← req (immF w == 0 && dSp w == 0 && s1Sp w == 0 && s2Sp w == 0) .reservedBits
    match selF w with
    | 0 => return .exitl
    | 1 => return .exitlNow
    | _ => .error .value
  | _ => decode7b op w

/-- The instruction of an operation word, or the cause that refuses it. -/
def decodeNat (w : Nat) : Except LoadCause Instr :=
  match fld w 61 3 with
  | 0 => decode0 (fld w 56 5) w
  | 1 => decode1 (fld w 56 5) w
  | 2 => decode2 (fld w 56 5) w
  | 3 => decode3 (fld w 56 5) w
  | 4 => decode4 (fld w 56 5) w
  | 5 => decode5 (fld w 56 5) w
  | 6 => decode6 (fld w 56 5) w
  | _ => decode7 (fld w 56 5) w

/-- The instruction of an operation word (R193). -/
def decode (w : BitVec 64) : Except LoadCause Instr := decodeNat w.toNat

/-- A vacant slot (R209). -/
def vacantSlot : BitVec 96 := 0x00000000FFFFFFFFFFFFFFFF#96

/-! ## The encoder, from the same tables -/

/-- An operation word from its parts (R193). -/
def opWord (cls op var d s1 s2 low : Nat) : Nat :=
  (cls * 32 + op) * 2 ^ 56 + var * 2 ^ 52 + d * 2 ^ 44 + s1 * 2 ^ 36 + s2 * 2 ^ 28 + low

/-- The code of an integer type (R196). -/
def IntTy.code : IntTy → Nat
  | .i8 => 0
  | .i16 => 1
  | .i32 => 2
  | .i64 => 3
  | .n8 => 4
  | .n16 => 5
  | .n32 => 6
  | .n64 => 7

/-- The code of a rounding mode (R85). -/
def Rm.code : Rm → Nat
  | .rn => 0
  | .rz => 1
  | .ru => 2
  | .rd => 3
  | .rs => 4

/-- The code of a condition (R241). -/
def Cond.code : Cond → Nat
  | .eq => 0
  | .ne => 1
  | .lt => 2
  | .le => 3
  | .gt => 4
  | .ge => 5
  | .un => 6

/-- The code of a format (R74). -/
def Fmt.code : Fmt → Nat
  | .raw => 0
  | .fp32 => 1
  | .bf16 => 2
  | .fp16 => 3
  | .e4m3 => 4
  | .e5m2 => 5
  | .int8 => 6
  | .int32 => 7
  | .int64 => 8
  | .cb n => 0x40 + n.val

/-- The code of a group (R288). -/
def Grp.code : Grp → Nat
  | .one => 0
  | .two => 1
  | .four => 2

/-- The code of a policy (R63). -/
def Pol.code : Pol → Nat
  | .cached => 0
  | .streaming => 1
  | .homeOnly => 2
  | .uncached => 3

/-- The code of an order (R140). -/
def Ord4.code : Ord4 → Nat
  | .relaxed => 0
  | .acquire => 1
  | .release => 2
  | .acqRel => 3

/-- The code of a header field (R252). -/
def HField.code : HField → Nat
  | .wid => 0
  | .seq => 1
  | .rows => 2
  | .shape => 3
  | .ctag => 4
  | .rtag => 5
  | .fmt => 6
  | .scale => 7
  | .flags => 8

/-- The variant of an FCVT conversion (R244). -/
def FcvtOp.code : FcvtOp → Nat
  | .toInt t => t.code
  | .fromI64 => 8
  | .fromN64 => 9
  | .toBf16 => 10
  | .toFp16 => 11
  | .fromBf16 => 12
  | .fromFp16 => 13

/-- SUB of a reduction (R303). -/
def RedOp.code : RedOp → Nat
  | .sum => 0
  | .max => 1
  | .min => 2
  | .amax => 3

/-- SUB of a scan (R304). -/
def ScanOp.code : ScanOp → Nat
  | .sum => 0
  | .xsum => 1
  | .max => 2
  | .min => 3

/-- The SEL bits of a WATCH transition (R343). -/
def WatchTr.code : WatchTr → Nat
  | .arr => 0
  | .last => 1
  | .flip => 2

/-- A wave triple in bits 23:0 (R206). -/
def Wave.code (w : Wave) : Nat := w.s.toNat * 2 ^ 16 + w.p.toNat * 2 ^ 8 + w.n.toNat

/-- PDE and PD, placed with PD at `pos` and PDE at `pos + 3` (R198, R201). -/
def pdEnc (pd : PDst) (pos : Nat) : Nat :=
  match pd with
  | none => 0
  | some p => 2 ^ (pos + 3) + p.val * 2 ^ pos

/-- PSE, PS and IMM[11] (R204, R248). -/
def psEnc (ps : PSet) : Nat :=
  match ps with
  | none => 0
  | some (p, v) => 2 ^ 15 + p.val * 2 ^ 12 + v.toNat * 2 ^ 11

/-- The specifier of a v register. -/
def vSp (r : Fin 16) : Nat := 32 + r.val
/-- The specifier of an m register. -/
def mSp (r : Fin 8) : Nat := 64 + r.val
/-- The specifier of an accumulator. -/
def aSp (r : Fin 4) : Nat := 96 + r.val
/-- The specifier of a pivot register. -/
def pvSp (r : Fin 4) : Nat := 128 + r.val
/-- The specifier of an input queue. -/
def iqSp (q : Fin 8) : Nat := 160 + q.val
/-- The specifier of an output queue. -/
def oqSp (q : Fin 8) : Nat := 192 + q.val
/-- The specifier of a codebook. -/
def cbSp (c : Fin 16) : Nat := 224 + c.val
/-- The specifier of a scratchpad descriptor pair. -/
def spSp (j : Fin 8) : Nat := 2 * j.val
/-- The specifier of a matrix source. -/
def MSrc.sp' : MSrc → Nat
  | .m r => mSp r
  | .sp j => spSp j
  | .queue q => iqSp q

/-- A class 000 integer word with saturation. -/
def enc3s (op : Nat) (ty : IntTy) (sat : Bool) (pd : PDst) (d s1 s2 : Fin 16) : Nat :=
  opWord 0 op ty.code d.val s1.val s2.val (pdEnc pd 24 + sat.toNat * 2 ^ 20)
/-- A class 000 FP32 word. -/
def encF (op : Nat) (rm : Rm) (sat : Bool) (pd : PDst) (d s1 s2 : Fin 16) : Nat :=
  opWord 0 op 0 d.val s1.val s2.val (pdEnc pd 24 + rm.code * 2 ^ 21 + sat.toNat * 2 ^ 20)
/-- The variant of a two-way signedness: .i64 or .n64. -/
def sgn64 (sgn : Bool) : Nat := if sgn then 3 else 7
/-- S2 and ORD of a load or store; `ordered` is the ORD code of the ordered form (R200). -/
def offEnc (o : Off) (ordered : Nat) : Nat × Nat :=
  match o with
  | .plain b => (b.toNat, 0)
  | .ordered sc => (sc.val, ordered)
/-- A word of layout 1 (R200). -/
def enc2 (op var d : Nat) (off : Off) (ordered : Nat) (pol : Pol) (s1 : Fin 16) (w : Wave) : Nat :=
  opWord 2 op var d s1.val (offEnc off ordered).1 ((offEnc off ordered).2 * 2 ^ 26 + pol.code * 2 ^ 24 + w.code)
/-- A word of layout 2 (R200, R272). -/
def encSp (op var d : Nat) (a : SpAddr) : Nat :=
  match a with
  | .index g => opWord 2 op var d g.val 0 0
  | .gen n => opWord 2 op var d 0 (4 + n.val) 0
/-- A word of layout 3 (R200, R274). -/
def encAt (op : Nat) (sc : Scope) (w64 : Bool) (o : Ord4) (ford sgn : Bool) (d s1 s2 : Fin 16) (w : Wave) : Nat :=
  opWord 2 op (sc.val * 2 + w64.toNat) d.val s1.val s2.val
    (o.code * 2 ^ 26 + ford.toNat * 2 ^ 25 + sgn.toNat * 2 ^ 24 + w.code)
/-- A word of layout 4 (R200, R275). -/
def enc4 (op : Nat) (sc : Scope) (sub d s1 s2 : Nat) (w : Wave) : Nat :=
  opWord 2 op (sc.val * 2) d s1 s2 (sub * 2 ^ 24 + w.code)
/-- A word of class 011 (R201, R288). -/
def encV (op : Nat) (g : Grp) (d s1 s2 rm sat fmt tsc pd sub : Nat) : Nat :=
  opWord 3 op (g.code * 4) d s1 s2 (rm * 2 ^ 25 + sat * 2 ^ 24 + fmt * 2 ^ 16 + tsc * 2 ^ 8 + pd + sub)
/-- A lane-wise word of class 011 with every field. -/
def encVA (op : Nat) (g : Grp) (rm : Rm) (sat : Bool) (f : Fmt) (t : BitVec 8) (d s1 s2 sub : Nat) : Nat :=
  encV op g d s1 s2 rm.code sat.toNat f.code t.toNat 0 sub
/-- A shift of class 011 (R295). -/
def encVS (op sub : Nat) (g : Grp) (f : Fmt) (n : VAmount) (d s1 : Fin 16) : Nat :=
  match n with
  | .imm k => encV op g (vSp d) (vSp s1) 0 0 0 f.code k.val 0 sub
  | .lanes s2 => encV op g (vSp d) (vSp s1) (vSp s2) 0 0 f.code 0 0 sub
/-- A word of class 100 (R202). -/
def encM (op var d s1 s2 rm sat fmt gx : Nat) : Nat :=
  opWord 4 op var d s1 s2 (rm * 2 ^ 25 + sat * 2 ^ 24 + fmt * 2 ^ 16 + gx * 2 ^ 12)
/-- A word of class 101 (R203). -/
def enc5 (op sub d s1 s2 wave : Nat) : Nat := opWord 5 op 0 d s1 s2 (sub * 2 ^ 24 + wave)
/-- A word of class 110 (R204). -/
def enc6 (op sub d s1 s2 : Nat) (ps : PSet) (imm : Nat) : Nat := opWord 6 op 0 d s1 s2 (sub * 2 ^ 24 + psEnc ps + imm)
/-- A word of class 111 (R205). -/
def enc7 (op sel imm d s1 s2 : Nat) : Nat := opWord 7 op 0 d s1 s2 (sel * 2 ^ 16 + imm)
/-- SUB of a flag condition (R276). -/
def FlagCond.code : FlagCond → Nat
  | .eq => 0
  | .ne => 1
  | .ge => 2

/-- The operation word of an instruction; an event has none. -/
def encodeNat : Instr → Option Nat
  | .add ty sat pd d a b => some (enc3s 0x00 ty sat pd d a b)
  | .sub ty sat pd d a b => some (enc3s 0x01 ty sat pd d a b)
  | .mul ty sat pd d a b => some (enc3s 0x02 ty sat pd d a b)
  | .mulh ty pd d a b => some (enc3s 0x03 ty false pd d a b)
  | .div ty sat pd d a b => some (enc3s 0x04 ty sat pd d a b)
  | .rem ty pd d a b => some (enc3s 0x05 ty false pd d a b)
  | .and ty pd d a b => some (enc3s 0x06 ty false pd d a b)
  | .or ty pd d a b => some (enc3s 0x07 ty false pd d a b)
  | .xor ty pd d a b => some (enc3s 0x08 ty false pd d a b)
  | .andn ty pd d a b => some (enc3s 0x09 ty false pd d a b)
  | .shl ty sat pd d a b => some (enc3s 0x0A ty sat pd d a b)
  | .shr ty pd d a b => some (enc3s 0x0B ty false pd d a b)
  | .sar ty pd d a b => some (enc3s 0x0C ty false pd d a b)
  | .min ty pd d a b => some (enc3s 0x0D ty false pd d a b)
  | .max ty pd d a b => some (enc3s 0x0E ty false pd d a b)
  | .clz ty pd d a => some (opWord 0 0x0F ty.code d.val a.val 0 (pdEnc pd 24))
  | .popc ty pd d a => some (opWord 0 0x10 ty.code d.val a.val 0 (pdEnc pd 24))
  | .bfx sgn pos wid pd d a =>
    some (opWord 0 0x11 (sgn64 sgn) d.val a.val 0 (pdEnc pd 24 + pos.val * 2 ^ 14 + wid.val * 2 ^ 8))
  | .bfi pos wid pd d a => some (opWord 0 0x12 7 d.val a.val 0 (pdEnc pd 24 + pos.val * 2 ^ 14 + wid.val * 2 ^ 8))
  | .sel p d a b => some (opWord 0 0x13 7 d.val a.val b.val (p.val * 2 ^ 24))
  | .cmp ty c pd a b => some (opWord 0 0x14 ty.code 0 a.val b.val (pdEnc (some pd) 24 + c.code * 2 ^ 21))
  | .widx i pd d => some (opWord 0 0x15 7 d.val 0 0 (pdEnc pd 24 + i.val * 2 ^ 14))
  | .fadd rm sat pd d a b => some (encF 0x16 rm sat pd d a b)
  | .fsub rm sat pd d a b => some (encF 0x17 rm sat pd d a b)
  | .fmul rm sat pd d a b => some (encF 0x18 rm sat pd d a b)
  | .ffma rm sat pd d a b => some (encF 0x19 rm sat pd d a b)
  | .fmin pd d a b => some (encF 0x1A .rn false pd d a b)
  | .fmax pd d a b => some (encF 0x1B .rn false pd d a b)
  | .fcmp c pd a b => some (opWord 0 0x1C 0 0 a.val b.val (pdEnc (some pd) 24 + c.code * 2 ^ 21))
  | .fcvt o rm sat pd d a =>
    some (opWord 0 0x1D o.code d.val a.val 0 (pdEnc pd 24 + rm.code * 2 ^ 21 + sat.toNat * 2 ^ 20))
  | .addi ty pd d a imm => some (opWord 1 0x00 ty.code d.val a.val 0 (pdEnc pd 24 + imm.toNat))
  | .movi sgn pd d imm => some (opWord 1 0x01 (sgn64 sgn) d.val 0 0 (pdEnc pd 24 + imm.toNat))
  | .movhi q d imm => some (opWord 1 0x02 q.val d.val 0 0 imm.toNat)
  | .andi sgn pd d a imm => some (opWord 1 0x03 (sgn64 sgn) d.val a.val 0 (pdEnc pd 24 + imm.toNat))
  | .ori sgn pd d a imm => some (opWord 1 0x04 (sgn64 sgn) d.val a.val 0 (pdEnc pd 24 + imm.toNat))
  | .xori sgn pd d a imm => some (opWord 1 0x05 (sgn64 sgn) d.val a.val 0 (pdEnc pd 24 + imm.toNat))
  | .shli ty pd d a n => some (opWord 1 0x06 ty.code d.val a.val 0 (pdEnc pd 24 + n.val))
  | .shri ty pd d a n => some (opWord 1 0x07 ty.code d.val a.val 0 (pdEnc pd 24 + n.val))
  | .cmpi uns c pd a imm => some (opWord 1 0x08 (uns.toNat * 8 + c.code) 0 a.val 0 (pdEnc (some pd) 24 + imm.toNat))
  | .pset m v => some (opWord 1 0x09 0 0 0 0 (v.toNat * 2 ^ 8 + m.toNat))
  | .plog t a b pd => some (opWord 1 0x0A t.toNat 0 0 0 (pdEnc (some pd) 24 + b.val * 2 ^ 3 + a.val))
  | .pmovRead d => some (opWord 1 0x0B 0 d.val 0 0 0)
  | .pmovWrite a m => some (opWord 1 0x0B 1 0 a.val 0 m.toNat)
  | .ld ty off pol d a w => some (enc2 0x00 ty.code d.val off 1 pol a w)
  | .st ty off pol d a w => some (enc2 0x01 ty.code d.val off 2 pol a w)
  | .ldb off pol d a w => some (enc2 0x02 0 (vSp d) off 1 pol a w)
  | .stb off pol d a w => some (enc2 0x03 0 (vSp d) off 2 pol a w)
  | .stbObj off pol d a w => some (enc2 0x03 1 (vSp d) (.plain off) 2 pol a w)
  | .stbUnobj off pol a w => some (enc2 0x03 2 0 (.plain off) 2 pol a w)
  | .pref off pol a w => some (enc2 0x08 0 0 (.plain off) 1 pol a w)
  | .sld ty a d => some (encSp 0x04 ty.code d.val a)
  | .sst ty a d => some (encSp 0x05 ty.code d.val a)
  | .sldb a d => some (encSp 0x06 0 (vSp d) a)
  | .sstb a d => some (encSp 0x07 0 (vSp d) a)
  | .afadd sc b o d s1 s2 w => some (encAt 0x09 sc b o false false d s1 s2 w)
  | .acas sc b o f d s1 s2 w => some (encAt 0x0A sc b o f false d s1 s2 w)
  | .aswap sc b o d s1 s2 w => some (encAt 0x0B sc b o false false d s1 s2 w)
  | .amin sc b o g d s1 s2 w => some (encAt 0x0C sc b o false g d s1 s2 w)
  | .amax sc b o g d s1 s2 w => some (encAt 0x0D sc b o false g d s1 s2 w)
  | .aand sc b o d s1 s2 w => some (encAt 0x0E sc b o false false d s1 s2 w)
  | .aor sc b o d s1 s2 w => some (encAt 0x0F sc b o false false d s1 s2 w)
  | .bind d a b w => some (enc4 0x10 0 0 d.val a.val b.val w)
  | .unbind a w => some (enc4 0x11 0 0 0 a.val 0 w)
  | .unbindObj a w => some (enc4 0x11 0 1 0 a.val 0 w)
  | .acqLockWait sc d a b w => some (enc4 0x12 sc 0 d.val a.val b.val w)
  | .acqLockTry sc d a b w => some (enc4 0x12 sc 1 d.val a.val b.val w)
  | .acqFlagWait c sc d a b w => some (enc4 0x12 sc c.code d.val a.val b.val w)
  | .acqFlagAny sc d a b w => some (enc4 0x12 sc 3 d.val a.val b.val w)
  | .relLock sc a b w => some (enc4 0x13 sc 0 0 a.val b.val w)
  | .relSet sc a b w => some (enc4 0x13 sc 0 0 a.val b.val w)
  | .relAdd sc a b w => some (enc4 0x13 sc 1 0 a.val b.val w)
  | .fenceRel sc w => some (enc4 0x14 sc 1 0 0 0 w)
  | .fenceAcq sc w => some (enc4 0x14 sc 2 0 0 0 w)
  | .fenceAr sc w => some (enc4 0x14 sc 3 0 0 0 w)
  | .barr sc d a b w => some (enc4 0x15 sc 0 d.val a.val b.val w)
  | .barrNowait sc d a b w => some (enc4 0x15 sc 1 d.val a.val b.val w)
  | .sdec sc d a b w => some (enc4 0x16 sc 0 d.val a.val b.val w)
  | .sinc sc d a b w => some (enc4 0x17 sc 0 d.val a.val b.val w)
  | .rpush sc nb p a b w => some (enc4 0x18 sc (nb.toNat * 8 + p.val) 0 a.val (vSp b) w)
  | .rpop sc nb p d a w => some (enc4 0x19 sc (nb.toNat * 8 + p.val) (vSp d) a.val 0 w)
  | .csusp d a b w => some (enc4 0x1A 0 0 (spSp d) a.val b.val w)
  | .cres d a b w => some (enc4 0x1B 0 0 d.val a.val (vSp b) w)
  | .cresSp d a b w => some (enc4 0x1B 0 1 d.val a.val b.val w)
  | .ctag d a w => some (enc4 0x1C 0 0 d.val a.val 0 w)
  | .cpois a b w => some (enc4 0x1D 0 0 0 a.val b.val w)
  | .vadd g rm sat f t d a b => some (encVA 0x00 g rm sat f t (vSp d) (vSp a) (vSp b) 0)
  | .vsub g rm sat f t d a b => some (encVA 0x01 g rm sat f t (vSp d) (vSp a) (vSp b) 0)
  | .vmul g rm sat f t d a b => some (encVA 0x02 g rm sat f t (vSp d) (vSp a) (vSp b) 0)
  | .vfma g rm sat f t d a b => some (encVA 0x03 g rm sat f t (vSp d) (vSp a) (vSp b) 0)
  | .vmin g rm sat f t d a b => some (encVA 0x04 g rm sat f t (vSp d) (vSp a) (vSp b) 0)
  | .vmax g rm sat f t d a b => some (encVA 0x05 g rm sat f t (vSp d) (vSp a) (vSp b) 0)
  | .vabs g rm sat f t d a => some (encVA 0x06 g rm sat f t (vSp d) (vSp a) 0 0)
  | .vneg g rm sat f t d a => some (encVA 0x07 g rm sat f t (vSp d) (vSp a) 0 0)
  | .vand g d a b => some (encV 0x08 g (vSp d) (vSp a) (vSp b) 0 0 0 0 0 0)
  | .vor g d a b => some (encV 0x09 g (vSp d) (vSp a) (vSp b) 0 0 0 0 0 0)
  | .vxor g d a b => some (encV 0x0A g (vSp d) (vSp a) (vSp b) 0 0 0 0 0 0)
  | .vshl g f n d a => some (encVS 0x0B 0 g f n d a)
  | .vshrLsr g f n d a => some (encVS 0x0C 0 g f n d a)
  | .vshrAsr g f n d a => some (encVS 0x0C 1 g f n d a)
  | .vcmp g c uns f pd d a b =>
    some (encV 0x0D g (vSp d) (vSp a) (vSp b) 0 0 f.code 0 (pdEnc pd 4) (uns.toNat * 8 + c.code))
  | .vsel g f d a b => some (encV 0x0E g (vSp d) (vSp a) (vSp b) 0 0 f.code 0 0 0)
  | .vrcp g rm sat f t d a => some (encVA 0x0F g rm sat f t (vSp d) (vSp a) 0 0)
  | .vrsq g rm sat f t d a => some (encVA 0x10 g rm sat f t (vSp d) (vSp a) 0 0)
  | .vexp2 g rm sat f t d a => some (encVA 0x11 g rm sat f t (vSp d) (vSp a) 0 0)
  | .vlog2 g rm sat f t d a => some (encVA 0x12 g rm sat f t (vSp d) (vSp a) 0 0)
  | .vcvt g rm sat f t p d a => some (encVA 0x13 g rm sat f t (vSp d) (vSp a) 0 p.val)
  | .vqnt g rm sat f d a => some (encVA 0x14 g rm sat f 0 (vSp d) (vSp a) 0 0)
  | .vcbx g p d a => some (encV 0x15 g (vSp d) (vSp a) 0 0 0 2 0 0 p.val)
  | .vred o g rm sat f t pd d a =>
    some (encV 0x16 g (vSp d) (vSp a) 0 rm.code sat.toNat f.code t.toNat (pdEnc pd 4) o.code)
  | .vscan o g rm sat f t d a => some (encVA 0x17 g rm sat f t (vSp d) (vSp a) 0 o.code)
  | .vperm g f d a b => some (encV 0x18 g (vSp d) (vSp a) (vSp b) 0 0 f.code 0 0 0)
  | .vbcast g f t d a => some (encV 0x19 g (vSp d) a.val 0 0 0 f.code t.toNat 0 0)
  | .vbcastLane g f l d a => some (encV 0x19 g (vSp d) (vSp a) 0 0 0 f.code l.toNat 0 1)
  | .viota g f t d a => some (encV 0x1A g (vSp d) a.val 0 0 0 f.code t.toNat 0 0)
  | .vmovg l d a => some (encV 0x1B .one d.val (vSp a) 0 0 0 0 l.val 0 0)
  | .vmovgIns l d a => some (encV 0x1B .one (vSp d) a.val 0 0 0 0 l.val 0 1)
  | .vmovgCp g d a => some (encV 0x1B g (vSp d) (vSp a) 0 0 0 0 0 0 2)
  | .vmovgPair d a => some (encV 0x1B .one (vSp d) a.val 0 0 0 0 0 0 3)
  | .mld f d j gx => some (encM 0x00 0 (mSp d) (spSp j) 0 0 0 f.code gx.val)
  | .mldQueue d q gx => some (encM 0x00 0 (mSp d) (iqSp q) 0 0 0 0 gx.val)
  | .mldt f d j gx => some (encM 0x01 0 (mSp d) (spSp j) 0 0 0 f.code gx.val)
  | .mst f rm sat j src gx =>
    match src with
    | .m r => some (encM 0x02 0 (spSp j) (mSp r) 0 rm.code sat.toNat f.code gx.val)
    | .a r => some (encM 0x02 0 (spSp j) (aSp r) 0 rm.code sat.toNat f.code gx.val)
  | .mzero d =>
    match d with
    | .m r => some (encM 0x03 0 (mSp r) 0 0 0 0 0 0)
    | .a r => some (encM 0x03 0 (aSp r) 0 0 0 0 0 0)
    | .pv r => some (encM 0x03 0 (pvSp r) 0 0 0 0 0 0)
  | .mma fwd za f d a b gx => some (encM 0x04 (za.toNat * 2 + fwd.toNat) (aSp d) a.sp' b.sp' 0 0 f.code gx.val)
  | .mmat fwd za f d a b gx => some (encM 0x05 (za.toNat * 2 + fwd.toNat) (aSp d) a.sp' b.sp' 0 0 f.code gx.val)
  | .macc rm sat d s => some (encM 0x06 0 (aSp d) (aSp s) 0 rm.code sat.toNat 0 0)
  | .maccQueue f rm sat d q gx => some (encM 0x06 0 (aSp d) (iqSp q) 0 rm.code sat.toNat f.code gx.val)
  | .mdrain f rm sat q a t gx =>
    match t with
    | .reg g => some (encM 0x07 0 (oqSp q) (aSp a) g.val rm.code sat.toNat f.code gx.val)
    | .queue i => some (encM 0x07 0 (oqSp q) (aSp a) (iqSp i) rm.code sat.toNat f.code gx.val)
  | .mluF d p n gx => some (encM 0x08 0 (aSp d) (pvSp p) n.val 0 0 0 gx.val)
  | .mluC d p n gx => some (encM 0x08 1 (aSp d) (pvSp p) n.val 0 0 0 gx.val)
  | .mchol d n gx => some (encM 0x09 0 (aSp d) 0 n.val 0 0 0 gx.val)
  | .mqr d p n gx => some (encM 0x0A 0 (aSp d) (pvSp p) n.val 0 0 0 gx.val)
  | .mtrsm up unit right tr d s n =>
    some (encM 0x0B (tr.toNat * 8 + right.toNat * 4 + unit.toNat * 2 + up.toNat) (aSp d) (aSp s) n.val 0 0 0 0)
  | .mperm cols inv d p n => some (encM 0x0C (inv.toNat * 2 + cols.toNat) (aSp d) (pvSp p) n.val 0 0 0 0)
  | .mqapp right tr d s p gx => some (encM 0x0D (right.toNat * 2 + tr.toNat) (aSp d) (aSp s) (pvSp p) 0 0 0 gx.val)
  | .mfst d => some (encM 0x0E 0 d.val 0 0 0 0 0 0)
  | .mfstHi d => some (encM 0x0E 1 d.val 0 0 0 0 0 0)
  | .mfstW s => some (encM 0x0E 2 0 s.val 0 0 0 0 0)
  | .mfstWhi s => some (encM 0x0E 3 0 s.val 0 0 0 0 0)
  | .mfstClr => some (encM 0x0E 4 0 0 0 0 0 0 0)
  | .sspec d a => some (enc5 0x00 0 d.val a.val 0 0)
  | .sbarWait d a => some (enc5 0x01 0 d.val a.val 0 0)
  | .sbarCommit d a b => some (enc5 0x01 1 d.val a.val b.val 0)
  | .sbarFlush d a => some (enc5 0x01 2 d.val a.val 0 0)
  | .sbarStop d a => some (enc5 0x01 3 d.val a.val 0 0)
  | .sbarQuery d a => some (enc5 0x01 4 d.val a.val 0 0)
  | .jcopy d a w => some (enc5 0x02 0 d.val a.val 0 w.code)
  | .jgath d a w => some (enc5 0x03 0 d.val a.val 0 w.code)
  | .jscat d a w => some (enc5 0x04 0 d.val a.val 0 w.code)
  | .jcoll d a w => some (enc5 0x05 0 d.val a.val 0 w.code)
  | .prom d a => some (enc5 0x06 0 d.val a.val 0 0)
  | .waitb a => some (enc5 0x07 0 0 a.val 0 0)
  | .waitbJob d a => some (enc5 0x07 1 d.val a.val 0 0)
  | .hist d a b w => some (enc5 0x08 0 d.val a.val b.val w.code)
  | .histRd d a w => some (enc5 0x08 1 d.val a.val 0 w.code)
  | .hoffer d a b w => some (enc5 0x09 0 d.val a.val b.val w.code)
  | .hdump d a b w => some (enc5 0x0A 0 d.val a.val b.val w.code)
  | .hdumpClr d a b w => some (enc5 0x0A 1 d.val a.val b.val w.code)
  | .hdumpInit d a b w => some (enc5 0x0A 2 d.val a.val b.val w.code)
  | .hand ps => some (enc6 0x00 0 0 0 0 ps 0)
  | .emit o src ps =>
    match src with
    | .reg v => some (enc6 0x01 0 (oqSp o) (vSp v) 0 ps 0)
    | .queue q => some (enc6 0x01 0 (oqSp o) (iqSp q) 0 ps 0)
  | .deq d q ps => some (enc6 0x02 0 (vSp d) (iqSp q) 0 ps 0)
  | .deqDiscard q ps => some (enc6 0x02 1 0 (iqSp q) 0 ps 0)
  | .hdr d q f ps => some (enc6 0x03 0 d.val (iqSp q) 0 ps f.code)
  | .hdrOwn d f ps => some (enc6 0x03 1 d.val 0 0 ps f.code)
  | .sethdr f a ps => some (enc6 0x04 0 0 a.val 0 ps f.code)
  | .route o e ps =>
    match e with
    | .imm n => some (enc6 0x05 0 (oqSp o) 0 0 ps n.val)
    | .reg g => some (enc6 0x05 1 (oqSp o) g.val 0 ps 0)
  | .steer p a b => some (opWord 6 0x06 0 0 0 0
      (2 ^ 23 + a.val * 2 ^ 20 + 2 ^ 19 + b.val * 2 ^ 16 + 2 ^ 15 + p.val * 2 ^ 12))
  | .cancel o ps => some (enc6 0x07 0 (oqSp o) 0 0 ps 0)
  | .cancelSeq o a ps => some (enc6 0x07 1 (oqSp o) a.val 0 ps 0)
  | .pull q n ps => some (enc6 0x08 0 0 (iqSp q) 0 ps n.toNat)
  | .switch c ps =>
    match c with
    | .imm n => some (enc6 0x09 0 0 0 0 ps n.val)
    | .reg g => some (enc6 0x09 1 0 g.val 0 ps 0)
  | .splice a ps => some (enc6 0x0A 0 0 a.val 0 ps 0)
  | .nop ps => some (enc6 0x0B 0 0 0 0 ps 0)
  | .trap poi g imm =>
    match g with
    | none => some (enc7 0x00 poi.toNat imm.toNat 0 0 0)
    | some r => some (enc7 0x00 (2 + poi.toNat) imm.toNat 0 r.val 0)
  | .feat d n =>
    match n with
    | .imm k => some (enc7 0x01 0 k.val d.val 0 0)
    | .reg g => some (enc7 0x01 1 0 d.val g.val 0)
  | .beat d a => some (enc7 0x02 0 0 d.val a.val 0)
  | .beatB d b => some (enc7 0x02 1 b.toNat d.val 0 0)
  | .govn d j => some (enc7 0x03 0 0 d.val (spSp j) 0)
  | .cfg d a b => some (enc7 0x04 0 0 d.val a.val b.val)
  | .yield => some (enc7 0x05 0 0 0 0 0)
  | .exitl => some (enc7 0x06 0 0 0 0 0)
  | .exitlNow => some (enc7 0x06 1 0 0 0 0)
  | .rdctr d c i => some (enc7 0x07 c.val i.val d.val 0 0)
  | .watch d a t once clr i => some (enc7 0x08 (clr.toNat * 8 + once.toNat * 4 + t.code) i.val d.val a.val 0)
  | .rdbeat d c => some (enc7 0x09 c.val 0 d.val 0 0)
  | .ldcb c a => some (enc7 0x0A 0 0 (cbSp c) a.val 0)
  | .ldcbV c v h => some (enc7 0x0A 1 h.toNat (cbSp c) (vSp v) 0)
  | .rngseed a => some (enc7 0x0B 0 0 0 a.val 0)
  | _ => none

/-- The operation word of an instruction (R193). -/
def encode (i : Instr) : Option (BitVec 64) := (encodeNat i).map (BitVec.ofNat 64)

/-- Where rows of the opcode table share their words (R276, R277: the kind of the object tells them apart), the row that
the decoder names. -/
def Instr.canonical : Instr → Instr
  | .acqFlagWait .eq sc d a b w => .acqLockWait sc d a b w
  | .acqFlagWait .ne sc d a b w => .acqLockTry sc d a b w
  | .relLock sc a b w => .relSet sc a b w
  | i => i

/-- A slot from its trigger and operation words (R190). -/
def slotOf (trig : BitVec 32) (op : BitVec 64) : BitVec 96 := trig ++ op

/-- The operation word of a slot (R190). -/
def slotOp (s : BitVec 96) : BitVec 64 := s.extractLsb' 0 64

/-- The trigger word of a slot (R190). -/
def slotTrig (s : BitVec 96) : BitVec 32 := s.extractLsb' 64 32

/-- The slot that the opcode table's bit numbering names: the operation word is bits 63:0 and the trigger word, when
the row gives it, bits 95:64. -/
def tableSlot (nbits w : Nat) : BitVec 96 := BitVec.ofNat 96 (w % 2 ^ nbits)

/-- The instruction that the decoder reads from a slot given in the opcode table's numbering. -/
def decodeTableWord (nbits w : Nat) : Option Instr :=
  match decode (slotOp (tableSlot nbits w)) with
  | .ok i => some i
  | .error _ => none

end Sys2Proof
end

