-- ==== Sys2Proof/Config.lean ====
section
/-! DEFINITION. What one GX-4 part fixes: the figures of the spec, and the values that the spec leaves open, as constants
without a body. A free value is applied to the counter `fresh` of the state or to the operands it depends on, and no
proof can know it (notes/assumptions/2.md, 3.md and 4.md). -/

namespace Sys2Proof.Config

/-- Compute dies (R2). -/
def dies : Nat := 4
/-- Tiles of one die: 16 columns by 12 rows (R2). -/
def tilesPerDie : Nat := 192
/-- Columns of tiles of one die (R2). -/
def columns : Nat := 16
/-- Rows of tiles of one die (R2). -/
def rows : Nat := 12
/-- First unbacked offset of the GDDR-7 tier of a die (R13). -/
def gddrUsable : Nat := 0x0FC0000000
/-- First unbacked offset of the LPDDR-6 tier of a die (R13). -/
def lpddrUsable : Nat := 0x5400000000
/-- Bytes of a tile's scratchpad (R38, R42). -/
def spBytes : Nat := 0xC0000
/-- Flits of a station's hold store (R169). -/
def holdFlits : Nat := 512
/-- Data flits of one item at most (R70). -/
def itemFlits : Nat := 256
/-- Flits of one input queue or of one pass-through path (R187, R188). -/
def queueFlits : Nat := 16
/-- Accesses that a wave buffer holds (R135). -/
def waveBuffer : Nat := 32
/-- Outstanding translation misses of a die (R32). -/
def missSlots : Nat := 4096
/-- Walks that a die has in progress at a time (R30, R32). -/
def walkers : Nat := 64
/-- Entries of a tile TLB (R30). -/
def tileTlbEntries : Nat := 128
/-- Sets and ways of a tile's L1 of 320 KiB (R3, R56). -/
def l1Sets : Nat := 256
def l1Ways : Nat := 20
/-- Sets and ways of a die's RDC of 32 MiB (R3, R65). -/
def rdcSets : Nat := 65536
def rdcWays : Nat := 8
/-- Sets and ways of one of the 32 slices of a die's L2, 4 MiB each (R3, R59). -/
def l2Sets : Nat := 4096
def l2Ways : Nat := 16
/-- Sets and ways of a die TLB of 32,768 entries (R30). -/
def tlbSets : Nat := 4096
def tlbWays : Nat := 8
/-- Entries of a die's table-pointer cache (R30). -/
def tablePointers : Nat := 1024
/-- Bytes of a die configuration cache (R39). -/
def cfgCacheBytes : Nat := 0x200000
/-- Cycles between re-walks of a migrating page (R35). -/
def rewalkCycles : Nat := 4096
/-- Cycles after which a wait for a migrating page fails (R35). -/
def migrationCycles : Nat := 131072
/-- Evaluation records of a die (R108). -/
def evalRecords : Nat := 4096
/-- Entries of a die waiter table (R113). -/
def dieWaiters : Nat := 65536
/-- Entries of the die waiter table that are kept for evaluations (R113). -/
def dieWaitersKept : Nat := 1024
/-- Entries of a die's sync wait table (R270). -/
def syncWaits : Nat := 16384
/-- Entries of a die's ready queue (R377). -/
def readyEntries : Nat := 4096
/-- Flits of a die's parking store (R393). -/
def parkFlits : Nat := 4096
/-- Entries of a die's cancel table (R396). -/
def cancelEntries : Nat := 1024
/-- Items of an ordered sink's reorder store (R180). -/
def sinkStore : Nat := 64
/-- Cycles that a writer stalls on a full ring before its record is dropped (R406). -/
def ringStall : Nat := 65536
/-- Frames of a port's replay buffer (R429). -/
def replayFrames : Nat := 1024
/-- Cycles of a regulator period (R385). -/
def period : Nat := 4096
/-- Cycles of a SWITCH (R183). -/
def switchCycles : Nat := 4

-- FREE VALUES: none of these constants has a body.

/-- Further cycles of a latency that the spec does not architect (R32, R172, R285, R369, R381). -/
opaque latency : Nat → Nat
/-- A 64-bit value that the spec leaves open. -/
opaque freeWord : Nat → Word
/-- Bytes without meaning (R41, R128) and replies of other devices. -/
opaque freeBlk : Nat → Blk
/-- A choice that the spec leaves open. -/
opaque freeBool : Nat → Bool
/-- The set of an RDC in which a block lies, of an L2 slice, and of a die TLB for a page: their selection is internal
(R30, R59, R65). -/
opaque rdcSet : Nat → Nat
opaque l2Set : Nat → Nat
opaque tlbSet : (ctx page : Nat) → Nat
/-- The line that a full set gives up when a block is allocated in it in a cycle: replacement is internal (R56, R59). -/
opaque victim : (cycle block : Nat) → Nat
/-- The stepping of the part, feature word 0 bits 15:8 (R364). -/
opaque stepping : BitVec 8
/-- PBEAT minus BeatNow() minus 1 of a job (R352). -/
opaque promise : Nat → Nat
/-- AES-256-GCM: the ciphertext and tag of a text under a key, an IV and additional data, as one number (R404, R438). -/
opaque gcmSeal : (key iv aad text : Nat) → BitVec 512
/-- AES-256-GCM: the plaintext, when the tag matches (R438). -/
opaque gcmOpen : (key iv aad text tag : Nat) → Option Nat
/-- SHAKE256 of a message, given as its length in bytes and its little-endian value, to 512 bits (R433, R436). -/
opaque shake256 : (len msg : Nat) → BitVec 512
/-- SLH-DSA-SHAKE-256s verification of a message's hash under a public key (R432, R439). -/
opaque slhVerify : (key hash sig : Nat) → Bool
/-- The report signature under the device identity key that MEAS_0 and the fused secret give (R434). -/
opaque slhSign : (meas0 text : Nat) → Nat
/-- ML-KEM-1024: the encapsulation key of a fresh pair (R435). -/
opaque kemPublic : Nat → Nat
/-- ML-KEM-1024: the shared secret of a ciphertext under the pair of that draw (R435). -/
opaque kemSecret : (draw ct : Nat) → Nat
/-- Damson's translation of a VPF section: the offset of the native variant entry, or failure (R443). -/
opaque damson : (hash features : Nat) → Option Nat
/-- Whether stage k of the boot verifies, but for the first, whose check R432 spells out (R432). -/
opaque bootStage : Nat → Bool
/-- The first firmware image's public key and signature, the fused Stavzar root hash and the fused version counter (R432). -/
opaque bootKey : BitVec 512
opaque bootSig : Nat
opaque rootHash : BitVec 512
opaque fusedVersion : BitVec 16
/-- The hash of the image of boot stage k (R433). -/
opaque imageHash : Nat → BitVec 512
/-- The security version of boot stage k (R434). -/
opaque securityVersion : Nat → BitVec 16
/-- The bytes of the sections of a save area, whose inner layout is the device's own (R411). -/
opaque areaText : Nat → Nat

end Sys2Proof.Config
end

