-- ==== Sys2Proof/Machine/State.lean ====
section
/-! DEFINITION. The state of the GX-4: everything that the spec gives the machine, as plain data, and its value after
reset. Fields that are the model's own (not the spec's) say so. -/

namespace Sys2Proof.Machine

/-- The reasons for which a step stops with a fault. -/
inductive Fault where
  /-- Raised by `step` when the slot that a firing names does not decode. The loader stores no such slot (R210), so no
  run that starts at reset meets it. Safe: hardware never fires such a slot. -/
  | illegalSlot
  deriving DecidableEq, Repr

/-- The reasons for which a step refuses. -/
inductive Refusal where
  /-- Raised by an arm of `exec` that has no meaning yet. Safe. -/
  | notModelled (mnemonic : String)
  deriving DecidableEq, Repr

-- REGISTERS

/-- A g register with its format pair (R99). -/
structure GReg where
  val : Word
  pair : Pair
  deriving DecidableEq, Repr

/-- A v register, a block of an m register or a flit, with its format pair (R99). -/
structure VReg where
  val : Blk
  pair : Pair
  deriving DecidableEq, Repr

/-- A register bank (R172): g0..g15, v0..v15 and p0..p7. -/
structure Bank where
  g : Sparse GReg
  v : Sparse VReg
  p : BitVec 8
  deriving DecidableEq, Repr

/-- A target that may await a result (R234). -/
inductive Res where
  | g (bank r : Nat) | v (bank r : Nat) | p (bank n : Nat)
  | m (r : Nat) | a (r : Nat) | pv (r : Nat) | fs | cb (n : Nat)
  deriving DecidableEq, Repr

/-- What a result writes when its latency has passed. -/
inductive Wr where
  | g (bank r : Nat) (x : GReg)
  | v (bank r : Nat) (x : VReg)
  | p (bank n : Nat) (b : Bool)
  /-- A target written at issue that is first seen at delivery. -/
  | mark (r : Res)
  /-- An accumulator that an MMA, MMAT or MACC row is adding into (R317). -/
  | chain (r : Nat)
  deriving DecidableEq, Repr

/-- A token on its way to the current item: its record, and whether the firing produced it or passed it on (R401). -/
structure Tok where
  record : BitVec 256
  produced : Bool
  deriving DecidableEq, Repr

/-- The firing that a step is making: tile, active configuration, slot, bank, and the station, bay tile or evaluation. -/
structure Firing where
  tile : Nat
  cfg : Nat
  slot : Nat
  bank : Nat
  actor : Nat
  trig : BitVec 32
  deriving DecidableEq, Repr

/-- A result that becomes visible at cycle `due` (R234). -/
structure Result where
  due : Nat
  fire : Firing
  writes : List Wr
  tok : Option Tok
  deriving DecidableEq, Repr

-- STREAMS

/-- A header (R71). -/
structure Hdr where
  err : BitVec 256
  seq : BitVec 48
  wid : Word
  shape : BitVec 4
  rows : BitVec 9
  ctag : BitVec 2
  rtag : BitVec 3
  req : Bool
  can : Bool
  poi : Bool
  unf : Bool
  lok : Bool
  lot : Bool
  blen : BitVec 7
  scale : BitVec 8
  fmt : BitVec 8
  /-- The reserved bits as they were received: 23, 31:30, 39:37, 51:49, 63:56 and 255:176 (R71, R72). -/
  rsv : BitVec 97
  deriving DecidableEq, Repr

/-- An entry of an input queue: a data flit with its latched header, or a bare token (R237). `last` marks the flit that
ends its item; `unseq` marks what the line head has not yet given its SEQ (R165). -/
structure Entry where
  hdr : Hdr
  data : Blk
  bare : Bool
  last : Bool
  unseq : Bool
  deriving DecidableEq, Repr

/-- The header state of a station (R249), and what an item's first header gives (R71). -/
structure HState where
  wid : Word
  seq : BitVec 48
  shape : BitVec 4
  rows : BitVec 9
  ctag : BitVec 2
  lok : Bool
  deriving DecidableEq, Repr

/-- An item as a join, a station, a bay tile or a sink knows it: its header fields, its record when it is poisoned, and
whether it is a cancel token (R256) or carries no data. -/
structure Desc where
  h : HState
  record : Option (BitVec 256)
  can : Bool
  unf : Bool
  /-- The station that sent it, for the sender's ring (R393, R471). -/
  sender : Nat
  /-- The flits of the item, in order. -/
  flits : List VReg
  /-- Flits of one of its rows (R219). -/
  per : Nat
  /-- LOK stands in a later header of the item than its first (R249). -/
  lokLast : Bool
  deriving DecidableEq, Repr

/-- A flit held for an output queue (R169). -/
structure Held where
  oq : Nat
  flit : VReg
  deriving DecidableEq, Repr

/-- A flit that is visible on a (port, route tag) of a tile and waits to leave (R188). -/
structure OutFlit where
  vis : Nat
  port : Nat
  tag : Nat
  entry : Entry
  actor : Nat
  oq : Nat
  /-- The cycle in which it reached this tile, for a pass-through path. -/
  pass : Bool
  deriving DecidableEq, Repr

/-- A flit or request token in flight between tiles. -/
structure Flight where
  id : Nat
  tile : Nat
  port : Nat
  tag : Nat
  entry : Entry
  actor : Nat
  /-- It waits at its port for a configuration that is being fetched (R381). -/
  held : Bool
  deriving DecidableEq, Repr

-- STATIONS, BAY TILES AND EVALUATIONS

/-- What a firing unit is. -/
inductive AKind where
  | station | bay | eval
  deriving DecidableEq, Repr

/-- The item that a unit holds. -/
structure Item where
  desc : Desc
  /-- The record attached to it (R401). -/
  record : Option (BitVec 256)
  handed : Bool
  /-- The header fields as they stood at the item's first EMIT (R249). -/
  first : Option HState
  /-- SETHDR wrote a ROWS above 256 (R252). -/
  overRows : Bool
  /-- Flits of the item are discarded as they arrive, after HAND (R250). -/
  drop : Bool
  /-- The cycle in which the record was attached; 0: it was when the station took the item (R401). -/
  marked : Nat
  /-- Flits that an input queue takes of an item with rows beyond its shape record's bound (R219). -/
  limits : List (Nat × Nat)
  deriving DecidableEq, Repr

/-- The state at an item's start (R171, R172). -/
structure Snap where
  banks : Sparse Bank
  gpos : Sparse Nat
  active : Nat
  seed : Word
  hs : HState
  deriving DecidableEq, Repr

/-- A sleep of WAITB (R355): a target beat, or a job with the register that takes its status. -/
inductive Sleep where
  | beat (target : BitVec 48)
  | job (handle : Word) (fire : Firing) (d : Nat) (told : Bool)
  deriving DecidableEq, Repr

/-- The choices made for the current item (R253 to R259). -/
structure Choice where
  steer : Option (Nat × Nat)
  routes : Sparse Nat
  cancels : List Nat
  /-- Cancel tokens that are not bound to the item (R255). -/
  cancelSeqs : List (Nat × BitVec 48 × Word)
  splice : Option Word
  /-- Such tokens that a CARRY shunt took to the bay: they go out when the item rejoins (R261). -/
  atRejoin : List (Nat × BitVec 48 × Word)
  /-- The configuration in which the item has issued an instruction that R146 bars from RESTART (R163). -/
  bound : Option Nat
  deriving DecidableEq, Repr

/-- A factorisation that was stopped: the firing and the instruction that its unit issues again (R330, R340). -/
structure Reissue where
  fire : Firing
  op : Instr
  deriving DecidableEq, Repr

/-- A station, a reworking bay tile or an evaluation (R164, R172, R112). -/
structure Actor where
  kind : AKind
  ctx : Nat
  line : Nat
  stn : Nat
  tile : Nat
  /-- The bank of an evaluation's slot; unused otherwise. -/
  bank : Nat
  active : Nat
  item : Option Item
  hs : HState
  seed : Word
  k : Word
  hold : List Held
  /-- The retained input (R169), with the queue of each flit. -/
  retained : List (Nat × Entry)
  rc : Sparse Nat
  gpos : Sparse Nat
  /-- S and N of the last access accepted (R135). -/
  waveS : BitVec 8
  waveN : BitVec 8
  /-- The cycle of the boundary at which the item was taken, and the work time that HAND fixed (R168). -/
  start : Nat
  work : Option Nat
  snap : Option Snap
  choice : Choice
  sleep : Option Sleep
  /-- The target and the first cycle after a SWITCH (R258). -/
  switchTo : Option (Nat × Nat)
  closed : Bool
  yielded : Bool
  /-- Items handed upstream that wait at an input queue's join (R170). -/
  arrive : Sparse (List Desc)
  prevWid : Option Word
  /-- Level boundaries that the current item passed, fields 0..5 (R165). -/
  levels : BitVec 6
  /-- A cancel token taken in this beat (R256). -/
  cancel : Option Desc
  /-- The patience count of the junction's FIFO head, and whether the head has withheld for it (R179). -/
  waits : Nat
  withheld : Bool
  /-- What the unit fires first: a factorisation that was stopped (R340). -/
  reissue : Option Reissue
  /-- A HAND of the item does not hold before this cycle, because of an MDRAIN (R339). -/
  drainBusy : Nat
  /-- What a RESTART shunt has left to be performed stands before a bay tile's first access, with the fences between them (R146). -/
  fence : Bool
  /-- Barrier memberships: object and index (R394). -/
  members : List (Nat × Nat)
  /-- Items handed on channels that a full parking store holds back, with their layer-field values (R393). -/
  stuck : List (Nat × Desc × Word)
  handed : Word
  overruns : Word
  bubbles : Word
  deriving DecidableEq, Repr

-- TILES

/-- A configuration of a tile (R216): 16 slots, ROUTES, SHAPES, REWORK, STN_CFG and AGS. -/
structure Cfg where
  slots : Sparse (BitVec 96)
  routes : BitVec 192
  shapes : BitVec 512
  rework : BitVec 32
  stn : BitVec 64
  ags : BitVec 384
  deriving DecidableEq, Repr

/-- A write of a configuration field that waits to take effect (R225). -/
structure PendWrite where
  cfg : Nat
  idx : Nat
  val : BitVec 512
  /-- Of a queue map: the queues whose entries have been written (R225). -/
  made : List Nat
  deriving DecidableEq, Repr

/-- A factorisation in progress (R330, R340): its slot's operation, its n and m, its start and end. -/
structure FRun where
  op : Instr
  fire : Firing
  n : Nat
  m : Nat
  start : Nat
  due : Nat
  deriving DecidableEq, Repr

/-- A heap of a tile's heap store (R357), highest rank first. -/
structure Heap where
  cap : Nat
  entries : List Word
  deriving DecidableEq, Repr

/-- A line of an L1 or of an RDC (R56, R57, R65). -/
structure CLine where
  data : Blk
  /-- Bytes present. -/
  have_ : BitVec 64
  dirty : BitVec 64
  pair : Pair
  pairDirty : Bool
  key : Nat
  ctx : Nat
  imm : Bool
  /-- The unit that stored to it last, for which its write-back is made (R385). -/
  owner : Nat
  deriving DecidableEq, Repr

/-- A line of the L2 of a block's home die (R59, R61). `State.mem` and `State.sides` hold what the home reads; the copy in
DRAM of a dirty line is older (notes/assumptions/16.md). -/
structure L2Line where
  dirty : Bool
  /-- Inserted as the first candidate for eviction (R61). -/
  first : Bool
  /-- An error in the L2 array that cannot be corrected (R61). -/
  bad : Bool
  deriving DecidableEq, Repr

/-- A leaf held by a TLB (R30): the page number and size, and the leaf's fields. -/
structure Leaf where
  ctx : Nat
  big : Bool
  page : Nat
  w0 : Word
  w1 : Word
  deriving DecidableEq, Repr

/-- An instruction whose scratchpad groups have not all been performed (R52): the firing, with its bank and its context's
codebooks as they stood at issue, and the cycle in which its result is seen; the groups still to be read, by cycle, as word places, with
the words read so far, and of a load of one register the places of its bytes; the groups still to be written, by cycle, as the places
of bytes with what each receives. The place of a byte is 4 × its word's and its number in it. -/
structure SpMove where
  fire : Firing
  instr : Instr
  due : Nat
  bank : Bank
  cbs : Sparse (BitVec 256)
  reads : List (Nat × List Nat)
  got : Sparse (BitVec 32)
  bytes : List Nat
  writes : List (Nat × List (Nat × BitVec 8))
  deriving DecidableEq, Repr

/-- A tile. -/
structure Tile where
  ctx : Option Nat
  cfgs : Sparse Cfg
  issue : Word
  iqmap : BitVec 48
  oqmap : BitVec 48
  phase : Nat
  /-- A configuration of the context has run here (R225). -/
  ran : Bool
  pend : List PendWrite
  banks : Sparse Bank
  m : Sparse VReg
  a : Sparse (BitVec 32)
  pv : Sparse (BitVec 32)
  fs : BitVec 128
  /-- Scratchpad words by physical place, 64 × bank row + bank (R42, R43). -/
  sp : Sparse (BitVec 32)
  l1 : Sparse CLine
  tlb : List Leaf
  iq : Sparse (List Entry)
  out : List OutFlit
  demand : Sparse Nat
  divBusy : Nat
  arrBusy : Nat
  spRead : Nat
  spWrite : Nat
  run : Option FRun
  heaps : Sparse Heap
  counts : Sparse Word
  /-- The line whose bay tile this is, and whether it is reworking. -/
  bay : Option Nat
  /-- For each configuration of a bay tile, the (line, station, configuration) that it copies (R177). -/
  copies : Sparse (Nat × Nat × Nat)
  /-- The configurations of a bay tile that streams have put there (R449). -/
  fixed : List Nat
  /-- The barrier memberships of the party that a bay tile is, while it reworks nothing (R394). -/
  members : List (Nat × Nat)
  /-- CVER of the configuration interval in progress; 0 is none (R418). -/
  cver : BitVec 16
  /-- Instructions in the middle of their scratchpad groups, or before them (R52). -/
  moves : List SpMove
  deriving DecidableEq, Repr

-- MEMORY ACCESSES

/-- Where an access has got to. -/
inductive Stage where
  | buffered | accepted | walking | sent | waiting | answering | done
  deriving DecidableEq, Repr

/-- What an access delivers: a value for D, a predicate, a token. -/
structure Answer where
  g : Option GReg
  v : Option VReg
  p : Option Bool
  tok : Option Tok
  deriving DecidableEq, Repr

/-- Who raised an error (R399). -/
structure Origin where
  okind : Nat
  die : Nat
  tile : Nat
  config : Nat
  region : Nat
  stn : Nat
  slot : Nat
  cver : Nat
  seq : Nat
  wid : Nat
  deriving DecidableEq, Repr

/-- An entry of a binding table (R131). -/
structure Bind where
  obj : Word
  base : Word
  len : Nat
  deriving DecidableEq, Repr

/-- An access of a station, bay tile, evaluation, engine or the H-die (R127). -/
structure Access where
  id : Nat
  actor : Nat
  ctx : Nat
  fire : Firing
  /-- Who is named in the record of an error that it meets, as of its firing (R399). -/
  org : Origin
  op : Instr
  va : Word
  a : Word
  b : Word
  c : Word
  data : VReg
  /-- The scratchpad bytes that CRES.sp carries (R282), by blocks. -/
  bulk : List Blk
  wave : Option Wave
  /-- Order of acceptance. -/
  order : Nat
  stage : Stage
  /-- A check before translation has failed: the access ends with `ans` when it is accepted. -/
  failed : Bool
  leaf : Option Leaf
  /-- The 62-bit global fabric address of the block's byte (R15). -/
  pa : Nat
  sentAt : Nat
  /-- The slot of a RING operation, or the element index of a dump (R280, R357). -/
  aux : Nat
  /-- A result that is thrown away on its return: a RESTART shunt (R146) or a timeout (R415). -/
  discard : Bool
  /-- The operation ended without acquiring: a lock not taken, an empty ring, a failed comparison (R274, R276, R280). -/
  noAcq : Bool
  /-- The regions bound to the object of an acquire when it was performed (R68). -/
  binds : List Bind
  ans : Answer
  /-- The cycle in which a request that is held at its home arrived there; 0: it is not held (R60). -/
  heldAt : Nat := 0
  /-- While it is held, what comes to its block later stands behind it (R35, R60). -/
  holds : Bool := false
  /-- The address that the operation itself translates at its unit or at its object's home, while it waits for that walk (R32,
  R35). -/
  look : Option Word := none
  deriving DecidableEq, Repr

/-- The sidecar of a block (R25), without CHECK. -/
structure Side where
  fmt : BitVec 8
  scale : BitVec 8
  tag : BitVec 4
  deriving DecidableEq, Repr

-- CELLS

/-- The place of an evaluation (R108). -/
inductive Place where
  | ready | slot (n : Nat) | parked | saved
  deriving DecidableEq, Repr

/-- An evaluation record (R108). -/
structure EvRec where
  evid : Nat
  head : Nat
  ctx : Nat
  place : Place
  /-- The cell on which the evaluation is queued. -/
  queued : Option Nat
  /-- It has run before and was woken (R119). -/
  woken : Bool
  /-- Cells on which it has queued and from which the walk of R123 is still to be made. -/
  walks : List Nat
  /-- BLOCK of the first waiter (R112). -/
  block : Nat
  /-- The saved bank, unit, configurations and factor state of a parked evaluation (R119). -/
  bank : Bank
  unit : Option Actor
  cfgs : Sparse Cfg
  factor : BitVec 128
  deriving DecidableEq, Repr

/-- An entry of a die waiter table (R113). -/
structure DWaiter where
  head : Nat
  entry : Word
  deriving DecidableEq, Repr

-- DIES

/-- An entry of a ready queue (R377). -/
structure Ready where
  prio : Nat
  ctx : Nat
  /-- The cycle of its arrival, and its place among those of its cycle: a counter task's slice, 32 for the launch engine's entry, 33
  for a restore (R377). -/
  since : Nat
  source : Nat
  /-- The record's contents. -/
  record : Nat
  task : Option Word
  cancelled : Bool
  restore : Bool
  deriving DecidableEq, Repr

/-- A page walk with the misses that share it (R32). -/
structure Miss where
  ctx : Nat
  page : Nat
  accs : List Nat
  walking : Bool
  /-- The cycle of the first walk that met MIG = 1 (R35). -/
  mig : Option Nat
  /-- A walk has found that the page is one of 256 MiB, whose misses it shares (R32). -/
  big : Bool
  /-- The cycle of its first miss, and the requester's rank in that cycle (R32). -/
  since : Nat
  rank : Nat
  deriving DecidableEq, Repr

/-- A stream on an edge engine (R345 to R348). -/
structure Stream where
  desc : Blk
  descVa : Word
  ctx : Nat
  line : Nat
  tile : Nat
  ticket : BitVec 16
  item : Nat
  row : Nat
  /-- RESUME began inside an item. -/
  resumed : Bool
  stopReq : Bool
  committed : Bool
  /-- The SEQ that the line head has given the item in progress (R165). -/
  seq : Option (BitVec 48)
  /-- The flits of the row being read, or of a row being stored. -/
  rowBuf : List VReg
  /-- The discard buffer of a LIKELY stream: entries with the fault held against each (R347). -/
  likely : List (Entry × Option (BitVec 256))
  state : BitVec 8
  code : BitVec 8
  deriving DecidableEq, Repr

/-- An edge engine: its stream and its ticket count. -/
structure Edge where
  stream : Option Stream
  ticket : BitVec 16
  prev : Option Stream
  deriving DecidableEq, Repr

/-- A job on a copy engine (R349 to R354). -/
structure Job where
  card : BitVec 2048
  cardVa : Word
  ctx : Nat
  line : Option Nat
  order : Nat
  die : Nat
  engine : Nat
  ticket : BitVec 8
  pbeat : BitVec 48
  /-- 0 queued, 1 running, 2 done, 3 error, 4 cancelled (R354). -/
  status : Nat
  missed : Bool
  element : Nat
  err : Option (BitVec 256)
  faultVa : Word
  /-- 0 acquire, 1 elements, 2 write back, 3 card, 4 release, 5 completion object, 6 end (R351). -/
  phase : Nat
  /-- The block of the element in progress (of a collective that waits: the cycle of its timeout), its index (its rank), and
  a block read and not yet written. -/
  sub : Nat
  idx : Option Nat
  hold : Option VReg
  /-- Its cell tag, when the copy preserves sidecars (R350). -/
  holdTag : BitVec 4
  deriving DecidableEq, Repr

/-- A copy engine: its jobs, queued and kept (R352), and its ticket count. -/
structure Copier where
  jobs : List Job
  ticket : BitVec 8
  deriving DecidableEq, Repr

/-- A parked flit, item or token (R393). -/
structure Parked where
  dest : Nat
  desc : Desc
  queue : Nat
  deriving DecidableEq, Repr

/-- A fetched stream of the configuration cache: its context, the address of the stream of a code object's variant, and its
commands (R39). -/
structure CfgEntry where
  ctx : Nat
  code : Nat
  variant : Nat
  va : Nat
  cmds : List Nat
  deriving DecidableEq, Repr

/-- A C-die. -/
structure Die where
  poolSize : Nat
  recs : List EvRec
  dwait : List DWaiter
  ready : List Ready
  cancels : List Nat
  tlb : List Leaf
  ptrs : List Leaf
  misses : List Miss
  rdc : Sparse CLine
  /-- The configuration cache, the newest stream first (R39). -/
  cfgCache : List CfgEntry
  edges : Sparse Edge
  copiers : Sparse Copier
  /-- Histogram bins, 1,024 × context + bin (R356). -/
  bins : Sparse (BitVec 32)
  parked : List Parked
  trend : Nat
  /-- The launch queue served last (R372). -/
  turn : Nat
  /-- What is held while a page migrates, with the cycle of the first walk: 0 the record that the launch engine takes, 1 the entry that it
  dispatches, and evaluations, streams and switches at slots of their own (R35). -/
  held : Sparse Nat
  /-- The cycle of the last atomic of each slice (R62). -/
  atomics : Sparse Nat
  deriving DecidableEq, Repr

-- LINES AND GRAPHS

/-- A sink of a line (R180). -/
structure Sink where
  stn : Nat
  oq : Nat
  ordered : Bool
  next : BitVec 48
  store : List Desc
  /-- SEQs whose cancel token came before their item, which is discarded when it comes (R256). -/
  cancelled : List (BitVec 48)
  /-- Items released, for a drain stream to store. -/
  out : List Desc
  overruns : Word
  /-- Items that stand before a sink whose trap record stalls (R406). -/
  wait : List Desc
  deriving DecidableEq, Repr

/-- A reworked item that waits for its junction (R178). -/
structure Rework where
  stn : Nat
  bay : Nat
  ready : Bool
  handedAt : Nat
  deriving DecidableEq, Repr

/-- A line (R164 to R189). -/
structure Line where
  ctx : Nat
  graph : Nat
  die : Nat
  region : Nat
  x0 : Nat
  y0 : Nat
  w : Nat
  h : Nat
  bay : List Nat
  /-- Stations: number and tile. -/
  stns : List (Nat × Nat)
  running : Bool
  counter : BitVec 48
  b : Nat
  /-- The cycle of the last boundary. -/
  last : Nat
  deferred : Bool
  beat : Word
  gov : BitVec 128
  /-- BEAT writes that take effect at the next boundary, by station: of the whole word or of its BEAT field; and a GOVN write
  (R358). -/
  beatReq : List (Nat × Bool × Word)
  govReq : Option (Nat × BitVec 128)
  winBeats : Nat
  winOver : Nat
  winSlack : List Nat
  fifo : List Rework
  sinks : List Sink
  seqNext : BitVec 48
  seqBase : BitVec 48
  cycles : List (List Nat × Nat)
  watchLimit : Nat
  watchCount : Nat
  cver : BitVec 16
  exiting : Bool
  exitNow : Bool
  exited : Bool
  frozen : Bool
  /-- The cycle in which it froze. -/
  frozenAt : Nat
  freezeNext : Bool
  stopReq : Bool
  stopped : Bool
  draining : Option Nat
  tearing : Bool
  /-- The head withholds at this boundary's successors: junction station and the boundary at which it arrives (R179). -/
  reserved : List (Nat × BitVec 48)
  /-- A splice in flight: the successor's record and its budgets; its beat, and the stations that have switched (R184,
  R185). -/
  splice : Option (Word × Nat × Nat)
  sucBeat : Word
  switched : List Nat
  /-- Field writes of the successor's stream that wait for the LOK hand-over, by tile. -/
  sucPend : List (Nat × PendWrite)
  /-- The configurations that the successor's stream makes, by tile. -/
  sucCfgs : List (Nat × Nat)
  issueBudget : Nat
  byteBudget : Nat
  issued : Nat
  moved : Nat
  widw : List Nat
  layer : Nat
  chan : Option Nat
  /-- Expert router, number, slot counter (R387). -/
  expert : Option (Nat × Nat)
  kmax : Nat
  total : Nat
  partials : Word
  slotCtr : Option Word
  code : Word
  /-- Its variant, and its stream's address and commands (R39, R381). -/
  variant : Nat
  stream : Word
  slen : Nat
  /-- A stream's writes have taken effect at this boundary (R416). -/
  reconf : Bool
  resizing : Bool
  /-- The router's resize for the next item's layer has been made: its head may take it (R387). -/
  resized : Bool
  /-- The width at which an expert line is re-placed when it is empty, and the layer (R387). -/
  resize : Option (Nat × Word)
  /-- Stations whose LOK item has rejoined and that switch at their next boundary (R184). -/
  lokOut : List Nat
  beats : Word
  sunk : Word
  reworked : Word
  deriving DecidableEq, Repr

/-- A graph (R164, R383). -/
structure Graph where
  ctx : Nat
  die : Nat
  comp : Word
  lines : List Nat
  prio : Nat
  ended : Bool
  status : Nat
  swapped : Bool
  deriving DecidableEq, Repr

/-- What the spec gives no field of a code object for: a line's source, sinks and feedback cycles (R187, R229), by
code-object address and line index (notes/assumptions/14.md). -/
structure LineMeta where
  code : Word
  idx : Nat
  seqBase : BitVec 48
  /-- Sinks: station, output queue, ordered. -/
  sinks : List (Nat × Nat × Bool)
  cycles : List (List Nat × Nat)
  deriving DecidableEq, Repr

-- CONTEXTS

/-- A watchpoint (R366). -/
structure Watch where
  obj : Word
  tr : WatchTr
  once : Bool
  deriving DecidableEq, Repr

/-- A version of a channel position (R391): device, die, region, station, queue and FROM. -/
structure ChanPos where
  device : Nat
  die : Nat
  region : Nat
  stn : Nat
  queue : Nat
  from_ : Word
  deriving DecidableEq, Repr

/-- A channel of a replica table. -/
structure Chan where
  cur : Option ChanPos
  next : Option ChanPos
  /-- The new position has taken an item of layer FROM + 1 (R392). -/
  settled : Bool
  deriving DecidableEq, Repr

/-- A context (R164, R375). -/
structure Ctx where
  root : Word
  key : Nat
  conf : Bool
  supv : Nat
  ctrl : Word
  ringBase : Word
  ringLog2 : Nat
  binds : Sparse Bind
  cbs : Sparse (BitVec 256)
  evalIssue : Nat
  evalBytes : Nat
  copyBytes : Nat
  watch : Sparse Watch
  chans : Sparse Chan
  /-- 1 running, 2 draining, 3 saved, 4 restoring, 5 frozen, 6 torn down (R423). -/
  status : Nat
  tearing : Bool
  /-- Frozen evaluations by die and frozen card queues by 16 × die + engine (R386). -/
  frozenEval : List Nat
  frozenCopy : List Nat
  /-- Counts of the regulator's period (R385): evaluations by die, card queues by 16 × die + engine. -/
  evalIssued : Sparse Nat
  evalMoved : Sparse Nat
  copyMoved : Sparse Nat
  codeHash : BitVec 512
  sealN : Nat
  beats : Word
  sunk : Word
  deriving DecidableEq, Repr

/-- A trap record that waits to be written (R406). -/
structure Trap where
  ctx : Nat
  writer : Nat
  record : BitVec 256
  aux : Word
  since : Nat
  deriving DecidableEq, Repr

/-- A context that pre-emption has taken off the device (R409 to R412): what its save area holds. Its evaluations stay
with their records, marked SAVED (R126). -/
structure Saved where
  ctx : Nat
  area : Nat
  /-- Blocks of the area. -/
  size : Nat
  /-- The cycle of the save. -/
  since : Nat
  lines : List (Nat × Line)
  actors : List (Nat × Actor)
  tiles : List (Nat × Tile)
  accs : List Access
  jobs : List Job
  /-- Streams by die and engine. -/
  streams : List (Nat × Nat × Stream)
  parked : List (Nat × Parked)
  bins : List (Nat × Nat × BitVec 32)
  /-- The area's header block. -/
  header : Blk
  deriving DecidableEq, Repr

-- THE DEVICE

/-- A launch queue (R371). -/
structure LaunchQ where
  en : Bool
  cons : BitVec 32
  base : Nat
  log2n : Nat
  obj : Nat
  deriving DecidableEq, Repr

/-- A Drauk link port (R429). -/
structure Port where
  up : Bool
  sendSeq : BitVec 12
  recvSeq : BitVec 12
  /-- Frames sent and not acknowledged, 1,024 at most, and those that wait for room among them. -/
  replay : List (BitVec 12 × Blk)
  queue : List Blk
  /-- Frames acknowledged (the model's own). -/
  acked : Nat
  fails : Nat
  deriving DecidableEq, Repr

/-- The registers that the host window reaches, and what Medlar keeps (R423 to R447). -/
structure Mgmt where
  devnum : Word
  devnumSet : Bool
  ringTimeout : Word
  linkTimeout : Word
  queues : Sparse LaunchQ
  inv0 : Word
  inv1 : Word
  inv2 : Word
  /-- Accesses translated through what the command in progress dropped (R33). -/
  invAccs : List Nat
  /-- Write-backs to other devices that it waits for: port, and the frames acknowledged when the write-back is (R33). -/
  invFrames : List (Nat × Nat)
  pre0 : Word
  pre1 : Word
  stop : Word
  hs0 : Word
  hs1 : Word
  hs2 : Word
  hs3 : Word
  stray : Nat
  hostBudget : BitVec 32
  linkBudget : Sparse (BitVec 32)
  hostMoved : Nat
  linkMoved : Sparse Nat
  hostFrozen : Bool
  linkFrozen : List Nat
  hot : Bool
  peol : Sparse Word
  bootStage : Word
  booted : Bool
  /-- The mailbox's 4 KiB (R423), and the whole of what Medlar last returned. -/
  mailbox : BitVec 32768
  message : Nat
  meas : Sparse (BitVec 512)
  signers : List (BitVec 512)
  /-- ML-KEM draws by context, and tenant keys established: context, key id, shared secret, signer hash. -/
  kems : Sparse Nat
  tenants : List (Nat × Nat × Nat)
  keys : Sparse Nat
  /-- How often each key id has been assigned anew (R437). -/
  keyGen : Sparse Nat
  log : Sparse Blk
  logProd : Word
  trapLog : Sparse Word
  trapProd : Sparse Nat
  /-- Word 1 of each replica-table window slot, as it was last written (R423). -/
  replica : Sparse Word
  routes : Sparse (BitVec 16)
  /-- Route entries that wait for requests under the old entry (R430). -/
  routePend : Sparse (BitVec 16)
  ports : Sparse Port
  /-- Save areas that have been written, with their blocks (R411). -/
  areas : List (Nat × Nat)
  /-- The data of the host's last completed read (R422). -/
  completion : BitVec 512
  deriving DecidableEq, Repr

/-- The steps that remain of the current cycle (the model's own): an event, the sends of a tile's ports, an issue-table
grant of a tile, or the firing that the grant chose. -/
inductive Act where
  | event (i : Instr)
  | ports (tile : Nat)
  | grant (tile : Nat)
  | fire (f : Firing)
  deriving DecidableEq, Repr

/-- The whole device. -/
structure State where
  /-- Cycles since reset (R4). -/
  cycle : Nat
  /-- The model's own: how many free values have been drawn. -/
  fresh : Nat
  /-- The model's own: what remains to be done in this cycle, in order. -/
  agenda : List Act
  /-- The model's own: events that fall in a later cycle, with that cycle. -/
  timers : List (Nat × Instr)
  /-- The model's own: what the outside world will do, by cycle. -/
  inputs : List (Nat × Instr)
  /-- The firing in progress. -/
  cur : Firing
  /-- Bytes of device-physical memory, canonical (`Memory.wf`). -/
  mem : List Host.Cell
  sides : Sparse Side
  /-- The key under which a block was last written (R27, R128). -/
  keyed : Sparse Nat
  /-- Stored bytes in error, by block: byte number and XOR mask (R26). -/
  errs : Sparse (List (Nat × BitVec 8))
  /-- The lines of the dies' L2s, by block number (R59). -/
  l2 : Sparse L2Line
  tiles : Sparse Tile
  actors : Sparse Actor
  results : List Result
  accs : List Access
  nextAcc : Nat
  flights : List Flight
  nextFlight : Nat
  dies : Sparse Die
  lines : Sparse Line
  graphs : Sparse Graph
  nextGraph : Nat
  metas : List LineMeta
  ctxs : Sparse Ctx
  traps : List Trap
  saved : List Saved
  mgmt : Mgmt
  deriving DecidableEq, Repr

-- VALUES AT RESET

/-- A g register at reset: zero (notes/assumptions/1.md). -/
def GReg.zero : GReg := ⟨0, Pair.raw⟩

/-- A v register, m block or flit of zeros. -/
def VReg.zero : VReg := ⟨0, Pair.raw⟩

/-- A bank of zeros (R378). -/
def Bank.zero : Bank := ⟨[], [], 0⟩

/-- A vacant slot (R209): trigger word zero, operation word all ones. -/
def vacant : BitVec 96 := 0x00000000FFFFFFFFFFFFFFFF

/-- A configuration at reset (R216, R223). -/
def Cfg.empty : Cfg := ⟨[], 0, 0, 0, 0, 0⟩

/-- A tile at reset (R221, R223, R55). -/
def Tile.reset : Tile where
  ctx := none
  cfgs := []
  issue := 0x8888888888888888
  iqmap := 0
  oqmap := 0
  phase := 0
  ran := false
  pend := []
  banks := []
  m := []
  a := []
  pv := []
  fs := 0
  sp := []
  l1 := []
  tlb := []
  iq := []
  out := []
  demand := []
  divBusy := 0
  arrBusy := 0
  spRead := 0
  spWrite := 0
  run := none
  heaps := []
  counts := []
  bay := none
  copies := []
  fixed := []
  members := []
  cver := 0
  moves := []

/-- A header state of zeros (R249). -/
def HState.zero : HState := ⟨0, 0, 0, 0, 0, false⟩

/-- No choice made yet for an item. -/
def Choice.none : Choice := ⟨.none, [], [], [], .none, [], .none⟩

/-- A unit that has taken nothing yet. -/
def Actor.idle : Actor where
  kind := .station
  ctx := 0
  line := 0
  stn := 0
  tile := 0
  bank := 0
  active := 0
  item := none
  hs := HState.zero
  seed := 0
  k := 0
  hold := []
  retained := []
  rc := []
  gpos := []
  waveS := 0xFE
  waveN := 0xFF
  start := 0
  work := none
  snap := none
  choice := Choice.none
  sleep := none
  switchTo := none
  closed := false
  yielded := false
  arrive := []
  prevWid := none
  levels := 0
  cancel := none
  waits := 0
  withheld := false
  reissue := none
  drainBusy := 0
  fence := false
  members := []
  stuck := []
  handed := 0
  overruns := 0
  bubbles := 0

/-- A die at reset: a pool of 8 tiles (R118), everything else empty. -/
def Die.reset : Die where
  poolSize := 8
  recs := []
  dwait := []
  ready := []
  cancels := []
  tlb := []
  ptrs := []
  misses := []
  rdc := []
  cfgCache := []
  edges := []
  copiers := []
  bins := []
  parked := []
  trend := 0
  turn := 15
  held := []
  atomics := []

/-- A launch queue at reset (R371). -/
def LaunchQ.off : LaunchQ := ⟨false, 0, 0, 0, 0⟩

/-- A link port before its training (R447). -/
def Port.reset : Port := ⟨true, 0, 0, [], [], 0, 0⟩

/-- The management registers at reset (R415, R424, R425, R426, R433, R444). -/
def Mgmt.reset : Mgmt where
  devnum := 0
  devnumSet := false
  ringTimeout := 262144
  linkTimeout := 4194304
  queues := []
  inv0 := 0
  inv1 := 0
  inv2 := 0
  invAccs := []
  invFrames := []
  pre0 := 0
  pre1 := 0
  stop := 0
  hs0 := 0
  hs1 := 0
  hs2 := 0
  hs3 := 0
  stray := 0
  hostBudget := 0
  linkBudget := []
  hostMoved := 0
  linkMoved := []
  hostFrozen := false
  linkFrozen := []
  hot := false
  peol := []
  bootStage := 0
  booted := false
  mailbox := 0
  message := 0
  meas := []
  signers := []
  kems := []
  tenants := []
  keys := []
  keyGen := []
  log := []
  logProd := 0
  trapLog := []
  trapProd := []
  replica := []
  routes := []
  routePend := []
  ports := []
  areas := []
  completion := 0

/-- No firing yet. -/
def Firing.none : Firing := ⟨0, 0, 0, 0, 0, 0⟩

/-- The device right after reset: what it does first is the boot (R432). No program is in it: a program comes in through
the host window and the launch queues (notes/assumptions/9.md). -/
def State.reset : State where
  cycle := 0
  fresh := 0
  agenda := [.event .boot]
  timers := []
  inputs := []
  cur := Firing.none
  mem := []
  sides := []
  keyed := []
  errs := []
  l2 := []
  tiles := []
  actors := []
  results := []
  accs := []
  nextAcc := 0
  flights := []
  nextFlight := 0
  dies := []
  lines := []
  graphs := []
  nextGraph := 0
  metas := []
  ctxs := []
  traps := []
  saved := []
  mgmt := Mgmt.reset

end Sys2Proof.Machine
end

