-- ==== Sys2Proof/Machine/Number.lean ====
section
/-! DEFINITION. Number formats (R74 to R98): decoding, exact arithmetic, NaNs, signed zeros, and the one rounding. -/

namespace Sys2Proof

/-- The format that a code names, `none` when it is reserved (R74). -/
def Fmt.of (c : BitVec 8) : Option Fmt := fmtOf c.toNat

/-- The code of a format (R74). -/
def Fmt.code8 (f : Fmt) : BitVec 8 := BitVec.ofNat 8 f.code

/-- The element width of a format in bits (R74, R286). -/
def Fmt.bits (f : Fmt) : Nat := 512 / f.lanes

/-- The pair that a conversion or quantisation gives its result: unscaled formats take 127 (R76, R291). -/
def Fmt.pairAt (f : Fmt) (scale : BitVec 8) : Pair := ⟨f.code8, if f.scaled then scale else 127⟩

end Sys2Proof

namespace Sys2Proof.Machine

/-- A decoded element (R84): sign, magnitude `mag × 2^e`, an infinity, or a NaN with its payload below the quiet bit. -/
inductive Num where
  | fin (s : Bool) (mag : Nat) (e : Int)
  | inf (s : Bool)
  | nan (s : Bool) (pay : Nat)
  deriving DecidableEq, Repr

/-- An exact result before its rounding: a signed zero, `p / q × 2^e` with p and q positive, an infinity or a NaN. -/
inductive Exact where
  | zero (s : Bool)
  | rat (s : Bool) (p q : Nat) (e : Int)
  | inf (s : Bool)
  | nan (s : Bool) (pay : Nat)
  deriving DecidableEq, Repr

/-- A floating-point format (R79): fraction bits, exponent of the smallest normal, total bits, the encoding of the
largest finite magnitude and of an infinity, and the bits of its quiet NaN and payload mask. -/
structure FloatFmt where
  mb : Nat
  emin : Int
  width : Nat
  maxEnc : Nat
  infEnc : Option Nat
  nanEnc : Nat
  payMask : Nat
  deriving DecidableEq, Repr

/-- FP32 (R79). -/
def fFP32 : FloatFmt := ⟨23, -126, 32, 0x7F7FFFFF, some 0x7F800000, 0x7FC00000, 0x3FFFFF⟩
/-- BF16 (R79). -/
def fBF16 : FloatFmt := ⟨7, -126, 16, 0x7F7F, some 0x7F80, 0x7FC0, 0x3F⟩
/-- FP16 (R79). -/
def fFP16 : FloatFmt := ⟨10, -14, 16, 0x7BFF, some 0x7C00, 0x7E00, 0x1FF⟩
/-- E4M3 (R79): no infinity. -/
def fE4M3 : FloatFmt := ⟨3, -6, 8, 0x7E, none, 0x7F, 0⟩
/-- E5M2 (R79). -/
def fE5M2 : FloatFmt := ⟨2, -14, 8, 0x7B, some 0x7C, 0x7F, 0⟩

/-- The floating-point layout of a format, `none` for integers, Raw and CB4. -/
def floatOf : Fmt → Option FloatFmt
  | .fp32 => some fFP32 | .bf16 => some fBF16 | .fp16 => some fFP16 | .e4m3 => some fE4M3 | .e5m2 => some fE5M2
  | _ => none

/-- The value of an element of a floating-point format (R79, R84). NaNs of E4M3 and E5M2 are GenNaN(0x1, S). -/
def floatValue (f : FloatFmt) (bits : Nat) : Num :=
  let s := bits / 2 ^ (f.width - 1) % 2 == 1
  let mag := bits % 2 ^ (f.width - 1)
  let frac := mag % 2 ^ f.mb
  let ex := mag / 2 ^ f.mb
  if f.infEnc = some mag then .inf s
  else if mag > f.maxEnc then .nan s (if f.payMask = 0 then 1 else mag % (f.payMask + 1))
  else if ex = 0 then .fin s frac (f.emin - f.mb)
  else .fin s (2 ^ f.mb + frac) (f.emin - f.mb + ex - 1)

/-- The value of an integer element of `w` bits (R80). -/
def intValue (w : Nat) (bits : Nat) : Num :=
  let v := bits % 2 ^ w
  if v < 2 ^ (w - 1) then .fin false v 0 else .fin true (2 ^ w - v) 0

/-- Whether a value is a NaN (R231). -/
def Num.isNaN : Num → Bool
  | .nan _ _ => true
  | _ => false

/-- The sign bit of a value (R231). -/
def Num.sign : Num → Bool
  | .fin s _ _ | .inf s | .nan s _ => s

/-- The value with sign 0, a NaN included (R292). -/
def Num.abs : Num → Num
  | .fin _ m e => .fin false m e
  | .inf _ => .inf false
  | .nan _ p => .nan false p

/-- The value with its sign inverted, a NaN included (R292). -/
def Num.neg : Num → Num
  | .fin s m e => .fin (!s) m e
  | .inf s => .inf (!s)
  | .nan s p => .nan (!s) p

/-- Multiplication by 2^k, which never rounds (R81). -/
def Num.scale2 (x : Num) (k : Int) : Num :=
  match x with
  | .fin s m e => .fin s m (e + k)
  | y => y

/-- ValueOf of R84: the element's value before its scale. `cb` gives the codebook's entries. -/
def valueOf (cb : Nat → BitVec 256) (f : Fmt) (bits : Nat) : Num :=
  match f with
  | .cb n => floatValue fBF16 ((cb n.val).toNat / 2 ^ (16 * (bits % 16)) % 65536)
  | .fp32 => floatValue fFP32 (bits % 2 ^ 32)
  | .bf16 => floatValue fBF16 (bits % 2 ^ 16)
  | .fp16 => floatValue fFP16 (bits % 2 ^ 16)
  | .e4m3 => floatValue fE4M3 (bits % 2 ^ 8)
  | .e5m2 => floatValue fE5M2 (bits % 2 ^ 8)
  | .int8 => intValue 8 bits
  | .int32 => intValue 32 bits
  | .int64 => intValue 64 bits
  | .raw => .fin false (bits % 256) 0

/-- Decode (R84). -/
def decodeElt (cb : Nat → BitVec 256) (f : Fmt) (scale : BitVec 8) (bits : Nat) : Num :=
  let v := valueOf cb f bits
  if v.isNaN then v
  else if f.scaled ∧ scale = 0xFF then .nan v.sign 2
  else if f.scaled then v.scale2 (scale.toNat - 127)
  else v

-- EXACT ARITHMETIC

/-- The signed integer `± mag` at a common exponent `e0 ≤ e`. -/
def alignTo (e0 : Int) (s : Bool) (mag : Nat) (e : Int) : Int :=
  let m : Int := mag * 2 ^ (e - e0).toNat
  if s then -m else m

/-- The NaN candidate of R95: lowest low four payload bits, the earlier one on a tie. -/
def pickNaN : List (Bool × Nat) → Option (Bool × Nat)
  | [] => none
  | c :: r =>
    match pickNaN r with
    | none => some c
    | some d => if d.2 % 16 < c.2 % 16 then some d else some c

/-- The NaN candidates among operands, in operand order. -/
def nans : List Num → List (Bool × Nat)
  | [] => []
  | .nan s p :: r => (s, p) :: nans r
  | _ :: r => nans r

/-- The exact value of an integer multiple of 2^e, with the sign of a zero given. -/
def Exact.ofInt (zs : Bool) (m : Int) (e : Int) : Exact :=
  if m = 0 then .zero zs else .rat (m < 0) m.natAbs 1 e

/-- A decoded value as an exact result. -/
def Num.exact : Num → Exact
  | .fin s m e => if m = 0 then .zero s else .rat s m 1 e
  | .inf s => .inf s
  | .nan s p => .nan s p

/-- The sign of an exact zero sum (R96): that of the terms when all are zeros of one sign, otherwise + or, under .rd, −. -/
def zeroSumSign (rm : Rm) (xs : List Num) : Bool :=
  let zs := xs.all fun x => match x with | .fin _ 0 _ => true | _ => false
  if zs ∧ xs.all (fun x => x.sign) ∧ xs ≠ [] then true
  else if zs ∧ xs.all (fun x => !x.sign) then false
  else rm = .rd

/-- The least exponent among the finite values. -/
def minExp : List Num → Int → Int
  | [], d => d
  | .fin _ _ e :: r, d => minExp r (if e < d then e else d)
  | _ :: r, d => minExp r d

/-- The sum of the finite values as a multiple of 2^e0. -/
def sumFin (e0 : Int) : List Num → Int
  | [] => 0
  | .fin s m e :: r => alignTo e0 s m e + sumFin e0 r
  | _ :: r => sumFin e0 r

/-- SumExact (R97) of terms, with the NaN candidates that come before them (R95, R96). -/
def sumExact (rm : Rm) (cands : List (Bool × Nat)) (xs : List Num) : Exact :=
  let pos := xs.any fun x => x = .inf false
  let neg := xs.any fun x => x = .inf true
  match pickNaN (cands ++ (if pos ∧ neg then [(false, 3)] else [])) with
  | some (s, p) => .nan s p
  | none =>
    if pos then .inf false
    else if neg then .inf true
    else
      let e0 := minExp xs 0
      .ofInt (zeroSumSign rm xs) (sumFin e0 xs) e0

/-- a + b, exactly (R95, R96). -/
def addExact (rm : Rm) (a b : Num) : Exact := sumExact rm (nans [a, b]) [a, b]

/-- The product of two values that are not NaNs, as a term; zero times infinity is the generated NaN of cause 4. -/
def mulNum (a b : Num) : Num :=
  match a, b with
  | .fin s m e, .fin t n f => .fin (xor s t) (m * n) (e + f)
  | .inf s, .fin t n _ => if n = 0 then .nan false 4 else .inf (xor s t)
  | .fin s m _, .inf t => if m = 0 then .nan false 4 else .inf (xor s t)
  | .inf s, .inf t => .inf (xor s t)
  | .nan s p, _ => .nan s p
  | _, .nan s p => .nan s p

/-- The candidates of one product (R95): A, then B, then zero times infinity. -/
def mulCands (a b : Num) : List (Bool × Nat) :=
  nans [a, b] ++ (if a.isNaN ∨ b.isNaN then [] else nans [mulNum a b])

/-- a × b, exactly (R95, R96). -/
def mulExact (a b : Num) : Exact :=
  match pickNaN (mulCands a b) with
  | some (s, p) => .nan s p
  | none => (mulNum a b).exact

/-- a × b + c, formed exactly (R91). R95 gives the order of NaN operands. DESIGN CHOICE: on a tie every NaN operand, the third source
too, comes before a NaN that the operation generates (notes/assumptions/110.md). -/
def fmaExact (rm : Rm) (a b c : Num) : Exact :=
  let ab := mulNum a b
  sumExact rm (nans [a, b, c] ++ (if a.isNaN ∨ b.isNaN then [] else nans [ab]))
    (if ab.isNaN then [c] else [ab, c])

/-- a / b, exactly (R95, R96); a nonzero number divided by zero is an infinity (IEEE 754). -/
def divExact (a b : Num) : Exact :=
  let gen := match a, b with
    | .fin _ 0 _, .fin _ 0 _ => [(false, 5)]
    | .inf _, .inf _ => [(false, 5)]
    | _, _ => []
  match pickNaN (nans [a, b] ++ gen) with
  | some (s, p) => .nan s p
  | none =>
    let s := xor a.sign b.sign
    match a, b with
    | .inf _, _ => .inf s
    | _, .inf _ => .zero s
    | .fin _ m e, .fin _ n f => if n = 0 then .inf s else if m = 0 then .zero s else .rat s m n (e - f)
    | _, _ => .zero s

/-- Comparison of two values that are not NaNs, with −0 equal to +0 (R96). -/
def cmpNum (a b : Num) : Ordering :=
  match a, b with
  | .inf s, .inf t => if s = t then .eq else if s then .lt else .gt
  | .inf s, _ => if s then .lt else .gt
  | _, .inf t => if t then .gt else .lt
  | .fin s m e, .fin t n f =>
    let e0 := if e < f then e else f
    compare (alignTo e0 s m e) (alignTo e0 t n f)
  | _, _ => .eq

/-- Whether `a` counts as less than `b` for a minimum or maximum: −0 is less than +0 (R96). -/
def ltZ (a b : Num) : Bool :=
  match cmpNum a b with
  | .lt => true
  | .gt => false
  | .eq => a.sign && !b.sign

/-- The lesser (or greater) of two values; a NaN candidate wins (R95). -/
def minMax (greater : Bool) (a b : Num) : Num :=
  match pickNaN (nans [a, b]) with
  | some (s, p) => .nan s p
  | none => if greater then (if ltZ a b then b else a) else (if ltZ b a then b else a)

/-- The condition of R241 on two values. -/
def condNum (c : Cond) (a b : Num) : Bool :=
  let un := a.isNaN || b.isNaN
  let o := cmpNum a b
  match c with
  | .eq => !un && o = .eq
  | .ne => un || o ≠ .eq
  | .lt => !un && o = .lt
  | .le => !un && o ≠ .gt
  | .gt => !un && o = .gt
  | .ge => !un && o ≠ .lt
  | .un => un

-- ROUNDING

/-- Mix64 (R88). -/
def mix64 (z : Word) : Word :=
  let z := (z ^^^ (z >>> 30)) * 0xBF58476D1CE4E5B9
  let z := (z ^^^ (z >>> 27)) * 0x94D049BB133111EB
  z ^^^ (z >>> 31)

/-- RandomWord (R88). -/
def randomWord (seed seq c : Word) : Word :=
  mix64 (mix64 (seed ^^^ seq) + (c + 1) * 0x9E3779B97F4A7C15)

/-- The random source of a firing: seed, SEQ and the counter of the element (R88). -/
structure Rng where
  seed : Word
  seq : Word
  k : Word
  deriving DecidableEq, Repr

/-- The 32 bits that decide one stochastic rounding (R88). -/
def Rng.q (r : Rng) : Nat := (randomWord r.seed r.seq r.k).toNat / 2 ^ 32

/-- Whether a magnitude between lo and hi, `r / d` of the way up, goes to hi (R86, R88). `odd` is lo's last bit. -/
def roundUp (rm : Rm) (s odd : Bool) (r d : Nat) (q : Nat) : Bool :=
  if r = 0 then false
  else match rm with
    | .rn => 2 * r > d || (2 * r == d && odd)
    | .rz => false
    | .ru => !s
    | .rd => s
    | .rs => q < r * 2 ^ 32 / d

/-- `p / q × 2^k` as a fraction of two naturals. -/
def frac2 (p q : Nat) (k : Int) : Nat × Nat :=
  if 0 ≤ k then (p * 2 ^ k.toNat, q) else (p, q * 2 ^ (-k).toNat)

/-- Floor(log2(p / q × 2^e)) for positive p and q. -/
def log2Rat (p q : Nat) (e : Int) : Int :=
  let l : Int := p.log2 - q.log2
  let (n, d) := frac2 p q (-l)
  if d ≤ n then l + e else l - 1 + e

/-- The encoding of a magnitude `p / q × 2^e` on the format's grid, extended past its largest finite value (R86). -/
def roundMag (f : FloatFmt) (rm : Rm) (s : Bool) (p q : Nat) (e : Int) (rnd : Nat) : Nat :=
  let ex := log2Rat p q e
  let ex := if ex < f.emin then f.emin else ex
  let (n, d) := frac2 p q (e - (ex - f.mb))
  let lo := n / d
  let base := (ex - f.emin).toNat * 2 ^ f.mb
  base + (if roundUp rm s (lo % 2 == 1) (n % d) d rnd then lo + 1 else lo)

/-- The overflow result of R87. `inf` says that the exact value is infinite. -/
def overflow (f : FloatFmt) (rm : Rm) (sat : Bool) (s : Bool) (inf : Bool) : Nat :=
  match f.infEnc with
  | none => f.maxEnc
  | some i =>
    if sat then f.maxEnc
    else if inf then i
    else match rm with
      | .rn | .rs => i
      | .rz => f.maxEnc
      | .ru => if s then f.maxEnc else i
      | .rd => if s then i else f.maxEnc

/-- The sign bit of a format. -/
def signBit (f : FloatFmt) (s : Bool) : Nat := if s then 2 ^ (f.width - 1) else 0

/-- RoundTo (R86, R87, R94). -/
def roundTo (f : FloatFmt) (rm : Rm) (sat : Bool) (rnd : Nat) (x : Exact) : Nat :=
  match x with
  | .nan s p => signBit f s + (f.nanEnc ||| (p &&& f.payMask))
  | .zero s => signBit f s
  | .inf s => signBit f s + overflow f rm sat s true
  | .rat s p q e =>
    let m := roundMag f rm s p q e rnd
    signBit f s + (if m > f.maxEnc then overflow f rm sat s false else m)

/-- RoundFP32 (R86). -/
def roundFP32 (rm : Rm) (x : Exact) : Nat := roundTo fFP32 rm false 0 x

/-- Rounding to an integer and saturation to `lo .. hi` (R89). -/
def roundInt (lo hi : Int) (rm : Rm) (rnd : Nat) (x : Exact) : Int :=
  match x with
  | .nan _ _ => 0
  | .zero _ => 0
  | .inf s => if s then lo else hi
  | .rat s p q e =>
    let (n, d) := frac2 p q e
    let m := n / d
    let m : Int := if roundUp rm s (m % 2 == 1) (n % d) d rnd then m + 1 else m
    let v := if s then -m else m
    if v < lo then lo else if v > hi then hi else v

/-- Multiplication of an exact value by 2^k. -/
def Exact.scale2 (x : Exact) (k : Int) : Exact :=
  match x with
  | .rat s p q e => .rat s p q (e + k)
  | y => y

/-- Whether an exact value is not ±0. -/
def Exact.nonzero : Exact → Bool
  | .zero _ => false
  | _ => true

/-- |entry − v| of R90 for finite values: `v = ± p / q × 2^e`, as a fraction over `q` at exponent `e0`. -/
def cbDist (ent : Num) (s : Bool) (p q : Nat) (e : Int) (e0 : Int) : Nat :=
  match ent with
  | .fin t m f => (alignTo e0 t m f * q - alignTo e0 s p e).natAbs
  | _ => 0

/-- The first index of a list whose entry has the property, offset by `i`. -/
def firstIdx (ok : Num → Bool) : List Num → Nat → Option Nat
  | [], _ => none
  | x :: r, i => if ok x then some i else firstIdx ok r (i + 1)

/-- The lowest code of the least key among entries with the property (`key` smaller is better). -/
def bestIdx (ok : Num → Bool) (better : Num → Num → Bool) : List Num → Nat → Option (Nat × Num) → Option (Nat × Num)
  | [], _, b => b
  | x :: r, i, b =>
    if ok x then
      match b with
      | none => bestIdx ok better r (i + 1) (some (i, x))
      | some (j, y) => bestIdx ok better r (i + 1) (if better x y then some (i, x) else some (j, y))
    else bestIdx ok better r (i + 1) b

/-- Whether a value is finite. -/
def Num.isFin : Num → Bool
  | .fin _ _ _ => true
  | _ => false

/-- Conversion to CB4 (R90) of `v = x × 2^(127 − t)`. -/
def toCB4 (entries : List Num) (v : Exact) : Nat :=
  let nanCode := (firstIdx Num.isNaN entries 0).getD 0
  let infOf (s : Bool) := firstIdx (fun e => e = .inf s) entries 0
  let toFin (s : Bool) (p q : Nat) (e : Int) : Nat :=
    let e0 := minExp entries e
    match bestIdx Num.isFin (fun a b => cbDist a s p q e e0 < cbDist b s p q e e0) entries 0 none with
    | some (i, _) => i
    | none =>
      match infOf s with
      | some i => i
      | none => (infOf (!s)).getD nanCode
  match v with
  | .nan _ _ => nanCode
  | .zero s => toFin s 0 1 0
  | .rat s p q e => toFin s p q e
  | .inf s =>
    match infOf s with
    | some i => i
    | none =>
      match bestIdx Num.isFin (fun a b => if s then cmpNum a b = .lt else cmpNum a b = .gt) entries 0 none with
      | some (i, _) => i
      | none => (infOf (!s)).getD nanCode

/-- The 16 entries of a codebook (R82). -/
def cbEntries (cb : BitVec 256) : List Num :=
  (List.range 16).map fun k => floatValue fBF16 (cb.toNat / 2 ^ (16 * k) % 65536)

/-- Conversion of an exact value to an element of any format but Raw, under a target scale (R91). -/
def convertElt (cb : Nat → BitVec 256) (f : Fmt) (tsc : BitVec 8) (rm : Rm) (sat : Bool) (rnd : Nat) (x : Exact) : Nat :=
  let y := if f.scaled then x.scale2 (127 - tsc.toNat) else x
  match f with
  | .fp32 => roundTo fFP32 rm sat rnd y
  | .bf16 => roundTo fBF16 rm sat rnd y
  | .fp16 => roundTo fFP16 rm sat rnd y
  | .e4m3 => roundTo fE4M3 rm sat rnd y
  | .e5m2 => roundTo fE5M2 rm sat rnd y
  | .int8 => (roundInt (-128) 127 rm rnd y % 256).toNat
  | .int32 => (roundInt (-2147483648) 2147483647 rm rnd y % 4294967296).toNat
  | .int64 => (roundInt (-9223372036854775808) 9223372036854775807 rm rnd y % 18446744073709551616).toNat
  | .cb n => toCB4 (cbEntries (cb n.val)) y
  | .raw => 0

-- SQUARE ROOTS AND SPECIAL FUNCTIONS

/-- One bit of an integer square root. -/
def isqrtGo : Nat → Nat → Nat → Nat
  | 0, _, r => r
  | k + 1, n, r =>
    let c := r + 2 ^ k
    isqrtGo k n (if c * c ≤ n then c else r)

/-- Floor of the square root of n. -/
def isqrt (n : Nat) : Nat := isqrtGo (n.log2 / 2 + 1) n 0

/-- A value just above the integer `n` of a scale, when it is not exact: it rounds as the exact value does. -/
def sticky (s : Bool) (n : Nat) (exact : Bool) (e : Int) : Exact :=
  if exact then (if n = 0 then .zero s else .rat s n 1 e) else .rat s (2 * n + 1) 1 (e - 1)

/-- The square root of p / q × 2^e for positive p, q, to 160 bits and a sticky bit. -/
def sqrtRat (p q : Nat) (e : Int) : Exact :=
  let e' := if e % 2 = 0 then e else e - 1
  let p := if e % 2 = 0 then p else 2 * p
  let t := 160 + q.log2
  let n := p * 2 ^ (2 * t) / q
  let r := isqrt n
  sticky false r (r * r * q = p * 2 ^ (2 * t)) (e' / 2 - t)

/-- Sqrt of a value: √−0 is −0 (R96); a negative value is GenNaN(0x3) as VRSQ gives it. -/
def sqrtExact (a : Num) : Exact :=
  match a with
  | .nan s p => .nan s p
  | .inf s => if s then .nan false 3 else .inf false
  | .fin s m e => if m = 0 then .zero s else if s then .nan false 3 else sqrtRat m 1 e

/-- VRCP (R298). -/
def rcpExact (a : Num) : Exact :=
  match a with
  | .nan s p => .nan s p
  | .inf s => .zero s
  | .fin s m e => if m = 0 then .inf s else .rat s 1 m (-e)

/-- VRSQ (R298). -/
def rsqExact (a : Num) : Exact :=
  match a with
  | .nan s p => .nan s p
  | .inf s => if s then .nan false 3 else .zero false
  | .fin s m e =>
    if m = 0 then .inf s
    else if s then .nan false 3
    else if e % 2 = 0 then sqrtRat 1 m (-e) else sqrtRat 1 (2 * m) (-(e - 1))

/-- Fraction bits of the special functions. -/
def fnBits : Nat := 512

/-- 2^x for a fraction x of `fnBits` bits, by the bits of x: the product of the square roots of 2. `r` is the root
2^(2^−j) at each turn. -/
def exp2Go : Nat → Nat → Nat → Nat → Nat
  | 0, _, _, acc => acc
  | j + 1, x, root, acc =>
    let root' := isqrt (root * 2 ^ fnBits)
    exp2Go j (2 * x % 2 ^ fnBits) root' (if 2 ^ fnBits ≤ 2 * x then acc * root' / 2 ^ fnBits else acc)

/-- VEXP2 (R298). The fraction part is computed to 512 bits (notes/assumptions/12.md). -/
def exp2Exact (a : Num) : Exact :=
  match a with
  | .nan s p => .nan s p
  | .inf s => if s then .zero false else .inf false
  | .fin s m e =>
    if m = 0 then .rat false 1 1 0
    else
      -- beyond every target's range, whatever its scale, the result rounds alike
      let big : Bool := 0 < log2Rat m 1 e - 12
      if big then .rat false 1 1 (if s then -8192 else 8192)
      else
        let v := alignTo (if e < 0 then e else 0) s m e
        let sh : Nat := if e < 0 then (-e).toNat else 0
        let n := v / 2 ^ sh
        let f := (v % 2 ^ sh).toNat
        if f = 0 then .rat false 1 1 n
        else
          let x := if sh ≤ fnBits then f * 2 ^ (fnBits - sh) else f / 2 ^ (sh - fnBits)
          sticky false (exp2Go 400 x (2 * 2 ^ fnBits) (2 ^ fnBits)) false (n - fnBits)

/-- log2 of y in [1, 2) of `fnBits` bits, bit by bit, by squaring. -/
def log2Go : Nat → Nat → Nat → Nat
  | 0, _, acc => acc
  | j + 1, y, acc =>
    let z := y * y / 2 ^ fnBits
    if 2 ^ (fnBits + 1) ≤ z then log2Go j (z / 2) (2 * acc + 1) else log2Go j z (2 * acc)

/-- VLOG2 (R298). The fraction is computed to 256 bits from 512-bit squares (notes/assumptions/12.md). -/
def log2Exact (a : Num) : Exact :=
  match a with
  | .nan s p => .nan s p
  | .inf s => if s then .nan false 3 else .inf false
  | .fin s m e =>
    if m = 0 then .inf true
    else if s then .nan false 3
    else
      let l := m.log2
      let n : Int := l + e
      if m = 2 ^ l then .ofInt false n 0
      else
        let y := if l ≤ fnBits then m * 2 ^ (fnBits - l) else m / 2 ^ (l - fnBits)
        let f := log2Go 256 y 0
        let v : Int := n * 2 ^ 257 + (2 * f + 1)
        .rat (v < 0) v.natAbs 1 (-257)

end Sys2Proof.Machine
end

