-- ==== Sys2Proof/Machine/Ops.lean ====
section
/-! DEFINITION. The named operations over the state: registers, results and their latencies, error tokens and trap
records (the device's one way of taking an exception), memory blocks at their home, timers and free values. -/

namespace Sys2Proof.Machine

/-- What `exec` and `step` answer. -/
abbrev Out := Host.Outcome State Fault Refusal

-- PARTS OF THE STATE

/-- A tile by its global tile id (R2). -/
def State.tile (s : State) (t : Nat) : Tile := Sparse.get s.tiles Tile.reset t
/-- The state with a tile replaced. -/
def State.setTile (s : State) (t : Nat) (x : Tile) : State := { s with tiles := Sparse.set s.tiles t x }
/-- The state with a tile changed. -/
def State.modTile (s : State) (t : Nat) (f : Tile → Tile) : State := s.setTile t (f (s.tile t))
/-- A station, bay tile or evaluation by its key. -/
def State.actor (s : State) (a : Nat) : Actor := Sparse.get s.actors Actor.idle a
/-- The state with a unit replaced. -/
def State.setActor (s : State) (a : Nat) (x : Actor) : State := { s with actors := Sparse.set s.actors a x }
/-- The state with a unit changed. -/
def State.modActor (s : State) (a : Nat) (f : Actor → Actor) : State := s.setActor a (f (s.actor a))
/-- A die (R2). -/
def State.die (s : State) (d : Nat) : Die := Sparse.get s.dies Die.reset d
/-- The state with a die replaced. -/
def State.setDie (s : State) (d : Nat) (x : Die) : State := { s with dies := Sparse.set s.dies d x }
/-- The state with a die changed. -/
def State.modDie (s : State) (d : Nat) (f : Die → Die) : State := s.setDie d (f (s.die d))
/-- A line by its key, 48 × die + region. -/
def State.line? (s : State) (l : Nat) : Option Line := Sparse.find? s.lines l
/-- The state with a line changed, when it is placed. -/
def State.modLine (s : State) (l : Nat) (f : Line → Line) : State :=
  match s.line? l with
  | some x => { s with lines := Sparse.set s.lines l (f x) }
  | none => s
/-- A context. -/
def State.ctx? (s : State) (c : Nat) : Option Ctx := Sparse.find? s.ctxs c
/-- The state with a context changed, when it exists. -/
def State.modCtx (s : State) (c : Nat) (f : Ctx → Ctx) : State :=
  match s.ctx? c with
  | some x => { s with ctxs := Sparse.set s.ctxs c (f x) }
  | none => s
/-- The state with a graph changed. -/
def State.modGraph (s : State) (g : Nat) (f : Graph → Graph) : State :=
  match Sparse.find? s.graphs g with
  | some x => { s with graphs := Sparse.set s.graphs g (f x) }
  | none => s
/-- The state with the management registers changed. -/
def State.modMgmt (s : State) (f : Mgmt → Mgmt) : State := { s with mgmt := f s.mgmt }

/-- The key of station `stn` of a line. -/
def stationKey (line stn : Nat) : Nat := line * 64 + stn
/-- The key of a bay tile. -/
def bayKey (tile : Nat) : Nat := 16384 + tile
/-- The key of an evaluation on a pool slot (R118). -/
def evalKey (die slot : Nat) : Nat := 32768 + die * 128 + slot
/-- The key of an engine, edge engines 0..31 and copy engines 32..47 of each die (R105). -/
def engineKey (die n : Nat) : Nat := 65536 + die * 48 + n
/-- The key of the H-die. -/
def hostKey : Nat := 131072
/-- The key of a link port (R429). -/
def portKey (p : Nat) : Nat := 131080 + p
/-- The key of a die's launch engine, placer and regulator. -/
def launchKey (die : Nat) : Nat := 131200 + die
/-- The key of a die's L2 slices and cell agents. -/
def sliceKey (die : Nat) : Nat := 131300 + die

/-- The die of a tile (R2). -/
def dieOf (tile : Nat) : Nat := tile / 192
/-- The die-local index y × 16 + x of a tile (R2, R399). -/
def localOf (tile : Nat) : Nat := tile % 192

-- FREE VALUES AND TIMERS

/-- The state after one more free value has been drawn. -/
def State.drew (s : State) : State := { s with fresh := s.fresh + 1 }

/-- An event in `n` cycles. -/
def State.after (s : State) (n : Nat) (e : Instr) : State := { s with timers := s.timers ++ [(s.cycle + n, e)] }

/-- An event after a latency that is not architected: one cycle or more. -/
def State.later (s : State) (e : Instr) : State :=
  { s with timers := s.timers ++ [(s.cycle + 1 + Config.latency s.fresh, e)], fresh := s.fresh + 1 }

/-- An event that is performed next, within this cycle. -/
def State.now (s : State) (e : Instr) : State := { s with agenda := .event e :: s.agenda }

-- REGISTERS

/-- A bank of a tile. -/
def Tile.bank (t : Tile) (b : Nat) : Bank := Sparse.get t.banks Bank.zero b
/-- The tile with a bank changed. -/
def Tile.modBank (t : Tile) (b : Nat) (f : Bank → Bank) : Tile := { t with banks := Sparse.set t.banks b (f (t.bank b)) }
/-- A g register of a bank. -/
def Bank.gr (b : Bank) (r : Nat) : GReg := Sparse.get b.g GReg.zero r
/-- A v register of a bank. -/
def Bank.vr (b : Bank) (r : Nat) : VReg := Sparse.get b.v VReg.zero r
/-- A predicate of a bank. -/
def Bank.pr (b : Bank) (n : Nat) : Bool := b.p.getLsbD n
/-- The bank with a predicate written. -/
def Bank.setP (b : Bank) (n : Nat) (x : Bool) : Bank :=
  { b with p := if x then b.p ||| (1#8 <<< n) else b.p &&& ~~~(1#8 <<< n) }

/-- The bank of the firing (R235). -/
def State.bk (s : State) : Bank := (s.tile s.cur.tile).bank s.cur.bank
/-- Reg of a g operand (R231). -/
def State.g (s : State) (r : Fin 16) : GReg := s.bk.gr r.val
/-- Reg of a v operand (R231). -/
def State.v (s : State) (r : Fin 16) : VReg := s.bk.vr r.val
/-- Pred (R231). -/
def State.pred (s : State) (n : Fin 8) : Bool := s.bk.pr n.val
/-- The unit that fires. -/
def State.me (s : State) : Actor := s.actor s.cur.actor
/-- The state with the firing unit changed. -/
def State.modMe (s : State) (f : Actor → Actor) : State := s.modActor s.cur.actor f
/-- The tile that fires. -/
def State.here (s : State) : Tile := s.tile s.cur.tile
/-- The state with the firing tile changed. -/
def State.modHere (s : State) (f : Tile → Tile) : State := s.modTile s.cur.tile f

/-- Whether a g register holds an error token (R400). -/
def GReg.isTok (x : GReg) : Bool := x.pair = Pair.token
/-- Whether a v register holds an error token (R400). -/
def VReg.isTok (x : VReg) : Bool := x.pair = Pair.token

/-- The target of a write. -/
def Wr.target : Wr → Res
  | .g b r _ => .g b r
  | .v b r _ => .v b r
  | .p b n _ => .p b n
  | .mark r => r
  | .chain r => .a r

/-- The tile after a result's write. -/
def Wr.apply (t : Tile) : Wr → Tile
  | .g b r x => t.modBank b fun k => { k with g := Sparse.set k.g r x }
  | .v b r x => t.modBank b fun k => { k with v := Sparse.set k.v r x }
  | .p b n x => t.modBank b fun k => k.setP n x
  | .mark _ => t
  | .chain _ => t

/-- A firing whose results are seen `l` cycles after issue, with the token that it produces or passes on (R234). -/
def State.issue (s : State) (l : Nat) (ws : List Wr) (tok : Option Tok) : State :=
  { s with results := s.results ++ [⟨s.cycle + l, s.cur, ws, tok⟩] }

/-- The write of a g register of the firing's bank. -/
def State.wg (s : State) (d : Fin 16) (x : GReg) : Wr := .g s.cur.bank d.val x
/-- The write of a v register of the firing's bank. -/
def State.wv (s : State) (d : Nat) (x : VReg) : Wr := .v s.cur.bank d x
/-- The write of a predicate of the firing's bank. -/
def State.wp (s : State) (n : Fin 8) (b : Bool) : Wr := .p s.cur.bank n.val b
/-- The write of PD, when the instruction has one. -/
def State.wpd (s : State) (pd : PDst) (b : Bool) : List Wr :=
  match pd with
  | some n => [s.wp n b]
  | none => []

-- THE SCRATCHPAD'S PORTS

/-- The cycles until the scratchpad takes the next read group (R52). -/
def State.readWait (s : State) : Nat := s.here.spRead - s.cycle
/-- The cycles until the scratchpad takes the next write group (R52). -/
def State.writeWait (s : State) : Nat := s.here.spWrite - s.cycle
/-- Read groups occupy the scratchpad for `k` cycles (R52). -/
def State.useRead (s : State) (k : Nat) : State := s.modHere fun t => { t with spRead := s.cycle + s.readWait + k }
/-- Write groups occupy the scratchpad for `k` cycles (R52). -/
def State.useWrite (s : State) (k : Nat) : State := s.modHere fun t => { t with spWrite := s.cycle + s.writeWait + k }

-- ERROR RECORDS

/-- The errors of R398. -/
inductive Err where
  | illegalConfig | bounds | translation | permission | uncorrectable | formatReserved | shapeOverrun | zeroPivot
  | notPd | selfDependence | evalDepth | evalAbandoned | cellPoisoned | counterUnderflow | barrierOverarrive
  | promiseMissed | remoteTimeout | destExited | budget | cancelled | watchdog | configAbsent | trap | watchpoint | link
  deriving DecidableEq, Repr

/-- The code of an error (R398). -/
def Err.code : Err → BitVec 8
  | .illegalConfig => 0x01 | .bounds => 0x02 | .translation => 0x03 | .permission => 0x04 | .uncorrectable => 0x05
  | .formatReserved => 0x06 | .shapeOverrun => 0x07 | .zeroPivot => 0x08 | .notPd => 0x09 | .selfDependence => 0x0A
  | .evalDepth => 0x0B | .evalAbandoned => 0x0C | .cellPoisoned => 0x0D | .counterUnderflow => 0x0E
  | .barrierOverarrive => 0x0F | .promiseMissed => 0x10 | .remoteTimeout => 0x11 | .destExited => 0x12
  | .budget => 0x13 | .cancelled => 0x14 | .watchdog => 0x15 | .configAbsent => 0x16 | .trap => 0x17
  | .watchpoint => 0x18 | .link => 0x19

namespace Cause
/-- E_BOUNDS causes (R47, R51, R54, R131, R141, R236, R253, R279, R316, R330, R337). -/
def outOfWindow : BitVec 8 := 0x01
def misaligned : BitVec 8 := 0x02
def rotationAlign : BitVec 8 := 0x03
def nonexistent : BitVec 8 := 0x04
def descriptor : BitVec 8 := 0x05
def footprint : BitVec 8 := 0x06
def bindTableFull : BitVec 8 := 0x07
def bankMask : BitVec 8 := 0x08
def routeEntry : BitVec 8 := 0x09
def counterRange : BitVec 8 := 0x0A
def pivotEntry : BitVec 8 := 0x0B
def rowRange : BitVec 8 := 0x0C
def factorState : BitVec 8 := 0x0D
/-- E_TRANSLATION causes (R37). -/
def noncanonical : BitVec 8 := 0x01
def notValid : BitVec 8 := 0x02
def malformed : BitVec 8 := 0x03
def deviceRange : BitVec 8 := 0x04
def unbacked : BitVec 8 := 0x05
def migrationTimeout : BitVec 8 := 0x06
/-- E_PERMISSION causes (R37, R54, R102, R269, R346). -/
def read : BitVec 8 := 0x01
def write : BitVec 8 := 0x02
def configRead : BitVec 8 := 0x03
def cells : BitVec 8 := 0x04
def key : BitVec 8 := 0x05
def foreignTile : BitVec 8 := 0x06
def cellTag : BitVec 8 := 0x07
def syncState : BitVec 8 := 0x08
def noLine : BitVec 8 := 0x09
/-- E_FORMAT_RESERVED causes (R77, R78, R289). -/
def reservedCode : BitVec 8 := 0x01
def rawUntyped : BitVec 8 := 0x02
def formatMismatch : BitVec 8 := 0x03
/-- E_EVAL_ABANDONED causes (R121). -/
def frozen : BitVec 8 := 0x01
def killed : BitVec 8 := 0x02
def noRecord : BitVec 8 := 0x03
def exited : BitVec 8 := 0x04
def noPool : BitVec 8 := 0x05
def contextAbsent : BitVec 8 := 0x06
/-- E_LINK causes (R471). -/
def noQueue : BitVec 8 := 0x01
def header : BitVec 8 := 0x02
def port : BitVec 8 := 0x03
end Cause

/-- A field of a number placed at a bit position. -/
def at_ (x : Nat) (pos w : Nat) : Nat := x % 2 ^ w * 2 ^ pos

/-- The error record of R399, by its code. -/
def recordOf (dev : Nat) (o : Origin) (code : Nat) (cause : BitVec 8) (detail : Nat) : BitVec 256 :=
  BitVec.ofNat 256 (at_ detail 192 64 + at_ o.wid 128 64 + at_ o.seq 80 48 + at_ dev 64 14 + at_ o.cver 48 16
    + at_ o.slot 44 4 + at_ o.stn 38 6 + at_ o.region 32 6 + at_ o.config 29 3 + at_ o.tile 21 8 + at_ o.die 19 2
    + at_ o.okind 16 3 + at_ cause.toNat 8 8 + at_ code 0 8)

/-- The error record of R399. -/
def record (dev : Nat) (o : Origin) (e : Err) (cause : BitVec 8) (detail : Nat) : BitVec 256 :=
  recordOf dev o e.code.toNat cause detail

/-- The record with MULTI set (R402). -/
def setMulti (r : BitVec 256) : BitVec 256 := r ||| (1#256 <<< 78)

/-- The station's number of the configuration that a unit has active: a bay tile's copy carries the station's number
(R177). -/
def State.cfgNo (s : State) (a : Actor) : Nat :=
  match a.kind with
  | .bay => (Sparse.get (s.tile a.tile).copies (a.line, a.stn, a.active) a.active).2.2
  | .eval => a.active % 8
  | .station => a.active

/-- The origin fields of a unit, with the slot that fired (R399, R177). -/
def State.origin (s : State) (key slot : Nat) : Origin :=
  let a := s.actor key
  let h := match a.item with | some i => i.desc.h | none => HState.zero
  { okind := match a.kind with | .station => 0 | .bay => 1 | .eval => 2
    die := dieOf a.tile
    tile := localOf a.tile
    config := s.cfgNo a
    region := if a.kind = .eval then 0 else a.line % 48
    stn := a.stn
    slot := slot
    cver := match s.line? a.line with | some l => if a.kind = .eval then 0 else l.cver.toNat | none => 0
    seq := h.seq.toNat
    wid := h.wid.toNat }

/-- The device number (R424). -/
def State.dev (s : State) : Nat := s.mgmt.devnum.toNat % 2 ^ 14

/-- The record of an error that the firing raises. -/
def State.raise (s : State) (e : Err) (cause : BitVec 8) (detail : Nat) : BitVec 256 :=
  record s.dev (s.origin s.cur.actor s.cur.slot) e cause detail

/-- A produced token of the firing (R401). -/
def State.tok (s : State) (e : Err) (cause : BitVec 8) (detail : Nat) : Tok := ⟨s.raise e cause detail, true⟩

/-- The g register that holds a token: bits 63:0 of its record (R400). -/
def Tok.greg (t : Tok) : GReg := ⟨t.record.extractLsb' 0 64, Pair.token⟩
/-- The v register that holds a token: its record in bits 255:0 (R400). -/
def Tok.vreg (t : Tok) : VReg := ⟨t.record.setWidth 512, Pair.token⟩

/-- The record of a g token, whose other words are rebuilt from the header state with DETAIL 0 (R400). -/
def State.gRecord (s : State) (key : Nat) (x : GReg) : BitVec 256 :=
  let h := (s.actor key).hs
  BitVec.ofNat 256 (x.val.toNat + at_ s.dev 64 14 + at_ h.seq.toNat 80 48 + at_ h.wid.toNat 128 64)

/-- The token that an instruction passes on from a g operand (R238, R264, R316). -/
def State.passG (s : State) (x : GReg) : Tok := ⟨s.gRecord s.cur.actor x, false⟩
/-- The token that an instruction passes on from a v operand (R290). -/
def passV (x : VReg) : Tok := ⟨x.val.setWidth 256, false⟩

-- TRAP RECORDS AND TOKENS

/-- Whether the H-die, an engine or a unit writes on behalf of a line, and that line's beat counter (R404). -/
def State.beatOf (s : State) (key : Nat) : Word :=
  if key < 32768 then
    match s.line? (s.actor key).line with
    | some l => l.counter.setWidth 64
    | none => 0
  else 0

/-- The place of a requester among those whose requests arrive in one cycle: the device's agents, tiles by global id, engines by
die and number, the H-die, link ports (R32, R60). -/
def partyRank (key tile : Nat) : Nat :=
  if key < 65536 ∨ 200000 ≤ key then 1000 + tile
  else if key < hostKey then 1000000 + key
  else if key = hostKey then 2000000
  else if key < launchKey 0 then 3000000 + key
  else 0

/-- Whether a record stands before one that a writer produces now: those of earlier cycles, and those of its cycle by their
writers, one writer's in their order (R406). -/
def State.trapBefore (s : State) (writer : Nat) (t : Trap) : Bool :=
  decide (t.since < s.cycle) || decide (partyRank t.writer (s.actor t.writer).tile ≤ partyRank writer (s.actor writer).tile)

/-- A trap record on its way to a context's ring, which it reaches at the end of the cycle (R404, R406). -/
def State.trapAux (s : State) (ctx writer : Nat) (r : BitVec 256) (aux : Word) : State :=
  { s with
    traps := s.traps.takeWhile (s.trapBefore writer) ++ ⟨ctx, writer, r, aux, s.cycle⟩ :: s.traps.dropWhile (s.trapBefore writer)
    agenda := s.agenda ++ [.event .trapRecordWrite] }

/-- A trap record with the writer's beat in AUX. -/
def State.trap (s : State) (ctx writer : Nat) (r : BitVec 256) : State := s.trapAux ctx writer r (s.beatOf writer)

/-- The item with a token attached (R401, R402). -/
def Item.attach (i : Item) (t : Tok) : Item :=
  match i.record with
  | none => { i with record := some t.record }
  | some r => { i with record := some (if t.produced then setMulti r else r) }

/-- TAKING AN ERROR, the device's exception: the token is attached to the unit's current item; in a bubble beat, and in
an evaluation, a produced token is written at once as a trap record, and one passed on writes nothing (R401, R402,
R122). -/
def State.attach (s : State) (key : Nat) (t : Tok) : State :=
  let a := s.actor key
  match a.item with
  | some i =>
    s.setActor key { a with item := some { i.attach t with marked := if i.record.isNone then s.cycle else i.marked } }
  | none => if t.produced then s.trap a.ctx key t.record else s

/-- The same, when there is a token. -/
def State.attach? (s : State) (key : Nat) (t : Option Tok) : State :=
  match t with
  | some t => s.attach key t
  | none => s

/-- The delivery of a result: its writes, then its token (R234, R401). -/
def State.deliver (s : State) (r : Result) : State :=
  (s.modTile r.fire.tile fun t => r.writes.foldl Wr.apply t).attach? r.fire.actor r.tok

-- ITEMS AND ROUNDING

/-- Whether the unit holds an item that is not a bubble. -/
def Actor.hasItem (a : Actor) : Bool := a.item.isSome

/-- SEQ of the current item, or 0 (R88). -/
def Actor.seqNo (a : Actor) : Word :=
  match a.item with
  | some i => i.desc.h.seq.setWidth 64
  | none => 0

/-- The random source of the firing, `e` elements on (R88). -/
def State.rng (s : State) (e : Nat) : Rng := ⟨s.me.seed, s.me.seqNo, s.me.k + BitVec.ofNat 64 e⟩

/-- The random bits for element `e` of the firing under a mode (R88). -/
def State.rnd (s : State) (rm : Rm) (e : Nat) : Nat := if rm = .rs then (s.rng e).q else 0

/-- The counter k after a firing that rounds `n` elements (R88). -/
def State.advK (s : State) (rm : Rm) (n : Nat) : State :=
  if rm = .rs then s.modMe fun a => { a with k := a.k + BitVec.ofNat 64 n } else s

/-- The codebooks of the firing's context (R82). -/
def State.cb (s : State) (n : Nat) : BitVec 256 :=
  match s.ctx? s.me.ctx with
  | some c => Sparse.get c.cbs 0 n
  | none => 0

-- MEMORY

namespace Memory

/-- What an unlisted address reads as: the value that bringing a frame into use writes (R29). -/
def blank : BitVec 8 := 0

/-- The canonical form: addresses strictly rising, no entry equal to what an unlisted address reads as. -/
def wf : List Host.Cell → Bool
  | [] => true
  | (a, x) :: r => x != blank && (match r with | [] => true | (b, _) :: _ => a < b) && wf r

/-- A byte. -/
def get (m : List Host.Cell) (a : Nat) : BitVec 8 :=
  match m with
  | [] => blank
  | (b, x) :: r => if b = a then x else get r a

/-- The memory with a byte written, in canonical form. -/
def set (m : List Host.Cell) (a : Nat) (x : BitVec 8) : List Host.Cell :=
  match m with
  | [] => if x = blank then [] else [(a, x)]
  | (b, y) :: r =>
    if a < b then (if x = blank then (b, y) :: r else (a, x) :: (b, y) :: r)
    else if a = b then (if x = blank then r else (a, x) :: r)
    else (b, y) :: set r a x

/-- `n` bytes from `a`, little-endian (R6). -/
def getN (m : List Host.Cell) (a : Nat) : Nat → Nat
  | 0 => 0
  | n + 1 => (get m a).toNat + 256 * getN m (a + 1) n

/-- `n` bytes of `x` written from `a`, little-endian (R6). -/
def setN (m : List Host.Cell) (a : Nat) (x : Nat) : Nat → List Host.Cell
  | 0 => m
  | n + 1 => setN (set m a (BitVec.ofNat 8 x)) (a + 1) (x / 256) n

end Memory

/-- Home die of a device-physical address (R12). -/
def homeDie (pa : Nat) : Nat := pa / 2 ^ 44 % 4

/-- Offset at or above the usable size of its tier (R13). -/
def unbacked (pa : Nat) : Bool :=
  let off := pa % 2 ^ 43
  if pa / 2 ^ 43 % 2 = 0 then Config.gddrUsable ≤ off else Config.lpddrUsable ≤ off

/-- The slice that homes a block (R59). -/
def sliceOf (pa : Nat) : Nat :=
  (List.range 8).foldl (fun a k => Nat.xor a (pa / 2 ^ (5 * k + 6) % 32)) 0

/-- The sidecar of an unlisted block (R29). -/
def Side.plain : Side := ⟨0x00, 127, 0⟩

/-- The cell tags (R101). -/
def tagPlain : BitVec 4 := 0
def tagSuspended : BitVec 4 := 1
def tagEvaluating : BitVec 4 := 2
def tagPoisoned : BitVec 4 := 3
def tagSync : BitVec 4 := 4
def tagGrouplink : BitVec 4 := 5

/-- A block with its sidecar (R25). -/
structure Block where
  data : Blk
  side : Side
  deriving DecidableEq, Repr

/-- The sidecar of the block at a device-physical address. -/
def State.side (s : State) (pa : Nat) : Side := Sparse.get s.sides Side.plain (pa / 64)

/-- The stored bytes of the block at a device-physical address. -/
def State.stored (s : State) (pa : Nat) : Blk := BitVec.ofNat 512 (Memory.getN s.mem (pa / 64 * 64) 64)

/-- The sidecars with one replaced; a sidecar at its reset value is not listed. -/
def setSide (m : Sparse Side) (b : Nat) (x : Side) : Sparse Side :=
  if x = Side.plain then Sparse.del m b else Sparse.set m b x

/-- A key tag: the key id and how often it has been assigned (R437). -/
def State.keyTag (s : State) (k : Nat) : Nat := k + 1024 * Sparse.get s.mgmt.keyGen 0 k

-- THE L2 OF A HOME (R59, R61, R64)

/-- The lines of the slice in which a block is homed. -/
def State.l2Slice (s : State) (b : Nat) : Sparse L2Line :=
  s.l2.filter fun x => homeDie (x.1 * 64) == homeDie (b * 64) && sliceOf (x.1 * 64) == sliceOf (b * 64)

/-- The line that makes room for a block: none while its set has a way free; else one inserted as the first candidate, or
one of the L2's own choice (R59, R61). -/
def State.l2Victim (s : State) (b : Nat) : Option Nat :=
  let sl := s.l2Slice b
  if sl.length < Config.l2Ways then none
  else
    let set := sl.filter fun x => Config.l2Set x.1 % Config.l2Sets == Config.l2Set b % Config.l2Sets
    if set.length < Config.l2Ways then none
    else
      match set.find? (·.2.first) with
      | some x => some x.1
      | none => (set[Config.victim s.cycle b % set.length]?).map (·.1)

/-- A line leaves the L2: a dirty one is written to memory under a fresh check code (R26, R61). -/
def State.dropL2 (s : State) (b : Nat) : State :=
  { s with
    errs := if (Sparse.find? s.l2 b).any (·.dirty) then Sparse.del s.errs b else s.errs
    l2 := Sparse.del s.l2 b }

/-- The L2 after an operation on a block under a policy: a present line is updated, and an absent one is allocated under
every policy but uncached, which writes through (R61, R64). -/
def State.l2Touch (s : State) (pol : Pol) (b : Nat) (wr : Bool) : State :=
  match Sparse.find? s.l2 b with
  | some l =>
    { s with l2 := Sparse.set s.l2 b (if wr then { l with dirty := decide (pol ≠ .uncached), bad := false } else l) }
  | none =>
    if pol = .uncached then s
    else
      let s1 := match s.l2Victim b with | some v => s.dropL2 v | none => s
      { s1 with l2 := Sparse.set s1.l2 b ⟨wr, pol = .streaming, false⟩ }

/-- A whole block is stored under a key id: data and sidecar as one unit, a fresh check code (R25, R26). -/
def State.storeMem (s : State) (key pa : Nat) (b : Block) : State :=
  { s with
    mem := Memory.setN s.mem (pa / 64 * 64) b.data.toNat 64
    sides := setSide s.sides (pa / 64) b.side
    keyed := Sparse.set s.keyed (pa / 64) (s.keyTag key)
    errs := Sparse.del s.errs (pa / 64) }

/-- A write of a whole block at its home, under a policy (R61). -/
def State.putAt (s : State) (pol : Pol) (key pa : Nat) (b : Block) : State := (s.storeMem key pa b).l2Touch pol (pa / 64) true

/-- A block is written again within an operation that has read or written it: what its policy has allocated stays as it is
(R61, R64). -/
def State.rewrite (s : State) (key pa : Nat) (b : Block) : State :=
  { s.storeMem key pa b with l2 := match Sparse.find? s.l2 (pa / 64) with
      | some l => Sparse.set s.l2 (pa / 64) { l with bad := false }
      | none => s.l2 }

/-- A write of a whole block by an operation that has home-only behaviour (R64). -/
def State.putBlock (s : State) (key pa : Nat) (b : Block) : State := s.putAt .homeOnly key pa b

/-- Whether a block lies in a save area, past its header, and has not been written since: what its sections hold has no
layout that a program could rely on (R411). -/
def State.inArea (s : State) (pa : Nat) : Bool :=
  (Sparse.find? s.keyed (pa / 64)).isNone && s.mgmt.areas.any fun v => v.1 / 64 < pa / 64 && pa / 64 < v.1 / 64 + v.2

/-- The block as its bytes read under a key id: without meaning under another key than the one it was last written
under (R41, R128). -/
def State.peek (s : State) (key pa : Nat) : Block :=
  let k := Sparse.get s.keyed (s.keyTag key) (pa / 64)
  ⟨if k = s.keyTag key && !s.inArea pa then s.stored pa else Config.freeBlk s.fresh, s.side pa⟩

/-- A poisoned block: the record in bytes 31:0, zero above (R121). -/
def poisoned (r : BitVec 256) : Block := ⟨r.setWidth 512, ⟨0x00, 127, tagPoisoned⟩⟩

/-- The key id under which a block is kept when the device rewrites it: the one it was last written under, if any. -/
def State.keyOf (s : State) (key pa : Nat) : Nat := Sparse.get s.keyed key (pa / 64) % 1024

/-- A read of the block in memory: an error of at most two bytes is corrected and written back; a larger one is found, or
lies within two bytes of another codeword, which the data bytes and the sidecar then hold (R26, R28). Answers the block, or
`none` where it is uncorrectable. -/
def State.readMem (s : State) (key pa : Nat) : State × Option Block :=
  let e := Sparse.get s.errs [] (pa / 64)
  let s1 := s.drew
  if e.length = 0 then (s1, some (s.peek key pa))
  else if e.length ≤ 2 then
    ({ s1 with errs := Sparse.del s.errs (pa / 64) }.modDie (homeDie pa) fun d => { d with trend := d.trend + 1 },
      some (s.peek key pa))
  else if Config.freeBool s.fresh then (s1, none)
  else
    let w := Config.freeWord s.fresh
    let b : Block := ⟨Config.freeBlk s.fresh, ⟨w.setWidth 8, w.extractLsb' 8 8, w.extractLsb' 16 4⟩⟩
    (s1.drew.storeMem (s.keyOf key pa) pa b, some b)

/-- A read at home under a policy: the L2's line when the block is present, else memory (R61). A block with an error that
cannot be corrected, or with a reserved tag, is rewritten as poisoned with zero data, and there is none to deliver (R28,
R101). -/
def State.readAt (s : State) (pol : Pol) (key pa : Nat) : State × Option Block :=
  let (s1, b) : State × Option Block := match Sparse.find? s.l2 (pa / 64) with
    | some l => (s.drew, if l.bad then none else some (s.peek key pa))
    | none => s.readMem key pa
  match b with
  | some b =>
    if b.side.tag.toNat < 6 then (s1.l2Touch pol (pa / 64) false, some b)
    else (s1.putAt pol (s.keyOf key pa) pa (poisoned 0), none)
  | none => (s1.putAt pol (s.keyOf key pa) pa (poisoned 0), none)

/-- A read by an operation that has home-only behaviour (R64). -/
def State.readHome (s : State) (key pa : Nat) : State × Option Block := s.readAt .homeOnly key pa

/-- Bytes of `new` where `mask` has a bit, of `old` elsewhere (R57). -/
def mergeBytes (old new : Blk) (mask : BitVec 64) : Blk :=
  let m : Blk := (List.range 64).foldl
    (fun a i => if mask.getLsbD i then a ||| (0xFF#512 <<< (8 * i)) else a) 0
  (old &&& ~~~m) ||| (new &&& m)

/-- The mask of `n` bytes from byte `i` of a block. -/
def maskAt (i n : Nat) : BitVec 64 := BitVec.ofNat 64 ((2 ^ n - 1) * 2 ^ i)

/-- A write of some bytes, merged with the stored block at its home (R26, R57). Says whether the block could be read: when
it could not, nothing is merged (R28). -/
def State.mergeHome (s : State) (pol : Pol) (key pa : Nat) (new : Blk) (mask : BitVec 64) (side : Side → Side) : State × Bool :=
  match s.readAt pol key pa with
  | (s1, some b) => (s1.putAt pol key pa ⟨mergeBytes b.data new mask, side b.side⟩, true)
  | (s1, none) => (s1, false)

/-- A field of a block. -/
def Blk.fld (b : Blk) (pos w : Nat) : Nat := b.toNat / 2 ^ pos % 2 ^ w

/-- A block with a field replaced. -/
def Blk.put (b : Blk) (pos w x : Nat) : Blk :=
  BitVec.ofNat 512 (b.toNat - at_ (b.toNat / 2 ^ pos) pos w + at_ x pos w)

-- MANAGEMENT LOG AND STRAY COUNTS

/-- A stray or refused management access is counted (R40). -/
def State.strayed (s : State) : State := s.modMgmt fun m => { m with stray := m.stray + 1 }

/-- A record of the management log (R423): the ring's first 64 bytes hold PROD, its records stand in the 1,023 slots
behind them (notes/assumptions/21.md). -/
def State.logRec (s : State) (r : Blk) : State :=
  s.modMgmt fun m => { m with log := Sparse.set m.log (1 + m.logProd.toNat % 1023) r, logProd := m.logProd + 1 }

end Sys2Proof.Machine
end

