-- ==== Sys2Proof/Machine/Operands.lean ====
section
/-! DEFINITION. Every operand form: integer types (R196, R238), memory addresses (R262, R263), scratchpad addresses,
descriptors, generators, rotation and bank conflicts (R42 to R52, R272), lanes of v registers (R286, R287), queue heads
(R237), header fields (R252), row words and n words (R315, R328). -/

namespace Sys2Proof

/-- Width of an integer type (R196). -/
def IntTy.width : IntTy → Nat
  | .i8 | .n8 => 8 | .i16 | .n16 => 16 | .i32 | .n32 => 32 | .i64 | .n64 => 64

/-- Whether the type is signed (R196). -/
def IntTy.signed : IntTy → Bool
  | .i8 | .i16 | .i32 | .i64 => true
  | _ => false

/-- The low w bits of a word, signed for the .i types (R238). -/
def IntTy.val (ty : IntTy) (x : Word) : Int :=
  let v := x.toNat % 2 ^ ty.width
  if ty.signed ∧ 2 ^ (ty.width - 1) ≤ v then (v : Int) - 2 ^ ty.width else v

/-- The least value of the type. -/
def IntTy.lo (ty : IntTy) : Int := if ty.signed then -(2 ^ (ty.width - 1)) else 0
/-- The greatest value of the type. -/
def IntTy.hi (ty : IntTy) : Int := if ty.signed then 2 ^ (ty.width - 1) - 1 else 2 ^ ty.width - 1

/-- An exact result wrapped to w bits and extended to 64 by the type (R238). -/
def IntTy.wrap (ty : IntTy) (x : Int) : Word :=
  let v := (x % 2 ^ ty.width).toNat
  if ty.signed ∧ 2 ^ (ty.width - 1) ≤ v then BitVec.ofInt 64 ((v : Int) - 2 ^ ty.width) else BitVec.ofNat 64 v

/-- An exact result, saturated under SAT and wrapped otherwise (R238). -/
def IntTy.fit (ty : IntTy) (sat : Bool) (x : Int) : Word :=
  if sat then ty.wrap (if x < ty.lo then ty.lo else if x > ty.hi then ty.hi else x) else ty.wrap x

/-- A type's width in bytes. -/
def IntTy.bytes (ty : IntTy) : Nat := ty.width / 8

end Sys2Proof

namespace Sys2Proof.Machine

-- MEMORY ADDRESSES

/-- The virtual address of layout 1 (R262). -/
def address (base : Word) (off : Off) (size : Nat) : Word :=
  match off with
  | .plain o => base + o.signExtend 64 * BitVec.ofNat 64 size
  | .ordered _ => base

-- SCRATCHPAD

/-- The place of a word under a rotation code and a row index (R42 to R44): 64 × bank row + bank. -/
def spPlace (rot : Nat) (row wa : Nat) : Nat :=
  let b := wa % 64
  wa / 64 * 64 + (if rot / 8 % 2 = 1 then Nat.xor b (row / 2 ^ (rot % 8) % 64) else b)

/-- A rotated access is legal (R45). -/
def rotOk (base rowPitch tilePitch rot : Nat) : Bool :=
  let s := rot % 8
  base % 256 == 0 && tilePitch % 256 == 0 &&
  ((rowPitch != 0 && rowPitch % 256 == 0) ||
   (List.range 6).any fun j => rowPitch == 2 ^ (8 - (j + 1)) && j + 1 ≤ s)

/-- A scratchpad operand descriptor (R46). -/
structure Dsc where
  base : Nat
  rowPitch : Nat
  tilePitch : Nat
  rot : Nat
  clean : Bool
  deriving DecidableEq, Repr

/-- The descriptor in a g register pair (R46). -/
def dscOf (a b : Word) : Dsc where
  base := a.toNat % 2 ^ 20
  rowPitch := a.toNat / 2 ^ 32 % 2 ^ 16
  tilePitch := b.toNat % 2 ^ 24
  rot := b.toNat / 2 ^ 24 % 16
  clean := a.toNat / 2 ^ 48 = 0 && a.toNat / 2 ^ 20 % 2 ^ 12 = 0 && b.toNat / 2 ^ 28 = 0

/-- The row index of a byte address (R46). -/
def Dsc.row (d : Dsc) (a : Nat) : Nat :=
  let off := a - d.base
  let off := if d.tilePitch = 0 then off else off % d.tilePitch
  if d.rowPitch = 0 then 0 else off / d.rowPitch

/-- The address of row `r` of tile `t` (R315). -/
def Dsc.rowAddr (d : Dsc) (t r : Nat) : Nat := d.base + t * d.tilePitch + r * d.rowPitch

/-- The scratchpad byte at an address, under a rotation code and its row. -/
def Tile.spByte (t : Tile) (rot row a : Nat) : Nat :=
  (Sparse.get t.sp 0 (spPlace rot row (a / 4))).toNat / 2 ^ (8 * (a % 4)) % 256

/-- The tile with a scratchpad byte written. -/
def Tile.setSpByte (t : Tile) (rot row a x : Nat) : Tile :=
  let p := spPlace rot row (a / 4)
  let w := (Sparse.get t.sp 0 p).toNat
  let o := w / 2 ^ (8 * (a % 4)) % 256
  { t with sp := Sparse.set t.sp p (BitVec.ofNat 32 (w - o * 2 ^ (8 * (a % 4)) + x % 256 * 2 ^ (8 * (a % 4)))) }

/-- `n` bytes from an address, little-endian. -/
def Tile.spBytes (t : Tile) (rot : Nat) (row : Nat → Nat) (a : Nat) : Nat → Nat
  | 0 => 0
  | n + 1 => t.spByte rot (row a) a + 256 * Tile.spBytes t rot row (a + 1) n

/-- The tile with `n` bytes of `x` written from an address, little-endian. -/
def Tile.setSpBytes (t : Tile) (rot : Nat) (row : Nat → Nat) (a x : Nat) : Nat → Tile
  | 0 => t
  | n + 1 => Tile.setSpBytes (t.setSpByte rot (row a) a x) rot row (a + 1) (x / 256) n

/-- The station's scratchpad window: base and size in bytes (R48, R217). -/
def Cfg.window (c : Cfg) : Nat × Nat := (c.stn.toNat / 2 ^ 40 % 256 * 4096, c.stn.toNat / 2 ^ 48 % 256 * 4096)

/-- A configuration of a tile. -/
def Tile.cfg (t : Tile) (n : Nat) : Cfg := Sparse.get t.cfgs Cfg.empty n

/-- The window of the firing. -/
def State.window (s : State) : Nat × Nat := (s.here.cfg s.cur.cfg).window

/-- Whether `n` bytes from `a` lie inside a window. -/
def inWindow (w : Nat × Nat) (a n : Nat) : Bool := w.1 ≤ a && a + n ≤ w.1 + w.2

/-- The check of an indexed access (R51): the cause of its refusal. -/
def indexedCheck (w : Nat × Nat) (x : Word) (size : Nat) : Option (BitVec 8) :=
  if x.toNat / 2 ^ 20 ≠ 0 then some Cause.descriptor
  else if x.toNat % size ≠ 0 then some Cause.misaligned
  else if inWindow w x.toNat size then none
  else some Cause.outOfWindow

/-- The check of a descriptor (R47) over spans of bytes `(address, length)` of elements of `esize` bytes: the cause and
the offending address. DESIGN CHOICE: where the descriptor itself fails, DESCRIPTOR or ROTATION_ALIGN, no single byte offends, and
the address is the descriptor's BASE (notes/assumptions/109.md). -/
def dscCheck (w : Nat × Nat) (d : Dsc) (esize : Nat) (spans : List (Nat × Nat)) : Option (BitVec 8 × Nat) :=
  if !d.clean then some (Cause.descriptor, d.base)
  else if d.rot / 8 % 2 = 1 ∧ (!rotOk d.base d.rowPitch d.tilePitch d.rot ∨ d.rowPitch = 0) then
    some (Cause.rotationAlign, d.base)
  else
    match spans.find? (fun x => 4 ≤ esize && x.1 % esize != 0) with
    | some x => some (Cause.misaligned, x.1)
    | none =>
      match spans.find? (fun x => !inWindow w x.1 x.2) with
      | some x => some (Cause.outOfWindow, if x.1 < w.1 ∨ w.1 + w.2 ≤ x.1 then x.1 else w.1 + w.2)
      | none => none

/-- An address generator's descriptor (R49). -/
structure Gen where
  base : Nat
  rot : Nat
  esize : Nat
  c0 : Nat
  s0 : Int
  c1 : Nat
  s1 : Int
  clean : Bool
  enabled : Bool
  deriving DecidableEq, Repr

/-- A 20-bit two's-complement stride. -/
def stride20 (x : Nat) : Int := if x < 2 ^ 19 then x else (x : Int) - 2 ^ 20

/-- Generator `n` of an AGS field (R49, R220). -/
def genOf (ags : BitVec 384) (n : Nat) : Gen :=
  let d := ags.toNat / 2 ^ (96 * n) % 2 ^ 96
  { base := d % 2 ^ 20
    rot := d / 2 ^ 20 % 16
    esize := d / 2 ^ 24 % 8
    c0 := d / 2 ^ 28 % 2 ^ 10
    s0 := stride20 (d / 2 ^ 38 % 2 ^ 20)
    c1 := d / 2 ^ 58 % 2 ^ 10
    s1 := stride20 (d / 2 ^ 68 % 2 ^ 20)
    clean := d / 2 ^ 88 = 0 && d / 2 ^ 27 % 2 = 0
    enabled := d ≠ 0 }

/-- Elements of a generator. -/
def Gen.total (g : Gen) : Nat := (g.c0 + 1) * (g.c1 + 1)

/-- The address and row index of a generator's element (R49, inner index fastest). -/
def Gen.elem (g : Gen) (winBase idx : Nat) : Nat × Nat :=
  let i0 := idx % (g.c0 + 1)
  let i1 := idx / (g.c0 + 1)
  (((winBase : Int) + g.base + i1 * g.s1 + i0 * g.s0).toNat, i1)

/-- The largest number of words that one bank serves for a group of word places (R52). -/
def groupCost (places : List Nat) : Nat :=
  let d := places.eraseDups
  (d.map fun p => d.countP fun q => q % 64 == p % 64).foldl Nat.max 0

-- GROUPS IN THEIR CYCLES (R52)

/-- A list cut into pieces of `per`. -/
def chunksOf {α : Type} (per : Nat) : (fuel : Nat) → List α → List (List α)
  | 0, _ => []
  | n + 1, xs => match xs with
    | [] => []
    | _ => xs.take per :: chunksOf per n (xs.drop per)

/-- Groups with their cycles: each begins when the one before it has finished occupying the banks. -/
def groupStarts (first : Nat) : List (List Nat) → List (Nat × List Nat)
  | [] => []
  | g :: r => (first, g) :: groupStarts (first + groupCost g) r

/-- The places of the bytes of a span. -/
def bytePlaces (rot : Nat) (row : Nat → Nat) (a n : Nat) : List Nat :=
  (List.range n).map fun i => 4 * spPlace rot (row (a + i)) ((a + i) / 4) + (a + i) % 4

/-- The bytes of a number, at those places. -/
def placed (places : List Nat) (x : Nat) : List (Nat × BitVec 8) :=
  places.mapIdx fun i p => (p, BitVec.ofNat 8 (x / 2 ^ (8 * i)))

/-- The tile with the byte at a place written. -/
def Tile.setPlace (t : Tile) (b : Nat × BitVec 8) : Tile :=
  let o := 8 * (b.1 % 4)
  let w := Sparse.get t.sp 0 (b.1 / 4)
  { t with sp := Sparse.set t.sp (b.1 / 4) ((w &&& ~~~(0xFF#32 <<< o)) ||| (b.2.setWidth 32 <<< o)) }

/-- The number whose bytes stand at places, in words that have been read. -/
def placedValue (got : Sparse (BitVec 32)) (places : List Nat) : Nat :=
  places.foldr (fun p x => (Sparse.get got 0 (p / 4)).toNat / 2 ^ (8 * (p % 4)) % 256 + 256 * x) 0

/-- The groups whose cycle has come are read. -/
def SpMove.read (t : Tile) (now : Nat) (m : SpMove) : SpMove :=
  let due := m.reads.filter fun g => decide (g.1 ≤ now)
  { m with
    reads := m.reads.filter fun g => decide (now < g.1)
    got := due.foldl (fun w g => g.2.foldl (fun w p => Sparse.set w p (Sparse.get t.sp 0 p)) w) m.got }

/-- Whether every group has been performed. -/
def SpMove.over (m : SpMove) : Bool := m.reads.isEmpty && m.writes.isEmpty

/-- The groups whose cycle has come are written. -/
def Tile.writeGroups (t : Tile) (now : Nat) : Tile :=
  let due := t.moves.flatMap fun m => (m.writes.filter fun g => decide (g.1 ≤ now)).flatMap (·.2)
  let left := t.moves.map fun m => { m with writes := m.writes.filter fun g => decide (now < g.1) }
  { (due.foldl Tile.setPlace t) with moves := left.filter fun m => !m.over }

-- LANES

/-- Lane `i` of a 512-bit register at a lane width of `w` bits (R286). -/
def lane (w : Nat) (x : Blk) (i : Nat) : Nat := x.toNat / 2 ^ (w * i) % 2 ^ w

/-- A register made of lanes, lane 0 first (R286). -/
def ofLanes (w : Nat) (xs : List Nat) : Blk :=
  BitVec.ofNat 512 (xs.foldr (fun x a => x % 2 ^ w + 2 ^ w * a) 0)

/-- The registers of a group (R287). -/
def grpRegs (g : Grp) (r : Fin 16) : List Nat := (List.range g.size).map (r.val + ·)

/-- A v register of the firing's bank by number. -/
def State.vn (s : State) (r : Nat) : VReg := s.bk.vr r

/-- A g register of the firing's bank by number. -/
def State.gn (s : State) (r : Nat) : GReg := s.bk.gr r

/-- The descriptor in pair number `j` (R314). -/
def State.dsc (s : State) (j : Fin 8) : Dsc := dscOf (s.gn (2 * j.val)).val (s.gn (2 * j.val + 1)).val

/-- The first token among g registers, in order. -/
def firstTok (xs : List GReg) : Option GReg := xs.find? GReg.isTok

/-- The first token among v registers, in order (R290). -/
def firstVTok (xs : List VReg) : Option VReg := xs.find? VReg.isTok

-- QUEUES AND HEADERS

/-- The entries of an input queue of a tile. -/
def Tile.queue (t : Tile) (q : Nat) : List Entry := Sparse.get t.iq [] q

/-- HeadOf (R231): the head entry, when it is of the item that the unit holds. Flits of later items wait unseen, and a
queue whose part of the item has ended counts as empty (R458). -/
def State.head (s : State) (q : Nat) : Option Entry :=
  match s.me.item, (s.here.queue q).head? with
  | some i, some e => if !e.unseq && e.hdr.seq == i.desc.h.seq then some e else none
  | _, _ => none

/-- The header state's bits as a header of an item (R71). -/
def HState.hdr (h : HState) : Hdr where
  err := 0
  seq := h.seq
  wid := h.wid
  shape := h.shape
  rows := h.rows
  ctag := h.ctag
  rtag := 0
  req := false
  can := false
  poi := false
  unf := false
  lok := h.lok
  lot := false
  blen := 0
  scale := 127
  fmt := 0
  rsv := 0

/-- A header as the flit that opens its burst (R71). -/
def Hdr.flit (h : Hdr) : Blk :=
  let bit (b : Bool) (pos : Nat) : Nat := at_ b.toNat pos 1
  let r := h.rsv.toNat
  BitVec.ofNat 512 (h.fmt.toNat + at_ h.scale.toNat 8 8 + at_ h.blen.toNat 16 7 + bit h.lot 24 + bit h.lok 25 + bit h.unf 26
    + bit h.poi 27 + bit h.can 28 + bit h.req 29 + at_ h.rtag.toNat 32 3 + at_ h.ctag.toNat 35 2 + at_ h.rows.toNat 40 9
    + at_ h.shape.toNat 52 4 + at_ h.wid.toNat 64 64 + at_ h.seq.toNat 128 48 + at_ h.err.toNat 256 256
    + at_ r 23 1 + at_ (r / 2) 30 2 + at_ (r / 2 ^ 3) 37 3 + at_ (r / 2 ^ 6) 49 3 + at_ (r / 2 ^ 9) 56 8 + at_ (r / 2 ^ 17) 176 80)

/-- The header that a flit holds (R71). -/
def Hdr.ofFlit (b : Blk) : Hdr :=
  let bit (pos : Nat) : Bool := b.getLsbD pos
  ⟨b.extractLsb' 256 256, b.extractLsb' 128 48, b.extractLsb' 64 64, b.extractLsb' 52 4, b.extractLsb' 40 9, b.extractLsb' 35 2,
    b.extractLsb' 32 3, bit 29, bit 28, bit 27, bit 26, bit 25, bit 24, b.extractLsb' 16 7, b.extractLsb' 8 8, b.extractLsb' 0 8,
    b.extractLsb' 176 80 ++ b.extractLsb' 56 8 ++ b.extractLsb' 49 3 ++ b.extractLsb' 37 3 ++ b.extractLsb' 30 2 ++ b.extractLsb' 23 1⟩

/-- What an item's first header gives the header state (R249). -/
def Hdr.hstate (h : Hdr) : HState := ⟨h.wid, h.seq, h.shape, h.rows, h.ctag, h.lok⟩

/-- A header field as HDR reads it (R252); `last` says that the head ends its item. -/
def hdrRead (h : Hdr) (last : Bool) (f : HField) : Word :=
  match f with
  | .wid => h.wid
  | .seq => h.seq.setWidth 64
  | .rows => h.rows.setWidth 64
  | .shape => h.shape.setWidth 64
  | .ctag => h.ctag.setWidth 64
  | .rtag => h.rtag.setWidth 64
  | .fmt => h.fmt.setWidth 64
  | .scale => h.scale.setWidth 64
  | .flags => BitVec.ofNat 64 (last.toNat + 2 * h.lok.toNat + 4 * h.unf.toNat + 8 * h.poi.toNat + 16 * h.can.toNat
      + 32 * h.req.toNat)

/-- A field of the header state as HDR.own reads it (R252). -/
def hstRead (h : HState) (f : HField) : Word :=
  match f with
  | .wid => h.wid
  | .seq => h.seq.setWidth 64
  | .rows => h.rows.setWidth 64
  | .shape => h.shape.setWidth 64
  | .ctag => h.ctag.setWidth 64
  | .rtag | .fmt | .scale => 0
  | .flags => BitVec.ofNat 64 (2 * h.lok.toNat)

/-- The header state after SETHDR (R252). -/
def hstWrite (h : HState) (f : HField) (x : Word) : HState :=
  match f with
  | .wid => { h with wid := x }
  | .seq => { h with seq := x.setWidth 48 }
  | .rows => { h with rows := if 256 < x.toNat then 256 else x.setWidth 9 }
  | .shape => { h with shape := x.setWidth 4 }
  | .ctag => { h with ctag := x.setWidth 2 }
  | .flags => { h with lok := x.getLsbD 1 }
  | .rtag | .fmt | .scale => h

/-- Field `i` of a WID cut into fields of the given widths, field 0 the most significant (R165). -/
def widField (ws : List Nat) (wid : Word) (i : Nat) : Word :=
  let above := (ws.take i).foldl (· + ·) 0
  let w := (ws[i]?).getD 0
  if w = 0 then 0 else BitVec.ofNat 64 (wid.toNat / 2 ^ (64 - above - w) % 2 ^ w)

-- ROW WORDS

/-- A row word (R315). -/
structure RowWord where
  scale : BitVec 8
  tile : Nat
  srow : Nat
  drow : Nat
  count : Nat
  clean : Bool
  deriving DecidableEq, Repr

/-- The row word in a g register (R315). -/
def rowWord (x : Word) : RowWord where
  scale := BitVec.ofNat 8 (x.toNat / 2 ^ 32)
  tile := x.toNat / 2 ^ 24 % 256
  srow := x.toNat / 2 ^ 16 % 64
  drow := x.toNat / 2 ^ 8 % 64
  count := x.toNat % 128
  clean := x.toNat / 2 ^ 40 = 0 && x.toNat / 2 ^ 22 % 4 = 0 && x.toNat / 2 ^ 14 % 4 = 0 && x.toNat / 2 ^ 7 % 2 = 0

/-- An n word (R328). -/
structure NWord where
  n : Nat
  m : Nat
  clean : Bool
  deriving DecidableEq, Repr

/-- The n word in a g register; `usesM` for MTRSM and MQAPP (R328). -/
def nWord (usesM : Bool) (x : Word) : NWord where
  n := x.toNat % 128
  m := x.toNat / 2 ^ 8 % 128
  clean := x.toNat / 2 ^ 15 = 0 && x.toNat / 2 ^ 7 % 2 = 0 &&
    (1 ≤ x.toNat % 128 && x.toNat % 128 ≤ 64) &&
    (if usesM then 1 ≤ x.toNat / 2 ^ 8 % 128 && x.toNat / 2 ^ 8 % 128 ≤ 64 else x.toNat / 2 ^ 8 % 128 == 0)

end Sys2Proof.Machine
end

