-- ==== Sys2Proof/Machine/Flags.lean ====
section
/-! DEFINITION. Every computation of a predicate: what PD, PS and predicate N become (R238, R241, R242, R243, R245, R246,
R248, R280, R296, R303). The GX-4 has no other arithmetic flags (R96). -/

namespace Sys2Proof.Machine

/-- PD of the integer and immediate instructions: the value written is nonzero (R238, R245). -/
def pdInt (x : Word) : Bool := x != 0

/-- PD of the FP32 instructions and of a floating-point VRED: the result is not ±0 (R243, R303). `w` is the result's
width in bits. -/
def pdFloat (w : Nat) (x : Nat) : Bool := x % 2 ^ (w - 1) != 0

/-- The condition of CMP and CMPI on exact values; `.un` is not one of theirs (R241, R246). -/
def condInt (c : Cond) (a b : Int) : Bool :=
  match c with
  | .eq => a = b
  | .ne => a ≠ b
  | .lt => a < b
  | .le => a ≤ b
  | .gt => a > b
  | .ge => a ≥ b
  | .un => false

/-- PLOG: entry 2 × Pred(a) + Pred(b) of the truth table (R245). -/
def plogBit (t : BitVec 4) (a b : Bool) : Bool := t.getLsbD (2 * a.toNat + b.toNat)

/-- PD of VCMP: some lane holds (R296). -/
def pdAny (xs : List Bool) : Bool := xs.any id

/-- The predicates as bits 7:0 (R245). -/
def predBits (b : Bank) : Word := b.p.setWidth 64

/-- The writes of a masked predicate write: bit n of `mask` lets pn take bit n of `vals` (R245). -/
def maskWrites (s : State) (mask vals : BitVec 8) : List Wr :=
  (List.range 8).filterMap fun n =>
    if mask.getLsbD n then some (.p s.cur.bank n (vals.getLsbD n)) else none

/-- The write of predicate PS by a flow instruction (R248). -/
def psWrites (s : State) (ps : PSet) : List Wr :=
  match ps with
  | some (n, b) => [s.wp n b]
  | none => []

end Sys2Proof.Machine
end

