-- ==== Sys2Proof/Machine/Scalar.lean ====
section
/-! DEFINITION. The class 000 instructions: scalar integer (R238 to R242) and scalar FP32 (R243, R244), with the latencies
of R247. -/

namespace Sys2Proof.Machine

/-- The token rule of R238: nothing is computed, the register that would be written receives the token, PD becomes 0,
and the token is passed on. -/
def scalarTok (s : State) (l : Nat) (d : Option (Fin 16)) (pd : PDst) (x : GReg) : State :=
  s.issue l ((match d with | some d => [s.wg d x] | none => []) ++ s.wpd pd false) (some (s.passG x))

/-- A 64-bit result for D with pair INT64, and PD by the value written (R238). -/
def intResult (s : State) (l : Nat) (pd : PDst) (d : Fin 16) (x : Word) : State :=
  s.issue l (s.wg d ⟨x, Pair.int64⟩ :: s.wpd pd (pdInt x)) none

/-- An integer instruction of two sources (R238). -/
def int2 (s : State) (ty : IntTy) (l : Nat) (pd : PDst) (d s1 s2 : Fin 16) (f : Int → Int → Word) : State :=
  match firstTok [s.g s1, s.g s2] with
  | some x => scalarTok s l (some d) pd x
  | none => intResult s l pd d (f (ty.val (s.g s1).val) (ty.val (s.g s2).val))

/-- An integer instruction of one source (R238). -/
def int1 (s : State) (ty : IntTy) (l : Nat) (pd : PDst) (d s1 : Fin 16) (f : Int → Word) : State :=
  match firstTok [s.g s1] with
  | some x => scalarTok s l (some d) pd x
  | none => intResult s l pd d (f (ty.val (s.g s1).val))

/-- The low w bits of an exact operand, as a natural number. -/
def lowBits (ty : IntTy) (x : Int) : Nat := (x % 2 ^ ty.width).toNat

/-- ADD (R239). -/
def execAdd (ty : IntTy) (sat : Bool) (pd : PDst) (d s1 s2 : Fin 16) (s : State) : Out :=
  .next (int2 s ty 1 pd d s1 s2 fun a b => ty.fit sat (a + b))

/-- SUB (R239). -/
def execSub (ty : IntTy) (sat : Bool) (pd : PDst) (d s1 s2 : Fin 16) (s : State) : Out :=
  .next (int2 s ty 1 pd d s1 s2 fun a b => ty.fit sat (a - b))

/-- MUL (R239). -/
def execMul (ty : IntTy) (sat : Bool) (pd : PDst) (d s1 s2 : Fin 16) (s : State) : Out :=
  .next (int2 s ty 4 pd d s1 s2 fun a b => ty.fit sat (a * b))

/-- MULH (R239): the exact product div 2^w. -/
def execMulh (ty : IntTy) (pd : PDst) (d s1 s2 : Fin 16) (s : State) : Out :=
  .next (int2 s ty 4 pd d s1 s2 fun a b => ty.wrap (Int.fdiv (a * b) (2 ^ ty.width)))

/-- Latency of DIV and REM (R247). -/
def divLatency (ty : IntTy) : Nat := if ty.width = 64 then 24 else 12

/-- The tile's divider is busy until the result is seen (R240). -/
def useDivider (s : State) (ty : IntTy) : State := s.modHere fun t => { t with divBusy := s.cycle + divLatency ty }

/-- The quotient of DIV, with the special cases of R240. -/
def divInt (ty : IntTy) (sat : Bool) (a b : Int) : Word :=
  if b = 0 then ty.wrap (-1) else ty.fit sat (Int.tdiv a b)

/-- The remainder of REM, with the special cases of R240. -/
def remInt (ty : IntTy) (a b : Int) : Word :=
  if b = 0 then ty.wrap a else ty.wrap (a - Int.tdiv a b * b)

/-- DIV (R239, R240). -/
def execDiv (ty : IntTy) (sat : Bool) (pd : PDst) (d s1 s2 : Fin 16) (s : State) : Out :=
  .next (int2 (useDivider s ty) ty (divLatency ty) pd d s1 s2 fun a b => divInt ty sat a b)

/-- REM (R239, R240). -/
def execRem (ty : IntTy) (pd : PDst) (d s1 s2 : Fin 16) (s : State) : Out :=
  .next (int2 (useDivider s ty) ty (divLatency ty) pd d s1 s2 fun a b => remInt ty a b)

/-- A bitwise result on the low w bits (R239). -/
def bitInt (ty : IntTy) (f : Word → Word → Word) (a b : Int) : Word :=
  ty.wrap (f (BitVec.ofInt 64 a) (BitVec.ofInt 64 b)).toNat

/-- AND (R239). -/
def execAnd (ty : IntTy) (pd : PDst) (d s1 s2 : Fin 16) (s : State) : Out :=
  .next (int2 s ty 1 pd d s1 s2 (bitInt ty (· &&& ·)))

/-- OR (R239). -/
def execOr (ty : IntTy) (pd : PDst) (d s1 s2 : Fin 16) (s : State) : Out :=
  .next (int2 s ty 1 pd d s1 s2 (bitInt ty (· ||| ·)))

/-- XOR (R239). -/
def execXor (ty : IntTy) (pd : PDst) (d s1 s2 : Fin 16) (s : State) : Out :=
  .next (int2 s ty 1 pd d s1 s2 (bitInt ty (· ^^^ ·)))

/-- ANDN (R239): S1 AND NOT S2. -/
def execAndn (ty : IntTy) (pd : PDst) (d s1 s2 : Fin 16) (s : State) : Out :=
  .next (int2 s ty 1 pd d s1 s2 (bitInt ty fun a b => a &&& ~~~b))

/-- S1 × 2^n; an amount of w or more behaves as w does (R239). -/
def shlInt (ty : IntTy) (sat : Bool) (a : Int) (n : Nat) : Word :=
  ty.fit sat (a * 2 ^ (if ty.width ≤ n then ty.width else n))

/-- The w bits of S1, unsigned, div 2^n (R239). -/
def shrInt (ty : IntTy) (a : Int) (n : Nat) : Word :=
  if ty.width ≤ n then 0 else ty.wrap (lowBits ty a / 2 ^ n : Nat)

/-- The w bits of S1, signed, div 2^n, toward −∞ (R239). -/
def sarInt (ty : IntTy) (a : Int) (n : Nat) : Word :=
  let v := lowBits ty a
  let sv : Int := if 2 ^ (ty.width - 1) ≤ v then (v : Int) - 2 ^ ty.width else v
  ty.wrap (Int.fdiv sv (2 ^ (if ty.width ≤ n then ty.width else n)))

/-- A shift by S2 as an unsigned 64-bit number (R239). -/
def shift2 (s : State) (ty : IntTy) (pd : PDst) (d s1 s2 : Fin 16) (f : Int → Nat → Word) : State :=
  int2 s ty 1 pd d s1 s2 fun a _ => f a (s.g s2).val.toNat

/-- SHL (R239). -/
def execShl (ty : IntTy) (sat : Bool) (pd : PDst) (d s1 s2 : Fin 16) (s : State) : Out :=
  .next (shift2 s ty pd d s1 s2 (shlInt ty sat))

/-- SHR (R239). -/
def execShr (ty : IntTy) (pd : PDst) (d s1 s2 : Fin 16) (s : State) : Out :=
  .next (shift2 s ty pd d s1 s2 (shrInt ty))

/-- SAR (R239). -/
def execSar (ty : IntTy) (pd : PDst) (d s1 s2 : Fin 16) (s : State) : Out :=
  .next (shift2 s ty pd d s1 s2 (sarInt ty))

/-- MIN (R239). -/
def execMin (ty : IntTy) (pd : PDst) (d s1 s2 : Fin 16) (s : State) : Out :=
  .next (int2 s ty 1 pd d s1 s2 fun a b => ty.wrap (if a ≤ b then a else b))

/-- MAX (R239). -/
def execMax (ty : IntTy) (pd : PDst) (d s1 s2 : Fin 16) (s : State) : Out :=
  .next (int2 s ty 1 pd d s1 s2 fun a b => ty.wrap (if a ≤ b then b else a))

/-- Leading zeros of the w bits (R239). -/
def clzInt (ty : IntTy) (a : Int) : Word :=
  let v := lowBits ty a
  BitVec.ofNat 64 (if v = 0 then ty.width else ty.width - 1 - v.log2)

/-- Ones in the w bits (R239). -/
def popcInt (ty : IntTy) (a : Int) : Word :=
  let v := lowBits ty a
  BitVec.ofNat 64 ((List.range 64).foldl (fun n i => n + v / 2 ^ i % 2) 0)

/-- CLZ (R239). The count is below 2^7, so that the extension of R238 leaves it as it is. -/
def execClz (ty : IntTy) (pd : PDst) (d s1 : Fin 16) (s : State) : Out :=
  .next (int1 s ty 1 pd d s1 (clzInt ty))

/-- POPC (R239). -/
def execPopc (ty : IntTy) (pd : PDst) (d s1 : Fin 16) (s : State) : Out :=
  .next (int1 s ty 1 pd d s1 (popcInt ty))

/-- S1[POS + WIDM : POS], extended by type (R239). -/
def bfxWord (sgn : Bool) (pos widm : Nat) (x : Word) : Word :=
  let v := x.toNat / 2 ^ pos % 2 ^ (widm + 1)
  if sgn ∧ 2 ^ widm ≤ v then BitVec.ofInt 64 ((v : Int) - 2 ^ (widm + 1)) else BitVec.ofNat 64 v

/-- D with bits POS + WIDM : POS replaced by S1[WIDM:0] (R239). -/
def bfiWord (pos widm : Nat) (d x : Word) : Word :=
  let m : Word := BitVec.ofNat 64 ((2 ^ (widm + 1) - 1) * 2 ^ pos)
  (d &&& ~~~m) ||| (x <<< pos &&& m)

/-- BFX (R239). -/
def execBfx (sgn : Bool) (pos widm : Fin 64) (pd : PDst) (d s1 : Fin 16) (s : State) : Out :=
  .next (match firstTok [s.g s1] with
    | some x => scalarTok s 1 (some d) pd x
    | none => intResult s 1 pd d (bfxWord sgn pos.val widm.val (s.g s1).val))

/-- BFI (R239): D is also read. -/
def execBfi (pos widm : Fin 64) (pd : PDst) (d s1 : Fin 16) (s : State) : Out :=
  .next (match firstTok [s.g s1, s.g d] with
    | some x => scalarTok s 1 (some d) pd x
    | none => intResult s 1 pd d (bfiWord pos.val widm.val (s.g d).val (s.g s1).val))

/-- SEL (R239). -/
def execSel (p : Fin 8) (d s1 s2 : Fin 16) (s : State) : Out :=
  .next (match firstTok [s.g s1, s.g s2] with
    | some x => scalarTok s 1 (some d) none x
    | none => intResult s 1 none d (if s.pred p then (s.g s1).val else (s.g s2).val))

/-- CMP (R241): only PD is written. -/
def execCmp (ty : IntTy) (c : Cond) (pd : Fin 8) (s1 s2 : Fin 16) (s : State) : Out :=
  .next (match firstTok [s.g s1, s.g s2] with
    | some x => scalarTok s 1 none (some pd) x
    | none => s.issue 1 [s.wp pd (condInt c (ty.val (s.g s1).val) (ty.val (s.g s2).val))] none)

/-- The widths of the WID fields that govern a unit (R165, R441). -/
def State.widw (s : State) (a : Actor) : List Nat :=
  match s.line? a.line with
  | some l => if a.kind = .eval then [] else l.widw
  | none => []

/-- The unit holds an item that it has not handed (R233). -/
def Actor.holds (a : Actor) : Bool :=
  match a.item with
  | some i => !i.handed
  | none => false

/-- WIDX (R242). -/
def execWidx (i : Fin 6) (pd : PDst) (d : Fin 16) (s : State) : Out :=
  let x := if s.me.holds then widField (s.widw s.me) s.me.hs.wid i.val else 0
  let b := s.me.holds && s.me.levels.getLsbD i.val
  .next (s.issue 1 (s.wg d ⟨x, Pair.int64⟩ :: s.wpd pd b) none)

-- SCALAR FP32

/-- The low 32 bits of a g register as FP32, whatever its pair holds (R243). -/
def fp32 (x : GReg) : Num := floatValue fFP32 (x.val.toNat % 2 ^ 32)

/-- An FP32 result for D, and PD when it is not ±0 (R243). -/
def fpResult (s : State) (l : Nat) (pd : PDst) (d : Fin 16) (x : Nat) : State :=
  s.issue l (s.wg d ⟨BitVec.ofNat 64 x, Pair.fp32⟩ :: s.wpd pd (pdFloat 32 x)) none

/-- An FP32 instruction that rounds: one counter value under .rs, also when a token is passed on (R238, R243). -/
def fpRound (s : State) (rm : Rm) (sat : Bool) (pd : PDst) (d : Fin 16) (srcs : List GReg) (f : Unit → Exact) : State :=
  match firstTok srcs with
  | some x => (scalarTok s 4 (some d) pd x).advK rm 1
  | none => (fpResult s 4 pd d (roundTo fFP32 rm sat (s.rnd rm 0) (f ()))).advK rm 1

/-- FADD (R243). -/
def execFadd (rm : Rm) (sat : Bool) (pd : PDst) (d s1 s2 : Fin 16) (s : State) : Out :=
  .next (fpRound s rm sat pd d [s.g s1, s.g s2] fun _ => addExact rm (fp32 (s.g s1)) (fp32 (s.g s2)))

/-- S1 − S2: NaN candidates are the operands as they stand (R95). -/
def subExact (rm : Rm) (a b : Num) : Exact := sumExact rm (nans [a, b]) [a, b.neg]

/-- FSUB (R243). -/
def execFsub (rm : Rm) (sat : Bool) (pd : PDst) (d s1 s2 : Fin 16) (s : State) : Out :=
  .next (fpRound s rm sat pd d [s.g s1, s.g s2] fun _ => subExact rm (fp32 (s.g s1)) (fp32 (s.g s2)))

/-- FMUL (R243). -/
def execFmul (rm : Rm) (sat : Bool) (pd : PDst) (d s1 s2 : Fin 16) (s : State) : Out :=
  .next (fpRound s rm sat pd d [s.g s1, s.g s2] fun _ => mulExact (fp32 (s.g s1)) (fp32 (s.g s2)))

/-- FFMA (R243): D is also read. -/
def execFfma (rm : Rm) (sat : Bool) (pd : PDst) (d s1 s2 : Fin 16) (s : State) : Out :=
  .next (fpRound s rm sat pd d [s.g s1, s.g s2, s.g d] fun _ =>
    fmaExact rm (fp32 (s.g s1)) (fp32 (s.g s2)) (fp32 (s.g d)))

/-- The lesser or greater of two FP32 registers (R243, R95, R96). -/
def fpMinMax (s : State) (greater : Bool) (pd : PDst) (d s1 s2 : Fin 16) : State :=
  match firstTok [s.g s1, s.g s2] with
  | some x => scalarTok s 2 (some d) pd x
  | none => fpResult s 2 pd d (roundFP32 .rn (minMax greater (fp32 (s.g s1)) (fp32 (s.g s2))).exact)

/-- FMIN (R243). -/
def execFmin (pd : PDst) (d s1 s2 : Fin 16) (s : State) : Out := .next (fpMinMax s false pd d s1 s2)

/-- FMAX (R243). -/
def execFmax (pd : PDst) (d s1 s2 : Fin 16) (s : State) : Out := .next (fpMinMax s true pd d s1 s2)

/-- FCMP (R241). -/
def execFcmp (c : Cond) (pd : Fin 8) (s1 s2 : Fin 16) (s : State) : Out :=
  .next (match firstTok [s.g s1, s.g s2] with
    | some x => scalarTok s 2 none (some pd) x
    | none => s.issue 2 [s.wp pd (condNum c (fp32 (s.g s1)) (fp32 (s.g s2)))] none)

/-- The result of FCVT: D's register and whether it is not ±0 (R244). -/
def fcvtResult (op : FcvtOp) (rm : Rm) (sat : Bool) (q : Nat) (x : Word) : GReg × Bool :=
  let f := floatValue fFP32 (x.toNat % 2 ^ 32)
  match op with
  | .toInt ty => let v := ty.wrap (roundInt ty.lo ty.hi rm q f.exact); (⟨v, Pair.int64⟩, v != 0)
  | .fromI64 => let v := roundTo fFP32 rm false q (.ofInt false (IntTy.i64.val x) 0); (⟨BitVec.ofNat 64 v, Pair.fp32⟩, pdFloat 32 v)
  | .fromN64 => let v := roundTo fFP32 rm false q (.ofInt false (IntTy.n64.val x) 0); (⟨BitVec.ofNat 64 v, Pair.fp32⟩, pdFloat 32 v)
  | .toBf16 => let v := roundTo fBF16 rm sat q f.exact; (⟨BitVec.ofNat 64 v, Fmt.bf16.pairAt 127⟩, pdFloat 16 v)
  | .toFp16 => let v := roundTo fFP16 rm sat q f.exact; (⟨BitVec.ofNat 64 v, Fmt.fp16.pairAt 127⟩, pdFloat 16 v)
  | .fromBf16 => let v := roundFP32 .rn (floatValue fBF16 (x.toNat % 2 ^ 16)).exact; (⟨BitVec.ofNat 64 v, Pair.fp32⟩, pdFloat 32 v)
  | .fromFp16 => let v := roundFP32 .rn (floatValue fFP16 (x.toNat % 2 ^ 16)).exact; (⟨BitVec.ofNat 64 v, Pair.fp32⟩, pdFloat 32 v)

/-- FCVT (R244). -/
def execFcvt (op : FcvtOp) (rm : Rm) (sat : Bool) (pd : PDst) (d s1 : Fin 16) (s : State) : Out :=
  .next ((match firstTok [s.g s1] with
    | some x => scalarTok s 4 (some d) pd x
    | none =>
      let r := fcvtResult op rm sat (s.rnd rm 0) (s.g s1).val
      s.issue 4 (s.wg d r.1 :: s.wpd pd r.2) none).advK rm 1)

end Sys2Proof.Machine
end

