-- ==== Sys2Proof/Machine/Flow.lean ====
section
/-! DEFINITION. The class 110 instructions: flow (R248 to R261), and the operations on input queues and the hold store
that they share with the matrix array (R231, R237, R250, R253). -/

namespace Sys2Proof.Machine

-- TRIGGER WORDS AND THE STATIONS OF A TILE (R191, R217)

/-- A field of a trigger word. -/
def trg (x : BitVec 32) (pos w : Nat) : Nat := x.toNat / 2 ^ pos % 2 ^ w

/-- The slot of a configuration. -/
def Cfg.slot (c : Cfg) (n : Nat) : BitVec 96 := Sparse.get c.slots vacant n

/-- The trigger enables an input queue as QA or QB. -/
def trigIn (x : BitVec 32) (q : Nat) : Bool :=
  (trg x 15 1 = 1 && trg x 12 3 = q) || (trg x 11 1 = 1 && trg x 8 3 = q)
/-- The trigger enables an output queue. -/
def trigOut (x : BitVec 32) (q : Nat) : Bool := trg x 7 1 = 1 && trg x 4 3 = q

/-- STN_CFG fields: VALID, REGION, STN and BANKS (R217). -/
def Cfg.valid (c : Cfg) : Bool := c.stn.getLsbD 0
def Cfg.region (c : Cfg) : Nat := c.stn.toNat / 2 ^ 18 % 64
def Cfg.stnNo (c : Cfg) : Nat := c.stn.toNat / 2 ^ 24 % 64
def Cfg.banks (c : Cfg) : Nat := c.stn.toNat / 2 ^ 36 % 16

/-- The stations of a tile, as (STN, its configurations). -/
def stationsOf (t : Tile) : List (Nat × Nat × List Nat) :=
  ((((List.range 8).filter fun c => (t.cfg c).valid).map fun c => ((t.cfg c).stnNo, (t.cfg c).region)).eraseDups).map fun x =>
    (x.1, x.2, (List.range 8).filter fun c => (t.cfg c).valid && (t.cfg c).stnNo == x.1 && (t.cfg c).region == x.2)

/-- The station that an input queue feeds, as (STN, region): the lowest-numbered one whose slots' triggers name the queue;
where none does, the lowest-numbered one of the tile (notes/assumptions/25.md). -/
def Tile.feeder (t : Tile) (q : Nat) : Option (Nat × Nat) :=
  let least (xs : List (Nat × Nat × List Nat)) : Option (Nat × Nat) :=
    xs.foldl (fun b x => match b with | some y => if x.1 < y.1 then some (x.1, x.2.1) else b | none => some (x.1, x.2.1)) none
  let sts := stationsOf t
  match least (sts.filter fun x => x.2.2.any fun c => (List.range 16).any fun n =>
      trigIn (((t.cfg c).slot n).extractLsb' 64 32) q) with
  | some y => some y
  | none => least sts

/-- Whether a station may send on an output queue of its tile: its slots' triggers name it, or no station's of the tile do
(notes/assumptions/25.md). -/
def Tile.drives (t : Tile) (stn region oq : Nat) : Bool :=
  let uses (x : Nat × Nat × List Nat) : Bool := x.2.2.any fun c => (List.range 16).any fun n =>
    trigOut (((t.cfg c).slot n).extractLsb' 64 32) oq
  let sts := stationsOf t
  (sts.any fun x => x.1 == stn && x.2.1 == region && uses x) || !sts.any uses

/-- Whether a queue of the unit's tile feeds the unit. -/
def State.ownsQueue (s : State) (a : Actor) (q : Nat) : Bool :=
  match a.kind with
  | .station => (s.tile a.tile).feeder q == some (a.stn, a.line % 48)
  | .bay => true
  | .eval => false

-- QUEUES

/-- The tile with the entries of a queue replaced. -/
def Tile.setQueue (t : Tile) (q : Nat) (es : List Entry) : Tile :=
  { t with iq := if es = [] then Sparse.del t.iq q else Sparse.set t.iq q es }

/-- Consume (R231): the first `n` entries of a queue pass into the retained input (R169). -/
def State.consume (s : State) (q n : Nat) : State :=
  let es := s.here.queue q
  (s.modHere fun t => t.setQueue q (es.drop n)).modMe fun a => { a with retained := a.retained ++ (es.take n).map fun e => (q, e) }

/-- What stands at a queue head (R237). -/
inductive Head where
  | data (e : Entry)
  | lok
  | poison (r : BitVec 256)
  | empty
  deriving DecidableEq, Repr

/-- The kind of the head of queue `q` (R237). -/
def State.headKind (s : State) (q : Nat) : Head :=
  match s.head q with
  | none => .empty
  | some e => if e.hdr.poi then .poison e.hdr.err else if e.bare then .lok else .data e

/-- Consuming a bare LOK token sets LOK in the header state (R237). -/
def State.takeLok (s : State) (q : Nat) : State :=
  (s.consume q 1).modMe fun a => { a with hs := { a.hs with lok := true } }

/-- The effect of a poisoned head: it is consumed, nothing else happens, and its record passes to the current item
(R237). -/
def State.takePoison (s : State) (q n : Nat) (r : BitVec 256) : State :=
  (s.consume q n).attach s.cur.actor ⟨r, false⟩

/-- The item with its header fields frozen at its first EMIT (R249). -/
def Item.emitted (i : Item) (h : HState) : Item :=
  match i.first with
  | none => { i with first := some h }
  | some _ => i

/-- Emit (R231): a flit is placed in the hold store for an output queue (R169, R251). -/
def State.emit (s : State) (oq : Nat) (x : VReg) : State :=
  s.modMe fun a => { a with hold := a.hold ++ [⟨oq, x⟩], item := a.item.map fun i => i.emitted a.hs }

/-- An error token enters the output stream (R231). -/
def State.emitError (s : State) (e : Err) (cause : BitVec 8) (detail : Nat) : State :=
  s.attach s.cur.actor (s.tok e cause detail)

/-- The flow instruction's write of PS (R248), seen one cycle later (R247). -/
def flowPs (s : State) (ps : PSet) : State :=
  match ps with
  | none => s
  | some _ => s.issue 1 (psWrites s ps) none

-- HAND

/-- Work time at this cycle (R168). -/
def State.workTime (s : State) (a : Actor) : Nat := s.cycle - a.start + 1

/-- The queue entries that are not of the item with this SEQ. -/
def keepOthers (seq : BitVec 48) (es : List Entry) : List Entry := es.filter fun e => e.unseq || e.hdr.seq != seq

/-- HAND (R250): the work time is fixed, and the item's flits that are still queued are discarded, as are later ones up
to LOT. -/
def execHand (ps : PSet) (s : State) : Out :=
  let a := s.me
  let s1 := match a.item with
    | none => s
    | some i =>
      let s2 := s.modHere fun t =>
        ((List.range 8).filter fun q => s.ownsQueue a q).foldl (fun t q => t.setQueue q (keepOthers i.desc.h.seq (t.queue q))) t
      s2.modMe fun a => { a with
        item := some { i with handed := true, drop := true }
        work := match a.work with | some w => some w | none => some (s.workTime a) }
  .next (flowPs s1 ps)

-- EMIT AND DEQ

/-- EMIT (R251). -/
def execEmit (oq : Fin 8) (src : EmitSrc) (ps : PSet) (s : State) : Out :=
  .next (match src with
    | .reg v => flowPs (s.emit oq.val (s.v v)) ps
    | .queue q =>
      match s.headKind q.val with
      | .data e => flowPs ((s.consume q.val 1).emit oq.val ⟨e.data, ⟨e.hdr.fmt, e.hdr.scale⟩⟩) ps
      | .lok => flowPs (s.takeLok q.val) ps
      | .poison r => s.takePoison q.val 1 r
      | .empty => flowPs s ps)

/-- DEQ into a v register (R251). -/
def execDeq (d : Fin 16) (q : Fin 8) (ps : PSet) (s : State) : Out :=
  .next (match s.headKind q.val with
    | .data e =>
      (s.consume q.val 1).issue 1 (s.wv d.val ⟨e.data, ⟨e.hdr.fmt, e.hdr.scale⟩⟩ :: psWrites s ps) none
    | .lok => flowPs (s.takeLok q.val) ps
    | .poison r => s.takePoison q.val 1 r
    | .empty => flowPs s ps)

/-- DEQ that discards the head (R251). -/
def execDeqDiscard (q : Fin 8) (ps : PSet) (s : State) : Out :=
  .next (match s.headKind q.val with
    | .data _ => flowPs (s.consume q.val 1) ps
    | .lok => flowPs (s.takeLok q.val) ps
    | .poison r => s.takePoison q.val 1 r
    | .empty => flowPs s ps)

-- HEADERS

/-- HDR (R252): it reads a poisoned head without taking its poison. -/
def execHdr (d : Fin 16) (q : Fin 8) (f : HField) (ps : PSet) (s : State) : Out :=
  .next (match s.head q.val with
    | some e => s.issue 1 (s.wg d ⟨hdrRead e.hdr (e.last || e.bare) f, Pair.int64⟩ :: psWrites s ps) none
    | none => flowPs s ps)

/-- HDR.own (R252). -/
def execHdrOwn (d : Fin 16) (f : HField) (ps : PSet) (s : State) : Out :=
  .next (s.issue 1 (s.wg d ⟨hstRead s.me.hs f, Pair.int64⟩ :: psWrites s ps) none)

/-- SETHDR (R252). -/
def execSethdr (f : HField) (s1 : Fin 16) (ps : PSet) (s : State) : Out :=
  let x := (s.g s1).val
  .next (flowPs (s.modMe fun a => { a with
    hs := hstWrite a.hs f x
    item := a.item.map fun i => { i with overRows := i.overRows || (f = .rows && decide (256 < x.toNat)) } }) ps)

-- STEERING

/-- The route-table entry `e` of a configuration: valid, port, route tag, destination (R218). -/
def Cfg.route (c : Cfg) (e : Nat) : Bool × Nat × Nat × Nat :=
  let x := c.routes.toNat / 2 ^ (12 * e) % 2 ^ 12
  (x / 2 ^ 11 % 2 = 1, x / 2 ^ 9 % 4, x / 2 ^ 6 % 8, x % 64)

/-- The entry of an immediate or a g register. -/
def State.immOrG (s : State) (e : ImmOrG) : Nat :=
  match e with
  | .imm n => n.val
  | .reg g => (s.g g).val.toNat

/-- An output queue's route for the current item; an invalid entry leaves it unchanged and makes a token (R253). -/
def routeTo (s : State) (oq e : Nat) : State :=
  if e ≤ 15 ∧ ((s.here.cfg s.cur.cfg).route e).1 then
    s.modMe fun a => { a with choice := { a.choice with routes := Sparse.set a.choice.routes oq e } }
  else s.emitError .bounds Cause.routeEntry 0

/-- ROUTE (R253). -/
def execRoute (oq : Fin 8) (e : ImmOrG) (ps : PSet) (s : State) : Out :=
  .next (flowPs (routeTo s oq.val (s.immOrG e)) ps)

/-- STEER (R254): exit A if Pred(PS), exit B otherwise. -/
def execSteer (p : Fin 8) (a b : Fin 8) (s : State) : Out :=
  let sel := if s.pred p then (a.val, b.val) else (b.val, a.val)
  .next (s.modMe fun m => { m with choice := { m.choice with steer := some sel } })

/-- CANCEL (R255): the item's held flits for the queue are discarded, and a cancel token is handed in its place. -/
def execCancel (oq : Fin 8) (ps : PSet) (s : State) : Out :=
  .next (flowPs (s.modMe fun a => { a with
    hold := a.hold.filter fun h => h.oq != oq.val
    choice := { a.choice with cancels := a.choice.cancels ++ [oq.val] } }) ps)

/-- CANCEL.seq (R255). -/
def execCancelSeq (oq : Fin 8) (s1 : Fin 16) (ps : PSet) (s : State) : Out :=
  let x := (s.g s1).val
  .next (flowPs (s.modMe fun a => { a with
    choice := { a.choice with cancelSeqs := a.choice.cancelSeqs ++ [(oq.val, x.setWidth 48, a.hs.wid)] } }) ps)

-- PULL

/-- The (port, route tag) of a queue's map entry, when it is mapped (R222). -/
def mapEntry (m : BitVec 48) (q : Nat) : Option (Nat × Nat) :=
  let x := m.toNat / 2 ^ (6 * q) % 64
  if x / 32 = 1 then some (x / 8 % 4, x % 8) else none

/-- The port of the neighbour that faces a port: N and S, E and W (R218). -/
def facing (p : Nat) : Nat := (p + 2) % 4

/-- The neighbour of a tile at a port, inside its die; y grows toward S (notes/assumptions/8.md). -/
def neighbour (t p : Nat) : Option Nat :=
  let x := t % 16
  let y := localOf t / 16
  match p with
  | 0 => if y = 0 then none else some (t - 16)
  | 1 => if x = 15 then none else some (t + 1)
  | 2 => if y = 11 then none else some (t + 16)
  | _ => if x = 0 then none else some (t - 1)

/-- A request token's entry: REQ with `n` in SEQ bits 10:0 (R257). -/
def reqEntry (h : HState) (n : BitVec 11) : Entry :=
  ⟨{ h.hdr with seq := n.setWidth 48, req := true }, 0, true, true, false⟩

/-- A request token that leaves a tile at a port and tag, to arrive `n` cycles on (R257). -/
def State.sendReq (s : State) (t p tag n : Nat) (e : Entry) : State :=
  match neighbour t p with
  | some t' =>
    { s with
      flights := s.flights ++ [⟨s.nextFlight, t', facing p, tag, e, s.cur.actor, false⟩]
      nextFlight := s.nextFlight + 1
      timers := s.timers ++ [(s.cycle + n, .requestTokenArrival s.nextFlight)] }
  | none => s

/-- The tile whose ports the firing unit uses: a rework's are those of its item's station (R176, R257). -/
def State.portTile (s : State) : Nat :=
  if s.me.kind = .bay then (s.actor (stationKey s.me.line s.me.stn)).tile else s.cur.tile

/-- PULL (R257): the token enters the reverse channel in the next cycle and crosses each tile in 2 cycles. -/
def execPull (q : Fin 8) (n : BitVec 11) (ps : PSet) (s : State) : Out :=
  .next (flowPs (match mapEntry (s.tile s.portTile).iqmap q.val with
    | some (p, tag) => s.sendReq s.portTile p tag 3 (reqEntry s.me.hs n)
    | none => s) ps)

-- SWITCH

/-- Configuration `c` belongs to the unit: a station's by its STN_CFG, a bay tile's copy by what it copies (R177, R217),
an evaluation's by the eight that its pool slot holds. -/
def State.ownCfg (s : State) (a : Actor) (c : Nat) : Option Nat :=
  let t := s.tile a.tile
  match a.kind with
  | .station => if (t.cfg c).valid && (t.cfg c).region == a.line % 48 && (t.cfg c).stnNo == a.stn then some c else none
  | .eval => if (t.cfg (8 * a.bank + c)).valid then some (8 * a.bank + c) else none
  | .bay =>
    match (List.range 8).find? fun k => Sparse.find? t.copies k == some (a.line, a.stn, c) with
    | some k => some k
    | none => none

/-- The station whose item a bay tile reworks owns configuration `c` (R177). -/
def State.stnOwns (s : State) (a : Actor) (c : Nat) : Bool :=
  (s.ownCfg (s.actor (stationKey a.line a.stn)) c).isSome

/-- A change of the active configuration: the unit fires nothing for 4 cycles (R183, R258). -/
def State.switch (s : State) (key c : Nat) : State :=
  (s.modActor key fun a => { a with switchTo := some (c, s.cycle + 5) }).after 5 (.configSwitchEnd key)

/-- A bay tile's configuration for a missing copy: the lowest that holds no copy made at
dispatch, or the lowest (R177). -/
def freeCopy (t : Tile) : Nat := ((List.range 8).find? fun k => !t.fixed.contains k).getD 0

/-- The bay tile with a copy of a station's configuration (R177). -/
def Tile.addCopy (t : Tile) (k line stn c : Nat) (x : Cfg) : Tile :=
  { t with cfgs := Sparse.set t.cfgs k x, copies := Sparse.set t.copies k (line, stn, c), fixed := t.fixed.filter (· != k) }

/-- A bay tile's switch to a configuration that it does not hold: fetched, which takes the place of the 4 cycles
(R177). -/
def State.fetchSwitch (s : State) (key c : Nat) : State :=
  let n := 200 + Config.latency s.fresh
  (s.drew.modActor key fun a => { a with switchTo := some (c, s.cycle + n + 1) }).after (n + 1) (.bayConfigFetch (s.actor key).tile)

/-- The cause VALUE of E_ILLEGAL_CONFIG (R210). -/
def causeValue : BitVec 8 := 0x0A

/-- SWITCH (R258). -/
def execSwitch (c : ImmOrG) (ps : PSet) (s : State) : Out :=
  let n := s.immOrG c
  let key := s.cur.actor
  .next (flowPs (
    if 7 < n then s.emitError .illegalConfig causeValue 0
    else match s.ownCfg s.me n with
      | some k => s.switch key k
      | none =>
        if s.me.kind = .bay ∧ s.stnOwns s.me n then s.fetchSwitch key n
        else s.emitError .illegalConfig causeValue 0) ps)

/-- SPLICE (R259): LOK is set, and the successor's record is fetched when the item is handed. -/
def execSplice (s1 : Fin 16) (ps : PSet) (s : State) : Out :=
  let x := (s.g s1).val
  .next (flowPs (s.modMe fun a => { a with
    hs := { a.hs with lok := true }
    choice := { a.choice with splice := some x } }) ps)

/-- NOP (R260). -/
def execNop (ps : PSet) (s : State) : Out := .next (flowPs s ps)

end Sys2Proof.Machine
end

