-- ==== Sys2Proof/Machine/Vector.lean ====
section
/-! DEFINITION. The class 011 instructions: the vector unit (R286 to R311), with the latencies of R309. -/

namespace Sys2Proof.Machine

-- TOKENS AND FORMATS

/-- A firing whose results are tokens: every register it would write receives the token and PD becomes 0 (R290). -/
def vecTok (s : State) (l : Nat) (ds : List Nat) (pd : PDst) (x : VReg) (t : Tok) : State :=
  s.issue l (ds.map (s.wv · x) ++ s.wpd pd false) (some t)

/-- A produced E_FORMAT_RESERVED token in every D register (R289, R310). -/
def vecBad (s : State) (l : Nat) (ds : List Nat) (pd : PDst) (cause : BitVec 8) : State :=
  let t := s.tok .formatReserved cause 0
  vecTok s l ds pd t.vreg t

/-- A source register names FMT or Raw (R289). -/
def fmtFits (f : Fmt) (x : VReg) : Bool := x.pair.fmt = 0 || x.pair.fmt = f.code8

/-- The scale with which a lane-wise instruction reads a source: 127 for Raw (R78). -/
def laneScale (x : VReg) : BitVec 8 := if x.pair.fmt = 0 then 127 else x.pair.scale

/-- Lane `i` of a source, decoded as FMT (R84, R289). -/
def State.elt (s : State) (f : Fmt) (x : VReg) (i : Nat) : Num :=
  decodeElt s.cb f (laneScale x) (lane f.bits x.val i)

/-- Lane `i` as a stored two's-complement integer (R293). -/
def laneInt (f : Fmt) (x : VReg) (i : Nat) : Int :=
  let v := lane f.bits x.val i
  if 2 ^ (f.bits - 1) ≤ v then (v : Int) - 2 ^ f.bits else v

/-- An integer result wrapped to the lane width, or saturated under SAT (R293). -/
def fitLane (f : Fmt) (sat : Bool) (x : Int) : Nat :=
  let lo : Int := -(2 ^ (f.bits - 1))
  let hi : Int := 2 ^ (f.bits - 1) - 1
  ((if sat then (if x < lo then lo else if x > hi then hi else x) else x) % 2 ^ f.bits).toNat

/-- The registers that an instruction reads, checked for tokens and then for their formats, and otherwise the firing
(R289, R290). -/
def vecCheck (s : State) (l : Nat) (f : Option Fmt) (ds : List Nat) (pd : PDst) (srcs : List Nat) (ok : State) : State :=
  match firstVTok (srcs.map s.vn) with
  | some x => vecTok s l ds pd x (passV x)
  | none =>
    match f with
    | none => ok
    | some f => if srcs.all fun r => fmtFits f (s.vn r) then ok else vecBad s l ds pd Cause.formatMismatch

/-- The results of a group, register by register, with one pair for all. -/
def groupWrites (s : State) (w : Nat) (ds : List Nat) (pair : Pair) (out : Nat → Nat → Nat) : List Wr :=
  (ds.zipIdx).map fun (r, j) =>
    s.wv r ⟨ofLanes w ((List.range (512 / w)).map (out j)), pair⟩

-- LANE-WISE ARITHMETIC

/-- An operation of R292: exact on decoded values, exact on integers. -/
structure LaneOp where
  fp : Rm → Num → Num → Num → Exact
  int : Int → Int → Int → Int

/-- The shared description of R292: `srcs` are the first registers of the groups read, in the order S1, S2, D. -/
def lanewise (s : State) (g : Grp) (rm : Rm) (sat : Bool) (f : Fmt) (tsc : BitVec 8) (d : Fin 16) (srcs : List (Fin 16))
    (lInt : Nat) (op : LaneOp) : State :=
  let ds := grpRegs g d
  let regs (k : Nat) (j : Nat) : VReg := match srcs[k]? with | some r => s.vn (r.val + j) | none => VReg.zero
  let l := if f.isInt then lInt else 4
  let n := f.lanes
  let run := vecCheck s l (some f) ds none (srcs.flatMap (grpRegs g))
    (s.issue l (groupWrites s f.bits ds (f.pairAt tsc) fun j i =>
      if f.isInt then fitLane f sat (op.int (laneInt f (regs 0 j) i) (laneInt f (regs 1 j) i) (laneInt f (regs 2 j) i))
      else convertElt s.cb f tsc rm sat (s.rnd rm (j * n + i))
        (op.fp rm (s.elt f (regs 0 j) i) (s.elt f (regs 1 j) i) (s.elt f (regs 2 j) i))) none)
  if f.isInt then run else run.advK rm (g.size * n)

/-- VADD (R292, R293). -/
def execVadd (g : Grp) (rm : Rm) (sat : Bool) (f : Fmt) (tsc : BitVec 8) (d s1 s2 : Fin 16) (s : State) : Out :=
  .next (lanewise s g rm sat f tsc d [s1, s2] 4 ⟨fun rm a b _ => addExact rm a b, fun a b _ => a + b⟩)

/-- VSUB (R292, R293). -/
def execVsub (g : Grp) (rm : Rm) (sat : Bool) (f : Fmt) (tsc : BitVec 8) (d s1 s2 : Fin 16) (s : State) : Out :=
  .next (lanewise s g rm sat f tsc d [s1, s2] 4 ⟨fun rm a b _ => subExact rm a b, fun a b _ => a - b⟩)

/-- VMUL (R292, R293). -/
def execVmul (g : Grp) (rm : Rm) (sat : Bool) (f : Fmt) (tsc : BitVec 8) (d s1 s2 : Fin 16) (s : State) : Out :=
  .next (lanewise s g rm sat f tsc d [s1, s2] 4 ⟨fun _ a b _ => mulExact a b, fun a b _ => a * b⟩)

/-- VFMA (R292, R293): D is also read. -/
def execVfma (g : Grp) (rm : Rm) (sat : Bool) (f : Fmt) (tsc : BitVec 8) (d s1 s2 : Fin 16) (s : State) : Out :=
  .next (lanewise s g rm sat f tsc d [s1, s2, d] 4 ⟨fun rm a b c => fmaExact rm a b c, fun a b c => a * b + c⟩)

/-- VMIN (R292, R293). -/
def execVmin (g : Grp) (rm : Rm) (sat : Bool) (f : Fmt) (tsc : BitVec 8) (d s1 s2 : Fin 16) (s : State) : Out :=
  .next (lanewise s g rm sat f tsc d [s1, s2] 4
    ⟨fun _ a b _ => (minMax false a b).exact, fun a b _ => if a ≤ b then a else b⟩)

/-- VMAX (R292, R293). -/
def execVmax (g : Grp) (rm : Rm) (sat : Bool) (f : Fmt) (tsc : BitVec 8) (d s1 s2 : Fin 16) (s : State) : Out :=
  .next (lanewise s g rm sat f tsc d [s1, s2] 4
    ⟨fun _ a b _ => (minMax true a b).exact, fun a b _ => if a ≤ b then b else a⟩)

/-- VABS (R292, R293). -/
def execVabs (g : Grp) (rm : Rm) (sat : Bool) (f : Fmt) (tsc : BitVec 8) (d s1 : Fin 16) (s : State) : Out :=
  .next (lanewise s g rm sat f tsc d [s1] 2 ⟨fun _ a _ _ => a.abs.exact, fun a _ _ => a.natAbs⟩)

/-- VNEG (R292, R293). -/
def execVneg (g : Grp) (rm : Rm) (sat : Bool) (f : Fmt) (tsc : BitVec 8) (d s1 : Fin 16) (s : State) : Out :=
  .next (lanewise s g rm sat f tsc d [s1] 2 ⟨fun _ a _ _ => a.neg.exact, fun a _ _ => -a⟩)

-- LOGIC AND SHIFTS

/-- A bitwise operation on whole registers; D takes S1's pair (R294). -/
def vecLogic (s : State) (g : Grp) (d s1 s2 : Fin 16) (f : Blk → Blk → Blk) : State :=
  vecCheck s 2 none (grpRegs g d) none (grpRegs g s1 ++ grpRegs g s2)
    (s.issue 2 ((List.range g.size).map fun j =>
      s.wv (d.val + j) ⟨f (s.vn (s1.val + j)).val (s.vn (s2.val + j)).val, (s.vn (s1.val + j)).pair⟩) none)

/-- VAND (R294). -/
def execVand (g : Grp) (d s1 s2 : Fin 16) (s : State) : Out := .next (vecLogic s g d s1 s2 (· &&& ·))

/-- VOR (R294). -/
def execVor (g : Grp) (d s1 s2 : Fin 16) (s : State) : Out := .next (vecLogic s g d s1 s2 (· ||| ·))

/-- VXOR (R294). -/
def execVxor (g : Grp) (d s1 s2 : Fin 16) (s : State) : Out := .next (vecLogic s g d s1 s2 (· ^^^ ·))

/-- A lane of `w` bits shifted left by `n` (R295). -/
def shlLane (w x n : Nat) : Nat := if w ≤ n then 0 else x * 2 ^ n % 2 ^ w
/-- A lane shifted right with zeros (R295). -/
def lsrLane (w x n : Nat) : Nat := if w ≤ n then 0 else x / 2 ^ n
/-- A lane shifted right with sign bits (R295). -/
def asrLane (w x n : Nat) : Nat :=
  let sgn := 2 ^ (w - 1) ≤ x
  if w ≤ n then (if sgn then 2 ^ w - 1 else 0)
  else if sgn then x / 2 ^ n + (2 ^ n - 1) * 2 ^ (w - n) else x / 2 ^ n

/-- A shift of each lane by an immediate or by the lanes of S2; D takes S1's pair (R295). -/
def vecShift (s : State) (g : Grp) (f : Fmt) (n : VAmount) (d s1 : Fin 16) (sh : Nat → Nat → Nat → Nat) : State :=
  let amt (j i : Nat) : Nat := match n with | .imm k => k.val | .lanes r => lane f.bits (s.vn (r.val + j)).val i
  let src := grpRegs g s1 ++ (match n with | .imm _ => [] | .lanes r => grpRegs g r)
  vecCheck s 2 none (grpRegs g d) none src
    (s.issue 2 ((List.range g.size).map fun j =>
      s.wv (d.val + j) ⟨ofLanes f.bits ((List.range f.lanes).map fun i =>
        sh f.bits (lane f.bits (s.vn (s1.val + j)).val i) (amt j i)), (s.vn (s1.val + j)).pair⟩) none)

/-- VSHL (R295). -/
def execVshl (g : Grp) (f : Fmt) (n : VAmount) (d s1 : Fin 16) (s : State) : Out := .next (vecShift s g f n d s1 shlLane)

/-- VSHR.lsr (R295). -/
def execVshrLsr (g : Grp) (f : Fmt) (n : VAmount) (d s1 : Fin 16) (s : State) : Out :=
  .next (vecShift s g f n d s1 lsrLane)

/-- VSHR.asr (R295). -/
def execVshrAsr (g : Grp) (f : Fmt) (n : VAmount) (d s1 : Fin 16) (s : State) : Out :=
  .next (vecShift s g f n d s1 asrLane)

-- COMPARE AND SELECT

/-- Whether lane `i` of register `j` of the groups holds under VCMP (R296). -/
def vcmpLane (s : State) (c : Cond) (uns : Bool) (f : Fmt) (s1 s2 : Fin 16) (j i : Nat) : Bool :=
  let a := s.vn (s1.val + j)
  let b := s.vn (s2.val + j)
  if f.isInt then
    if uns then condInt c (lane f.bits a.val i) (lane f.bits b.val i) else condInt c (laneInt f a i) (laneInt f b i)
  else condNum c (s.elt f a i) (s.elt f b i)

/-- VCMP (R296). -/
def execVcmp (g : Grp) (c : Cond) (uns : Bool) (f : Fmt) (pd : PDst) (d s1 s2 : Fin 16) (s : State) : Out :=
  let ds := grpRegs g d
  .next (vecCheck s 4 (some f) ds pd (grpRegs g s1 ++ grpRegs g s2)
    (s.issue 4 (groupWrites s f.bits ds Pair.raw (fun j i =>
        if vcmpLane s c uns f s1 s2 j i then 2 ^ f.bits - 1 else 0)
      ++ s.wpd pd (pdAny ((List.range g.size).flatMap fun j => (List.range f.lanes).map (vcmpLane s c uns f s1 s2 j))))
      none))

/-- VSEL (R297): D is read as the mask. -/
def execVsel (g : Grp) (f : Fmt) (d s1 s2 : Fin 16) (s : State) : Out :=
  .next (vecCheck s 2 none (grpRegs g d) none (grpRegs g s1 ++ grpRegs g s2 ++ grpRegs g d)
    (s.issue 2 ((List.range g.size).map fun j =>
      s.wv (d.val + j) ⟨ofLanes f.bits ((List.range f.lanes).map fun i =>
        if lane f.bits (s.vn (d.val + j)).val i ≠ 0 then lane f.bits (s.vn (s1.val + j)).val i
        else lane f.bits (s.vn (s2.val + j)).val i), (s.vn (s1.val + j)).pair⟩) none))

-- SPECIAL FUNCTIONS

/-- A special function of each decoded lane, rounded once (R298). -/
def special (s : State) (l : Nat) (g : Grp) (rm : Rm) (sat : Bool) (f : Fmt) (tsc : BitVec 8) (d s1 : Fin 16)
    (fn : Num → Exact) : State :=
  let ds := grpRegs g d
  (vecCheck s l (some f) ds none (grpRegs g s1)
    (s.issue l (groupWrites s f.bits ds (f.pairAt tsc) fun j i =>
      convertElt s.cb f tsc rm sat (s.rnd rm (j * f.lanes + i)) (fn (s.elt f (s.vn (s1.val + j)) i))) none)).advK rm
    (g.size * f.lanes)

/-- VRCP (R298). -/
def execVrcp (g : Grp) (rm : Rm) (sat : Bool) (f : Fmt) (tsc : BitVec 8) (d s1 : Fin 16) (s : State) : Out :=
  .next (special s 8 g rm sat f tsc d s1 rcpExact)

/-- VRSQ (R298). -/
def execVrsq (g : Grp) (rm : Rm) (sat : Bool) (f : Fmt) (tsc : BitVec 8) (d s1 : Fin 16) (s : State) : Out :=
  .next (special s 8 g rm sat f tsc d s1 rsqExact)

/-- VEXP2 (R298). -/
def execVexp2 (g : Grp) (rm : Rm) (sat : Bool) (f : Fmt) (tsc : BitVec 8) (d s1 : Fin 16) (s : State) : Out :=
  .next (special s 12 g rm sat f tsc d s1 exp2Exact)

/-- VLOG2 (R298). -/
def execVlog2 (g : Grp) (rm : Rm) (sat : Bool) (f : Fmt) (tsc : BitVec 8) (d s1 : Fin 16) (s : State) : Out :=
  .next (special s 12 g rm sat f tsc d s1 log2Exact)

-- CONVERSION

/-- How a conversion from elements of `ws` bits to elements of `wd` bits takes its registers (R299): the source and
destination registers, the element offset in the narrow side, and whether D's other bits are kept. -/
structure Shape where
  srcs : List Nat
  dsts : List Nat
  srcOff : Nat
  dstOff : Nat
  keep : Bool
  ok : Bool
  deriving DecidableEq, Repr

/-- The slice rules of R299. DESIGN CHOICE: the wide side starts at a multiple of G, which the loader cannot ask of it; one
that does not makes no slice (notes/assumptions/100.md). -/
def convShape (g : Grp) (ws wd part : Nat) (d s1 : Fin 16) : Shape :=
  let G := g.size
  if ws = wd then ⟨grpRegs g s1, grpRegs g d, 0, 0, false, part = 0 && g.aligned s1 && g.aligned d⟩
  else if wd < ws then
    let r := ws / wd
    ⟨grpRegs g s1, [d.val], 0, part * (G * 512 / ws), true, G ≤ r && part < r / G && g.aligned s1⟩
  else
    let r := wd / ws
    ⟨[s1.val], grpRegs g d, part * (G * 512 / wd), 0, false, G ≤ r && part < r / G && g.aligned d⟩

/-- Element `e` of a run of registers, `off` elements in. -/
def State.runElt (s : State) (w : Nat) (regs : List Nat) (e : Nat) : Nat × VReg :=
  let n := 512 / w
  let x := s.vn ((regs[e / n]?).getD 0)
  (lane w x.val (e % n), x)

/-- Elements that a conversion rounds. -/
def convCount (g : Grp) (ws wd : Nat) : Nat := g.size * 512 / (if ws < wd then wd else ws)

/-- The registers of a firing without a source width, those above v15 left out (R299). -/
def boundedRegs (g : Grp) (r : Fin 16) : List Nat := (grpRegs g r).filter (· ≤ 15)

/-- The common frame of VCVT, VQNT and VCBX: `wide` says that D is the wide side whatever the source (R302), `whole` demands
G = r (R301); `elt` gives each result element from the source format, its bits and its register. A token of a source or of a
read D comes before the refusals (R290, R299). -/
def conversion (s : State) (l : Nat) (g : Grp) (rm : Rm) (rounds : Bool) (wd part : Nat) (d s1 : Fin 16)
    (srcOk : Fmt → Bool) (wide whole : Bool) (body : Fmt → Shape → (Pair × (Nat → Nat → VReg → Nat))) : State :=
  let s1s := boundedRegs g s1
  let dss := boundedRegs g d
  let adv (x : State) (n : Nat) : State := if rounds then x.advK rm n else x
  match firstVTok (s1s.map s.vn) with
  | some x => adv (vecTok s l dss none x (passV x)) (convCount g wd wd)
  | none =>
    let x0 := s.vn s1.val
    if x0.pair.fmt = 0 then adv (vecBad s l dss none Cause.rawUntyped) (convCount g wd wd)
    else
      match Fmt.of x0.pair.fmt with
      | none => adv (vecBad s l dss none Cause.formatMismatch) (convCount g wd wd)
      | some f =>
        let sh := convShape g f.bits wd part d s1
        let dsts := if wide then dss else sh.dsts.filter (· ≤ 15)
        let n := convCount g f.bits wd
        let r := if f.bits < wd then wd / f.bits else f.bits / wd
        match (if sh.keep ∧ !wide then firstVTok [s.vn d.val] else none) with
        | some x => adv (vecTok s l dsts none x (passV x)) n
        | none =>
          if !sh.ok ∨ !srcOk f ∨ (whole ∧ r ≠ 1 ∧ g.size ≠ r) ∨ !(sh.srcs.all fun q => (s.vn q).pair.fmt = x0.pair.fmt) then
            adv (vecBad s l dsts none Cause.formatMismatch) n
          else
            let (pair, elt) := body f sh
            let nd := 512 / wd
            adv (s.issue l (sh.dsts.zipIdx.map fun (q, j) =>
              s.wv q ⟨ofLanes wd ((List.range nd).map fun i =>
                let e := j * nd + i
                if sh.dstOff ≤ e ∧ e < sh.dstOff + n then
                  let (bits, x) := s.runElt f.bits sh.srcs (sh.srcOff + (e - sh.dstOff))
                  elt (e - sh.dstOff) bits x
                else lane wd (s.vn q).val i), pair⟩) none) n

/-- VCVT (R300). -/
def execVcvt (g : Grp) (rm : Rm) (sat : Bool) (f : Fmt) (tsc : BitVec 8) (part : Fin 16) (d s1 : Fin 16) (s : State) : Out :=
  .next (conversion s 4 g rm true f.bits part.val d s1 (fun _ => true) false false fun sf _ =>
    (f.pairAt tsc, fun e bits x =>
      convertElt s.cb f tsc rm sat (s.rnd rm e) (decodeElt s.cb sf x.pair.scale bits).exact))

/-- The exponent of the target's largest power of two that does not exceed its largest finite value (R301). -/
def emax (cb : Nat → BitVec 256) (f : Fmt) : Option Int :=
  match f with
  | .bf16 => some 127
  | .fp16 => some 15
  | .e4m3 => some 8
  | .e5m2 => some 15
  | .int8 => some 6
  | .cb n =>
    (cbEntries (cb n.val)).foldl (fun a x =>
      match x with
      | .fin _ m e =>
        if m = 0 then a
        else
          let l : Int := m.log2 + e
          match a with
          | none => some l
          | some b => if b < l then some l else a
      | _ => a) none
  | _ => none

/-- Floor(log2) of the largest finite nonzero magnitude among decoded elements (R301). -/
def maxLog2 (xs : List Num) : Option Int :=
  xs.foldl (fun a x =>
    match x with
    | .fin _ m e =>
      if m = 0 then a
      else
        let l : Int := m.log2 + e
        match a with
        | none => some l
        | some b => if b < l then some l else a
    | _ => a) none

/-- The target scale that VQNT computes (R301). -/
def quantScale (cb : Nat → BitVec 256) (f : Fmt) (xs : List Num) : BitVec 8 :=
  match maxLog2 xs, emax cb f with
  | some a, some e => BitVec.ofNat 8 (max 0 (min 254 (a - e + 127))).toNat
  | _, _ => 127

/-- VQNT (R301). -/
def execVqnt (g : Grp) (rm : Rm) (sat : Bool) (f : Fmt) (d s1 : Fin 16) (s : State) : Out :=
  .next (conversion s 6 g rm true f.bits 0 d s1 (fun _ => true) false true fun sf sh =>
    let n := sh.srcs.length * sf.lanes
    let xs := (List.range n).map fun e =>
      let (bits, x) := s.runElt sf.bits sh.srcs e
      decodeElt s.cb sf x.pair.scale bits
    let t := quantScale s.cb f xs
    (f.pairAt t, fun e bits x =>
      convertElt s.cb f t rm sat (s.rnd rm e) (decodeElt s.cb sf x.pair.scale bits).exact))

/-- VCBX (R302): codebook entries as bit patterns, the source's scale carried along. -/
def execVcbx (g : Grp) (part : Fin 16) (d s1 : Fin 16) (s : State) : Out :=
  .next (conversion s 4 g .rn false 16 part.val d s1
    (fun f => match f with | .cb _ => true | _ => false) true false fun sf _ =>
    (⟨Fmt.bf16.code8, (s.vn s1.val).pair.scale⟩, fun _ bits _ =>
      match sf with
      | .cb n => (s.cb n.val).toNat / 2 ^ (16 * bits) % 65536
      | _ => 0))

-- REDUCTIONS AND SCANS

/-- The decoded elements of a group, in element order (R287). -/
def State.grpElts (s : State) (f : Fmt) (g : Grp) (r : Fin 16) : List Num :=
  (grpRegs g r).flatMap fun q => (List.range f.lanes).map (s.elt f (s.vn q))

/-- The stored integers of a group, in element order. -/
def State.grpInts (s : State) (f : Fmt) (g : Grp) (r : Fin 16) : List Int :=
  (grpRegs g r).flatMap fun q => (List.range f.lanes).map (laneInt f (s.vn q))

/-- The greatest (or least) of decoded elements; NaN candidates by R95, lower elements first. -/
def bestNum (greater : Bool) (xs : List Num) : Exact :=
  match pickNaN (nans xs) with
  | some (s, p) => .nan s p
  | none =>
    match xs with
    | [] => .zero false
    | x :: r => (r.foldl (minMax greater) x).exact

/-- The greatest or least of integers. -/
def bestInt (greater : Bool) (xs : List Int) : Int :=
  match xs with
  | [] => 0
  | x :: r => r.foldl (fun a b => if greater then (if a < b then b else a) else (if b < a then b else a)) x

/-- VRED's floating-point value (R303). -/
def redFp (op : RedOp) (rm : Rm) (xs : List Num) : Exact :=
  match op with
  | .sum => sumExact rm (nans xs) xs
  | .max => bestNum true xs
  | .min => bestNum false xs
  | .amax => bestNum true (xs.map fun x => if x.isNaN then x else x.abs)

/-- VRED's integer value (R303). -/
def redInt (op : RedOp) (xs : List Int) : Int :=
  match op with
  | .sum => xs.foldl (· + ·) 0
  | .max => bestInt true xs
  | .min => bestInt false xs
  | .amax => bestInt true (xs.map fun x => (x.natAbs : Int))

/-- VRED (R303). -/
def execVred (op : RedOp) (g : Grp) (rm : Rm) (sat : Bool) (f : Fmt) (tsc : BitVec 8) (pd : PDst) (d s1 : Fin 16)
    (s : State) : Out :=
  let v := if f.isInt then fitLane f sat (redInt op (s.grpInts f g s1))
    else convertElt s.cb f tsc rm sat (s.rnd rm 0) (redFp op rm (s.grpElts f g s1))
  let run := vecCheck s 6 (some f) [d.val] pd (grpRegs g s1)
    (s.issue 6 (s.wv d.val ⟨BitVec.ofNat 512 v, f.pairAt tsc⟩ ::
      s.wpd pd (if f.isInt then v != 0 else pdFloat f.bits v)) none)
  .next (if f.isInt then run else run.advK rm 1)

/-- VSCAN's value for element `e`, floating point (R304). -/
def scanFp (op : ScanOp) (rm : Rm) (xs : List Num) (e : Nat) : Exact :=
  match op with
  | .sum => sumExact rm (nans (xs.take (e + 1))) (xs.take (e + 1))
  | .xsum => if e = 0 then .zero false else sumExact rm (nans (xs.take e)) (xs.take e)
  | .max => bestNum true (xs.take (e + 1))
  | .min => bestNum false (xs.take (e + 1))

/-- VSCAN's value for element `e`, integer (R304). -/
def scanInt (op : ScanOp) (xs : List Int) (e : Nat) : Int :=
  match op with
  | .sum => (xs.take (e + 1)).foldl (· + ·) 0
  | .xsum => (xs.take e).foldl (· + ·) 0
  | .max => bestInt true (xs.take (e + 1))
  | .min => bestInt false (xs.take (e + 1))

/-- VSCAN (R304). -/
def execVscan (op : ScanOp) (g : Grp) (rm : Rm) (sat : Bool) (f : Fmt) (tsc : BitVec 8) (d s1 : Fin 16) (s : State) : Out :=
  let ds := grpRegs g d
  let xs := s.grpElts f g s1
  let is := s.grpInts f g s1
  let run := vecCheck s 8 (some f) ds none (grpRegs g s1)
    (s.issue 8 (groupWrites s f.bits ds (f.pairAt tsc) fun j i =>
      let e := j * f.lanes + i
      if f.isInt then fitLane f sat (scanInt op is e)
      else convertElt s.cb f tsc rm sat (s.rnd rm e) (scanFp op rm xs e)) none)
  .next (if f.isInt then run else run.advK rm (g.size * f.lanes))

-- PERMUTES, BROADCASTS AND MOVES

/-- VPERM (R305). Every register of D takes the pair of the first register of S1. -/
def execVperm (g : Grp) (f : Fmt) (d s1 s2 : Fin 16) (s : State) : Out :=
  let ds := grpRegs g d
  let n := f.lanes
  let e := g.size * n
  let idx (k : Nat) : Nat := lane 8 (s.vn (s2.val + k / 64)).val (k % 64)
  .next (vecCheck s 4 none ds none (grpRegs g s1 ++ grpRegs g s2)
    (s.issue 4 (groupWrites s f.bits ds (s.vn s1.val).pair fun j i =>
      let p := idx (j * n + i)
      if p < e then lane f.bits (s.vn (s1.val + p / n)).val (p % n) else 0) none))

/-- A firing whose g source holds a token: its v results receive the token's record (R290, R400). -/
def vecFromG (s : State) (l : Nat) (ds : List Nat) (x : GReg) (ok : State) : State :=
  if x.isTok then
    let t := s.passG x
    vecTok s l ds none t.vreg t
  else ok

/-- VBCAST of a g register (R306). -/
def execVbcast (g : Grp) (f : Fmt) (tsc : BitVec 8) (d s1 : Fin 16) (s : State) : Out :=
  let ds := grpRegs g d
  .next (vecFromG s 2 ds (s.g s1)
    (s.issue 2 (groupWrites s f.bits ds (f.pairAt tsc) fun _ _ => (s.g s1).val.toNat % 2 ^ f.bits) none))

/-- VBCAST.lane (R306). -/
def execVbcastLane (g : Grp) (f : Fmt) (ln : BitVec 8) (d s1 : Fin 16) (s : State) : Out :=
  let ds := grpRegs g d
  .next (vecCheck s 2 none ds none [s1.val]
    (s.issue 2 (groupWrites s f.bits ds (s.v s1).pair fun _ _ => lane f.bits (s.v s1).val ln.toNat) none))

/-- VIOTA (R307). -/
def execViota (g : Grp) (f : Fmt) (tsc : BitVec 8) (d s1 : Fin 16) (s : State) : Out :=
  let ds := grpRegs g d
  .next (vecFromG s 2 ds (s.g s1)
    (s.issue 2 (groupWrites s f.bits ds (f.pairAt 127) fun j i =>
      (((s.g s1).val.toNat + ((j * f.lanes + i : Nat) : Int) * tsc.toInt) % 2 ^ f.bits).toNat) none))

/-- VMOVG to a g register (R308). -/
def execVmovg (l : Fin 8) (d s1 : Fin 16) (s : State) : Out :=
  let x := s.v s1
  .next (if x.isTok then s.issue 2 [s.wg d (passV x).greg] (some (passV x))
    else s.issue 2 [s.wg d ⟨BitVec.ofNat 64 (lane 64 x.val l.val), Pair.int64⟩] none)

/-- VMOVG.ins (R308): D is also read. -/
def execVmovgIns (l : Fin 8) (d s1 : Fin 16) (s : State) : Out :=
  .next (vecFromG s 2 [d.val] (s.g s1)
    (vecCheck s 2 none [d.val] none [d.val]
      (s.issue 2 [s.wv d.val ⟨ofLanes 64 ((List.range 8).map fun i =>
        if i = l.val then (s.g s1).val.toNat else lane 64 (s.v d).val i), (s.v d).pair⟩] none)))

/-- VMOVG.cp (R308). -/
def execVmovgCp (g : Grp) (d s1 : Fin 16) (s : State) : Out :=
  .next (vecCheck s 2 none (grpRegs g d) none (grpRegs g s1)
    (s.issue 2 ((List.range g.size).map fun j => s.wv (d.val + j) (s.vn (s1.val + j))) none))

/-- VMOVG.pair (R308): the upper bits are checked first, then the format. -/
def execVmovgPair (d s1 : Fin 16) (s : State) : Out :=
  let x := (s.g s1).val
  .next (vecFromG s 2 [d.val] (s.g s1)
    (vecCheck s 2 none [d.val] none [d.val]
      (if x.toNat / 2 ^ 16 ≠ 0 then
        let t := s.tok .bounds Cause.descriptor 0
        vecTok s 2 [d.val] none t.vreg t
      else if (Fmt.of (x.setWidth 8)).isNone then
        let t := s.tok .formatReserved Cause.reservedCode (x.toNat % 256)
        vecTok s 2 [d.val] none t.vreg t
      else s.issue 2 [s.wv d.val ⟨(s.v d).val, ⟨x.setWidth 8, (x >>> 8).setWidth 8⟩⟩] none)))

end Sys2Proof.Machine
end

