-- ==== Sys2Proof/Machine/Matrix.lean ====
section
/-! DEFINITION. The class 100 instructions but for the factorisations: loads, stores, MMA, MACC and MDRAIN (R312 to R327,
R337 to R339). -/

namespace Sys2Proof.Machine

-- REGISTERS

/-- Element (i, j) of an accumulator (R312). -/
def Tile.ael (t : Tile) (r i j : Nat) : Nat := (Sparse.get t.a 0 (4096 * r + 64 * i + j)).toNat
/-- The tile with an accumulator element written. -/
def Tile.setAel (t : Tile) (r i j x : Nat) : Tile := { t with a := Sparse.set t.a (4096 * r + 64 * i + j) (BitVec.ofNat 32 x) }
/-- Block `b` of an m register (R312). -/
def Tile.mblk (t : Tile) (r b : Nat) : VReg := Sparse.get t.m VReg.zero (128 * r + b)
/-- The tile with an m block written. -/
def Tile.setMblk (t : Tile) (r b : Nat) (x : VReg) : Tile := { t with m := Sparse.set t.m (128 * r + b) x }
/-- Entry `k` of a pv register (R312). -/
def Tile.pvel (t : Tile) (r k : Nat) : Nat := (Sparse.get t.pv 0 (64 * r + k)).toNat
/-- The tile with a pv entry written. -/
def Tile.setPvel (t : Tile) (r k x : Nat) : Tile := { t with pv := Sparse.set t.pv (64 * r + k) (BitVec.ofNat 32 x) }

/-- K of a width class (R313): the elements of a 128-byte A row. -/
def kdim (f : Fmt) : Nat := 1024 / f.bits
/-- Cycles per row of a width class (R313). -/
def rowCycles (f : Fmt) : Nat := if f.bits = 32 then 2 else 1

/-- A matrix instruction issues: its results are seen `l` cycles on and the array is free after `busy` (R317, R339). -/
def State.mat (s : State) (l busy : Nat) (ws : List Wr) (tok : Option Tok) : State :=
  (s.issue l ws tok).modHere fun t => { t with arrBusy := s.cycle + busy }

/-- A refused matrix instruction changes nothing: its token goes to GX's register, if the entry writes one, and to the
item; it is seen 2 cycles on (R316, notes/assumptions/11.md). -/
def matRefuse (s : State) (gx : Option (Fin 16)) (t : Tok) (x : GReg) : State :=
  s.issue 2 (match gx with | some d => [s.wg d x] | none => []) (some t)

/-- A refusal with an error of its own. -/
def matError (s : State) (gx : Option (Fin 16)) (e : Err) (cause : BitVec 8) (detail : Nat) : State :=
  let t := s.tok e cause detail
  matRefuse s gx t t.greg

/-- A refusal by a token among the g operands (check 1 of R316). -/
def tokCheck (s : State) (gx : Option (Fin 16)) (xs : List GReg) (ok : State) : State :=
  match firstTok xs with
  | some x => matRefuse s gx (s.passG x) x
  | none => ok

/-- Which fields of the row word an entry uses (R315). -/
structure RowUse where
  count : Bool
  srow : Bool
  drow : Bool
  tiles : List Nat
  deriving DecidableEq, Repr

/-- Checks 2 and 3 of R316; `tiles` are the TILE_PITCHes of the scratchpad operands. -/
def rowCheck (s : State) (r : RowWord) (u : RowUse) (ok : State) : State :=
  if !r.clean ∨ (u.count ∧ (r.count = 0 ∨ 64 < r.count)) ∨ (r.tile ≠ 0 ∧ u.tiles.contains 0) then
    matError s none .bounds Cause.descriptor 0
  else if u.count ∧ ((u.srow ∧ 64 < r.srow + r.count) ∨ (u.drow ∧ 64 < r.drow + r.count)) then
    matError s none .bounds Cause.rowRange 0
  else ok

/-- Check 4 of R316: the descriptor's checks of R47 over row spans. -/
def spCheck (s : State) (d : Dsc) (esize : Nat) (spans : List (Nat × Nat)) (ok : State) : State :=
  match dscCheck s.window d esize spans with
  | some (c, a) => matError s none .bounds c a
  | none => ok

/-- The spans of `n` rows of `len` bytes from row `r` of tile `t`. -/
def rowSpans (d : Dsc) (t r n len : Nat) : List (Nat × Nat) := (List.range n).map fun i => (d.rowAddr t (r + i), len)

/-- The bytes of a row of a scratchpad operand. -/
def rowBytes (t : Tile) (d : Dsc) (a n : Nat) : Nat := t.spBytes d.rot d.row a n

/-- The places of the words of a span (R52). -/
def spanPlaces (d : Dsc) (a n : Nat) : List Nat :=
  (List.range ((a + n + 3) / 4 - a / 4)).map fun i => spPlace d.rot (d.row (4 * (a / 4 + i))) (a / 4 + i)

/-- The groups of rows taken `per` at a time (R52). -/
def spGroups (d : Dsc) (per : Nat) (fuel : Nat) (spans : List (Nat × Nat)) : List (List Nat) :=
  (chunksOf per fuel spans).map fun xs => xs.flatMap fun x => spanPlaces d x.1 x.2

/-- Σk of groups (R339). -/
def groupCosts (gs : List (List Nat)) : Nat := (gs.map groupCost).sum

-- QUEUE ROWS

/-- The row at the head of a queue: at most `f` entries, up to the item's last flit (R318). -/
def rowEntries (es : List Entry) : Nat → List Entry
  | 0 => []
  | n + 1 =>
    match es with
    | [] => []
    | e :: r => if e.last then [e] else e :: rowEntries r n

/-- The flit `i` of a row, a missing one of zeros with pair (Raw, 127) (R318). -/
def rowFlit (es : List Entry) (i : Nat) : VReg :=
  match es[i]? with
  | some e => ⟨e.data, ⟨e.hdr.fmt, e.hdr.scale⟩⟩
  | none => VReg.zero

/-- The row counter of a queue (R318). -/
def State.rcOf (s : State) (q : Nat) : Nat := Sparse.get s.me.rc 0 q

/-- A queue row is consumed, and its counter advances (R318). -/
def State.takeRow (s : State) (q n : Nat) : State :=
  (s.consume q n).modMe fun a => { a with rc := Sparse.set a.rc q (Sparse.get a.rc 0 q + 1) }

/-- A row with a poisoned header is consumed, its counter advances, and its record passes to the item (R237, R318). -/
def State.poisonRow (s : State) (q n : Nat) (r : BitVec 256) : State := (s.takeRow q n).attach s.cur.actor ⟨r, false⟩

/-- The frame of the queue-row forms: token and row-word checks, poison and LOK heads, the row limit, a flit that is an error token,
which is passed on, then the body on the state after the row has been taken (R316, R318, R237, R342). -/
def queueRow (s : State) (gx : Fin 16) (q : Fin 8) (f : Nat) (body : State → List Entry → Nat → State) : State :=
  let r := rowWord (s.g gx).val
  let es := rowEntries (s.here.queue q.val) f
  tokCheck s none [s.g gx]
    (rowCheck s r ⟨false, false, false, []⟩
      (match s.headKind q.val with
        | .poison p => s.poisonRow q.val es.length p
        | .lok => s.takeLok q.val
        | .empty => s
        | .data _ =>
          match es.find? (·.hdr.poi) with
          | some e => s.poisonRow q.val es.length e.hdr.err
          | none =>
            let row := r.drow + s.rcOf q.val
            let s1 := s.takeRow q.val es.length
            if 64 ≤ row then matError s1 none .bounds Cause.rowRange 0
            else
              match firstVTok ((List.range es.length).map (rowFlit es)) with
              | some x => matRefuse s1 none (passV x) GReg.zero
              | none => body s1 es row))

-- DOT PRODUCTS

/-- One group of a dot product: the exact sum of the products with the candidates of R95, rounded .rn (R97). -/
def dotGroup (xs : List (Num × Num)) : Num :=
  let s := sumExact .rn (xs.flatMap fun p => mulCands p.1 p.2)
    ((xs.map fun p => mulNum p.1 p.2).filter fun x => !x.isNaN)
  floatValue fFP32 (roundFP32 .rn s)

/-- Groups of 16 along K (R97): acc := RoundFP32(acc + t). -/
def dotAcc (fuel : Nat) (acc : Nat) (xs : List (Num × Num)) : Nat :=
  match fuel with
  | 0 => acc
  | k + 1 =>
    match xs with
    | [] => acc
    | _ => dotAcc k (roundFP32 .rn (addExact .rn (floatValue fFP32 acc) (dotGroup (xs.take 16)))) (xs.drop 16)

/-- The pair with which an element of a register or flit is decoded: Raw as FMT with scale 127 (R78, R323). -/
def matPair (f : Fmt) (p : Pair) : Option (Fmt × BitVec 8) :=
  if p.fmt = 0 then some (f, 127)
  else
    match Fmt.of p.fmt with
    | some h => if h.bits = f.bits then some (h, p.scale) else none
    | none => none

/-- Element `e` of a run of blocks (R313, R323). -/
def blkElt (cb : Nat → BitVec 256) (f : Fmt) (blk : Nat → VReg) (e : Nat) : Num :=
  let n := 512 / f.bits
  let x := blk (e / n)
  match matPair f x.pair with
  | some (h, sc) => decodeElt cb h sc (lane f.bits x.val (e % n))
  | none => .fin false 0 0

/-- Element `e` of a queue row: one of a missing flit is +0 (R318). -/
def rowElt (cb : Nat → BitVec 256) (f : Fmt) (es : List Entry) (e : Nat) : Num :=
  if e / (512 / f.bits) < es.length then blkElt cb f (rowFlit es) e else .fin false 0 0

/-- Whether blocks carry a format of FMT's width (R323). -/
def blksFit (f : Fmt) (xs : List VReg) : Bool := xs.all fun x => (matPair f x.pair).isSome

/-- The rows of A and columns of B as decoded elements: `arow n k` and `bcol j k`. -/
structure MmaArgs where
  arow : Nat → Nat → Num
  bcol : Nat → Nat → Num

/-- One row of accumulation into row `d` (R323). -/
def mmaRow (t : Tile) (reg d : Nat) (za : Bool) (k : Nat) (arow : Nat → Num) (bcol : Nat → Nat → Num) : Tile :=
  (List.range 64).foldl (fun t j =>
    t.setAel reg d j (dotAcc (k / 16 + 1) (if za then 0 else t.ael reg d j)
      ((List.range k).map fun i => (arow i, bcol j i)))) t

/-- B as decoded elements (R323): an m register, or a scratchpad operand read from row 0 of tile TILE. -/
def bElts (s : State) (tr : Bool) (f : Fmt) (b : MSrc) (tile : Nat) : Nat → Nat → Num :=
  let k := (kdim f)
  match b with
  | .m r => fun j i => blkElt s.cb f (s.here.mblk r.val) (if tr then j * k + i else i * 64 + j)
  | .sp p =>
    let ds := s.dsc p
    let w := f.bits
    fun j i =>
      let (row, e) := if tr then (j, i) else (i, j)
      let x := rowBytes s.here ds (ds.rowAddr tile row + e * w / 8) ((w + 7) / 8)
      decodeElt s.cb f 127 (if w = 4 then x / 2 ^ (4 * (e % 2)) % 16 else x)
  | .queue _ => fun _ _ => .fin false 0 0

-- WHAT AN INSTRUCTION MAKES OF THE WORDS THAT IT READS

/-- The tile after an MLD whose rows have been read (R319). -/
def State.mldTile (s : State) (f : Fmt) (d : Fin 8) (sp : Fin 8) (gx : Fin 16) : Tile :=
  let r := rowWord (s.g gx).val
  let ds := s.dsc sp
  (List.range r.count).foldl (fun t i =>
    let x := rowBytes s.here ds (ds.rowAddr r.tile (r.srow + i)) 128
    let p := f.pairAt r.scale
    (t.setMblk d.val (2 * (r.drow + i)) ⟨BitVec.ofNat 512 x, p⟩).setMblk d.val (2 * (r.drow + i) + 1)
      ⟨BitVec.ofNat 512 (x / 2 ^ 512), p⟩) s.here

/-- The tile after an MLDT whose rows have been read (R320): B-layout element (k, i) takes A-layout element k of scratchpad row i. -/
def State.mldtTile (s : State) (f : Fmt) (d : Fin 8) (sp : Fin 8) (gx : Fin 16) : Tile :=
  let r := rowWord (s.g gx).val
  let ds := s.dsc sp
  let w := f.bits
  let rows := (List.range 64).map fun i => rowBytes s.here ds (ds.rowAddr r.tile i) 128
  (List.range 128).foldl (fun t b =>
    t.setMblk d.val b ⟨ofLanes w ((List.range (512 / w)).map fun e =>
      let n := b * (512 / w) + e
      (rows[n % 64]?).getD 0 / 2 ^ (w * (n / 64)) % 2 ^ w), f.pairAt r.scale⟩) s.here

/-- The tile after an MMA or MMAT of a register or scratchpad A (R323). -/
def State.mmaTile (s : State) (tr za : Bool) (f : Fmt) (d : Fin 4) (a b : MSrc) (gx : Fin 16) : Tile :=
  let r := rowWord (s.g gx).val
  let k := kdim f
  let aElt : Nat → Nat → Num := match a with
    | .m m => fun n i => blkElt s.cb f (s.here.mblk m.val) ((r.srow + n) * k + i)
    | .sp p => fun n i =>
      let da := s.dsc p
      let w := f.bits
      let x := rowBytes s.here da (da.rowAddr r.tile (r.srow + n) + i * w / 8) ((w + 7) / 8)
      decodeElt s.cb f r.scale (if w = 4 then x / 2 ^ (4 * (i % 2)) % 16 else x)
    | .queue _ => fun _ _ => .fin false 0 0
  (List.range r.count).foldl (fun t n =>
    mmaRow t d.val (r.drow + n) za k (aElt n) (bElts s tr f b r.tile)) s.here

/-- The tile after an instruction whose scratchpad words have been read. -/
def State.matTile (s : State) : Instr → Tile
  | .mld f d sp gx => s.mldTile f d sp gx
  | .mldt f d sp gx => s.mldtTile f d sp gx
  | .mma _ za f d a b gx => s.mmaTile false za f d a b gx
  | .mmat _ za f d a b gx => s.mmaTile true za f d a b gx
  | _ => s.here

-- GROUPS IN THEIR CYCLES (R52)

/-- The codebooks of the firing unit's context. -/
def State.books (s : State) : Sparse (BitVec 256) := match s.ctx? s.me.ctx with | some c => c.cbs | none => []

/-- A load's result has been read: it takes the place of what its pending result held. -/
def State.putLoad (s : State) (m : SpMove) (w : Wr → Wr) : State :=
  { s with results := s.results.map fun r => if r.fire = m.fire ∧ r.due = m.due then { r with writes := r.writes.map w } else r }

/-- The state in which an instruction's words have been read: its firing, with the bank and the codebooks of its issue. -/
def State.gathered (s : State) (m : SpMove) : State :=
  let s1 : State := { s with cur := m.fire }
  (s1.modCtx s1.me.ctx fun c => { c with cbs := m.cbs }).modHere fun t =>
    { t with sp := m.got, banks := Sparse.set t.banks m.fire.bank m.bank }

/-- All groups of an instruction have been read: its registers take their values, the matrix registers where its unit now is. -/
def State.finishMove (s : State) (m : SpMove) : State :=
  let x := placedValue m.got m.bytes
  match m.instr with
  | .sld ty _ _ => s.putLoad m fun w => match w with | .g b r y => .g b r ⟨ty.wrap x, y.pair⟩ | y => y
  | .sldb .. => s.putLoad m fun w => match w with | .v b r y => .v b r ⟨BitVec.ofNat 512 x, y.pair⟩ | y => y
  | i =>
    let t := (s.gathered m).matTile i
    s.modTile m.fire.tile fun x => { x with m := t.m, a := t.a }

/-- The read groups of a tile whose cycle has come. -/
def State.readMoves (s : State) (tile : Nat) : State :=
  let t := s.tile tile
  let ms := t.moves.map fun m => (m, m.read t s.cycle)
  let s1 := s.modTile tile fun t => { t with moves := (ms.map (·.2)).filter fun m => !m.over }
  (ms.filter fun m => !m.1.reads.isEmpty && m.2.reads.isEmpty).foldl (fun s m => s.finishMove m.2) s1

/-- An instruction's groups begin: what is due in this cycle is performed, reads before writes (R52). -/
def State.spMove (s : State) (m : SpMove) : State :=
  ((s.modHere fun t => { t with moves := t.moves ++ [m] }).readMoves s.cur.tile).modHere fun t => t.writeGroups s.cycle

/-- The groups of a tile that fall due as a cycle begins: what was written in the last one stands before what is read in this one. -/
def State.moveGroups (s : State) (tile : Nat) : State :=
  if (s.tile tile).moves = [] then s
  else (s.modTile tile fun t => t.writeGroups (s.cycle - 1)).readMoves tile

/-- The read groups of a matrix instruction whose results are seen `l` cycles on. -/
def State.spReads (s : State) (i : Instr) (l first : Nat) (gs : List (List Nat)) : State :=
  s.spMove ⟨s.cur, i, s.cycle + l, s.bk, s.books, groupStarts first gs, [], [], []⟩

/-- Write groups, with their bytes. -/
def State.spWrites (s : State) (i : Instr) (ws : List (Nat × List (Nat × BitVec 8))) : State :=
  s.spMove ⟨s.cur, i, s.cycle, s.bk, [], [], [], [], ws⟩

-- LOADS, STORES AND CLEARING

/-- MLD from the scratchpad (R319). -/
def execMld (f : Fmt) (d : Fin 8) (sp : Fin 8) (gx : Fin 16) (s : State) : Out :=
  let r := rowWord (s.g gx).val
  let ds := s.dsc sp
  let spans := rowSpans ds r.tile r.srow r.count 128
  .next (tokCheck s none [s.gn (2 * sp.val), s.gn (2 * sp.val + 1), s.g gx]
    (rowCheck s r ⟨true, true, true, [ds.tilePitch]⟩
      (spCheck s ds (f.bits / 8) spans
        (let gs := spGroups ds 2 33 spans
         let l := s.readWait + groupCosts gs + 3
         ((s.useRead (groupCosts gs)).mat l l [.mark (.m d.val)] none).spReads (.mld f d sp gx) l (s.cycle + s.readWait) gs))))

/-- MLD of a queue row (R319): a reserved format code is refused (R316, R342). -/
def execMldQueue (d : Fin 8) (q : Fin 8) (gx : Fin 16) (s : State) : Out :=
  .next (queueRow s gx q 2 fun s1 es row =>
    match es.find? fun e => (Fmt.of e.hdr.fmt).isNone with
    | some e => matError s1 none .formatReserved Cause.reservedCode e.hdr.fmt.toNat
    | none => (s1.mat 2 2 [.mark (.m d.val)] none).modHere fun t =>
      (t.setMblk d.val (2 * row) (rowFlit es 0)).setMblk d.val (2 * row + 1) (rowFlit es 1))

/-- MLDT (R320): each of its groups is one word of every row. -/
def execMldt (f : Fmt) (d : Fin 8) (sp : Fin 8) (gx : Fin 16) (s : State) : Out :=
  let r := rowWord (s.g gx).val
  let ds := s.dsc sp
  let spans := rowSpans ds r.tile 0 64 128
  .next (tokCheck s none [s.gn (2 * sp.val), s.gn (2 * sp.val + 1), s.g gx]
    (rowCheck s r ⟨true, false, false, [ds.tilePitch]⟩
      (if r.count ≠ 64 ∨ r.srow ≠ 0 ∨ r.drow ≠ 0 then matError s none .bounds Cause.rowRange 0
       else spCheck s ds (f.bits / 8) spans
        (let gs := (List.range 32).map fun g => (List.range 64).flatMap fun i => spanPlaces ds (ds.rowAddr r.tile i + 4 * g) 4
         let l := s.readWait + groupCosts gs + 3
         ((s.useRead (groupCosts gs)).mat l l [.mark (.m d.val)] none).spReads (.mldt f d sp gx) l (s.cycle + s.readWait) gs))))

/-- An accumulator row converted to a target format (R321, R326): one counter value per element under .rs. -/
def convRow (s : State) (f : Fmt) (scale : BitVec 8) (rm : Rm) (sat : Bool) (reg row n : Nat) : List Nat :=
  (List.range 64).map fun j =>
    convertElt s.cb f scale rm sat (s.rnd rm (64 * n + j)) (floatValue fFP32 (s.here.ael reg row j)).exact

/-- Lanes packed as R75 packs them. -/
def packLanes (w : Nat) (xs : List Nat) : Nat := xs.foldr (fun x a => x % 2 ^ w + 2 ^ w * a) 0

/-- MST (R321). -/
def execMst (f : Fmt) (rm : Rm) (sat : Bool) (sp : Fin 8) (src : MstSrc) (gx : Fin 16) (s : State) : Out :=
  let r := rowWord (s.g gx).val
  let ds := s.dsc sp
  let len := match src with | .m _ => 128 | .a _ => 8 * f.bits
  let esize := match src with | .m _ => 1 | .a _ => f.bits / 8
  let spans := rowSpans ds r.tile r.drow r.count len
  let bad : Bool := match src with | .m _ => false | .a _ => f == .fp32 && r.scale != 127
  let row (i : Nat) : Nat := match src with
    | .m m => (s.here.mblk m.val (2 * (r.srow + i))).val.toNat + 2 ^ 512 * (s.here.mblk m.val (2 * (r.srow + i) + 1)).val.toNat
    | .a a => packLanes f.bits (convRow s f r.scale rm sat a.val (r.srow + i) i)
  .next (tokCheck s none [s.gn (2 * sp.val), s.gn (2 * sp.val + 1), s.g gx]
    (rowCheck s r ⟨true, true, true, [ds.tilePitch]⟩
      (if bad then matError s none .bounds Cause.descriptor 0
       else spCheck s ds esize spans
        (let gs := spGroups ds (256 / len) 65 spans
         let l := s.writeWait + groupCosts gs + 3
         let bytes := (List.range r.count).map fun i => placed (bytePlaces ds.rot ds.row (ds.rowAddr r.tile (r.drow + i)) len) (row i)
         let ws := ((groupStarts (s.cycle + s.writeWait) gs).map (·.1)).zip ((chunksOf (256 / len) 65 bytes).map fun xs => xs.flatten)
         let s1 := ((s.useWrite (groupCosts gs)).mat l l [] none).spWrites (.mst f rm sat sp src gx) ws
         match src with
         | .m _ => s1
         | .a _ => s1.advK rm (64 * r.count)))))

/-- The keys at or above a bound are kept, and those below another. -/
def dropRange {α : Type} (m : Sparse α) (lo hi : Nat) : Sparse α := m.filter fun x => x.1 < lo || hi ≤ x.1

/-- MZERO (R322). -/
def execMzero (d : MzDst) (s : State) : Out :=
  .next (match d with
    | .m r => (s.mat 2 2 [.mark (.m r.val)] none).modHere fun t => { t with m := dropRange t.m (128 * r.val) (128 * r.val + 128) }
    | .a r => (s.mat 2 2 [.mark (.a r.val)] none).modHere fun t => { t with a := dropRange t.a (4096 * r.val) (4096 * r.val + 4096) }
    | .pv r => (s.mat 2 2 [.mark (.pv r.val)] none).modHere fun t => { t with pv := dropRange t.pv (64 * r.val) (64 * r.val + 64) })

-- MMA AND MMAT

/-- The spans of a scratchpad B (R323). -/
def bSpans (s : State) (tr : Bool) (f : Fmt) (b : MSrc) (tile : Nat) : List (Nat × Nat) :=
  match b with
  | .sp p => if tr then rowSpans (s.dsc p) tile 0 64 128 else rowSpans (s.dsc p) tile 0 (kdim f) (8 * f.bits)
  | _ => []

/-- The g registers of a descriptor operand. -/
def srcRegs (s : State) (x : MSrc) : List GReg :=
  match x with
  | .sp p => [s.gn (2 * p.val), s.gn (2 * p.val + 1)]
  | _ => []

/-- The descriptor check of an operand, when it is a scratchpad operand. -/
def srcCheck (s : State) (x : MSrc) (f : Fmt) (spans : List (Nat × Nat)) (ok : State) : State :=
  match x with
  | .sp p => spCheck s (s.dsc p) (f.bits / 8) spans ok
  | _ => ok

/-- TILE_PITCH of an operand, when it is a scratchpad operand. -/
def srcPitch (s : State) (x : MSrc) : List Nat :=
  match x with
  | .sp p => [(s.dsc p).tilePitch]
  | _ => []

/-- The groups of a scratchpad B, 64 words at a time (R52, R339). -/
def bGroups (s : State) (x : MSrc) (spans : List (Nat × Nat)) : List (List Nat) :=
  match x with
  | .sp p => spGroups (s.dsc p) (match spans with | (_, l) :: _ => 256 / l | [] => 1) 257 spans
  | _ => []

/-- What a scratchpad B adds: its groups and 3 cycles more, before the first row (R339). -/
def bCost (x : MSrc) (gs : List (List Nat)) : Nat := match x with | .sp _ => groupCosts gs + 3 | _ => 0

/-- The trigger's OQ (R192). -/
def trigOq (t : BitVec 32) : Nat := t.toNat / 2 ^ 4 % 8

/-- MMA and MMAT (R323, R324, R339): the instruction `i`. -/
def mma (s : State) (i : Instr) (tr fwd za : Bool) (f : Fmt) (d : Fin 4) (a b : MSrc) (gx : Fin 16) : State :=
  let r := rowWord (s.g gx).val
  let k := (kdim f)
  let c := rowCycles f
  let bsp := bSpans s tr f b r.tile
  let bg := bGroups s b bsp
  let bblks := match b with | .m x => (List.range 128).map (s.here.mblk x.val) | _ => []
  match a with
  | .queue q =>
    queueRow s gx q 2 fun s1 es row =>
      if !blksFit f ((List.range 2).map (rowFlit es) ++ bblks) then
        matError s1 none .formatReserved Cause.formatMismatch 0
      else
        let s2 := (s1.mat (c + 7) c [.chain d.val] none).modHere fun t =>
          mmaRow t d.val row za k (rowElt s.cb f es) (bElts s tr f b r.tile)
        if fwd then es.foldl (fun x e => x.emit (trigOq s.cur.trig) ⟨e.data, ⟨e.hdr.fmt, e.hdr.scale⟩⟩) s2 else s2
  | .m m =>
    tokCheck s none (srcRegs s b ++ [s.g gx])
      (rowCheck s r ⟨true, true, true, srcPitch s b⟩
        (srcCheck s b f bsp
          (if !blksFit f ((List.range (2 * r.count)).map (fun i => s.here.mblk m.val (2 * r.srow + i)) ++ bblks) then
            matError s none .formatReserved Cause.formatMismatch 0
           else
            let l := c * r.count + 7 + bCost b bg + (if bg = [] then 0 else s.readWait)
            let s1 := (s.useRead (groupCosts bg)).mat l (l - 7) [.chain d.val] none
            if bg = [] then s1.modHere fun _ => s1.mmaTile tr za f d a b gx else s1.spReads i l (s.cycle + s.readWait) bg)))
  | .sp p =>
    let da := s.dsc p
    let asp := rowSpans da r.tile r.srow r.count 128
    let ag := spGroups da 1 65 asp
    tokCheck s none (srcRegs s a ++ srcRegs s b ++ [s.g gx])
      (rowCheck s r ⟨true, true, true, srcPitch s a ++ srcPitch s b⟩
        (srcCheck s a f asp (srcCheck s b f bsp
          (if !blksFit f bblks then matError s none .formatReserved Cause.formatMismatch 0
           else
            let l := c * r.count + 7 + 4 + (groupCosts ag - r.count) + bCost b bg + s.readWait
            ((s.useRead (groupCosts ag + groupCosts bg)).mat l (l - 7) [.chain d.val] none).spReads i l (s.cycle + s.readWait) (bg ++ ag)))))

/-- MMA (R323). -/
def execMma (fwd za : Bool) (f : Fmt) (d : Fin 4) (a b : MSrc) (gx : Fin 16) (s : State) : Out :=
  .next (mma s (.mma fwd za f d a b gx) false fwd za f d a b gx)

/-- MMAT (R323). -/
def execMmat (fwd za : Bool) (f : Fmt) (d : Fin 4) (a b : MSrc) (gx : Fin 16) (s : State) : Out :=
  .next (mma s (.mmat fwd za f d a b gx) true fwd za f d a b gx)

-- MACC AND MDRAIN

/-- MACC, register form (R325): 67 cycles, and the array is free when its results are seen (R317). -/
def execMacc (rm : Rm) (sat : Bool) (d q : Fin 4) (s : State) : Out :=
  .next (((s.mat 67 67 [.chain d.val] none).modHere fun t =>
    (List.range 64).foldl (fun t i =>
      (List.range 64).foldl (fun t j =>
        t.setAel d.val i j (roundTo fFP32 rm sat (s.rnd rm (64 * i + j))
          (addExact rm (floatValue fFP32 (s.here.ael d.val i j)) (floatValue fFP32 (s.here.ael q.val i j))))) t) t).advK rm 4096)

/-- MACC of a queue row (R325). -/
def execMaccQueue (f : Fmt) (rm : Rm) (sat : Bool) (d : Fin 4) (q : Fin 8) (gx : Fin 16) (s : State) : Out :=
  .next (queueRow s gx q (64 * f.bits / 512) fun s1 es row =>
    let n := 64 * f.bits / 512
    if !((List.range n).all fun i => fmtFits f (rowFlit es i)) then
      matError s1 none .formatReserved Cause.formatMismatch 0
    else
      ((s1.mat 4 1 [.chain d.val] none).modHere fun t =>
        (List.range 64).foldl (fun t j =>
          let x := rowFlit es (j / (512 / f.bits))
          t.setAel d.val row j (roundTo fFP32 rm sat (s.rnd rm j)
            (addExact rm (floatValue fFP32 (t.ael d.val row j)) (s.elt f x (j % (512 / f.bits)))))) t).advK rm 64)

/-- MDRAIN (R326). -/
def execMdrain (f : Fmt) (rm : Rm) (sat : Bool) (oq : Fin 8) (a : Fin 4) (tk : DrainT) (gx : Fin 16) (s : State) : Out :=
  let r := rowWord (s.g gx).val
  let place (s : State) (e : Nat) : State :=
    let n := 8 * f.bits / 64
    let flits := (List.range r.count).flatMap fun i =>
      let x := packLanes f.bits (convRow s f r.scale rm sat a.val (r.srow + i) i)
      (List.range n).map fun k => (⟨BitVec.ofNat 512 (x / 2 ^ (512 * k)), f.pairAt r.scale⟩ : VReg)
    let s1 := (s.mat (r.count + 4) (r.count + 4) [] none).modMe fun u => { u with drainBusy := s.cycle + r.count + 4 }
    routeTo ((flits.foldl (fun x y => x.emit oq.val y) s1).advK rm (64 * r.count)) oq.val e
  .next (tokCheck s none ((match tk with | .reg g => [s.g g] | .queue _ => []) ++ [s.g gx])
    (rowCheck s r ⟨true, true, false, []⟩
      (if f = .fp32 ∧ r.scale ≠ 127 then matError s none .bounds Cause.descriptor 0
       else
        match tk with
        | .reg g => place s (s.g g).val.toNat
        | .queue q =>
          match s.headKind q.val with
          | .data e => place (s.consume q.val 1) (e.data.toNat % 16)
          | .lok => s.takeLok q.val
          | .poison p => s.takePoison q.val 1 p
          | .empty => s)))

-- PERMUTATION AND FACTOR STATE

/-- Rows or columns `k` and `p` of an accumulator exchanged over all 64 elements. -/
def swapLines (t : Tile) (r : Nat) (cols : Bool) (k p : Nat) : Tile :=
  (List.range 64).foldl (fun t j =>
    let (i1, j1, i2, j2) := if cols then (j, k, j, p) else (k, j, p, j)
    let x := t.ael r i1 j1
    let y := t.ael r i2 j2
    (t.setAel r i1 j1 y).setAel r i2 j2 x) t

/-- MPERM (R337). -/
def execMperm (cols inv : Bool) (d : Fin 4) (pv : Fin 4) (n : Fin 16) (s : State) : Out :=
  let w := nWord false (s.g n).val
  let ks := if inv then (List.range w.n).reverse else List.range w.n
  .next (tokCheck s none [s.g n]
    (if !w.clean then matError s none .bounds Cause.descriptor 0
     else if (List.range w.n).any fun k => decide (63 < s.here.pvel pv.val k) then
      matError s none .bounds Cause.pivotEntry 0
     else
      (s.mat (2 + w.n) (2 + w.n) [.mark (.a d.val)] none).modHere fun t =>
        ks.foldl (fun t k => swapLines t d.val cols k (s.here.pvel pv.val k)) t))

/-- MFST (R338). -/
def execMfst (d : Fin 16) (s : State) : Out :=
  .next (s.mat 2 2 [s.wg d ⟨s.here.fs.extractLsb' 0 64, Pair.int64⟩] none)

/-- MFST.hi (R338). -/
def execMfstHi (d : Fin 16) (s : State) : Out :=
  .next (s.mat 2 2 [s.wg d ⟨s.here.fs.extractLsb' 64 64, Pair.int64⟩] none)

/-- MFST.w (R338): OP 7..15 or bit 0 set is refused. -/
def execMfstW (q : Fin 16) (s : State) : Out :=
  let x := (s.g q).val
  .next (tokCheck s none [s.g q]
    (if 7 ≤ x.toNat / 2 ^ 28 % 16 ∨ x.getLsbD 0 then matError s none .bounds Cause.descriptor 0
     else (s.mat 2 2 [.mark .fs] none).modHere fun t => { t with fs := t.fs.extractLsb' 64 64 ++ x }))

/-- MFST.whi (R338). -/
def execMfstWhi (q : Fin 16) (s : State) : Out :=
  .next (tokCheck s none [s.g q]
    ((s.mat 2 2 [.mark .fs] none).modHere fun t => { t with fs := (s.g q).val ++ t.fs.extractLsb' 0 64 }))

/-- MFST.clr (R338). -/
def execMfstClr (s : State) : Out :=
  .next ((s.mat 2 2 [.mark .fs] none).modHere fun t => { t with fs := t.fs.extractLsb' 64 64 ++ (0 : BitVec 64) })

end Sys2Proof.Machine
end

