-- ==== Sys2Proof/Machine/Factor.lean ====
section
/-! DEFINITION. The tile factorisations MLU, MCHOL, MQR, MTRSM and MQAPP, step by step, with the factor state fs and the
interruption of a run (R328 to R336, R339, R340). -/

namespace Sys2Proof.Machine

-- THE FACTOR STATE

/-- The fields of fs (R329). -/
structure FState where
  tol : Nat
  runmax : Nat
  initmax : Nat
  op : Nat
  valid : Bool
  zp : Bool
  zk : Nat
  k : Nat
  n : Nat
  m : Nat
  deriving DecidableEq, Repr

/-- fs read by its fields (R329). -/
def fsOf (x : BitVec 128) : FState where
  tol := x.toNat / 2 ^ 96
  runmax := x.toNat / 2 ^ 64 % 2 ^ 32
  initmax := x.toNat / 2 ^ 32 % 2 ^ 32
  op := x.toNat / 2 ^ 28 % 16
  valid := x.getLsbD 27
  zp := x.getLsbD 26
  zk := x.toNat / 2 ^ 20 % 64
  k := x.toNat / 2 ^ 13 % 128
  n := x.toNat / 2 ^ 7 % 64
  m := x.toNat / 2 % 64

/-- fs with its fields; bit 0 is zero (R329). -/
def FState.bits (f : FState) : BitVec 128 :=
  BitVec.ofNat 128 (at_ f.tol 96 32 + at_ f.runmax 64 32 + at_ f.initmax 32 32 + at_ f.op 28 4 + at_ f.valid.toNat 27 1
    + at_ f.zp.toNat 26 1 + at_ f.zk 20 6 + at_ f.k 13 7 + at_ f.n 7 6 + at_ f.m 1 6)

/-- A factorisation as far as it has run: the tile's registers, fs, the cycles of the steps run, and the fault that
stopped it with its step. -/
structure Fact where
  t : Tile
  fs : FState
  cost : Nat
  fault : Option (Err × Nat)
  deriving DecidableEq, Repr

-- SINGLE OPERATIONS, ROUNDED .rn (R331)

/-- The value of FP32 bits. -/
def f32 (x : Nat) : Num := floatValue fFP32 x
/-- The bits of an FP32 value. -/
def bits32 (x : Num) : Nat := roundFP32 .rn x.exact
/-- A quotient. -/
def qdiv (a b : Nat) : Nat := roundFP32 .rn (divExact (f32 a) (f32 b))
/-- A product. -/
def qmul (a b : Nat) : Nat := roundFP32 .rn (mulExact (f32 a) (f32 b))
/-- A difference. -/
def qsub (a b : Nat) : Nat := roundFP32 .rn (sumExact .rn (nans [f32 a, f32 b]) [f32 a, (f32 b).neg])
/-- A correctly rounded square root. -/
def qsqrt (a : Nat) : Nat := roundFP32 .rn (sqrtExact (f32 a))
/-- FFMA(−a, b, c) (R331). DESIGN CHOICE: the minus inverts the sign of a NaN too, as VNEG does (R292; notes/assumptions/75.md). -/
def qfnma (a b c : Nat) : Nat := roundFP32 .rn (fmaExact .rn (f32 a).neg (f32 b) (f32 c))
/-- −a. -/
def qneg (a : Nat) : Nat := bits32 (f32 a).neg
/-- Max(a, |b|). -/
def qmaxAbs (a b : Nat) : Nat := bits32 (minMax true (f32 a) (f32 b).abs)
/-- +1.0. -/
def one32 : Nat := 0x3F800000

/-- DotOrder (R331) of the products of a list, 16 at a time. -/
def dotOrder (fuel : Nat) (acc : Nat) (xs : List (Nat × Nat)) : Nat :=
  match fuel with
  | 0 => acc
  | k + 1 =>
    match xs with
    | [] => acc
    | _ =>
      dotOrder k (roundFP32 .rn (addExact .rn (f32 acc) (dotGroup ((xs.take 16).map fun p => (f32 p.1, f32 p.2))))) (xs.drop 16)

/-- The numbers lo, …, hi − 1. -/
def span (lo hi : Nat) : List Nat := (List.range (hi - lo)).map (lo + ·)

/-- The largest of values, a NaN counting as the largest (R332). -/
def largest (xs : List Nat) : Nat := xs.foldl qmaxAbs 0

/-- Whether |x| ranks above |y|, a NaN above every number (R332). -/
def aboveAbs (x y : Nat) : Bool :=
  if (f32 y).isNaN then false else if (f32 x).isNaN then true else condNum .gt (f32 x).abs (f32 y).abs

/-- The growth estimate RUNMAX / INITMAX, rounded up; `zeroOne`: 1.0 when INITMAX = 0 (R332 to R334). -/
def growth (zeroOne : Bool) (f : FState) : Nat :=
  let i := f32 f.initmax
  if zeroOne && condNum .eq i (.fin false 0 0) && !(f32 f.runmax).isNaN then one32
  else roundFP32 .ru (divExact (f32 f.runmax) i)

-- STEPS

/-- Step k of MLU (R332). -/
def luStep (c : Bool) (r pv n : Nat) (k : Nat) (x : Fact) : Fact :=
  let t := x.t
  let p := (span k n).foldl (fun p i => if aboveAbs (t.ael r i k) (t.ael r p k) then i else p) k
  let t := t.setPvel pv k p
  let t := if p = k then t else swapLines t r false k p
  let piv := t.ael r k k
  let cost := x.cost + 6 + (n - k - 1)
  if !(f32 piv).isNaN && condNum .le (f32 piv).abs (f32 x.fs.tol) then
    let fs := if x.fs.zp then x.fs else { x.fs with zp := true, zk := k }
    if c then
      ⟨(span (k + 1) n).foldl (fun t i => t.setAel r i k 0) t, { fs with k := k + 1 }, cost, none⟩
    else ⟨t, { fs with valid := false, k := k }, cost, some (.zeroPivot, k)⟩
  else
    let t := (span (k + 1) n).foldl (fun t i => t.setAel r i k (qdiv (t.ael r i k) piv)) t
    let (t, m) := (span (k + 1) n).foldl (fun (a : Tile × Nat) i =>
      (span (k + 1) n).foldl (fun (a : Tile × Nat) j =>
        let v := qfnma (a.1.ael r i k) (a.1.ael r k j) (a.1.ael r i j)
        (a.1.setAel r i j v, qmaxAbs a.2 v)) a) (t, x.fs.runmax)
    ⟨t, { x.fs with runmax := m, k := k + 1 }, cost, none⟩

/-- Step k of MCHOL (R333). -/
def cholStep (r n : Nat) (k : Nat) (x : Fact) : Fact :=
  let d := x.t.ael r k k
  let cost := x.cost + 10 + (n - k - 1)
  if condNum .gt (f32 d) (.fin false 0 0) then
    let q := qsqrt d
    let t := x.t.setAel r k k q
    let t := (span (k + 1) n).foldl (fun t i => t.setAel r i k (qdiv (t.ael r i k) q)) t
    let t := (span (k + 1) n).foldl (fun t j =>
      (span j n).foldl (fun t i => t.setAel r i j (qfnma (t.ael r i k) (t.ael r j k) (t.ael r i j))) t) t
    ⟨t, { x.fs with runmax := bits32 (minMax false (f32 x.fs.runmax) (f32 d)), k := k + 1 }, cost, none⟩
  else ⟨x.t, { x.fs with zp := true, zk := k, valid := false, k := k }, cost, some (.notPd, k)⟩

/-- A reflector applied to one line of a matrix: w, t, then the updates (R334, R336). `v`, `get` and `set` are indexed by
k..n − 1. -/
def reflect (k n tau : Nat) (v : Nat → Nat) (get : Tile → Nat → Nat) (set : Tile → Nat → Nat → Tile) (t : Tile) : Tile :=
  let w := dotOrder 65 0 ((span k n).map fun i => (v i, get t i))
  let q := qmul tau w
  (span k n).foldl (fun t i => set t i (qfnma q (v i) (get t i))) t

/-- Step k of MQR (R334). -/
def qrStep (r pv n : Nat) (k : Nat) (x : Fact) : Fact :=
  let cost := x.cost + 12 + 2 * (n - k - 1)
  let t := x.t
  let (t, tau) :=
    if k + 1 < n then
      let nrm := qsqrt (dotOrder 65 0 ((span k n).map fun i => (t.ael r i k, t.ael r i k)))
      if condNum .eq (f32 nrm) (.fin false 0 0) then (t, 0)
      else
        let x0 := t.ael r k k
        let beta := if (f32 x0).sign ∧ !condNum .eq (f32 x0) (.fin false 0 0) then nrm else qneg nrm
        let dd := qsub x0 beta
        let tau := qdiv (qneg dd) beta
        let t := (span (k + 1) n).foldl (fun t i => t.setAel r i k (qdiv (t.ael r i k) dd)) t
        let t := t.setAel r k k beta
        let v (i : Nat) : Nat := if i = k then one32 else t.ael r i k
        ((span (k + 1) n).foldl (fun t j => reflect k n tau v (fun t i => t.ael r i j) (fun t i y => t.setAel r i j y) t) t, tau)
    else (t, 0)
  let t := t.setPvel pv k tau
  let m := (span k n).foldl (fun m j => qmaxAbs m (t.ael r k j)) x.fs.runmax
  ⟨t, { x.fs with runmax := m, k := k + 1 }, cost, none⟩

/-- Step number q of MTRSM (R335): B is `b`, T is `tr_`. -/
def trsmStep (up unit right tr : Bool) (b tm n m : Nat) (q : Nat) (x : Fact) : Fact :=
  let flip := xor tr right
  let g (t : Tile) (i j : Nat) : Nat := if flip then t.ael tm j i else t.ael tm i j
  let lower := xor up (!flip)
  let j := if lower then q else n - 1 - q
  let after := if lower then span (j + 1) n else (List.range j).reverse
  let get (t : Tile) (i c : Nat) : Nat := if right then t.ael b c i else t.ael b i c
  let set (t : Tile) (i c v : Nat) : Tile := if right then t.setAel b c i v else t.setAel b i c v
  let t := (List.range m).foldl (fun t c =>
    let t := if unit then t else set t j c (qdiv (get t j c) (g t j j))
    after.foldl (fun t i => set t i c (qfnma (g t i j) (get t j c) (get t i c))) t) x.t
  ⟨t, { x.fs with k := q + 1 }, x.cost + 4 + m, none⟩

/-- Step number q of MQAPP (R336). -/
def qappStep (right tr : Bool) (c v pv n m : Nat) (q : Nat) (x : Fact) : Fact :=
  let up := xor right tr
  let k := if up then q else n - 1 - q
  let tau := x.t.pvel pv k
  let vv (i : Nat) : Nat := if i = k then one32 else x.t.ael v i k
  let t := (List.range m).foldl (fun t l =>
    if right then reflect k n tau vv (fun t i => t.ael c l i) (fun t i y => t.setAel c l i y) t
    else reflect k n tau vv (fun t i => t.ael c i l) (fun t i y => t.setAel c i l y) t) x.t
  ⟨t, { x.fs with k := q + 1 }, x.cost + 8 + m, none⟩

/-- One step of a factorisation (R332 to R336). -/
def factStep (op : Instr) (n m : Nat) (k : Nat) (x : Fact) : Fact :=
  match op with
  | .mluF d pv _ _ => luStep false d.val pv.val n k x
  | .mluC d pv _ _ => luStep true d.val pv.val n k x
  | .mchol d _ _ => cholStep d.val n k x
  | .mqr d pv _ _ => qrStep d.val pv.val n k x
  | .mtrsm up unit right tr d q _ => trsmStep up unit right tr d.val q.val n m k x
  | .mqapp right tr d q pv _ => qappStep right tr d.val q.val pv.val n m k x
  | _ => x

/-- Steps fs.K onward, `count` of them at most, while the cost stays within `limit`, up to a fault. -/
def factSteps (op : Instr) (n m limit : Nat) (count : Nat) (x : Fact) : Fact :=
  match count with
  | 0 => x
  | c + 1 =>
    if n ≤ x.fs.k ∨ x.fault.isSome ∨ limit ≤ x.cost then x
    else factSteps op n m limit c (factStep op n m x.fs.k x)

/-- OP of fs (R329). -/
def opCode (op : Instr) : Nat :=
  match op with
  | .mluF .. => 1 | .mluC .. => 2 | .mchol .. => 3 | .mqr .. => 4 | .mtrsm .. => 5 | .mqapp .. => 6
  | _ => 0

/-- What a fresh run writes before its steps (R330, R332 to R336). -/
def factInit (op : Instr) (n m : Nat) (t : Tile) : Fact :=
  let f := fsOf t.fs
  let f := { f with op := opCode op, valid := true, zp := false, zk := 0, k := 0, n := n - 1, m := m - 1 }
  let all (r : Nat) : Nat := largest ((List.range n).flatMap fun i => (List.range n).map fun j => t.ael r i j)
  match op with
  | .mluF d pv _ _ | .mluC d pv _ _ =>
    let x := all d.val
    ⟨(List.range 64).foldl (fun t k => t.setPvel pv.val k k) t, { f with initmax := x, runmax := x }, 0, none⟩
  | .mchol d _ _ =>
    ⟨t, { f with initmax := largest ((List.range n).map fun k => t.ael d.val k k), runmax := 0x7F800000 }, 0, none⟩
  | .mqr d pv _ _ =>
    ⟨(List.range 64).foldl (fun t k => t.setPvel pv.val k 0) t, { f with initmax := all d.val, runmax := 0 }, 0, none⟩
  | _ => ⟨t, { f with initmax := 0, runmax := 0 }, 0, none⟩

/-- The run of a factorisation, the steps within `limit` cycles of its start: a fresh run when VALID = 0, a resumption
otherwise (R330). -/
def factRun (op : Instr) (n m limit : Nat) (t : Tile) : Fact :=
  let f := fsOf t.fs
  factSteps op n m limit 64 (if f.valid then ⟨t, f, 0, none⟩ else factInit op n m t)

/-- The growth estimate that a run writes to gG (R332 to R334). -/
def growthOf (op : Instr) (f : FState) : Nat :=
  match op with
  | .mchol .. => growth false f
  | _ => growth true f

/-- gG of a factorisation, when it has one (R327). -/
def growthReg (op : Instr) : Option (Fin 16) :=
  match op with
  | .mluF _ _ _ g | .mluC _ _ _ g | .mchol _ _ g | .mqr _ _ _ g => some g
  | _ => none

/-- The registers that a run makes pending (R234). -/
def factMarks (op : Instr) (bank : Nat) : List Wr :=
  (match op with
    | .mluF d pv _ _ | .mluC d pv _ _ | .mqr d pv _ _ => [.mark (.a d.val), .mark (.pv pv.val)]
    | .mchol d _ _ | .mtrsm _ _ _ _ d _ _ | .mqapp _ _ d _ _ _ => [.mark (.a d.val)]
    | _ => []) ++ [.mark .fs] ++
  (match growthReg op with | some g => [.mark (.g bank g.val)] | none => [])

/-- A factorisation that has passed its checks issues (R330, R339): its registers are pending until it ends. -/
def factIssue (s : State) (op : Instr) (n m : Nat) : State :=
  let x := factRun op n m 100000 s.here
  let due := s.cycle + 4 + x.cost
  (s.issue (4 + x.cost) (factMarks op s.cur.bank) none).modHere fun t =>
    { t with arrBusy := due, run := some ⟨op, s.cur, n, m, s.cycle, due⟩ }

/-- The common start of a factorisation (R316, R328, R330). -/
def factor (s : State) (op : Instr) (usesM : Bool) (nr : Fin 16) : State :=
  let w := nWord usesM (s.g nr).val
  let m := if usesM then w.m else 1
  let f := fsOf s.here.fs
  let gx := growthReg op
  tokCheck s gx [s.g nr]
    (if !w.clean then matError s gx .bounds Cause.descriptor 0
     else if f.valid ∧ ¬(f.op = opCode op ∧ f.n + 1 = w.n ∧ f.m + 1 = m ∧ f.k ≤ w.n) then
      matError s gx .bounds Cause.factorState 0
     else factIssue s op w.n m)

/-- The end of a run (R330, R332, R333): its registers, fs and growth estimate are seen, or its error's token. -/
def State.finishRun (s : State) (tile : Nat) (r : FRun) : State :=
  let x := factRun r.op r.n r.m 100000 (s.tile tile)
  let s1 := s.setTile tile { x.t with fs := { x.fs with valid := false }.bits, run := none }
  match x.fault with
  | some (e, k) =>
    let tk : Tok := ⟨record s.dev (s.origin r.fire.actor r.fire.slot) e 0x01 k, true⟩
    (match growthReg r.op with
      | some g => s1.modTile tile fun t => Wr.apply t (.g r.fire.bank g.val tk.greg)
      | none => s1).attach r.fire.actor tk
  | none =>
    match growthReg r.op with
    | some g => s1.modTile tile fun t =>
        Wr.apply t (.g r.fire.bank g.val ⟨BitVec.ofNat 64 (growthOf r.op x.fs), Pair.fp32⟩)
    | none => s1

/-- A run stopped at the end of the step in progress (R340): the steps that have begun are done, and the array is busy until
that step ends (DESIGN CHOICE: the 4 cycles of R339 follow the last step, notes/assumptions/104.md); `valid` says whether it may
be resumed, and then its slot is what the unit fires first. A run that has met its error ends with it. -/
def State.stopRun (s : State) (tile : Nat) (valid : Bool) : State :=
  match (s.tile tile).run with
  | none => s
  | some r =>
    let x := factRun r.op r.n r.m (s.cycle + 1 - r.start) (s.tile tile)
    let s1 := { s with results := s.results.filter fun q => !(q.fire = r.fire && q.due = r.due) }
    if x.fault.isSome then s1.finishRun tile r
    else
      let s2 := s1.setTile tile { x.t with fs := { x.fs with valid := valid }.bits, run := none, arrBusy := Nat.max s.cycle (r.start + x.cost) }
      if valid then s2.modActor r.fire.actor fun a => { a with reissue := some ⟨r.fire, r.op⟩ } else s2

/-- MLU.f (R332). -/
def execMluF (d : Fin 4) (pv : Fin 4) (n gx : Fin 16) (s : State) : Out := .next (factor s (.mluF d pv n gx) false n)
/-- MLU.c (R332). -/
def execMluC (d : Fin 4) (pv : Fin 4) (n gx : Fin 16) (s : State) : Out := .next (factor s (.mluC d pv n gx) false n)
/-- MCHOL (R333). -/
def execMchol (d : Fin 4) (n gx : Fin 16) (s : State) : Out := .next (factor s (.mchol d n gx) false n)
/-- MQR (R334). -/
def execMqr (d : Fin 4) (pv : Fin 4) (n gx : Fin 16) (s : State) : Out := .next (factor s (.mqr d pv n gx) false n)
/-- MTRSM (R335). -/
def execMtrsm (up unit right tr : Bool) (d q : Fin 4) (n : Fin 16) (s : State) : Out :=
  .next (factor s (.mtrsm up unit right tr d q n) true n)
/-- MQAPP (R336). -/
def execMqapp (right tr : Bool) (d q : Fin 4) (pv : Fin 4) (gx : Fin 16) (s : State) : Out :=
  .next (factor s (.mqapp right tr d q pv gx) true gx)

end Sys2Proof.Machine
end

