-- ==== Sys2Proof/Machine/Translate.lean ====
section
/-! DEFINITION. Translation: page-table walks, leaf checks, TLBs and the table-pointer cache (R9 to R24, R30, R31, R37). -/

namespace Sys2Proof.Machine

/-- What an access asks of a leaf (R21). -/
inductive Perm where
  | load | store | sync | csusp | config
  deriving DecidableEq, Repr

/-- What a walk finds: a leaf, a leaf with MIG = 1 (`big`: of 256 MiB), or a failure with its cause and detail. -/
inductive Walked where
  | leaf (l : Leaf)
  | mig (big : Bool)
  | fail (e : Err) (cause : BitVec 8) (detail : Nat)
  deriving DecidableEq, Repr

-- LEAF FIELDS (R17)

/-- KEY_ID. -/
def Leaf.key (l : Leaf) : Nat := l.w0.toNat / 2 ^ 16 % 2 ^ 10
/-- MIG. -/
def Leaf.mig (l : Leaf) : Bool := l.w0.getLsbD 10
/-- IMM. -/
def Leaf.imm (l : Leaf) : Bool := l.w0.getLsbD 9
/-- CELLS. -/
def Leaf.cells (l : Leaf) : Bool := l.w0.getLsbD 8
/-- TYPED. -/
def Leaf.typed (l : Leaf) : Bool := l.w0.getLsbD 7
/-- POLICY. -/
def Leaf.policy (l : Leaf) : Nat := l.w0.toNat / 2 ^ 5 % 4
/-- CR. -/
def Leaf.cr (l : Leaf) : Bool := l.w0.getLsbD 4
/-- W. -/
def Leaf.w (l : Leaf) : Bool := l.w0.getLsbD 3
/-- R. -/
def Leaf.r (l : Leaf) : Bool := l.w0.getLsbD 2
/-- DEVICE. -/
def Leaf.device (l : Leaf) : Nat := l.w1.toNat / 2 ^ 48

/-- The global fabric address of a virtual address under a leaf (R15, R19). -/
def Leaf.addr (l : Leaf) (va : Word) : Nat :=
  let f := l.w1.toNat % 2 ^ 46
  l.device * 2 ^ 48 + (if l.big then f / 2 ^ 28 * 2 ^ 28 + va.toNat % 2 ^ 28 else f / 2 ^ 16 * 2 ^ 16 + va.toNat % 2 ^ 16)

/-- Device number of a global fabric address. -/
def devOf (ga : Nat) : Nat := ga / 2 ^ 48
/-- Device-physical part of a global fabric address. -/
def paOf (ga : Nat) : Nat := ga % 2 ^ 46

/-- A leaf that maps a virtual address of a context. -/
def Leaf.maps (l : Leaf) (ctx : Nat) (va : Word) : Bool :=
  l.ctx == ctx && l.page == (if l.big then va.toNat / 2 ^ 28 else va.toNat / 2 ^ 16)

-- WALKS

/-- The detail of a translation or permission failure (R37, R399). -/
def vaDetail (va : Word) (level : Nat) : Nat := va.toNat % 2 ^ 52 + level * 2 ^ 52

/-- The reserved bits of a page entry (R17). -/
def entryReserved (w0 w1 : Word) : Bool :=
  w0.toNat / 2 ^ 26 ≠ 0 || w0.toNat / 2 ^ 11 % 2 ^ 5 ≠ 0 || w1.toNat / 2 ^ 46 % 4 ≠ 0 || w1.toNat % 2 ^ 16 ≠ 0

/-- The index of a level, 1 to 3 (R10). -/
def levelIndex (va : Word) (level : Nat) : Nat := va.toNat / 2 ^ (52 - 12 * level) % 2 ^ 12

/-- A pointer that a walk has read is kept in the die's table-pointer cache (R30). `big` marks level 2. DESIGN CHOICE: a full
cache gives up the pointer read longest ago (notes/assumptions/92.md). -/
def Die.addPtr (d : Die) (p : Leaf) : Die :=
  { d with ptrs := (p :: d.ptrs.filter (· != p)).take Config.tablePointers }

/-- A walk from a level downward (R18, R19); checks that depend on the access come after it. -/
def walkGo (die ctx : Nat) (va : Word) : (fuel : Nat) → (level table : Nat) → State → State × Walked
  | 0, _, _, s => (s, .fail .translation Cause.malformed (vaDetail va 0))
  | n + 1, level, table, s =>
    let bad := Walked.fail .translation Cause.malformed (vaDetail va 0)
    if unbacked table then (s, bad)
    else
      let a := table + levelIndex va level * 16
      let (s1, b) := s.readHome 0 a
      match b with
      | none => (s1, .fail .uncorrectable 0 0)
      | some b =>
        let w0 := BitVec.ofNat 64 (Blk.fld b.data (a % 64 * 8) 64)
        let w1 := BitVec.ofNat 64 (Blk.fld b.data (a % 64 * 8 + 64) 64)
        if b.side.tag ≠ tagPlain then (s1, bad)
        else if !w0.getLsbD 0 then (s1, .fail .translation Cause.notValid (vaDetail va level))
        else if entryReserved w0 w1 then (s1, bad)
        else if !w0.getLsbD 1 then
          if level = 3 ∨ w0.toNat / 4 ≠ 0 ∨ w1.toNat / 2 ^ 48 ≠ s1.dev then (s1, bad)
          else
            let p : Leaf := ⟨ctx, level = 2, va.toNat / 2 ^ (52 - 12 * level), w0, w1⟩
            walkGo die ctx va n (level + 1) (w1.toNat % 2 ^ 46) (s1.modDie die fun d => d.addPtr p)
        else
          let l : Leaf := ⟨ctx, level = 2, va.toNat / 2 ^ (if level = 2 then 28 else 16), w0, w1⟩
          if level = 1 ∨ (level = 2 ∧ w1.toNat / 2 ^ 16 % 2 ^ 12 ≠ 0) then (s1, bad)
          else if 16383 < l.device then (s1, .fail .translation Cause.deviceRange (vaDetail va 0))
          else if l.mig then (s1, .mig l.big)
          else (s1, .leaf l)

/-- Translate up to the leaf (R19), from the deepest table pointer that the die holds. -/
def State.walk (s : State) (die ctx : Nat) (va : Word) : State × Walked :=
  if va.toNat / 2 ^ 52 ≠ 0 then (s, .fail .translation Cause.noncanonical (vaDetail va 0))
  else
    let ps := (s.die die).ptrs
    match ps.find? fun p => p.big && p.ctx == ctx && p.page == va.toNat / 2 ^ 28 with
    | some p => walkGo die ctx va 1 3 (p.w1.toNat % 2 ^ 46) s
    | none =>
      match ps.find? fun p => !p.big && p.ctx == ctx && p.page == va.toNat / 2 ^ 40 with
      | some p => walkGo die ctx va 2 2 (p.w1.toNat % 2 ^ 46) s
      | none =>
        let root := match s.ctx? ctx with | some c => c.root.toNat % 2 ^ 46 / 2 ^ 16 * 2 ^ 16 | none => 0
        walkGo die ctx va 3 1 root s

/-- Whether a walk has found a page of 256 MiB (R32). -/
def Walked.big : Walked → Bool
  | .leaf l => l.big
  | .mig b => b
  | .fail .. => false

/-- Walks that a die has in progress (R32). -/
def Die.walks (d : Die) : Nat := (d.misses.filter (·.walking)).length

/-- The policy of a sync object, a ring slot or a cell on a page: home-only, or uncached (R64). -/
def Leaf.objPol (l : Leaf) : Pol := if l.policy = 3 then .uncached else .homeOnly

-- CHECKS OF A LEAF

/-- Whether a context may use a key id (R22). -/
def State.mayUseKey (s : State) (ctx key : Nat) : Bool :=
  match s.ctx? ctx with
  | some c => key == c.key || (key == 0 && !c.conf)
  | none => false

/-- The permission check of R21. -/
def permCheck (l : Leaf) : Perm → Option (BitVec 8)
  | .load => if l.r then none else some Cause.read
  | .store => if l.w && !l.imm then none else some Cause.write
  | .sync => if !l.r then some Cause.read else if l.w && !l.imm then none else some Cause.write
  | .csusp => if !(l.w && !l.imm) then some Cause.write else if l.cells then none else some Cause.cells
  | .config => if l.cr then none else some Cause.configRead

/-- The checks that follow the walk, in the order of R19: UNBACKED on this device (R20), the key, the permission. -/
def State.leafCheck (s : State) (ctx : Nat) (l : Leaf) (va : Word) (p : Perm) : Option (Err × BitVec 8) :=
  if l.device = s.dev ∧ unbacked (paOf (l.addr va)) then some (.translation, Cause.unbacked)
  else if !s.mayUseKey ctx l.key then some (.permission, Cause.key)
  else (permCheck l p).map fun c => (.permission, c)

-- TLBS

/-- A leaf enters a tile TLB of 128 entries, the most recently used first (R30, R31). -/
def Tile.addLeaf (t : Tile) (l : Leaf) : Tile := { t with tlb := (l :: t.tlb.filter (· != l)).take Config.tileTlbEntries }

/-- A leaf enters its set of the die TLB (R30, R31). DESIGN CHOICE: a full set gives up the leaf used longest ago
(notes/assumptions/92.md). -/
def Die.addLeaf (d : Die) (l : Leaf) : Die :=
  let rest := d.tlb.filter (· != l)
  let set := rest.filter fun x => Config.tlbSet x.ctx x.page % Config.tlbSets == Config.tlbSet l.ctx l.page % Config.tlbSets
  let kept := if rest.length < Config.tlbWays then rest
    else if set.length < Config.tlbWays then rest
    else match set.getLast? with | some v => rest.filter (· != v) | none => rest
  { d with tlb := l :: kept }

/-- The leaf that a TLB holds for an address. -/
def tlbFind (tlb : List Leaf) (ctx : Nat) (va : Word) : Option Leaf := tlb.find? fun l => l.maps ctx va

/-- The launch engine's translation, or a unit's: through the die TLB, or by a walk (R32, R35). With every walker of the die
taken it waits, as for a page that migrates. -/
def State.translate (s : State) (die ctx : Nat) (va : Word) (p : Perm) : State × Walked :=
  let held := if va.toNat / 2 ^ 52 ≠ 0 then none else tlbFind (s.die die).tlb ctx va
  let (s1, w) : State × Walked := match held with
    | some l => (s, .leaf l)
    | none =>
      let (s1, w) := if Config.walkers ≤ (s.die die).walks ∧ va.toNat / 2 ^ 52 = 0 then (s, .mig false) else s.walk die ctx va
      (match w with | .leaf l => s1.modDie die fun d => d.addLeaf l | _ => s1, w)
  match w with
  | .leaf l =>
    match s1.leafCheck ctx l va p with
    | some (e, c) => (s1, .fail e c (vaDetail va 0))
    | none => (s1, w)
  | _ => (s1, w)

/-- Every entry that matches is dropped from every TLB and table-pointer cache (R33). -/
def State.dropLeaves (s : State) (m : Leaf → Bool) (ptr : Leaf → Bool) : State :=
  { s with
    tiles := s.tiles.map fun x => (x.1, { x.2 with tlb := x.2.tlb.filter fun l => !m l })
    dies := s.dies.map fun x => (x.1, { x.2 with
      tlb := x.2.tlb.filter fun l => !m l
      ptrs := x.2.ptrs.filter fun l => !ptr l }) }

end Sys2Proof.Machine
end

