-- ==== Sys2Proof/Machine/Budget.lean ====
section
/-! DEFINITION. The regulator: blocks moved, budgets, freezes and thaws (R385, R386, R446). -/

namespace Sys2Proof.Machine

/-- Whether a count passes a budget just now; a budget of 0 is unlimited (R385). -/
def passes (budget old new : Nat) : Bool := budget ≠ 0 && old ≤ budget && budget < new

/-- Blocks moved for a line's stations and bay (R385, kind 1). -/
def State.lineMoved (s : State) (l n : Nat) : State :=
  match s.line? l with
  | none => s
  | some x =>
    let s1 := s.modLine l fun y => { y with moved := y.moved + n }
    if passes x.byteBudget x.moved (x.moved + n) then s1.now (.budgetFreeze x.die 1 x.region) else s1

/-- A grant to a line (R384, R385). -/
def State.lineGrant (s : State) (l : Nat) : State :=
  match s.line? l with
  | none => s
  | some x =>
    let s1 := s.modLine l fun y => { y with issued := y.issued + 1 }
    if passes x.issueBudget x.issued (x.issued + 1) then s1.now (.budgetFreeze x.die 1 x.region) else s1

/-- Blocks moved for a context's evaluations on a die (R385, kind 3). -/
def State.evalMoved (s : State) (die ctx n : Nat) : State :=
  match s.ctx? ctx with
  | none => s
  | some c =>
    let x := Sparse.get c.evalMoved 0 die
    let s1 := s.modCtx ctx fun c => { c with evalMoved := Sparse.set c.evalMoved die (x + n) }
    if passes c.evalBytes x (x + n) then s1.now (.budgetFreeze die 3 ctx) else s1

/-- A grant to a pool slot (R385, kind 3). -/
def State.evalGrant (s : State) (die ctx : Nat) : State :=
  match s.ctx? ctx with
  | none => s
  | some c =>
    let x := Sparse.get c.evalIssued 0 die
    let s1 := s.modCtx ctx fun c => { c with evalIssued := Sparse.set c.evalIssued die (x + 1) }
    if passes c.evalIssue x (x + 1) then s1.now (.budgetFreeze die 3 ctx) else s1

/-- Blocks read or written by a context's jobs on a copy engine (R385, kind 2). -/
def State.copyMoved (s : State) (die engine ctx n : Nat) : State :=
  match s.ctx? ctx with
  | none => s
  | some c =>
    let k := 16 * die + engine
    let x := Sparse.get c.copyMoved 0 k
    let s1 := s.modCtx ctx fun c => { c with copyMoved := Sparse.set c.copyMoved k (x + n) }
    if passes c.copyBytes x (x + n) then s1.now (.budgetFreeze die 2 (engine + 16 * ctx)) else s1

/-- Blocks moved for the host window (R385, kind 4). -/
def State.hostMoved (s : State) (n : Nat) : State :=
  let x := s.mgmt.hostMoved
  let s1 := s.modMgmt fun m => { m with hostMoved := x + n }
  if passes s.mgmt.hostBudget.toNat x (x + n) then s1.now (.budgetFreeze 0 4 0) else s1

/-- Flits of a Drauk link direction (R385, kind 5). -/
def State.linkMoved (s : State) (d n : Nat) : State :=
  let x := Sparse.get s.mgmt.linkMoved 0 d
  let s1 := s.modMgmt fun m => { m with linkMoved := Sparse.set m.linkMoved d (x + n) }
  if passes (Sparse.get s.mgmt.linkBudget 0 d).toNat x (x + n) then s1.now (.budgetFreeze 0 5 d) else s1

/-- A Drauk port. -/
def State.port (s : State) (p : Nat) : Port := Sparse.get s.mgmt.ports Port.reset p
/-- The state with a port changed. -/
def State.modPort (s : State) (p : Nat) (f : Port → Port) : State :=
  s.modMgmt fun m => { m with ports := Sparse.set m.ports p (f (s.port p)) }

/-- The port of a device's route entry, when the entry is valid and the port is up (R429, R430). -/
def State.routePort (s : State) (dev : Nat) : Option Nat :=
  let e := (Sparse.get s.mgmt.routes 0 dev).toNat
  if e / 2 ^ 15 = 1 ∧ e % 32 < 18 ∧ (s.port (e % 32)).up then some (e % 32) else none

/-- Whether a port's replay buffer has room for a frame (R429). -/
def Port.room (q : Port) : Bool := decide (q.replay.length < Config.replayFrames)

/-- A frame leaves on a port: it is kept in the replay buffer until it is acknowledged, and its flit counts for the
direction, 2 × port (R385, R429). With the buffer full it waits for room. -/
def State.sendFrame (s : State) (p : Nat) (x : Blk) : State :=
  if (s.port p).room then
    (s.modPort p fun q => { q with replay := q.replay ++ [(q.sendSeq, x)], sendSeq := q.sendSeq + 1 }).linkMoved (2 * p) 1
  else s.modPort p fun q => { q with queue := q.queue ++ [x] }

/-- Frames that wait for room in a replay buffer leave in their order. -/
def State.sendQueued (s : State) (p : Nat) : (fuel : Nat) → State
  | 0 => s
  | n + 1 =>
    match (s.port p).queue with
    | x :: r => if (s.port p).room then State.sendQueued ((s.modPort p fun q => { q with queue := r }).sendFrame p x) p n else s
    | [] => s

/-- Whether a context's jobs run: it has not been frozen, torn down or taken off the device, and a pre-emption has not stopped
it (R370, R409). -/
def State.ctxRuns (s : State) (ctx : Nat) : Bool :=
  match s.ctx? ctx with
  | some c => c.status == 1 || (c.status == 2 && List.any s.lines fun l => l.2.ctx == ctx && l.2.running)
  | none => false

/-- The stream on an edge engine. -/
def State.edgeStream (s : State) (die n : Nat) : Option Stream :=
  match Sparse.find? (s.die die).edges n with
  | some e => e.stream
  | none => none

/-- The job that a copy engine runs. -/
def State.runningJob (s : State) (die n : Nat) : Option Job :=
  match Sparse.find? (s.die die).copiers n with
  | some c => c.jobs.find? fun j => j.status == 1
  | none => none

/-- Blocks moved for a party (R385): a station, a bay tile, an evaluation, an engine or the H-die. -/
def State.moved (s : State) (key n : Nat) : State :=
  if key < 32768 then s.lineMoved (s.actor key).line n
  else if key < 65536 ∨ 200000 ≤ key then s.evalMoved (dieOf (s.actor key).tile) (s.actor key).ctx n
  else if key < hostKey then
    let die := (key - 65536) / 48
    let e := (key - 65536) % 48
    if e < 32 then
      match s.edgeStream die e with
      | some t => s.lineMoved t.line n
      | none => s
    else
      match s.runningJob die (e - 32) with
      | some j => s.copyMoved die (e - 32) j.ctx n
      | none => s
  else if key = hostKey then s.hostMoved n
  else s

/-- A block moved by a write-back from a tile's L1: it counts for the unit that stored to it last, a station, a bay tile or an
evaluation of a context (R385; notes/assumptions/20.md). -/
def State.tileMoved (s : State) (tile owner ctx n : Nat) : State :=
  if owner < 16384 then s.lineMoved (owner / 64) n
  else if owner < 32768 then (match (s.tile tile).bay with | some k => s.lineMoved k n | none => s)
  else s.evalMoved (dieOf tile) ctx n

-- FREEZING

/-- The origin of a record that the regulator, the placer or the launch engine of a die raises (R399). -/
def launchOrigin (die : Nat) : Origin := ⟨7, die, 0, 0, 0, 0, 0, 0, 0, 0⟩

/-- DETAIL of E_BUDGET: kind in bits 7:0, index in bits 31:8, the budget exceeded above (R386,
notes/assumptions/20.md). -/
def budgetDetail (kind index budget : Nat) : Nat := kind + index * 2 ^ 8 + budget * 2 ^ 32

/-- The record of a freeze of kinds 1 to 3, in the context's ring. -/
def State.budgetTrap (s : State) (die ctx kind index budget : Nat) : State :=
  s.trap ctx (launchKey die) (record s.dev (launchOrigin die) .budget 0 (budgetDetail kind index budget))

/-- The management-log record of an event: kind, index and detail (notes/assumptions/21.md). -/
def logBlock (r : BitVec 256) : Blk := (r.setWidth 512 : BitVec 512) <<< 64

/-- The evaluations of a context on a die that run or are parked. -/
def State.runningEvals (s : State) (die ctx : Nat) : List Nat :=
  ((s.die die).recs.filter fun r => r.ctx == ctx && (match r.place with | .slot _ | .parked => true | _ => false)).map (·.evid)

/-- Which of two budgets has been exceeded. -/
def whichBudget (issue issued bytes : Nat) : Nat := if issue ≠ 0 ∧ issue < issued then issue else bytes

/-- BUDGET_FREEZE (R386). -/
def execBudgetFreeze (die : Nat) (kind : Fin 6) (index : Nat) (s : State) : Out :=
  .next (match kind.val with
    | 1 =>
      match s.line? (48 * die + index) with
      | some l =>
        if l.freezeNext ∨ l.frozen then s
        else (s.modLine (48 * die + index) fun l => { l with freezeNext := true }).budgetTrap die l.ctx 1 index
          (whichBudget l.issueBudget l.issued l.byteBudget)
      | none => s
    | 2 =>
      let c := index / 16
      match s.ctx? c with
      | some x =>
        if x.frozenCopy.contains (16 * die + index % 16) then s
        else (s.modCtx c fun x => { x with frozenCopy := x.frozenCopy ++ [16 * die + index % 16] }).budgetTrap die c 2
          (index % 16) x.copyBytes
      | none => s
    | 3 =>
      match s.ctx? index with
      | some x =>
        if x.frozenEval.contains die then s
        else
          let s1 := (s.modCtx index fun x => { x with frozenEval := x.frozenEval ++ [die] }).budgetTrap die index 3 0
            (whichBudget x.evalIssue (Sparse.get x.evalIssued 0 die) x.evalBytes)
          (s.runningEvals die index).foldl (fun s e => s.after 1 (.evaluationAbandon die e Cause.frozen)) s1
      | none => s
    | 4 =>
      if s.mgmt.hostFrozen then s
      else (s.modMgmt fun m => { m with hostFrozen := true }).logRec
        (logBlock (record s.dev (launchOrigin die) .budget 0 (budgetDetail 4 0 s.mgmt.hostBudget.toNat)))
    | 5 =>
      if s.mgmt.linkFrozen.contains index then s
      else (s.modMgmt fun m => { m with linkFrozen := m.linkFrozen ++ [index] }).logRec
        (logBlock (record s.dev (launchOrigin die) .budget 0
          (budgetDetail 5 index (Sparse.get s.mgmt.linkBudget 0 index).toNat)))
    | _ => s)

/-- A line thaws: its beat goes on where it stopped (R186, R386). -/
def State.thawLine (s : State) (l : Nat) : State :=
  match s.line? l with
  | none => s
  | some x =>
    if x.tearing then s
    else
      let n := if x.frozen then s.cycle - x.frozenAt else 0
      let s1 := s.modLine l fun y => { y with frozen := false, freezeNext := false, last := y.last + n }
      x.stns.foldl (fun s st => s.modActor (stationKey l st.1) fun a => { a with start := a.start + n }) s1

/-- A thaw of an activity of kinds 1 to 5 (R386); while the module is too hot everything stays frozen (R446). -/
def State.thaw (s : State) (kind index die ctx : Nat) : State :=
  if s.mgmt.hot then s
  else match kind with
  | 1 => s.thawLine (48 * die + index)
  | 2 =>
    (s.modCtx ctx fun c => { c with frozenCopy := c.frozenCopy.filter (· != 16 * die + index) }).now (.jobStart die index)
  | 3 => s.modCtx ctx fun c => { c with frozenEval := c.frozenEval.filter (· != die) }
  | 4 => s.modMgmt fun m => { m with hostFrozen := false }
  | 5 => s.modMgmt fun m => { m with linkFrozen := m.linkFrozen.filter (· != index) }
  | _ => s

/-- CTRL_THAW: command 1 on a context's control object; bad fields are ignored, and so is a line of another context
(R386). -/
def execCtrlThaw (ctx : Nat) (kind : BitVec 8) (index : Nat) (die : Fin 4) (s : State) : Out :=
  .next (match kind.toNat with
    | 1 =>
      match s.line? (48 * die.val + index) with
      | some l => if l.ctx = ctx ∧ index < 48 then s.thaw 1 index die.val ctx else s
      | none => s
    | 2 => if index < 16 then s.thaw 2 index die.val ctx else s
    | 3 => if index = 0 then s.thaw 3 0 die.val ctx else s
    | _ => s)

/-- Every activity of the module thaws (R446). -/
def State.thawAll (s : State) : State :=
  let s1 := s.modMgmt fun m => { m with hot := false, hostFrozen := false, linkFrozen := [] }
  let s2 := List.foldl (fun (s : State) (l : Nat × Line) => s.thawLine l.1) s1 s1.lines
  let s3 : State := { s2 with ctxs := s2.ctxs.map fun c => (c.1, { c.2 with frozenEval := [], frozenCopy := [] }) }
  List.foldl (fun (s : State) (d : Nat × Die) =>
    List.foldl (fun (s : State) (e : Nat × Copier) => s.now (.jobStart d.1 e.1)) s d.2.copiers) s3 s3.dies

/-- A thaw by management (R386), or of the whole module once it has cooled (kind 0, R446). -/
def execManagementThaw (kind : BitVec 8) (index : Nat) (die : Fin 4) (ctx : Nat) (s : State) : Out :=
  .next (if kind = 0 then s.thawAll else s.thaw kind.toNat index die.val ctx)

/-- REGULATOR_PERIOD: every count of the die starts again (R385). -/
def execRegulatorPeriod (die : Nat) (s : State) : Out :=
  .next { s with
    lines := s.lines.map fun l => if l.2.die = die then (l.1, { l.2 with issued := 0, moved := 0 }) else l
    ctxs := s.ctxs.map fun c => (c.1, { c.2 with
      evalIssued := Sparse.del c.2.evalIssued die
      evalMoved := Sparse.del c.2.evalMoved die
      copyMoved := c.2.copyMoved.filter fun x => x.1 / 16 != die })
    mgmt := if die = 0 then { s.mgmt with hostMoved := 0, linkMoved := [] } else s.mgmt }

/-- THERMAL_FREEZE: a C-die at 105 °C freezes every activity of the module, each as R386 freezes its kind (R446). -/
def execThermalFreeze (die : Nat) (s : State) : Out :=
  let s1 : State := { s with
    mgmt := { s.mgmt with hot := true, hostFrozen := true, linkFrozen := List.range 36 }
    lines := s.lines.map fun l => (l.1, { l.2 with freezeNext := !l.2.frozen })
    ctxs := s.ctxs.map fun c => (c.1, { c.2 with frozenEval := List.range 4, frozenCopy := List.range 64 }) }
  let s2 := List.foldl (fun (s : State) (d : Nat × Die) =>
    (d.2.recs.filter fun r => match r.place with | .slot _ | .parked => true | _ => false).foldl
      (fun s r => s.after 1 (.evaluationAbandon d.1 r.evid Cause.frozen)) s) s1 s1.dies
  .next (s2.logRec (logBlock (record s.dev (launchOrigin die) .budget 0 (budgetDetail 0 die 105))))

end Sys2Proof.Machine
end

