-- ==== Sys2Proof/Machine/Cache.lean ====
section
/-! DEFINITION. The L1 of a tile, the remote-data cache of a die, their write-backs, the actions at acquire, release and
fence, and what happens to stored blocks by themselves (R25 to R29, R55 to R69). -/

namespace Sys2Proof.Machine

/-- The key of a cache line: the global fabric address of the block with the key id (R56, R65). -/
def lineKey (key ga : Nat) : Nat := ga / 64 + 2 ^ 56 * key
/-- The global fabric address of a line. -/
def lineAddr (k : Nat) : Nat := k % 2 ^ 56 * 64
/-- The key id of a line. -/
def lineKeyId (k : Nat) : Nat := k / 2 ^ 56

/-- Whether an address is homed on a die of this device. -/
def State.localTo (s : State) (die ga : Nat) : Bool := devOf ga == s.dev && homeDie (paOf ga) == die

/-- A fresh line, nothing present. -/
def CLine.fresh (key ctx : Nat) (imm : Bool) : CLine := ⟨0, 0, 0, Pair.raw, false, key, ctx, imm, 0⟩

/-- The line after bytes have been written into it. -/
def CLine.write (l : CLine) (x : Blk) (mask : BitVec 64) (pair : Option Pair) : CLine :=
  { l with
    data := mergeBytes l.data x mask
    have_ := l.have_ ||| mask
    dirty := l.dirty ||| mask
    pair := match pair with | some p => p | none => l.pair
    pairDirty := l.pairDirty || pair.isSome }

/-- The line after a fill: dirty bytes are kept (R57). -/
def CLine.fill (l : CLine) (x : Blk) (pair : Pair) : CLine :=
  { l with
    data := mergeBytes x l.data l.dirty
    have_ := BitVec.allOnes 64
    pair := if l.pairDirty then l.pair else pair }

/-- The line after a store to its block has been performed at its home: bytes that are dirty here come after it (R152). -/
def CLine.refresh (l : CLine) (x : Blk) (mask : BitVec 64) (pair : Option Pair) : CLine :=
  { l with
    data := mergeBytes l.data x (mask &&& ~~~l.dirty)
    have_ := l.have_ ||| mask
    pair := if l.pairDirty then l.pair else pair.getD l.pair }

/-- Whether every byte of the line is present. -/
def CLine.full (l : CLine) : Bool := l.have_ = BitVec.allOnes 64

/-- The line with nothing dirty. -/
def CLine.clean (l : CLine) : CLine := { l with dirty := 0, pairDirty := false }

/-- Whether the line has something to write back. -/
def CLine.isDirty (l : CLine) : Bool := l.dirty ≠ 0 || l.pairDirty

-- SETS AND WAYS (R56, R65)

/-- The L1 line that makes room for a line: none while its set, chosen by bits 13:6 of the block's address, has a way free. -/
def l1Victim (cycle : Nat) (t : Tile) (k : Nat) : Option Nat :=
  let set := t.l1.filter fun x => x.1 % Config.l1Sets == k % Config.l1Sets
  if (Sparse.find? t.l1 k).isSome ∨ set.length < Config.l1Ways then none
  else (set[Config.victim cycle k % set.length]?).map (·.1)

/-- The RDC line that makes room for a line: none while its set has a way free. -/
def rdcVictim (cycle : Nat) (d : Die) (k : Nat) : Option Nat :=
  if (Sparse.find? d.rdc k).isSome ∨ d.rdc.length < Config.rdcWays then none
  else
    let set := d.rdc.filter fun x => Config.rdcSet x.1 % Config.rdcSets == Config.rdcSet k % Config.rdcSets
    if set.length < Config.rdcWays then none else (set[Config.victim cycle k % set.length]?).map (·.1)

-- WRITES AT HOME

/-- A write of bytes at the block's home under a policy, by its tag: PLAIN merges; POISONED becomes PLAIN under a
whole-block write and stays POISONED under a smaller one; any other tag refuses (R102); a block that cannot be read is not
written (R28, R101). `pair`: the sidecar's new format and scale. -/
def State.homeWrite (s : State) (pol : Pol) (key pa : Nat) (x : Blk) (mask : BitVec 64) (pair : Option Pair) :
    State × Option (Err × BitVec 8) :=
  let setPair (y : Side) : Side := match pair with | some p => { y with fmt := p.fmt, scale := p.scale } | none => y
  match s.readAt pol key pa with
  | (s1, none) => (s1, some (.uncorrectable, 0))
  | (s1, some b) =>
    if b.side.tag = tagPlain then (s1.putAt pol key pa ⟨mergeBytes b.data x mask, setPair b.side⟩, none)
    else if b.side.tag = tagPoisoned then
      if mask = BitVec.allOnes 64 then (s1.putAt pol key pa ⟨x, { setPair b.side with tag := tagPlain }⟩, none)
      else (s1.putAt pol key pa ⟨mergeBytes b.data x mask, b.side⟩, none)
    else (s1, some (.permission, Cause.cellTag))

/-- A write-back performed at home; a block that is no longer PLAIN or POISONED keeps its bytes. One for another device
leaves as a frame by its route (R66, R429). DESIGN CHOICE: where no route to that device is up its bytes are lost, without a
record (notes/assumptions/111.md). -/
def State.wbHome (s : State) (ga : Nat) (l : CLine) : State :=
  if devOf ga = s.dev then
    (s.homeWrite .cached l.key (paOf ga) l.data l.dirty (if l.pairDirty then some l.pair else none)).1
  else
    match s.routePort (devOf ga) with
    | some p => s.sendFrame p l.data
    | none => s

/-- A write-back from a die's RDC to the home (R66). -/
def State.wbRdc (s : State) (die k : Nat) : State :=
  match Sparse.find? (s.die die).rdc k with
  | none => s
  | some l =>
    if l.isDirty then
      (s.wbHome (lineAddr k) l).modDie die fun d => { d with rdc := Sparse.set d.rdc k l.clean }
    else s

/-- An RDC line is written back when it is dirty, and dropped. -/
def State.dropRdc (s : State) (die k : Nat) : State :=
  (s.wbRdc die k).modDie die fun d => { d with rdc := Sparse.del d.rdc k }

/-- A line enters a die's RDC, or replaces the line there; a full set gives one up (R65, R66). -/
def State.setRdc (s : State) (die k : Nat) (l : CLine) : State :=
  (match rdcVictim s.cycle (s.die die) k with | some v => s.dropRdc die v | none => s).modDie die fun d =>
    { d with rdc := Sparse.set d.rdc k l }

/-- A write-back from an L1: to the home of this die, or to the die's RDC (R57). -/
def State.wbL1 (s : State) (tile k : Nat) : State :=
  match Sparse.find? (s.tile tile).l1 k with
  | none => s
  | some l =>
    if !l.isDirty then s
    else
      let ga := lineAddr k
      let die := dieOf tile
      let s1 := (s.modTile tile fun t => { t with l1 := Sparse.set t.l1 k l.clean }).tileMoved tile l.owner l.ctx 1
      if s.localTo die ga then s1.wbHome ga l
      else
        let r := match Sparse.find? (s1.die die).rdc k with | some r => r | none => CLine.fresh l.key l.ctx l.imm
        s1.setRdc die k (r.write l.data l.dirty (if l.pairDirty then some l.pair else none))

/-- An L1 line is written back when it is dirty, and dropped. -/
def State.dropL1 (s : State) (tile k : Nat) : State :=
  (s.wbL1 tile k).modTile tile fun t => { t with l1 := Sparse.del t.l1 k }

/-- A line enters a tile's L1, or replaces the line there; a full set gives one up (R56, R57). -/
def State.setL1 (s : State) (tile k : Nat) (l : CLine) : State :=
  (match l1Victim s.cycle (s.tile tile) k with | some v => s.dropL1 tile v | none => s).modTile tile fun t =>
    { t with l1 := Sparse.set t.l1 k l }

-- THE ACTIONS OF R68

/-- The keys of the L1 lines that satisfy a test. -/
def l1Keys (t : Tile) (p : Nat → CLine → Bool) : List Nat := (t.l1.filter fun x => p x.1 x.2).map (·.1)
/-- The keys of the RDC lines that satisfy a test. -/
def rdcKeys (d : Die) (p : Nat → CLine → Bool) : List Nat := (d.rdc.filter fun x => p x.1 x.2).map (·.1)

/-- Every L1 line that satisfies a test is written back. -/
def State.cleanL1 (s : State) (tile : Nat) (p : Nat → CLine → Bool) : State :=
  (l1Keys (s.tile tile) p).foldl (fun s k => s.wbL1 tile k) s
/-- Every RDC line that satisfies a test is written back. -/
def State.cleanRdc (s : State) (die : Nat) (p : Nat → CLine → Bool) : State :=
  (rdcKeys (s.die die) p).foldl (fun s k => s.wbRdc die k) s
/-- Every L1 line that satisfies a test and is not immutable is written back and invalidated. -/
def State.invL1 (s : State) (tile : Nat) (p : Nat → CLine → Bool) : State :=
  (l1Keys (s.tile tile) fun k l => p k l && !l.imm).foldl (fun s k => s.dropL1 tile k) s
/-- Every RDC line that satisfies a test and is not immutable is written back and invalidated. -/
def State.invRdc (s : State) (die : Nat) (p : Nat → CLine → Bool) : State :=
  (rdcKeys (s.die die) fun k l => p k l && !l.imm).foldl (fun s k => s.dropRdc die k) s

/-- The release side of FENCE at a scope, for a party on a tile. -/
def State.fenceRel (s : State) (tile ctx : Nat) (sc : Nat) : State :=
  if sc = 0 then s
  else
    let s1 := s.cleanL1 tile fun _ l => l.ctx == ctx
    if 4 ≤ sc then s1.cleanRdc (dieOf tile) fun _ l => l.ctx == ctx else s1

/-- The acquire side of FENCE at a scope, for a party on a tile. DESIGN CHOICE: a line of a page that contexts share under key
id 0 belongs to the context that filled it (notes/assumptions/112.md). -/
def State.fenceAcq (s : State) (tile ctx : Nat) (sc : Nat) : State :=
  if sc = 0 then s
  else
    let s1 := s.invL1 tile fun _ l => l.ctx == ctx
    if 4 ≤ sc then s1.invRdc (dieOf tile) fun _ l => l.ctx == ctx else s1

/-- Whether a block lies in a bound region, through the context's page table (R68). DESIGN CHOICE: a page of the region that
migrates covers no line (notes/assumptions/113.md). -/
def State.inRegion (s : State) (die ctx : Nat) (b : Bind) (ga : Nat) : Bool :=
  let p0 := b.base.toNat / 2 ^ 16
  (List.range ((b.base.toNat + b.len - 1) / 2 ^ 16 + 1 - p0)).any fun i =>
    let va := (p0 + i) * 2 ^ 16 + ga % 2 ^ 16
    decide (b.base.toNat ≤ va) && decide (va < b.base.toNat + b.len) &&
    (match (s.walk die ctx (BitVec.ofNat 64 va)).2 with
      | .leaf l => l.addr (BitVec.ofNat 64 va) / 64 == ga / 64
      | _ => false)

/-- The regions bound to an object in a context's binding table (R131). -/
def State.bindsOf (s : State) (ctx : Nat) (obj : Word) : List Bind :=
  match s.ctx? ctx with
  | some c => (c.binds.map (·.2)).filter fun x => x.obj == obj
  | none => []

/-- Whether a block lies in one of some bound regions. -/
def State.bound (s : State) (die ctx : Nat) (bs : List Bind) (ga : Nat) : Bool := bs.any fun x => s.inRegion die ctx x ga

/-- The release-side actions of REL on an object's regions (R68). -/
def State.objRel (s : State) (tile ctx : Nat) (bs : List Bind) : State :=
  let s1 := s.cleanL1 tile fun k _ => s.bound (dieOf tile) ctx bs (lineAddr k)
  s1.cleanRdc (dieOf tile) fun k _ => s.bound (dieOf tile) ctx bs (lineAddr k)

/-- The acquire-side actions of ACQ on an object's regions (R68). -/
def State.objAcq (s : State) (tile ctx : Nat) (bs : List Bind) : State :=
  let s1 := s.invL1 tile fun k _ => s.bound (dieOf tile) ctx bs (lineAddr k)
  s1.invRdc (dieOf tile) fun k _ => s.bound (dieOf tile) ctx bs (lineAddr k)

/-- A tile's L1 is written back and invalidated, immutable lines included: it passes to another context (R58). -/
def State.flushL1 (s : State) (tile : Nat) : State :=
  (l1Keys (s.tile tile) fun _ _ => true).foldl (fun s k => s.dropL1 tile k) s

/-- Atomics, sync and cell operations write back and invalidate the block in the tile's L1 first (R58). -/
def State.leaveL1 (s : State) (tile key ga : Nat) : State := s.dropL1 tile (lineKey key ga)

/-- The lines of a context's accesses, or of a key id, in any L1, and then every line of the RDCs, whoever filled it, are written
back: what was stored through the leaves that an invalidation drops has then been performed at its home (R33, R57). -/
def State.cleanAll (s : State) (p : CLine → Bool) : State :=
  let s1 := (s.tiles.map (·.1)).foldl (fun s t => s.cleanL1 t fun _ l => p l) s
  (s1.dies.map (·.1)).foldl (fun s d => s.cleanRdc d fun _ _ => true) s1

-- INVALIDATION (R33)

/-- Whether an access has been performed: it is neither on its way to its home nor waits there (R127). -/
def Access.performed (a : Access) : Bool := !(decide (a.stage = .sent) || decide (a.stage = .waiting))

/-- For each port that has frames outstanding, the frames that it has acknowledged when those are. -/
def State.framesOut (s : State) : List (Nat × Nat) :=
  List.filterMap (fun (p : Nat × Port) =>
    let n := p.2.replay.length + p.2.queue.length
    if n = 0 then none else some (p.1, p.2.acked + n)) s.mgmt.ports

/-- Leaves, table pointers and immutable lines that match are dropped; what was stored through a dropped leaf and stands in a cache
(`stored`) is performed at its home, and what has not been performed is remembered: accesses, and the frames that carry write-backs to
other devices (R33). -/
def State.invalidate (s : State) (leaf ptr : Leaf → Bool) (line stored : CLine → Bool) : State :=
  let on := (s.accs.filter fun a => !a.performed && (match a.leaf with | some l => leaf l | none => false)).map (·.id)
  let s1 := (s.cleanAll stored).dropLeaves leaf ptr
  { s1 with
    tiles := List.map (fun (t : Nat × Tile) => (t.1, { t.2 with l1 := List.filter (fun x => !(line x.2 && x.2.imm)) t.2.l1 })) s1.tiles
    dies := List.map (fun (d : Nat × Die) => (d.1, { d.2 with rdc := List.filter (fun x => !(line x.2 && x.2.imm)) d.2.rdc })) s1.dies
    mgmt := { s1.mgmt with invAccs := s1.mgmt.invAccs ++ on, invFrames := s1.mgmt.invFrames ++ s1.framesOut } }

-- WHAT BLOCKS MEET BY THEMSELVES

/-- DIRTY_WRITEBACK: a dirty L1 line may be written back at any time (R57). -/
def execDirtyWriteback (tile block : Nat) (s : State) : Out := .next (s.wbL1 tile block)

/-- RDC_WRITEBACK (R66). -/
def execRdcWriteback (die block : Nat) (s : State) : Out := .next (s.wbRdc die block)

/-- CACHE_LINE_EVICTION (R56, R57, R66). -/
def execCacheLineEviction (rdc : Bool) (owner block : Nat) (s : State) : Out :=
  .next (if rdc then s.dropRdc owner block else s.dropL1 owner block)

/-- STORED_BYTE_ERROR: one of the 72 stored bytes of a block in memory is changed (R26); a byte number of 128 or more names
a byte of the block's line in the L2 array, where an error may be one that cannot be corrected (R61,
notes/assumptions/16.md). -/
def execStoredByteError (block byte : Nat) (v : BitVec 8) (s : State) : Out :=
  let es := Sparse.get s.errs [] block
  let old := match es.find? fun x => x.1 == byte with | some x => x.2 | none => 0
  let es' := (if old ^^^ v = 0 then [] else [(byte, old ^^^ v)]) ++ es.filter fun x => x.1 != byte
  .next (if byte < 72 then
      { s with errs := if es' = [] then Sparse.del s.errs block else Sparse.set s.errs block es' }
    else if 128 ≤ byte then
      match Sparse.find? s.l2 block with
      | some l => { s.drew with l2 := Sparse.set s.l2 block { l with bad := l.bad || (v != 0 && Config.freeBool s.fresh) } }
      | none => s
    else s)

/-- BACKGROUND_CORRECTION: an ordinary read of a block in memory, which one that the L2 serves does not need (R26, R28). -/
def execBackgroundCorrection (block : Nat) (s : State) : Out :=
  .next (if (Sparse.find? s.l2 block).isSome then s else (s.readAt .uncached 0 (block * 64)).1)

/-- The entries of a map whose key lies outside a range. -/
def outside {α : Type} (m : Sparse α) (lo hi : Nat) : Sparse α := m.filter fun x => x.1 < lo || hi ≤ x.1

/-- FRAME_SCRUB: every block of a frame is zero, format 0x00, scale 127, PLAIN (R29). DESIGN CHOICE: the zeros read as zero
under every key id, whichever the event names: a block that has not been written since has no key of its own
(notes/assumptions/93.md). -/
def execFrameScrub (frame _key : Nat) (s : State) : Out :=
  let lo := frame * 2 ^ 16
  .next { s with
    mem := s.mem.filter fun x => x.1 < lo || lo + 2 ^ 16 ≤ x.1
    sides := outside s.sides (lo / 64) (lo / 64 + 1024)
    keyed := outside s.keyed (lo / 64) (lo / 64 + 1024)
    errs := outside s.errs (lo / 64) (lo / 64 + 1024)
    l2 := outside s.l2 (lo / 64) (lo / 64 + 1024) }

/-- What a tile holds after it has been scrubbed for a context: scratchpad and matrix registers zero (R55, R312, R329). -/
def Tile.scrubbed (t : Tile) : Tile := { t with sp := [], m := [], a := [], pv := [], fs := 0 }

/-- SCRATCHPAD_SCRUB (R55). -/
def execScratchpadScrub (tile : Nat) (s : State) : Out := .next (s.modTile tile fun t => { t with sp := [] })

end Sys2Proof.Machine
end

