-- ==== Sys2Proof/Machine/Access.lean ====
section
/-! DEFINITION. The memory interface of a station, a bay tile or an evaluation: firing, wave order, the order of R136,
translation of an access, what the caches serve, the answer; and the events of the page walkers (R32, R35, R135, R136,
R262 to R267, R344). -/

namespace Sys2Proof.Machine

-- WHAT AN ACCESS IS

/-- What an access writes on its station. -/
inductive AccDst where
  | none | g (d : Fin 16) | v (d : Fin 16) | p (n : Fin 8) | vp (d : Fin 16) (n : Fin 8) | cb (n : Fin 16)
  deriving DecidableEq, Repr

/-- The destination of each instruction that is an access. -/
def accDst : Instr → AccDst
  | .ld _ _ _ d _ _ => .g d
  | .ldb _ _ d _ _ => .v d
  | .afadd _ _ _ d _ _ _ | .acas _ _ _ _ d _ _ _ | .aswap _ _ _ d _ _ _ | .amin _ _ _ _ d _ _ _
  | .amax _ _ _ _ d _ _ _ | .aand _ _ _ d _ _ _ | .aor _ _ _ d _ _ _ => .g d
  | .bind d _ _ _ => .g d
  | .acqLockWait _ d _ _ _ | .acqLockTry _ d _ _ _ | .acqFlagWait _ _ d _ _ _ | .acqFlagAny _ d _ _ _ => .g d
  | .barr _ d _ _ _ | .barrNowait _ d _ _ _ | .sdec _ d _ _ _ | .sinc _ d _ _ _ => .g d
  | .rpush _ _ n _ _ _ => .p n
  | .rpop _ _ n d _ _ => .vp d n
  | .ctag d _ _ => .g d
  | .sspec d _ | .sbarWait d _ | .sbarCommit d _ _ | .sbarFlush d _ | .sbarStop d _ | .sbarQuery d _ => .g d
  | .jcopy d _ _ | .jgath d _ _ | .jscat d _ _ | .jcoll d _ _ | .prom d _ | .waitbJob d _ => .g d
  | .hist d _ _ _ | .histRd d _ _ | .hoffer d _ _ _ | .hdump d _ _ _ | .hdumpClr d _ _ _ | .hdumpInit d _ _ _ => .g d
  | .cfg d _ _ | .watch d _ _ _ _ _ => .g d
  | .ldcb n _ | .ldcbV n _ _ => .cb n
  | _ => .none

/-- The targets that an access leaves pending until its answer (R234, R285). -/
def accTargets (op : Instr) (bank : Nat) : List Res :=
  match accDst op with
  | .none => []
  | .g d => [.g bank d.val]
  | .v d => [.v bank d.val]
  | .p n => [.p bank n.val]
  | .vp d n => [.v bank d.val, .p bank n.val]
  | .cb n => [.cb n.val]

/-- The acquire orders (R140). -/
def ordAcq : Ord4 → Bool | .acquire | .acqRel => true | _ => false
/-- The release orders (R140). -/
def ordRel : Ord4 → Bool | .release | .acqRel => true | _ => false
/-- Whether a load or store is ordered (R267). -/
def offOrd : Off → Bool | .ordered _ => true | _ => false
/-- The scope of an ordered load or store. -/
def offScope : Off → Nat | .ordered s => s.val | .plain _ => 0

/-- An acquire, or one that may turn out to be one (R136, R140). -/
def isAcquire : Instr → Bool
  | .ld _ o _ _ _ _ | .ldb o _ _ _ _ => offOrd o
  | .afadd _ _ o _ _ _ _ | .aswap _ _ o _ _ _ _ | .amin _ _ o _ _ _ _ _ | .amax _ _ o _ _ _ _ _
  | .aand _ _ o _ _ _ _ | .aor _ _ o _ _ _ _ => ordAcq o
  | .acas _ _ o f _ _ _ _ => ordAcq o || f
  | .acqLockWait .. | .acqLockTry .. | .acqFlagWait .. | .acqFlagAny .. | .fenceAcq .. | .fenceAr .. | .barr .. | .rpop .. => true
  | _ => false

/-- A release (R136). -/
def isRelease : Instr → Bool
  | .st _ o _ _ _ _ | .stb o _ _ _ _ => offOrd o
  | .afadd _ _ o _ _ _ _ | .aswap _ _ o _ _ _ _ | .amin _ _ o _ _ _ _ _ | .amax _ _ o _ _ _ _ _
  | .aand _ _ o _ _ _ _ | .aor _ _ o _ _ _ _ | .acas _ _ o _ _ _ _ _ => ordRel o
  | .relLock .. | .relSet .. | .relAdd .. | .fenceRel .. | .fenceAr .. | .barr .. | .barrNowait .. | .sdec .. | .sinc ..
  | .rpush .. | .cres .. | .cresSp .. => true
  | _ => false

/-- BIND, UNBIND and the ordering points of R344: ordered against every other access. -/
def isBarrier : Instr → Bool
  | .bind .. | .unbind .. | .unbindObj .. | .sspec .. | .sbarWait .. | .sbarCommit .. | .sbarFlush .. | .sbarStop ..
  | .sbarQuery .. | .prom .. | .waitbJob .. | .cfg .. | .ldcb .. | .ldcbV .. => true
  | _ => false

/-- A value read of R102 that a station makes. -/
def isValueRead : Instr → Bool
  | .ld .. | .ldb .. | .ldcb .. => true
  | _ => false

/-- Whether the instruction reaches a block through translation at its address; otherwise it acts on tables, engines or
the caches alone. -/
def isMemory : Instr → Bool
  | .bind .. | .unbind .. | .unbindObj .. | .fenceRel .. | .fenceAcq .. | .fenceAr .. | .sbarWait .. | .sbarCommit ..
  | .sbarFlush .. | .sbarStop .. | .sbarQuery .. | .jcopy .. | .jgath .. | .jscat .. | .jcoll .. | .prom .. | .waitbJob ..
  | .sspec .. | .hist .. | .histRd .. | .hoffer .. | .hdump .. | .hdumpClr .. | .hdumpInit .. | .cfg .. | .ldcbV .. => false
  | _ => true

/-- What the leaf must permit (R21). -/
def permOf : Instr → Perm
  | .ld .. | .ldb .. | .pref .. | .ldcb .. | .ctag .. => .load
  | .st .. | .stb .. | .afadd .. | .acas .. | .aswap .. | .amin .. | .amax .. | .aand .. | .aor .. | .cres .. | .cresSp ..
  | .cpois .. => .store
  | .csusp .. => .csusp
  | _ => .sync

-- ACCESSES

/-- An access by its id. -/
def State.acc? (s : State) (id : Nat) : Option Access := s.accs.find? fun a => a.id == id
/-- The state with an access changed. -/
def State.modAcc (s : State) (id : Nat) (f : Access → Access) : State :=
  { s with accs := s.accs.map fun a => if a.id = id then f a else a }
/-- The state without an access. -/
def State.delAcc (s : State) (id : Nat) : State := { s with accs := s.accs.filter fun a => a.id != id }
/-- The access joins the waiters at its object or cell: it goes behind those that have joined (R115, R270). -/
def State.joinWait (s : State) (id : Nat) : State :=
  { s with accs := s.accs.filter (fun a => a.id != id) ++
      (s.accs.filter (fun a => a.id == id)).map fun a => { a with stage := .waiting, heldAt := 0, holds := false } }

/-- A request that its home cannot perform yet is held there, and tried again before what arrives later (R60). Where the
operation itself waits, what comes to its block later stands behind it (`holds`, R35). -/
def State.holdHome (s : State) (a : Access) (holds : Bool) : State :=
  (s.modAcc a.id fun x => { x with heldAt := if x.heldAt = 0 then s.cycle else x.heldAt, holds := holds }).after 1 (.homeAccess a.id)

/-- No answer. -/
def Answer.none : Answer := ⟨.none, .none, .none, .none⟩
/-- A word for D, with pair INT64. -/
def ansG (x : Word) : Answer := ⟨some ⟨x, Pair.int64⟩, .none, .none, .none⟩

/-- The answer that a failing access gives: its register receives the token, its predicate is 0, a PREF is dropped
(R37, R264, R267, R280). -/
def failAns (op : Instr) (t : Tok) : Answer :=
  match op with
  | .pref .. => Answer.none
  | _ =>
    match accDst op with
    | .g _ => ⟨some t.greg, .none, .none, some t⟩
    | .v _ => ⟨.none, some t.vreg, .none, some t⟩
    | .p _ => ⟨.none, .none, some false, some t⟩
    | .vp _ _ => ⟨.none, some t.vreg, some false, some t⟩
    | _ => ⟨.none, .none, .none, some t⟩

/-- The writes of an answer. -/
def answerWrites (op : Instr) (bank : Nat) (a : Answer) : List Wr :=
  match accDst op with
  | .g d => match a.g with | some x => [.g bank d.val x] | .none => []
  | .v d => match a.v with | some x => [.v bank d.val x] | .none => []
  | .p n => match a.p with | some b => [.p bank n.val b] | .none => []
  | .vp d n =>
    (match a.v with | some x => [.v bank d.val x] | .none => []) ++
    (match a.p with | some b => [.p bank n.val b] | .none => [])
  | _ => []

/-- The operation has been performed and its answer is on its way back (R285). An acquire takes with it the regions that
are bound to its object now (R68). -/
def State.answer (s : State) (id : Nat) (a : Answer) : State :=
  (s.modAcc id fun x => { x with
    stage := .answering, ans := a, binds := if isAcquire x.op then s.bindsOf x.ctx x.va else [] }).later (.answerDelivery id)

/-- The origin fields of an engine (R399): its engine number stands in TILE, the line of its stream or job in REGION. -/
def State.engineOrigin (s : State) (key : Nat) : Origin :=
  let die := (key - 65536) / 48
  let n := (key - 65536) % 48
  let l : Option Nat := if n < 32 then (s.edgeStream die n).map (·.line) else (s.runningJob die (n - 32)).bind (·.line)
  { okind := if n < 32 then 3 else 4
    die := die
    tile := if n < 32 then n else n - 32
    config := 0
    region := match l with | some l => l % 48 | none => 0
    stn := 0
    slot := 0
    cver := match l.bind s.line? with | some l => l.cver.toNat | none => 0
    seq := 0
    wid := 0 }

/-- The record of an error met by an access. -/
def State.accRecord (s : State) (a : Access) (e : Err) (cause : BitVec 8) (detail : Nat) : BitVec 256 :=
  record s.dev a.org e cause detail

/-- The access ends with an error (R37). -/
def State.failAcc (s : State) (a : Access) (e : Err) (cause : BitVec 8) (detail : Nat) : State :=
  s.answer a.id (failAns a.op ⟨s.accRecord a e cause detail, true⟩)

/-- A permission refusal at home: its detail is the virtual address (R399). -/
def State.refuse (s : State) (a : Access) (cause : BitVec 8) : State :=
  s.failAcc a .permission cause (vaDetail a.va 0)

/-- The tile of an access. -/
def Access.tile (a : Access) : Nat := a.fire.tile
/-- Whether the party has a tile, with its L1 and its TLB: engines and the H-die have none (R142, R148). -/
def Access.hasL1 (a : Access) : Bool := a.actor < 65536 || 200000 ≤ a.actor
/-- The die of an access: that of its tile or engine. -/
def Access.die (a : Access) : Nat :=
  if a.hasL1 then dieOf a.tile else if a.actor < hostKey then (a.actor - 65536) / 48
  else if launchKey 0 ≤ a.actor then a.actor - launchKey 0 else 0
/-- The line of the party's L1 with a key. -/
def State.l1Of (s : State) (a : Access) (k : Nat) : Option CLine :=
  if a.hasL1 then Sparse.find? (s.tile a.tile).l1 k else none
/-- A leaf enters the party's own TLB (R30). -/
def State.keepLeaf (s : State) (a : Access) (l : Leaf) : State :=
  if a.hasL1 then s.modTile a.tile fun t => t.addLeaf l else s
/-- The key id of an access's leaf. -/
def Access.key (a : Access) : Nat := match a.leaf with | some l => l.key | none => 0
/-- Whether its leaf is TYPED. -/
def Access.typed (a : Access) : Bool := match a.leaf with | some l => l.typed | none => false
/-- Whether its leaf is immutable. -/
def Access.imm (a : Access) : Bool := match a.leaf with | some l => l.imm | none => false

/-- The code of a policy (R63). -/
def Pol.code : Pol → Nat | .cached => 0 | .streaming => 1 | .homeOnly => 2 | .uncached => 3

/-- The cache-policy variant of an instruction; .c where it has none (R63). -/
def polOf : Instr → Pol
  | .ld _ _ p _ _ _ | .st _ _ p _ _ _ | .ldb _ p _ _ _ | .stb _ p _ _ _ | .stbObj _ p _ _ _ | .stbUnobj _ p _ _ | .pref _ p _ _ => p
  | _ => .cached

/-- The policy of a code (R63). -/
def polCode (x : Nat) : Pol := match x with | 0 => .cached | 1 => .streaming | 2 => .homeOnly | _ => .uncached

/-- The stricter of an instruction's variant and a leaf's POLICY (R63). -/
def stricter (v : Pol) (policy : Nat) : Pol := polCode (Nat.max v.code policy)

/-- The effective policy of an access (R63). Atomics, sync-object and cell operations have home-only behaviour unless it is
uncached (R64). -/
def Access.pol (a : Access) : Pol :=
  let p := stricter (polOf a.op) (match a.leaf with | some l => l.policy | none => 0)
  match a.op with
  | .ld .. | .st .. | .ldb .. | .stb .. | .pref .. | .ldcb .. => p
  | _ => if p = .uncached then .uncached else .homeOnly
/-- The effective policy is cached (R63). -/
def Access.cached (a : Access) : Bool := a.pol == .cached

/-- The place of an access's requester (R32, R60). -/
def requesterRank (a : Access) : Nat := partyRank a.actor a.fire.tile
/-- A copy engine makes the access (R349). -/
def Access.byCopier (a : Access) : Bool := decide (65536 ≤ a.actor) && decide (a.actor < hostKey) && decide (32 ≤ (a.actor - 65536) % 48)

/-- The size of a load or store in bytes (R262). -/
def accSize : Instr → Nat
  | .ld ty _ _ _ _ _ | .st ty _ _ _ _ _ => ty.bytes
  | .ldcb .. => 32
  | _ => 64

/-- The bytes of a store as they stand in its block, with their mask. -/
def Access.bytes (a : Access) : Blk × BitVec 64 :=
  let i := a.va.toNat % 64
  let n := accSize a.op
  (BitVec.ofNat 512 (a.data.val.toNat % 2 ^ (8 * n) * 2 ^ (8 * i)), maskAt i n)

/-- The pair of a block that the hardware writes: an unscaled format has SCALE 127 (R76). -/
def written (p : Pair) : Pair :=
  match Fmt.of p.fmt with
  | some f => if f.scaled then p else { p with scale := 127 }
  | none => p

/-- The format and scale that a store writes into the sidecar: none for an ST on a TYPED page (R266). -/
def Access.newPair (a : Access) : Option Pair :=
  if !a.typed then some Pair.raw
  else match a.op with
    | .stb .. => some (written a.data.pair)
    | _ => none

/-- The extension of a loaded value by its type (R266). -/
def loadWord (ty : IntTy) (x : Nat) : Word := ty.wrap x

/-- A block that a copy from memory to memory moves with its sidecar (R102, R350). -/
def Access.preserves (a : Access) : Bool :=
  decide (65536 ≤ a.actor) && decide (a.actor < hostKey) && a.a.toNat % 16 == 2
/-- The cell tag that such a copy writes. -/
def Access.copyTag (a : Access) : BitVec 4 := BitVec.ofNat 4 (a.a.toNat / 16)

/-- The answer of a read that keeps the sidecar: data and pair, and the tag in the place of a word. -/
def State.copyAnswer (s : State) (a : Access) (b : Blk) (p : Pair) (tag : BitVec 4) : State :=
  s.answer a.id ⟨some ⟨tag.setWidth 64, Pair.int64⟩, some ⟨b, p⟩, .none, .none⟩

/-- No global fabric address: that of an access that has no translation. -/
def noAddress : Nat := 2 ^ 62

/-- A load's answer from the block that it has read (R266): a copy engine does not check its format (R77); LDCB goes on to
the write of its codebook (R367). -/
def State.loadAnswer (s : State) (a : Access) (b : Blk) (p : Pair) : State :=
  if a.preserves then s.copyAnswer a b p 0
  else match a.op with
  | .ldcb n _ =>
    let x : BitVec 256 := BitVec.ofNat 256 (b.toNat / 2 ^ (8 * (a.va.toNat % 64)))
    (s.modAcc a.id fun y => { y with
      op := .ldcbV n 0 false, data := ⟨x.setWidth 512, Pair.raw⟩, stage := .sent, sentAt := s.cycle, leaf := none
      pa := noAddress }).later (.homeAccess a.id)
  | _ =>
    if a.typed ∧ !a.byCopier ∧ (Fmt.of p.fmt).isNone then s.failAcc a .formatReserved Cause.reservedCode p.fmt.toNat
    else
      let q := if a.typed then p else Pair.raw
      match a.op with
      | .ld ty .. =>
        s.answer a.id ⟨some ⟨loadWord ty (b.toNat / 2 ^ (8 * (a.va.toNat % 64)) % 2 ^ ty.width), q⟩, .none, .none, .none⟩
      | _ => s.answer a.id ⟨.none, some ⟨b, q⟩, .none, .none⟩

-- WHAT THE CACHES SERVE (R57, R64)

/-- A remote request of a station or a bay tile is timed against the class timeout (R415). -/
def State.sendAcc (s : State) (a : Access) : State :=
  let s1 := (s.modAcc a.id fun x => { x with stage := .sent, sentAt := s.cycle }).later (.homeAccess a.id)
  if 32768 ≤ a.actor then s1
  else if devOf a.pa ≠ s.dev then s1.after s.mgmt.linkTimeout.toNat (.remoteTimeout a.id)
  else if homeDie (paOf a.pa) ≠ a.die then s1.after s.mgmt.ringTimeout.toNat (.remoteTimeout a.id)
  else s1

/-- A block that comes back to the requester: merged with what the RDC and the L1 hold of it, installed where the policy
allows (R57, R64, R152). Answers the data and pair as the requester sees them. -/
def State.install (s : State) (a : Access) (b : Block) : State × Blk × Pair :=
  let k := lineKey a.key a.pa
  let die := a.die
  let p : Pair := ⟨b.side.fmt, b.side.scale⟩
  let fresh := CLine.fresh a.key a.ctx a.imm
  let (s1, x, p) : State × Blk × Pair :=
    if s.localTo die a.pa then (s, b.data, p)
    else
      match Sparse.find? (s.die die).rdc k with
      | some r =>
        let r' := r.fill b.data p
        (s.modDie die fun d => { d with rdc := Sparse.set d.rdc k r' }, r'.data, r'.pair)
      | none => if a.cached then (s.setRdc die k (fresh.fill b.data p), b.data, p) else (s, b.data, p)
  match s1.l1Of a k with
  | some r =>
    let r' := r.fill x p
    (s1.modTile a.tile fun t => { t with l1 := Sparse.set t.l1 k r' }, r'.data, r'.pair)
  | none => (if a.cached && a.hasL1 then s1.setL1 a.tile k (fresh.fill x p) else s1, x, p)

/-- A load or PREF that the caches may serve. -/
def State.performLoad (s : State) (a : Access) : State :=
  let k := lineKey a.key a.pa
  let done (s : State) (x : Blk) (p : Pair) : State :=
    match a.op with
    | .pref .. => s.answer a.id Answer.none
    | _ => s.loadAnswer a x p
  match s.l1Of a k with
  | some l => if l.full then done s l.data l.pair else fromBelow done k
  | none => fromBelow done k
where
  /-- The next level: the RDC for a remote home, then the home. -/
  fromBelow (done : State → Blk → Pair → State) (k : Nat) : State :=
    if s.localTo a.die a.pa then s.sendAcc a
    else
      match Sparse.find? (s.die a.die).rdc k with
      | some r =>
        if r.full then
          let (s1, x, p) := (s.moved a.actor 1).install a ⟨r.data, ⟨r.pair.fmt, r.pair.scale, 0⟩⟩
          done s1 x p
        else s.sendAcc a
      | none => s.sendAcc a

/-- Whether a line holds, dirty, what a store writes too: bytes of its mask, or a pair. -/
def CLine.overlaps (l : CLine) (m : BitVec 64) (pair : Option Pair) : Bool := l.dirty &&& m ≠ 0 || (l.pairDirty && pair.isSome)

/-- Older bytes that a store replaces are written back before the store goes on to its home, where it then comes after them (R57,
R136). -/
def State.wbOlder (s : State) (a : Access) (k : Nat) (m : BitVec 64) : State :=
  let s1 := match s.l1Of a k with
    | some l => if l.overlaps m a.newPair then s.wbL1 a.tile k else s
    | none => s
  match (if s1.localTo a.die a.pa then none else Sparse.find? (s1.die a.die).rdc k) with
  | some l => if l.overlaps m a.newPair then s1.wbRdc a.die k else s1
  | none => s1

/-- A store at the L1: under policy cached a line that is present takes it; otherwise the store goes on, and a line that is present
is updated when its home has it (R57, R64, R152). A token as data goes home, the line dropped (R264). -/
def State.performStore (s : State) (a : Access) : State :=
  let k := lineKey a.key a.pa
  let (x, m) := a.bytes
  if a.data.isTok then (if a.hasL1 then s.dropL1 a.tile k else s).sendAcc a
  else
    match s.l1Of a k with
    | some l =>
      if a.cached then
        (s.modTile a.tile fun t => { t with l1 := Sparse.set t.l1 k { l.write x m a.newPair with owner := a.actor } }).answer a.id Answer.none
      else (s.wbOlder a k m).sendAcc a
    | none => (if a.cached then s else s.wbOlder a k m).sendAcc a

/-- An atomic, a sync-object or a cell operation leaves no line of its blocks in the issuer's L1, nor in its die's RDC, which
its home does not update (R58, R64, R125, R139). -/
def State.leaveCaches (s : State) (a : Access) : State :=
  let n := match a.op with | .csusp .. => a.c.toNat % 64 | _ => 0
  (List.range (n + 1)).foldl (fun (s : State) i =>
    let ga := a.pa / 64 * 64 + 64 * i
    let s1 := if a.hasL1 then s.leaveL1 a.tile a.key ga else s
    if s1.localTo a.die ga then s1 else s1.dropRdc a.die (lineKey a.key ga)) s

/-- A translated access is performed, or sent to its home (R58, R64, R267). -/
def State.perform (s : State) (a : Access) : State :=
  match a.op with
  | .ld .. | .ldb .. | .pref .. | .ldcb .. => s.performLoad a
  | .st _ o _ _ _ _ | .stb o _ _ _ _ => ((if offOrd o && a.hasL1 then s.fenceRel a.tile a.ctx (offScope o) else s)).performStore a
  | _ => (s.leaveCaches a).sendAcc a

/-- An earlier access to the same block that has not been performed holds a later one back, under whichever virtual
address (R136). One that has no translation yet may lie in that block when it has the block's place within 64 KiB, since
frames are multiples of 64 KiB (R17). -/
def State.aliasHeld (s : State) (a : Access) (ga : Nat) : Bool :=
  s.accs.any fun y => y.actor == a.actor && y.id != a.id && y.order < a.order && !y.failed && isMemory y.op &&
    (match y.stage with
      | .sent | .waiting | .answering => y.leaf.isSome && y.pa / 64 == ga / 64
      | .accepted | .walking => y.va.toNat / 64 % 1024 == ga / 64 % 1024
      | _ => false)

/-- An access whose leaf has been found (R19 to R22). -/
def State.translated (s : State) (id : Nat) (l : Leaf) : State :=
  match s.acc? id with
  | none => s
  | some a =>
    match s.leafCheck a.ctx l a.va (permOf a.op) with
    | some (e, c) => s.failAcc a e c (vaDetail a.va 0)
    | none =>
      let ga := l.addr a.va
      if s.aliasHeld a ga then s.modAcc id fun x => { x with stage := .accepted }
      else
        let a' := { a with leaf := some l, pa := ga }
        (s.modAcc id fun _ => a').perform a'

-- TRANSLATION MISSES (R32)

/-- Whether an access is a RING operation, whose slot its object's home translates (R280). -/
def isRingOp : Instr → Bool | .rpush .. | .rpop .. => true | _ => false
/-- The address that an access has translated. -/
def Access.missVa (a : Access) : Word := a.look.getD a.va
/-- The die whose TLB and walkers translate it: the requester's, or that of the object's home (R35, R280). -/
def Access.missDie (a : Access) : Nat := if a.look.isSome && isRingOp a.op then homeDie (paOf a.pa) else a.die

/-- The virtual address of a page. -/
def pageVa (page : Nat) : Word := BitVec.ofNat 64 (page * 2 ^ 16)

/-- Walks start in the order in which their first misses arrived, 64 at a time (R32). -/
def State.admitMisses (s : State) (die : Nat) : State :=
  let ms := (s.die die).misses
  if (ms.filter (·.walking)).length < Config.walkers then
    match ms.find? fun m => !m.walking && m.mig.isNone with
    | some m =>
      (s.modDie die fun d => { d with misses := d.misses.map fun x => if x = m then { x with walking := true } else x }).later
        (.translationWalk die)
    | none => s
  else s

/-- Whether a miss of a context's page shares the walk of another (R32). -/
def Miss.joins (m : Miss) (ctx page : Nat) : Bool :=
  m.ctx == ctx && (m.page == page || (m.big && m.page / 4096 == page / 4096))

/-- Misses that a die holds (R32). -/
def Die.missCount (d : Die) : Nat := (d.misses.map fun m => m.accs.length).sum

/-- A miss of a page for which no other waits stands behind those of earlier cycles, and in its cycle by its requester
(R32). -/
def Die.addMiss (d : Die) (m : Miss) : Die :=
  let before := fun x : Miss => x.since < m.since || (x.since == m.since && x.rank ≤ m.rank)
  { d with misses := d.misses.filter before ++ m :: d.misses.filter fun x => !before x }

/-- A miss joins the walk of its page, or asks for one; with every slot taken it is held at its requester (R32). -/
def State.miss (s : State) (a : Access) : State :=
  let die := a.missDie
  let page := a.missVa.toNat / 2 ^ 16
  let s1 := if a.stage = .walking then s else s.modAcc a.id fun x => { x with stage := .walking, sentAt := s.cycle }
  if Config.missSlots ≤ (s.die die).missCount then s1
  else if (s.die die).misses.any fun m => m.joins a.ctx page then
    let add (m : Miss) : Miss := if m.joins a.ctx page then { m with accs := m.accs ++ [a.id] } else m
    s1.modDie die fun d => { d with misses := d.misses.map add }
  else (s1.modDie die fun d => d.addMiss ⟨a.ctx, page, [a.id], false, none, false, s.cycle, requesterRank a⟩).admitMisses die

/-- An access among others, by the cycle and the requester of its miss: behind those that do not come later. -/
def insertMiss (x : Access) : List Access → List Access
  | [] => [x]
  | y :: r =>
    if y.sentAt < x.sentAt || (y.sentAt == x.sentAt && requesterRank y ≤ requesterRank x) then y :: insertMiss x r else x :: y :: r

/-- Accesses that are held at their requesters for a miss slot of a die, in their order. -/
def State.heldMisses (s : State) (die : Nat) : List Access :=
  (s.accs.filter fun a => a.stage = .walking && a.missDie == die && !((s.die die).misses.any fun m => m.accs.contains a.id)).foldl
    (fun acc x => insertMiss x acc) []

/-- Freed slots take held misses in their order. -/
def State.refillMisses (s : State) (die : Nat) : State := ((s.heldMisses die).foldl (fun s a => s.miss a) s).admitMisses die

/-- Address translation of an accepted access: the tile TLB, the die TLB, or a walk (R30, R32). -/
def State.translateAcc (s : State) (a : Access) : State :=
  if a.va.toNat / 2 ^ 52 ≠ 0 then s.failAcc a .translation Cause.noncanonical (vaDetail a.va 0)
  else
    match (if a.hasL1 then tlbFind (s.tile a.tile).tlb a.ctx a.va else none) with
    | some l => (s.keepLeaf a l).translated a.id l
    | none =>
      match tlbFind (s.die a.die).tlb a.ctx a.va with
      | some l => ((s.keepLeaf a l).modDie a.die fun d => d.addLeaf l).translated a.id l
      | none => s.miss a

/-- An operation under way translates an address: through the die TLB; else it waits for a walk as any miss does, and goes on
where it stands when that is done (R32, R35, R280). -/
def State.lookUp (s : State) (a : Access) (die : Nat) (va : Word) (ok : State → Leaf → State) : State :=
  match tlbFind (s.die die).tlb a.ctx va with
  | some l => ok (s.modDie die fun d => d.addLeaf l) l
  | none => (s.modAcc a.id fun x => { x with look := some va }).miss { a with look := some va }

/-- An operation that has waited for a walk goes on. -/
def State.resume (s : State) (a : Access) : State :=
  (s.modAcc a.id fun x => { x with stage := .sent, look := none }).now (.homeAccess a.id)

/-- The walk of an operation under way has failed: at a unit it fails; a RING operation's object decides what follows (`aux` 8,
with the answer that it is to have). -/
def State.lookFails (s : State) (a : Access) (e : Err) (cause : BitVec 8) (detail : Nat) : State :=
  if isRingOp a.op then
    (s.modAcc a.id fun x => { x with aux := 8, ans := failAns a.op ⟨s.accRecord a e cause detail, true⟩ }).resume a
  else s.failAcc a e cause detail

/-- The misses that receive the result of a walk, with those of its 256 MiB page when it has found that the page is one
(R32). -/
def Miss.sharers (m : Miss) (big : Bool) (x : Miss) : Bool := x = m || ({ m with big := big }.joins x.ctx x.page)

/-- A walk's outcome for the accesses of its misses (R32, R35). DESIGN CHOICE: a page that migrates holds no walker between
its re-walks (notes/assumptions/94.md). -/
def State.walkDone (s : State) (die : Nat) (m : Miss) (w : Walked) : State :=
  let big := m.big || w.big
  let hit := m.sharers big
  let ids := ((s.die die).misses.filter hit).flatMap (·.accs)
  let others (d : Die) : Die := { d with misses := d.misses.filter fun x => !hit x }
  match w with
  | .mig _ =>
    let first := match m.mig with | some c => c | none => s.cycle
    let m' := { m with mig := some first, walking := false, big := big, accs := ids }
    let s1 := (s.modDie die fun d => (others d).addMiss m').after Config.rewalkCycles (.migrationRewalk die)
    if m.mig.isNone then s1.after Config.migrationCycles (.migrationTimeout die) else s1
  | .fail e c d =>
    ids.foldl (fun s id =>
      match s.acc? id with
      | some a =>
        let detail := if e = .uncorrectable then 0 else vaDetail a.missVa (d / 2 ^ 52)
        if a.look.isSome then s.lookFails a e c detail else s.failAcc a e c detail
      | none => s) (s.modDie die others)
  | .leaf l =>
    ids.foldl (fun s id =>
      match s.acc? id with
      | some a => if a.look.isSome then s.resume a else (s.keepLeaf a l).translated id l
      | none => s) (s.modDie die fun d => (others d).addLeaf l)

/-- TRANSLATION_WALK (R18, R19, R32). -/
def execTranslationWalk (die : Nat) (s : State) : Out :=
  .next (match (s.die die).misses.find? (·.walking) with
    | none => s
    | some m =>
      let (s1, w) := s.walk die m.ctx (pageVa m.page)
      ((s1.walkDone die m w).refillMisses die))

/-- MIGRATION_REWALK: the pages that found MIG = 1 a multiple of 4,096 cycles ago are walked again (R35). -/
def execMigrationRewalk (die : Nat) (s : State) : Out :=
  .next ((((s.die die).misses.filter fun m =>
      match m.mig with | some c => (s.cycle - c) % Config.rewalkCycles == 0 | none => false).foldl (fun s m =>
        let (s1, w) := s.walk die m.ctx (pageVa m.page)
        s1.walkDone die m w) s).refillMisses die)

/-- MIGRATION_TIMEOUT (R35, R37). DESIGN CHOICE: where a re-walk falls due in the cycle of the timeout, the timeout comes
first (notes/assumptions/94.md). -/
def execMigrationTimeout (die : Nat) (s : State) : Out :=
  .next ((((s.die die).misses.filter fun m =>
      match m.mig with | some c => decide (c + Config.migrationCycles ≤ s.cycle) | none => false).foldl (fun s m =>
        s.walkDone die m (.fail .translation Cause.migrationTimeout 0)) s).refillMisses die)

-- PROGRAM ORDER (R135, R136, R344)

/-- A value read that may deliver the value of a cell: what it meets is not known yet, and its leaf, once known, permits
cells (R136, R145). -/
def mayMeetCell (y : Access) : Bool :=
  isValueRead y.op && (match y.leaf with | some l => l.cells | none => true)

/-- A FENCE with a release side: a later write of its station follows it (R137, R138). -/
def isRelFence : Instr → Bool | .fenceRel .. | .fenceAr .. => true | _ => false

/-- The blocks that an access may reach from its address on: a group's, or a dump's 1,024 entries (R281, R282, R357). -/
def Access.span (a : Access) : Nat :=
  match a.op with
  | .hdump .. | .hdumpClr .. => 128
  | .csusp .. => a.c.toNat % 64 + 1
  | .cresSp .. => 64
  | _ => 1

/-- Whether two accesses of a station may reach the same block. Where one reaches several, every block at the same place within
64 KiB may be the same, whatever its virtual address, since frames are multiples of 64 KiB (R17). -/
def blocksMeet (x y : Access) : Bool :=
  let d := (y.va.toNat / 64 + 1024 - x.va.toNat / 64 % 1024) % 1024
  if x.span = 1 ∧ y.span = 1 then x.va.toNat / 64 == y.va.toNat / 64
  else decide (d < x.span) || decide ((1024 - d) % 1024 < y.span)

/-- Whether a later access waits for an earlier one of its station (R136, R137, R344). -/
def mustWait (x y : Access) : Bool :=
  blocksMeet x y || isAcquire y.op || isRelease x.op || isBarrier x.op || isBarrier y.op
    || isRelFence y.op || mayMeetCell y

/-- Whether an accepted access may be performed (R136). -/
def State.mayStart (s : State) (x : Access) : Bool :=
  !(s.accs.any fun y => y.actor == x.actor && y.order < x.order && y.stage ≠ .buffered && y.stage ≠ .done && mustWait x y)

/-- An access that may be performed begins. -/
def State.startAcc (s : State) (a : Access) : State :=
  if a.failed then s.answer a.id a.ans
  else if isMemory a.op then s.translateAcc a
  else (s.modAcc a.id fun x => { x with stage := .sent, sentAt := s.cycle }).later (.homeAccess a.id)

/-- Buffered accesses that link to the last one are accepted (R135). -/
def State.acceptWave (s : State) (key : Nat) : (fuel : Nat) → State
  | 0 => s
  | n + 1 =>
    let u := s.actor key
    match s.accs.find? fun a => a.actor == key && a.stage = .buffered &&
        (match a.wave with | some w => w.p == u.waveS || u.waveN == w.s | none => true) with
    | none => s
    | some a =>
      let s1 := { s with nextAcc := s.nextAcc + 1 }.modAcc a.id fun x => { x with stage := .accepted, order := s.nextAcc }
      State.acceptWave (match a.wave with
        | some w => s1.modActor key fun u => { u with waveS := w.s, waveN := w.n }
        | none => s1) key n

/-- Whether accesses that a RESTART shunt has left to be performed still stand before a bay tile's first access (R146). -/
def State.leftover (s : State) (key : Nat) : Bool :=
  let u := s.actor key
  u.fence && s.accs.any fun a => a.actor == stationKey u.line u.stn && a.discard

/-- Once they have been performed, the station's tile makes the release-side and the bay the acquire-side actions of FENCE at L1
(R146). -/
def State.shuntFence (s : State) (key : Nat) : State :=
  let u := s.actor key
  if u.fence then ((s.fenceRel (s.actor (stationKey u.line u.stn)).tile u.ctx 1).fenceAcq u.tile u.ctx 1).modActor key fun a =>
    { a with fence := false }
  else s

/-- The memory interface of a unit moves on: it accepts, and starts what may be performed. -/
def State.pump (s : State) (key : Nat) : State :=
  if s.leftover key then s
  else
    let s1 := (s.shuntFence key).acceptWave key Config.waveBuffer
    ((s1.accs.filter fun a => a.actor == key && a.stage = .accepted).map (·.id)).foldl (fun s id =>
      match s.acc? id with
      | some a => if a.stage = .accepted ∧ s.mayStart a then s.startAcc a else s
      | none => s) s1

/-- An access of a unit has ended: its interface moves on, and those of the bay tiles that wait for what a shunt has left of it. -/
def State.pumpAll (s : State) (key : Nat) : State :=
  let bays := s.actors.filter fun u => u.2.fence && stationKey u.2.line u.2.stn == key
  bays.foldl (fun s u => s.pump u.1) (s.pump key)

/-- An access fires (R135): operands are taken at issue; `pre` is the token of a check that fails before translation. -/
def State.accessB (s : State) (op : Instr) (w : Option Wave) (va a b c : Word) (data : VReg) (bulk : List Blk)
    (pre : Option Tok) : State :=
  let x : Access := {
    id := s.nextAcc, actor := s.cur.actor, ctx := s.me.ctx, fire := s.cur, org := s.origin s.cur.actor s.cur.slot, op := op, va := va, a := a,
    b := b, c := c, data := data, bulk := bulk, wave := w, order := 0, stage := .buffered, failed := pre.isSome, leaf := none, pa := noAddress, sentAt := 0,
    aux := 0, discard := false, noAcq := false, binds := [], ans := match pre with | some t => failAns op t | none => Answer.none }
  { s with nextAcc := s.nextAcc + 1, accs := s.accs ++ [x] }.pump s.cur.actor

/-- An access without bulk data. -/
def State.access (s : State) (op : Instr) (w : Option Wave) (va a b c : Word) (data : VReg) (pre : Option Tok) : State :=
  s.accessB op w va a b c data [] pre

/-- Wave buffer entries of a unit (R135). -/
def State.waveCount (s : State) (key : Nat) : Nat := (s.accs.filter fun a => a.actor == key && a.stage = .buffered).length

-- ALIGNMENT AND TOKENS

/-- The first failing check of operands: a token is passed on, a misaligned address is E_BOUNDS (R263, R264). -/
def State.opCheck (s : State) (gs : List GReg) (va : Word) (size : Nat) : Option Tok :=
  match firstTok gs with
  | some x => some (s.passG x)
  | none => if va.toNat % size ≠ 0 then some (s.tok .bounds Cause.misaligned va.toNat) else none

/-- LD (R265, R266). -/
def execLd (ty : IntTy) (off : Off) (pol : Pol) (d s1 : Fin 16) (w : Wave) (s : State) : Out :=
  let va := address (s.g s1).val off ty.bytes
  .next (s.access (.ld ty off pol d s1 w) (some w) va 0 0 0 VReg.zero (s.opCheck [s.g s1] va ty.bytes))

/-- The store data of a g register: a token's whole record when the register holds one (R264, R400). -/
def State.storeData (s : State) (x : GReg) : VReg :=
  if x.isTok then ⟨(s.gRecord s.cur.actor x).setWidth 512, Pair.token⟩ else ⟨x.val.setWidth 512, x.pair⟩

/-- ST (R265, R266). -/
def execSt (ty : IntTy) (off : Off) (pol : Pol) (d s1 : Fin 16) (w : Wave) (s : State) : Out :=
  let va := address (s.g s1).val off ty.bytes
  .next (s.access (.st ty off pol d s1 w) (some w) va 0 0 0 (s.storeData (s.g d)) (s.opCheck [s.g s1] va ty.bytes))

/-- LDB (R265, R266). -/
def execLdb (off : Off) (pol : Pol) (d s1 : Fin 16) (w : Wave) (s : State) : Out :=
  let va := address (s.g s1).val off 64
  .next (s.access (.ldb off pol d s1 w) (some w) va 0 0 0 VReg.zero (s.opCheck [s.g s1] va 64))

/-- STB (R265, R266). -/
def execStb (off : Off) (pol : Pol) (d s1 : Fin 16) (w : Wave) (s : State) : Out :=
  let va := address (s.g s1).val off 64
  .next (s.access (.stb off pol d s1 w) (some w) va 0 0 0 (s.v d) (s.opCheck [s.g s1] va 64))

/-- PREF (R267): with a token as its address it is dropped. -/
def execPref (off : BitVec 8) (pol : Pol) (s1 : Fin 16) (w : Wave) (s : State) : Out :=
  let va := address (s.g s1).val (.plain off) 64
  .next (s.access (.pref off pol s1 w) (some w) va 0 0 0 VReg.zero (s.opCheck [s.g s1] va 1))

end Sys2Proof.Machine
end

