-- ==== Sys2Proof/Machine/Cells.lean ====
section
/-! DEFINITION. Suspension groups: heads and links, first touch, waiters, the self-dependence walk, resolution and
poisoning (R101 to R117, R121 to R125, R455, R456), and the cell instructions (R281 to R284). -/

namespace Sys2Proof.Machine

-- HEADS (R104 to R106)

/-- A field of the stored head at a device-physical address. -/
def State.headFld (s : State) (head pos w : Nat) : Nat := Blk.fld (s.stored head) pos w
/-- EVAL. -/
def State.hEval (s : State) (head : Nat) : Word := BitVec.ofNat 64 (s.headFld head 0 64)
/-- ARG. -/
def State.hArg (s : State) (head : Nat) : Word := BitVec.ofNat 64 (s.headFld head 64 64)
/-- SELF. -/
def State.hSelf (s : State) (head : Nat) : Word := BitVec.ofNat 64 (s.headFld head 128 64)
/-- RFMT. -/
def State.hRfmt (s : State) (head : Nat) : BitVec 8 := BitVec.ofNat 8 (s.headFld head 192 8)
/-- NLINK. -/
def State.hNlink (s : State) (head : Nat) : Nat := s.headFld head 200 6
/-- CTX. -/
def State.hCtx (s : State) (head : Nat) : Nat := s.headFld head 208 8

/-- A head is read before anything acts on it, under the key id with which the group was written (R28, R103). Says whether it
could be. -/
def State.openHead (s : State) (pol : Pol) (head : Nat) : State × Bool :=
  let (s1, b) := s.readAt pol (s.keyOf 0 head) head
  (s1, b.isSome)

/-- The agent's own rewrite of a head: its key id and the rest of its sidecar stay. -/
def State.setHead (s : State) (head : Nat) (b : Blk) (tag : BitVec 4) : State :=
  s.rewrite (s.keyOf 0 head) head ⟨b, ⟨0x00, 127, tag⟩⟩

/-- A waiter entry (R105). -/
def waiterEntry (kind block req tagw : Nat) : Word :=
  BitVec.ofNat 64 (2 ^ 63 + at_ kind 60 3 + at_ block 54 6 + at_ req 32 16 + at_ tagw 0 32)

/-- Whether a key is an evaluation's on its slot. -/
def isEvalKey (key : Nat) : Bool := 32768 ≤ key && key < 65536

/-- The key of an evaluation that is off its slot (R119). -/
def parkedKey (die evid : Nat) : Nat := 200000 + die * 65536 + evid

/-- The evaluation record of a unit, on its slot or off it (R108). -/
def State.recOf (s : State) (key : Nat) : Option (Nat × EvRec) :=
  if 200000 ≤ key then
    s.dies.findSome? fun d => (d.2.recs.find? fun r => parkedKey d.1 r.evid == key).map fun r => (d.1, r)
  else
    let die := (key - 32768) / 128
    ((s.die die).recs.find? fun r => r.place == .slot ((key - 32768) % 128)).map fun r => (die, r)

/-- The waiter entry of an access for a block of a group (R105). DESIGN CHOICE: the waiter of an engine's read of a descriptor or a
card is the unit that issued the instruction (notes/assumptions/114.md). -/
def State.entryOf (s : State) (a : Access) (block : Nat) : Word :=
  if isEvalKey a.actor ∨ 200000 ≤ a.actor then
    waiterEntry 2 block ((a.actor - 32768) % 128) (match s.recOf a.actor with | some r => r.2.evid | none => 0)
  else if 65536 ≤ a.actor ∧ a.actor < hostKey then waiterEntry 1 block (a.actor - 65536) (a.id % 2 ^ 32)
  else if portKey 0 ≤ a.actor ∧ a.actor < launchKey 0 then waiterEntry 3 block (a.actor - portKey 0) (a.id % 2 ^ 32)
  else waiterEntry 0 block a.tile (a.id % 2 ^ 32)

/-- The record that an agent raises (R399, R456). -/
def agentRecord (s : State) (die : Nat) (e : Err) (cause : BitVec 8) (detail : Nat) : BitVec 256 :=
  record s.dev ⟨5, die, 0, 0, 0, 0, 0, 0, 0, 0⟩ e cause detail

/-- The record of the group's evaluation. -/
def State.evalOf (s : State) (head : Nat) : Option EvRec := (s.die (homeDie head)).recs.find? fun r => r.head == head

/-- The state with an evaluation record changed. -/
def State.modRec (s : State) (die evid : Nat) (f : EvRec → EvRec) : State :=
  s.modDie die fun d => { d with recs := d.recs.map fun r => if r.evid = evid then f r else r }

/-- The lowest free EVID of a die (R108). -/
def freeEvid (d : Die) : Nat := ((List.range 4097).find? fun i => !(d.recs.any fun r => r.evid == i + 1)).getD 0 + 1

-- WAITERS

/-- The operations for which an engine reads a descriptor or a card with its value (R102, R346, R349). -/
def isCardRead : Instr → Bool | .sspec .. | .jcopy .. | .jgath .. | .jscat .. | .jcoll .. => true | _ => false

/-- Whether a waiting access waits on a cell: a load, or an engine's read of a descriptor or a card, which has an address
only while it does. -/
def Access.awaitsCell (a : Access) : Bool := isValueRead a.op || (isCardRead a.op && a.pa != noAddress)

/-- The accesses that wait on a group, in the order in which they are answered (R115): those with head entries, then
those in the die table. -/
def State.waitersOf (s : State) (head : Nat) : List Access :=
  let n := s.hNlink head
  let ws := s.accs.filter fun a => a.stage = .waiting && head ≤ paOf a.pa / 64 * 64 && paOf a.pa / 64 * 64 ≤ head + 64 * n
    && devOf a.pa == s.dev && a.awaitsCell
  ws.filter (fun a => a.aux = 0) ++ ws.filter (fun a => a.aux ≠ 0)

/-- An access's entry is taken out of its group (R121, R126). -/
def State.dropWaiter (s : State) (a : Access) (head : Nat) : State :=
  if a.aux = 0 then
    match (List.range 4).find? fun i => s.headFld head (256 + 64 * i) 64 == a.c.toNat with
    | some i =>
      let b := Blk.put (s.stored head) (256 + 64 * i) 64 0
      s.setHead head (Blk.put b 232 3 (Blk.fld b 232 3 - 1)) tagEvaluating
    | none => s
  else s.modDie (homeDie head) fun d => { d with dwait := d.dwait.filter fun w => !(w.head == head && w.entry == a.c) }

/-- Everything that a unit still awaits or holds outstanding is discarded (R455). -/
def State.dropUnit (s : State) (key : Nat) : State :=
  { s with
    results := s.results.filter fun r => r.fire.actor != key
    accs := s.accs.filter fun a => a.actor != key
    actors := Sparse.del s.actors key
    tiles := s.tiles.map fun x => (x.1, { x.2 with
      run := x.2.run.filter fun r => r.fire.actor != key
      moves := x.2.moves.filter fun m => m.fire.actor != key || m.reads.isEmpty }) }

/-- The head of the group that a block belongs to, and the block's index in it (R106). -/
def State.groupOf (s : State) (pa : Nat) : Nat × Nat :=
  if (s.side pa).tag = tagGrouplink then
    let i := Blk.fld (s.stored pa) 0 6
    (pa / 64 * 64 - 64 * i, i)
  else (pa / 64 * 64, 0)

/-- A party retires: its memberships are withdrawn at the objects' slices (R394). -/
def State.retire (s : State) (members : List (Nat × Nat)) : State :=
  members.foldl (fun s m => s.now (.barrierWithdrawal m.1 m.2)) s

/-- An evaluation ends: it fires nothing further, its pending results are discarded, its slot frees, the entries of its
queued loads and its saved state go, and its memberships are withdrawn (R121, R394, R455). -/
def State.endEval (s : State) (die : Nat) (r : EvRec) : State :=
  let key := match r.place with | .slot n => evalKey die n | _ => parkedKey die r.evid
  let members := match r.unit with | some u => u.members | none => (s.actor key).members
  let s1 := (s.modDie die fun d => { d with recs := d.recs.filter fun x => x.evid != r.evid }).retire members
  let waits := s1.accs.filter fun (a : Access) => a.actor == key && decide (a.stage = Stage.waiting) && a.awaitsCell
  (waits.foldl (fun (s : State) a => s.dropWaiter a (s.groupOf (paOf a.pa)).1) s1).dropUnit key

/-- The cell on which a unit's other accesses are queued, when one waits for an answer other than `id`'s. -/
def State.otherCell (s : State) (key id : Nat) : Option Nat :=
  (s.accs.find? fun a => a.actor == key && a.id != id && decide (a.stage = .waiting) && a.awaitsCell).map fun a =>
    (s.groupOf (paOf a.pa)).1

/-- A waiter receives a block of its resolved group (R116), or the token itself (R121). An evaluation that is parked is woken; one
on its slot stays queued on the cell of another of its accesses. -/
def State.answerWaiter (s : State) (a : Access) (f : State → State) : State :=
  match s.recOf a.actor with
  | some (die, r) =>
    if r.place = .parked then
      f ((s.modRec die r.evid fun r => { r with place := .ready, woken := true, queued := none }).modDie die fun d =>
        { d with recs := d.recs.filter (fun x => x.evid != r.evid) ++ d.recs.filter (fun x => x.evid == r.evid) })
    else f (s.modRec die r.evid fun r => { r with queued := s.otherCell a.actor a.id })
  | none => f s

/-- A waiter is answered with the block of its group: a load receives it, an engine's read of a descriptor or a card is made
again. -/
def State.giveBlock (s : State) (a : Access) (b : Blk) (p : Pair) : State :=
  if isValueRead a.op then s.loadAnswer a b p
  else (s.modAcc a.id fun x => { x with stage := .sent, pa := noAddress, aux := 0, c := 0 }).now (.homeAccess a.id)

-- POISONING (R121)

/-- The group's agent poisons every block of the group, deletes the evaluation record and answers every waiter. Its writes
allocate no line (R64). -/
def State.poisonGroup (s : State) (head : Nat) (r : BitVec 256) : State :=
  let n := s.hNlink head
  let key := s.keyOf 0 head
  let ws := s.waitersOf head
  let s1 := match s.evalOf head with | some e => s.endEval (homeDie head) e | none => s
  let s2 := (List.range (n + 1)).foldl (fun s i => s.rewrite key (head + 64 * i) (poisoned r)) s1
  let s3 := s2.modDie (homeDie head) fun d => { d with dwait := d.dwait.filter fun w => w.head != head }
  ws.foldl (fun s a =>
    if (s.acc? a.id).isSome then s.answerWaiter a fun s => s.answer a.id (failAns a.op ⟨r, true⟩) else s) s3

/-- EVALUATION_ABANDON (R121). -/
def execEvaluationAbandon (die evid : Nat) (cause : BitVec 8) (s : State) : Out :=
  .next (match (s.die die).recs.find? fun r => r.evid == evid with
    | some r => s.poisonGroup r.head (agentRecord s die .evalAbandoned cause 0)
    | none => s)

-- JOINING (R113, R114, R123)

/-- The self-dependence walk from a cell: the error and the hops made (R123, R456). -/
def depWalk (s : State) (e0 : Nat × Nat) : (fuel : Nat) → (hops cell : Nat) → Option (Err × Nat)
  | 0, _, _ => some (.evalDepth, 16)
  | n + 1, hops, cell =>
    match s.evalOf cell with
    | none => none
    | some r =>
      if hops = 16 then some (.evalDepth, 16)
      else if (homeDie cell, r.evid) = e0 then some (.selfDependence, hops + 1)
      else
        match r.queued with
        | none => none
        | some c => if hops + 1 = 16 then some (.evalDepth, 16) else depWalk s e0 n (hops + 2) c

/-- Whether a waiter finds an entry that it may use: a head entry, or one of the die table, 1,024 of which are kept for
evaluations (R113). DESIGN CHOICE: other waiters stop when all but 1,024 entries are taken, by whichever waiters
(notes/assumptions/96.md). -/
def State.entryFree (s : State) (a : Access) (head : Nat) : Bool :=
  let d := s.die (homeDie head)
  s.headFld head 232 3 < 4 ||
    d.dwait.length < (if isEvalKey a.actor then Config.dieWaiters else Config.dieWaiters - Config.dieWaitersKept)

/-- The access takes the lowest empty head entry, or an entry of the die waiter table (R113). -/
def State.takeEntry (s : State) (a : Access) (head block : Nat) : State :=
  let e := s.entryOf a block
  let b := s.stored head
  let (s1, aux) : State × Nat :=
    if s.headFld head 232 3 < 4 then
      let i := ((List.range 4).find? fun i => Blk.fld b (256 + 64 * i) 64 == 0).getD 0
      (s.setHead head (Blk.put (Blk.put b (256 + 64 * i) 64 e.toNat) 232 3 (Blk.fld b 232 3 + 1)) tagEvaluating, 0)
    else
      ((s.setHead head (Blk.put b 235 1 1) tagEvaluating).modDie (homeDie head) fun d => { d with dwait := d.dwait ++ [⟨head, e⟩] }, 1)
  ((s1.modAcc a.id fun x => { x with aux := aux, c := e }).joinWait a.id)

/-- When the waiter that has taken its entry is an evaluation, its record names the cell; then, ahead of what arrives in the next
cycle, the agent walks from it, and the evaluation parks (R60, R114, R119, R123). DESIGN CHOICE: an evaluation with more than one
access queued is recorded as queued on the cell that the last of them met (notes/assumptions/115.md). -/
def State.queueEval (s : State) (a : Access) (head : Nat) : State :=
  match s.recOf a.actor with
  | none => s
  | some (die, r) =>
    if isEvalKey a.actor ∨ 200000 ≤ a.actor then
      (s.modRec die r.evid fun r => { r with queued := some head, walks := r.walks ++ [head] }).after 1 (.parking die r.evid)
    else s

/-- The walks of an evaluation that has queued: a cell from which one fails is poisoned (R123, R456). -/
def State.walkCells (s : State) (die evid : Nat) (cells : List Nat) : State :=
  cells.foldl (fun s head =>
    match depWalk s (die, evid) 17 0 head with
    | some (e, hops) => s.poisonGroup head (agentRecord s (homeDie head) e 0 (head % 2 ^ 46 + hops % 32 * 2 ^ 48))
    | none => s) (s.modRec die evid fun r => { r with walks := [] })

/-- WAITER_JOIN: a read joins the waiters of a group (R113, R114). A read that finds no entry is held at the agent. -/
def execWaiterJoin (id : Nat) (s : State) : Out :=
  .next (match s.acc? id with
    | none => s
    | some a =>
      let (head, block) := s.groupOf (paOf a.pa)
      if (s.side head).tag ≠ tagEvaluating ∨ !s.entryFree a head then s.holdHome a false
      else (s.takeEntry a head block).queueEval a head)

-- FIRST TOUCH (R109, R110)

/-- The group of a read is to be poisoned by its agent: that comes ahead of what arrives in the next cycle, and the read has its
answer then (`aux` 7, R60). -/
def State.touchFails (s : State) (a : Access) (head : Nat) (c : BitVec 8) : State :=
  if a.aux = 7 then
    let r := agentRecord s (homeDie head) .evalAbandoned c 0
    (s.poisonGroup head r).answer a.id (failAns a.op ⟨r, true⟩)
  else (s.modAcc a.id fun x => { x with aux := 7 }).after 1 (.firstTouch a.id)

/-- The evaluation of a group is created with its first waiter (R108, R110). -/
def State.launchEval (s : State) (a : Access) (head block : Nat) : State :=
  let die := homeDie head
  let ev := freeEvid (s.die die)
  let r : EvRec := ⟨ev, head, s.hCtx head, .ready, none, false, [], block, Bank.zero, none, [], 0⟩
  let b := Blk.put (s.stored head) 216 16 ev
  let s1 := (s.setHead head b tagEvaluating).modDie die fun d => { d with recs := d.recs ++ [r] }
  let s2 := (s1.takeEntry { a with aux := 0 } head block).queueEval a head
  if (s.die die).poolSize = 0 then s2.after 1 (.evaluationAbandon die ev Cause.noPool) else s2

/-- FIRST_TOUCH: the third check of R109, then the head becomes EVALUATING, with its record and its first waiter
(R108 to R110); or the group has no evaluation left (R121). A context whose evaluations on the die are frozen lets the evaluation
wait unstarted (R386, notes/assumptions/95.md). -/
def execFirstTouch (id : Nat) (s : State) : Out :=
  .next (match s.acc? id with
    | none => s
    | some a =>
      let (head, block) := s.groupOf (paOf a.pa)
      let t := (s.side head).tag
      if t = tagEvaluating ∧ (s.evalOf head).isNone then s.touchFails a head Cause.noRecord
      else if t ≠ tagSuspended then (s.modAcc id fun x => { x with aux := 0 }).holdHome a false
      else
        match s.ctx? (s.hCtx head) with
        | none => s.touchFails a head Cause.contextAbsent
        | some c =>
          if c.status = 3 ∨ c.status = 5 ∨ c.tearing then s.touchFails a head Cause.contextAbsent
          else if Config.evalRecords ≤ (s.die (homeDie head)).recs.length then
            (s.modAcc id fun x => { x with aux := 0 }).holdHome a false
          else s.launchEval a head block)

-- VALUE READS AT HOME (R102, R109, R113, R124)

/-- What a value read finds at the block's home. -/
inductive ReadRes where
  | block (b : Block)
  | token (e : Err) (cause : BitVec 8) (detail : Nat)
  /-- The record that another device answers with. -/
  | given (r : BitVec 256)
  | touch
  | join
  deriving DecidableEq, Repr

/-- DETAIL of E_CELL_POISONED (R124). -/
def poisonDetail (b : Blk) : Nat := if b.toNat % 2 ^ 256 = 0 then 5 else b.toNat % 2 ^ 64

/-- Whether one of two contexts is confidential. -/
def State.isConf (s : State) (c : Nat) : Bool := match s.ctx? c with | some x => x.conf | none => false

/-- The first two checks of R109. -/
def State.cellCheck (s : State) (ctx : Nat) (l : Option Leaf) (head : Nat) : Bool :=
  (match l with | some l => l.cells | none => false) &&
  (ctx == s.hCtx head || (!s.isConf ctx && !s.isConf (s.hCtx head)))

/-- A value read of a block at its home (R102). A link block acts as its head, once its leaf permits cells (R21, R111); a
head that is itself a link, which no CSUSP writes, refuses (notes/assumptions/95.md). -/
def State.valueRead (s : State) (pol : Pol) (ctx : Nat) (l : Option Leaf) (va : Word) (pa : Nat) : State × ReadRes :=
  let key := match l with | some l => l.key | none => 0
  let perm (c : BitVec 8) : ReadRes := .token .permission c (vaDetail va 0)
  match s.readAt pol key pa with
  | (s1, none) => (s1, .token .uncorrectable 0 0)
  | (s1, some b) =>
    let onHead (s : State) (head : Nat) (h : Block) : State × ReadRes :=
      if h.side.tag = tagPlain then (s, .block b)
      else if h.side.tag = tagPoisoned then (s, .token .cellPoisoned 0 (poisonDetail h.data))
      else if h.side.tag = tagSuspended then (s, if s.cellCheck ctx l head then .touch else perm Cause.cells)
      else if h.side.tag = tagEvaluating then
        if !s.cellCheck ctx l head then (s, perm Cause.cells)
        else (s, if (s.evalOf head).isNone then .touch else .join)
      else (s, perm Cause.cellTag)
    if b.side.tag = tagGrouplink then
      if !(match l with | some l => l.cells | none => false) then (s1, perm Cause.cells)
      else
        let head := (s1.groupOf pa).1
        match s1.readAt pol key head with
        | (s2, some h) => onHead s2 head h
        | (s2, none) => (s2, .token .uncorrectable 0 0)
    else onHead s1 (pa / 64 * 64) b

-- RESOLUTION (R116, R117)

/-- The sidecar scale of resolved blocks (R76, R116). -/
def resolvedScale (rfmt scale : BitVec 8) : BitVec 8 :=
  match Fmt.of rfmt with
  | some f => if f.scaled then scale else 127
  | none => 127

/-- The group's agent writes the result, frees the record and answers every waiter (R116). -/
def State.resolve (s : State) (pol : Pol) (head : Nat) (blks : List Blk) (scale : BitVec 8) : State :=
  let n := s.hNlink head
  let key := s.keyOf 0 head
  let rf := s.hRfmt head
  let sd : Side := ⟨rf, resolvedScale rf scale, tagPlain⟩
  let ws := s.waitersOf head
  let s1 := match s.evalOf head with | some e => s.endEval (homeDie head) e | none => s
  let s2 := ((List.range n).map (· + 1) ++ [0]).foldl (fun (st : State) i => st.putAt pol key (head + 64 * i) ⟨blks.getD i 0, sd⟩) s1
  let s3 := s2.modDie (homeDie head) fun d => { d with dwait := d.dwait.filter fun w => w.head != head }
  ws.foldl (fun s a =>
    if (s.acc? a.id).isSome then
      let i := (paOf a.pa / 64 * 64 - head) / 64
      s.answerWaiter a fun s => s.giveBlock a (blks.getD i 0) ⟨sd.fmt, sd.scale⟩
    else s) s3

/-- Whether a CRES comes from the evaluation of the group, with the right id (R116, R117). -/
def State.isEvaluation (s : State) (a : Access) (head : Nat) : Bool :=
  match s.evalOf head with
  | some r => isEvalKey a.actor && (match r.place with | .slot n => a.actor == evalKey (homeDie head) n | _ => false)
      && a.a.toNat % 2 ^ 16 == r.evid
  | none => false

/-- GROUP_RESOLUTION: a CRES at its group's agent (R116, R117, R282). -/
def execGroupResolution (id : Nat) (s : State) : Out :=
  .next (match s.acc? id with
    | none => s
    | some a =>
      let head := paOf a.pa / 64 * 64
      let (s, read) := s.openHead a.pol head
      let t := (s.side head).tag
      let mine := t = tagSuspended ∧ a.ctx = s.hCtx head
      if !read then s.failAcc a .uncorrectable 0 0
      else if ¬(mine ∨ (t = tagEvaluating ∧ s.isEvaluation a head)) then s.refuse a Cause.cellTag
      else
        let n := s.hNlink head
        match a.op with
        | .cres .. =>
          if n ≠ 0 then s.failAcc a .bounds Cause.descriptor 0
          else if a.data.isTok then (s.poisonGroup head (a.data.val.setWidth 256)).answer id Answer.none
          else (((s.fenceRel a.tile a.ctx 4).resolve a.pol head [a.data.val] a.data.pair.scale)).answer id Answer.none
        | _ =>
          if a.b.toNat + 64 * (n + 1) ≤ a.c.toNat then
            (((s.fenceRel a.tile a.ctx 4).resolve a.pol head a.bulk (BitVec.ofNat 8 (a.a.toNat / 2 ^ 24)))).answer id Answer.none
          else s.failAcc a .bounds Cause.outOfWindow a.c.toNat)

-- CELL INSTRUCTIONS AT HOME

/-- Every block of a group is read, for its tag (R28, R101): the state, whether all could be read, and whether each is PLAIN
or POISONED. -/
def State.openBlocks (s : State) (pol : Pol) (key head n : Nat) : State × Bool × Bool :=
  (List.range (n + 1)).foldl (fun (x : State × Bool × Bool) i =>
    match x.1.readAt pol key (head + 64 * i) with
    | (s1, some b) => (s1, x.2.1, x.2.2 && (b.side.tag == tagPlain || b.side.tag == tagPoisoned))
    | (s1, none) => (s1, false, x.2.2)) (s, true, true)

/-- CSUSP at the group's agent (R103, R104, R281). -/
def State.suspend (s : State) (a : Access) : State :=
  let head := paOf a.pa / 64 * 64
  let n := a.c.toNat % 64
  let (s, read, free) := s.openBlocks a.pol a.key head n
  if !read then s.failAcc a .uncorrectable 0 0
  else if !free then s.refuse a Cause.cellTag
  else
    let b : Blk := BitVec.ofNat 512 (at_ a.a.toNat 0 64 + at_ a.b.toNat 64 64 + at_ a.va.toNat 128 64
      + at_ (a.c.toNat / 2 ^ 8) 192 8 + at_ n 200 6 + at_ a.ctx 208 8)
    let s1 := s.putAt a.pol a.key head ⟨b, ⟨0x00, 127, tagSuspended⟩⟩
    ((List.range n).foldl (fun s i =>
      s.putAt a.pol a.key (head + 64 * (i + 1))
        ⟨BitVec.ofNat 512 (at_ (i + 1) 0 6 + at_ a.ctx 16 8), ⟨0x00, 127, tagGrouplink⟩⟩) s1).answer a.id Answer.none

/-- The bits that CTAG reads (R283). -/
def State.tagWord (s : State) (pa : Nat) : Word :=
  let t := (s.side pa).tag
  let h := if t = tagGrouplink then (s.side (s.groupOf pa).1).tag.toNat else 0
  let n := if t = tagSuspended ∨ t = tagEvaluating then s.hNlink (pa / 64 * 64) else 0
  BitVec.ofNat 64 (t.toNat + 16 * h + 256 * n)

/-- CTAG at home (R283): the block, and for a link its head, must be readable (R28, R101). -/
def State.ctag (s : State) (a : Access) : State :=
  let pa := paOf a.pa / 64 * 64
  let (s1, read) := s.openHead a.pol pa
  let (s2, both) := if (s1.side pa).tag = tagGrouplink then s1.openHead a.pol (s1.groupOf pa).1 else (s1, true)
  if read && both then s2.answer a.id (ansG (s2.tagWord pa)) else s2.failAcc a .uncorrectable 0 0

/-- CPOIS at home (R284): `a.a` holds gC. The head of a link's group must be readable too (R28). -/
def State.cpois (s : State) (a : Access) : State :=
  let pa := paOf a.pa / 64 * 64
  let (s1, here) := s.openHead a.pol pa
  let (s, both) := if here && (s1.side pa).tag == tagGrouplink then s1.openHead a.pol (s1.groupOf pa).1 else (s1, true)
  let read := here && both
  let t := (s.side pa).tag
  let code := a.a.toNat % 256
  let r := recordOf s.dev a.org (if 1 ≤ code ∧ code ≤ 0x19 then code else 0x17) 0
    (a.a.toNat / 2 ^ 32)
  if !read then s.failAcc a .uncorrectable 0 0
  else if t = tagPlain then (s.putAt a.pol a.key pa (poisoned r)).answer a.id Answer.none
  else if t = tagPoisoned then s.answer a.id Answer.none
  else if t = tagSync then s.refuse a Cause.cellTag
  else
    let head := (s.groupOf pa).1
    if s.hCtx head = a.ctx then (s.poisonGroup head r).answer a.id Answer.none
    else s.refuse a Cause.cellTag

/-- CSUSP (R281). -/
def execCsusp (d : Fin 8) (s1 s2 : Fin 16) (w : Wave) (s : State) : Out :=
  let h := s.g s1
  let e := s.g s2
  let ar := s.gn (2 * d.val)
  let x := s.gn (2 * d.val + 1)
  let n := x.val.toNat % 64
  let bad := h.val.toNat % 64 ≠ 0 ∨ e.val.toNat % 64 ≠ 0 ∨ e.val.toNat / 2 ^ 52 ≠ 0 ∨ ar.val.toNat / 2 ^ 52 ≠ 0
    ∨ 2 ^ 16 < h.val.toNat % 2 ^ 16 + 64 * (n + 1)
    ∨ x.val.toNat / 2 ^ 16 ≠ 0 ∨ x.val.toNat / 2 ^ 6 % 4 ≠ 0 ∨ (Fmt.of (BitVec.ofNat 8 (x.val.toNat / 2 ^ 8))).isNone
  let pre := match firstTok [h, e, ar, x] with
    | some t => some (s.passG t)
    | none => if bad then some (s.tok .bounds Cause.descriptor 0) else none
  .next (s.access (.csusp d s1 s2 w) (some w) h.val e.val ar.val x.val VReg.zero pre)

/-- CRES, register form (R282): a token as the source poisons the group (R117). -/
def execCres (d s1 s2 : Fin 16) (w : Wave) (s : State) : Out :=
  let h := s.g s1
  .next (s.access (.cres d s1 s2 w) (some w) h.val (s.g d).val 0 0 (s.v s2) (s.opCheck [s.g d, h] h.val 64))

/-- The read groups of a CRES.sp: four blocks are 64 words, and the group that its address names has 1 + NLINK blocks
(R52, R282). -/
def State.cresGroups (s : State) (va : Word) : Nat :=
  match (s.walk (dieOf s.cur.tile) s.me.ctx va).2 with
  | .leaf l => s.hNlink (paOf (l.addr va)) / 4 + 1
  | _ => 1

/-- CRES.sp (R282): the bytes are read from the scratchpad as read groups of the tile. DESIGN CHOICE: all of them at issue
(notes/assumptions/131.md). -/
def execCresSp (d s1 s2 : Fin 16) (w : Wave) (s : State) : Out :=
  let h := s.g s1
  let x := s.g s2
  let win := s.window
  let a := x.val.toNat
  let pre := match s.opCheck [s.g d, h, x] h.val 64 with
    | some t => some t
    | none =>
      if a % 64 ≠ 0 then some (s.tok .bounds Cause.misaligned a)
      else if a < win.1 then some (s.tok .bounds Cause.outOfWindow a)
      else none
  let n := Nat.min 64 ((win.1 + win.2 - a) / 64)
  let bulk := (List.range n).map fun i => (BitVec.ofNat 512 (s.here.spBytes 0 (fun _ => 0) (a + 64 * i) 64) : Blk)
  .next ((if pre.isSome then s else s.useRead (s.cresGroups h.val)).accessB (.cresSp d s1 s2 w) (some w) h.val (s.g d).val x.val
    (BitVec.ofNat 64 (win.1 + win.2)) VReg.zero bulk pre)

/-- CTAG (R283). -/
def execCtag (d s1 : Fin 16) (w : Wave) (s : State) : Out :=
  .next (s.access (.ctag d s1 w) (some w) (s.g s1).val 0 0 0 VReg.zero (s.opCheck [s.g s1] (s.g s1).val 64))

/-- CPOIS (R284). -/
def execCpois (s1 s2 : Fin 16) (w : Wave) (s : State) : Out :=
  .next (s.access (.cpois s1 s2 w) (some w) (s.g s1).val (s.g s2).val 0 0 VReg.zero
    (s.opCheck [s.g s1, s.g s2] (s.g s1).val 64))

end Sys2Proof.Machine
end

