-- ==== Sys2Proof/Machine/Sync.lean ====
section
/-! DEFINITION. Atomics (R274), sync objects and their operations at the home slice (R129 to R132, R268 to R271, R275 to
R280), watchpoints (R366), and the instructions that reach them. -/

namespace Sys2Proof.Machine

-- ATOMICS

/-- The w of an atomic. -/
def atomW (w64 : Bool) : Nat := if w64 then 64 else 32

/-- A two's-complement value of w bits. -/
def sgnOf (w x : Nat) : Int := if 2 ^ (w - 1) ≤ x then (x : Int) - 2 ^ w else x

/-- What an atomic leaves in memory, what D receives and whether it acquires (R140, R274): `m` is the value found, `b`
and `l` the operands. -/
def atomicResult (op : Instr) (m b l : Nat) : Nat × Word × Bool :=
  match op with
  | .afadd _ w64 o .. =>
    if m + b % 2 ^ atomW w64 ≤ l % 2 ^ atomW w64 then (m + b % 2 ^ atomW w64, BitVec.ofNat 64 m, ordAcq o)
    else (m, BitVec.allOnes 64, ordAcq o)
  | .acas _ w64 o f .. =>
    if m = l % 2 ^ atomW w64 then (b % 2 ^ atomW w64, BitVec.ofNat 64 m, ordAcq o) else (m, BitVec.ofNat 64 m, f)
  | .aswap _ w64 o .. => (b % 2 ^ atomW w64, BitVec.ofNat 64 m, ordAcq o)
  | .amin _ w64 o sgn .. =>
    let x := b % 2 ^ atomW w64
    if sgn then (if sgnOf (atomW w64) x < sgnOf (atomW w64) m then x else m, BitVec.ofInt 64 (sgnOf (atomW w64) m), ordAcq o)
    else (Nat.min m x, BitVec.ofNat 64 m, ordAcq o)
  | .amax _ w64 o sgn .. =>
    let x := b % 2 ^ atomW w64
    if sgn then (if sgnOf (atomW w64) x > sgnOf (atomW w64) m then x else m, BitVec.ofInt 64 (sgnOf (atomW w64) m), ordAcq o)
    else (Nat.max m x, BitVec.ofNat 64 m, ordAcq o)
  | .aand _ w64 o .. => (Nat.land m (b % 2 ^ atomW w64), BitVec.ofNat 64 m, ordAcq o)
  | .aor _ w64 o .. => (Nat.lor m (b % 2 ^ atomW w64), BitVec.ofNat 64 m, ordAcq o)
  | _ => (m, 0, false)

/-- Width, scope and release order of an atomic. -/
def atomicShape : Instr → Nat × Nat × Bool
  | .afadd sc w o _ _ _ _ | .aswap sc w o _ _ _ _ | .aand sc w o _ _ _ _ | .aor sc w o _ _ _ _ => (atomW w, sc.val, ordRel o)
  | .acas sc w o _ _ _ _ _ | .amin sc w o _ _ _ _ _ | .amax sc w o _ _ _ _ _ => (atomW w, sc.val, ordRel o)
  | _ => (64, 0, false)

/-- The release-side actions of FENCE by a party (R68, R142). -/
def State.partyRel (s : State) (a : Access) (sc : Nat) : State :=
  if a.hasL1 then s.fenceRel a.tile a.ctx sc
  else if 65536 ≤ a.actor ∧ a.actor < hostKey ∧ 4 ≤ sc then s.cleanRdc a.die fun _ l => l.ctx == a.ctx
  else s

/-- The acquire-side actions of FENCE by a party (R68, R142). -/
def State.partyAcq (s : State) (a : Access) (sc : Nat) : State :=
  if a.hasL1 then s.fenceAcq a.tile a.ctx sc
  else if 65536 ≤ a.actor ∧ a.actor < hostKey ∧ 4 ≤ sc then s.invRdc a.die fun _ l => l.ctx == a.ctx
  else s

/-- The actions of REL on the object, then the release side of FENCE (R269); none at scope L0 (R68, R134). -/
def State.relActs (s : State) (a : Access) (sc : Nat) : State :=
  let bs := s.bindsOf a.ctx a.va
  if sc = 0 then s
  else if a.hasL1 then (s.objRel a.tile a.ctx bs).partyRel a sc
  else if a.actor < hostKey then (s.cleanRdc a.die fun k _ => s.bound a.die a.ctx bs (lineAddr k)).partyRel a sc
  else s

/-- The actions of ACQ on the regions that were bound to the object when the access was performed, then the acquire side of
FENCE (R269); none at scope L0 (R68, R134). -/
def State.acqActs (s : State) (a : Access) (sc : Nat) : State :=
  if sc = 0 then s
  else if a.hasL1 then (s.objAcq a.tile a.ctx a.binds).partyAcq a sc
  else if a.actor < hostKey then (s.invRdc a.die fun k _ => s.bound a.die a.ctx a.binds (lineAddr k)).partyAcq a sc
  else s

/-- Whether an atomic writes memory: not an AFADD that overflows, nor an ACAS whose comparison fails (R140, R274). -/
def atomicWrites (op : Instr) (m b l : Nat) : Bool :=
  match op with
  | .afadd _ w64 .. => decide (m + b % 2 ^ atomW w64 ≤ l % 2 ^ atomW w64)
  | .acas _ w64 .. => m == l % 2 ^ atomW w64
  | _ => true

/-- The sidecar that a write leaves on a page: format 0x00 and scale 127 where TYPED = 0 (R23). DEDUCED for an atomic, whose
format R274 leaves unchanged, as R23 says of every write (notes/assumptions/116.md). -/
def Access.kept (a : Access) (x : Side) : Side := if a.typed then x else { x with fmt := 0x00, scale := 127 }

/-- An atomic at its home (R62, R102, R274): `a.a` holds Reg(S2) and `a.b` Reg(D). Its release side comes before the block is
read, so that the read and the write are one operation (R140). -/
def State.atomic (s : State) (a : Access) : State :=
  let pa := paOf a.pa
  let (w, sc, rel) := atomicShape a.op
  let tag := (s.side pa).tag
  let (s1, b) := (if rel ∧ tag = tagPlain then s.partyRel a sc else s).readAt a.pol a.key pa
  match b with
  | none => s1.failAcc a .uncorrectable 0 0
  | some b =>
    if b.side.tag = tagPoisoned then s1.failAcc a .cellPoisoned 0 (poisonDetail b.data)
    else if b.side.tag ≠ tagPlain then s1.refuse a Cause.cellTag
    else
      let pos := pa % 64 * 8
      let (m', d, acq) := atomicResult a.op (Blk.fld b.data pos w) a.a.toNat a.b.toNat
      let s2 := if atomicWrites a.op (Blk.fld b.data pos w) a.a.toNat a.b.toNat then
          s1.putAt a.pol a.key pa ⟨Blk.put b.data pos w m', a.kept b.side⟩
        else s1
      (s2.modAcc a.id fun x => { x with noAcq := !acq }).answer a.id (ansG d)

/-- The instruction of an atomic: address and operands at issue, tokens and alignment (R263, R264). -/
def atomicIssue (s : State) (op : Instr) (usesD w64 : Bool) (d s1 s2 : Fin 16) (w : Wave) : State :=
  s.access op (some w) (s.g s1).val (s.g s2).val (s.g d).val 0 VReg.zero
    (s.opCheck ([s.g s1, s.g s2] ++ (if usesD then [s.g d] else [])) (s.g s1).val (atomW w64 / 8))

/-- AFADD (R274). -/
def execAfadd (sc : Scope) (w64 : Bool) (o : Ord4) (d s1 s2 : Fin 16) (w : Wave) (s : State) : Out :=
  .next (atomicIssue s (.afadd sc w64 o d s1 s2 w) true w64 d s1 s2 w)
/-- ACAS (R140, R274). -/
def execAcas (sc : Scope) (w64 : Bool) (o : Ord4) (ford : Bool) (d s1 s2 : Fin 16) (w : Wave) (s : State) : Out :=
  .next (atomicIssue s (.acas sc w64 o ford d s1 s2 w) true w64 d s1 s2 w)
/-- ASWAP (R274). -/
def execAswap (sc : Scope) (w64 : Bool) (o : Ord4) (d s1 s2 : Fin 16) (w : Wave) (s : State) : Out :=
  .next (atomicIssue s (.aswap sc w64 o d s1 s2 w) false w64 d s1 s2 w)
/-- AMIN (R274). -/
def execAmin (sc : Scope) (w64 : Bool) (o : Ord4) (sgn : Bool) (d s1 s2 : Fin 16) (w : Wave) (s : State) : Out :=
  .next (atomicIssue s (.amin sc w64 o sgn d s1 s2 w) false w64 d s1 s2 w)
/-- AMAX (R274). -/
def execAmax (sc : Scope) (w64 : Bool) (o : Ord4) (sgn : Bool) (d s1 s2 : Fin 16) (w : Wave) (s : State) : Out :=
  .next (atomicIssue s (.amax sc w64 o sgn d s1 s2 w) false w64 d s1 s2 w)
/-- AAND (R274). -/
def execAand (sc : Scope) (w64 : Bool) (o : Ord4) (d s1 s2 : Fin 16) (w : Wave) (s : State) : Out :=
  .next (atomicIssue s (.aand sc w64 o d s1 s2 w) false w64 d s1 s2 w)
/-- AOR (R274). -/
def execAor (sc : Scope) (w64 : Bool) (o : Ord4) (d s1 s2 : Fin 16) (w : Wave) (s : State) : Out :=
  .next (atomicIssue s (.aor sc w64 o d s1 s2 w) false w64 d s1 s2 w)

-- OBJECTS (R129, R268)

/-- Kind codes (R130). -/
def kLock : Nat := 1
def kFlag : Nat := 2
def kCounter : Nat := 3
def kBarrier : Nat := 4
def kRing : Nat := 5

/-- SCOPE of a sync-object operation. -/
def syncScope : Instr → Nat
  | .acqLockWait sc .. | .acqLockTry sc .. | .acqFlagWait _ sc .. | .acqFlagAny sc .. | .relLock sc .. | .relSet sc ..
  | .relAdd sc .. | .fenceRel sc .. | .fenceAcq sc .. | .fenceAr sc .. | .barr sc .. | .barrNowait sc .. | .sdec sc ..
  | .sinc sc .. | .rpush sc .. | .rpop sc .. => sc.val
  | _ => 4

/-- A field of the object at an address, as it is stored. -/
def State.objFld (s : State) (pa pos w : Nat) : Nat := Blk.fld (s.stored pa) pos w
/-- The object's block is written at its home under an access's policy and key id (R62, R64). -/
def State.objWrite (s : State) (a : Access) (b : Blk) : State := s.putAt a.pol a.key (paOf a.pa) ⟨b, ⟨0x00, 127, tagSync⟩⟩
/-- The object with a field written, within an operation that has read it. -/
def State.objPut (s : State) (pa pos w x : Nat) : State :=
  s.rewrite (s.keyOf 0 pa) pa ⟨Blk.put (s.stored pa) pos w x, ⟨0x00, 127, tagSync⟩⟩

/-- Whether an object is the FLAG of a launch queue that is served: it belongs to no context (R371). -/
def State.launchObj (s : State) (pa : Nat) : Bool := List.any s.mgmt.queues fun q => q.2.en && q.2.obj / 64 == pa / 64

/-- The first three checks of R269 on a block: tag, context, kind. The context of a launch queue's FLAG is not checked for
the H-die, and no context has it (R371, R427). -/
def State.objCheck (s : State) (a : Access) (b : Block) (kinds : List Nat) : Option (BitVec 8) :=
  if b.side.tag ≠ tagSync then some Cause.cellTag
  else if (if s.launchObj (paOf a.pa) then decide (a.actor ≠ hostKey) else decide (Blk.fld b.data 16 8 ≠ a.ctx)) then
    some Cause.syncState
  else if kinds.contains (Blk.fld b.data 0 8) then none
  else some Cause.cellTag

/-- An operation opens its object: the block is read at its home under the leaf's key (R27, R28), and the checks of R269 are
made on what it reads; `kinds` are the kinds that the operation takes. -/
def State.openObj (s : State) (a : Access) (kinds : Blk → List Nat) (ok : State → Blk → State) : State :=
  match s.readAt a.pol a.key (paOf a.pa) with
  | (s1, none) => s1.failAcc a .uncorrectable 0 0
  | (s1, some b) =>
    match s1.objCheck a b (kinds b.data) with
    | some c => s1.refuse a c
    | none => ok s1 b.data

/-- A release at its object: the actions of R68, then the block as it was read is written with RELSEQ advanced and under the
access's key (R269). What follows acts on that block. -/
def State.released (s : State) (a : Access) (b : Blk) : State :=
  (s.relActs a (syncScope a.op)).objWrite a (Blk.put b 32 32 (Blk.fld b 32 32 + 1))

/-- The accesses that wait at an object, in their order of joining (R270). -/
def State.objWaiters (s : State) (pa : Nat) : List Access :=
  s.accs.filter fun a => a.stage = .waiting && devOf a.pa == s.dev && paOf a.pa / 64 == pa / 64
    && !a.awaitsCell

/-- Entries of a die's sync wait table (R270). -/
def State.syncWaiting (s : State) (die : Nat) : Nat :=
  (s.accs.filter fun a => a.stage = .waiting && devOf a.pa == s.dev && homeDie (paOf a.pa) == die
    && !a.awaitsCell && isMemory a.op).length

/-- A request that waits joins the table of the object's die; when it is full it is held at the slice (R270). DEDUCED: an operation
that does not wait passes those that are held so, or a release could never reach the object (notes/assumptions/117.md). -/
def State.syncWait (s : State) (a : Access) : State :=
  if s.syncWaiting (homeDie (paOf a.pa)) < Config.syncWaits then s.joinWait a.id else s.holdHome a false

/-- Whether a virtual address of a context names the object at a device-physical address. -/
def State.names (s : State) (ctx : Nat) (va : Word) (pa : Nat) : Bool :=
  match (s.walk (homeDie pa) ctx va).2 with
  | .leaf l => l.device == s.dev && paOf (l.addr va) / 64 == pa / 64
  | _ => false

/-- The watchpoint records of a transition of the object at an address of a context, with the issuer's origin, and the object's PHASE
or VALUE in AUX (R366, DESIGN CHOICE, notes/assumptions/19.md). -/
def State.watchHit (s : State) (ctx pa : Nat) (o : Origin) (t : WatchTr) (x : Nat) : State :=
  match s.ctx? ctx with
  | none => s
  | some c =>
    c.watch.foldl (fun s w =>
      if w.2.tr = t ∧ s.names ctx w.2.obj pa then
        let cause : BitVec 8 := match t with | .arr => 0 | .last => 1 | .flip => 2
        let s1 := s.trapAux ctx (sliceKey (homeDie pa)) (record s.dev o .watchpoint cause (w.2.obj.toNat % 2 ^ 52)) (BitVec.ofNat 64 x)
        if w.2.once then s1.modCtx ctx fun c => { c with watch := Sparse.del c.watch w.1 } else s1
      else s) s

/-- The watchpoint records of the operation of an access that made a transition. -/
def State.watched (s : State) (a : Access) (t : WatchTr) (x : Nat) : State :=
  s.watchHit a.ctx (paOf a.pa) a.org t x

-- LOCK AND FLAG (R276, R277)

/-- SUB of an ACQ (R276). -/
def acqSub : Instr → Nat
  | .acqLockWait .. => 0
  | .acqLockTry .. => 1
  | .acqFlagWait c .. => match c with | .eq => 0 | .ne => 1 | .ge => 2
  | _ => 3

/-- The condition of a FLAG acquire on a value (R276). -/
def flagHolds (sub value v : Nat) : Bool :=
  match sub with
  | 0 => value == v
  | 1 => value != v
  | 2 => decide (v ≤ value)
  | _ => true

/-- Whether an ACQ or REL names a LOCK. -/
def isLockOp : Instr → Bool
  | .acqLockWait .. | .acqLockTry .. | .relLock .. => true
  | _ => false

/-- The kinds of object that an ACQ takes: SUB 0 and 1 mean a LOCK's or a FLAG's (R276); the operations of HSYNC name
their kind (R427). -/
def acqKinds (a : Access) (sub : Nat) : List Nat :=
  if a.actor = hostKey then (if isLockOp a.op then [kLock] else [kFlag])
  else if sub ≤ 1 then [kLock, kFlag] else [kFlag]

/-- The kinds of object that a REL takes (R277, R427); a completion object of an engine, or of a graph, is no LOCK (R351, R383). -/
def relKinds (a : Access) (add : Bool) : List Nat :=
  if a.actor = hostKey then (if isLockOp a.op then [kLock] else [kFlag])
  else if !a.hasL1 && !isLockOp a.op then [kFlag]
  else if add then [kFlag] else [kLock, kFlag]

/-- ACQ at home (R276): `a.a` holds Reg(S2). -/
def State.acquire (s : State) (a : Access) : State :=
  let sub (b : Blk) : Nat := if !a.hasL1 && a.actor < hostKey && Blk.fld b 0 8 == kFlag then 3 else acqSub a.op
  s.openObj a (fun b => acqKinds a (sub b)) fun s b =>
    if Blk.fld b 0 8 = kLock then
      if Blk.fld b 64 1 = 0 then (s.objWrite a (Blk.put b 64 1 1)).answer a.id (ansG 1)
      else if sub b = 1 then (s.modAcc a.id fun x => { x with noAcq := true }).answer a.id (ansG 0)
      else s.syncWait a
    else
      let v := Blk.fld b 64 64
      if flagHolds (sub b) v a.a.toNat then s.answer a.id (ansG (BitVec.ofNat 64 v)) else s.syncWait a

/-- Every FLAG waiter whose condition holds is answered, in order; says whether one was (R276). -/
def State.flagAnswer (s : State) (pa v : Nat) : State × Bool :=
  let ws := (s.objWaiters pa).filter fun w => flagHolds (acqSub w.op) v w.a.toNat
  (ws.foldl (fun s w => s.answer w.id (ansG (BitVec.ofNat 64 v))) s, !ws.isEmpty)

/-- REL at home (R277): `a.a` holds Reg(S2). -/
def State.release (s : State) (a : Access) : State :=
  let pa := paOf a.pa
  let add := match a.op with | .relAdd .. => true | _ => false
  s.openObj a (fun _ => relKinds a add) fun s b =>
    if Blk.fld b 0 8 = kLock then
      if Blk.fld b 64 1 = 0 then (s.relActs a (syncScope a.op)).refuse a Cause.syncState
      else
        let s2 := s.released a b
        match s2.objWaiters pa with
        | w :: _ => (s2.answer w.id (ansG 1)).answer a.id Answer.none
        | [] => (s2.objPut pa 64 1 0).answer a.id Answer.none
    else
      let old := Blk.fld b 64 64
      let v := (if add then old + a.a.toNat else a.a.toNat) % 2 ^ 64
      let s2 := (s.released a b).objPut pa 64 64 v
      let (s3, any) := s2.flagAnswer pa v
      let s4 := s3.watched a .arr v
      let s5 := if any then s4.watched a .last v else s4
      let s6 := if v ≠ old then s5.watched a .flip v else s5
      s6.answer a.id Answer.none

-- BARRIER (R278, R394)

/-- The bits 0..COUNT − 1. -/
def fullMask (n : Nat) : Nat := 2 ^ n - 1

/-- A phase completes when every participant has arrived or is withdrawn: PHASE advances, pending withdrawals take
effect and the waiters of the phase are answered (R278, R394). Says whether it did. -/
def State.barrierTest (s : State) (pa : Nat) : State × Bool :=
  let n := s.objFld pa 64 8
  let arrived := s.objFld pa 128 128
  let wd := s.objFld pa 256 128
  let ph := s.objFld pa 96 32
  if Nat.land (Nat.lor arrived wd) (fullMask n) = fullMask n then
    let s1 := ((s.objPut pa 96 32 (ph + 1)).objPut pa 128 128 0).objPut pa 256 128 (Nat.lor wd (s.objFld pa 384 128))
    let s2 := s1.objPut pa 384 128 0
    (((s2.objWaiters pa).filter fun w => w.aux == ph).foldl (fun s w => s.answer w.id (ansG (BitVec.ofNat 64 ph))) s2, true)
  else (s, false)

/-- BARR at home (R278): `a.a` holds the participant's index. A wait that a pre-emption has removed comes back with one
more than its phase in `a.b`: its arrival stands (R270). An arrival that would wait is held at the slice while the table is
full (R270). The party's first BARR on the object records a membership, of which it keeps up to 8 (R394). -/
def State.barrier (s : State) (a : Access) (wait : Bool) : State :=
  let pa := paOf a.pa
  s.openObj a (fun _ => [kBarrier]) fun s b =>
    let i := a.a.toNat
    let ph := Blk.fld b 96 32
    let arrived := Nat.lor (Blk.fld b 128 128) (2 ^ i)
    let full := fullMask (Blk.fld b 64 8)
    let closes : Bool := Nat.land (Nat.lor arrived (Blk.fld b 256 128)) full == full
    if wait ∧ a.b ≠ 0 then
      if ph = a.b.toNat - 1 then (s.modAcc a.id fun x => { x with aux := a.b.toNat - 1 }).syncWait a
      else s.answer a.id (ansG (a.b - 1))
    else if Blk.fld b 64 8 ≤ i ∨ (Blk.fld b 128 128).testBit i ∨ (Blk.fld b 256 128).testBit i then
      s.failAcc a .barrierOverarrive 0x01 i
    else if wait ∧ !closes ∧ Config.syncWaits ≤ s.syncWaiting (homeDie pa) then s.holdHome a false
    else
      let s1 := ((s.released a b).objPut pa 128 128 arrived).modAcc a.id fun x => { x with aux := ph }
      let s2 := s1.modActor a.actor fun u =>
        if (u.members.any fun m => m.1 == pa) ∨ 8 ≤ u.members.length then u else { u with members := u.members ++ [(pa, i)] }
      let s3 := if wait then s2.joinWait a.id else s2.answer a.id (ansG (BitVec.ofNat 64 ph))
      let (s4, done) := s3.barrierTest pa
      let ph' := s4.objFld pa 96 32
      let s5 := s4.watched a .arr ph'
      if done then (s5.watched a .last ph').watched a .flip ph' else s5

/-- BARRIER_WITHDRAWAL: a retired participant is withdrawn at once, or when the current phase completes if it has
arrived (R394). -/
def execBarrierWithdrawal (pa i : Nat) (s : State) : Out :=
  let (s, read) := s.openHead .uncached pa
  .next (
    if !read ∨ (s.side pa).tag ≠ tagSync ∨ s.objFld pa 0 8 ≠ kBarrier ∨ s.objFld pa 64 8 ≤ i then s
    else if (s.objFld pa 128 128).testBit i then s.objPut pa 384 128 (Nat.lor (s.objFld pa 384 128) (2 ^ i))
    else
      let s1 := s.objPut pa 256 128 (Nat.lor (s.objFld pa 256 128) (2 ^ i))
      let (s2, done) := s1.barrierTest pa
      if done then
        s2.watchHit (s2.objFld pa 16 8) pa ⟨5, homeDie pa, 0, 0, 0, 0, 0, 0, 0, 0⟩ .flip (s2.objFld pa 96 32)
      else s2)

-- COUNTER (R279)

/-- Whether a die's ready queue has an entry free (R377). -/
def State.readyRoom (s : State) (die : Nat) : Bool := (s.die die).ready.length < Config.readyEntries

/-- An entry enters a die's ready queue: it stands behind those that are older, by the cycle and then by the source (R377). -/
def State.enterReady (s : State) (die : Nat) (r : Ready) : State :=
  let older (x : Ready) : Bool := decide (x.since < r.since) || (x.since == r.since && decide (x.source ≤ r.source))
  s.modDie die fun d => { d with ready := d.ready.takeWhile older ++ r :: d.ready.dropWhile older }

/-- A counter's decrement to zero: DISPATCHES rises, and its task enters the ready queue of its die, cancelled when the counter
stands in the cancel table, which it leaves (R279, R377, R396). -/
def State.counterZero (s : State) (pa : Nat) : State :=
  let die := homeDie pa
  let cancelled := (s.die die).cancels.contains pa
  ((s.objPut pa 192 32 (s.objFld pa 192 32 + 1)).modDie die fun d => { d with cancels := d.cancels.filter (· != pa) }).enterReady die
    ⟨s.objFld pa 96 8, s.objFld pa 16 8, s.cycle, sliceOf pa, 0, some (BitVec.ofNat 64 (s.objFld pa 128 64)), cancelled, false⟩

/-- SDEC at home (R279): held at its slice while the ready queue is full and the count would reach zero. -/
def State.decrement (s : State) (a : Access) : State :=
  let pa := paOf a.pa
  s.openObj a (fun _ => [kCounter]) fun s b =>
    let n := a.a.toNat % 2 ^ 32
    let c := Blk.fld b 64 32
    if c < n then s.failAcc a .counterUnderflow 0 n
    else if 0 < n ∧ c = n ∧ !s.readyRoom (homeDie pa) then s.holdHome a true
    else
      let s1 := (s.released a b).objPut pa 64 32 (c - n)
      let s2 := if 0 < n ∧ c = n then s1.counterZero pa else s1
      s2.answer a.id (ansG (BitVec.ofNat 64 (c - n)))

/-- SINC at home (R279). -/
def State.increment (s : State) (a : Access) : State :=
  let pa := paOf a.pa
  s.openObj a (fun _ => [kCounter]) fun s b =>
    let n := a.a.toNat % 2 ^ 32
    let c := Blk.fld b 64 32
    if 2 ^ 32 - 1 < c + n then s.failAcc a .bounds Cause.counterRange 0
    else ((s.released a b).objPut pa 64 32 (c + n)).answer a.id (ansG (BitVec.ofNat 64 (c + n)))

-- RING (R280)

/-- The first waiter of one side is performed next (R270, R280). -/
def State.ringKick (s : State) (pa : Nat) (pops : Bool) : State :=
  match (s.objWaiters pa).find? fun w => match w.op with | .rpop .. => pops | .rpush .. => !pops | _ => false with
  | some w => (s.modAcc w.id fun x => { x with stage := .sent }).now (.homeAccess w.id)
  | none => s

/-- Whether an access is an RPOP. -/
def isPop : Instr → Bool | .rpop .. => true | _ => false

/-- Whether a ring, as it was read, has room for a push, or a slot for a pop. -/
def ringReady (obj : Blk) (pop : Bool) : Bool :=
  let n := (Blk.fld obj 128 32 + 2 ^ 32 - Blk.fld obj 160 32) % 2 ^ 32
  if pop then n != 0 else n != 2 ^ Blk.fld obj 116 5

/-- A ring operation is answered without its slot: where what it would have taken is still there, the next waiter of its side is
performed (R270, R280). -/
def State.failRing (s : State) (a : Access) (obj : Blk) (x : Answer) : State :=
  let s1 := s.answer a.id x
  if ringReady obj (isPop a.op) then s1.ringKick (paOf a.pa) (isPop a.op) else s1

/-- A slot of the ring, translated through the issuer's page table at the object's home: its address and leaf. A wait for a walk
holds the operation, and the object's later ones behind it (R35, R280). `obj` is the object as it was read. -/
def State.ringSlot (s : State) (a : Access) (obj : Blk) (idx : Nat) (p : Perm) (ok : State → Nat → Leaf → State) : State :=
  let va := BitVec.ofNat 64 (Blk.fld obj 64 52 + 64 * (idx % 2 ^ Blk.fld obj 116 5))
  let die := homeDie (paOf a.pa)
  let fails (s : State) (e : Err) (c : BitVec 8) (d : Nat) : State := s.failRing a obj (failAns a.op ⟨s.accRecord a e c d, true⟩)
  if a.aux = 8 then s.failRing a obj a.ans
  else
    let hold (x : Access) : Access := { x with heldAt := if x.heldAt = 0 then s.cycle else x.heldAt, holds := true }
    (s.modAcc a.id hold).lookUp (hold a) die va fun s1 l =>
      let ga := l.addr va
      match s1.leafCheck a.ctx l va p with
      | some (e, c) => fails s1 e c (vaDetail va 0)
      | none =>
        if devOf ga ≠ s.dev ∨ homeDie (paOf ga) ≠ die then fails s1 .bounds Cause.descriptor 0 else ok s1 (paOf ga) l

/-- The pair of a block that is written or delivered on a page (R23, R76). -/
def Leaf.pair (l : Leaf) (p : Pair) : Pair := if l.typed then p else Pair.raw

/-- RPUSH at home (R280). -/
def State.push (s : State) (a : Access) (nb : Bool) : State :=
  let pa := paOf a.pa
  s.openObj a (fun _ => [kRing]) fun s obj =>
    let prod := Blk.fld obj 128 32
    let cons := Blk.fld obj 160 32
    s.ringSlot a obj prod .store fun s slot l =>
      if (prod + 2 ^ 32 - cons) % 2 ^ 32 = 2 ^ Blk.fld obj 116 5 then
        if nb then s.answer a.id ⟨none, none, some false, none⟩ else s.syncWait a
      else
        let s1 := s.released a obj
        let q := l.pair (written a.data.pair)
        let b : Block := match (s.actor a.actor).item.bind (·.record) with
          | some r => poisoned r
          | none => ⟨a.data.val, ⟨q.fmt, q.scale, tagPlain⟩⟩
        let s2 := ((s1.putAt l.objPol l.key slot b).objPut pa 128 32 (prod + 1)).answer a.id ⟨none, none, some true, none⟩
        s2.ringKick pa true

/-- RPOP at home (R280). -/
def State.pop (s : State) (a : Access) (nb : Bool) : State :=
  let pa := paOf a.pa
  s.openObj a (fun _ => [kRing]) fun s obj =>
    let prod := Blk.fld obj 128 32
    let cons := Blk.fld obj 160 32
    if prod = cons then
      if nb then (s.modAcc a.id fun x => { x with noAcq := true }).answer a.id ⟨none, some VReg.zero, some false, none⟩
      else s.syncWait a
    else
      s.ringSlot a obj cons .load fun s slot l =>
        let (s1, b) := s.readAt l.objPol l.key slot
        let s2 := s1.objWrite a (Blk.put obj 160 32 (cons + 1))
        let ans : Answer := match b with
          | none => ⟨none, some ⟨0x05, Pair.raw⟩, some false, none⟩
          | some b => ⟨none, some ⟨b.data, l.pair ⟨b.side.fmt, b.side.scale⟩⟩, some (decide (b.side.tag ≠ tagPoisoned)), none⟩
        (s2.answer a.id ans).ringKick pa false

/-- The place of a request in the order in which its home takes requests: by the cycle of its arrival, then by its requester
(R60). -/
def State.arrival (s : State) (a : Access) : Nat := (if a.heldAt = 0 then s.cycle else a.heldAt) * 2 ^ 40 + requesterRank a

/-- A request waits behind an earlier one to its block whose operation is held at the home (R35, R60, R62, R279, R280). -/
def State.objHeld (s : State) (a : Access) : Bool :=
  s.accs.any fun y => y.id != a.id && y.holds && (decide (y.stage = .sent) || decide (y.stage = .walking)) && y.pa / 64 == a.pa / 64
    && (decide (s.arrival y < s.arrival a) || (s.arrival y == s.arrival a && decide (y.id < a.id)))

-- CREATION AND RETIREMENT (R271)

/-- The bits of each kind that STB.obj takes from the register, as (position, width), and the bits of all its fields. -/
def kindFields (k : Nat) : Option (List (Nat × Nat) × List (Nat × Nat)) :=
  match k with
  | 1 => some ([], [(64, 1)])
  | 2 => some ([(64, 64)], [(64, 64)])
  | 3 => some ([(64, 32), (96, 8), (128, 64)], [(64, 32), (96, 8), (128, 64), (192, 32)])
  | 4 => some ([(64, 8)], [(64, 8), (96, 32), (128, 128), (256, 128), (384, 128)])
  | 5 => some ([(64, 52), (116, 5)], [(64, 52), (116, 5), (128, 32), (160, 32)])
  | _ => none

/-- The mask of a list of fields. -/
def fieldMask (fs : List (Nat × Nat)) : Nat := (fs.map fun f => (2 ^ f.2 - 1) * 2 ^ f.1).sum

/-- The descriptor checks of STB.obj (R271). -/
def objBad (x : Blk) : Bool :=
  let k := Blk.fld x 0 8
  match kindFields k with
  | none => true
  | some (_, all) =>
    let v := x.toNat / 2 ^ 64 * 2 ^ 64
    Nat.land v (2 ^ 512 - 2 ^ 64 - fieldMask all) ≠ 0
    || (k = kBarrier && (Blk.fld x 64 8 = 0 || 128 < Blk.fld x 64 8))
    || (k = kRing && (16 < Blk.fld x 116 5 || Blk.fld x 64 6 ≠ 0))
    || (k = kCounter && Blk.fld x 128 6 ≠ 0)

/-- The block of a new object (R268, R271). -/
def newObject (x : Blk) (ctx : Nat) : Blk :=
  let k := Blk.fld x 0 8
  match kindFields k with
  | none => 0
  | some (cre, _) => BitVec.ofNat 512 (Nat.land x.toNat (fieldMask cre) + at_ ctx 16 8 + k)

/-- STB.obj at home (R271). -/
def State.createObj (s : State) (a : Access) : State :=
  let pa := paOf a.pa
  match s.readAt a.pol a.key pa with
  | (s1, none) => s1.failAcc a .uncorrectable 0 0
  | (s1, some b) =>
    if b.side.tag = tagPlain ∨ b.side.tag = tagPoisoned then
      (s1.objWrite a (newObject a.data.val a.ctx)).answer a.id Answer.none
    else s1.refuse a Cause.cellTag

/-- STB.unobj at home (R271). -/
def State.retireObj (s : State) (a : Access) : State :=
  let pa := paOf a.pa
  match s.readAt a.pol a.key pa with
  | (s1, none) => s1.failAcc a .uncorrectable 0 0
  | (s1, some b) =>
    if b.side.tag ≠ tagSync then s1.refuse a Cause.cellTag
    else if Blk.fld b.data 16 8 ≠ a.ctx ∨ s1.objWaiters pa ≠ [] then s1.refuse a Cause.syncState
    else (s1.putAt a.pol a.key pa ⟨0, Side.plain⟩).answer a.id Answer.none

/-- WATCH at the object's slice (R366). -/
def State.arm (s : State) (a : Access) (t : WatchTr) (once clr : Bool) (id : Nat) : State :=
  match s.readAt a.pol a.key (paOf a.pa) with
  | (s1, none) => s1.failAcc a .uncorrectable 0 0
  | (s1, some b) =>
    match s1.objCheck a b [kFlag, kBarrier] with
    | some _ => s1.refuse a Cause.cellTag
    | none =>
      let f (m : Sparse Watch) : Sparse Watch := if clr then Sparse.del m id else Sparse.set m id ⟨a.va, t, once⟩
      (s1.modCtx a.ctx fun c => { c with watch := f c.watch }).answer a.id (ansG 1)

-- BINDING (R131, R132, R275)

/-- BIND: the lowest free entry (R131, R275). DESIGN CHOICE: an object address that the entry's field cannot hold is refused
as a bad region is, and a bad region is reported before a full table (notes/assumptions/97.md). `a.a` is the region's base, `a.b` its length. -/
def State.bindEntry (s : State) (a : Access) : State :=
  match s.ctx? a.ctx with
  | none => s.answer a.id Answer.none
  | some c =>
    let len := a.b.toNat
    if a.a.toNat % 64 ≠ 0 ∨ len % 64 ≠ 0 ∨ len < 64 ∨ 2 ^ 40 < len ∨ 2 ^ 52 < a.a.toNat + len ∨ a.va.toNat % 64 ≠ 0
        ∨ 2 ^ 52 ≤ a.va.toNat then s.failAcc a .bounds Cause.descriptor 0
    else
      match (List.range 256).find? fun i => (Sparse.find? c.binds i).isNone with
      | none => s.failAcc a .bounds Cause.bindTableFull 0
      | some i =>
        (s.modCtx a.ctx fun c => { c with binds := Sparse.set c.binds i ⟨a.va, a.a, len⟩ }).answer a.id (ansG (BitVec.ofNat 64 i))

/-- UNBIND by entry (R275). -/
def State.unbindEntry (s : State) (a : Access) : State :=
  if 255 < a.a.toNat then s.failAcc a .bounds Cause.descriptor 0
  else (s.modCtx a.ctx fun c => { c with binds := Sparse.del c.binds a.a.toNat }).answer a.id Answer.none

/-- UNBIND by object (R275). -/
def State.unbindAll (s : State) (a : Access) : State :=
  (s.modCtx a.ctx fun c => { c with binds := c.binds.filter fun b => b.2.obj != a.va }).answer a.id Answer.none

/-- FENCE: the actions of its sides at its scope (R68, R275). -/
def State.fence (s : State) (a : Access) (rel acq : Bool) : State :=
  let sc := syncScope a.op
  let s1 := if rel then s.fenceRel a.tile a.ctx sc else s
  (if acq then s1.fenceAcq a.tile a.ctx sc else s1).answer a.id Answer.none

-- INSTRUCTIONS

/-- A sync-object instruction: object address, one g operand (R263, R264). -/
def syncIssue (s : State) (op : Instr) (s1 : Fin 16) (x : Option (Fin 16)) (w : Wave) : State :=
  let v := match x with | some r => (s.g r).val | none => 0
  s.access op (some w) (s.g s1).val v 0 0 VReg.zero
    (s.opCheck (s.g s1 :: (match x with | some r => [s.g r] | none => [])) (s.g s1).val 64)

/-- STB.obj (R271): the descriptor checks are made at issue. -/
def execStbObj (off : BitVec 8) (pol : Pol) (d s1 : Fin 16) (w : Wave) (s : State) : Out :=
  let va := address (s.g s1).val (.plain off) 64
  let pre := match s.opCheck [s.g s1] va 64 with
    | some t => some t
    | none =>
      if (s.v d).isTok then some (passV (s.v d))
      else if objBad (s.v d).val then some (s.tok .bounds Cause.descriptor 0) else none
  .next (s.access (.stbObj off pol d s1 w) (some w) va 0 0 0 (s.v d) pre)
/-- STB.unobj (R271). -/
def execStbUnobj (off : BitVec 8) (pol : Pol) (s1 : Fin 16) (w : Wave) (s : State) : Out :=
  let va := address (s.g s1).val (.plain off) 64
  .next (s.access (.stbUnobj off pol s1 w) (some w) va 0 0 0 VReg.zero (s.opCheck [s.g s1] va 64))
/-- BIND (R275). -/
def execBind (d s1 s2 : Fin 16) (w : Wave) (s : State) : Out :=
  .next (s.access (.bind d s1 s2 w) (some w) (s.g s1).val (s.g s2).val (s.g d).val 0 VReg.zero
    (s.opCheck [s.g s1, s.g s2, s.g d] 0 64))
/-- UNBIND (R275). -/
def execUnbind (s1 : Fin 16) (w : Wave) (s : State) : Out :=
  .next (s.access (.unbind s1 w) (some w) 0 (s.g s1).val 0 0 VReg.zero (s.opCheck [s.g s1] 0 64))
/-- UNBIND.obj (R275). -/
def execUnbindObj (s1 : Fin 16) (w : Wave) (s : State) : Out :=
  .next (s.access (.unbindObj s1 w) (some w) (s.g s1).val 0 0 0 VReg.zero (s.opCheck [s.g s1] 0 64))
/-- ACQ .wait, and .eq of a FLAG (R276). -/
def execAcqLockWait (sc : Scope) (d s1 s2 : Fin 16) (w : Wave) (s : State) : Out :=
  .next (syncIssue s (.acqLockWait sc d s1 s2 w) s1 (some s2) w)
/-- ACQ .try, and .ne of a FLAG (R276). -/
def execAcqLockTry (sc : Scope) (d s1 s2 : Fin 16) (w : Wave) (s : State) : Out :=
  .next (syncIssue s (.acqLockTry sc d s1 s2 w) s1 (some s2) w)
/-- ACQ of a FLAG with a condition (R276). -/
def execAcqFlagWait (c : FlagCond) (sc : Scope) (d s1 s2 : Fin 16) (w : Wave) (s : State) : Out :=
  .next (syncIssue s (.acqFlagWait c sc d s1 s2 w) s1 (some s2) w)
/-- ACQ .any (R276). -/
def execAcqFlagAny (sc : Scope) (d s1 s2 : Fin 16) (w : Wave) (s : State) : Out :=
  .next (syncIssue s (.acqFlagAny sc d s1 s2 w) s1 (some s2) w)
/-- REL of a LOCK (R277). -/
def execRelLock (sc : Scope) (s1 s2 : Fin 16) (w : Wave) (s : State) : Out :=
  .next (syncIssue s (.relLock sc s1 s2 w) s1 (some s2) w)
/-- REL .set (R277). -/
def execRelSet (sc : Scope) (s1 s2 : Fin 16) (w : Wave) (s : State) : Out :=
  .next (syncIssue s (.relSet sc s1 s2 w) s1 (some s2) w)
/-- REL .add (R277). -/
def execRelAdd (sc : Scope) (s1 s2 : Fin 16) (w : Wave) (s : State) : Out :=
  .next (syncIssue s (.relAdd sc s1 s2 w) s1 (some s2) w)
/-- FENCE.rel (R275). -/
def execFenceRel (sc : Scope) (w : Wave) (s : State) : Out :=
  .next (s.access (.fenceRel sc w) (some w) 0 0 0 0 VReg.zero none)
/-- FENCE.acq (R275). -/
def execFenceAcq (sc : Scope) (w : Wave) (s : State) : Out :=
  .next (s.access (.fenceAcq sc w) (some w) 0 0 0 0 VReg.zero none)
/-- FENCE.ar (R275). -/
def execFenceAr (sc : Scope) (w : Wave) (s : State) : Out :=
  .next (s.access (.fenceAr sc w) (some w) 0 0 0 0 VReg.zero none)
/-- BARR (R278). -/
def execBarr (sc : Scope) (d s1 s2 : Fin 16) (w : Wave) (s : State) : Out :=
  .next (syncIssue s (.barr sc d s1 s2 w) s1 (some s2) w)
/-- BARR.nowait (R278). -/
def execBarrNowait (sc : Scope) (d s1 s2 : Fin 16) (w : Wave) (s : State) : Out :=
  .next (syncIssue s (.barrNowait sc d s1 s2 w) s1 (some s2) w)
/-- SDEC (R279). -/
def execSdec (sc : Scope) (d s1 s2 : Fin 16) (w : Wave) (s : State) : Out :=
  .next (syncIssue s (.sdec sc d s1 s2 w) s1 (some s2) w)
/-- SINC (R279). -/
def execSinc (sc : Scope) (d s1 s2 : Fin 16) (w : Wave) (s : State) : Out :=
  .next (syncIssue s (.sinc sc d s1 s2 w) s1 (some s2) w)
/-- RPUSH (R280): a token as the data refuses it (R264). -/
def execRpush (sc : Scope) (nb : Bool) (pn : Fin 8) (s1 s2 : Fin 16) (w : Wave) (s : State) : Out :=
  let pre := match s.opCheck [s.g s1] (s.g s1).val 64 with
    | some t => some t
    | none => if (s.v s2).isTok then some (passV (s.v s2)) else none
  .next (s.access (.rpush sc nb pn s1 s2 w) (some w) (s.g s1).val 0 0 0 (s.v s2) pre)
/-- RPOP (R280). -/
def execRpop (sc : Scope) (nb : Bool) (pn : Fin 8) (d s1 : Fin 16) (w : Wave) (s : State) : Out :=
  .next (s.access (.rpop sc nb pn d s1 w) (some w) (s.g s1).val 0 0 0 VReg.zero (s.opCheck [s.g s1] (s.g s1).val 64))

end Sys2Proof.Machine
end

