-- ==== Sys2Proof/Machine/Engine.lean ====
section
/-! DEFINITION. The edge engines and their streams (R345 to R348), SSPEC and SBAR, and the accesses that every engine
makes. -/

namespace Sys2Proof.Machine

-- STREAM DESCRIPTORS (R345)

/-- A 64-bit field as a signed number. -/
def signed64 (x : Nat) : Int := if x < 2 ^ 63 then x else (x : Int) - 2 ^ 64

/-- DIR = 1. -/
def Stream.drain (t : Stream) : Bool := Blk.fld t.desc 0 1 = 1
/-- LIKELY. -/
def Stream.isLikely (t : Stream) : Bool := Blk.fld t.desc 1 1 = 1
/-- RESUME. -/
def Stream.resume (t : Stream) : Bool := Blk.fld t.desc 2 1 = 1
/-- STN. -/
def Stream.stn (t : Stream) : Nat := Blk.fld t.desc 5 6
/-- QUEUE. -/
def Stream.queue (t : Stream) : Nat := Blk.fld t.desc 11 3
/-- Flits per row, from ROWB. -/
def rowFlits (rowb : Nat) : Nat := 2 ^ rowb
/-- Flits per row of the stream. -/
def Stream.fl (t : Stream) : Nat := rowFlits (Blk.fld t.desc 14 2)
/-- GEN. -/
def Stream.gen (t : Stream) : Nat := Blk.fld t.desc 16 8
/-- ROWS. -/
def Stream.rows (t : Stream) : Nat := Blk.fld t.desc 32 9
/-- NITEMS. -/
def Stream.nitems (t : Stream) : Nat := Blk.fld t.desc 256 64
/-- WID of item i. -/
def Stream.wid (t : Stream) (i : Nat) : Word := BitVec.ofNat 64 (Blk.fld t.desc 320 64 + i * Blk.fld t.desc 384 64)
/-- The address of flit k of row r of item i. -/
def Stream.addr (t : Stream) (i r k : Nat) : Word :=
  BitVec.ofInt 64 ((Blk.fld t.desc 64 64 : Int) + i * signed64 (Blk.fld t.desc 192 64)
    + r * signed64 (Blk.fld t.desc 128 64) + 64 * k)

/-- Word 7 of the descriptor: C_ITEM, C_ROW, C_STATE and C_CODE. -/
def Stream.word7 (t : Stream) : Word :=
  BitVec.ofNat 64 (at_ t.item 0 32 + at_ t.row 32 9 + at_ t.state.toNat 48 8 + at_ t.code.toNat 56 8)

/-- A LIKELY stream that has not been committed (R347). -/
def Stream.speculative (t : Stream) : Bool := t.isLikely && !t.committed

-- ACCESSES OF ENGINES

/-- No firing: an engine's. -/
def engineFire (key : Nat) : Firing := { Firing.none with actor := key }

/-- An access that an engine makes: it takes part in no wave and is performed at once. -/
def State.engineAccess (s : State) (key ctx : Nat) (op : Instr) (va a : Word) (data : VReg) : State :=
  let x : Access := {
    id := s.nextAcc, actor := key, ctx := ctx, fire := engineFire key, org := if launchKey 0 ≤ key then launchOrigin (key - launchKey 0) else s.engineOrigin key, op := op, va := va, a := a, b := 0, c := 0,
    data := data, bulk := [], wave := none, order := s.nextAcc, stage := .accepted, failed := false, leaf := none,
    pa := noAddress, sentAt := 0, aux := 0, discard := false, noAcq := false, binds := [], ans := Answer.none }
  { s with nextAcc := s.nextAcc + 1, accs := s.accs ++ [x] }.startAcc x

/-- Whether an engine has an access outstanding. -/
def State.engineBusy (s : State) (key : Nat) : Bool := s.accs.any fun a => a.actor == key && !a.discard

/-- The no-wave triple of an engine's access. -/
def noWave : Wave := ⟨0, 0, 0⟩

/-- A load of a block by an engine. -/
def engineLoad (pol : Pol) : Instr := .ldb (.plain 0) pol 0 0 noWave
/-- A store of a block by an engine. -/
def engineStore (pol : Pol) : Instr := .stb (.plain 0) pol 0 0 noWave

/-- Translation for a request at an engine, a unit or a scheduler: through the die TLB, or by a walk for which it waits as any miss
does (R32, R35); then the checks of the leaf. -/
def State.viaLeaf (s : State) (a : Access) (va : Word) (p : Perm) (ok : State → Leaf → State) : State :=
  s.lookUp a a.die va fun s1 l =>
    match s1.leafCheck a.ctx l va p with
    | some (e, c) => s1.failAcc a e c (vaDetail va 0)
    | none => ok s1 l

/-- What another device answers to a read of a block by a unit: an unbacked offset has no block (R20); else its values are
free, a token among them (notes/assumptions/2.md). -/
def State.remoteRead (s : State) (va : Word) (ga : Nat) : State × ReadRes :=
  if unbacked (paOf ga) then (s, .token .translation Cause.unbacked (vaDetail va 0))
  else if Config.freeBool s.fresh then (s.drew, .given ((Config.freeBlk s.fresh).setWidth 256))
  else (s.drew, .block ⟨Config.freeBlk s.fresh, Side.plain⟩)

/-- A block that a unit of a die reads with its value (R102), under a policy: at the home, or through the die's RDC for a
remote home (R142). A line that the RDC holds in part keeps what it has (R57, R64). -/
def State.unitRead (s : State) (die ctx : Nat) (l : Leaf) (va : Word) (v : Pol) : State × ReadRes :=
  let ga := l.addr va
  let k := lineKey l.key ga
  let pol := stricter v l.policy
  let line := if s.localTo die ga then none else Sparse.find? (s.die die).rdc k
  let given (r : CLine) : ReadRes := .block ⟨r.data, ⟨r.pair.fmt, r.pair.scale, tagPlain⟩⟩
  match line.filter (·.full) with
  | some r => (s, given r)
  | none =>
    match (if devOf ga = s.dev then s.valueRead pol ctx (some l) va (paOf ga) else s.remoteRead va ga) with
    | (s1, .block b) =>
      let p : Pair := ⟨b.side.fmt, b.side.scale⟩
      (match line with
        | some r => (s1.modDie die fun d => { d with rdc := Sparse.set d.rdc k (r.fill b.data p) }, given (r.fill b.data p))
        | none =>
          (if pol = .cached ∧ !s.localTo die ga then s1.setRdc die k ((CLine.fresh l.key ctx l.imm).fill b.data p) else s1, .block b))
    | x => x

/-- A read by a unit that waits on no cell, of a record or a stream (R371): its block or its error. -/
def State.unitBlock (s : State) (die ctx : Nat) (l : Leaf) (va : Word) (v : Pol) : State × Except (Err × BitVec 8 × Nat) Block :=
  let (s1, r) := s.unitRead die ctx l va v
  (s1, match r with
    | .block b => .ok b
    | .token e c d => .error (e, c, d)
    | .given r => .error (.cellPoisoned, 0, r.toNat % 2 ^ 64)
    | _ => .error (.permission, Cause.cellTag, vaDetail va 0))

/-- An engine's read of a descriptor or a card for an access: it launches or joins the evaluation of a cell, and is made again
when the cell has its value (R102). -/
def State.cardBlock (s : State) (a : Access) (l : Leaf) (va : Word) (ok : State → Block → State) : State :=
  let at_ (s : State) : State := s.modAcc a.id fun x => { x with leaf := some l, pa := l.addr va, aux := 0 }
  match s.unitRead a.die a.ctx l va .cached with
  | (s1, .block b) => ok s1 b
  | (s1, .token e c d) => s1.failAcc a e c d
  | (s1, .given r) => s1.answer a.id (failAns a.op ⟨r, true⟩)
  | (s1, .touch) => (at_ s1).now (.firstTouch a.id)
  | (s1, .join) => (at_ s1).now (.waiterJoin a.id)

/-- The store that writes the bytes of a mask of 2, 4, 8 or 64 bytes: the instruction, its place in the block and its data. -/
def maskStore (x : Blk) (mask : BitVec 64) : Instr × Nat × VReg :=
  let i := ((List.range 64).find? fun i => mask.getLsbD i).getD 0
  let n := (List.range 64).countP fun i => mask.getLsbD i
  let d : VReg := ⟨BitVec.ofNat 512 (x.toNat / 2 ^ (8 * i)), Pair.raw⟩
  let st (ty : IntTy) : Instr := .st ty (.plain 0) .cached 0 0 noWave
  (if n = 64 then engineStore .cached else if n = 8 then st .i64 else if n = 4 then st .i32 else st .i16, i, d)

/-- A write of some bytes of a block by a unit at its home under a policy (R23, R63, R66), and the error that it meets: an offset of
another device without a block among them (R20). On a page that migrates it waits as a store of the unit (R35). -/
def State.unitStore (s : State) (die ctx : Nat) (pol : Pol) (va : Word) (x : Blk) (mask : BitVec 64) :
    State × Option (Err × BitVec 8 × Nat) :=
  match s.translate die ctx va .store with
  | (s1, .leaf l) =>
    let ga := l.addr va
    let s2 := s1.dropRdc die (lineKey l.key ga)
    if devOf ga = s.dev then
      let (s3, e) := s2.homeWrite (stricter pol l.policy) l.key (paOf ga) x mask (if l.typed then none else some Pair.raw)
      (s3, e.map fun e => (e.1, e.2, if e.1 = .permission then vaDetail va 0 else 0))
    else match s2.routePort (devOf ga) with
      | some p => (s2.sendFrame p x, if unbacked (paOf ga) then some (.translation, Cause.unbacked, vaDetail va 0) else none)
      | none => (s2, some (.link, Cause.port, 0))
  | (s1, .mig _) =>
    let (op, i, d) := maskStore x mask
    (s1.engineAccess (launchKey die) ctx op (BitVec.ofNat 64 (va.toNat / 64 * 64 + i)) 0 d, none)
  | (s1, .fail e c d) => (s1, some (e, c, d))

/-- The same under the page's policy, for a write whose failure has no reader. -/
def State.unitWrite (s : State) (die ctx : Nat) (va : Word) (x : Blk) (mask : BitVec 64) : State :=
  (s.unitStore die ctx .cached va x mask).1

-- ENGINES AND THEIR STREAMS

/-- The edge engine's record. -/
def State.edge (s : State) (die n : Nat) : Edge := Sparse.get (s.die die).edges ⟨none, 0, none⟩ n
/-- The state with an edge engine replaced. -/
def State.setEdge (s : State) (die n : Nat) (e : Edge) : State :=
  s.modDie die fun d => { d with edges := Sparse.set d.edges n e }
/-- The state with an edge engine's stream replaced. -/
def State.setStream (s : State) (die n : Nat) (t : Stream) : State :=
  s.setEdge die n { s.edge die n with stream := some t }
/-- Whether an engine is free: it has no stream, or one that has ended (R346). -/
def Edge.free (e : Edge) : Bool := match e.stream with | some t => t.state ≠ 0 | none => true

/-- The tile of a station of a line. -/
def Line.tileOf (l : Line) (stn : Nat) : Option Nat := (l.stns.find? fun x => x.1 == stn).map (·.2)

/-- Requests that wait at a die's engines are performed next, in their order (R346). -/
def State.kickWaiting (s : State) (die : Nat) (p : Access → Bool) : State :=
  let ws := s.accs.filter fun a =>
    a.stage = .waiting && !a.awaitsCell && p a && (match a.op with | .sspec .. => a.die == die | _ => true)
  (ws.reverse.foldl (fun s a => (s.modAcc a.id fun x => { x with stage := .sent }).now (.homeAccess a.id)) s)

/-- Whether an access waits for an edge engine or its stream. -/
def edgeWait (a : Access) : Bool :=
  match a.op with
  | .sspec .. | .sbarWait .. | .sbarStop .. => true
  | _ => false

/-- COMMIT is written back into the descriptor (R345, R347). -/
def State.writeCommit (s : State) (die : Nat) (t : Stream) : State :=
  s.unitWrite die t.ctx t.descVa (BitVec.ofNat 512 (t.word7.toNat * 2 ^ 448)) (maskAt 56 8)

/-- A stream ends: COMMIT is written and the engine frees (R346, R347). -/
def State.endStream (s : State) (die n : Nat) (t : Stream) (st code : BitVec 8) : State :=
  let t' := { t with state := st, code := code, likely := [], rowBuf := [] }
  let s1 := ((s.setStream die n t').writeCommit die t').kickWaiting die edgeWait
  { s1 with accs := s1.accs.map fun a => if a.actor = engineKey die n then { a with discard := true } else a }

/-- The sink that a drain serves. -/
def Line.sinkOf (l : Line) (stn oq : Nat) : Option Sink := l.sinks.find? fun k => k.stn == stn && k.oq == oq

/-- The item that stands at the sink of a drain. -/
def State.drainItem (s : State) (t : Stream) : Option Desc :=
  ((s.line? t.line).bind fun l => l.sinkOf t.stn t.queue).bind fun k => k.out.head?

/-- The record of a stream fault: the origin is the engine, with the WID and SEQ of the item in hand (R399); the detail is the
faulting address (R408), with the level of R37 where the error has one. DEDUCED: the code of a reserved format, which R77 puts into
DETAIL too, stands above the address (notes/assumptions/118.md). -/
def State.streamRecord (s : State) (die n : Nat) (t : Stream) (i : Nat) (va : Word) (r : BitVec 256) : BitVec 256 :=
  let code := r.toNat % 256
  let detail := if code = 3 ∨ code = 4 then r.toNat / 2 ^ 192
    else if code = 6 then va.toNat % 2 ^ 52 + r.toNat / 2 ^ 192 % 2 ^ 8 * 2 ^ 56 else va.toNat % 2 ^ 52
  let (wid, seq) := match s.drainItem t with
    | some d => if t.drain then (d.h.wid, d.h.seq) else (t.wid i, t.seq.getD 0)
    | none => (t.wid i, t.seq.getD 0)
  recordOf s.dev { s.engineOrigin (engineKey die n) with wid := wid.toNat, seq := seq.toNat } code (BitVec.ofNat 8 (r.toNat / 2 ^ 8))
    detail

/-- The engine's next look at its stream. -/
def State.kickStream (s : State) (die n : Nat) : State := s.after 1 (.streamElement die n)

-- FEEDS

/-- The element and flit that a feed loads next, as (item, row, flit) (R347). -/
def Stream.loadPos (t : Stream) : Nat × Nat × Nat :=
  let k := t.likely.length
  let e := t.item * t.rows + t.row + k / t.fl
  (e / t.rows, e % t.rows, k % t.fl)

/-- Blocks cut into bursts, from the first: blocks of one pair, at most 64 (R70). -/
def bursts : (cur : List VReg) → List VReg → List (List VReg)
  | cur, [] => if cur = [] then [] else [cur]
  | cur, x :: r =>
    match cur.head? with
    | none => bursts [x] r
    | some y => if y.pair = x.pair ∧ cur.length < 64 then bursts (cur ++ [x]) r else cur :: bursts [x] r

/-- The entries of blocks that a port sends behind the headers of their bursts: BLEN counts the burst's blocks; LOT, and LOK,
stand on the last burst when it ends the item (R70, R71, R76, R249, R250). -/
def burstEntries (h : Hdr) (lok ends unseq : Bool) (flits : List VReg) : List Entry :=
  let bs := bursts [] (flits.map fun x => { x with pair := written x.pair })
  bs.zipIdx.flatMap fun b =>
    let fin := ends && b.2 + 1 == bs.length
    let p := (b.1.headD VReg.zero).pair
    let hd := { h with blen := BitVec.ofNat 7 b.1.length, lot := fin, lok := lok && fin, scale := p.scale, fmt := p.fmt }
    b.1.zipIdx.map fun x => ⟨hd, x.1.val, false, fin && x.2 + 1 == b.1.length, unseq⟩

/-- The header of a feed's flits (R345). -/
def Stream.hdr (t : Stream) (tag : Nat) (first : Nat) : Hdr :=
  { HState.zero.hdr with
    wid := t.wid t.item, rows := BitVec.ofNat 9 (t.rows - first), rtag := BitVec.ofNat 3 tag, seq := (t.seq.getD 0) }

/-- The row at which the item in progress began. -/
def Stream.firstRow (t : Stream) : Nat := if t.resumed then Blk.fld t.desc 480 9 else 0

/-- A feed's bare token entry: it ends the item, whose header it has (R400). -/
def poisonEntry (t : Stream) (tag : Nat) (r : BitVec 256) : Entry :=
  ⟨{ t.hdr tag t.firstRow with err := r, poi := true, lot := true }, 0, true, true, t.seq.isNone⟩

/-- An item's description as its head station takes it. -/
def feedDesc (t : Stream) (key : Nat) (r : Option (BitVec 256)) : Desc :=
  ⟨⟨t.wid t.item, 0, 0, BitVec.ofNat 9 (t.rows - t.firstRow), 0, false⟩, r, false, false, key, [], t.fl, false⟩

/-- The bay tile that reworks the item of a SEQ for a station and still takes its flits (R171). -/
def State.bayTaking (s : State) (line stn : Nat) (seq : BitVec 48) : Option Nat :=
  (List.find? (fun a : Nat × Actor => a.2.kind = .bay && a.2.line == line && a.2.stn == stn &&
    (match a.2.item with | some i => i.desc.h.seq == seq && !i.drop | none => false)) s.actors).map (·.2.tile)

/-- An entry reaches a station's queue: it enters while its item is the current one or waits to be taken; with its item in
the bay it goes there; otherwise its item has ended and it is discarded (R171, R250). Rows beyond the bound of the item's shape record are
discarded too (R219). -/
def State.placeEntry (s : State) (line stn tile q : Nat) (e : Entry) : State :=
  let a := s.actor (stationKey line stn)
  let beyond : Bool := match a.item with
    | some i => i.desc.h.seq == e.hdr.seq && !e.unseq && i.limits.any fun x => x.1 == q &&
        decide (x.2 ≤ (a.retained.filter fun r => r.1 == q && r.2.hdr.seq == e.hdr.seq).length +
          ((s.tile tile).queue q |>.filter fun r => r.hdr.seq == e.hdr.seq).length)
    | none => false
  if beyond then s else
  let here : Bool := e.unseq || (match a.item with | some i => i.desc.h.seq == e.hdr.seq && !i.drop | none => false)
    || (Sparse.get a.arrive [] q).any fun d => d.h.seq == e.hdr.seq
  if here then s.modTile tile fun x => x.setQueue q (x.queue q ++ [e])
  else
    match s.bayTaking line stn e.hdr.seq with
    | some b => s.modTile b fun x => x.setQueue q (x.queue q ++ [{ e with hdr := { e.hdr with unf := true } }])
    | none => s

/-- Entries enter STN's queue; the first of an item announces it to the station. -/
def State.enterQueue (s : State) (t : Stream) (key tile : Nat) (es : List Entry) (first : Option (BitVec 256) → Option Desc)
    (r : Option (BitVec 256)) : State :=
  let s1 := es.foldl (fun s e => s.placeEntry t.line t.stn tile t.queue e) s
  let s2 := match first r with
    | some d => s1.modActor (stationKey t.line t.stn) fun a =>
        { a with arrive := Sparse.set a.arrive t.queue (Sparse.get a.arrive [] t.queue ++ [d]) }
    | none => s1
  s2.moved key es.length

/-- A feed sends what its buffer holds, when the queue has room (R347). -/
def State.sendRow (s : State) (die n : Nat) (t : Stream) (tile tag : Nat) : State :=
  let key := engineKey die n
  let room := Config.queueFlits - ((s.tile tile).queue t.queue).length
  let start := t.row = t.firstRow
  let row := t.likely.take t.fl
  let desc (r : Option (BitVec 256)) : Option Desc := if start then some (feedDesc t key r) else none
  match row.findSome? (·.2) with
  | some r =>
    if room = 0 then s.kickStream die n
    else
      let s1 := s.enterQueue t key tile [poisonEntry t tag r] desc (some r)
      s1.endStream die n t 2 (BitVec.ofNat 8 r.toNat)
  | none =>
    if row.length < t.fl then s
    else if room < t.fl then s.kickStream die n
    else
      let last := t.row + 1 = t.rows
      let es := burstEntries (t.hdr tag t.firstRow) false last t.seq.isNone
        (row.map fun x => ⟨x.1.data, ⟨x.1.hdr.fmt, x.1.hdr.scale⟩⟩)
      let s1 := s.enterQueue t key tile es desc none
      let t' := { t with
        item := if last then t.item + 1 else t.item
        row := if last then 0 else t.row + 1
        resumed := if last then false else t.resumed
        seq := if last then none else t.seq
        likely := t.likely.drop t.fl }
      (s1.setStream die n t').kickStream die n

/-- A feed loads the next flit of its buffer: one row, or 256 flits of a LIKELY stream (R347). -/
def State.loadFlit (s : State) (die n : Nat) (t : Stream) : State :=
  let (i, r, k) := t.loadPos
  let cap := if t.speculative then 256 else t.fl
  if cap ≤ t.likely.length ∨ t.nitems ≤ i ∨ t.likely.any (·.2.isSome) then s
  else s.engineAccess (engineKey die n) t.ctx (engineLoad (polCode (Blk.fld t.desc 3 2))) (t.addr i r k) 0 VReg.zero

-- DRAINS

/-- The line with a sink changed. -/
def Line.modSink (l : Line) (stn oq : Nat) (f : Sink → Sink) : Line :=
  { l with sinks := l.sinks.map fun k => if k.stn = stn ∧ k.oq = oq then f k else k }

/-- A drain's item is stored: the next one follows. -/
def State.drainNext (s : State) (die n : Nat) (t : Stream) : State :=
  ((s.modLine t.line fun l => l.modSink t.stn t.queue fun k => { k with out := k.out.drop 1 }).setStream die n
    { t with item := t.item + 1, row := 0, rowBuf := [] }).kickStream die n

/-- A drain's item has more rows than ROWS: the rest is not stored, and a record says so (notes/assumptions/61.md). -/
def State.shapeOver (s : State) (die n : Nat) (t : Stream) (d : Desc) : State :=
  let key := engineKey die n
  let r := record s.dev { s.engineOrigin key with wid := d.h.wid.toNat, seq := d.h.seq.toNat } .shapeOverrun 0 0
  (s.trapAux t.ctx key r (match s.line? t.line with | some l => l.counter.setWidth 64 | none => 0)).drainNext die n t

/-- A row is stored: the next row of the item follows, or the next item (R347). -/
def State.rowStored (s : State) (die n : Nat) (t : Stream) : State :=
  match s.drainItem t with
  | none => s.drainNext die n t
  | some d =>
    if d.record.isSome ∨ d.flits.length ≤ (t.row + 1) * t.fl then s.drainNext die n t
    else if t.rows ≤ t.row + 1 then s.shapeOver die n t d
    else (s.setStream die n { t with rowBuf := [], row := t.row + 1 }).now (.streamElement die n)

/-- A drain stores the next flit of the item that stands at its sink (R345). -/
def State.storeFlit (s : State) (die n : Nat) (t : Stream) : State :=
  let key := engineKey die n
  let store (t : Stream) (k : Nat) (x : VReg) : State :=
    (s.setStream die n t).engineAccess key t.ctx (engineStore (polCode (Blk.fld t.desc 3 2))) (t.addr t.item t.row k) 0 x
  match s.drainItem t with
  | none => s
  | some d =>
    match d.record with
    | some r => store { t with rowBuf := [VReg.zero] } 0 ⟨r.setWidth 512, Pair.token⟩
    | none =>
      let row := (d.flits.drop (t.row * t.fl)).take t.fl
      if row = [] then s.drainNext die n t
      else if t.rows ≤ t.row then s.shapeOver die n t d
      else
        let left := if t.rowBuf = [] then row else t.rowBuf
        match left with
        | x :: _ => store { t with rowBuf := left } (row.length - left.length) x
        | [] => s

-- ELEMENTS

/-- Whether a record of a writer's waits for a full ring, which stalls the writer (R406). -/
def State.stalls (s : State) (key : Nat) : Bool := s.traps.any fun t => t.writer == key && decide (t.since < s.cycle)

/-- STREAM_ELEMENT: the engine goes on with its stream (R347, R348); a stop lets go what a LIKELY feed has buffered behind the row in
progress. -/
def execStreamElement (die engine : Nat) (s : State) : Out :=
  .next (match s.edgeStream die engine with
    | none => s
    | some t =>
      if t.state ≠ 0 ∨ s.engineBusy (engineKey die engine) then s
      else if s.stalls (engineKey die engine) then s.kickStream die engine
      else
        let t := if t.stopReq && !t.drain && !t.speculative then { t with likely := t.likely.take t.fl } else t
        let mid := if t.drain then t.rowBuf ≠ [] else !t.speculative && decide (t.likely ≠ [])
        if t.stopReq ∧ !mid then s.endStream die engine t 3 0
        else if t.nitems ≤ t.item then s.endStream die engine t 1 0
        else
          match s.line? t.line with
          | none => s.endStream die engine t 3 0
          | some l =>
            if (!l.running || (l.draining.isSome && !t.drain)) && !mid then s
            else if t.drain then s.storeFlit die engine t
            else
              match l.tileOf t.stn with
              | none => s
              | some tile =>
                let tag := match mapEntry (s.tile tile).iqmap t.queue with | some (_, g) => g | none => 0
                let full := t.fl ≤ t.likely.length ∨ t.likely.any (·.2.isSome)
                if !t.speculative ∧ full then s.sendRow die engine t tile tag else s.loadFlit die engine t)

/-- The answer of an engine's access reaches its stream (R347). -/
def State.streamAnswer (s : State) (die n : Nat) (a : Access) : State :=
  match s.edgeStream die n with
  | none => s
  | some t =>
    let s0 := { s with accs := s.accs.filter fun x => x.id != a.id }
    match a.ans.tok with
    | some k =>
      let (i, _, _) := t.loadPos
      let r := s.streamRecord die n t (if t.drain then t.item else i) a.va k.record
      if t.drain then
        (s0.trapAux t.ctx (engineKey die n) r (match s.line? t.line with | some l => l.counter.setWidth 64 | none => 0)).endStream
          die n t 2 (BitVec.ofNat 8 r.toNat)
      else
        (s0.setStream die n { t with likely := t.likely ++ [(⟨HState.zero.hdr, 0, true, true, false⟩, some r)] }).now
          (.streamElement die n)
    | none =>
      if t.drain then
        let s1 := s0.moved (engineKey die n) 1
        match t.rowBuf with
        | _ :: x :: r => (s1.setStream die n { t with rowBuf := x :: r }).now (.streamElement die n)
        | _ => s1.rowStored die n t
      else
        let x := a.ans.v.getD VReg.zero
        let h : Hdr := { HState.zero.hdr with fmt := x.pair.fmt, scale := x.pair.scale }
        (s0.setStream die n { t with likely := t.likely ++ [(⟨h, x.val, false, false, false⟩, none)] }).now
          (.streamElement die n)

-- SSPEC

/-- The checks of R346 on a descriptor. -/
def specOk (s : State) (line : Nat) (b : Blk) : Bool :=
  let rowb := Blk.fld b 14 2
  let rows := Blk.fld b 32 9
  Blk.fld b 41 23 = 0 && Blk.fld b 489 7 = 0 && rowb ≠ 3 && 1 ≤ rows && rows ≤ 256 && rows * rowFlits rowb ≤ 256
  && 1 ≤ Blk.fld b 256 64 && Blk.fld b 256 64 ≤ 2 ^ 32
  && !(Blk.fld b 0 1 = 1 && Blk.fld b 1 1 = 1)
  && Blk.fld b 64 6 = 0 && Blk.fld b 128 6 = 0 && Blk.fld b 192 6 = 0
  && (Blk.fld b 24 8 < 32 || Blk.fld b 24 8 = 255)
  && (match (s.line? line).bind fun l => l.tileOf (Blk.fld b 5 6) with
      | none => false
      | some t => (mapEntry (if Blk.fld b 0 1 = 1 then (s.tile t).oqmap else (s.tile t).iqmap) (Blk.fld b 11 3)).isSome)

/-- The line of a firing unit, when it has one. -/
def State.lineOf (s : State) (key : Nat) : Option Nat :=
  let a := s.actor key
  if key < 32768 ∧ (s.line? a.line).isSome then some a.line else none

/-- SSPEC starts a stream on an engine (R346). -/
def State.startStream (s : State) (a : Access) (n line tile : Nat) (b : Blk) : State :=
  let die := a.die
  let e := s.edge die n
  let tk := e.ticket + 1
  let resume := Blk.fld b 2 1 = 1
  let t : Stream := {
    desc := b, descVa := a.va, ctx := a.ctx, line := line, tile := tile, ticket := tk,
    item := if resume then Blk.fld b 448 32 else 0
    row := if resume ∧ Blk.fld b 480 9 < Blk.fld b 32 9 then Blk.fld b 480 9 else 0
    resumed := resume, stopReq := false, committed := false, seq := none, rowBuf := [], likely := [], state := 0, code := 0 }
  let s1 := s.setEdge die n ⟨some t, tk, e.stream⟩
  let s2 := if t.drain then
      s1.modLine line fun l => if (l.sinkOf t.stn t.queue).isSome then l
        else { l with sinks := l.sinks ++ [⟨t.stn, t.queue, false, l.seqBase, [], [], [], 0, []⟩] }
    else s1
  ((s2.writeCommit die t).answer a.id (ansG (BitVec.ofNat 64 (die * 32 + n + t.gen * 2 ^ 8 + tk.toNat * 2 ^ 16)))).now
    (.streamElement die n)

/-- SSPEC at the engines of its die (R346). -/
def State.sspec (s : State) (a : Access) : State :=
  match s.lineOf a.actor with
  | none => s.failAcc a .permission Cause.noLine (vaDetail a.va 0)
  | some line =>
    s.viaLeaf a a.va .sync fun s l =>
      s.cardBlock a l a.va fun s1 b =>
        if !specOk s1 line b.data then s1.failAcc a .bounds Cause.descriptor 0
        else
          let want := Blk.fld b.data 24 8
          let n := if want = 255 then (List.range 32).find? fun i => (s1.edge a.die i).free
            else if (s1.edge a.die want).free then some want else none
          match n with
          | some n => s1.startStream a n line a.tile b.data
          | none => s1.joinWait a.id

-- SBAR (R348)

/-- The stream that a handle names: the engine's current or its previous one. -/
def State.handleStream (s : State) (h : Word) : Option (Nat × Nat × Stream × Bool) :=
  if h.toNat / 2 ^ 32 ≠ 0 ∨ h.getLsbD 7 then none
  else
    let die := h.toNat / 32 % 4
    let n := h.toNat % 32
    let e := s.edge die n
    let is (t : Stream) : Bool := t.ticket.toNat == h.toNat / 2 ^ 16 % 2 ^ 16 && t.gen == h.toNat / 2 ^ 8 % 2 ^ 8
    match e.stream with
    | none => none
    | some t =>
      if is t then some (die, n, t, true)
      else match e.prev with
        | some p => if is p then some (die, n, p, false) else none
        | none => none

/-- Word 7 of the stream on an engine. -/
def State.answerWord7 (s : State) (a : Access) (die n : Nat) : State :=
  s.answer a.id (ansG (match s.edgeStream die n with | some t => t.word7 | none => 0))

/-- SBAR at the engine (R347, R348): `a.a` holds the handle, `a.b` the generation. -/
def State.sbar (s : State) (a : Access) : State :=
  match s.handleStream a.a with
  | none => s.failAcc a .bounds Cause.descriptor 0
  | some (die, n, t, cur) =>
    let was := s.answer a.id (ansG t.word7)
    if !cur ∨ t.state ≠ 0 then was
    else
      match a.op with
      | .sbarWait .. => s.joinWait a.id
      | .sbarCommit .. =>
        if !t.speculative then was
        else if a.b.toNat % 256 = t.gen then
          ((s.setStream die n { t with committed := true }).now (.streamElement die n)).answerWord7 a die n
        else (s.endStream die n t 4 0).answerWord7 a die n
      | .sbarFlush .. => if t.speculative then (s.endStream die n t 4 0).answerWord7 a die n else was
      | .sbarStop .. => ((s.setStream die n { t with stopReq := true }).now (.streamElement die n)).joinWait a.id
      | _ => was

/-- Every stream of a line is asked to stop after its element in progress (R362, R409). -/
def State.stopStreams (s : State) (line : Nat) (feedsOnly : Bool) : State :=
  s.dies.foldl (fun s d =>
    d.2.edges.foldl (fun s e =>
      match e.2.stream with
      | some t =>
        if t.line = line ∧ t.state = 0 ∧ !(feedsOnly && t.drain) then
          (s.setStream d.1 e.1 { t with stopReq := true }).now (.streamElement d.1 e.1)
        else s
      | none => s) s) s

-- INSTRUCTIONS

/-- An instruction of R344, which takes part in no wave. -/
def unitIssue (s : State) (op : Instr) (va a b : Word) (gs : List GReg) (size : Nat) : State :=
  s.access op none va a b 0 VReg.zero (s.opCheck gs va size)

/-- SSPEC (R346). -/
def execSspec (d s1 : Fin 16) (s : State) : Out :=
  .next (unitIssue s (.sspec d s1) (s.g s1).val 0 0 [s.g s1] 64)
/-- SBAR.wait (R348). -/
def execSbarWait (d s1 : Fin 16) (s : State) : Out :=
  .next (unitIssue s (.sbarWait d s1) 0 (s.g s1).val 0 [s.g s1] 1)
/-- SBAR.commit (R348). -/
def execSbarCommit (d s1 s2 : Fin 16) (s : State) : Out :=
  .next (unitIssue s (.sbarCommit d s1 s2) 0 (s.g s1).val (s.g s2).val [s.g s1, s.g s2] 1)
/-- SBAR.flush (R348). -/
def execSbarFlush (d s1 : Fin 16) (s : State) : Out :=
  .next (unitIssue s (.sbarFlush d s1) 0 (s.g s1).val 0 [s.g s1] 1)
/-- SBAR.stop (R348). -/
def execSbarStop (d s1 : Fin 16) (s : State) : Out :=
  .next (unitIssue s (.sbarStop d s1) 0 (s.g s1).val 0 [s.g s1] 1)
/-- SBAR.query (R348). -/
def execSbarQuery (d s1 : Fin 16) (s : State) : Out :=
  .next (unitIssue s (.sbarQuery d s1) 0 (s.g s1).val 0 [s.g s1] 1)

end Sys2Proof.Machine
end

