-- ==== Sys2Proof/Machine/Copy.lean ====
section
/-! DEFINITION. Job cards, the task scheduler, the copy engines, promises (R141, R142, R349 to R355), and their
instructions. -/

namespace Sys2Proof.Machine

-- CARDS (R349)

/-- A field of a card. -/
def cardFld (c : BitVec 2048) (pos w : Nat) : Nat := c.toNat / 2 ^ pos % 2 ^ w
/-- KIND. -/
def cKind (c : BitVec 2048) : Nat := cardFld c 0 8
/-- POL. -/
def cPol (c : BitVec 2048) : Pol := polCode (cardFld c 8 2)
/-- ELEN in blocks. -/
def cElen (c : BitVec 2048) : Nat := if cKind c = 2 ∨ cKind c = 3 then cardFld c 16 6 + 1 else 1
/-- SRC. -/
def cSrc (c : BitVec 2048) : Nat := cardFld c 64 64
/-- DST. -/
def cDst (c : BitVec 2048) : Nat := cardFld c 128 64
/-- LEN. -/
def cLen (c : BitVec 2048) : Nat := cardFld c 192 64
/-- Elements of the job (R351). -/
def cElems (c : BitVec 2048) : Nat := if cKind c = 1 then cLen c / 64 else cLen c
/-- The read regions in use, as (base, length). -/
def cReads (c : BitVec 2048) : List (Nat × Nat) :=
  (List.range (cardFld c 10 3)).map fun r => (cardFld c (512 + 128 * r) 64, cardFld c (576 + 128 * r) 64)
/-- The write regions in use, as (base, length). -/
def cWrites (c : BitVec 2048) : List (Nat × Nat) :=
  (List.range (cardFld c 13 3)).map fun r => (cardFld c (768 + 128 * r) 64, cardFld c (832 + 128 * r) 64)
/-- An object of the card: its address when V = 1. -/
def cObj (c : BitVec 2048) (pos : Nat) : Option Word :=
  if cardFld c (pos + 63) 1 = 1 then some (BitVec.ofNat 64 (cardFld c pos 52)) else none
/-- Whether COP and LEN fit a broadcast or sum of its element size. -/
def cWidth (c : BitVec 2048) : Nat := if cardFld c 40 8 = 1 then 4 else 2

/-- An endpoint is well formed (R350). -/
def endpointOk (x : Nat) : Bool :=
  if x / 2 ^ 63 = 1 then x / 2 ^ 30 % 2 ^ 33 = 0 && x % 64 = 0 else x / 2 ^ 52 = 0 && x % 64 = 0

/-- A region is well formed (R349). -/
def regionOk (r : Nat × Nat) : Bool :=
  r.1 / 2 ^ 52 = 0 && r.1 % 64 = 0 && r.2 % 64 = 0 && 64 ≤ r.2 && r.2 ≤ 2 ^ 40

/-- An object word is well formed (R349). -/
def objWordOk (x : Nat) : Bool := x / 2 ^ 52 % 2 ^ 11 = 0 && x % 64 = 0 && (x / 2 ^ 63 = 1 || x = 0)

/-- The checks of R351 on a card under an opcode's kind. The rows of R349 give the read regions and the write regions 256
bits each, room for two (notes/assumptions/37.md). -/
def cardOk (kind : Nat) (c : BitVec 2048) : Bool :=
  let k := cKind c
  let gs := k = 2 || k = 3
  k = kind && cardFld c 10 3 ≤ 4 && cardFld c 13 3 ≤ 4
  && cardFld c 22 10 = 0 && cardFld c 48 16 = 0 && cardFld c 448 64 = 0 && cardFld c 1216 704 = 0 && cardFld c 1976 8 = 0
  && (gs || cardFld c 16 6 = 0)
  && (if k = 4 then cardFld c 32 8 ≤ 3 && (cardFld c 40 8 = 1 || cardFld c 40 8 = 2) else cardFld c 32 16 = 0)
  && endpointOk (cSrc c) && endpointOk (cDst c)
  && (if k = 1 then cLen c % 64 = 0 && 64 ≤ cLen c && cLen c ≤ 2 ^ 40 else 1 ≤ cLen c && cLen c ≤ 2 ^ 32)
  && (if gs then cardFld c 256 64 / 2 ^ 52 = 0 && cardFld c 256 6 = 0 else cardFld c 256 64 = 0)
  && (if k = 4 then cardFld c 320 64 / 2 ^ 52 = 0 && cardFld c 320 6 = 0 else cardFld c 320 128 = 0)
  && (cReads c).all regionOk && (cWrites c).all regionOk
  && (List.range 2).all (fun r => r < cardFld c 10 3 || cardFld c (512 + 128 * r) 128 = 0)
  && (List.range 2).all (fun r => r < cardFld c 13 3 || r + 2 < cardFld c 10 3 || cardFld c (768 + 128 * r) 128 = 0)
  && objWordOk (cardFld c 1024 64) && objWordOk (cardFld c 1088 64) && objWordOk (cardFld c 1152 64)

/-- Two sets of regions share a block. -/
def overlap (xs ys : List (Nat × Nat)) : Bool := xs.any fun x => ys.any fun y => x.1 < y.1 + y.2 && y.1 < x.1 + x.2

/-- A new card waits for an earlier one (R141). -/
def cardsMeet (old new : BitVec 2048) : Bool :=
  overlap (cWrites old) (cReads new) || overlap (cReads old) (cWrites new) || overlap (cWrites old) (cWrites new)

/-- Four blocks as a card. -/
def cardOf (bs : List Blk) : BitVec 2048 :=
  BitVec.ofNat 2048 (bs.foldr (fun b a => b.toNat + 2 ^ 512 * a) 0)

-- THE SCHEDULER OF A DIE

/-- A copy engine of a die. -/
def State.copier (s : State) (die n : Nat) : Copier := Sparse.get (s.die die).copiers ⟨[], 0⟩ n
/-- The state with a copy engine changed. -/
def State.modCopier (s : State) (die n : Nat) (f : Copier → Copier) : State :=
  s.modDie die fun d => { d with copiers := Sparse.set d.copiers n (f (s.copier die n)) }
/-- A job of an engine by its order of submission. -/
def State.modJob (s : State) (die n order : Nat) (f : Job → Job) : State :=
  s.modCopier die n fun c => { c with jobs := c.jobs.map fun j => if j.order = order then f j else j }

/-- Whether a job has not completed. -/
def Job.open_ (j : Job) : Bool := j.status < 2

/-- The KIND of a J instruction's opcode. -/
def jKind : Instr → Nat
  | .jcopy .. => 1 | .jgath .. => 2 | .jscat .. => 3 | .jcoll .. => 4 | _ => 0

/-- Whether a card must wait for an earlier card of its context on its die: a job, or a card that waits itself; `a.b` holds
when a waiting card came (R141). -/
def State.cardWaits (s : State) (a : Access) (c : BitVec 2048) : Bool :=
  ((s.die a.die).copiers.any fun e => e.2.jobs.any fun j => j.open_ && j.ctx == a.ctx && cardsMeet j.card c) ||
  (s.accs.any fun x => x.id != a.id && x.bulk != [] && (a.b == 0 || x.b.toNat < a.b.toNat) && (x.stage = .waiting || x.stage = .sent) &&
    jKind x.op != 0 && x.die == a.die && x.ctx == a.ctx && cardsMeet (cardOf x.bulk) c)

/-- The engine with the fewest queued cards, the lowest-numbered on a tie (R351). -/
def State.pickCopier (s : State) (die : Nat) : Nat :=
  let q (n : Nat) : Nat := ((s.copier die n).jobs.filter fun j => j.status == 0).length
  (List.range 16).foldl (fun best n => if q n < q best then n else best) 0

/-- The counter of a unit's line, when it has one. -/
def State.beatNow (s : State) (key : Nat) : Option Nat :=
  (s.lineOf key).bind fun l => (s.line? l).map (·.counter.toNat)

/-- PBEAT of a new job: not before BeatNow() + 1; 0 for an evaluation (R352). -/
def State.newPbeat (s : State) (key : Nat) : Nat :=
  match s.beatNow key with
  | some b => (b + 1 + Config.promise s.fresh) % 2 ^ 48
  | none => 0

/-- The card becomes a job of an engine, and D receives its handle (R351, R352). -/
def State.submit (s : State) (a : Access) (c : BitVec 2048) : State :=
  let die := a.die
  let n := s.pickCopier die
  let e := s.copier die n
  let tk := e.ticket + 1
  let pb := s.newPbeat a.actor
  let j : Job := {
    card := c, cardVa := a.va, ctx := a.ctx, line := s.lineOf a.actor, order := s.nextAcc, die := die, engine := n,
    ticket := tk, pbeat := BitVec.ofNat 48 pb, status := 0, missed := false, element := 0, err := none, faultVa := 0, phase := 0,
    sub := 0, idx := none, hold := none, holdTag := 0 }
  let keep := e.jobs.filter fun x => x.open_ || decide ((tk - x.ticket).toNat < 128)
  let h := BitVec.ofNat 64 (pb + tk.toNat * 2 ^ 48 + n * 2 ^ 56 + die * 2 ^ 60)
  (({ s.drew with nextAcc := s.nextAcc + 1 }.modCopier die n fun _ => ⟨keep ++ [j], tk⟩).answer a.id (ansG h)).now
    (.jobStart die n)

/-- The four blocks of a card are read. -/
def State.readCard (s : State) (a : Access) (l : Leaf) (ok : State → List Blk → State) : (n : Nat) → List Blk → State
  | 0, acc => ok s acc
  | n + 1, acc => s.cardBlock a l (a.va + BitVec.ofNat 64 (64 * n)) fun s1 b => State.readCard s1 a l ok n (b.data :: acc)

/-- A card that has been read goes to a copy engine, or waits for an earlier one (R141, R351). -/
def State.schedule (s : State) (a : Access) (bs : List Blk) : State :=
  let c := cardOf bs
  if s.cardWaits a c then
    ({ s with nextAcc := s.nextAcc + 1 }.modAcc a.id fun x => { x with
      bulk := bs, b := if x.b = 0 then BitVec.ofNat 64 (s.nextAcc + 1) else x.b }).joinWait a.id
  else s.submit a c

/-- A J instruction at the task scheduler of its die: a card's page without R = 1, W = 1 and IMM = 0 fails the checks as a bad
card does (R351). -/
def State.jobSubmit (s : State) (a : Access) : State :=
  let bad (s : State) : State := s.failAcc a .bounds Cause.descriptor 0
  if a.bulk ≠ [] then s.schedule a a.bulk
  else
    s.lookUp a a.die a.va fun s l =>
      match s.leafCheck a.ctx l a.va .sync with
      | some (.permission, c) => if c = Cause.key then s.refuse a c else bad s
      | some (e, c) => s.failAcc a e c (vaDetail a.va 0)
      | none =>
        State.readCard s a l (fun s1 bs => if cardOk (jKind a.op) (cardOf bs) then s1.schedule a bs else bad s1) 4 []

-- PROMISES (R354, R355)

/-- The job that a handle names. -/
def State.jobOf (s : State) (h : Word) : Option (Nat × Nat × Job) :=
  let die := h.toNat / 2 ^ 60 % 4
  let n := h.toNat / 2 ^ 56 % 16
  if h.toNat / 2 ^ 62 ≠ 0 then none
  else ((s.copier die n).jobs.find? fun j => j.ticket.toNat == h.toNat / 2 ^ 48 % 256 && j.pbeat.toNat == h.toNat % 2 ^ 48).map
    fun j => (die, n, j)

/-- The status word of PROM; PBEAT of an unknown job is open (R354, notes/assumptions/3.md). -/
def State.promWord (s : State) (h : Word) : Word :=
  match s.jobOf h with
  | some (_, _, j) => BitVec.ofNat 64 (j.pbeat.toNat + j.status * 2 ^ 48 + j.missed.toNat * 2 ^ 52)
  | none => BitVec.ofNat 64 ((Config.freeWord s.fresh).toNat % 2 ^ 48 + 5 * 2 ^ 48)

/-- PROM at the engines (R354): `a.a` holds the handle. -/
def State.promise (s : State) (a : Access) : State := s.drew.answer a.id (ansG (s.promWord a.a))

/-- WAITB.job at the engines (R355): it waits while the job is queued or running. -/
def State.waitJob (s : State) (a : Access) : State :=
  match s.jobOf a.a with
  | some (_, _, j) => if j.open_ then s.joinWait a.id else s.promise a
  | none => s.promise a

/-- MISSED is set on a job, with one record for the WAITB.job (R355). -/
def State.missPromise (s : State) (key : Nat) (h : Word) : State :=
  let s1 := match s.jobOf h with
    | some (die, n, j) => s.modJob die n j.order fun j => { j with missed := true }
    | none => s
  s1.trap (s.actor key).ctx key (record s.dev (s.origin key 0) .promiseMissed 0 h.toNat)

-- RUNNING A JOB (R351)

/-- The record of a fault of a job. -/
def State.jobRecord (s : State) (j : Job) (e : Err) (cause : BitVec 8) (detail : Nat) : BitVec 256 :=
  record s.dev (s.engineOrigin (engineKey j.die (32 + j.engine))) e cause detail

/-- A record of the engine's in the context's ring, with the card's address (R351, R404). -/
def State.jobTrap (s : State) (j : Job) (r : BitVec 256) : State :=
  s.trapAux j.ctx (engineKey j.die (32 + j.engine)) r j.cardVa

/-- The engine's next look at its job. -/
def State.kickJob (s : State) (j : Job) : State := s.after 1 (.jobElement j.die j.engine)

/-- The state with the running job replaced. -/
def State.setJob (s : State) (j : Job) : State := s.modJob j.die j.engine j.order fun _ => j

/-- A fault stops the job at its element; its write regions are written back next (R142, R351). -/
def State.jobFault (s : State) (j : Job) (r : BitVec 256) (va : Word) : State :=
  let j' := { j with err := some r, faultVa := va, phase := 2, hold := none }
  ((s.jobTrap j r).setJob j').kickJob j'

/-- An object that is refused adds a record (R351). -/
def State.jobPhase (s : State) (j : Job) (n : Nat) : State :=
  let j' := { j with phase := n }
  (s.setJob j').now (.jobElement j.die j.engine)

/-- An endpoint's place at a byte offset: a virtual address, or a tile and scratchpad address (R350). -/
def endpoint (x off : Nat) : Word ⊕ (Nat × Nat) :=
  if x / 2 ^ 63 = 1 then .inr (x / 2 ^ 20 % 2 ^ 10, x % 2 ^ 20 + off) else .inl (BitVec.ofNat 64 (x + off))

/-- The check of a scratchpad target (R54). -/
def State.spTarget (s : State) (ctx : Nat) (p : Nat × Nat) : Option (Err × BitVec 8) :=
  if Config.spBytes ≤ p.2 then some (.bounds, Cause.nonexistent)
  else if (s.tile p.1).ctx = some ctx ∧ (List.any s.lines fun l => l.2.ctx == ctx && l.2.stns.any fun x => x.2 == p.1) then none
  else some (.permission, Cause.foreignTile)

/-- A block of a tile's scratchpad (R42, R53). -/
def State.spBlock (s : State) (p : Nat × Nat) : Blk := BitVec.ofNat 512 ((s.tile p.1).spBytes 0 (fun _ => 0) p.2 64)
/-- The state with a block of a tile's scratchpad written (R53). -/
def State.setSpBlock (s : State) (p : Nat × Nat) (x : Blk) : State :=
  s.modTile p.1 fun t => t.setSpBytes 0 (fun _ => 0) p.2 x.toNat 64

/-- A block lies in one of a card's regions (R141). -/
def inRegions (rs : List (Nat × Nat)) (va : Word) : Bool := rs.any fun r => r.1 ≤ va.toNat && va.toNat + 64 ≤ r.1 + r.2

/-- A copy from memory to memory, which preserves sidecars (R350). -/
def memToMem (c : BitVec 2048) : Bool := cKind c != 4 && cSrc c / 2 ^ 63 == 0 && cDst c / 2 ^ 63 == 0

/-- A block that the job reads: from memory, its answer brings it; from a scratchpad, it is read at once. -/
def State.jobRead (s : State) (j : Job) (x off : Nat) : State :=
  match endpoint x off with
  | .inl va =>
    if inRegions (cReads j.card) va then
      s.engineAccess (engineKey j.die (32 + j.engine)) j.ctx (engineLoad (cPol j.card)) va (if memToMem j.card then 2 else 0)
        VReg.zero
    else s.jobFault j (s.jobRecord j .bounds Cause.footprint (va.toNat % 2 ^ 52)) va
  | .inr p =>
    match s.spTarget j.ctx p with
    | some (e, c) => s.jobFault j (s.jobRecord j e c p.2) 0
    | none =>
      let j' := { j with hold := some ⟨s.spBlock p, Pair.raw⟩ }
      (s.setJob j').kickJob j'

/-- A block of the element has been written: the next one, or the next element. -/
def Job.wrote (j : Job) : Job :=
  if j.sub + 1 < cElen j.card then { j with sub := j.sub + 1, hold := none }
  else { j with sub := 0, idx := none, hold := none, element := j.element + 1 }

/-- A block that the job writes. -/
def State.jobWrite (s : State) (j : Job) (x off : Nat) (d : VReg) : State :=
  match endpoint x off with
  | .inl va =>
    if inRegions (cWrites j.card) va then
      s.engineAccess (engineKey j.die (32 + j.engine)) j.ctx (engineStore (cPol j.card)) va
        (if memToMem j.card then BitVec.ofNat 64 (2 + 16 * j.holdTag.toNat) else 0) d
    else s.jobFault j (s.jobRecord j .bounds Cause.footprint (va.toNat % 2 ^ 52)) va
  | .inr p =>
    match s.spTarget j.ctx p with
    | some (e, c) => s.jobFault j (s.jobRecord j e c p.2) 0
    | none => ((s.setSpBlock p d.val).setJob j.wrote).kickJob j

/-- The byte offsets of block `sub` of element e at the source and the destination (R351). -/
def jobOffsets (j : Job) : Nat × Nat :=
  let n := 64 * cElen j.card
  let i := j.idx.getD 0
  let k := 64 * j.sub
  match cKind j.card with
  | 2 => (n * i + k, n * j.element + k)
  | 3 => (n * j.element + k, n * i + k)
  | _ => (64 * j.element, 64 * j.element)

/-- The dirty RDC lines of the job's write regions are written back (R142). -/
def State.jobClean (s : State) (j : Job) : State :=
  s.cleanRdc j.die fun k _ => (cWrites j.card).any fun r =>
    s.inRegion j.die j.ctx ⟨0, BitVec.ofNat 64 r.1, r.2⟩ (lineAddr k)

/-- STATE of a card: 1 done, 2 error, 3 cancelled (R349). -/
def Job.cardState (j : Job) : Nat := if j.err.isSome then 2 else 1

/-- The card's last block: STATE, CODE, CAUSE, ELEMENT and DETAIL (R349, R351). -/
def cardTail (st : Nat) (err : Option (BitVec 256)) (element : Nat) (va : Word) : Blk :=
  match err with
  | some r => BitVec.ofNat 512 (at_ st 384 8 + at_ r.toNat 392 8 + at_ (r.toNat / 2 ^ 8) 400 8 + at_ element 408 32
      + at_ va.toNat 448 64)
  | none => BitVec.ofNat 512 (at_ st 384 8 + at_ element 408 32)

/-- The card is written, as one write of its last block (R351). -/
def State.writeCard (s : State) (j : Job) (st : Nat) : State :=
  s.unitWrite j.die j.ctx (j.cardVa + 192) (cardTail st j.err j.element j.faultVa) (BitVec.allOnes 64)

/-- An operation of the job on an object. -/
def State.jobObject (s : State) (j : Job) (op : Instr) (va a : Word) : State :=
  s.engineAccess (engineKey j.die (32 + j.engine)) j.ctx op va a VReg.zero

-- COLLECTIVES (R353, R431)

/-- Bytes of memory by a unit, within one block. -/
def State.unitBytes (s : State) (die ctx : Nat) (pol : Pol) (va : Word) (n : Nat) : State × Except (Err × BitVec 8 × Nat) Nat :=
  match s.translate die ctx va .load with
  | (s1, .leaf l) =>
    let (s2, r) := s1.unitBlock die ctx l va pol
    (s2, r.map fun b => b.data.toNat / 2 ^ (8 * (va.toNat % 64)) % 2 ^ (8 * n))
  | (s1, .fail e c d) => (s1, .error (e, c, d))
  | (s1, .mig _) => (s1, .error (.translation, Cause.migrationTimeout, vaDetail va 0))

/-- The ranks of a group as (device, die), in order. -/
def State.groupEntries (s : State) (die ctx : Nat) (g : Word) : (n : Nat) → List (Nat × Nat) →
    State × Except (Err × BitVec 8 × Nat) (List (Nat × Nat))
  | 0, acc => (s, .ok acc)
  | n + 1, acc =>
    let (s1, r) := s.unitBytes die ctx .cached (g + BitVec.ofNat 64 (64 + 4 * n)) 4
    match r with
    | .error e => (s1, .error e)
    | .ok x =>
      if x / 2 ^ 18 ≠ 0 ∨ x / 2 ^ 14 % 4 ≠ 0 then (s1, .error (.bounds, Cause.descriptor, 0))
      else State.groupEntries s1 die ctx g n ((x % 2 ^ 14, x / 2 ^ 16 % 4) :: acc)

/-- The group descriptor of a card: the members, and the card's rank (R431). -/
def State.groupOfCard (s : State) (j : Job) : State × Except (Err × BitVec 8 × Nat) (List (Nat × Nat) × Nat) :=
  let g := BitVec.ofNat 64 (cardFld j.card 320 64)
  let bad : Except (Err × BitVec 8 × Nat) (List (Nat × Nat) × Nat) := .error (.bounds, Cause.descriptor, 0)
  let (s1, r) := s.unitBytes j.die j.ctx .cached g 64
  match r with
  | .error e => (s1, .error e)
  | .ok x =>
    let n := x % 2 ^ 16
    let rank := x / 2 ^ 16 % 2 ^ 16
    if x / 2 ^ 32 ≠ 0 ∨ n = 0 ∨ 16384 < n ∨ n ≤ rank then (s1, bad)
    else
      let (s2, r2) := s1.groupEntries j.die j.ctx g n []
      match r2 with
      | .error e => (s2, .error e)
      | .ok es => if es[rank]? = some (s2.dev, j.die) then (s2, .ok (es, rank)) else (s2, bad)

/-- The jobs of a collective on this device that have arrived. DEDUCED: a collective is of one context; members match by COLL_ID
within it (R431, notes/assumptions/119.md). -/
def State.collJobs (s : State) (ctx coll : Nat) : List Job :=
  s.dies.flatMap fun d => d.2.copiers.flatMap fun e => e.2.jobs.filter fun j =>
    j.status == 1 && j.phase == 1 && cKind j.card == 4 && j.ctx == ctx && cardFld j.card 384 64 == coll && j.idx.isSome

/-- Cards of one collective must agree (R353). -/
def sameColl (a b : BitVec 2048) : Bool :=
  cardFld a 320 64 == cardFld b 320 64 && cardFld a 32 16 == cardFld b 32 16 && cLen a == cLen b

/-- The bits of an element at a job's source, and the error that its own read meets; of another device's member, or where
the source fails, the bits are a free value. -/
def State.collGet (s : State) (j : Option Job) (pos w : Nat) : State × Nat × Option (Err × BitVec 8 × Nat) :=
  let open_ := (Config.freeWord s.fresh).toNat % 2 ^ (8 * w)
  match j with
  | none => (s.drew, open_, none)
  | some j =>
    match endpoint (cSrc j.card) pos with
    | .inl va =>
      if !inRegions (cReads j.card) (va - BitVec.ofNat 64 (va.toNat % 64)) then
        (s.drew, open_, some (.bounds, Cause.footprint, va.toNat % 2 ^ 52))
      else match s.unitBytes j.die j.ctx (cPol j.card) va w with
        | (s1, .ok x) => (s1, x, none)
        | (s1, .error e) => (s1.drew, open_, some e)
    | .inr p =>
      match s.spTarget j.ctx p with
      | some (e, c) => (s.drew, open_, some (e, c, p.2))
      | none => (s, (s.tile p.1).spBytes 0 (fun _ => 0) p.2 w, none)

/-- An element is written at a job's destination, under the card's policy: the error, when it has one. -/
def State.collPut (s : State) (j : Job) (pos w x : Nat) : State × Option (Err × BitVec 8 × Nat) :=
  match endpoint (cDst j.card) pos with
  | .inl va =>
    if !inRegions (cWrites j.card) (va - BitVec.ofNat 64 (va.toNat % 64)) then
      (s, some (.bounds, Cause.footprint, va.toNat % 2 ^ 52))
    else s.unitStore j.die j.ctx (cPol j.card) va (BitVec.ofNat 512 (x * 2 ^ (8 * (va.toNat % 64)))) (maskAt (va.toNat % 64) w)
  | .inr p =>
    match s.spTarget j.ctx p with
    | some (e, c) => (s, some (e, c, p.2))
    | none => (s.modTile p.1 fun t => t.setSpBytes 0 (fun _ => 0) p.2 x w, none)

/-- The element format of a collective. -/
def collFmt (c : BitVec 2048) : FloatFmt := if cWidth c = 4 then fFP32 else fBF16

/-- What a collective reads of one element, lowest rank first: the values, and the errors by rank. -/
def State.collRanks (s : State) (js : List (Option Job)) (pos w : Nat) :
    State × List Nat × List (Option (Err × BitVec 8 × Nat)) :=
  js.foldl (fun (x : State × List Nat × List (Option (Err × BitVec 8 × Nat))) j =>
    let (s1, v, e) := x.1.collGet j pos w
    (s1, x.2.1 ++ [v], x.2.2 ++ [e])) (s, [], [])

/-- The reduced element (R353). -/
def collSum (c : BitVec 2048) (xs : List Nat) : Nat :=
  let vs := xs.map (floatValue (collFmt c))
  roundTo (collFmt c) .rn false 0 (sumExact .rn (nans vs) vs)

/-- One element e of a collective on every member of this device; a member whose own source or destination fails stops
(R351). -/
def State.collElement (s : State) (js : List (Option Job)) (e : Nat) (mine : List Job) (c : BitVec 2048) : State × List Job :=
  let w := cWidth c
  let r := js.length
  let len := cLen c
  let (s1, xs, es) := s.collRanks (if cardFld c 32 8 = 3 then js.take 1 else js) (e * w) w
  let outs (rank : Nat) : List (Nat × Nat) :=
    match cardFld c 32 8 with
    | 0 => [(e, collSum c xs)]
    | 1 => xs.mapIdx fun q x => (q * len + e, x)
    | 2 => if rank * len / r ≤ e ∧ e < (rank + 1) * len / r then [(e - rank * len / r, collSum c xs)] else []
    | _ => [(e, xs.headD 0)]
  let stop (s : State) (j : Job) (x : Err × BitVec 8 × Nat) : Job :=
    { j with element := e, err := some (s.jobRecord j x.1 x.2.1 x.2.2) }
  mine.foldl (fun (acc : State × List Job) j =>
    if j.err.isSome then (acc.1, acc.2 ++ [j])
    else
      match (es[j.idx.getD 0]?).join with
      | some x => (acc.1, acc.2 ++ [stop acc.1 j x])
      | none =>
        let (s2, bad) := (outs (j.idx.getD 0)).foldl (fun (a : State × Option (Err × BitVec 8 × Nat)) o =>
          if a.2.isSome then a else a.1.collPut j (o.1 * w) w o.2) (acc.1, none)
        (s2, acc.2 ++ [match bad with | some x => stop s2 j x | none => { j with element := e + 1 }])) (s1, [])

/-- Every member that has arrived fails (R353, R431). -/
def State.collFail (s : State) (js : List Job) (e : Err) (cause : BitVec 8) : State :=
  js.foldl (fun s j => s.jobFault j (s.jobRecord j e cause 0) 0) s

/-- The blocks of memory at an endpoint of `n` bytes. -/
def endBlocks (x n : Nat) : List Word :=
  if x / 2 ^ 63 = 1 then [] else (List.range ((n + 63) / 64)).map fun i => BitVec.ofNat 64 (x + 64 * i)

/-- Whether a member of a collective must wait for a block: it lies on a page that migrates or, where it is read, it is a cell (R35,
R102). -/
def State.blockHeld (s : State) (j : Job) (reads : Bool) (va : Word) : Bool :=
  match (s.translate j.die j.ctx va .load).2 with
  | .mig _ => true
  | .leaf l =>
    let t := (s.side (paOf (l.addr va))).tag
    reads && devOf (l.addr va) == s.dev && (t == tagSuspended || t == tagEvaluating || t == tagGrouplink)
  | _ => false

/-- The first block of a member, from its `element`-th on, for which the collective waits. -/
def State.collHeld (s : State) (r : Nat) (j : Job) : Option (Nat × Word) :=
  let w := cWidth j.card
  let src := endBlocks (cSrc j.card) (cLen j.card * w)
  let dst := endBlocks (cDst j.card) (cLen j.card * w * (if cardFld j.card 32 8 = 1 then r else 1))
  (((src ++ dst).mapIdx fun i va => (i, va)).drop j.element).find? fun x => s.blockHeld j (decide (x.1 < src.length)) x.2

/-- A member's engine reads a block for which it waits; `a` of the access says what for: 3 an element, 4 the descriptor. -/
def State.collWait (s : State) (j : Job) (va a : Word) : State :=
  s.engineAccess (engineKey j.die (32 + j.engine)) j.ctx (engineLoad (if a = 4 then .cached else cPol j.card)) va a VReg.zero

/-- The members of a collective are all there: each waits for what holds it, then the collective runs (R353, R431). From then on
no member's time runs (`sub` 0). -/
def State.collRun (s : State) (ms : List (Option Job)) (mine : List Job) (c : BitVec 2048) : State :=
  match mine.findSome? fun j => (s.collHeld ms.length j).map fun x => (j, x) with
  | some (j, i, va) =>
    ((mine.foldl (fun s m => s.setJob { m with sub := 0 }) s).setJob { j with element := i + 1, sub := 0 }).collWait j va 3
  | none =>
    let (s3, js') := (List.range (cLen c)).foldl
      (fun (x : State × List Job) e => x.1.collElement ms e x.2 c) (s, mine.map fun j => { j with element := 0 })
    js'.foldl (fun s y =>
      match y.err with
      | some r => s.jobFault y r (BitVec.ofNat 64 (r.toNat / 2 ^ 192 % 2 ^ 52))
      | none => s.jobPhase y 2) s3

/-- Whether a member comes to a collective that has faulted on the others because their cards differ (R353). -/
def State.collFaulted (s : State) (j : Job) (rank : Nat) : Bool :=
  let bad := s.dies.flatMap fun d => d.2.copiers.flatMap fun e => e.2.jobs.filter fun x =>
    cKind x.card == 4 && x.ctx == j.ctx && cardFld x.card 384 64 == cardFld j.card 384 64 && x.idx.isSome &&
    (match x.err with | some r => r.toNat % 2 ^ 16 == 2 + 256 * Cause.descriptor.toNat | none => false)
  !bad.isEmpty && !bad.any fun x => x.idx == some rank

/-- The collective of a member that stands among its group: it runs when all are there (R353, R431). Members of other devices may
come at any time; until then the engine looks again. -/
def State.collTest (s2 : State) (j : Job) (es : List (Nat × Nat)) (first : Bool) : State :=
  let coll := cardFld j.card 384 64
  let js := s2.collJobs j.ctx coll
  if !js.all fun x => sameColl x.card j.card then s2.collFail js .bounds Cause.descriptor
  else
    let member (q : Nat) (x : Nat × Nat) : Option Job :=
      if x.1 = s2.dev then js.find? fun y => y.die == x.2 && y.idx == some q else none
    let here := es.mapIdx fun q x => x.1 != s2.dev || (member q x).isSome
    let away := es.any fun x => x.1 != s2.dev
    let s3 := if first then s2.drew.after s2.mgmt.linkTimeout.toNat (.collectiveTimeout (BitVec.ofNat 64 coll)) else s2.drew
    if !here.all id then s3
    else if !away ∨ (js.any fun x => x.sub == 0) ∨ Config.freeBool s2.fresh then s2.drew.collRun (es.mapIdx member) js j.card
    else s3.later (.jobElement j.die j.engine)

/-- The first block of a member's group descriptor for which it waits (R35, R102, R431). -/
def State.groupHeld (s : State) (j : Job) : Option Word :=
  let g := BitVec.ofNat 64 (cardFld j.card 320 64)
  if s.blockHeld j true g then some g
  else
    match (s.unitBytes j.die j.ctx .cached g 2).2 with
    | .ok n => ((List.range ((Nat.min n 16384 * 4 + 63) / 64)).map fun i => g + BitVec.ofNat 64 (64 * (i + 1))).find? fun va =>
        s.blockHeld j true va
    | .error _ => none

/-- A member arrives (R353, R431). From then on `sub` keeps the cycle at which the collective times out. -/
def State.collJoin (s : State) (j : Job) (es : List (Nat × Nat)) (rank : Nat) : State :=
  let (first, late) := match s.collJobs j.ctx (cardFld j.card 384 64) with
    | [] => (true, s.cycle + s.mgmt.linkTimeout.toNat)
    | x :: _ => (false, x.sub)
  let j' := { j with idx := some rank, sub := late }
  if s.collFaulted j rank then s.collFail [j'] .bounds Cause.descriptor else (s.setJob j').collTest j' es first

/-- A member reads its group descriptor, once nothing holds it, and arrives, or goes on. -/
def State.collGo (s : State) (j : Job) : State :=
  match s.groupHeld j with
  | some va => s.collWait j va 4
  | none =>
    match s.groupOfCard j with
    | (s1, .error (e, c, d)) => s1.jobFault j (s1.jobRecord j e c d) (BitVec.ofNat 64 (cardFld j.card 320 52))
    | (s1, .ok (es, rank)) => if j.idx.isSome then s1.collTest j es false else s1.collJoin j es rank

/-- The members of a collective of a context whose time is over before all of them came. -/
def State.collLate (s : State) (ctx coll : Nat) : List Job :=
  (s.collJobs ctx coll).filter fun j => decide (0 < j.sub) && decide (j.sub ≤ s.cycle)

/-- COLLECTIVE_TIMEOUT (R431). -/
def execCollectiveTimeout (coll : Word) (s : State) : Out :=
  .next (s.ctxs.foldl (fun s c => s.collFail (s.collLate c.1 coll.toNat) .remoteTimeout 0x02) s)

-- EVENTS OF A COPY ENGINE

/-- Whether a context's card queue on an engine may go on (R386, R395, R409). -/
def State.copyRuns (s : State) (ctx die n : Nat) : Bool :=
  match s.ctx? ctx with
  | some c => !c.frozenCopy.contains (16 * die + n)
  | none => true

/-- Whether a context is on the device and neither being pre-empted nor torn down. -/
def State.ctxActive (s : State) (ctx : Nat) : Bool := match s.ctx? ctx with | some c => c.status == 1 | none => false

/-- JOB_START: the engine starts the first queued card whose queue may go on; those of a context that is being pre-empted stay queued
and are saved (R370). -/
def execJobStart (die engine : Nat) (s : State) : Out :=
  .next (match s.runningJob die engine with
    | some _ => s.now (.jobElement die engine)
    | none =>
      match (s.copier die engine).jobs.find? fun j => j.status == 0 && s.copyRuns j.ctx die engine
          && s.ctxActive j.ctx with
      | none => s
      | some j => (s.setJob { j with status := 1 }).later (.jobElement die engine))

/-- JOB_ELEMENT: the running job goes on with its step (R351). -/
def execJobElement (die engine : Nat) (s : State) : Out :=
  .next (match s.runningJob die engine with
    | none => s
    | some j =>
      if s.engineBusy (engineKey die (32 + engine)) then s
      else if s.stalls (engineKey die (32 + engine)) then s.kickJob j
      else
        match j.phase with
        | 0 =>
          match cObj j.card 1024 with
          | some va => s.jobObject j (.acqLockWait 4 0 0 0 noWave) va 0
          | none => s.jobPhase j 1
        | 1 =>
          if cKind j.card = 4 then s.collGo j
          else if cElems j.card ≤ j.element then s.jobPhase j 2
          else if !s.copyRuns j.ctx die engine then s
          else if (cKind j.card = 2 ∨ cKind j.card = 3) ∧ j.idx.isNone then
            let va := BitVec.ofNat 64 (cardFld j.card 256 64 + 4 * j.element / 64 * 64)
            if inRegions (cReads j.card) va then
              s.engineAccess (engineKey die (32 + engine)) j.ctx (engineLoad (cPol j.card)) va 1 VReg.zero
            else s.jobFault j (s.jobRecord j .bounds Cause.footprint (va.toNat % 2 ^ 52)) va
          else
            match j.hold with
            | none => s.jobRead j (cSrc j.card) (jobOffsets j).1
            | some x => s.jobWrite j (cDst j.card) (jobOffsets j).2 x
        | 2 => (s.jobClean j).jobPhase j 3
        | 3 => (s.writeCard j j.cardState).jobPhase j 4
        | 4 =>
          match cObj j.card 1088 with
          | some va => s.jobObject j (.relLock 4 0 0 noWave) va (BitVec.ofNat 64 j.cardState)
          | none => s.jobPhase j 5
        | 5 =>
          match cObj j.card 1152 with
          | some va => s.jobObject j (.relSet 4 0 0 noWave) va (BitVec.ofNat 64 j.cardState)
          | none => s.jobPhase j 6
        | _ => s.now (.jobCompletion die engine))

/-- The answer of a copy engine's access reaches its job. -/
def State.jobAnswer (s : State) (die n : Nat) (a : Access) : State :=
  match s.runningJob die n with
  | none => s
  | some j =>
    let s0 := { s with accs := s.accs.filter fun x => x.id != a.id }
    match a.ans.tok with
    | some k =>
      if a.a = 3 then s0.collGo j
      else if j.phase = 4 ∨ j.phase = 5 then (s0.jobTrap j k.record).jobPhase j (j.phase + 1)
      else s0.jobFault j k.record a.va
    | none =>
      match j.phase with
      | 0 => s0.jobPhase j 1
      | 1 =>
        let x := a.ans.v.getD VReg.zero
        if a.a = 3 ∨ a.a = 4 then s0.collGo j
        else if j.hold.isSome then (s0.setJob j.wrote).now (.jobElement die n)
        else if a.a = 1 then
          (s0.setJob { j with idx := some (x.val.toNat / 2 ^ (32 * (j.element % 16)) % 2 ^ 32) }).now (.jobElement die n)
        else
          let tag : BitVec 4 := match a.ans.g with | some t => t.val.setWidth 4 | none => 0
          (s0.setJob { j with hold := some x, holdTag := tag }).now (.jobElement die n)
      | p => s0.jobPhase j (p + 1)

/-- JOB_COMPLETION: the job has ended; cards that waited for it and sleepers on it go on (R141, R351, R355). -/
def execJobCompletion (die engine : Nat) (s : State) : Out :=
  .next (match s.runningJob die engine with
    | none => s
    | some j =>
      if j.phase < 6 then s
      else
        let s1 := s.setJob { j with status := if j.err.isSome then 3 else 2 }
        (s1.kickWaiting die fun a => jKind a.op != 0 || (match a.op with | .waitbJob .. => true | _ => false)).now
          (.jobStart die engine))

/-- A queued card is cancelled (R395): STATE 3 and an E_CANCELLED record. -/
def State.cancelJob (s : State) (j : Job) : State :=
  ((s.writeCard j 3).jobTrap j (s.jobRecord j .cancelled 0 0)).setJob { j with status := 4 }

-- INSTRUCTIONS

/-- A J instruction: the card is 256-byte aligned (R349, R351). -/
def jobIssue (s : State) (op : Instr) (s1 : Fin 16) (w : Wave) : State :=
  s.access op (some w) (s.g s1).val 0 0 0 VReg.zero
    (match s.opCheck [s.g s1] 0 1 with
      | some t => some t
      | none => if (s.g s1).val.toNat % 256 ≠ 0 then some (s.tok .bounds Cause.descriptor 0) else none)

/-- JCOPY (R351). -/
def execJcopy (d s1 : Fin 16) (w : Wave) (s : State) : Out := .next (jobIssue s (.jcopy d s1 w) s1 w)
/-- JGATH (R351). -/
def execJgath (d s1 : Fin 16) (w : Wave) (s : State) : Out := .next (jobIssue s (.jgath d s1 w) s1 w)
/-- JSCAT (R351). -/
def execJscat (d s1 : Fin 16) (w : Wave) (s : State) : Out := .next (jobIssue s (.jscat d s1 w) s1 w)
/-- JCOLL (R351, R353). -/
def execJcoll (d s1 : Fin 16) (w : Wave) (s : State) : Out := .next (jobIssue s (.jcoll d s1 w) s1 w)
/-- PROM (R354). -/
def execProm (d s1 : Fin 16) (s : State) : Out :=
  .next (unitIssue s (.prom d s1) 0 (s.g s1).val 0 [s.g s1] 1)

/-- WAITB (R355): the station sleeps until its line's counter reaches the target, unless that is not later. -/
def execWaitb (s1 : Fin 16) (s : State) : Out :=
  let x := s.g s1
  .next (
    if x.isTok then s.attach s.cur.actor (s.passG x)
    else
      match s.beatNow s.cur.actor with
      | none => s.emitError .permission Cause.noLine 0
      | some b =>
        let t := x.val.toNat % 2 ^ 48
        let d := (t + 2 ^ 48 - b) % 2 ^ 48
        if 1 ≤ d ∧ d ≤ 2 ^ 47 - 1 then s.modMe fun a => { a with sleep := some (.beat (BitVec.ofNat 48 t)) }
        else s)

/-- WAITB.job (R355). -/
def execWaitbJob (d s1 : Fin 16) (s : State) : Out :=
  let x := s.g s1
  let s0 := if x.isTok then s
    else s.modMe fun a => { a with sleep := some (.job x.val s.cur d.val false) }
  .next (unitIssue s0 (.waitbJob d s1) 0 x.val 0 [x] 1)

/-- WAITB_WAKE: the wake condition of a sleep on a beat is met (R355). -/
def execWaitbWake (actor : Nat) (s : State) : Out :=
  .next (match (s.actor actor).sleep with
    | some (.beat t) =>
      match s.beatNow actor with
      | some b =>
        let d := (t.toNat + 2 ^ 48 - b) % 2 ^ 48
        if 1 ≤ d ∧ d ≤ 2 ^ 47 - 1 then s else s.modActor actor fun a => { a with sleep := none }
      | none => s.modActor actor fun a => { a with sleep := none }
    | some (.job h _ _ _) =>
      if ((s.jobOf h).any fun j => j.2.2.open_) || s.accs.any fun a => a.actor == actor && !a.discard && (match a.op with | .waitbJob .. => true | _ => false) then s
      else s.modActor actor fun a => { a with sleep := none }
    | none => s)

end Sys2Proof.Machine
end

