-- ==== Sys2Proof/Machine/Trap.lean ====
section
/-! DEFINITION. Trap records and the trap ring of a context (R404 to R407), keys derived from a tenant's secret (R436). -/

namespace Sys2Proof.Machine

-- KEYS (R436)

/-- The shared secret of a confidential context's tenant: context, key id, secret and signer hash. -/
def State.secret (s : State) (ctx : Nat) : Nat :=
  match s.mgmt.tenants.find? fun t => t.1 == ctx with
  | some t => t.2.2 % 2 ^ 256
  | none => 0

/-- A key derived from a secret: SHAKE256 of the secret, the context and the label's bytes, to `n` bytes (R436). -/
def deriveKey (ss ctx : Nat) (label : List Nat) (n : Nat) : Nat :=
  let msg := ss + ctx * 2 ^ 256 + (label.foldr (fun c a => c + 256 * a) 0) * 2 ^ 264
  (Config.shake256 (33 + label.length) msg).toNat % 2 ^ (8 * n)

/-- The ASCII labels of R436. -/
def labelMem : List Nat := [0x4D, 0x45, 0x4D]
def labelRec : List Nat := [0x52, 0x45, 0x43]
def labelSave : List Nat := [0x53, 0x41, 0x56, 0x45]
def labelArg : List Nat := [0x41, 0x52, 0x47]
def labelXlat : List Nat := [0x58, 0x4C, 0x41, 0x54]
def labelConfirm : List Nat := [0x43, 0x4F, 0x4E, 0x46, 0x49, 0x52, 0x4D]

-- THE RING (R405)

/-- The place of a context's virtual address at this device, through its page table. -/
def State.place (s : State) (ctx : Nat) (va : Word) : State × Option (Nat × Leaf) :=
  match s.translate 0 ctx va .sync with
  | (s1, .leaf l) => if l.device = s.dev then (s1, some (paOf (l.addr va), l)) else (s1, none)
  | (s1, _) => (s1, none)

/-- Whether a context's address lies in a page that migrates: what goes there waits (R35). -/
def State.migrates (s : State) (ctx : Nat) (va : Word) : Bool :=
  match (s.translate 0 ctx va .sync).2 with | .mig _ => true | _ => false

/-- The control block of a context's ring, read at its home under its page's key: its address, its leaf and what it holds; none
where it has no place or cannot be read (R27, R28, R405). -/
def State.ringCtl (s : State) (ctx : Nat) (base : Word) : State × Option (Nat × Leaf × Block) :=
  match s.place ctx (base - 64) with
  | (s1, some (pa, l)) =>
    let (s2, b) := s1.readAt l.objPol l.key pa
    (s2, b.map fun b => (pa, l, b))
  | (s1, none) => (s1, none)

/-- Records lost by a context's ring: LOST, with LOSTF above it when it is wanted too (R365, R405). -/
def State.ringLost (s : State) (ctx width : Nat) : State × Word :=
  match s.ctx? ctx with
  | some c =>
    match s.ringCtl ctx c.ringBase with
    | (s1, some (_, _, b)) => (s1, BitVec.ofNat 64 (Blk.fld b.data 128 width))
    | (s1, none) => (s1, 0)
  | none => (s, 0)

/-- LOST and LOSTF of a context's ring, as the host window mirrors them (R420, R423). -/
def State.lostMirror (s : State) (ctx : Nat) : Word := (s.ringLost ctx 32).2

/-- The trap record of R404, in clear. -/
def clearRecord (r : BitVec 256) (aux : Word) (index : Nat) : Blk :=
  BitVec.ofNat 512 (at_ r.toNat 0 8 + at_ index 32 32 + at_ r.toNat 64 256 + at_ aux.toNat 320 64)

/-- The trap record of a confidential context: bits 383:64 encrypted, the tag above (R404). -/
def sealedRecord (key : Nat) (r : BitVec 256) (aux : Word) (index epoch : Nat) : Blk :=
  let h := at_ r.toNat 0 8 + 2 ^ 8 + at_ index 32 32
  let x := (Config.gcmSeal key (epoch * 2 ^ 32 + index) h (r.toNat + aux.toNat * 2 ^ 256)).toNat
  BitVec.ofNat 512 (h + at_ x 64 320 + at_ (x / 2 ^ 320) 384 128)

/-- The clear header is kept in the H-die's log of the context (R420, R423). -/
def State.headerLog (s : State) (ctx : Nat) (x : Blk) : State :=
  s.modMgmt fun m =>
    let p := Sparse.get m.trapProd 0 ctx
    { m with
      trapLog := Sparse.set m.trapLog (4096 * ctx + p % 4096) (BitVec.ofNat 64 x.toNat)
      trapProd := Sparse.set m.trapProd ctx (p + 1) }

/-- A record is written to its ring: `none` while the ring is full, or its page migrates (R35, R406). -/
def State.writeTrap (s : State) (t : Trap) : Option State :=
  match s.ctx? t.ctx with
  | none => some s
  | some c =>
    match s.ringCtl t.ctx c.ringBase with
    | (s1, none) => if s.migrates t.ctx (c.ringBase - 64) then none else some s1
    | (s1, some (ctl, l, b)) =>
      let prod := Blk.fld b.data 0 32
      let epoch := Blk.fld b.data 32 32
      let cons := Blk.fld b.data 64 32
      if (prod + 2 ^ 32 - cons) % 2 ^ 32 = 2 ^ c.ringLog2 then none
      else
        let va := c.ringBase + BitVec.ofNat 64 (64 * (prod % 2 ^ c.ringLog2))
        match s1.place t.ctx va with
        | (s2, none) => if s1.migrates t.ctx va then none else some s2
        | (s2, some (slot, ls)) =>
          let x := if c.conf then sealedRecord (deriveKey (s.secret t.ctx) t.ctx labelRec 32) t.record t.aux prod epoch
            else clearRecord t.record t.aux prod
          let s3 := (s2.homeWrite ls.objPol ls.key slot x (BitVec.allOnes 64) (some Pair.raw)).1
          let y := Blk.put b.data 0 32 (prod + 1)
          let z := if prod + 1 = 2 ^ 32 then Blk.put y 32 32 (epoch + 1) else y
          some ((s3.putAt l.objPol l.key ctl { b with data := z }).headerLog t.ctx x)

/-- The first record of the list that finds room, with the list without it; a context's records keep their order (R406). -/
def State.firstTrap (s : State) : (todo kept : List Trap) → Option (State × List Trap)
  | [], _ => none
  | t :: r, kept =>
    if kept.any fun k => k.ctx == t.ctx then State.firstTrap s r (kept ++ [t])
    else
      match s.writeTrap t with
      | some s1 => some (s1, kept ++ r)
      | none => State.firstTrap s r (kept ++ [t])

/-- TRAP_RECORD_WRITE (R404, R406): one record. -/
def execTrapRecordWrite (s : State) : Out :=
  .next (match s.firstTrap s.traps [] with
    | some (s1, ts) => { s1 with traps := ts }
    | none => s)

/-- A record is dropped after 65,536 cycles: LOST rises and LOSTF is set (R405, R406). -/
def State.loseTrap (s : State) (t : Trap) : State :=
  match s.ctx? t.ctx with
  | none => s
  | some c =>
    match s.ringCtl t.ctx c.ringBase with
    | (s1, none) => s1
    | (s1, some (ctl, l, b)) =>
      let n := Blk.fld b.data 128 31
      s1.putAt l.objPol l.key ctl
        { b with data := Blk.put (Blk.put b.data 128 31 (if n = 2 ^ 31 - 1 then n else n + 1)) 159 1 1 }

/-- Whether the ring of a context waits for a page that migrates, the control block's or its next slot's: that is no want of room,
and ends by itself (R35). -/
def State.ringMigrates (s : State) (ctx : Nat) : Bool :=
  match s.ctx? ctx with
  | none => false
  | some c =>
    s.migrates ctx (c.ringBase - 64) ||
    (match (s.ringCtl ctx c.ringBase).2 with
      | some (_, _, b) =>
        let prod := Blk.fld b.data 0 32
        decide ((prod + 2 ^ 32 - Blk.fld b.data 64 32) % 2 ^ 32 ≠ 2 ^ c.ringLog2) &&
          s.migrates ctx (c.ringBase + BitVec.ofNat 64 (64 * (prod % 2 ^ c.ringLog2)))
      | none => false)

/-- RING_STALL_TIMEOUT (R406): a record whose ring has had no room for 65,536 cycles is dropped; one that waits for a page that
migrates is, without a slot or a control block to count it in, after the 131,072 cycles of R35. -/
def execRingStallTimeout (s : State) : Out :=
  .next (match s.traps.find? fun t => decide (t.since + Config.ringStall ≤ s.cycle) &&
      (decide (t.since + Config.migrationCycles ≤ s.cycle) || !s.ringMigrates t.ctx) with
    | some t => { s.loseTrap t with traps := s.traps.erase t }
    | none => s)

end Sys2Proof.Machine
end

