-- ==== Sys2Proof/Machine/Expert.lean ====
section
/-! DEFINITION. The histogram unit and the heap stores: HIST, HOFFER and HDUMP (R356, R357). -/

namespace Sys2Proof.Machine

-- HISTOGRAM (R356)

/-- A bin of a context on a die. -/
def State.bin (s : State) (die ctx i : Nat) : Nat := (Sparse.get (s.die die).bins 0 (1024 * ctx + i)).toNat

/-- HIST at the unit: `a.a` holds the bin, `a.b` the amount. -/
def State.histOp (s : State) (a : Access) (add : Bool) : State :=
  let i := a.a.toNat
  if 1023 < i then s.failAcc a .bounds Cause.descriptor 0
  else
    let x := s.bin a.die a.ctx i
    let y := if add then Nat.min (2 ^ 32 - 1) (x + a.b.toNat % 2 ^ 32) else x
    (s.modDie a.die fun d => { d with bins := Sparse.set d.bins (1024 * a.ctx + i) (BitVec.ofNat 32 y) }).answer a.id
      (ansG (BitVec.ofNat 64 y))

-- HEAPS (R357)

/-- The score of a heap entry. -/
def score (x : Word) : Num := floatValue fFP32 (x.toNat % 2 ^ 32)

/-- Entry x ranks above entry y. -/
def ranksAbove (x y : Word) : Bool :=
  if (score x).isNaN then false
  else if (score y).isNaN then true
  else if ltZ (score y) (score x) then true
  else if ltZ (score x) (score y) then false
  else x.toNat / 2 ^ 32 < y.toNat / 2 ^ 32

/-- The heap with an entry inserted in its order, highest rank first. -/
def heapInsert (x : Word) : List Word → List Word
  | [] => [x]
  | y :: r => if ranksAbove x y then x :: y :: r else y :: heapInsert x r

/-- An offer: the entries after it, and whether it was inserted. -/
def heapOffer (h : Heap) (x : Word) : List Word × Bool :=
  if (score x).isNaN then (h.entries, false)
  else if h.entries.length < h.cap then (heapInsert x h.entries, true)
  else
    match h.entries.getLast? with
    | some y => if ranksAbove x y then (heapInsert x h.entries.dropLast, true) else (h.entries, false)
    | none => (h.entries, false)

/-- A heap of a tile. -/
def Tile.heap (t : Tile) (n : Nat) : Heap := Sparse.get t.heaps ⟨0, []⟩ n

/-- Whether a tile hosts a station of a context. -/
def State.hosts (s : State) (ctx tile : Nat) : Bool :=
  (s.tile tile).ctx == some ctx && List.any s.lines fun l => l.2.ctx == ctx && l.2.stns.any fun x => x.2 == tile

/-- A heap operation: the operand's checks, then the operation with the tile and heap number. -/
def State.heapOp (s : State) (a : Access) (init : Bool) (f : State → Nat → Nat → Heap → State) : State :=
  let x := a.a.toNat
  let tile := x % 2 ^ 10
  let n := x / 2 ^ 12 % 4
  if x / 2 ^ 14 ≠ 0 ∨ x / 2 ^ 10 % 4 ≠ 0 then s.failAcc a .bounds Cause.descriptor 0
  else if !s.hosts a.ctx tile then s.failAcc a .permission Cause.foreignTile 0
  else
    let h := (s.tile tile).heap n
    if h.cap = 0 ∧ !init then s.failAcc a .bounds Cause.descriptor 0 else f s tile n h

/-- The state with a heap replaced. -/
def State.setHeap (s : State) (tile n : Nat) (h : Heap) : State :=
  s.modTile tile fun t => { t with heaps := Sparse.set t.heaps n h }

/-- HOFFER at the heap's tile: `a.b` holds the entry. -/
def State.offer (s : State) (a : Access) : State :=
  s.heapOp a false fun s tile n h =>
    let (es, ok) := heapOffer h a.b
    (s.setHeap tile n { h with entries := es }).answer a.id (ansG (if ok then 1 else 0))

/-- Eight entries as a block. -/
def entryBlock (es : List Word) : Blk := BitVec.ofNat 512 (es.foldr (fun x a => x.toNat + 2 ^ 64 * a) 0)

/-- The stores of a dump, block by block, as stores of the issuing station (R357). -/
def State.dumpBlocks (s : State) (a : Access) : (n : Nat) → Word → List Word → State × Option (Err × BitVec 8 × Nat)
  | 0, _, _ => (s, none)
  | n + 1, va, es =>
    if es = [] then (s, none)
    else
      let here := es.take 8
      match s.translate a.die a.ctx va .store with
      | (s1, .leaf l) =>
        (match (s1.dropL1 a.tile (lineKey l.key (l.addr va))).unitStore a.die a.ctx .cached va (entryBlock here)
            (maskAt 0 (8 * here.length)) with
        | (s2, none) => State.dumpBlocks (s2.moved a.actor 1) a n (va + 64) (es.drop 8)
        | (s2, some e) => (s2, some e))
      | (s1, .fail e c d) => (s1, some (e, c, d))
      | (s1, .mig _) => (s1, some (.translation, Cause.migrationTimeout, vaDetail va 0))

/-- HDUMP at the heap's tile: `a.va` is the address. -/
def State.dump (s : State) (a : Access) (clr : Bool) : State :=
  s.heapOp a false fun s tile n h =>
    let s1 := if clr then s.setHeap tile n { h with entries := [] } else s
    let done (s : State) : State :=
      let (s2, e) := s.dumpBlocks a 129 a.va h.entries
      match e with
      | none => (if clr then s2.setHeap tile n { h with entries := [] } else s2).answer a.id
          (ansG (BitVec.ofNat 64 h.entries.length))
      | some (e, c, d) => s2.failAcc a e c d
    if h.entries = [] then s1.answer a.id (ansG 0)
    else
      s.viaLeaf a a.va .store fun s _ =>
        s.viaLeaf a (a.va + BitVec.ofNat 64 (64 * ((h.entries.length - 1) / 8))) .store fun s _ => done s

/-- HDUMP.init at the heap's tile: `a.b` holds CAP. -/
def State.heapInit (s : State) (a : Access) : State :=
  s.heapOp a true fun s tile n h =>
    let cap := a.b.toNat % 2 ^ 11
    let others := (((List.range 4).filter (· != n)).map fun k => ((s.tile tile).heap k).cap).sum
    if cap = 0 ∨ 1024 < cap ∨ 1024 < others + cap then s.failAcc a .bounds Cause.descriptor 0
    else (s.setHeap tile n ⟨cap, []⟩).answer a.id (ansG (BitVec.ofNat 64 h.entries.length))

-- INSTRUCTIONS

/-- HIST (R356). -/
def execHist (d s1 s2 : Fin 16) (w : Wave) (s : State) : Out :=
  .next (s.access (.hist d s1 s2 w) (some w) 0 (s.g s1).val (s.g s2).val 0 VReg.zero (s.opCheck [s.g s1, s.g s2] 0 1))
/-- HIST.rd (R356). -/
def execHistRd (d s1 : Fin 16) (w : Wave) (s : State) : Out :=
  .next (s.access (.histRd d s1 w) (some w) 0 (s.g s1).val 0 0 VReg.zero (s.opCheck [s.g s1] 0 1))
/-- HOFFER (R357). -/
def execHoffer (d s1 s2 : Fin 16) (w : Wave) (s : State) : Out :=
  .next (s.access (.hoffer d s1 s2 w) (some w) 0 (s.g s1).val (s.g s2).val 0 VReg.zero (s.opCheck [s.g s1, s.g s2] 0 1))
/-- HDUMP (R357). -/
def execHdump (d s1 s2 : Fin 16) (w : Wave) (s : State) : Out :=
  .next (s.access (.hdump d s1 s2 w) (some w) (s.g s2).val (s.g s1).val 0 0 VReg.zero
    (s.opCheck [s.g s1, s.g s2] (s.g s2).val 64))
/-- HDUMP.clr (R357). -/
def execHdumpClr (d s1 s2 : Fin 16) (w : Wave) (s : State) : Out :=
  .next (s.access (.hdumpClr d s1 s2 w) (some w) (s.g s2).val (s.g s1).val 0 0 VReg.zero
    (s.opCheck [s.g s1, s.g s2] (s.g s2).val 64))
/-- HDUMP.init (R357). -/
def execHdumpInit (d s1 s2 : Fin 16) (w : Wave) (s : State) : Out :=
  .next (s.access (.hdumpInit d s1 s2 w) (some w) 0 (s.g s1).val (s.g s2).val 0 VReg.zero
    (s.opCheck [s.g s1, s.g s2] 0 1))

end Sys2Proof.Machine
end

