-- ==== Sys2Proof/Machine/System.lean ====
section
/-! DEFINITION. The class 111 instructions (R358 to R368): the line, the context and the tile. -/

namespace Sys2Proof.Machine

/-- An instruction that writes D after two cycles (R369), unless an operand is a token, which is passed on. -/
def sysD (s : State) (gs : List GReg) (d : Fin 16) (ok : State → State) : State :=
  match firstTok gs with
  | some x => s.issue 2 [s.wg d x] (some (s.passG x))
  | none => ok s

/-- D takes a word (R369). -/
def State.sysWord (s : State) (d : Fin 16) (x : Word) : State := s.issue 2 [s.wg d ⟨x, Pair.int64⟩] none
/-- D takes a token. -/
def State.sysErr (s : State) (d : Fin 16) (e : Err) (cause : BitVec 8) : State :=
  let t := s.tok e cause 0
  s.issue 2 [s.wg d t.greg] (some t)

-- TRAP (R363)

/-- DETAIL of E_TRAP: IMM in bits 15:0, Reg(S1) above (notes/assumptions/22.md). -/
def trapDetail (imm : BitVec 16) (x : Word) : Nat := imm.toNat + at_ x.toNat 16 48

/-- TRAP (R363). -/
def execTrap (poi : Bool) (g : Option (Fin 16)) (imm : BitVec 16) (s : State) : Out :=
  let x := match g with | some r => s.g r | none => GReg.zero
  .next (
    if x.isTok then s.attach s.cur.actor (s.passG x)
    else
      let r := s.raise .trap 0 (trapDetail imm x.val)
      let s1 := s.trap s.me.ctx s.cur.actor r
      if poi ∧ s.me.item.isSome then s1.attach s.cur.actor ⟨r, true⟩ else s1)

-- FEAT (R364)

/-- Feature word n, for a context and a die (R364). -/
def State.feature (s : State) (ctx die n : Nat) : Word :=
  BitVec.ofNat 64 (match n with
    | 0 => 4 + at_ Config.stepping.toNat 8 8 + at_ 4 16 4 + at_ 192 20 12 + at_ 1500 32 16
    | 1 => 0xFFF
    | 2 => 0x3F
    | 3 => 63 + at_ 336 16 16 + at_ 768 32 16 + at_ 320 48 16
    | 4 => 128 + at_ 32 16 16 + at_ (s.die die).poolSize 32 8 + at_ 18 40 8
    | 5 => s.dev + at_ ctx 16 8 + at_ (s.isConf ctx).toNat 24 1 + at_ die 25 2
    | _ => 0)

/-- FEAT (R364). -/
def execFeat (d : Fin 16) (n : ImmOrG) (s : State) : Out :=
  let gs := match n with | .reg r => [s.g r] | .imm _ => []
  .next (sysD s gs d fun s => s.sysWord d (s.feature s.me.ctx (dieOf s.cur.tile) (s.immOrG n)))

-- BEAT, GOVN AND RDBEAT (R358, R359)

/-- A LINE_BEAT that R181 accepts. -/
def beatOk (x : Word) : Bool :=
  x.toNat / 2 ^ 41 = 0 && x.toNat / 2 ^ 16 % 2 ^ 16 = 0 && 1 ≤ x.toNat / 2 ^ 32 % 2 ^ 8 && 8 ≤ x.toNat % 2 ^ 16

/-- A LINE_GOV that R181 accepts. -/
def govOk (x : BitVec 128) : Bool :=
  x.toNat / 2 ^ 96 = 0 && 1 ≤ x.toNat % 2 ^ 16 && 8 ≤ x.toNat / 2 ^ 16 % 2 ^ 16
  && x.toNat / 2 ^ 16 % 2 ^ 16 ≤ x.toNat / 2 ^ 32 % 2 ^ 16

/-- A write of LINE_BEAT, of its whole word or of its BEAT field, waits for the boundary; the writes stand in station-number order
(R358). -/
def Line.askBeat (l : Line) (stn : Nat) (whole : Bool) (x : Word) : Line :=
  { l with beatReq := (l.beatReq.takeWhile fun r => decide (r.1 ≤ stn)) ++ (stn, whole, x) ::
      l.beatReq.dropWhile fun r => decide (r.1 ≤ stn) }

/-- A write of LINE_GOV waits for the boundary (R358). -/
def Line.askGov (l : Line) (stn : Nat) (x : BitVec 128) : Line :=
  match l.govReq with
  | some (n, y) => { l with govReq := if n ≤ stn then some (stn, x) else some (n, y) }
  | none => { l with govReq := some (stn, x) }

/-- A LINE_BEAT word with its BEAT field written. -/
def withBeat (w : Word) (b : Nat) : Word := BitVec.ofNat 64 (w.toNat / 2 ^ 16 * 2 ^ 16 + b % 2 ^ 16)

/-- BEAT of a whole word or of the BEAT field; an evaluation has no line. -/
def beatTo (s : State) (d : Fin 16) (whole : Bool) (x : Word) : State :=
  match s.lineOf s.cur.actor with
  | none => s.sysErr d .permission Cause.noLine
  | some k =>
    match s.line? k with
    | none => s.sysErr d .permission Cause.noLine
    | some l =>
      if beatOk (if whole then x else withBeat l.beat x.toNat) then (s.modLine k fun l => l.askBeat s.me.stn whole x).sysWord d l.beat
      else s.sysErr d .bounds Cause.descriptor

/-- BEAT (R358). -/
def execBeat (d s1 : Fin 16) (s : State) : Out :=
  .next (sysD s [s.g s1] d fun s => beatTo s d true (s.g s1).val)

/-- BEAT.b (R358): the other fields stay as the writes applied before it leave them. -/
def execBeatB (d : Fin 16) (b : BitVec 16) (s : State) : Out := .next (beatTo s d false (b.setWidth 64))

/-- GOVN (R358). -/
def execGovn (d : Fin 16) (p : Fin 8) (s : State) : Out :=
  let a := s.gn (2 * p.val)
  let b := s.gn (2 * p.val + 1)
  .next (sysD s [a, b] d fun s =>
    let x : BitVec 128 := BitVec.ofNat 128 (a.val.toNat + b.val.toNat * 2 ^ 64)
    match s.lineOf s.cur.actor with
    | none => s.sysErr d .permission Cause.noLine
    | some k =>
      if govOk x then
        let old := match s.line? k with | some l => l.gov.extractLsb' 0 64 | none => 0
        (s.modLine k fun l => l.askGov s.me.stn x).sysWord d old
      else s.sysErr d .bounds Cause.descriptor)

/-- RDBEAT (R359); where the unit has no line its value is open (notes/assumptions/3.md). -/
def execRdbeat (d : Fin 16) (c : Fin 5) (s : State) : Out :=
  .next (match (s.lineOf s.cur.actor).bind s.line? with
    | none => s.drew.sysWord d (Config.freeWord s.fresh)
    | some l =>
      s.sysWord d (match c.val with
        | 0 => l.counter.setWidth 64
        | 1 => l.beat
        | 2 => l.gov.extractLsb' 0 64
        | 3 => l.gov.extractLsb' 64 64
        | _ => BitVec.ofNat 64 l.winOver))

-- CFG, YIELD AND EXITL (R360 to R362)

/-- CFG (R360). -/
def execCfg (d s1 s2 : Fin 16) (s : State) : Out :=
  .next (unitIssue s (.cfg d s1 s2) (s.g s1).val (s.g s2).val 0 [s.g s1, s.g s2] 4)

/-- YIELD (R361). -/
def execYield (s : State) : Out := .next (s.modMe fun a => { a with yielded := true })

/-- An EXITL: the line's exit, or the end of an evaluation (R121, R362). -/
def exitWith (s : State) (now : Bool) : State :=
  if isEvalKey s.cur.actor then
    match s.recOf s.cur.actor with
    | some (die, r) => s.now (.evaluationAbandon die r.evid Cause.exited)
    | none => s
  else s.modLine s.me.line fun l => { l with exiting := true, exitNow := l.exitNow || now }

/-- EXITL (R362). -/
def execExitl (s : State) : Out := .next (exitWith s false)
/-- EXITL.now (R362). -/
def execExitlNow (s : State) : Out := .next (exitWith s true)

-- RDCTR (R365)

/-- The key of a cycle-class count of a tile: class, then queue or port (R365, R418). -/
def countKey (c i : Nat) : Nat := 16 * c + i

/-- A counter of RDCTR; a line's counter read without a line is open (notes/assumptions/3.md). -/
def State.counter (s : State) (c i : Nat) : Word :=
  let line := (s.lineOf s.cur.actor).bind s.line?
  let open_ := Config.freeWord s.fresh
  match c with
  | 0 | 3 | 4 => Sparse.get s.here.counts 0 (countKey c 0)
  | 1 | 2 => Sparse.get s.here.counts 0 (countKey c i)
  | 5 => s.me.handed
  | 6 => s.me.overruns
  | 7 => s.me.bubbles
  | 8 => match line with | some l => l.reworked | none => open_
  | 9 => match line with
    | some l => (match l.sinks[i]? with | some k => k.overruns | none => open_)
    | none => open_
  | _ => (s.ringLost s.me.ctx 31).2

/-- RDCTR (R365). -/
def execRdctr (d : Fin 16) (c : Fin 11) (i : Fin 8) (s : State) : Out :=
  .next (((if c.val = 10 then (s.ringLost s.me.ctx 31).1 else s).drew).sysWord d (s.counter c.val i.val))

-- WATCH, LDCB AND RNGSEED (R366 to R368)

/-- WATCH (R366). -/
def execWatch (d s1 : Fin 16) (t : WatchTr) (once clr : Bool) (id : Fin 16) (s : State) : Out :=
  .next (unitIssue s (.watch d s1 t once clr id) (s.g s1).val 0 0 [s.g s1] 64)

/-- LDCB, memory form (R367). -/
def execLdcb (cb s1 : Fin 16) (s : State) : Out :=
  .next (unitIssue s (.ldcb cb s1) (s.g s1).val 0 0 [s.g s1] 32)

/-- LDCB.v (R367): the half is written at C-die 0, and the codebook stays pending on the tile until its answer. -/
def execLdcbV (cb v : Fin 16) (half : Bool) (s : State) : Out :=
  let x := s.v v
  .next (
    if x.isTok then s.attach s.cur.actor (passV x)
    else
      let y : BitVec 256 := x.val.extractLsb' (256 * half.toNat) 256
      s.access (.ldcbV cb v half) none 0 0 0 0 ⟨y.setWidth 512, Pair.raw⟩ none)

/-- RNGSEED (R368). -/
def execRngseed (s1 : Fin 16) (s : State) : Out :=
  let x := s.g s1
  .next (if x.isTok then s.attach s.cur.actor (s.passG x) else s.modMe fun a => { a with seed := x.val })

end Sys2Proof.Machine
end

