-- ==== Sys2Proof/Machine/Loader.lean ====
section
/-! DEFINITION. The loader: configuration streams, their checks, how and when they are applied (R50, R146, R175, R187,
R192, R206, R207, R209 to R226). -/

namespace Sys2Proof.Machine

-- COMMANDS (R211 to R215)

/-- A write of one whole field of one element. -/
structure Sett where
  x : Nat
  y : Nat
  cfg : Nat
  idx : Nat
  val : Nat
  deriving DecidableEq, Repr

/-- A rectangle of a pattern (R214). -/
structure Rect where
  x0 : Nat
  y0 : Nat
  x1 : Nat
  y1 : Nat
  flags : Nat
  deriving DecidableEq, Repr

/-- What the parser stands in. -/
inductive Mode where
  | top
  /-- After a PAT: its index, id, length, and the rectangles so far. -/
  | pat (i id len : Nat) (rects : List Rect)
  /-- In a body: its PAT's index, its id, commands left, rectangles, and the settings so far. -/
  | body (i id left : Nat) (rects : List Rect) (acc : List Sett)
  deriving DecidableEq, Repr

/-- The parser's state. -/
structure PSt where
  mode : Mode
  exts : List Nat
  pats : Sparse (List Sett)
  total : Nat
  out : List Sett
  deriving DecidableEq, Repr

/-- The elements that a rectangle selects. -/
def Rect.elems (r : Rect) : List (Nat × Nat) :=
  ((List.range (r.y1 + 1)).filter fun y => r.y0 ≤ y && !(r.flags / 4 % 2 = 1 && y % 2 = 1) && !(r.flags / 8 % 2 = 1 && y % 2 = 0)).flatMap
    fun y => ((List.range (r.x1 + 1)).filter fun x =>
      r.x0 ≤ x && !(r.flags % 2 = 1 && x % 2 = 1) && !(r.flags / 2 % 2 = 1 && x % 2 = 0)).map fun x => (x, y)

/-- The RECT of a command, when R215 accepts it. -/
def rectOf (w h c : Nat) : Option Rect :=
  let r : Rect := ⟨c / 2 ^ 24 % 64, c / 2 ^ 18 % 64, c / 2 ^ 12 % 64, c / 2 ^ 6 % 64, c % 16⟩
  if r.x1 < r.x0 ∨ r.y1 < r.y0 ∨ w ≤ r.x1 ∨ h ≤ r.y1 ∨ c / 16 % 4 ≠ 0 ∨ (r.flags % 2 = 1 ∧ r.flags / 2 % 2 = 1)
      ∨ (r.flags / 4 % 2 = 1 ∧ r.flags / 8 % 2 = 1) then none
  else some r

/-- A body applied to its rectangles (R213). -/
def applyBody (rects : List Rect) (body : List Sett) : List Sett :=
  rects.flatMap fun r => r.elems.flatMap fun e => body.map fun b => { b with x := e.1, y := e.2 }

/-- The setting of a SET with the EXTs before it (R212). -/
def settOf (exts : List Nat) (c : Nat) : Sett :=
  ⟨c / 2 ^ 20 % 32, c / 2 ^ 25 % 32, c / 2 ^ 17 % 8, c / 2 ^ 12 % 32, (exts.foldl (fun a e => a * 2 ^ 30 + e) 0) * 2 ^ 12 + c % 2 ^ 12⟩

/-- One command at the top level: the parser's next state, or `none` for STREAM_FORM. -/
def parseTop (w h i : Nat) (p : PSt) (c : Nat) : Option PSt :=
  match c / 2 ^ 30 with
  | 0 =>
    let t := settOf p.exts c
    if w ≤ t.x ∨ h ≤ t.y then none else some { p with exts := [], out := p.out ++ [t] }
  | 1 => if p.exts.length = 17 then none else some { p with exts := p.exts ++ [c % 2 ^ 30] }
  | 2 =>
    let id := c / 2 ^ 20 % 2 ^ 10
    let len := c % 2 ^ 20
    if p.exts ≠ [] ∨ (Sparse.find? p.pats id).isSome = decide (len ≠ 0) then none
    else some { p with mode := .pat i id len [] }
  | _ => none

/-- One command of a body. -/
def parseBody (i id left : Nat) (rects : List Rect) (acc : List Sett) (p : PSt) (c : Nat) : Option PSt :=
  let next (p : PSt) (acc : List Sett) : Option PSt :=
    if 65536 < p.total + 1 then none
    else if left ≤ 1 then
      if p.exts ≠ [] then none
      else some { p with mode := .top, total := p.total + 1, pats := Sparse.set p.pats id acc, out := p.out ++ applyBody rects acc }
    else some { p with mode := .body i id (left - 1) rects acc, total := p.total + 1 }
  match c / 2 ^ 30 with
  | 0 => if c / 2 ^ 20 % 2 ^ 10 ≠ 0 then none else next { p with exts := [] } (acc ++ [settOf p.exts c])
  | 1 => if p.exts.length = 17 then none else next { p with exts := p.exts ++ [c % 2 ^ 30] } acc
  | _ => none

/-- One command (R215). -/
def parseStep (w h i : Nat) (p : PSt) (c : Nat) : Option PSt :=
  match p.mode with
  | .top => parseTop w h i p c
  | .pat j id len rects =>
    if c / 2 ^ 30 = 3 then (rectOf w h c).map fun r => { p with mode := .pat j id len (rects ++ [r]) }
    else if rects = [] then none
    else if len = 0 then
      parseTop w h i { p with mode := .top, out := p.out ++ applyBody rects (Sparse.get p.pats [] id) } c
    else parseBody j id len rects [] { p with mode := .body j id len rects [] } c
  | .body j id left rects acc => parseBody j id left rects acc p c

/-- The settings of a command sequence in order, or the index of the first command that fails (R215, R224). -/
def parseGo (w h : Nat) : (i : Nat) → PSt → List Nat → Except Nat (List Sett)
  | i, p, [] =>
    match p.mode with
    | .top => if p.exts = [] then .ok p.out else .error (i - 1)
    | .pat j id len rects =>
      if rects = [] ∨ len ≠ 0 then .error j else .ok (p.out ++ applyBody rects (Sparse.get p.pats [] id))
    | .body j _ _ _ _ => .error j
  | i, p, c :: r =>
    match parseStep w h i p c with
    | some p' => parseGo w h (i + 1) p' r
    | none => .error i

/-- A whole command sequence, on a region of w by h elements. -/
def parseStream (w h : Nat) (cmds : List Nat) : Except Nat (List Sett) := parseGo w h 0 ⟨.top, [], [], 0, []⟩ cmds

-- FIELDS (R216)

/-- The width of a field; none for a reserved index. -/
def fieldWidth (idx : Nat) : Option Nat :=
  if idx ≤ 15 then some 96
  else match idx with
    | 16 => some 192 | 17 => some 512 | 18 => some 32 | 19 => some 64 | 20 => some 384
    | 24 => some 64 | 25 => some 48 | 26 => some 48
    | _ => none

/-- A SET that R212 and R216 accept. -/
def Sett.fits (t : Sett) : Bool :=
  match fieldWidth t.idx with
  | some w => t.val < 2 ^ w && (t.idx < 24 || t.cfg = 0)
  | none => false

/-- The value as it is stored: the loader substitutes the region in STN_CFG (R217). -/
def Sett.stored (t : Sett) (region : Nat) : BitVec 512 :=
  BitVec.ofNat 512 (if t.idx = 19 then t.val + region * 2 ^ 18 else t.val)

/-- A configuration with a field written. -/
def Cfg.write (c : Cfg) (idx : Nat) (v : BitVec 512) : Cfg :=
  if idx ≤ 15 then { c with slots := Sparse.set c.slots idx (v.setWidth 96) }
  else match idx with
    | 16 => { c with routes := v.setWidth 192 }
    | 17 => { c with shapes := v }
    | 18 => { c with rework := v.setWidth 32 }
    | 19 => { c with stn := v.setWidth 64 }
    | _ => { c with ags := v.setWidth 384 }

/-- A tile with a field written. -/
def Tile.write (t : Tile) (cfg idx : Nat) (v : BitVec 512) : Tile :=
  match idx with
  | 24 => { t with issue := v.setWidth 64 }
  | 25 => { t with iqmap := v.setWidth 48 }
  | 26 => { t with oqmap := v.setWidth 48 }
  | _ => { t with cfgs := Sparse.set t.cfgs cfg ((t.cfg cfg).write idx v) }

-- WHAT THE CHECKS ASK OF AN INSTRUCTION

/-- The wave triple of a wave participant (R206). -/
def waveOf : Instr → Option Wave
  | .ld _ _ _ _ _ w | .st _ _ _ _ _ w | .ldb _ _ _ _ w | .stb _ _ _ _ w | .stbObj _ _ _ _ w | .stbUnobj _ _ _ w
  | .pref _ _ _ w | .afadd _ _ _ _ _ _ w | .acas _ _ _ _ _ _ _ w | .aswap _ _ _ _ _ _ w | .amin _ _ _ _ _ _ _ w
  | .amax _ _ _ _ _ _ _ w | .aand _ _ _ _ _ _ w | .aor _ _ _ _ _ _ w | .bind _ _ _ w | .unbind _ w | .unbindObj _ w
  | .acqLockWait _ _ _ _ w | .acqLockTry _ _ _ _ w | .acqFlagWait _ _ _ _ _ w | .acqFlagAny _ _ _ _ w | .relLock _ _ _ w
  | .relSet _ _ _ w | .relAdd _ _ _ w | .fenceRel _ w | .fenceAcq _ w | .fenceAr _ w | .barr _ _ _ _ w | .barrNowait _ _ _ _ w
  | .sdec _ _ _ _ w | .sinc _ _ _ _ w | .rpush _ _ _ _ _ w | .rpop _ _ _ _ _ w | .csusp _ _ _ w | .cres _ _ _ w
  | .cresSp _ _ _ w | .ctag _ _ w | .cpois _ _ w | .jcopy _ _ w | .jgath _ _ w | .jscat _ _ w | .jcoll _ _ w
  | .hist _ _ _ w | .histRd _ _ w | .hoffer _ _ _ w | .hdump _ _ _ w | .hdumpClr _ _ _ w | .hdumpInit _ _ _ w => some w
  | _ => none

/-- The instructions whose configuration must declare CARRY (R146). -/
def needsCarry : Instr → Bool
  | .afadd .. | .acas .. | .aswap .. | .amin .. | .amax .. | .aand .. | .aor .. | .bind .. | .unbind .. | .unbindObj ..
  | .acqLockWait .. | .acqLockTry .. | .acqFlagWait .. | .acqFlagAny .. | .relLock .. | .relSet .. | .relAdd .. | .barr ..
  | .barrNowait .. | .sdec .. | .sinc .. | .rpush .. | .rpop .. | .csusp .. | .cres .. | .cresSp .. | .cpois .. | .jcopy ..
  | .jgath .. | .jscat .. | .jcoll .. | .hist .. | .histRd .. | .hoffer .. => true
  | _ => false

-- TRIGGER WORDS (R191, R192)

/-- A trigger word that R192 accepts on a tile. -/
def triggerOk (t : Tile) (x : BitVec 32) : Bool :=
  let qae := trg x 15 1 = 1
  let qbe := trg x 11 1 = 1
  let oqe := trg x 7 1 = 1
  let rte := trg x 3 1 = 1
  Nat.land (trg x 16 8) (255 - trg x 24 8) = 0
  && (qae || trg x 12 3 = 0) && (qbe || trg x 8 3 = 0) && (oqe || trg x 4 3 = 0) && (rte || trg x 0 3 = 0)
  && (!qbe || qae) && (!rte || qae) && !(qae && qbe && trg x 12 3 = trg x 8 3)
  && (!qae || (mapEntry t.iqmap (trg x 12 3)).isSome) && (!qbe || (mapEntry t.iqmap (trg x 8 3)).isSome)
  && (!oqe || (mapEntry t.oqmap (trg x 4 3)).isSome)

-- CHECKS OF FIELDS (R50, R210, R217 to R222)

/-- What an entry asks of the trigger, the tile's maps and the other configurations (R251, R252, R254, R257 to R259,
R272, R324, R326); `head` says that the tile's station is a head station. -/
def entryCheck (head : Bool) (t : Tile) (c : Cfg) (x : BitVec 32) (i : Instr) : Option LoadCause :=
  let must (b : Bool) (e : LoadCause) : Option LoadCause := if b then none else some e
  let gen (n : Fin 4) (size : Nat) : Option LoadCause :=
    let g := genOf c.ags n.val
    if !g.enabled then some .generator else must (2 ^ g.esize = size) .value
  match i with
  | .sld ty (.gen n) _ | .sst ty (.gen n) _ => gen n ty.bytes
  | .sldb (.gen n) _ | .sstb (.gen n) _ => gen n 64
  | .emit oq (.queue q) _ => must (trigOut x oq.val && trigIn x q.val) .trigger
  | .emit oq (.reg _) _ => must (trigOut x oq.val) .trigger
  | .deq _ q _ | .deqDiscard q _ | .hdr _ q _ _ => must (trigIn x q.val) .trigger
  | .mma true _ _ _ _ _ _ | .mmat true _ _ _ _ _ _ => must (trg x 7 1 = 1) .trigger
  | .mdrain _ _ _ oq _ (.queue q) _ => must (trigOut x oq.val && trigIn x q.val) .trigger
  | .mdrain _ _ _ oq _ (.reg _) _ => must (trigOut x oq.val) .trigger
  | .steer _ a b => must ((mapEntry t.oqmap a.val).isSome && (mapEntry t.oqmap b.val).isSome) .value
  | .pull q _ _ => must (match mapEntry t.iqmap q.val with | some (_, tag) => tag = 7 | none => false) .value
  | .switch (.imm n) _ =>
    must ((t.cfg n.val).valid && (t.cfg n.val).stnNo = c.stnNo && (t.cfg n.val).region = c.region) .value
  | .splice _ _ => must head .value
  | _ => none

/-- A slot's check, in the order of R224. -/
def slotCheck (head : Bool) (t : Tile) (c : Cfg) (x : BitVec 96) : Option LoadCause :=
  if x = vacant then none
  else if !c.valid then some .opcodeUnassigned
  else if !triggerOk t (slotTrig x) then some .trigger
  else
    match decode (slotOp x) with
    | .error e => some e
    | .ok i => entryCheck head t c (slotTrig x) i

/-- The check of an enabled generator (R50). -/
def genOk (w : Nat × Nat) (g : Gen) : Bool :=
  let e := 2 ^ g.esize
  let d0 : Int := g.c0 * g.s0
  let d1 : Int := g.c1 * g.s1
  let lo : Int := (g.base : Int) + min 0 d0 + min 0 d1
  let hi : Int := (g.base : Int) + max 0 d0 + max 0 d1 + e - 1
  g.clean && g.esize ≠ 7
  && (g.esize < 2 || (g.base % e = 0 && g.s0 % e = 0 && g.s1 % e = 0))
  && decide (0 ≤ lo) && decide (hi < w.2)
  && (g.rot / 8 % 2 = 0 || (decide (0 < g.s1) && rotOk g.base g.s1.toNat 0 g.rot))

/-- A STN_CFG that R217 accepts by itself. -/
def stnCfgOk (x : BitVec 64) : Bool :=
  x.toNat / 2 ^ 56 = 0 && x.toNat / 2 ^ 30 % 2 ^ 6 = 0 && x.toNat / 2 % 2 ^ 17 = 0
  && x.toNat / 2 ^ 40 % 256 + x.toNat / 2 ^ 48 % 256 ≤ 192
  && (x.toNat % 2 = 0 || x.toNat / 2 ^ 36 % 16 ≠ 0)

/-- Configurations of one tile that go together or stay apart (R217); stations of one tile are of different lines, but in a
bay tile, which holds copies (R164, R449). -/
def stnGroupOk (t : Tile) (c : Nat) : Bool :=
  let me := t.cfg c
  !me.valid || (((List.range 8).all fun k =>
    let o := t.cfg k
    !o.valid || (if o.stnNo = me.stnNo ∧ o.region = me.region then o.banks = me.banks && o.window = me.window
      else Nat.land o.banks me.banks = 0 && (t.bay.isSome || o.region ≠ me.region)))
    && decide ((((List.range 8).filter fun k => (t.cfg k).valid).map fun k => ((t.cfg k).region, (t.cfg k).stnNo)).eraseDups.length ≤ 4))

/-- A queue map that R222 accepts; a bay tile's is exempt from the pair rule (R449). -/
def mapOk (m : BitVec 48) (bay : Bool) : Bool :=
  (List.range 8).all (fun q =>
    (mapEntry m q).isSome || m.toNat / 2 ^ (6 * q) % 64 = 0) &&
  (bay || (List.range 8).all fun q => (List.range 8).all fun r =>
    q = r || (mapEntry m q).isNone || mapEntry m q ≠ mapEntry m r)

/-- The first failing field of a configuration, as (field index, cause); `sets` are the stream's own SETs to it. -/
def cfgCheck (head : Bool) (t : Tile) (c : Nat) (sets : List Sett) : Option (Nat × LoadCause) :=
  let x := t.cfg c
  (List.range 24).findSome? fun i =>
    let mine := sets.filter fun s => s.idx = i
    if mine.any fun s => !s.fits then some (i, .fieldReserved)
    else
      let bad : Option LoadCause :=
        if i ≤ 15 then slotCheck head t x (x.slot i)
        else match i with
          | 16 => if (List.range 16).all fun e => x.routes.toNat / 2 ^ (12 * e + 11) % 2 = 1 || x.routes.toNat / 2 ^ (12 * e) % 2 ^ 12 = 0
              then none else some .value
          | 17 => if (List.range 16).all fun e => x.shapes.toNat / 2 ^ (32 * e) % 2 ^ 32 ≤ 256 then none else some .value
          | 19 =>
            if mine.any (fun s => s.val / 2 ^ 18 % 64 ≠ 0) then some .value
            else if stnCfgOk (x.stn &&& ~~~(0xFC0000 : BitVec 64)) && stnGroupOk t c then none else some .value
          | 20 => if (List.range 4).all fun n => !(genOf x.ags n).enabled || genOk x.window (genOf x.ags n) then none else some .generator
          | _ => none
      bad.map fun b => (i, b)

/-- The first failing tile field. -/
def tileCheck (t : Tile) (sets : List Sett) : Option (Nat × LoadCause) :=
  [24, 25, 26, 27, 28, 29, 30, 31].findSome? fun i =>
    let mine := sets.filter fun s => s.idx = i
    if mine.any fun s => !s.fits then some (i, .fieldReserved)
    else
      match i with
      | 24 => if (List.range 16).all fun e => t.issue.toNat / 2 ^ (4 * e) % 16 ≤ 8 then none else some (i, .value)
      | 25 => if mapOk t.iqmap t.bay.isSome then none else some (i, .value)
      | 26 => if mapOk t.oqmap t.bay.isSome then none else some (i, .value)
      | _ => none

/-- The first failing field of an element: configuration (8 for the tile fields), field index, cause. -/
def elementCheck (head : Bool) (t : Tile) (sets : List Sett) : Option (Nat × Nat × LoadCause) :=
  match (List.range 8).findSome? fun c =>
      (cfgCheck head t c (sets.filter fun s => s.idx < 24 && s.cfg = c)).map fun x => (c, x.1, x.2) with
  | some x => some x
  | none => (tileCheck t (sets.filter fun s => 24 ≤ s.idx)).map fun x => (8, x.1, x.2)

-- WAVE CHAINS AND REWORK DESCRIPTORS (R146, R175, R207)

/-- The instructions of a configuration. -/
def Cfg.instrs (c : Cfg) : List Instr :=
  (List.range 16).filterMap fun n =>
    if c.slot n = vacant then none else match decode (slotOp (c.slot n)) with | .ok i => some i | .error _ => none

/-- R207 over the participants of a station. -/
def chainOk (ws : List Wave) : Bool :=
  let named (x : BitVec 8) : Bool := x = 0xFE || x = 0xFF || ws.any fun w => w.s = x
  ws = [] || (
    ws.all (fun w => w.s.toNat ≤ 0xFD && ws.countP (fun v => v.s == w.s) = 1 && named w.p && named w.n)
    && ws.all (fun x => ws.all fun y =>
      (!(x.n = y.s && y.p ≠ 0xFF) || y.p = x.s) && (!(y.p = x.s && x.n ≠ 0xFF) || x.n = y.s))
    && ws.all (fun w => (w.n ≠ 0xFF || decide (2 ≤ ws.countP fun v => v.p == w.s))
      && (w.p ≠ 0xFF || decide (2 ≤ ws.countP fun v => v.n == w.s)))
    && ws.any (fun w => w.p = 0xFE) && ws.any fun w => w.n = 0xFE)

/-- The accumulators and the pv register of a factorisation that may be stopped partway, as masks (R340). -/
def factorRegs : Instr → Nat × Nat
  | .mluF d pv _ _ | .mluC d pv _ _ | .mqr d pv _ _ => (2 ^ d.val, 2 ^ pv.val)
  | .mchol d _ _ => (2 ^ d.val, 0)
  | .mtrsm _ _ _ _ d r _ => (Nat.lor (2 ^ d.val) (2 ^ r.val), 0)
  | .mqapp _ _ d r pv _ => (Nat.lor (2 ^ d.val) (2 ^ r.val), 2 ^ pv.val)
  | _ => (0, 0)

/-- R175, R146 and R340 on a configuration. -/
def reworkOk (c : Cfg) : Bool :=
  let r := c.rework.toNat
  r / 2 ^ 17 = 0 &&
  (if r % 2 = 0 then r = 0 && !(c.instrs.any needsCarry)
   else c.instrs.all fun i =>
    Nat.land (r / 2 % 16) (factorRegs i).1 = (factorRegs i).1 && Nat.land (r / 2 ^ 13 % 16) (factorRegs i).2 = (factorRegs i).2)

/-- The first failing station of a list of tiles with their elements. -/
def stationCheck (els : List ((Nat × Nat) × Tile)) : Option ((Nat × Nat) × Nat × Nat × LoadCause) :=
  let all := els.flatMap fun e => (stationsOf e.2).map fun s => (s, e)
  (List.range 64).findSome? fun n =>
    (all.filter fun x => x.1.1 = n).findSome? fun x =>
      let t := x.2.2
      let ws := (x.1.2.2.flatMap fun c => (t.cfg c).instrs).filterMap waveOf
      if !chainOk ws then some (x.2.1, x.1.2.2.headD 0, 0, .wave)
      else (x.1.2.2.find? fun c => !reworkOk (t.cfg c)).map fun c => (x.2.1, c, 18, .rework)

-- PATHS BETWEEN STATIONS (R187, R188, R218, R222)

/-- The input queue of a tile that a (port, route tag) pair feeds. -/
def queueAt (t : Tile) (p tag : Nat) : Option Nat :=
  (List.range 8).find? fun q => mapEntry t.iqmap q = some (p, tag)

/-- Whether a tile hosts a station; one that does not passes flits through (notes/assumptions/23.md). -/
def Tile.hasStation (t : Tile) : Bool := (List.range 8).any fun c => (t.cfg c).valid

/-- The tile and queue that a flit leaving at a (port, route tag) reaches, with the pass-through tiles on the way. -/
def tracePath (tileAt : Nat → Tile) : (fuel : Nat) → (tile p tag passes : Nat) → Option (Nat × Nat × Nat)
  | 0, _, _, _, _ => none
  | n + 1, tile, p, tag, passes =>
    match neighbour tile p with
    | none => none
    | some t' =>
      match queueAt (tileAt t') (facing p) tag with
      | none => none
      | some q =>
        if (tileAt t').hasStation then some (t', q, passes)
        else
          match mapEntry (tileAt t').oqmap q with
          | some (p', tag') => tracePath tileAt n t' p' tag' (passes + 1)
          | none => none

/-- The pass-through tiles on the way of a flit that leaves at a (port, route tag). -/
def passPath (tileAt : Nat → Tile) : (fuel : Nat) → (tile p tag : Nat) → List Nat
  | 0, _, _, _ => []
  | n + 1, tile, p, tag =>
    match neighbour tile p with
    | none => []
    | some t' =>
      match queueAt (tileAt t') (facing p) tag with
      | none => []
      | some q =>
        if (tileAt t').hasStation then []
        else
          match mapEntry (tileAt t').oqmap q with
          | some (p', tag') => t' :: passPath tileAt n t' p' tag'
          | none => [t']

/-- The capacity in flits of the edges from one station's tile to another's (R187). -/
def edgeCapacity (tileAt : Nat → Tile) (from_ dst : Nat) : Nat :=
  ((List.range 8).map fun oq =>
    match mapEntry (tileAt from_).oqmap oq with
    | some (p, tag) =>
      match tracePath tileAt 64 from_ p tag 0 with
      | some (t, _, n) => if t = dst then Config.queueFlits * (1 + n) else 0
      | none => 0
    | none => 0).sum

/-- The capacity of a cycle of stations. -/
def cycleCapacity (tileAt : Nat → Tile) (tiles : List Nat) : Nat :=
  ((tiles.zip (tiles.drop 1 ++ tiles.take 1)).map fun e => edgeCapacity tileAt e.1 e.2).sum

/-- The (port, route tag) pairs on which items leave a tile: those of its output queues, and those of the route entries of its
configurations (R218, R222, R253). -/
def Tile.exits (t : Tile) : List (Nat × Nat) :=
  ((List.range 8).filterMap (mapEntry t.oqmap) ++
    (((List.range 8).map t.cfg).filter (·.valid)).flatMap fun c =>
      ((List.range 16).map c.route).filterMap fun e => if e.1 then some (e.2.1, e.2.2.1) else none).eraseDups

/-- Whether a head station stands on a tile (R164): no output queue and no route entry of a station's tile among `tiles` reaches
the tile, but for those of cycles entered there, which `inner` names; or an input queue is mapped that none of them reaches, which
a source may fill. -/
def isHeadTile (tileAt : Nat → Tile) (tiles inner : List Nat) (tile : Nat) : Bool :=
  let fed := tiles.flatMap fun t =>
    if !(tileAt t).hasStation || (tileAt t).bay.isSome then []
    else (tileAt t).exits.filterMap fun e =>
      match tracePath tileAt 64 t e.1 e.2 0 with
      | some (t', q, _) => if t' = tile then some (t, q) else none
      | none => none
  (fed.all fun e => inner.contains e.1) ||
    (List.range 8).any fun q => (mapEntry (tileAt tile).iqmap q).any (fun m => m.2 != 7) && !(fed.any fun e => e.2 == q)

-- THE WHOLE CHECK (R224)

/-- DETAIL of a refused stream: the cause, and the element, configuration and field index, or the command's index
(notes/assumptions/24.md). -/
def refusal (c : LoadCause) (x y cfg idx : Nat) : LoadCause × Nat :=
  (c, c.code.toNat + at_ x 8 5 + at_ y 13 5 + at_ cfg 18 4 + at_ idx 22 5)

/-- The tile of an element of a line's region. -/
def Line.tileAt (l : Line) (x y : Nat) : Nat := 192 * l.die + (l.y0 + y) * 16 + l.x0 + x

/-- The elements of a region in the order of R224. -/
def elements (w h : Nat) : List (Nat × Nat) := (List.range h).flatMap fun y => (List.range w).map fun x => (x, y)

/-- A tile with its waiting writes made, in their order (R225). -/
def Tile.settled (t : Tile) : Tile := t.pend.foldl (fun t w => t.write w.cfg w.idx w.val) t

/-- The tile after the stream's settings to it. -/
def applySetts (t : Tile) (region : Nat) (ts : List Sett) : Tile :=
  ts.foldl (fun t s => if s.fits then t.write s.cfg s.idx (s.stored region) else t) t

/-- A tile as a stream of a context finds it: fields at reset before the context's first configuration, and afterwards as
they stand when what waits has taken effect (R223, R225). -/
def Tile.base (t : Tile) (ctx : Nat) : Tile := if t.ctx = some ctx then t.settled else { Tile.reset with bay := t.bay }

/-- The tile with the writes of a splice successor that wait for it (R184, R223). -/
def Line.withSuc (l : Line) (tile : Nat) (t : Tile) : Tile :=
  (l.sucPend.filter fun w => w.1 == tile).foldl (fun t w => t.write w.2.cfg w.2.idx w.2.val) t

/-- The settings of a stream for a line, or its refusal (R210, R215 to R224). -/
def State.checkStream (s : State) (l : Line) (cmds : List Nat) : Except (LoadCause × Nat) (List Sett) :=
  match parseStream l.w l.h cmds with
  | .error i => .error (.streamForm, 0x01 + at_ i 8 32)
  | .ok ts =>
    let after := (elements l.w l.h).map fun e =>
      (e, applySetts (l.withSuc (l.tileAt e.1 e.2) ((s.tile (l.tileAt e.1 e.2)).base l.ctx)) l.region (ts.filter fun t => t.x = e.1 && t.y = e.2))
    let tileOf (t : Nat) : Tile := match after.find? fun e => l.tileAt e.1.1 e.1.2 = t with | some e => e.2 | none => s.tile t
    let tiles := after.map fun e => l.tileAt e.1.1 e.1.2
    let ofStn (n : Nat) : Nat := match after.find? fun e =>
        e.2.bay.isNone && (stationsOf e.2).any fun x => x.1 == n && x.2.1 == l.region with
      | some e => l.tileAt e.1.1 e.1.2
      | none => 0
    let inner (tile : Nat) : List Nat := l.cycles.flatMap fun c =>
      if (c.1.head?.map ofStn) == some tile then c.1.map ofStn else []
    match after.findSome? fun e =>
        let t := l.tileAt e.1.1 e.1.2
        (elementCheck (isHeadTile tileOf tiles (inner t) t) e.2 (ts.filter fun t => t.x = e.1.1 && t.y = e.1.2)).map fun c => (e.1, c) with
    | some (e, c, i, k) => .error (refusal k e.1 e.2 c i)
    | none =>
      match stationCheck after with
      | some (e, c, i, k) => .error (refusal k e.1 e.2 c i)
      | none =>
        if l.cycles.any fun c => decide (cycleCapacity tileOf (c.1.map ofStn) ≤ c.2) then .error (refusal .feedback 0 0 0 0)
        else .ok ts

-- APPLYING (R225)

/-- Whether a station or evaluation on a tile has a configuration active. -/
def State.activeOn (s : State) (tile cfg : Nat) : Bool :=
  List.any s.actors fun a => a.2.tile == tile && a.2.active == cfg && a.2.kind ≠ .eval

/-- CVER after one more stream: it skips 0 (R416). -/
def nextCver (x : BitVec 16) : BitVec 16 := if x + 1 = 0 then 1 else x + 1

/-- Positions of a configuration's generators return to their start when its AGS loads (R273). -/
def State.resetGens (s : State) (tile cfg : Nat) : State :=
  { s with actors := s.actors.map fun a =>
      if a.2.tile = tile then (a.1, { a.2 with gpos := a.2.gpos.filter fun g => g.1 / 4 != cfg }) else a }

/-- A station's configuration loads: its RNG_SEED is zero (R88). DESIGN CHOICE: it loads when its STN_CFG is written
(notes/assumptions/105.md). -/
def State.resetSeeds (s : State) (tile : Nat) (stn : BitVec 512) : State :=
  let x : Cfg := { Cfg.empty with stn := stn.setWidth 64 }
  { s with actors := s.actors.map fun a =>
      if a.2.tile = tile ∧ a.2.kind = .station ∧ a.2.stn = x.stnNo ∧ a.2.line % 48 = x.region then (a.1, { a.2 with seed := 0 }) else a }

/-- The tiles of a rectangle of a die. -/
def rectTiles (die x0 y0 w h : Nat) : List Nat :=
  (List.range h).flatMap fun y => (List.range w).map fun x => 192 * die + (y0 + y) * 16 + x0 + x
/-- The tiles of a line's region. -/
def Line.region_ (l : Line) : List Nat := rectTiles l.die l.x0 l.y0 l.w l.h

/-- The stations that a line's streams have made: number, tile and configurations (R164, R217). -/
def State.lineStations (s : State) (l : Line) : List (Nat × Nat × List Nat) :=
  (l.region_.filter fun t => !l.bay.contains t).flatMap fun t =>
    ((stationsOf (s.tile t)).filter fun x => x.2.1 == l.region).map fun x => (x.1, t, x.2.2)

/-- The copies of station configurations among some configurations of a bay tile that streams have put there: by station and
configuration number, the j-th of a station is the copy of its j-th configuration (R177, R449). -/
def State.bayCopies (s : State) (k : Nat) (l : Line) (tile : Nat) (among : List Nat) : List (Nat × (Nat × Nat × Nat)) :=
  (s.lineStations l).flatMap fun st =>
    let mine := (List.range 8).filter fun c =>
      among.contains c && ((s.tile tile).cfg c).valid && ((s.tile tile).cfg c).stnNo == st.1
    mine.zip (st.2.2.map fun c => (k, st.1, c))

/-- The bay tiles of a line record what the configurations that streams have put there copy now; what they have fetched stays
(R177). -/
def State.renewCopies (s : State) (k : Nat) : State :=
  match s.line? k with
  | none => s
  | some l => l.bay.foldl (fun s b => s.modTile b fun t => { t with
      copies := (s.bayCopies k l b t.fixed).foldl (fun m c => Sparse.set m c.1 c.2) (t.copies.filter fun c => !t.fixed.contains c.1) }) s

/-- The bay tiles of a line hold no copy any more of a configuration of a station; `fetched` says that only what they have fetched
goes (R177). -/
def State.dropCopies (s : State) (k stn c : Nat) (fetched : Bool) : State :=
  match s.line? k with
  | none => s
  | some l => l.bay.foldl (fun s b => s.modTile b fun t => { t with
      copies := t.copies.filter fun x => !(x.2 == (k, stn, c) && !(fetched && t.fixed.contains x.1)) }) s

/-- A configuration of a tile has been written: in a bay tile it is a stream's from now on, and no copy until it is known of which;
at a station, what bay tiles have fetched of it is no copy any more (R177, R449). -/
def State.rewrote (s : State) (tile c : Nat) : State :=
  match (s.tile tile).bay with
  | some _ => s.modTile tile fun t => { t with
      fixed := if t.fixed.contains c then t.fixed else t.fixed ++ [c], copies := Sparse.del t.copies c }
  | none => s.dropCopies (48 * dieOf tile + ((s.tile tile).cfg c).region) ((s.tile tile).cfg c).stnNo c true

/-- Field writes of configurations of a tile are made. -/
def State.writeCfgs (s : State) (tile : Nat) (ws : List PendWrite) : State :=
  ws.foldl (fun s w => (if w.idx = 20 then s.resetGens tile w.cfg else if w.idx = 19 then s.resetSeeds tile w.val else s).rewrote
      tile w.cfg)
    (s.modTile tile fun x => ws.foldl (fun t w => t.write w.cfg w.idx w.val) x)

/-- One field write takes effect at once, or waits; it replaces one that waits for the same field (R225). Tile fields have
configuration number 8. -/
def State.applyWrite (s : State) (tile : Nat) (w : PendWrite) : State :=
  let s := s.modTile tile fun x => { x with pend := x.pend.filter fun y => !(y.cfg == w.cfg && y.idx == w.idx) }
  let wait : State := s.modTile tile fun x => { x with pend := x.pend ++ [w] }
  if w.idx < 24 then (if s.activeOn tile w.cfg then wait else s.writeCfgs tile [w])
  else if w.idx = 24 then
    if (s.tile tile).ran then wait else s.modTile tile fun x => { (x.write 0 24 w.val) with phase := 0 }
  else wait.now (.configWriteEffect tile)

/-- A setting of a stream as a write of its tile's field. -/
def Sett.pending (t : Sett) (region : Nat) : PendWrite := ⟨if t.idx < 24 then t.cfg else 8, t.idx, t.stored region, []⟩

/-- One setting of a stream. -/
def State.applySett (s : State) (tile region : Nat) (t : Sett) : State := s.applyWrite tile (t.pending region)

/-- A stream that has passed is applied to a line's region; its region's version rises, and the configuration interval of
each element that it sets ends (R225, R416, R418). -/
def State.applyStream (s : State) (k : Nat) (l : Line) (ts : List Sett) : State :=
  let s1 := (ts.foldl (fun s t => s.applySett (l.tileAt t.x t.y) l.region t) s).modLine k fun l => { l with cver := nextCver l.cver }
  (ts.map fun t => l.tileAt t.x t.y).eraseDups.foldl (fun s t => s.now (.intervalRecord t)) (s1.renewCopies k)

/-- A queue of a tile holds no flit (R225). -/
def State.queueEmpty (s : State) (tile idx q : Nat) : Bool :=
  if idx = 25 then (s.tile tile).queue q = []
  else !((s.tile tile).out.any fun o => o.oq == q && !o.pass) &&
    !(List.any s.actors fun a => a.2.tile == tile && a.2.hold.any fun h => h.oq == q)

/-- A map with one queue's entry taken from another. -/
def mapTake (old new : Nat) (q : Nat) : Nat := old - at_ (old / 2 ^ (6 * q)) (6 * q) 6 + at_ (new / 2 ^ (6 * q)) (6 * q) 6

/-- One waiting write of a tile field: a queue's entry of a map takes effect once, when the queue holds no flit (R225); a write of
OQMAP sets the queue's demand to zero (R257). A write of ISSUE waits for the phase to wrap. -/
def State.effect (s : State) (tile : Nat) (w : PendWrite) : State × PendWrite :=
  if w.idx = 24 then (s, w)
  else
    let old := if w.idx = 25 then (s.tile tile).iqmap.toNat else (s.tile tile).oqmap.toNat
    let free := (List.range 8).filter fun q => !w.made.contains q && s.queueEmpty tile w.idx q
    let new := free.foldl (fun m q => mapTake m w.val.toNat q) old
    let demand (x : Tile) : Tile :=
      if w.idx = 26 then { x with demand := x.demand.filter fun d => !free.contains d.1 } else x
    (s.modTile tile fun x => demand (x.write 0 w.idx (BitVec.ofNat 512 new)), { w with made := w.made ++ free })

/-- CONFIG_WRITE_EFFECT: waiting writes of the queue maps take effect as they may (R225). -/
def execConfigWriteEffect (tile : Nat) (s : State) : Out :=
  let (s1, left) := (s.tile tile).pend.foldl (fun (x : State × List PendWrite) w =>
    if w.cfg < 8 then (x.1, x.2 ++ [w])
    else
      let (s2, w1) := x.1.effect tile w
      (s2, if w1.made.length < 8 then x.2 ++ [w1] else x.2)) (s, [])
  .next (s1.modTile tile fun x => { x with pend := left })

/-- The phase of a tile's issue table advances; when it wraps, a waiting write of ISSUE takes effect (R166, R225). -/
def Tile.nextPhase (t : Tile) : Tile :=
  let t1 : Tile := { t with phase := (t.phase + 1) % 16 }
  match (if t1.phase = 0 then t1.pend.find? fun w => w.idx == 24 else none) with
  | some w => { (t1.write 0 24 w.val) with pend := t1.pend.filter fun x => x.idx != 24 }
  | none => t1

/-- The writes to configurations of a station that take effect when it next takes an item or a bubble, whichever of them is active
then; they wait for the D of a CFG of its own that has made them (R225, R370). -/
def State.pendOf (s : State) (tile region stn : Nat) : List PendWrite :=
  let asked : Bool := s.accs.any fun a => (match a.op with | .cfg .. => true | _ => false) && a.stage = .answering && !a.discard
    && (s.actor a.actor).line == 48 * dieOf tile + region && (s.actor a.actor).stn == stn && (s.actor a.actor).kind ≠ .eval
  if asked then []
  else (s.tile tile).pend.filter fun w =>
    w.cfg < 8 && ((s.tile tile).cfg w.cfg).stnNo == stn && ((s.tile tile).cfg w.cfg).region == region

/-- They take effect (R225). -/
def State.applyPend (s : State) (tile region stn : Nat) : State :=
  match s.pendOf tile region stn with
  | [] => s
  | ws =>
    let s1 := (s.writeCfgs tile ws).modTile tile fun x => { x with pend := x.pend.filter fun w => !ws.contains w }
    if ws.any fun w => w.idx == 19 then s1.renewCopies (48 * dieOf tile + region) else s1

/-- A bay tile is free of its item: what waits for its configurations takes effect (R225). -/
def State.applyBay (s : State) (tile : Nat) : State :=
  match (s.tile tile).pend.filter (fun w => w.cfg < 8), (s.tile tile).bay with
  | [], _ | _, none => s
  | ws, some k =>
    ((s.writeCfgs tile ws).modTile tile fun x => { x with pend := x.pend.filter fun w => 8 ≤ w.cfg }).renewCopies k

-- FETCHING (R39, R381)

/-- The error of a configuration fetch: the underlying error's code, its cause and its address (R37). -/
structure Absent where
  code : Nat
  cause : BitVec 8
  detail : Nat
  deriving DecidableEq, Repr

/-- `n` bytes of configuration or code at an address, under CR, block by block. -/
def State.fetchBytes (s : State) (die ctx : Nat) (p : Perm) : (fuel : Nat) → (va n : Nat) → State × Except Absent Nat
  | 0, _, _ => (s, .ok 0)
  | k + 1, va, n =>
    if n = 0 then (s, .ok 0)
    else
      let m := Nat.min n (64 - va % 64)
      let w := BitVec.ofNat 64 va
      match s.translate die ctx w p with
      | (s1, .fail e c d) => (s1, .error ⟨e.code.toNat, c, d⟩)
      | (s1, .mig _) => (s1, .error ⟨3, Cause.migrationTimeout, vaDetail w 0⟩)
      | (s1, .leaf l) =>
        match s1.unitBlock die ctx l w .cached with
        | (s2, .error (e, c, _)) => (s2, .error ⟨e.code.toNat, c, vaDetail w 0⟩)
        | (s2, .ok b) =>
          let x := b.data.toNat / 2 ^ (8 * (va % 64)) % 2 ^ (8 * m)
          match State.fetchBytes s2 die ctx p k (va + m) (n - m) with
          | (s3, .ok y) => (s3, .ok (x + y * 2 ^ (8 * m)))
          | (s3, .error e) => (s3, .error e)

/-- The newest entries that fit a number of bytes. -/
def fitCache : (room : Nat) → List CfgEntry → List CfgEntry
  | _, [] => []
  | room, e :: r => if 4 * e.cmds.length ≤ room then e :: fitCache (room - 4 * e.cmds.length) r else []

/-- The first `n` commands of a stream (R211) of a variant of a code object: from the configuration cache, or else from memory, and
then kept (R39, R381). DESIGN CHOICE: the oldest entries make room (notes/assumptions/55.md). -/
def State.fetchStream (s : State) (die ctx : Nat) (code : Word) (variant : Nat) (va : Word) (n : Nat) :
    State × Except Absent (List Nat) :=
  let same (e : CfgEntry) : Bool := e.ctx == ctx && e.code == code.toNat && e.variant == variant && e.va == va.toNat
  match (s.die die).cfgCache.find? fun e => same e && decide (n ≤ e.cmds.length) with
  | some e => (s, .ok (e.cmds.take n))
  | none =>
    match s.fetchBytes die ctx .config (n / 16 + 2) va.toNat (4 * n) with
    | (s1, .ok x) =>
      let cmds := (List.range n).map fun i => x / 2 ^ (32 * i) % 2 ^ 32
      let kept (d : Die) : List CfgEntry := ⟨ctx, code.toNat, variant, va.toNat, cmds⟩ :: d.cfgCache.filter fun e => !same e
      (s1.modDie die fun d => { d with cfgCache := fitCache Config.cfgCacheBytes (kept d) }, .ok cmds)
    | (s1, .error e) => (s1, .error e)

/-- Whether a fetch met a page that migrates: its party waits (R35). -/
def Absent.waits (a : Absent) : Bool := a.code == 3 && a.cause == Cause.migrationTimeout

/-- DETAIL of E_CONFIG_ABSENT (R37). -/
def Absent.full (a : Absent) : Nat := a.detail % 2 ^ 54 + a.code * 2 ^ 56

/-- What loading a stream into a line answers. -/
inductive Loaded where
  | ok
  | absent (a : Absent)
  | refused (c : LoadCause) (detail : Nat)
  deriving DecidableEq, Repr

/-- A stream at an address is fetched, checked and applied to a placed line (R223 to R225). -/
def State.loadStream (s : State) (k : Nat) (ctx : Nat) (va : Word) (n : Nat) : State × Loaded :=
  match s.line? k with
  | none => (s, .refused .streamForm 1)
  | some l =>
    if n = 0 ∨ 2 ^ 24 < n then (s, .refused .streamForm 1)
    else
      match s.fetchStream l.die ctx l.code l.variant va n with
      | (s1, .error e) => (s1, .absent e)
      | (s1, .ok cmds) =>
        match s1.checkStream l cmds with
        | .error (c, d) => (s1, .refused c d)
        | .ok ts => (s1.applyStream k l ts, .ok)

/-- The record of a refused or absent stream, from a launch engine or placer (R226, R381). -/
def State.loadTrap (s : State) (die ctx : Nat) (r : Loaded) : State :=
  match r with
  | .ok => s
  | .absent a => s.trap ctx (launchKey die) (record s.dev (launchOrigin die) .configAbsent a.cause a.full)
  | .refused c d => s.trap ctx (launchKey die) (record s.dev (launchOrigin die) .illegalConfig c.code d)

/-- A party of a die holds what it works on while a page migrates: it tries again, until the wait has lasted too long
(R35). -/
def State.holdFor (s : State) (die slot : Nat) (retry : Instr) : Option State :=
  let first := (Sparse.find? (s.die die).held slot).getD s.cycle
  if first + Config.migrationCycles ≤ s.cycle then none
  else some ((s.modDie die fun d => { d with held := Sparse.set d.held slot first }).after Config.rewalkCycles retry)

/-- The party holds nothing any more. -/
def State.unhold (s : State) (die slot : Nat) : State := s.modDie die fun d => { d with held := Sparse.del d.held slot }

/-- The slot of a stream that a placed line waits for. -/
def streamSlot (line : Nat) : Nat := 2 ^ 17 + line

/-- Whether a placed line waits for a stream: flits that arrive at its ports are held there (R381). -/
def State.loading (s : State) (line : Nat) : Bool := (Sparse.find? (s.die (line / 48)).held (streamSlot line)).isSome

/-- A record meets a flit at a port of a station: the flit carries it, and so does its item there. -/
def State.strike (s : State) (key q : Nat) (e : Entry) (r : BitVec 256) : State × Entry :=
  let mark (d : Desc) : Desc := if d.h.seq = e.hdr.seq then { d with record := some (d.record.getD r) } else d
  (s.modActor key fun a => { a with
      arrive := Sparse.set a.arrive q ((Sparse.get a.arrive [] q).map mark)
      item := a.item.map fun i => if i.desc.h.seq = e.hdr.seq then i.attach ⟨r, true⟩ else i },
    { e with hdr := { e.hdr with poi := true, err := r } })

/-- The origin of what a station's port raises about a flit's item. -/
def State.portOrigin (s : State) (key : Nat) (e : Entry) : Origin :=
  { s.origin key 0 with seq := e.hdr.seq.toNat, wid := e.hdr.wid.toNat }

/-- The flits that a line's ports hold become error tokens: the stream that they waited for is absent or refused (R226, R381). -/
def State.portTokens (s : State) (line : Nat) (e : Err) (cause : BitVec 8) (detail : Nat) : State :=
  (s.flights.filter fun f => f.held && !f.entry.hdr.req).foldl (fun s f =>
    let t := s.tile f.tile
    match queueAt t f.port f.tag with
    | none => s
    | some q =>
      match t.feeder q with
      | none => s
      | some (stn, region) =>
        if 48 * dieOf f.tile + region ≠ line then s
        else
          let key := stationKey line stn
          let (s1, x) := s.strike key q f.entry (record s.dev (s.portOrigin key f.entry) e cause detail)
          { s1 with flights := s1.flights.map fun g => if g.id = f.id then { g with entry := x } else g }) s

/-- What becomes of the flits that wait for a stream: once it is loaded they enter as they are. -/
def State.portsFor (s : State) (line : Nat) (r : Loaded) : State :=
  match r with
  | .ok => s
  | .absent a => s.portTokens line .configAbsent a.cause a.full
  | .refused c d => s.portTokens line .illegalConfig c.code d

/-- STREAM_LOAD: a stream for a placed line, asked for by the placer or the launch engine (R223 to R226); it waits while a
page that holds it migrates (R35). -/
def execStreamLoad (line : Nat) (ctx : Nat) (va : Word) (len : Nat) (s : State) : Out :=
  let die := line / 48
  .next (match s.loadStream line ctx va len with
    | (s1, .absent a) =>
      match (if a.waits then s1.holdFor die (streamSlot line) (.streamLoad line ctx va len) else none) with
      | some s2 => s2
      | none => ((s1.unhold die (streamSlot line)).portsFor line (.absent a)).loadTrap die ctx (.absent a)
    | (s1, r) => ((s1.unhold die (streamSlot line)).portsFor line r).loadTrap die ctx r)

/-- CFG at the loader (R360): D says what became of the stream; it waits while a page that holds it migrates (R35). -/
def State.cfgLoad (s : State) (a : Access) : State :=
  match s.lineOf a.actor with
  | none => s.failAcc a .permission Cause.noLine (vaDetail a.va 0)
  | some k =>
    let (s1, r) := s.loadStream k a.ctx a.va a.a.toNat
    let first := if a.aux = 0 then s.cycle else a.aux - 1
    let waits : Bool := match r with | .absent x => x.waits && decide (s.cycle < first + Config.migrationCycles) | _ => false
    if waits then (s1.modAcc a.id fun x => { x with aux := first + 1 }).after Config.rewalkCycles (.homeAccess a.id)
    else s1.answer a.id (ansG (match r with
      | .ok => 0
      | .absent x => BitVec.ofNat 64 (0x200 + x.cause.toNat)
      | .refused c _ => BitVec.ofNat 64 (0x100 + c.code.toNat)))

-- EVALUATIONS (R112, R453)

/-- What the load of an evaluator finds: its configurations, or the record that poisons the group. -/
def State.loadEval (s : State) (die ctx : Nat) (ev : Word) : State × Except (BitVec 256) Tile :=
  let absent (s : State) (a : Absent) : BitVec 256 := agentRecord s die .configAbsent a.cause a.full
  let illegal (s : State) (c : LoadCause) (d : Nat) : BitVec 256 := agentRecord s die .illegalConfig c.code d
  match s.fetchBytes die ctx .config 3 ev.toNat 64 with
  | (s1, .error a) => (s1, .error (absent s1 a))
  | (s1, .ok h) =>
    if h = 0 ∨ 65536 < h then (s1, .error (illegal s1 .streamForm 1))
    else
      match s1.fetchStream die ctx ev 0 (ev + 64) h with
      | (s2, .error a) => (s2, .error (absent s2 a))
      | (s2, .ok cmds) =>
        match parseStream 1 1 cmds with
        | .error i => (s2, .error (illegal s2 .streamForm (0x01 + at_ i 8 32)))
        | .ok ts =>
          let t := applySetts Tile.reset 0 ts
          match elementCheck false t ts with
          | some (c, i, k) => (s2, .error (illegal s2 k (refusal k 0 0 c i).2))
          | none =>
            match stationCheck [((0, 0), t)] with
            | some (_, c, i, k) => (s2, .error (illegal s2 k (refusal k 0 0 c i).2))
            | none => (s2, .ok t)

end Sys2Proof.Machine
end

