-- ==== Sys2Proof/Machine/Lines.lean ====
section
/-! DEFINITION. Lines between boundaries: edges, items and their headers, joins, heads and their sources, sinks, cancel
tokens (R70, R164, R165, R170, R180, R187, R219, R236, R249 to R256, R390 to R393). -/

namespace Sys2Proof.Machine

-- EDGES

/-- Where the items of an output queue go. -/
inductive Dest where
  | stn (n q : Nat)
  | sink
  | chan (c : Nat)
  | nowhere
  deriving DecidableEq, Repr

/-- A counter or SEQ value is later than another (R167). -/
def later48 (a c : BitVec 48) : Bool := 1 ≤ (a - c).toNat && (a - c).toNat ≤ 2 ^ 47 - 1

/-- The number of the line's station on a tile. -/
def Line.stnAt (l : Line) (tile : Nat) : Option Nat := (l.stns.find? fun x => x.2 == tile).map (·.1)

/-- The port, route tag and destination of an item on an output queue: its ROUTE's, or the queue's own (R222, R253). -/
def State.outPair (s : State) (tile oq : Nat) (route : Option (Nat × Nat × Nat)) : Option (Nat × Nat × Nat) :=
  match route with
  | some x => some x
  | none => (mapEntry (s.tile tile).oqmap oq).map fun x => (x.1, x.2, 0)

/-- Where an item on an output queue of a station goes (R218, R390). A route-table entry leads to its station DST; one whose
path ends at another station leads nowhere (R253; notes/assumptions/102.md). -/
def State.destOf (s : State) (l : Line) (stn oq : Nat) (route : Option (Nat × Nat × Nat)) : Dest :=
  match l.tileOf stn with
  | none => .nowhere
  | some tile =>
    let own := mapEntry (s.tile tile).oqmap oq
    match own with
    | some (_, 6) => .chan (match s.outPair tile oq route with | some (_, _, d) => d | none => 0)
    | _ =>
      if (l.sinkOf stn oq).isSome ∧ route.isNone then .sink
      else
        match s.outPair tile oq route with
        | none => .nowhere
        | some (p, tag, dst) =>
          match tracePath s.tile 64 tile p tag 0 with
          | some (t', q, _) =>
            (match (s.tile t').feeder q with
              | some (n, r) =>
                if r = l.region ∧ (l.stnAt t').isSome ∧ (route.isNone ∨ n = dst) then .stn n q else .nowhere
              | none => .nowhere)
          | none => .nowhere

/-- The output queues of a station that lead to a station or a sink of its line, or to a channel. -/
def State.edgesOf (s : State) (l : Line) (stn : Nat) : List (Nat × Dest) :=
  (List.range 8).filterMap fun oq =>
    if !(match l.tileOf stn with | some t => (s.tile t).drives stn l.region oq | none => false) then none
    else
      match s.destOf l stn oq none with
      | .nowhere => none
      | d => some (oq, d)

/-- The edges of a station that only route-table entries of its configurations give it: an output queue, the entry, and
where it leads (R253). -/
def State.routeEdges (s : State) (l : Line) (stn : Nat) : List (Nat × (Nat × Nat × Nat) × Dest) :=
  match l.tileOf stn with
  | none => []
  | some tile =>
    let own := (s.edgesOf l stn).map (·.2)
    match (List.range 8).find? fun q => (s.tile tile).drives stn l.region q && (mapEntry (s.tile tile).oqmap q).any fun x => x.2 != 6 with
    | none => []
    | some oq =>
      (List.range 16).foldl (fun (acc : List (Nat × (Nat × Nat × Nat) × Dest)) n =>
        let e := ((s.tile tile).cfg (s.actor (stationKey (48 * l.die + l.region) stn)).active).route n
        if !e.1 then acc
        else
          match s.destOf l stn oq (some e.2) with
          | .stn n q => if own.contains (.stn n q) ∨ acc.any (fun x => x.2.2 = .stn n q) then acc else acc ++ [(oq, e.2, .stn n q)]
          | _ => acc) []

/-- The input queues of a station that stations of its line feed, each with its feeder. -/
def State.upQueues (s : State) (l : Line) (stn : Nat) : List (Nat × Nat) :=
  (l.stns.flatMap fun x => ((s.edgesOf l x.1).map (·.2) ++ (s.routeEdges l x.1).map fun e => e.2.2).filterMap fun e =>
    match e with
    | .stn n q => if n = stn then some (q, x.1) else none
    | _ => none).eraseDups

/-- Whether a feed runs into a queue of a station. -/
def State.feeds (s : State) (k stn q : Nat) : Bool :=
  List.any s.dies fun d => List.any d.2.edges fun e =>
    match e.2.stream with
    | some t => t.state = 0 && !t.drain && t.line == k && t.stn == stn && t.queue == q
    | none => false

/-- The source queues of a station: those that a feed or a channel fills (R164, R390). -/
def State.srcQueues (s : State) (k : Nat) (l : Line) (stn : Nat) : List Nat :=
  match l.tileOf stn with
  | none => []
  | some tile =>
    let up := (s.upQueues l stn).map (·.1)
    let a := s.actor (stationKey k stn)
    (List.range 8).filter fun q =>
      !up.contains q && s.ownsQueue a q &&
      (match mapEntry (s.tile tile).iqmap q with
        | some (_, tag) => s.feeds k stn q || tag = 6 || !(Sparse.get a.arrive [] q).isEmpty
        | none => false)

/-- Whether an edge into a station comes from inside a cycle that is entered there (R187). -/
def Line.feedback (l : Line) (stn up : Nat) : Bool := l.cycles.any fun c => c.1.head? == some stn && c.1.contains up

/-- The input queues of a station that stations feed from outside the cycles entered there, each with its feeder. -/
def State.outerUp (s : State) (l : Line) (stn : Nat) : List (Nat × Nat) := (s.upQueues l stn).filter fun e => !l.feedback stn e.2
/-- Those that are fed from inside a cycle that is entered at the station. -/
def State.innerUp (s : State) (l : Line) (stn : Nat) : List (Nat × Nat) := (s.upQueues l stn).filter fun e => l.feedback stn e.2

/-- Whether a station takes items of the line's sources alone, but for those of its own cycles. -/
def State.isFirst (s : State) (l : Line) (stn : Nat) : Bool := (s.outerUp l stn).isEmpty

/-- Whether a station is of the line head: it takes items from the line's sources (R164). -/
def State.isHead (s : State) (l : Line) (stn : Nat) : Bool :=
  s.isFirst l stn || !(s.srcQueues (48 * l.die + l.region) l stn).isEmpty

/-- Whether no item waits at a station on a queue that a station of its line feeds. -/
def State.noneInside (s : State) (k : Nat) (l : Line) (stn : Nat) : Bool :=
  let src := s.srcQueues k l stn
  (s.actor (stationKey k stn)).arrive.all fun q => q.2.isEmpty || src.contains q.1

/-- The length of the longest path to a station from one of the head, on which no cycle is walked round: it may lead through other
stations of the head (R164). -/
def State.pathTo (s : State) (l : Line) : (fuel : Nat) → (stn : Nat) → Nat
  | 0, _ => 0
  | n + 1, stn => ((s.outerUp l stn).map fun e => 1 + State.pathTo s l n e.2).foldl Nat.max 0

/-- The depth of a station: 0 in the head, and elsewhere the longest path from it (R164). -/
def State.depth (s : State) (l : Line) (stn : Nat) : Nat :=
  if s.isHead l stn then 0 else s.pathTo l l.stns.length stn

-- ITEMS ON QUEUES

/-- The entries of an item's data flits, with their latched headers; `ends` says that they end the item (R70, R71, R249). -/
def dataEntries (h : HState) (tag : Nat) (unf ends : Bool) (flits : List VReg) : List Entry :=
  burstEntries { { h with lok := false }.hdr with rtag := BitVec.ofNat 3 tag, unf := unf } h.lok ends false flits

/-- A bare token's entry: poisoned, or a last-of-kernel mark (R237, R400). -/
def bareEntry (h : HState) (tag : Nat) (r : Option (BitVec 256)) : Entry :=
  let hd : Hdr := { h.hdr with
    err := r.getD 0, rtag := BitVec.ofNat 3 tag, poi := r.isSome, lot := true, lok := h.lok }
  ⟨hd, 0, true, true, false⟩

/-- A cancel token's header: CAN = 1, LOT = 1 and BLEN = 0 (R71, R255). -/
def cancelEntry (h : HState) (tag : Nat) : Entry :=
  ⟨{ h.hdr with rtag := BitVec.ofNat 3 tag, can := true, lot := true, lok := false }, 0, true, true, false⟩

/-- The record of E_SHAPE_OVERRUN for a unit's item. -/
def State.shapeRecord (s : State) (key : Nat) : BitVec 256 := record s.dev (s.origin key 0) .shapeOverrun 0 0

/-- An item as the port that sends it closes it: past 256 data flits the rest is discarded and the item carries
E_SHAPE_OVERRUN (R70); a block of an unscaled format has SCALE 127 (R76). -/
def State.sealItem (s : State) (key : Nat) (d : Desc) : Desc :=
  let n := d.flits.length
  let rows := Nat.max 1 d.h.rows.toNat
  { d with
    flits := (d.flits.take Config.itemFlits).map fun x => { x with pair := written x.pair }
    record := if Config.itemFlits < n ∧ d.record.isNone then some (s.shapeRecord key) else d.record
    per := (n + rows - 1) / rows }

/-- The entries of an item as an output queue sends them; a token ends it (R70, R255, R400). -/
def entriesOf (d : Desc) (tag : Nat) : List Entry :=
  match d.record with
  | some r => dataEntries d.h tag d.unf false d.flits ++ [bareEntry d.h tag (some r)]
  | none =>
    if d.can then [cancelEntry d.h tag]
    else if d.flits = [] then [bareEntry d.h tag none]
    else dataEntries d.h tag d.unf true d.flits

/-- Entries as the flits of a link: each burst's header flit, then its data (R70, R71). -/
def wireFlits : (left : Nat) → List Entry → List Blk
  | _, [] => []
  | left, e :: r =>
    if e.bare then e.hdr.flit :: wireFlits 0 r
    else if left = 0 then e.hdr.flit :: e.data :: wireFlits (e.hdr.blen.toNat - 1) r
    else e.data :: wireFlits (left - 1) r

/-- Whether the last header of an item is its first: it is one burst, or a bare token (R70). -/
def Desc.oneHeader (d : Desc) : Bool :=
  d.flits == [] || (d.record.isNone && decide ((bursts [] (d.flits.map fun x => { x with pair := written x.pair })).length ≤ 1))

/-- An item as the station that it reaches knows it: LOK, which stands in its last header, is in its first one or in a later one
(R71, R249). -/
def Desc.reached (d : Desc) : Desc :=
  { d with flits := [], h := { d.h with lok := d.h.lok && d.oneHeader }, lokLast := d.h.lok && !d.oneHeader }

/-- An item waits at a station's input queue. -/
def State.arriveAt (s : State) (key q : Nat) (d : Desc) : State :=
  s.modActor key fun a => { a with arrive := Sparse.set a.arrive q (Sparse.get a.arrive [] q ++ [d.reached]) }

/-- Flits become visible on an output queue in this cycle (R169). -/
def State.makeVisible (s : State) (tile oq p tag key : Nat) (es : List Entry) : State :=
  s.modTile tile fun t => { t with out := t.out ++ es.map fun e => ⟨s.cycle, p, tag, e, key, oq, false⟩ }

-- SINKS (R180, R403)

/-- An item leaves a sink: a poisoned one writes its trap record (R403); it then stands for the drain. -/
def State.releaseItem (s : State) (k stn oq : Nat) (d : Desc) : State :=
  let s1 := match s.line? k, d.record with
    | some l, some r => s.trapAux l.ctx (stationKey k stn) r (l.counter.setWidth 64)
    | _, _ => s
  let s2 := s1.modLine k fun l => { (l.modSink stn oq fun x => { x with out := x.out ++ [{ d with can := false }] }) with
    sunk := l.sunk + 1 }
  match s.line? k with
  | some l => s2.modCtx l.ctx fun c => { c with sunk := c.sunk + 1 }
  | none => s2

/-- Held items whose SEQ has come are released in turn (R180). -/
def State.releaseRun (s : State) (k stn oq : Nat) : (fuel : Nat) → State
  | 0 => s
  | n + 1 =>
    match (s.line? k).bind fun l => l.sinkOf stn oq with
    | none => s
    | some x =>
      match x.store.find? fun d => d.h.seq == x.next with
      | none => s
      | some d =>
        let s1 := s.modLine k fun l => l.modSink stn oq fun y =>
          { y with store := y.store.erase d, next := y.next + 1 }
        State.releaseRun (if d.can then s1 else s1.releaseItem k stn oq d) k stn oq n

/-- The earliest of the held items. -/
def leastSeq (ds : List Desc) : Option Desc :=
  match ds with
  | [] => none
  | d :: r => some (r.foldl (fun b x => if later48 b.h.seq x.h.seq then x else b) d)

/-- The sink's count of releases out of order (R180). -/
def State.sinkOverrun (s : State) (k stn oq : Nat) : State :=
  s.modLine k fun l => l.modSink stn oq fun y => { y with overruns := y.overruns + 1 }

/-- An ordered sink takes the cancel token of a SEQ: a held item of it goes in its turn without being released; an item that
has not come is discarded when it does, and NEXT passes it (R256). -/
def State.sinkCancel (s : State) (k stn oq : Nat) (x : Sink) (d : Desc) : State :=
  let held := x.store.any fun y => y.h.seq == d.h.seq
  (s.modLine k fun l => l.modSink stn oq fun y => { y with
    store := if held then y.store.map fun z => if z.h.seq = d.h.seq then { z with can := true } else z
      else if later48 y.next d.h.seq then y.store else y.store ++ [d]
    cancelled := if held then y.cancelled else d.h.seq :: y.cancelled }).releaseRun k stn oq 65

/-- A full reorder store releases its item with the least SEQ, and NEXT passes that (R180). -/
def State.sinkMake (s : State) (k stn oq : Nat) (x : Sink) : State :=
  let items := x.store.filter fun y => !y.can
  match (if Config.sinkStore ≤ items.length then leastSeq items else none) with
  | some m =>
    (((s.modLine k fun l => l.modSink stn oq fun y => { y with
      store := (y.store.erase m).filter fun z => !(z.can && later48 m.h.seq z.h.seq), next := m.h.seq + 1 }).releaseItem k stn oq m).sinkOverrun
        k stn oq).releaseRun k stn oq 65
  | none => s

/-- A sink takes an item (R180). An ordered sink discards one whose cancel token has come (R256). DESIGN CHOICE: an arrival that a
full store has made room for is released at once when NEXT has reached its SEQ (notes/assumptions/124.md). -/
def State.sinkTakeNow (s : State) (k stn oq : Nat) (d : Desc) : State :=
  match (s.line? k).bind fun l => l.sinkOf stn oq with
  | none => s
  | some x =>
    if !x.ordered then (if d.can then s else s.releaseItem k stn oq d)
    else if d.can then s.sinkCancel k stn oq x d
    else if x.cancelled.contains d.h.seq then
      s.modLine k fun l => l.modSink stn oq fun y => { y with cancelled := y.cancelled.erase d.h.seq }
    else if d.h.seq = x.next then
      ((s.modLine k fun l => l.modSink stn oq fun y => { y with next := y.next + 1 }).releaseItem k stn oq d).releaseRun k stn oq 65
    else if later48 x.next d.h.seq then (s.releaseItem k stn oq d).sinkOverrun k stn oq
    else
      ((s.sinkMake k stn oq x).modLine k fun l => l.modSink stn oq fun y => { y with store := y.store ++ [d] }).releaseRun k stn oq 65

/-- An item reaches a sink, which takes nothing while its writer stalls (R180, R406). -/
def State.sinkTake (s : State) (k stn oq : Nat) (d : Desc) : State :=
  let waiting : Bool := match (s.line? k).bind fun l => l.sinkOf stn oq with | some x => !x.wait.isEmpty | none => false
  if s.stalls (stationKey k stn) ∨ waiting then
    s.modLine k fun l => l.modSink stn oq fun y => { y with wait := y.wait ++ [d] }
  else s.sinkTakeNow k stn oq d

/-- Items that wait before a sink are taken, while its writer does not stall. -/
def State.sinkResume (s : State) (k stn oq : Nat) : (fuel : Nat) → State
  | 0 => s
  | n + 1 =>
    match ((s.line? k).bind fun l => l.sinkOf stn oq).bind fun x => x.wait.head? with
    | none => s
    | some d =>
      if s.stalls (stationKey k stn) then s
      else
        State.sinkResume ((s.modLine k fun l => l.modSink stn oq fun y => { y with wait := y.wait.drop 1 }).sinkTakeNow
          k stn oq d) k stn oq n

/-- A sink's drain looks at what has been released. -/
def State.kickDrains (s : State) (k : Nat) : State :=
  s.dies.foldl (fun s d =>
    d.2.edges.foldl (fun s e =>
      match e.2.stream with
      | some t => if t.line = k ∧ t.drain ∧ t.state = 0 then s.now (.streamElement d.1 e.1) else s
      | none => s) s) s

-- CHANNELS (R390 to R393)

/-- The layer-field value of a WID (R165). -/
def Line.layerOf (l : Line) (wid : Word) : Word := widField l.widw wid l.layer

/-- The version of a channel that an item of layer `x` takes (R391). -/
def Chan.pick (c : Chan) (x : Word) : Option ChanPos :=
  match c.next with
  | some n => if n.from_.toNat ≤ x.toNat then some n else c.cur
  | none => c.cur

/-- The state of a channel position. -/
inductive PosState where
  | placed | unplaced | swapped | exited
  deriving DecidableEq, Repr

/-- Whether a line of a context is off the device. -/
def State.savedLine (s : State) (ctx k : Nat) : Bool := s.saved.any fun v => v.ctx == ctx && v.lines.any fun l => l.1 == k

/-- What stands at a position of this device (R393). A line that a pre-emption has stopped is as good as off the device:
what comes for it still enters its queues. -/
def State.posState (s : State) (ctx : Nat) (p : ChanPos) : PosState :=
  let k := 48 * p.die + p.region
  if s.savedLine ctx k then .swapped
  else
    match s.line? k with
    | some l =>
      if l.ctx ≠ ctx ∨ l.exited then .exited
      else if (!l.running ∧ l.draining.isNone) ∨ l.resize.isSome then .unplaced
      else if (l.tileOf p.stn).isSome then .placed else .exited
    | none => .exited

/-- Parked flits of a destination (R393). -/
def destKey (die region stn q : Nat) : Nat := ((die * 48 + region) * 64 + stn) * 8 + q

/-- The flits parked on a die. -/
def Die.parkedFlits (d : Die) : Nat := (d.parked.map fun p => Nat.max 1 p.desc.flits.length).sum

/-- Flits that the parking store of a die holds, those for graphs that are off the device too (R393). -/
def State.parkedOn (s : State) (die : Nat) : Nat :=
  (s.die die).parkedFlits +
    (s.saved.flatMap fun v => (v.parked.filter fun p => p.1 == die).map fun p => Nat.max 1 p.2.desc.flits.length).sum

/-- An item enters a channel's destination queue; the head gives it its SEQ. A cancel token enters no queue (R237). -/
def State.channelEnter (s : State) (p : ChanPos) (d : Desc) : State :=
  let k := 48 * p.die + p.region
  match (s.line? k).bind fun l => l.tileOf p.stn with
  | none => s
  | some tile =>
    let es := ((entriesOf d 6).filter fun e => !e.hdr.can).map fun e => { e with unseq := true }
    ((s.modTile tile fun t => t.setQueue p.queue (t.queue p.queue ++ es)).arriveAt (stationKey k p.stn) p.queue d)

/-- The origin of what is raised about an item by its sender. -/
def State.senderOrigin (s : State) (d : Desc) : Origin :=
  { s.origin d.sender 0 with seq := d.h.seq.toNat, wid := d.h.wid.toNat }

/-- An E_DEST_EXITED record with the sender as origin, in the sender's ring (R393). -/
def State.destExited (s : State) (d : Desc) : State :=
  s.trap (s.actor d.sender).ctx d.sender (record s.dev (s.senderOrigin d) .destExited 0 0)

/-- A restore of a swapped-out context enters the ready queue, at the PRIO of the graph (R377, R393). DESIGN CHOICE: a full queue
takes none, and the next item that is parked asks again (notes/assumptions/81.md). -/
def State.askRestore (s : State) (ctx die k : Nat) : State :=
  let prio := match (List.find? (fun g => g.2.ctx == ctx && g.2.lines.contains k) s.graphs) with | some g => g.2.prio | none => 0
  if !s.readyRoom die || List.any s.dies fun d => d.2.ready.any fun r => r.restore && r.ctx == ctx then s
  else s.enterReady die ⟨prio, ctx, s.cycle, 33, 0, none, false, true⟩

/-- The new position of a channel to which its old one, where an item arrives, sends it on: until the new one has taken an item of
layer FROM + 1, items of layer FROM − 1 or later (R392). -/
def Chan.forwards (c : Chan) (p : ChanPos) (layer : Word) : Option ChanPos :=
  match c.cur, c.next with
  | some o, some n =>
    if o.device = p.device ∧ o.die = p.die ∧ o.region = p.region ∧ o.stn = p.stn ∧ o.queue = p.queue ∧ !c.settled
      ∧ n.from_.toNat ≤ layer.toNat + 1 then some n else none
  | _, _ => none

/-- An item reaches a position: it enters, is parked, or is discarded, by the position's state, or goes to another device (R393,
R430); none when the parking store has no room for it. -/
def State.deliverTo (s : State) (ctx c : Nat) (d : Desc) (p : ChanPos) : Option State :=
  if p.device ≠ s.dev then
    some (match s.routePort p.device with
      | some port => (wireFlits 0 (entriesOf d 6)).foldl (fun s x => s.sendFrame port x) s
      | none => s.trap ctx d.sender (record s.dev (s.senderOrigin d) .link Cause.port 0))
  else
    let dest := destKey p.die p.region p.stn p.queue
    let room : Bool := s.parkedOn p.die + Nat.max 1 d.flits.length ≤ Config.parkFlits
    let park : State := s.modDie p.die fun x => { x with parked := x.parked ++ [⟨dest, d, c⟩] }
    match s.posState ctx p with
    | .placed =>
      if !(s.die p.die).parked.any fun x => x.dest == dest then some (s.channelEnter p d)
      else if room then some (park.now (.parkedDelivery p.die dest)) else none
    | .unplaced => if room then some park else none
    | .swapped =>
      if room then
        some (({ s with saved := s.saved.map fun (v : Saved) =>
          if v.ctx = ctx then { v with parked := v.parked ++ [(p.die, (⟨dest, d, c⟩ : Parked))] } else v } : State).askRestore ctx p.die
            (48 * p.die + p.region))
      else none
    | .exited => some (s.destExited d)

/-- An item on a channel is sent to the version that its layer takes; an old position of this device sends it on to the new one
(R391, R392). -/
def State.tryChannel (s : State) (ctx c : Nat) (d : Desc) (layer : Word) : Option State :=
  match ((s.ctx? ctx).bind fun x => Sparse.find? x.chans c).bind fun ch => (ch.pick layer).map fun p => (ch, p) with
  | none => some (s.destExited d)
  | some (ch, p) => s.deliverTo ctx c d ((if p.device = s.dev then ch.forwards p layer else none).getD p)

/-- An item is handed on a channel: its sender holds it while the parking store is full, and what it hands on that channel later
behind it (R390 to R393). -/
def State.sendChannel (s : State) (ctx c : Nat) (d : Desc) (layer : Word) : State :=
  let hold : State := s.modActor d.sender fun a => { a with stuck := a.stuck ++ [(c, d, layer)] }
  if (s.actor d.sender).stuck.any fun x => x.1 == c then hold else (s.tryChannel ctx c d layer).getD hold

/-- What a station holds for channels is tried again, in its order (R393). DESIGN CHOICE: it is tried at each boundary of its line
(notes/assumptions/81.md). -/
def State.unstick (s : State) (key : Nat) : State :=
  let a := s.actor key
  a.stuck.foldl (fun s x => s.sendChannel a.ctx x.1 x.2.1 x.2.2) (s.modActor key fun a => { a with stuck := [] })

/-- The channel that a line receives has settled once its new position takes an item of layer FROM + 1 (R392). -/
def State.settle (s : State) (l : Line) (stn : Nat) (wid : Word) : State :=
  s.modCtx l.ctx fun c => { c with chans := c.chans.map fun x =>
    match x.2.next with
    | some n =>
      if n.die = l.die ∧ n.region = l.region ∧ n.stn = stn ∧ n.from_ + 1 = l.layerOf wid then (x.1, { x.2 with settled := true })
      else x
    | none => x }

/-- A parked item comes to its destination, which is in place, or to the new position of its channel (R392, R393). DESIGN CHOICE: its
layer is read by the WID layout of its sender's line, or of its destination's when that line is gone (notes/assumptions/81.md). -/
def State.enterParked (s : State) (l : Line) (pos : ChanPos) (x : Parked) : State :=
  let layer := ((s.line? (s.actor x.desc.sender).line).getD l).layerOf x.desc.h.wid
  match ((s.ctx? l.ctx).bind fun c => Sparse.find? c.chans x.queue).bind fun ch => ch.forwards pos layer with
  | some n => (s.deliverTo l.ctx x.queue x.desc n).getD (s.channelEnter pos x.desc)
  | none => s.channelEnter pos x.desc

/-- PARKED_DELIVERY: parked flits of a destination that is in place enter it in their order (R393). -/
def execParkedDelivery (die : Nat) (dest : Nat) (s : State) : Out :=
  let k := dest / 512
  let ps := (s.die die).parked.filter fun p => p.dest == dest
  let pos : ChanPos := ⟨s.dev, die, dest / 512 % 48, dest / 8 % 64, dest % 8, 0⟩
  let out : State := s.modDie die fun d => { d with parked := d.parked.filter fun p => p.dest != dest }
  .next (match s.line? k with
    | none => ps.foldl (fun s p => s.destExited p.desc) out
    | some l =>
      if l.exited then ps.foldl (fun s p => s.destExited p.desc) out
      else if l.running ∧ l.resize.isNone then ps.foldl (fun s p => s.enterParked l pos p) out
      else s)

-- SENDING AN ITEM

/-- An item goes out on an output queue, as a Desc with its flits (R169, R170, R390). -/
def State.sendItem (s : State) (k : Nat) (l : Line) (stn oq : Nat) (route : Option (Nat × Nat × Nat)) (d : Desc) : State :=
  let key := stationKey k stn
  let d := s.sealItem key { d with sender := key }
  match l.tileOf stn with
  | none => s
  | some tile =>
    let (p, tag) : Nat × Nat := match s.outPair tile oq route with
      | some (p, tag, _) => (p, tag)
      | none => (0, 0)
    let demand := fun (t : Tile) =>
      if (mapEntry t.oqmap oq).any (fun x => x.2 = 7) && d.flits ≠ [] then
        { t with demand := Sparse.set t.demand oq (Sparse.get t.demand 0 oq - 1) } else t
    let s0 := s.modTile tile demand
    match s.destOf l stn oq route with
    | .stn n q => (s0.makeVisible tile oq p tag key (entriesOf d tag)).arriveAt (stationKey k n) q d
    | .sink => s0.sinkTake k stn oq d
    | .chan c => s0.sendChannel l.ctx c d (l.layerOf d.h.wid)
    | .nowhere => s0.makeVisible tile oq p tag key (entriesOf d tag)

-- CANCEL TOKENS (R256)

/-- A bay tile's unit goes: what it still awaits is thrown away, and accesses that have been accepted are performed
(R146, R178, R256). -/
def State.retireUnit (s : State) (key : Nat) : State :=
  { s with
    results := s.results.filter fun r => r.fire.actor != key
    accs := (s.accs.filter fun a => !(a.actor == key && a.stage = .buffered)).map fun a =>
      if a.actor = key then { a with discard := true } else a
    actors := Sparse.del s.actors key
    tiles := s.tiles.map fun x => (x.1, { x.2 with
      run := x.2.run.filter fun r => r.fire.actor != key, moves := x.2.moves.filter fun m => m.fire.actor != key || m.reads.isEmpty }) }

/-- A bay tile is free: its unit goes, its barrier memberships stay with the tile, and what waits for its configurations takes effect
(R178, R225, R394). -/
def State.freeBay (s : State) (tile : Nat) : State :=
  let key := bayKey tile
  let ms := (s.actor key).members
  ((((s.shuntFence key).retireUnit key).modTile tile fun t => { t with members := ms, iq := [] }).applyBay tile)

/-- Everything of a SEQ that is pending at a station is annihilated, the flits in its queues with it (R256). -/
def State.annihilate (s : State) (k stn : Nat) (seq : BitVec 48) : State :=
  let key := stationKey k stn
  let a := s.actor key
  let s1 := (s.modActor key fun a =>
    { a with arrive := a.arrive.map fun x => (x.1, x.2.filter fun d => d.h.seq != seq) }).modTile a.tile fun t =>
      ((List.range 8).filter fun q => s.ownsQueue a q).foldl (fun t q => t.setQueue q (keepOthers seq (t.queue q))) t
  match s1.line? k with
  | none => s1
  | some l =>
    match l.fifo.find? fun r => r.stn == stn && (match (s1.actor (bayKey r.bay)).item with
        | some i => i.desc.h.seq == seq | none => false) with
    | some r => (s1.freeBay r.bay).modLine k fun l => { l with fifo := l.fifo.filter (· != r) }
    | none => s1

-- JOINS (R170, R256, R402)

/-- The lowest SEQ that every one of some queues holds. -/
def joinSeq (a : Actor) (qs : List Nat) : Option (BitVec 48) :=
  match qs with
  | [] => none
  | q :: _ =>
    let all := (Sparse.get a.arrive [] q).filter fun d => qs.all fun r => (Sparse.get a.arrive [] r).any fun e => e.h.seq == d.h.seq
    (leastSeq all).map (·.h.seq)

/-- What a queue holds for a join of a SEQ: a cancel token counts before the item that it cancels (R256). -/
def joinPart (a : Actor) (q : Nat) (seq : BitVec 48) : Option Desc :=
  let ds := (Sparse.get a.arrive [] q).filter fun d => d.h.seq == seq
  match ds.find? (·.can) with
  | some d => some d
  | none => ds.head?

/-- The parts of a SEQ on some queues, by queue. -/
def joinParts (a : Actor) (qs : List Nat) (seq : BitVec 48) : List (Nat × Desc) :=
  qs.filterMap fun q => (joinPart a q seq).map fun d => (q, d)

/-- The item that a join takes, of its parts by rising queue number: a cancel when every edge carries one; otherwise the remaining
items, with the record of the lowest-numbered queue that holds a token. Its first header is that of the lowest-numbered queue; LOK in
another part's headers is LOK in a later one (R249, R256, R402). -/
def joined (ds : List Desc) : Option Desc :=
  match ds with
  | [] => none
  | d :: _ =>
    let live := ds.filter fun x => !x.can
    match live with
    | [] => some d
    | x :: r => some { x with
        record := live.findSome? (·.record)
        unf := live.any (·.unf)
        lokLast := live.any (·.lokLast) || r.any (·.h.lok) }

/-- The first item of some queues is taken away. -/
def dropFirst (a : Actor) (qs : List Nat) (p : Desc → Bool) : Actor :=
  { a with arrive := a.arrive.map fun x => if qs.contains x.1 then (x.1, x.2.eraseP p) else x }

/-- The parts of a join are taken away; the queue of a cancelled edge holds nothing for that item (R256). -/
def dropParts (a : Actor) (ps : List (Nat × Desc)) (seq : BitVec 48) : Actor :=
  { a with arrive := a.arrive.map fun x => match ps.find? fun p => p.1 == x.1 with
    | some p => (x.1, if p.2.can then x.2.filter fun d => d.h.seq != seq else x.2.eraseP fun d => d.h.seq == seq)
    | none => x }

/-- The head gives the entries of the next item of a source queue their SEQ (R165). -/
def giveSeq (seq : BitVec 48) : List Entry → List Entry × Bool
  | [] => ([], false)
  | e :: r =>
    if !e.unseq then
      let (es, done) := giveSeq seq r
      (e :: es, done)
    else
      let e' := { e with hdr := { e.hdr with seq := seq }, unseq := false }
      if e.last then (e' :: r, true)
      else
        let (es, done) := giveSeq seq r
        (e' :: es, done)

/-- A source queue's next item has its SEQ, also what its feed has still to send. -/
def State.assignSeq (s : State) (k stn tile q : Nat) (seq : BitVec 48) : State :=
  let (es, done) := giveSeq seq ((s.tile tile).queue q)
  let s1 := s.modTile tile fun t => t.setQueue q es
  if done then s1
  else { s1 with dies := s1.dies.map fun d => (d.1, { d.2 with edges := d.2.edges.map fun e =>
    match e.2.stream with
    | some t => if t.state = 0 ∧ !t.drain ∧ t.line = k ∧ t.stn = stn ∧ t.queue = q then
        (e.1, { e.2 with stream := some { t with seq := some seq } }) else e
    | none => e }) }

-- THE OCCUPANCY OF A CYCLE (R187)

/-- The tile of the station that a flit on a (port, route tag) of a tile reaches. -/
def State.leadsTo (s : State) (tile p tag : Nat) : Option Nat := (tracePath s.tile 64 tile p tag 0).map (·.1)

/-- The tile of the station that a flit in flight reaches. -/
def State.flightTo (s : State) (f : Flight) : Option Nat :=
  match queueAt (s.tile f.tile) f.port f.tag with
  | none => none
  | some q =>
    if (s.tile f.tile).hasStation then some f.tile
    else match mapEntry (s.tile f.tile).oqmap q with
      | some (p, tag) => s.leadsTo f.tile p tag
      | none => none

/-- The entries of a queue, item by item. -/
def itemsOf : (cur : List Entry) → List Entry → List (List Entry)
  | cur, [] => if cur = [] then [] else [cur]
  | cur, e :: r => if e.last then (cur ++ [e]) :: itemsOf [] r else itemsOf (cur ++ [e]) r

/-- Flits of a cycle's items in its queues, those of its pass-through tiles and those that a channel fills included, in hold stores
and retained inputs, and parked for its stations (R187, R393). -/
def State.occupancy (s : State) (k : Nat) (l : Line) (stns : List Nat) : Nat :=
  let tiles := stns.filterMap l.tileOf
  let inside (key : Nat) : Bool := stns.any fun n => stationKey k n == key
  let mine (actor : Nat) (dst : Option Nat) : Bool :=
    inside actor && (match dst with | some t => tiles.contains t | none => false)
  let held := stns.map fun n =>
    let a := s.actor (stationKey k n)
    let qs := (s.upQueues l n).filter fun e => stns.contains e.2
    let inQ := match l.tileOf n with
      | some tile => (qs.map fun e => ((s.tile tile).queue e.1).length).sum
          + (((List.range 8).filter fun q => s.ownsQueue a q && (mapEntry (s.tile tile).iqmap q).any fun x => x.2 == 6).map fun q =>
              (((Sparse.get a.arrive [] q).zip (itemsOf [] (((s.tile tile).queue q).filter (·.unseq)))).map fun x =>
                if inside x.1.sender then x.2.length else 0).sum
              + (if a.item.any fun i => inside i.desc.sender then (((s.tile tile).queue q).filter (!·.unseq)).length else 0)).sum
      | none => 0
    a.hold.length + a.retained.length + (a.stuck.map fun x => x.2.1.flits.length).sum + inQ
  let out := List.map (fun (t : Nat × Tile) =>
    (t.2.out.filter fun o => !o.entry.hdr.can && mine o.actor (s.leadsTo t.1 o.port o.tag)).length) s.tiles
  let parked := (s.die l.die).parked.filter fun p =>
    p.dest / 512 == k && inside p.desc.sender && stns.contains (p.dest / 8 % 64)
  held.sum + out.sum + (parked.map fun p => p.desc.flits.length).sum
    + (s.flights.filter fun f => !f.entry.hdr.req && !f.entry.hdr.can && mine f.actor (s.flightTo f)).length

/-- Whether a station is closed to items from outside a cycle (R187). DEDUCED: what comes from inside the cycle it goes on taking, and
it goes on handing (notes/assumptions/125.md). -/
def State.cycleClosed (s : State) (k : Nat) (l : Line) (stn : Nat) : Bool :=
  l.cycles.any fun c => c.1.head? == some stn && decide (c.2 < s.occupancy k l c.1)

end Sys2Proof.Machine
end

