-- ==== Sys2Proof/Machine/Rework.lean ====
section
/-! DEFINITION. Overruns and the rework bay: shunts, the transfer to a bay tile, what a station and a bay tile hold
afterwards, and what a bay tile hands at its rejoin (R171 to R178, R146, R340). -/

namespace Sys2Proof.Machine

-- THE TRANSFER (R172)

/-- Header flits of entries as they were received: a new one where the header changes, or its burst is full (R70). -/
def headerFlits (prev : Option Hdr) (left : Nat) : List Entry → Nat
  | [] => 0
  | e :: r =>
    if e.bare then 1 + headerFlits none 0 r
    else if prev = some e.hdr ∧ 0 < left then headerFlits prev (left - 1) r
    else 1 + headerFlits (some e.hdr) (e.hdr.blen.toNat - 1) r

/-- Flits of an input item, headers and data. -/
def inputFlits (es : List (Nat × Entry)) : Nat :=
  ((List.range 8).map fun q => headerFlits none 0 ((es.filter fun e => e.1 == q).map (·.2))).sum
    + (es.filter fun e => !e.2.bare).length

/-- The banks of a mask, in increasing number. -/
def bankList (mask : Nat) : List Nat := (List.range 4).filter fun b => mask.testBit b

/-- The entries of an item that still stand in the queues of its unit. -/
def State.queued (s : State) (a : Actor) (seq : BitVec 48) : List (Nat × Entry) :=
  ((List.range 8).filter fun q => s.ownsQueue a q).flatMap fun q =>
    ((s.tile a.tile).queue q).filterMap fun e => if !e.unseq && e.hdr.seq == seq then some (q, e) else none

/-- The queues of a unit without an item's entries. -/
def State.purgeSeq (s : State) (a : Actor) (seq : BitVec 48) : State :=
  s.modTile a.tile fun t =>
    ((List.range 8).filter fun q => s.ownsQueue a q).foldl (fun t q => t.setQueue q (keepOthers seq (t.queue q))) t

/-- UNF is written into the headers of an entry (R171). -/
def Entry.unfinished (e : Entry) : Entry := { e with hdr := { e.hdr with unf := true } }

/-- Masks of a rework descriptor: MODE, ACC, MREG and PV (R175). -/
def Cfg.carry (c : Cfg) : Bool := c.rework.getLsbD 0
def Cfg.acc (c : Cfg) : Nat := c.rework.toNat / 2 % 16
def Cfg.mreg (c : Cfg) : Nat := c.rework.toNat / 2 ^ 5 % 256
def Cfg.pvMask (c : Cfg) : Nat := c.rework.toNat / 2 ^ 13 % 16

/-- The flits of the registers that CARRY names (R172). -/
def Cfg.carryFlits (c : Cfg) : Nat :=
  let n (mask w : Nat) : Nat := ((List.range w).filter fun i => mask.testBit i).length
  256 * n c.acc 4 + 128 * n c.mreg 8 + 4 * n c.pvMask 4 + (if c.acc = 0 ∧ c.mreg = 0 ∧ c.pvMask = 0 then 0 else 1)

/-- The registers of a tile that masks name, taken from another tile; fs too when a mask is nonzero (R172). -/
def Tile.takeRegs (t from_ : Tile) (c : Cfg) : Tile :=
  let aIn (k : Nat) : Bool := c.acc.testBit (k / 4096)
  let mIn (k : Nat) : Bool := c.mreg.testBit (k / 128)
  let pIn (k : Nat) : Bool := c.pvMask.testBit (k / 64)
  { t with
    a := ((from_.a.filter fun x => aIn x.1)).foldl (fun m x => Sparse.set m x.1 x.2) (t.a.filter fun x => !aIn x.1)
    m := ((from_.m.filter fun x => mIn x.1)).foldl (fun m x => Sparse.set m x.1 x.2) (t.m.filter fun x => !mIn x.1)
    pv := ((from_.pv.filter fun x => pIn x.1)).foldl (fun m x => Sparse.set m x.1 x.2) (t.pv.filter fun x => !pIn x.1)
    fs := if c.acc = 0 ∧ c.mreg = 0 ∧ c.pvMask = 0 then t.fs else from_.fs }

/-- The tile with the registers that masks name zero (R173). -/
def Tile.dropRegs (t : Tile) (c : Cfg) : Tile := t.takeRegs Tile.reset c

-- THE STATION AFTER A SHUNT (R171)

/-- The station returns to its item's start: its banks, its generator positions and its configuration, which acts as a
SWITCH when it differs from the active one (R171, R183). -/
def State.toSnap (s : State) (key : Nat) : State :=
  let a := s.actor key
  match a.snap with
  | none => s
  | some p =>
    let s1 := s.modTile a.tile fun t =>
      p.banks.foldl (fun t b => { t with banks := Sparse.set t.banks b.1 b.2 }) t
    let moving : Bool := a.active != p.active || (match a.switchTo with | some (c, _) => c != p.active | none => false)
    let s2 := s1.setActor key { a with
      active := p.active, item := none, hold := [], retained := [], gpos := p.gpos, choice := Choice.none, rc := [], work := none
      reissue := none
      switchTo := if moving then some (p.active, s.cycle + 4) else none
      overruns := a.overruns + 1 }
    if moving then s2.after 4 (.configSwitchEnd key) else s2

-- SHUNTS (R171, R172)

/-- The lowest-numbered free bay tiles of a line, in order. -/
def State.freeBays (s : State) (l : Line) : List Nat :=
  l.bay.filter fun t => (Sparse.find? s.actors (bayKey t)).isNone

/-- What a unit still awaits, under CARRY moved to the bay tile with the live state (R146, R172); under RESTART thrown
away: accepted accesses are performed and their results discarded, waiting ones dropped. -/
def State.moveWork (s : State) (key bkey bay : Nat) (carry : Bool) : State :=
  if carry then
    let at_ (f : Firing) : Firing := if f.actor = key then { f with actor := bkey, tile := bay } else f
    ({ s with
      results := s.results.map fun r => { r with fire := at_ r.fire }
      accs := s.accs.map fun a => if a.actor = key then { a with actor := bkey, fire := at_ a.fire } else a } : State).modTile
        (s.actor key).tile fun t => { t with moves := t.moves.map fun m => { m with fire := at_ m.fire } }
  else
    { s with
      results := s.results.filter fun r => r.fire.actor != key
      accs := (s.accs.filter fun a => !(a.actor == key && a.stage = .buffered)).map fun a =>
        if a.actor = key then { a with discard := true } else a }

/-- The bay tile's copy of a station's configuration. -/
def Tile.copyOf (t : Tile) (line stn c : Nat) : Option Nat :=
  (List.range 8).find? fun k => Sparse.find? t.copies k == some (line, stn, c)

/-- A configuration that is not resident takes its fetch's time instead of the 4 cycles of a switch (R172, R177). DESIGN
CHOICE: the nominal 200 cycles are the least that a fetch takes (notes/assumptions/98.md). -/
def fetchCycles (n : Nat) : Nat := 200 + Config.latency n

/-- The bay tile turns to the station's configuration `c` when its transfer of `n` flits has ended (R172, R177). -/
def State.bayTurn (s : State) (key tile line stn c n : Nat) : State :=
  match (s.tile tile).copyOf line stn c with
  | some k => (s.modActor key fun a => { a with active := k, switchTo := some (k, s.cycle + n + 4) }).after (n + 4)
      (.configSwitchEnd key)
  | none =>
    let m := fetchCycles s.fresh
    (s.drew.modActor key fun a => { a with active := c, switchTo := some (c, s.cycle + n + m) }).after (n + m)
      (.bayConfigFetch tile)

/-- The slot of a bay tile's fetch that waits for a page. -/
def baySlot (tile : Nat) : Nat := 2 ^ 17 + 4096 + tile

/-- The configuration that a bay tile has fetched takes its place, as it stands at the station now (R177, R225). -/
def State.placeCopy (s : State) (tile c : Nat) : State :=
  let a := s.actor (bayKey tile)
  let st := s.actor (stationKey a.line a.stn)
  let k := freeCopy (s.tile tile)
  (s.modTile tile fun t => t.addCopy k a.line a.stn c ((s.tile st.tile).cfg c)).setActor (bayKey tile)
    { a with active := k, switchTo := none }

/-- The fetch of a bay tile has failed: its item becomes an error token (R37, R381). -/
def State.fetchFailed (s : State) (tile : Nat) (e : Absent) : State :=
  let key := bayKey tile
  (s.attach? key (some ⟨record s.dev (s.origin key 0) .configAbsent e.cause e.full, true⟩)).modActor key fun a =>
    { a with switchTo := none }

/-- BAY_CONFIG_FETCH: the line's stream comes from the die configuration cache, or from memory, and the configuration takes its
place; a fetch waits while a page that it needs migrates (R35, R172, R177, R381). -/
def execBayConfigFetch (tile : Nat) (s : State) : Out :=
  let a := s.actor (bayKey tile)
  .next (match a.switchTo, s.line? a.line with
    | some (c, due), some l =>
      if a.kind ≠ .bay ∨ s.cycle < due then s
      else
        match s.fetchStream l.die l.ctx l.code l.variant l.stream l.slen with
        | (s1, .ok _) => (s1.unhold l.die (baySlot tile)).placeCopy tile c
        | (s1, .error e) =>
          match (if e.waits then s1.holdFor l.die (baySlot tile) (.bayConfigFetch tile) else none) with
          | some s2 => s2
          | none => (s1.unhold l.die (baySlot tile)).fetchFailed tile e
    | _, _ => s)

/-- CONFIG_SWITCH_END: the 4 cycles of a change of configuration have passed (R172, R183, R258). -/
def execConfigSwitchEnd (actor : Nat) (s : State) : Out :=
  let a := s.actor actor
  .next (match a.switchTo with
    | some (c, due) => if due ≤ s.cycle then s.setActor actor { a with active := c, switchTo := none } else s
    | none => s)

/-- Whether a tile's run is one that a unit started for the item that it holds (R340). -/
def State.ownRun (s : State) (key : Nat) : Bool :=
  match (s.tile (s.actor key).tile).run with
  | some r => r.fire.actor == key && decide ((s.actor key).start ≤ r.start)
  | none => false

/-- Cycles that a transfer under CARRY waits: until the results that the unit awaits have been written, and until the step of
a stopped run has ended (R311, R340). -/
def State.transferWait (s : State) (key : Nat) (stopped : Bool) : Nat :=
  let due := (s.results.filter fun r => r.fire.actor == key).foldl (fun n r => Nat.max n r.due) s.cycle
  Nat.max due (if stopped then (s.tile (s.actor key).tile).arrBusy else 0) - s.cycle

/-- The configuration whose rework descriptor governs a shunt: the active one, but where that one says RESTART and the item has
issued in another what R146 bars from RESTART, that other one. DESIGN CHOICE (notes/assumptions/120.md). -/
def State.shuntCfg (s : State) (a : Actor) : Cfg :=
  let t := s.tile a.tile
  match a.choice.bound with
  | some c => if (t.cfg a.active).carry then t.cfg a.active else t.cfg c
  | none => t.cfg a.active

/-- A run that may be resumed is so no more: VALID is cleared (R340). -/
def Tile.unresume (t : Tile) : Tile := { t with fs := { fsOf t.fs with valid := false }.bits }

/-- The shunt of a station's item to a bay tile (R171 to R173): the retained input with UNF = 1, the snapshot or the live
state, and the registers that the descriptor names; then the station is as at the item's start. -/
def State.shunt (s : State) (k stn bay : Nat) : State :=
  let key := stationKey k stn
  let a0 := s.actor key
  let cfg := s.shuntCfg a0
  let carry := cfg.carry
  let target := match a0.switchTo with | some (c, _) => c | none => a0.active
  match a0.item with
  | none => s
  | some i =>
    let mine := s.ownRun key
    let s0 := if mine then s.stopRun a0.tile carry
      else if a0.reissue.isSome && !carry then s.modTile a0.tile Tile.unresume else s
    let s1 := if carry then s0.fenceRel a0.tile a0.ctx 1 else s0
    let a := s1.actor key
    let seq := i.desc.h.seq
    let p := match a.snap with | some p => p | none => ⟨[], [], a.active, a.seed, a.hs⟩
    let mask := bankList cfg.banks
    let input := a.retained ++ s1.queued a seq
    let n := inputFlits input + 19 * mask.length + 1
      + (if carry then s1.transferWait key mine + cfg.carryFlits + a.hold.length else 0)
    let bkey := bayKey bay
    let desc := { i.desc with unf := true }
    let live : List (Nat × Entry) := (if carry then s1.queued a seq else input).map fun e => (e.1, e.2.unfinished)
    let u : Actor := { a with
      kind := .bay, tile := bay
      item := some (if carry then { (a.item.getD i) with desc := desc } else ⟨desc, none, false, none, false, false, 0, []⟩)
      hs := if carry then a.hs else p.hs
      seed := if carry then a.seed else p.seed
      k := if carry then a.k else 0
      hold := if carry then a.hold else []
      retained := if carry then a.retained.map fun e => (e.1, e.2.unfinished) else []
      rc := if carry then a.rc else []
      gpos := if carry then a.gpos else p.gpos
      waveS := if carry then a.waveS else 0xFE
      waveN := if carry then a.waveN else 0xFF
      start := s.cycle, work := none
      snap := if carry then none else a.snap
      reissue := if carry then a.reissue else none
      drainBusy := if carry then a.drainBusy else 0
      choice := if carry then { a.choice with cancelSeqs := [], atRejoin := a.choice.cancelSeqs } else Choice.none
      sleep := if carry then a.sleep else none
      switchTo := none, closed := false, yielded := false, arrive := [], cancel := none, waits := 0, withheld := false
      fence := !carry, members := (s1.tile bay).members, stuck := [], handed := 0, overruns := 0, bubbles := 0 }
    let tile := s1.tile a.tile
    let s2 := (s1.setActor bkey u).modTile bay fun t =>
      let t1 := mask.foldl (fun t b =>
        { t with banks := Sparse.set t.banks b (if carry then tile.bank b else Sparse.get p.banks Bank.zero b) }) t
      let t2 := if carry then t1.takeRegs tile cfg else t1
      { t2 with iq := (List.range 8).filterMap fun q =>
          match (live.filter fun e => e.1 == q).map (·.2) with | [] => none | es => some (q, es) }
    let s3 := ((s2.moveWork key bkey bay carry).purgeSeq a seq).modTile a.tile fun t => if carry then t.dropRegs cfg else t
    let s4 := (s3.toSnap key).bayTurn bkey bay k stn (if carry then target else p.active) n
    (if carry then s4.fenceAcq bay a.ctx 1 else s4.pump bkey).modLine k fun l => { l with
      fifo := l.fifo ++ [⟨stn, bay, false, 0⟩], winOver := l.winOver + 1, reworked := l.reworked + 1 }

-- WHAT A UNIT HANDS (R169, R176, R249 to R255, R401)

/-- An item that is to be handed as an error token: its record (R252, R401). -/
def State.itemRecord (s : State) (key : Nat) : Option (BitVec 256) :=
  match (s.actor key).item with
  | some i => match i.record with
    | some r => some r
    | none => if i.overRows then some (s.shapeRecord key) else none
  | none => none

/-- What one output queue hands: the queue, the port, tag and destination of its ROUTE, and the item. -/
structure Send where
  oq : Nat
  route : Option (Nat × Nat × Nat)
  desc : Desc
  deriving DecidableEq, Repr

/-- A cancel token (R255). -/
def cancelDesc (h : HState) (seq : BitVec 48) (wid : Word) : Desc :=
  ⟨{ h with seq := seq, wid := wid, lok := false }, none, true, false, 0, [], 0, false⟩

/-- What a unit that has finished its item hands, queue by queue: the item's flits, its token, or the tokens of STEER and
CANCEL (R169, R250, R254, R255, R401). -/
def State.handing (s : State) (key : Nat) (l : Line) : List Send :=
  let a := s.actor key
  match a.item with
  | none => []
  | some i =>
    let h0 := match i.first with | some h => h | none => a.hs
    let h := { h0 with lok := a.hs.lok || i.desc.lokLast }
    let route (q : Nat) : Option (Nat × Nat × Nat) :=
      (Sparse.find? a.choice.routes q).map fun e => (((s.tile a.tile).cfg a.active).route e).2
    let other := a.choice.steer.map (·.2)
    let cancel (q : Nat) : Send := ⟨q, route q, cancelDesc h0 h0.seq h0.wid⟩
    match s.itemRecord key with
    | some r =>
      let qs := (List.range 8).filter fun q => (s.edgesOf l a.stn).any (fun e => e.1 == q) || (route q).isSome
      qs.map fun q => if other = some q then cancel q else ⟨q, route q, ⟨h, some r, false, false, 0, [], 0, false⟩⟩
    | none =>
      let qs := (List.range 8).filter fun q => a.hold.any (fun f => f.oq == q) && other != some q && !a.choice.cancels.contains q
      let sent := qs.map fun q => (⟨q, route q, ⟨h, none, false, i.desc.unf && a.kind ≠ .bay, 0,
        (a.hold.filter fun f => f.oq == q).map (·.flit), 0, false⟩⟩ : Send)
      let bare : List Send := if sent = [] ∧ h.lok then
          ((s.edgesOf l a.stn).filter fun e => other != some e.1 && !a.choice.cancels.contains e.1).map fun e =>
            ⟨e.1, route e.1, ⟨h, none, false, false, 0, [], 0, false⟩⟩
        else []
      sent ++ bare ++ (match other with | some q => [cancel q] | none => []) ++ a.choice.cancels.map cancel

/-- Whether a handing carries an item: tokens of STEER and CANCEL are none. -/
def handsItem (xs : List Send) : Bool := xs.any fun x => !x.desc.can

/-- The items of a handing leave on their queues. -/
def State.sendAll (s : State) (k : Nat) (l : Line) (stn : Nat) (xs : List Send) : State :=
  xs.foldl (fun s x => s.sendItem k l stn x.oq x.route x.desc) s

-- REJOINS (R178)

/-- Whether a reworked item has ended its rework before this cycle: HAND has fired, or it carries a record (R178, R402). -/
def State.reworkDone (s : State) (r : Rework) : Bool :=
  let a := s.actor (bayKey r.bay)
  match a.item with
  | some i => i.record.isSome || (match a.work with | some w => i.handed && decide (a.start + w ≤ s.cycle) | none => false)
  | none => false

/-- The head of a junction's FIFO. -/
def Line.fifoHead (l : Line) (stn : Nat) : Option Rework := l.fifo.find? fun r => r.stn == stn

/-- Cancel tokens of CANCEL.seq firings (R255). -/
def Actor.tokensOf (a : Actor) (xs : List (Nat × BitVec 48 × Word)) : List Send :=
  xs.map fun c => ⟨c.1, none, cancelDesc a.hs c.2.1 c.2.2⟩

/-- The tokens of a unit's CANCEL.seq firings, which go out at the next boundary behind what is handed (R255). -/
def Actor.seqTokens (a : Actor) : List Send := a.tokensOf a.choice.cancelSeqs

/-- The FIFO head rejoins: its flits become visible at the junction with UNF cleared, and the bay tile frees; the tokens of CANCEL.seq
that a CARRY shunt took along go out with it (R176, R178, R261). -/
def State.rejoin (s : State) (k : Nat) (l : Line) (r : Rework) : State :=
  let key := bayKey r.bay
  let a := s.actor key
  let xs := s.handing key l
  let s1 := s.sendAll k l r.stn (xs ++ a.tokensOf (a.choice.atRejoin ++ a.choice.cancelSeqs))
  (s1.freeBay r.bay).modLine k fun l => { l with fifo := l.fifo.filter (· != r) }

end Sys2Proof.Machine
end

