-- ==== Sys2Proof/Machine/Launch.lean ====
section
/-! DEFINITION. From a launch record to a running line: launch queues, records and their checks, code objects, the ready
queue, placement, dispatch, the end of a line and of a graph, expert resizes, and teardown (R371 to R389, R394 to R396,
R438 to R443, R459). -/

namespace Sys2Proof.Machine

-- LAUNCH RECORDS (R373)

/-- A field of a record or an entry. -/
def fld (x pos w : Nat) : Nat := x / 2 ^ pos % 2 ^ w

/-- CTX of a record. -/
def recCtx (x : Nat) : Nat := fld x 8 8
/-- COMP of a record, with its V. -/
def recComp (x : Nat) : Word := BitVec.ofNat 64 (fld x 576 64)
/-- Six widths of 7 bits (R373, R441). -/
def widths (x : Nat) : List Nat := (List.range 6).map fun i => x / 2 ^ (7 * i) % 2 ^ 7
/-- Widths and a layer index that R373 accepts. -/
def widthsOk (ws : List Nat) (layer : Nat) : Bool := ws.all (· ≤ 64) && ws.sum ≤ 64 && layer ≤ 5

/-- The bits of a record that must be zero, as (position, width) (R373). -/
def recReserved : List (Nat × Nat) := [(74, 6), (88, 40), (266, 6), (276, 44), (544, 32), (628, 11), (692, 11), (704, 256)]
/-- The fields marked CREATE (R373). -/
def recCreateOnly : List (Nat × Nat) :=
  [(28, 1), (80, 8), (192, 64), (256, 10), (272, 4), (320, 64), (448, 32), (480, 32), (512, 32), (640, 64)]

/-- Cause RECORD (R374); a task record is a GRAPH of its counter's context (R382). -/
def recordBad (x : Nat) (task : Option Nat) : Bool :=
  let t := fld x 0 8
  !(t = 1 || t = 2) || recReserved.any (fun f => fld x f.1 f.2 ≠ 0)
  || (t = 2 && recCreateOnly.any fun f => fld x f.1 f.2 ≠ 0)
  || !widthsOk (widths (fld x 32 42)) (fld x 29 3)
  || (match task with | some c => t ≠ 2 || recCtx x ≠ c | none => false)

-- CODE OBJECTS (R439 to R443)

/-- An entry of a line table (R442). -/
structure LineEnt where
  w : Nat
  h : Nat
  bay : List (Nat × Nat)
  share : Option Nat
  watch : Nat
  beat : Word
  gov : BitVec 128
  stream : Nat
  slen : Nat
  /-- Router line and expert number. -/
  expert : Option (Nat × Nat)
  kmax : Nat
  total : Nat
  partials : Nat
  slotCtr : Option Word
  chan : Option Nat
  deriving DecidableEq, Repr

/-- A variant as the launch engine has read it. -/
structure Code where
  va : Word
  variant : Nat
  lines : List LineEnt
  argmask : Nat
  args : List Nat
  /-- The launch block's WIDW and LAYER. -/
  wid : Option (List Nat × Nat)
  hash : BitVec 512
  deriving DecidableEq, Repr

/-- A line-table entry read by its fields. -/
def lineEnt (e : Nat) : LineEnt where
  w := fld e 0 8
  h := fld e 8 8
  bay := (List.range (fld e 16 2 + 1)).map fun b => (fld e (24 + 10 * b) 5, fld e (29 + 10 * b) 5)
  share := if fld e 64 1 = 1 then some (fld e 65 6) else none
  watch := fld e 80 16
  beat := BitVec.ofNat 64 (fld e 128 64)
  gov := BitVec.ofNat 128 (fld e 192 128)
  stream := fld e 320 64
  slen := fld e 384 32
  expert := if fld e 416 1 = 1 then some (fld e 417 6, fld e 423 10) else none
  kmax := fld e 433 5
  total := fld e 438 7
  partials := fld e 448 64
  slotCtr := if fld e 607 1 = 1 then some (BitVec.ofNat 64 (fld e 544 52)) else none
  chan := if fld e 614 1 = 1 then some (fld e 608 6) else none

/-- The limits of R442 on entry `i` of `n`. -/
def lineEntOk (i n e : Nat) : Bool :=
  let x := lineEnt e
  [(18, 6), (71, 9), (96, 32), (445, 3), (596, 11), (615, 409)].all (fun f => fld e f.1 f.2 = 0)
  && 1 ≤ x.w && x.w ≤ 16 && 1 ≤ x.h && x.h ≤ 12
  && x.bay.all (fun p => p.1 < x.w && p.2 < x.h) && fld e (24 + 10 * x.bay.length) (40 - 10 * x.bay.length) = 0
  && (match x.share with | some j => j < i | none => fld e 64 7 = 0)
  && beatOk x.beat && govOk x.gov && x.stream % 4 = 0
  && (match x.expert with | some (r, _) => r < n && 1 ≤ x.kmax && x.kmax ≤ 16 | none => fld e 416 17 = 0)

/-- A SHARE line has the rectangle of its line, and so its size (R379). -/
def shareRects (es : List LineEnt) : List LineEnt :=
  es.foldl (fun done e => done ++ [match e.share.bind fun j => done[j]? with
    | some o => { e with w := o.w, h := o.h }
    | none => e]) []

/-- What a read by the launch engine met: the code and cause to refuse with, or a page that migrates (R35, R374). -/
inductive Bad where
  | refuse (cause detail : Nat)
  | wait
  deriving DecidableEq, Repr

/-- Launch causes (R374). -/
def lcRecord : Nat := 1
def lcContext : Nat := 2
def lcFull : Nat := 3
def lcRoot : Nat := 4
def lcKey : Nat := 5
def lcRing : Nat := 6
def lcCode : Nat := 7
def lcVariant : Nat := 8
def lcPlace : Nat := 9
def lcStream : Nat := 10

/-- Bytes of the code object, or how its read fails: cause CODE with the translation cause (R374). -/
def State.codeBytes (s : State) (die ctx va n : Nat) : State × Except Bad Nat :=
  match s.fetchBytes die ctx .config (n / 64 + 2) va n with
  | (s1, .ok x) => (s1, .ok x)
  | (s1, .error a) =>
    (s1, .error (if a.waits then .wait else .refuse lcCode a.cause.toNat))

/-- The hash of `n` bytes (R439). -/
def codeHash (n x : Nat) : BitVec 512 := Config.shake256 n x

/-- The signature check of a code object: SIGNER is registered, or, for a confidential context, is the key whose hash the
tenant passed (R439). -/
def State.signed (s : State) (ctx : Nat) (conf : Bool) (signer hash : BitVec 512) (sig : Nat) : Bool :=
  (if conf then
      (match s.mgmt.tenants.find? fun t => t.1 == ctx with
        | some t => t.2.2 / 2 ^ 256 == (Config.shake256 64 signer.toNat).toNat
        | none => false)
    else s.mgmt.signers.contains signer)
  && Config.slhVerify signer.toNat hash.toNat sig

/-- The launch block (R441): ARGMASK, the arguments, WIDW and LAYER. -/
def launchBlock (conf : Bool) (x : Nat) : Except Bad (Nat × List Nat × Option (List Nat × Nat)) :=
  let ws := widths (fld x 20 42)
  if fld x 62 962 ≠ 0 ∨ !widthsOk ws (fld x 16 3) then .error (.refuse lcVariant 0)
  else if conf ∧ fld x 0 16 ≠ 0 then .error (.refuse lcKey 0)
  else .ok (fld x 0 16, (List.range 16).map fun j => fld x (1024 + 64 * j) 64,
    if fld x 19 1 = 1 then some (ws, fld x 16 3) else none)

/-- The offset of the variant's entry: VARIANT 15 is translated by Damson (R440, R443). -/
def variantOffset (s : State) (ctx die nvar v vpf : Nat) (hash : BitVec 512) : Option Nat :=
  if v = 15 then
    if vpf = 0 then none
    else Config.damson hash.toNat ((s.feature ctx die 1).toNat + (s.feature ctx die 2).toNat * 2 ^ 64)
  else if v < nvar then some (128 + 64 * v) else none

/-- A variant's table, from its entry at an offset (R440, R442). -/
def State.readVariant (s : State) (die ctx : Nat) (va off : Nat) : State × Except Bad (List LineEnt) :=
  match s.codeBytes die ctx (va + off) 64 with
  | (s1, .error b) => (s1, .error b)
  | (s1, .ok e) =>
    let n := fld e 72 6
    let met (pos w : Nat) : Bool := Nat.land (fld e pos 32) (s1.feature ctx die w).toNat = fld e pos 32
    if fld e 0 8 ≠ 4 ∨ !met 8 1 ∨ !met 40 2 ∨ n = 0 ∨ 48 < n ∨ fld e 78 50 ≠ 0 ∨ fld e 192 320 ≠ 0 then
      (s1, .error (.refuse lcVariant 0))
    else
      match s1.codeBytes die ctx (va + fld e 128 64) (128 * n) with
      | (s2, .error b) => (s2, .error b)
      | (s2, .ok t) =>
        let es := (List.range n).map fun i => fld t (1024 * i) 1024
        if (es.mapIdx fun i e => lineEntOk i n e).all id then (s2, .ok (shareRects (es.map lineEnt)))
        else (s2, .error (.refuse lcVariant 0))

/-- The code object at an address and its variant; `full` checks its signature too (R374, R439 to R443). -/
def State.readCode (s : State) (die ctx : Nat) (conf full : Bool) (va : Word) (variant : Nat) : State × Except Bad Code :=
  if va.toNat % 64 ≠ 0 then (s, .error (.refuse lcCode 0))
  else
    match s.codeBytes die ctx va.toNat 128 with
    | (s1, .error b) => (s1, .error b)
    | (s1, .ok h) =>
      let size := fld h 64 64
      if fld h 0 32 ≠ 0x4F435847 ∨ fld h 32 8 ≠ 1 ∨ fld h 44 20 ≠ 0 ∨ 14 < fld h 40 4 ∨ fld h 832 192 ≠ 0 then
        (s1, .error (.refuse lcCode 0))
      else
        match s1.codeBytes die ctx va.toNat (if full then size else 0) with
        | (s2, .error b) => (s2, .error b)
        | (s2, .ok body) =>
          match s2.codeBytes die ctx (va.toNat + size) (if full then 29792 else 0) with
          | (s3, .error b) => (s3, .error b)
          | (s3, .ok sig) =>
            let hash := codeHash size body
            if full ∧ !s3.signed ctx conf (BitVec.ofNat 512 (fld h 256 512)) hash sig then (s3, .error (.refuse lcCode 0))
            else
              match variantOffset s3 ctx die (fld h 40 4) variant (fld h 128 64) hash with
              | none => (s3, .error (.refuse lcVariant 0))
              | some off =>
                match s3.readVariant die ctx va.toNat off with
                | (s4, .error b) => (s4, .error b)
                | (s4, .ok ls) =>
                  let lo := fld h 768 64
                  if lo = 0 then (s4, .ok ⟨va, variant, ls, 0, [], none, hash⟩)
                  else if lo % 64 ≠ 0 ∨ size < lo + 256 then (s4, .error (.refuse lcVariant 0))
                  else
                    match s4.codeBytes die ctx (va.toNat + lo) 256 with
                    | (s5, .error b) => (s5, .error b)
                    | (s5, .ok x) =>
                      match launchBlock conf x with
                      | .error b => (s5, .error b)
                      | .ok (m, as, w) => (s5, .ok ⟨va, variant, ls, m, as, w, hash⟩)

-- THE CHECKS OF A RECORD (R374)

/-- A CREATE's context (R375). -/
def newCtx (x : Nat) : Ctx where
  root := BitVec.ofNat 64 (fld x 192 64)
  key := fld x 256 10
  conf := fld x 28 1 = 1
  supv := fld x 80 8
  ctrl := BitVec.ofNat 64 (fld x 640 64)
  ringBase := BitVec.ofNat 64 (fld x 320 64)
  ringLog2 := fld x 272 4
  binds := []
  cbs := []
  evalIssue := fld x 448 32
  evalBytes := fld x 480 32
  copyBytes := fld x 512 32
  watch := []
  chans := []
  status := 1
  tearing := false
  frozenEval := []
  frozenCopy := []
  evalIssued := []
  evalMoved := []
  copyMoved := []
  codeHash := 0
  sealN := 0
  beats := 0
  sunk := 0

/-- The arguments of a confidential context's record, opened: ARG0 to ARG12 under the ARG key, with ARG13's counter as
the IV and record bits 703:0 as the additional data (R438). -/
def State.openArgs (s : State) (ctx x : Nat) : Option Nat :=
  let n := fld x (1024 + 64 * 13) 64
  Config.gcmOpen (deriveKey (s.secret ctx) ctx labelArg 32) n (fld x 0 704) (fld x 1024 832) (fld x (1024 + 64 * 14) 128)

/-- The checks of R374 up to RING. DEDUCED: key id 0, which is the device's, is in use by no context (R437; notes/assumptions/126.md). -/
def State.recordCause (s : State) (x : Nat) (task : Option Nat) : Option Nat :=
  let c := recCtx x
  let create := fld x 0 8 = 1
  let old := s.ctx? c
  let conf := if create then fld x 28 1 = 1 else s.isConf c
  let gone : Bool := match old with | some o => o.tearing | none => true
  let sealN : Nat := match old with | some o => o.sealN | none => 0
  if recordBad x task then some lcRecord
  else if create ∧ old.isSome ∨ !create ∧ gone then some lcContext
  else if create ∧ 256 ≤ s.ctxs.length then some lcFull
  else if create ∧ (fld x 192 64 / 2 ^ 46 ≠ 0 ∨ fld x 192 64 % 2 ^ 16 ≠ 0) then some lcRoot
  else if create ∧ (List.any s.ctxs fun o => o.2.key == fld x 256 10 && fld x 256 10 != 0) then some lcKey
  else if create ∧ conf ∧ !(s.mgmt.tenants.any fun t => t.1 == c) then some lcKey
  else if conf ∧ ((s.openArgs c x).isNone ∨ fld x (1024 + 64 * 13) 64 ≤ sealN) then
    some lcKey
  else if create ∧ (fld x 272 4 < 6 ∨ fld x 320 64 % (64 * 2 ^ fld x 272 4) ≠ 0) then some lcRing
  else none

/-- A record under all the checks that are made at taking. The state answered holds the context that a CREATE makes
(R374, R375); it waits while the page of the new ring's control block migrates (R35, R405). -/
def State.checkRecord (s : State) (die x : Nat) (task : Option Nat) : State × Except Bad Code :=
  match s.recordCause x task with
  | some c => (s, .error (.refuse c 0))
  | none =>
    let c := recCtx x
    let create := fld x 0 8 = 1
    let s0 := if create then { s with ctxs := Sparse.set s.ctxs c (newCtx x) } else s
    let conf := s0.isConf c
    match s0.readCode die c conf true (BitVec.ofNat 64 (fld x 128 64)) (fld x 24 4) with
    | (s1, .error b) => (if create then { s1 with ctxs := Sparse.del s1.ctxs c } else s1, .error b)
    | (s1, .ok code) =>
      if create ∧ s1.migrates c ((newCtx x).ringBase - 64) then ({ s1 with ctxs := Sparse.del s1.ctxs c }, .error .wait)
      else (s1.modCtx c fun o => { o with
        sealN := if conf then fld x (1024 + 64 * 13) 64 else o.sealN
        codeHash := if create then code.hash else o.codeHash }, .ok code)

/-- The device zeroes a new ring's control block, and its log of the ring's headers starts again with it (R405, R423). -/
def State.clearRing (s : State) (ctx : Nat) : State :=
  match s.ctx? ctx with
  | none => s
  | some c =>
    (match s.place ctx (c.ringBase - 64) with
    | (s1, some (pa, l)) => s1.putBlock l.key pa ⟨0, Side.plain⟩
    | (s1, none) => s1).modMgmt fun m => { m with trapProd := Sparse.del m.trapProd ctx }

-- COMP (R383, R396, R459)

/-- The launch engine releases COMP with a status: REL.set of a FLAG, SDEC or a cancel decrement of a COUNTER at its home
(R383). The access's `c` operand holds the status. -/
def State.releaseComp (s : State) (die ctx : Nat) (comp : Word) (status : Nat) : State :=
  if comp.toNat / 2 ^ 63 = 0 then s
  else s.engineAccess (launchKey die) ctx (.relSet 4 0 0 noWave) (BitVec.ofNat 64 (comp.toNat % 2 ^ 52))
    (BitVec.ofNat 64 status) VReg.zero

/-- A cancel decrement (R396): as SDEC of 1, and the counter enters its die's cancel table; at zero it leaves the table
and its task is ready, cancelled. -/
def State.cancelDecrement (s : State) (a : Access) : State :=
  let pa := paOf a.pa
  let die := homeDie pa
  s.openObj a (fun _ => [kCounter]) fun s b =>
    let c := Blk.fld b 64 32
    let listed := (s.die die).cancels.contains pa
    if c < 1 then s.failAcc a .counterUnderflow 0 1
    else if (!listed ∧ Config.cancelEntries ≤ (s.die die).cancels.length) ∨ (c = 1 ∧ !s.readyRoom die) then
      s.holdHome a true
    else
      let s1 := (s.released a b).objPut pa 64 32 (c - 1)
      let s2 := s1.modDie die fun d => { d with cancels := if listed then d.cancels else d.cancels ++ [pa] }
      let s3 := if c = 1 then s2.counterZero pa else s2
      s3.answer a.id (ansG (BitVec.ofNat 64 (c - 1)))

-- REFUSALS

/-- A record's place: in a launch queue, at a device-physical address, or a task's virtual address. -/
inductive RecAt where
  | queue (pa : Nat)
  | task (ctx : Nat) (va : Word)
  deriving DecidableEq, Repr

/-- STATE, CAUSE and DETAIL written into a record (R373, R374). -/
def State.writeRecord (s : State) (die : Nat) (at_ : RecAt) (st cause detail : Nat) : State :=
  let b : Blk := BitVec.ofNat 512 (Sys2Proof.Machine.at_ st 448 8 + Sys2Proof.Machine.at_ cause 456 8 + Sys2Proof.Machine.at_ detail 464 48)
  match at_ with
  | .queue pa => (s.homeWrite .homeOnly 0 (pa + 64) b (maskAt 56 8) none).1
  | .task ctx va => s.unitWrite die ctx (va + 64) b (maskAt 56 8)

/-- The trap record of a refused launch: its DETAIL is the launch cause (R374). -/
def State.launchTrap (s : State) (die ctx cause : Nat) : State :=
  if (s.ctx? ctx).isSome then s.trap ctx (launchKey die) (record s.dev (launchOrigin die) .illegalConfig 0x0D cause) else s

/-- A refused launch: its COMP is released with status 2, and a trap record is written (R374, R383). -/
def State.refuseLaunch (s : State) (die x cause : Nat) : State :=
  let c := recCtx x
  if (s.ctx? c).isSome then (s.releaseComp die c (recComp x) 2).launchTrap die c cause else s

/-- The record of something cancelled (R395). -/
def State.cancelledTrap (s : State) (die ctx : Nat) : State :=
  s.trap ctx (launchKey die) (record s.dev (launchOrigin die) .cancelled 0 0)

/-- A record or an entry that is not launched because its context is torn down: its E_CANCELLED record is written, and its COMP is
released with status 3 (R383, R395). DEDUCED: that it is dropped with this status (notes/assumptions/122.md). -/
def State.cancelRecord (s : State) (die ctx : Nat) (comp : Word) : State := (s.cancelledTrap die ctx).releaseComp die ctx comp 3

/-- An entry of a ready queue is dropped: of a task's record COMP alone is read (R395, R396). The answer says that this met a page
that migrates. -/
def State.cancelEntry (s : State) (die : Nat) (r : Ready) : State × Bool :=
  match r.task with
  | none => (s.cancelRecord die r.ctx (if r.restore then 0 else recComp r.record), false)
  | some va =>
    match s.fetchBytes die r.ctx .load 2 (va.toNat + 72) 8 with
    | (s1, .ok x) => (s1.cancelRecord die r.ctx (BitVec.ofNat 64 x), false)
    | (s1, .error a) => (s1.cancelledTrap die r.ctx, a.waits)

-- TAKING (R371, R372)

/-- The key of a launch queue. -/
def queueKey (die q : Nat) : Nat := 16 * die + q
/-- A launch queue of a die. -/
def State.launchQ (s : State) (die q : Nat) : LaunchQ := Sparse.get s.mgmt.queues LaunchQ.off (queueKey die q)
/-- Whether a queue has records that the engine has not taken (R372). -/
def State.queueReady (s : State) (die q : Nat) : Bool :=
  let x := s.launchQ die q
  x.en && s.objFld x.obj 64 64 % 2 ^ 32 != x.cons.toNat
/-- The queue served next, round-robin after the last one (R372). -/
def State.nextQueue (s : State) (die : Nat) : Option Nat :=
  ((List.range 16).map fun i => ((s.die die).turn + 1 + i) % 16).find? fun q => s.queueReady die q

/-- A record's 256 bytes at a device-physical address, under key id 0 (R372). -/
def State.readRecord (s : State) (pa : Nat) : State × Nat :=
  (List.range 4).foldl (fun (a : State × Nat) i =>
    let (s1, b) := a.1.readHome 0 (pa + 64 * i)
    (s1, a.2 + (match b with | some b => b.data.toNat | none => 0) * 2 ^ (512 * i))) (s, 0)

/-- LAUNCH_RECORD_TAKE (R371 to R375, R377, R395): one record of the next queue. -/
def execLaunchRecordTake (die : Nat) (s : State) : Out :=
  .next (match s.nextQueue die with
    | none => s
    | some q =>
      if !s.readyRoom die ∨ !s.mgmt.booted then s
      else
        let lq := s.launchQ die q
        let pa := lq.base + 256 * (lq.cons.toNat % 2 ^ lq.log2n)
        let (s0, x) := s.readRecord pa
        let took (s : State) : State :=
          ((s.unhold die 0).modMgmt fun m => { m with queues := Sparse.set m.queues (queueKey die q) { lq with cons := lq.cons + 1 } }).modDie
            die fun d => { d with turn := q }
        let c := recCtx x
        let torn : Bool := match s0.ctx? c with | some o => o.tearing | none => false
        if fld x 0 8 = 2 ∧ torn then ((took s0).writeRecord die (.queue pa) 2 lcContext 0).cancelRecord die c (recComp x)
        else
          match s0.checkRecord die x none with
          | (s1, .error .wait) =>
            match s1.holdFor die 0 (.launchRecordTake die) with
            | some s2 => s2
            | none => ((took s1).writeRecord die (.queue pa) 2 lcCode Cause.migrationTimeout.toNat).refuseLaunch die x lcCode
          | (s1, .error (.refuse cause detail)) => ((took s1).writeRecord die (.queue pa) 2 cause detail).refuseLaunch die x cause
          | (s1, .ok _) =>
            let s2 := (took s1).writeRecord die (.queue pa) 1 0 0
            let s3 := if fld x 0 8 = 1 then s2.clearRing c else s2
            s3.enterReady die ⟨fld x 16 8, c, s.cycle, 32, x, none, false, false⟩)

-- PLACEMENT (R118, R379, R380)

/-- The evaluation-pool tiles of a die (R118). -/
def poolTiles (die size : Nat) : List Nat := (List.range size).map fun i => 192 * die + (11 - i / 16) * 16 + i % 16
/-- The place of a line: region number and origin. -/
structure Spot where
  region : Nat
  x0 : Nat
  y0 : Nat
  deriving DecidableEq, Repr

/-- Lines placed in table order, the lowest free region number and the first free origin each (R379). -/
def placeLines (die : Nat) : (used : List Nat) → (regions : List Nat) → (done : List Spot) → List LineEnt → Option (List Spot)
  | _, _, done, [] => some done
  | used, regions, done, e :: r =>
    match (List.range 48).find? fun n => !regions.contains n with
    | none => none
    | some n =>
      match e.share.bind fun j => done[j]? with
      | some o => placeLines die used (n :: regions) (done ++ [⟨n, o.x0, o.y0⟩]) r
      | none =>
        match ((List.range 12).flatMap fun y => (List.range 16).map fun x => (x, y)).find? fun o =>
            o.1 + e.w ≤ 16 && o.2 + e.h ≤ 12 && (rectTiles die o.1 o.2 e.w e.h).all fun t => !used.contains t with
        | none => none
        | some o => placeLines die (rectTiles die o.1 o.2 e.w e.h ++ used) (n :: regions) (done ++ [⟨n, o.1, o.2⟩]) r

/-- The lines of a die. -/
def State.linesOn (s : State) (die : Nat) : List (Nat × Line) := s.lines.filter fun l => l.2.die == die

/-- Places on a die as it stands, or on an empty one. -/
def State.findPlaces (s : State) (die : Nat) (empty : Bool) (es : List LineEnt) : Option (List Spot) :=
  let ls := if empty then [] else s.linesOn die
  placeLines die (poolTiles die (s.die die).poolSize ++ ls.flatMap fun l => l.2.region_) (ls.map fun l => l.2.region) [] es

-- LINES

/-- LINE_BEAT at reset (R181): PATIENCE 16, BEAT 64. -/
def lineBeatReset : Word := BitVec.ofNat 64 (at_ 16 32 8 + at_ 64 0 16)
/-- LINE_GOV at reset (R181): BEAT_MAX 65,535, BEAT_MIN 8, WINDOW 64. -/
def lineGovReset : BitVec 128 := BitVec.ofNat 128 (at_ 65535 32 16 + at_ 8 16 16 + at_ 64 0 16)

/-- LINE_BEAT of a region: at reset until the placer writes a line's value there (R181). -/
def State.lineBeat (s : State) (k : Nat) : Word := match s.line? k with | some l => l.beat | none => lineBeatReset
/-- LINE_GOV of a region: at reset until the placer writes a line's value there (R181). -/
def State.lineGov (s : State) (k : Nat) : BitVec 128 := match s.line? k with | some l => l.gov | none => lineGovReset

/-- A line at its placement (R164, R167, R181, R378). -/
def newLine (ctx graph die : Nat) (sp : Spot) (e : LineEnt) (widw : List Nat) (layer issue bytes : Nat) (code : Word)
    (variant : Nat) (m : LineMeta) : Line where
  ctx := ctx
  graph := graph
  die := die
  region := sp.region
  x0 := sp.x0
  y0 := sp.y0
  w := e.w
  h := e.h
  bay := e.bay.map fun p => 192 * die + (sp.y0 + p.2) * 16 + sp.x0 + p.1
  stns := []
  running := false
  counter := 0
  b := e.beat.toNat % 2 ^ 16
  last := 0
  deferred := false
  beat := e.beat
  gov := e.gov
  beatReq := []
  govReq := none
  winBeats := 0
  winOver := 0
  winSlack := []
  fifo := []
  sinks := m.sinks.map fun k => ⟨k.1, k.2.1, k.2.2, m.seqBase, [], [], [], 0, []⟩
  seqNext := m.seqBase
  seqBase := m.seqBase
  cycles := m.cycles
  watchLimit := e.watch
  watchCount := 0
  cver := 0
  exiting := false
  exitNow := false
  exited := false
  frozen := false
  frozenAt := 0
  freezeNext := false
  stopReq := false
  stopped := false
  draining := none
  tearing := false
  reserved := []
  splice := none
  sucBeat := 0
  switched := []
  sucPend := []
  sucCfgs := []
  issueBudget := issue
  byteBudget := bytes
  issued := 0
  moved := 0
  widw := widw
  layer := layer
  chan := e.chan
  expert := e.expert
  kmax := e.kmax
  total := e.total
  partials := BitVec.ofNat 64 e.partials
  slotCtr := e.slotCtr
  code := code
  variant := variant
  stream := code + BitVec.ofNat 64 e.stream
  slen := e.slen
  reconf := false
  resizing := false
  resized := false
  resize := none
  lokOut := []
  beats := 0
  sunk := 0
  reworked := 0

/-- The line of a code object and index in the tables of what no field of a code object says (notes/assumptions/14.md). -/
def State.metaOf (s : State) (code : Word) (i : Nat) : LineMeta :=
  match s.metas.find? fun m => m.code == code && m.idx == i with
  | some m => m
  | none => ⟨code, i, 0, [], []⟩

/-- A tile passes to a context: its L1 is written back and dropped, and everything in it is at reset (R55, R58, R223). -/
def State.giveTile (s : State) (tile ctx : Nat) : State :=
  if (s.tile tile).ctx = some ctx then s
  else (s.flushL1 tile).setTile tile { Tile.reset with ctx := some ctx }

/-- The arguments of a dispatch: the launch block's where ARGMASK says so, the record's otherwise; a confidential
context's as they were opened (R378, R438, R441). -/
def State.dispatchArgs (s : State) (c x : Nat) (code : Code) : List Word :=
  if s.isConf c then
    let n := (s.openArgs c x).getD 0
    (List.range 16).map fun j => BitVec.ofNat 64 (if j ≤ 12 then fld n (64 * j) 64 else if j = 13 then fld x (1024 + 64 * 13) 64 else 0)
  else (List.range 16).map fun j => BitVec.ofNat 64 (if code.argmask.testBit j then code.args.getD j 0 else fld x (1024 + 64 * j) 64)

/-- A station at dispatch (R378): zero registers and predicates, the arguments in g0..g15 of its first bank. -/
def State.startStation (s : State) (k ctx : Nat) (args : List Word) (st : Nat × Nat × List Nat) : State :=
  let c := st.2.2.headD 0
  let banks := bankList ((s.tile st.2.1).cfg c).banks
  let g : Sparse GReg := (args.mapIdx fun j x => (j, (⟨x, Pair.int64⟩ : GReg)))
  (s.modTile st.2.1 fun t => { t with
    banks := banks.foldl (fun m b => Sparse.set m b (if b = banks.headD 0 then { Bank.zero with g := g } else Bank.zero)) t.banks }).setActor
    (stationKey k st.1) { Actor.idle with ctx := ctx, line := k, stn := st.1, tile := st.2.1, active := c }

/-- A channel's new version (R391). -/
def State.writeChan (s : State) (ctx ch : Nat) (p : Option ChanPos) : State :=
  s.modCtx ctx fun c =>
    let old := Sparse.get c.chans ⟨none, none, false⟩ ch
    { c with chans := Sparse.set c.chans ch ⟨old.next, p, false⟩ }

/-- The position at which a line receives its channel: its lowest station and queue mapped with RTAG 6 (R390, R391). -/
def State.chanPos (s : State) (l : Line) (layer : Word) : Option ChanPos :=
  ((List.range 64).flatMap fun n => (l.stns.filter fun x => x.1 == n)).findSome? fun st =>
    ((List.range 8).find? fun q => (mapEntry (s.tile st.2).iqmap q).any fun e => e.2 == 6).map fun q =>
      ⟨s.dev, l.die, l.region, st.1, q, layer⟩

/-- A placed and loaded line starts (R378): bay copies, stations, its channel, the acquire of its tiles; its first
boundary follows. -/
def State.startLine (s : State) (k : Nat) (args : List Word) (layer : Word) : State :=
  match s.line? k with
  | none => s
  | some l =>
    let sts := s.lineStations l
    let s1 := l.bay.foldl (fun s t =>
      let cs := s.bayCopies k l t (List.range 8)
      s.modTile t fun x => { x with bay := some k, copies := cs.foldl (fun m c => Sparse.set m c.1 c.2) [], fixed := cs.map (·.1) }) s
    let s2 := sts.foldl (fun s st => s.startStation k l.ctx args st) s1
    let s3 := l.region_.foldl (fun s t => s.fenceAcq t l.ctx 4) s2
    let s4 := s3.modLine k fun l => { l with
      stns := sts.map fun st => (st.1, st.2.1), running := true, last := s.cycle + Config.latency s.fresh, resizing := false }
    let s5 := match l.chan with
      | some ch =>
        match s4.line? k with
        | some l' => s4.writeChan l.ctx ch (s4.chanPos l' layer)
        | none => s4
      | none => s4
    (s5.dies.foldl (fun s d => (d.2.parked.filter fun p => p.dest / 512 = k).foldl (fun s p => s.now (.parkedDelivery d.1 p.dest)) s)
      s5).drew

-- DISPATCH (R377 to R382)

/-- Every line of a graph is placed and its stream loaded, or the first refusal: the launch cause and its detail. -/
def State.loadLines (s : State) (die c : Nat) (code : Code) (g : Nat) (issue bytes : Nat) (widw : List Nat) (layer : Nat) :
    List (Nat × LineEnt × Spot) → State × Except Bad (List Nat)
  | [] => (s, .ok [])
  | (i, e, sp) :: r =>
    let k := 48 * die + sp.region
    let l := newLine c g die sp e widw layer issue bytes code.va code.variant (s.metaOf code.va i)
    let s1 := l.region_.foldl (fun s t => (s.giveTile t c).modTile t fun x => if l.bay.contains t then { x with bay := some k } else x)
      { s with lines := Sparse.set s.lines k l }
    match s1.loadStream k c (code.va + BitVec.ofNat 64 e.stream) e.slen with
    | (s2, .absent a) => (s2, .error (if a.waits then .wait else .refuse lcCode a.cause.toNat))
    | (s2, .refused q _) => (s2, .error (.refuse lcStream q.code.toNat))
    | (s2, .ok) =>
      match State.loadLines s2 die c code g issue bytes widw layer r with
      | (s3, .ok ks) => (s3, .ok (k :: ks))
      | (s3, .error b) => (s3, .error b)

/-- Whether an activity of a context is frozen, or the whole module is. -/
def State.anyFrozen (s : State) (c : Nat) : Bool :=
  s.mgmt.hot || List.any s.lines (fun l => l.2.ctx == c && l.2.frozen) ||
    (match s.ctx? c with | some x => !x.frozenEval.isEmpty || !x.frozenCopy.isEmpty | none => false)

/-- Whether an entry is passed over: its context is frozen, off the device or being torn down (R378). A restore is what brings a
context back. -/
def State.passedOver (s : State) (r : Ready) : Bool :=
  match s.ctx? r.ctx with
  | some c => if r.restore then !(c.status == 3 || c.status == 4) else c.tearing || c.status != 1 || s.anyFrozen r.ctx
  | none => !r.restore

/-- The entry that the ready queue dispatches: of those that are not passed over the one of the highest PRIO, and of these the oldest
(R377, R378). -/
def State.readyFirst (s : State) (die : Nat) : Option Ready :=
  ((s.die die).ready.filter fun r => !s.passedOver r).foldl (fun b r => match b with
    | some x => if x.prio < r.prio then some r else b
    | none => some r) none

/-- The ready queue without an entry. -/
def State.dropReady (s : State) (die : Nat) (r : Ready) : State := s.modDie die fun d => { d with ready := d.ready.erase r }

/-- A task's entry becomes one of its record, which has been read and checked (R382). -/
def State.readTask (s : State) (die : Nat) (r r' : Ready) : State :=
  s.modDie die fun d => { d with ready := d.ready.map fun x => if x = r then r' else x }

/-- A record that has been checked is placed, loaded and started, stays first in the queue, or is refused (R378 to R381). DESIGN
CHOICE: the loader's cause of a refused stream stands above the launch cause in the trap record's DETAIL (notes/assumptions/127.md). -/
def State.launch (s : State) (die : Nat) (r : Ready) (x : Nat) (code : Code) : State :=
  let c := recCtx x
  match s.findPlaces die false code.lines with
  | none =>
    if (s.findPlaces die true code.lines).isSome then s
    else (s.dropReady die r).refuseLaunch die x lcPlace
  | some sps =>
    let (widw, layer) : List Nat × Nat := match code.wid with | some w => w | none => (widths (fld x 32 42), fld x 29 3)
    let g := s.nextGraph
    let todo := ((List.range code.lines.length).zip (code.lines.zip sps)).map fun t => (t.1, t.2.1, t.2.2)
    match s.loadLines die c code g (fld x 384 32) (fld x 416 32) widw layer todo with
    | (s1, .ok ks) =>
      let s2 := { (s1.dropReady die r) with
        graphs := Sparse.set s1.graphs g ⟨c, die, recComp x, ks, r.prio, false, 0, false⟩, nextGraph := g + 1 }
      ks.foldl (fun s k => s.startLine k (s.dispatchArgs c x code) 0) s2
    | (_, .error .wait) =>
      match s.holdFor die 1 (.dispatch die) with
      | some s2 => s2
      | none => ((s.unhold die 1).dropReady die r).refuseLaunch die x lcCode
    | (_, .error (.refuse cause detail)) =>
      (s.dropReady die r).refuseLaunch die x (if cause = lcStream then cause + at_ detail 8 8 else cause)

/-- A task record is read when it is dispatched, and checked then (R382). -/
def State.dispatchTask (s : State) (die : Nat) (r : Ready) (va : Word) : State :=
  match s.fetchBytes die r.ctx .load 6 va.toNat 256 with
  | (s1, .error a) =>
    let fail := ((s1.unhold die 1).dropReady die r).launchTrap die r.ctx lcRecord
    if a.waits then
      match s1.holdFor die 1 (.dispatch die) with
      | some s2 => s2
      | none => fail
    else fail
  | (s1, .ok x) =>
    match s1.checkRecord die x (some r.ctx) with
    | (s2, .error .wait) =>
      match s2.holdFor die 1 (.dispatch die) with
      | some s3 => s3
      | none => (((s2.unhold die 1).dropReady die r).writeRecord die (.task r.ctx va) 2 lcCode Cause.migrationTimeout.toNat).refuseLaunch die x lcCode
    | (s2, .error (.refuse cause detail)) =>
      ((s2.dropReady die r).writeRecord die (.task r.ctx va) 2 cause detail).refuseLaunch die x cause
    | (s2, .ok code) =>
      let r' : Ready := { r with record := x, task := none }
      ((s2.readTask die r r').writeRecord die (.task r.ctx va) 1 0 0).launch die r' x code

/-- A cancelled task (R396); the read of its COMP waits while its page migrates (R35). -/
def State.dispatchCancelled (s : State) (die : Nat) (r : Ready) : State :=
  let (s1, waits) := ((s.unhold die 1).dropReady die r).cancelEntry die r
  match (if waits then s.holdFor die 1 (.dispatch die) else none) with
  | some s2 => s2
  | none => s1

-- THE END OF A LINE (R362, R394, R395)

/-- The record of an item that is discarded (R362, R395). -/
def State.cancelItem (s : State) (key : Nat) (h : HState) : State :=
  let o := { s.origin key 0 with seq := h.seq.toNat, wid := h.wid.toNat }
  s.trap (s.actor key).ctx key (record s.dev o .cancelled 0 0)

/-- Everything that a station's item and its waiting items hold is discarded, each with a record. -/
def State.discardStation (s : State) (key : Nat) : State :=
  let a := s.actor key
  let s1 := match a.item with | some i => s.cancelItem key i.desc.h | none => s
  let s2 := (a.arrive.flatMap (·.2) ++ a.stuck.map (·.2.1)).foldl (fun s d => if d.can then s else s.cancelItem key d.h) s1
  (s2.modTile a.tile fun t =>
    let t1 := ((List.range 8).filter fun q => s.ownsQueue a q).foldl (fun t q => t.setQueue q []) t
    { t1 with out := t1.out.filter fun o => o.actor != key }).modActor key fun a => { a with item := none, hold := [], retained := [], arrive := [], cancel := none, stuck := [] }

/-- Everything in a line's bay is discarded, each item with a record. -/
def State.discardBay (s : State) (k : Nat) (l : Line) : State :=
  (l.fifo.foldl (fun s r =>
    let key := bayKey r.bay
    (match (s.actor key).item with | some i => s.cancelItem key i.desc.h | none => s).freeBay r.bay) s).modLine k fun l => { l with
      fifo := [] }

/-- What a line's sinks hold and what waits before them is discarded, each item with a record (R362, R395). -/
def State.discardSinks (s : State) (k : Nat) (l : Line) : State :=
  (l.sinks.foldl (fun s x => (x.wait ++ x.store).foldl (fun s d => if d.can then s else s.cancelItem (stationKey k x.stn) d.h) s) s).modLine
    k fun l => { l with sinks := l.sinks.map fun x => { x with wait := [], store := [] } }

/-- Whether nothing of the line is in a station, on a queue, in the bay or in a FIFO. -/
def State.lineEmpty (s : State) (k : Nat) (l : Line) : Bool :=
  l.fifo = [] && l.sinks.all (fun x => x.wait.isEmpty) && l.stns.all fun st =>
    let a := s.actor (stationKey k st.1)
    let t := s.tile st.2
    a.item.isNone && a.cancel.isNone && a.hold.isEmpty && a.stuck.isEmpty && a.arrive.all (fun q => q.2.isEmpty)
    && (List.range 8).all (fun q => !s.ownsQueue a q || (t.queue q).isEmpty)
    && t.out.all fun o => o.actor != stationKey k st.1

/-- Whether every item has reached a sink, at a teardown also when one waits before it: what waits at the head's sources has not been
taken and does not count. -/
def State.lineDrained (s : State) (k : Nat) (l : Line) : Bool :=
  l.fifo = [] && (l.tearing || l.sinks.all (fun x => x.wait.isEmpty)) && l.stns.all fun st =>
    let a := s.actor (stationKey k st.1)
    a.item.isNone && a.cancel.isNone && a.stuck.isEmpty && s.noneInside k l st.1

/-- Whether no item of a line is in a station, in the bay, in a FIFO or on the way between stations: what waits at its head
does not count (R387). -/
def State.lineIdle (s : State) (k : Nat) (l : Line) : Bool :=
  l.fifo = [] && l.sinks.all (fun x => x.wait.isEmpty) && l.stns.all fun st =>
    let a := s.actor (stationKey k st.1)
    let t := s.tile st.2
    a.item.isNone && a.cancel.isNone && a.hold.isEmpty && a.stuck.isEmpty
    && s.noneInside k l st.1
    && (List.range 8).all (fun q => !s.ownsQueue a q || (t.queue q).isEmpty || (s.srcQueues k l st.1).contains q)
    && t.out.all fun o => o.actor != stationKey k st.1

/-- LINE_EXIT (R362, R394, R395, R418): the line exits once it has drained, or at once under .now; its streams stop, its parties
retire, its configuration intervals end, and its graph ends with its last line. DESIGN CHOICE: what an ordered sink still holds when a
drained line exits stays there and goes with the line (notes/assumptions/121.md). -/
def execLineExit (line : Nat) (s : State) : Out :=
  .next (match s.line? line with
    | none => s
    | some l =>
      if l.exited ∨ !(l.exiting || l.tearing) then s
      else if !l.exitNow ∧ !s.lineDrained line l then s
      else
        let members := l.stns.flatMap (fun st => (s.actor (stationKey line st.1)).members)
          ++ l.bay.flatMap (fun t => (s.tile t).members ++ (s.actor (bayKey t)).members)
        let s1 := (l.stns.foldl (fun s st => s.discardStation (stationKey line st.1)) s).discardBay line l
        let s2 := (if l.exitNow ∨ l.tearing then s1.discardSinks line l else s1).retire members.eraseDups
        let s3 := (s2.stopStreams line false).modLine line fun l => { l with exited := true, running := false }
        let s4 := s3.dies.foldl (fun s d => (d.2.parked.filter fun p => p.dest / 512 = line).foldl (fun s p => s.now (.parkedDelivery d.1 p.dest)) s) s3
        let s5 := match Sparse.find? s4.graphs l.graph with
          | some g => if g.lines.all fun k => (match s4.line? k with | some x => x.exited | none => true) then s4.now (.graphEnd l.graph) else s4
          | none => s4
        l.region_.foldl (fun s t => (s.modTile t fun x => if l.bay.contains t then { x with members := [] } else x).now (.intervalRecord t)) s5)

/-- Whether a line of a cache belongs to what the end of a context invalidates: it, and its key id, if that is not the device's (R437). -/
def Ctx.owns (x : Ctx) (c ctx key : Nat) : Bool := ctx == c || (key == x.key && x.key != 0)

/-- Whether something that a context has stored stands dirty in a cache. -/
def State.dirtyOf (s : State) (p : CLine → Bool) : Bool :=
  List.any s.tiles (fun t => List.any t.2.l1 fun l => l.2.isDirty && p l.2) || List.any s.dies fun d => List.any d.2.rdc fun l => l.2.isDirty && p l.2

/-- A context ends when its teardown has left nothing of it: Medlar invalidates its key id, with its translations, and when that has
completed its keys are gone and its number and its key id are free; key id 0 is the device's and stays (R33, R395, R437). Its tiles are no
context's, and pass to another as R55 says. -/
def State.endCtx (s : State) (c : Nat) : State :=
  match s.ctx? c with
  | none => s
  | some x =>
    if !x.tearing ∨ s.saved.any (fun v => v.ctx == c) ∨ List.any s.graphs (fun g => g.2.ctx == c && !g.2.ended) ∨ List.any s.dies (fun d =>
        d.2.recs.any (fun r => r.ctx == c) || List.any d.2.copiers fun e => e.2.jobs.any fun j => j.ctx == c && j.open_)
        ∨ s.accs.any (fun a => a.ctx == c) ∨ s.traps.any (fun t => t.ctx == c) then s
    else
      let line (l : CLine) : Bool := x.owns c l.ctx l.key
      let s1 := s.invalidate (fun l => x.owns c l.ctx l.key) (fun l => l.ctx == c) line line
      if s.dirtyOf line then s1
      else if !s.mgmt.invFrames.isEmpty then s
      else
        { s1 with
          ctxs := Sparse.del s1.ctxs c
          graphs := s1.graphs.filter fun g => g.2.ctx != c
          tiles := List.map (fun (t : Nat × Tile) => if t.2.ctx = some c then (t.1, { t.2 with ctx := none }) else t) s1.tiles
          dies := List.map (fun (d : Nat × Die) => (d.1, { d.2 with
            cfgCache := d.2.cfgCache.filter (fun e => e.ctx != c), bins := List.filter (fun b => b.1 / 1024 != c) d.2.bins }))
            s1.dies }.modMgmt fun m => { m with
          tenants := m.tenants.filter fun t => t.1 != c
          kems := Sparse.del m.kems c
          keys := m.keys.filter fun k => k.1 != x.key
          keyGen := if x.key = 0 then m.keyGen else Sparse.set m.keyGen x.key (Sparse.get m.keyGen 0 x.key + 1)
          invFrames := s.mgmt.invFrames, invAccs := s.mgmt.invAccs }

/-- The tokens of results that a station still awaits when its line has exited: it holds no item (R401). -/
def State.lastTokens (s : State) (key : Nat) : State :=
  (s.results.filter fun r => r.fire.actor == key).foldl (fun s r => s.attach? key r.tok) s

/-- A line is gone from its region: no job's promise counts on its boundaries any more, and nothing is held for it (R352, R379). -/
def State.forgetLine (s : State) (k : Nat) : State :=
  { s with dies := List.map (fun (d : Nat × Die) => (d.1, { d.2 with
      held := d.2.held.filter fun h => h.1 < 2 ^ 17 || h.1 % 512 != k || 4096 ≤ h.1 % 2 ^ 17
      copiers := d.2.copiers.map fun e => (e.1, { e.2 with jobs := e.2.jobs.map fun j => if j.line = some k then { j with line := none } else j }) })) s.dies }

/-- GRAPH_END (R383): the regions are freed and COMP is released with the graph's status. -/
def execGraphEnd (graph : Nat) (s : State) : Out :=
  .next (match Sparse.find? s.graphs graph with
    | none => s
    | some g =>
      if g.ended ∨ !(g.lines.all fun k => (match s.line? k with | some l => l.exited | none => true)) then s
      else
        let s1 := g.lines.foldl (fun s k =>
          match s.line? k with
          | none => s
          | some l =>
            let s1 := l.bay.foldl (fun s t => s.modTile t fun x => { x with bay := none, copies := [], fixed := [] }) s
            let s2 := l.stns.foldl (fun s st => (s.lastTokens (stationKey k st.1)).retireUnit (stationKey k st.1)) s1
            ({ s2 with lines := Sparse.del s2.lines k } : State).forgetLine k) s
        let s2 := s1.modGraph graph fun g => { g with ended := true, status := if g.status = 0 then 1 else g.status }
        (s2.releaseComp g.die g.ctx g.comp (if g.status = 0 then 1 else g.status)).endCtx g.ctx)

-- EXPERT REGIONS (R387, R388)

/-- The index of the largest element, the lowest on a tie, among those that a test accepts. -/
def argMax (xs : List Nat) (ok : Nat → Bool) : Option Nat :=
  ((List.range xs.length).filter ok).foldl (fun b i => match b with
    | some j => if xs.getD j 0 < xs.getD i 0 then some i else b
    | none => some i) none

/-- Widths made smaller until they fit. -/
def shrink (t : Nat) : (fuel : Nat) → List Nat → List Nat
  | 0, s => s
  | n + 1, s =>
    if t < s.sum then
      match argMax s fun _ => true with
      | some e => shrink t n (s.set e (s.getD e 0 - 1))
      | none => s
    else s

/-- Columns left over are given out by remainder, each expert once. -/
def giveOut (t kmax hs : Nat) (h : List Nat) : (fuel : Nat) → (chosen : List Nat) → List Nat → List Nat
  | 0, _, s => s
  | n + 1, chosen, s =>
    if s.sum < t then
      match argMax (h.map fun x => t * x % hs) fun e => s.getD e 0 < kmax && !chosen.contains e with
      | some e => giveOut t kmax hs h n (e :: chosen) (s.set e (s.getD e 0 + 1))
      | none => s
    else s

/-- The widths that Quince computes from the bins; none when every bin is zero (R388). -/
def expertWidths (t kmax : Nat) (h : List Nat) : Option (List Nat) :=
  if h.sum = 0 then none
  else
    let s := h.map fun x => Nat.min kmax (Nat.max 1 (t * x / h.sum))
    some (giveOut t kmax h.sum h h.length [] (shrink t s.sum s))

/-- The expert lines of a router line, by expert number. -/
def State.experts (s : State) (router : Nat) (l : Line) : List (Nat × Line) :=
  match Sparse.find? s.graphs l.graph with
  | none => []
  | some g =>
    let r := (g.lines.findIdx? fun k => k == router).getD 0
    let es := g.lines.filterMap fun k => match s.line? k with
      | some x => (match x.expert with | some (q, _) => if q = r then some (k, x) else none | none => none)
      | none => none
    (List.range es.length).filterMap fun e => es.find? fun x => x.2.expert.any fun y => y.2 == e

/-- What waits at the head of a line whose region moves is parked again under its new region, ahead of what is parked
for it already (R387, R393). -/
def State.repark (s : State) (k k' : Nat) (l : Line) : State :=
  let waiting : List Parked := l.stns.flatMap fun st =>
    let a := s.actor (stationKey k st.1)
    (s.srcQueues k l st.1).flatMap fun q =>
      ((Sparse.get a.arrive [] q).zip (itemsOf [] ((s.tile st.2).queue q))).map fun x =>
        (⟨(k' * 64 + st.1) * 8 + q, { x.1 with
          flits := (x.2.filter fun e => !e.bare).map fun e => ⟨e.data, ⟨e.hdr.fmt, e.hdr.scale⟩⟩
          h := { x.1.h with lok := x.1.h.lok || x.1.lokLast } }, q⟩ : Parked)
  s.modDie l.die fun d => { d with parked := waiting ++ d.parked.map fun p =>
    if p.dest / 512 = k then { p with dest := k' * 512 + p.dest % 512 } else p }

/-- The slot of a line's re-placement that waits for a page. -/
def resizeSlot (line : Nat) : Nat := 2 ^ 17 + 1024 + line

/-- An expert line is re-placed at its new width from its partial stream (R387): its old region is free for it. A stream
that cannot be read or is refused leaves the region as it was, with a record (R226). -/
def State.replace_ (s : State) (k : Nat) (l : Line) (w : Nat) (layer : Word) : State :=
  let slot := resizeSlot k
  let keep (s0 s : State) (r : Loaded) : State :=
    match (match r with | .absent a => if a.waits then s0.holdFor l.die slot (.resizeWidths k) else none | _ => none) with
    | some s1 => s1
    | none => ((s.unhold l.die slot).loadTrap l.die l.ctx r).modLine k fun l => { l with resize := none }
  match s.fetchBytes l.die l.ctx .config 3 (l.partials + BitVec.ofNat 64 (16 * (w - 1)) + l.code).toNat 16 with
  | (s1, .error a) => keep s1 s1 (.absent a)
  | (s1, .ok x) =>
    let others := (s1.linesOn l.die).filter fun y => y.1 != k
    let e : LineEnt := ⟨w, l.h, [], none, 0, 0, 0, 0, 0, none, 0, 0, 0, none, none⟩
    match placeLines l.die (poolTiles l.die (s1.die l.die).poolSize ++ others.flatMap fun y => y.2.region_)
        (others.map fun y => y.2.region) [] [e] with
    | none => s1
    | some sps =>
      let sp := sps.headD ⟨l.region, l.x0, l.y0⟩
      let k' := 48 * l.die + sp.region
      let move (t : Nat) : Nat := 192 * l.die + (sp.y0 + (t % 192 / 16 - l.y0)) * 16 + sp.x0 + (t % 16 - l.x0)
      let l' : Line := { l with
        region := sp.region, x0 := sp.x0, y0 := sp.y0, w := w, bay := l.bay.map move, stns := [], running := false
        resize := none, counter := 0, beats := 0, seqNext := l.seqBase, reserved := [], deferred := false
        sinks := l.sinks.map fun x => { x with next := l.seqBase, cancelled := [] } }
      let s2 := l.stns.foldl (fun s st => s.retireUnit (stationKey k st.1)) (s1.repark k k' l)
      let s2 := l.bay.foldl (fun s t => s.modTile t fun x => { x with bay := none, copies := [], fixed := [] }) s2
      let s3 := { (s2.forgetLine k) with lines := Sparse.set (Sparse.del s2.lines k) k' l' }
      let s4 := l'.region_.foldl (fun s t => s.giveTile t l.ctx) s3
      let s5 := s4.modGraph l.graph fun g => { g with lines := g.lines.map fun y => if y = k then k' else y }
      match s5.loadStream k' l.ctx (l.code + BitVec.ofNat 64 (fld x 0 64)) (fld x 64 64) with
      | (s6, .ok) => (s6.unhold l.die slot).startLine k' [] layer
      | (_, r) => keep s1 s1 r

/-- The router's die reads and clears the bins, sets the slot counters, and gives each expert line whose width changes
its new one (R387 to R389); then the router's head reopens. -/
def State.resizeExperts (s : State) (line : Nat) (l : Line) : State :=
  let es := s.experts line l
  let key (e : Nat) : Nat := 1024 * l.ctx + e
  let bins := (List.range es.length).map fun e => (Sparse.get (s.die l.die).bins 0 (key e)).toNat
  let total := (es.map fun e => e.2.total).foldl Nat.max 0
  let kmax := (es.map fun e => e.2.kmax).foldl Nat.max 0
  let layer := match l.stns.find? (fun st => s.isHead l st.1) with
    | some st => (match ((s.actor (stationKey line st.1)).arrive.findSome? fun q => q.2.head?) with
      | some d => l.layerOf d.h.wid | none => 0)
    | none => 0
  let s1 := s.modDie l.die fun d => { d with bins := d.bins.filter fun b => !((List.range es.length).any fun e => key e == b.1) }
  let s2 := es.foldl (fun s e => match e.2.slotCtr with
    | some va => s.unitWrite l.die l.ctx va 0 (maskAt (va.toNat % 64) 8)
    | none => s) s1
  let ws := (expertWidths total kmax bins).getD (es.map fun e => e.2.w)
  let s3 := (es.zip ws).foldl (fun s e =>
    if e.1.2.w = e.2 then s else s.modLine e.1.1 fun y => { y with resize := some (e.2, layer) }) s2
  ((es.zip ws).foldl (fun s e => if e.1.2.w = e.2 then s else s.now (.resizeWidths e.1.1)) s3).modLine line fun y =>
    { y with resizing := false, resized := true }

/-- RESIZE_WIDTHS (R387 to R389): a router line's resize when its old layer has drained, and the re-placement of an
expert line at its new width when it holds no item. -/
def execResizeWidths (line : Nat) (s : State) : Out :=
  .next (match s.line? line with
    | none => s
    | some l =>
      match l.resize with
      | some (w, layer) => if s.lineIdle line l then s.replace_ line l w layer else s
      | none => if l.resizing ∧ s.lineDrained line l then s.resizeExperts line l else s)

-- TEARDOWN (R395)

/-- A restore is over, or refused: BUSY clears (R426). -/
def State.restoreOver (s : State) : State := s.modMgmt fun m => { m with pre0 := BitVec.ofNat 64 (m.pre0.toNat % 2 ^ 63) }

/-- The entries of a context in the ready queues are removed, each with its record (R395). -/
def State.cancelEntries (s : State) (c : Nat) : State :=
  List.foldl (fun (s : State) (d : Nat × Die) =>
    (d.2.ready.filter fun r => r.ctx == c).foldl (fun s r =>
      ((s.dropReady d.1 r).cancelEntry d.1 r).1) s) s s.dies

/-- What a context has off the device is dropped: each item and card with its record, what is parked for it as for a context that has
ended; its graphs end there (R393, R395). -/
def State.dropSaved (s : State) (v : Saved) : State :=
  let home : State := { s with lines := v.lines, actors := v.actors, tiles := v.tiles }
  let die := match v.lines with | l :: _ => l.2.die | [] => 0
  let gone (s : State) (key : Nat) (h : HState) : State :=
    s.trap v.ctx (launchKey die)
      (record s.dev { home.origin key 0 with seq := h.seq.toNat, wid := h.wid.toNat } .cancelled 0 0)
  let s1 := v.actors.foldl (fun s a => ((a.2.item.map (·.desc)).toList ++ a.2.arrive.flatMap (·.2) ++ a.2.stuck.map (·.2.1)).foldl (fun s d =>
    if d.can then s else gone s a.1 d.h) s) s
  let s2 := v.lines.foldl (fun s l => l.2.sinks.foldl (fun s x => (x.wait ++ x.store).foldl (fun s d =>
    if d.can then s else gone s (stationKey l.1 x.stn) d.h) s) s) s1
  let s3 := v.parked.foldl (fun s p =>
    s.trap v.ctx p.2.desc.sender (record s.dev (home.senderOrigin p.2.desc) .destExited 0 0)) s2
  let s4 := v.jobs.foldl (fun s j => (s.modCopier j.die j.engine fun e => { e with jobs := e.jobs ++ [j] }).cancelJob j) s3
  let s5 := (v.actors.flatMap fun a => a.2.members) ++ v.tiles.flatMap fun t => t.2.members
  let s6 : State := { (s4.retire s5.eraseDups) with saved := s4.saved.filter fun x => x.ctx != v.ctx }
  List.foldl (fun (s : State) (g : Nat × Graph) =>
    if g.2.ctx = v.ctx ∧ g.2.swapped then
      (s.modGraph g.1 fun g => { g with lines := [], status := 3, swapped := false }).now (.graphEnd g.1)
    else s) s6 s6.graphs

/-- Everything of a context that has not started is dropped, what runs comes to its end, and nothing new begins (R395,
R121). What frozen, stopped and drained lines hold is discarded at once; a pre-emption or a restore of the context is over. -/
def State.teardown (s : State) (c : Nat) : State :=
  match s.ctx? c with
  | none => s
  | some x =>
    if x.tearing then s
    else
      let s0 := if x.status = 2 ∨ x.status = 4 then s.restoreOver else s
      let s1 := (s0.modCtx c fun x => { x with tearing := true, status := 6 }).cancelEntries c
      let s2 := s1.dies.foldl (fun (s : State) (d : Nat × Die) =>
        let s1 := (d.2.recs.filter fun r => r.ctx == c).foldl (fun s r => s.after 1 (.evaluationAbandon d.1 r.evid Cause.killed)) s
        d.2.copiers.foldl (fun s e => (e.2.jobs.filter fun j => j.ctx == c && j.status == 0).foldl (fun s j => s.cancelJob j) s) s1) s1
      let s3 := s2.lines.foldl (fun s l =>
        if l.2.ctx ≠ c then s
        else
          let stands : Bool := l.2.frozen || l.2.stopped || !l.2.running
          let s1 := s.modLine l.1 fun y => { y with tearing := true, draining := none, exitNow := y.exitNow || stands }
          let s2 := s1.modGraph l.2.graph fun g => { g with status := 3 }
          if stands then s2.now (.lineExit l.1) else s2) s2
      ((s3.saved.filter fun v => v.ctx == c).foldl (fun s v => s.dropSaved v) s3).endCtx c

/-- CTRL_TEARDOWN: command 2 on a context's control object (R386, R395). -/
def execCtrlTeardown (ctx : Nat) (s : State) : Out := .next (s.teardown ctx)
/-- A teardown by management (R395). -/
def execManagementTeardown (ctx : Nat) (s : State) : Out := .next (s.teardown ctx)

-- SPLICES (R184, R185, R259, R376)

/-- A successor's stream follows the LOK item: its writes wait for that item to pass their tile (R184). -/
def State.applySuccessor (s : State) (k : Nat) (ts : List Sett) : State :=
  s.modLine k fun y => { y with
    cver := nextCver y.cver
    sucPend := y.sucPend ++ ts.map fun t => (y.tileAt t.x t.y, t.pending y.region)
    sucCfgs := (ts.filter fun t => t.idx == 19).map fun t => (y.tileAt t.x t.y, t.cfg) }

/-- What the launch engine finds under the address that SPLICE names (R226, R259, R376). -/
inductive Successor where
  /-- The record cannot be read. -/
  | unread
  /-- A page that it needs migrates (R35); the record, when it has been read. -/
  | waits (x : Option Nat)
  /-- The record is refused, with the launch cause and its detail. -/
  | refused (x cause detail : Nat)
  /-- The record, its code object, its line and its stream. -/
  | good (x : Nat) (code : Code) (e : LineEnt) (ts : List Sett)
  deriving DecidableEq, Repr

/-- The launch engine fetches and checks the successor that SPLICE names. -/
def State.successor (s : State) (l : Line) (va : Word) : State × Successor :=
  let die := l.die
  let c := l.ctx
  match s.fetchBytes die c .load 6 va.toNat 256 with
  | (s1, .error a) => (s1, if a.waits then .waits none else .unread)
  | (s1, .ok x) =>
    match s1.checkRecord die x (some c) with
    | (s2, .error .wait) => (s2, .waits (some x))
    | (s2, .error (.refuse cause detail)) => (s2, .refused x cause detail)
    | (s2, .ok code) =>
      match code.lines with
      | [e] =>
        if e.w ≠ l.w ∨ e.h ≠ l.h ∨ e.bay.length ≠ l.bay.length then (s2, .refused x lcRecord 0)
        else
          match s2.fetchStream die c code.va code.variant (code.va + BitVec.ofNat 64 e.stream) e.slen with
          | (s3, .error a) => (s3, if a.waits then .waits (some x) else .refused x lcCode a.cause.toNat)
          | (s3, .ok cmds) =>
            match s3.checkStream l cmds with
            | .error (q, _) => (s3, .refused x lcStream q.code.toNat)
            | .ok ts => (s3, .good x code e ts)
      | _ => (s2, .refused x lcRecord 0)

/-- The slots of a splice that waits for a page: the cycles of its first walk and of its last one. -/
def spliceSlot (line : Nat) : Nat := 2 ^ 17 + 2048 + line
def triedSlot (line : Nat) : Nat := 2 ^ 17 + 3072 + line
/-- The slot of the SEQ of a LOK item whose splice has been refused. -/
def refusedSlot (line : Nat) : Nat := 2 ^ 17 + 512 + line

/-- The cycles of the first and of the last walk of a splice that waits. -/
def State.spliceTimes (s : State) (k : Nat) (l : Line) : Option (Nat × Nat) :=
  match Sparse.find? (s.die l.die).held (spliceSlot k), Sparse.find? (s.die l.die).held (triedSlot k) with
  | some f, some t => some (f, t)
  | _, _ => none

/-- Whether a walk of a splice that waits falls due: it is the first, or the next multiple of 4,096 cycles after the first has come
(R35). -/
def State.spliceDue (s : State) (k : Nat) (l : Line) : Bool :=
  match s.spliceTimes k l with
  | some (f, t) => decide ((t - f) / Config.rewalkCycles < (s.cycle - f) / Config.rewalkCycles)
  | none => true

/-- Whether a successor waits for a page, and has not waited too long (R35). -/
def State.spliceWaits (s : State) (k : Nat) (l : Line) (va : Word) : Bool :=
  decide (s.cycle < (match s.spliceTimes k l with | some (f, _) => f | none => s.cycle) + Config.migrationCycles) &&
    (!s.spliceDue k l || (match (s.successor l va).2 with | .waits _ => true | _ => false))

/-- The wait of a splice begins, or goes on: its item is not handed at this boundary. DESIGN CHOICE: a walk that falls due between two
boundaries is made at the second one (notes/assumptions/94.md). -/
def State.spliceHold (s : State) (k : Nat) (l : Line) : State :=
  let (f, t) := match s.spliceTimes k l with | some (f, t) => (f, if s.spliceDue k l then s.cycle else t) | none => (s.cycle, s.cycle)
  s.modDie l.die fun d => { d with held := Sparse.set (Sparse.set d.held (spliceSlot k) f) (triedSlot k) t }

/-- The successor at the boundary at which the LOK item is handed: the splice is in flight, or it is refused and the line runs
on (R226, R259, R376). -/
def State.spliceTo (s : State) (k : Nat) (va : Word) : State :=
  match s.line? k with
  | none => s
  | some l =>
    let die := l.die
    let c := l.ctx
    let refuse (s : State) (x cause detail : Nat) : State :=
      (s.writeRecord die (.task c va) 2 cause detail).refuseLaunch die x cause
    match ((s.unhold die (spliceSlot k)).unhold die (triedSlot k)).successor l va with
    | (s1, .unread) => s1.launchTrap die c lcRecord
    | (s1, .waits none) => s1.launchTrap die c lcRecord
    | (s1, .waits (some x)) => refuse s1 x lcCode Cause.migrationTimeout.toNat
    | (s1, .refused x cause detail) => refuse s1 x cause detail
    | (s1, .good x code e ts) =>
      ((s1.writeRecord die (.task c va) 1 0 0).applySuccessor k ts).modLine k fun y => { y with
        code := code.va, variant := code.variant, stream := code.va + BitVec.ofNat 64 e.stream, slen := e.slen
        splice := some (va, fld x 384 32, fld x 416 32), sucBeat := e.beat, switched := []
        b := Nat.max y.b (e.beat.toNat % 2 ^ 16) }

/-- The successor's writes to some tiles are made; their configuration intervals end (R184, R225, R416, R418). -/
def State.loadSuccessor (s : State) (k : Nat) (p : Nat → Bool) : State :=
  match s.line? k with
  | none => s
  | some l =>
    let ws := l.sucPend.filter fun w => p w.1
    let s1 := ws.foldl (fun s w => s.applyWrite w.1 w.2)
      (s.modLine k fun y => { y with sucPend := y.sucPend.filter fun w => !p w.1, reconf := y.reconf || ws ≠ [] })
    (ws.map (·.1)).eraseDups.foldl (fun s t => s.now (.intervalRecord t)) s1

/-- Stations that a successor alone has made start where they stand; `gone` says that those that it no longer has retire (R184). -/
def State.renewStations (s : State) (k : Nat) (gone : Bool) : State :=
  match s.line? k with
  | none => s
  | some l =>
    let sts := s.lineStations l
    let new := sts.filter fun x => !(l.stns.any fun y => y.1 == x.1)
    let old := l.stns.filter fun y => !(sts.any fun x => x.1 == y.1)
    let s1 := new.foldl (fun s x => s.startStation k l.ctx [] x) s
    let s2 := if gone then old.foldl (fun s y =>
        (s.retire (s.actor (stationKey k y.1)).members).retireUnit (stationKey k y.1)) s1 else s1
    s2.modLine k fun l => { l with stns := (if gone then l.stns.filter fun y => !old.contains y else l.stns) ++ new.map fun x => (x.1, x.2.1) }

/-- The pass-through tiles behind a station's output queues. -/
def State.passTiles (s : State) (tile : Nat) : List Nat :=
  (List.range 8).flatMap fun oq =>
    match mapEntry (s.tile tile).oqmap oq with
    | some (p, tag) => passPath s.tile 64 tile p tag
    | none => []

/-- The station has handed the LOK item: the successor's commands load into its tile and into the pass-through tiles behind
it, and it switches to its successor configuration, the lowest that the successor's stream makes for it; what the bay tiles copy of the
configurations that the stream writes there is out of date (R177, R184, R186, notes/assumptions/26.md). Where the splice was refused
the switch leaves the configuration unchanged (R259). -/
def State.lokSwitch (s : State) (k stn : Nat) : State :=
  match s.line? k with
  | none => s
  | some l =>
    match l.tileOf stn with
    | some tile =>
      let key := stationKey k stn
      let pass := (s.passTiles tile).filter fun t => !l.bay.contains t
      let written := ((l.sucPend.filter fun w => w.1 == tile && decide (w.2.cfg < 8)).map fun w => w.2.cfg).eraseDups
      let s1 := ((s.loadSuccessor k fun t => t == tile || pass.contains t).applyPend tile l.region stn).renewStations k false
      let s2 := written.foldl (fun s c => s.dropCopies k stn c false) s1
      match (s2.lineStations l).find? fun x => x.1 == stn with
      | some x =>
        let c := if l.splice.isSome then ((x.2.2.filter fun c => l.sucCfgs.contains (tile, c)) ++ x.2.2).headD 0 else (s.actor key).active
        (s2.modActor key (fun a => { a with active := c, switchTo := some (c, s.cycle + 4) })).after 4 (.configSwitchEnd key)
      | none => s2
    | none => s

/-- The splice ends at the boundary at which every sink has taken the LOK item (R185); the bay tiles are free of predecessor
items, and what is left of the stream loads into them (R184). -/
def State.spliceEnd (s : State) (k : Nat) : State :=
  match s.line? k with
  | none => s
  | some l =>
    match l.splice with
    | none => s
    | some (_, issue, bytes) =>
      let last := if l.sinks = [] then l.stns.map (·.1) else l.sinks.map (·.stn)
      if last.all fun n => l.switched.contains n then
        ((((s.loadSuccessor k fun _ => true).renewStations k true).renewCopies k).modLine k fun y => { y with
          splice := none, switched := [], issueBudget := issue, byteBudget := bytes
          b := y.sucBeat.toNat % 2 ^ 16, beat := BitVec.ofNat 64 (y.beat.toNat / 2 ^ 16 * 2 ^ 16 + y.sucBeat.toNat % 2 ^ 16)
          winBeats := 0, winOver := 0, winSlack := [] })
      else s

end Sys2Proof.Machine
end

