-- ==== Sys2Proof/Machine/Boundary.lean ====
section
/-! DEFINITION. The boundary of a line: what stations take and hand, overruns and line holds, rejoins and withholding,
closures, the governor, the watchdog, and what a boundary wakes or ends (R164 to R189, R219, R236, R249, R256, R355,
R358, R361, R414, R417). -/

namespace Sys2Proof.Machine

-- CLOSURES (R184, R187)

/-- Whether a unit's item carries LOK: its header state does, or a later header of the item (R184, R249). DEDUCED: a station passes
the LOK of a later header on (notes/assumptions/128.md). -/
def Actor.lokItem (a : Actor) : Bool := match a.item with | some i => a.hs.lok || i.desc.lokLast | none => false

/-- Whether a unit's item has ended its work: HAND has fired, or it carries a record (R168, R401). -/
def Actor.finished (a : Actor) : Bool :=
  match a.item with | some i => i.handed || i.record.isSome | none => false

/-- Whether a station holds its LOK item back for the bay, or has it there (R184). -/
def State.lokHeld (s : State) (k : Nat) (l : Line) (stn : Nat) : Bool :=
  let a := s.actor (stationKey k stn)
  let mine := l.fifo.filter fun r => r.stn == stn
  !mine.isEmpty && ((a.lokItem && a.finished) || mine.any fun r => (s.actor (bayKey r.bay)).lokItem)

/-- Whether a unit's item asks for a splice whose record or stream lies in a page that migrates: it is not handed (R35, R259). -/
def State.spliceHeld (s : State) (k : Nat) (l : Line) (key : Nat) : Bool :=
  let a := s.actor key
  l.splice.isNone && a.finished && (match a.choice.splice with | some va => s.spliceWaits k l va | none => false)

/-- Whether a closure runs upstream from one station to another: into a cycle that is closed, only from outside it. -/
def State.closesUp (s : State) (k : Nat) (l : Line) (up down : Nat) (full : Bool) : Bool :=
  if full then true
  else match l.cycles.find? fun c => c.1.head? == some down with
    | some c => !c.1.contains up
    | none => s.cycleClosed k l down

/-- One round of a closure: stations that lead to closed ones. `full` holds the stations closed themselves, `entry` the
stations of cycles that take nothing from outside. -/
def State.closeRound (s : State) (k : Nat) (l : Line) (entry : List Nat) (full : List Nat) : List Nat :=
  (l.stns.map (·.1)).filter fun n => full.contains n ||
    ((s.edgesOf l n).map (·.2) ++ (s.routeEdges l n).map fun e => e.2.2).any fun e =>
      match e with
      | .stn m _ => s.closesUp k l n m (full.contains m) && (full.contains m || entry.contains m)
      | _ => false

/-- The closed stations, by rounds (R184, R187). -/
def State.closeGo (s : State) (k : Nat) (l : Line) (entry : List Nat) : (fuel : Nat) → List Nat → List Nat
  | 0, full => full
  | n + 1, full => State.closeGo s k l entry n (s.closeRound k l entry full)

/-- The closed stations of a line at this boundary; `more` are stations whose LOK item goes to the bay at it. -/
def State.closedOf (s : State) (k : Nat) (l : Line) (more : List Nat) : List Nat :=
  let ns := l.stns.map (·.1)
  let base := ns.filter fun n => s.lokHeld k l n || s.spliceHeld k l (stationKey k n) || more.contains n
  let entry := ns.filter fun n => s.cycleClosed k l n
  if base = [] ∧ entry = [] then [] else s.closeGo k l entry ns.length base

-- DEFERRAL (R171, R174)

/-- The stations that overrun if the boundary falls now, in increasing number. -/
def State.laggards (s : State) (k : Nat) (l : Line) (closed : List Nat) : List Nat :=
  (List.range 64).filter fun n => l.stns.any (fun st => st.1 == n) && !closed.contains n &&
    (let a := s.actor (stationKey k n); a.item.isSome && !a.finished)

/-- The stations that are closed at this boundary and those that overrun: one whose LOK item overruns is closed too, since that item
is in the bay from this boundary on, and what it closes does not overrun (R184, R186). -/
def State.closures (s : State) (k : Nat) (l : Line) : List Nat × List Nat :=
  let closed := s.closedOf k l []
  let lag := s.laggards k l closed
  match lag.filter fun n => (s.actor (stationKey k n)).lokItem with
  | [] => (closed, lag)
  | loks =>
    let closed' := s.closedOf k l loks
    (closed', lag.filter fun n => loks.contains n || !closed'.contains n)

-- HANDING (R169, R170, R182, R256)

/-- What a station hands at this boundary: a cancel token that it took, its item, or nothing; then the tokens of
CANCEL.seq (R255, R256). -/
def State.outputs (s : State) (key : Nat) (l : Line) : List Send :=
  let a := s.actor key
  let main := match a.cancel with
    | some c =>
      ((s.edgesOf l a.stn).map fun e => (⟨e.1, none, cancelDesc a.hs c.h.seq c.h.wid⟩ : Send)) ++
        (s.routeEdges l a.stn).map fun e => ⟨e.1, some e.2.1, cancelDesc a.hs c.h.seq c.h.wid⟩
    | none => if a.finished then s.handing key l else []
  main ++ a.seqTokens

/-- The SEQ of a unit's item. -/
def Actor.itemSeq (a : Actor) : BitVec 48 := match a.item with | some i => i.desc.h.seq | none => 0

/-- A unit after it has handed: nothing of the item is left, its queue entries included. -/
def State.clearUnit (s : State) (key : Nat) : State :=
  let a := s.actor key
  let s1 := match a.item with | some i => s.purgeSeq a i.desc.h.seq | none => s
  s1.modActor key fun a => { a with item := none, hold := [], retained := [], rc := [], choice := Choice.none, work := none, cancel := none }

/-- What has happened at a boundary so far. -/
structure Handed where
  /-- Stations that handed an item. -/
  items : List Nat
  /-- Stations whose item carried LOK, with its SEQ. -/
  loks : List (Nat × BitVec 48)
  /-- The request of SPLICE, of the lowest station, with its item's SEQ. -/
  splice : Option (Word × BitVec 48)
  deriving DecidableEq, Repr

/-- One station hands. The slack of an item that it held over a closure is not counted (R182). -/
def State.handAt (s : State) (k b : Nat) (h : Handed) (stn : Nat) : State × Handed :=
  match s.line? k with
  | none => (s, h)
  | some l =>
    let key := stationKey k stn
    let a := s.actor key
    let xs := s.outputs key l
    let item := handsItem xs
    let slack : List Nat := match a.work with
      | some w => if item ∧ (s.itemRecord key).isNone ∧ w ≤ b ∧ !a.closed then [b - w] else []
      | none => []
    let s1 := ((s.sendAll k l stn xs).clearUnit key).modActor key fun a => { a with handed := if item then a.handed + 1 else a.handed }
    (s1.modLine k fun l => { l with winSlack := l.winSlack ++ slack },
      { items := if item then h.items ++ [stn] else h.items
        loks := if a.lokItem && a.finished then h.loks ++ [(stn, a.itemSeq)] else h.loks
        splice := match h.splice with | some x => some x | none => if a.finished then a.choice.splice.map fun x => (x, a.itemSeq) else none })

-- REJOINS AND PATIENCE (R178, R179)

/-- The stations from which a station is reached, by rounds. -/
def State.aboveGo (s : State) (l : Line) : (fuel : Nat) → List Nat → List Nat
  | 0, ns => ns
  | n + 1, ns => State.aboveGo s l n (ns ++ (ns.flatMap fun m => (s.upQueues l m).map (·.2)).filter fun m => !ns.contains m).eraseDups

/-- Whether the bubble that passes a junction at this boundary is reserved for another junction below it. -/
def State.bubbleKept (s : State) (l : Line) (stn : Nat) : Bool :=
  l.reserved.any fun r => r.1 != stn && (s.aboveGo l l.stns.length [r.1]).contains stn
    && l.counter + BitVec.ofNat 48 (s.depth l r.1) == r.2 + BitVec.ofNat 48 (s.depth l stn)

/-- One junction: its FIFO head rejoins where the station handed nothing (R178). The answer names the stations whose item
rejoined and those whose rejoined item carried LOK. -/
def State.rejoinAt (s : State) (k : Nat) (h : Handed) (acc : List Nat × Handed) (stn : Nat) : State × (List Nat × Handed) :=
  match s.line? k with
  | none => (s, acc)
  | some l =>
    match l.fifoHead stn with
    | none => (s, acc)
    | some r =>
      if h.items.contains stn ∨ !s.reworkDone r ∨ s.bubbleKept l stn ∨ s.spliceHeld k l (bayKey r.bay) then (s, acc)
      else
        let u := s.actor (bayKey r.bay)
        let s1 := (s.rejoin k l r).modLine k fun l => { l with reserved := l.reserved.filter fun x => x.1 != stn }
        (s1, (acc.1 ++ [stn], { acc.2 with
          loks := if u.lokItem then acc.2.loks ++ [(stn, u.itemSeq)] else acc.2.loks
          splice := match acc.2.splice with | some x => some x | none => u.choice.splice.map fun x => (x, u.itemSeq) }))

/-- A FIFO head that is ready counts a wait where its junction hands an item (R179). -/
def State.countWait (s : State) (k : Nat) (h : Handed) (stn : Nat) : State :=
  match (s.line? k).bind fun l => l.fifoHead stn with
  | some r => if s.reworkDone r && h.items.contains stn then s.modActor (bayKey r.bay) fun a => { a with waits := a.waits + 1 } else s
  | none => s

/-- PATIENCE. -/
def Line.patience (l : Line) : Nat := l.beat.toNat / 2 ^ 32 % 2 ^ 8

/-- Whether two junctions lie on one path. -/
def State.onPath (s : State) (l : Line) (m n : Nat) : Bool :=
  (s.aboveGo l l.stns.length [m]).contains n || (s.aboveGo l l.stns.length [n]).contains m

/-- The junctions for which the head withholds at this boundary: those whose head has waited long enough, in increasing number;
of junctions on one path the lowest, since one bubble serves one of them (R179; notes/assumptions/64.md). -/
def State.withholdFor (s : State) (l : Line) (closed : List Nat) : List (Nat × Rework) :=
  (List.range 64).foldl (fun (acc : List (Nat × Rework)) n =>
    match l.fifoHead n with
    | some r =>
      let a := s.actor (bayKey r.bay)
      if s.reworkDone r && decide (l.patience ≤ a.waits) && !a.withheld && !closed.contains n && !(acc.any fun x => s.onPath l x.1 n)
      then acc ++ [(n, r)] else acc
    | none => acc) []

-- TAKING (R165, R168, R170, R219, R236, R249)

/-- The level boundaries that an item passes (R165, R242). -/
def Line.levelsOf (l : Line) (prev : Option Word) (wid : Word) : BitVec 6 :=
  match prev with
  | none => BitVec.allOnes 6
  | some p => BitVec.ofNat 6 (((List.range 6).map fun i =>
      if (List.range (i + 1)).any fun j => widField l.widw p j != widField l.widw wid j then 2 ^ i else 0).sum)

/-- MAXROWS of the shape record that an item names (R219). -/
def Cfg.maxRows (c : Cfg) (shape : BitVec 4) : Nat := c.shapes.toNat / 2 ^ (32 * shape.toNat) % 2 ^ 9

/-- The flits that an input queue takes of a part with rows beyond the bound of its shape record (R219): none when the bound
holds all of it. -/
def Cfg.limitOf (c : Cfg) (p : Nat × Desc) : Option (Nat × Nat) :=
  let m := c.maxRows p.2.h.shape
  if m < p.2.h.rows.toNat then some (p.1, m * p.2.per) else none

/-- A queue without an item's entries past the first `n`. -/
def keepRows (seq : BitVec 48) : (n : Nat) → List Entry → List Entry
  | _, [] => []
  | n, e :: r =>
    if e.unseq || e.hdr.seq != seq then e :: keepRows seq n r
    else if n = 0 then keepRows seq 0 r else e :: keepRows seq (n - 1) r

/-- A station takes an item, of the parts that its queues hold: its header fields are loaded, its bank and its rows are
checked, and the state at its start is kept (R171, R219, R236, R249). DESIGN CHOICE: a part that comes with a record gets no
second one of these checks (notes/assumptions/108.md). -/
def State.takeItem (s : State) (k : Nat) (l : Line) (stn : Nat) (d : Desc) (parts : List (Nat × Desc)) : State :=
  let key := stationKey k stn
  let a := s.actor key
  let tile := s.tile a.tile
  let act := match a.switchTo with | some (c, _) => c | none => a.active
  let cfg := tile.cfg a.active
  let mask := bankList cfg.banks
  let live := parts.filter fun x => !x.2.can
  let stray := live.any fun x => !mask.contains x.2.h.ctag.toNat
  let h := if stray then { d.h with ctag := BitVec.ofNat 2 (mask.headD 0) } else d.h
  let o := { s.origin key 0 with seq := h.seq.toNat, wid := h.wid.toNat }
  let limits := live.filterMap cfg.limitOf
  let i0 : Item := ⟨{ d with h := h }, d.record, false, none, false, false, 0, limits⟩
  let sound := live.filter fun x => x.2.record.isNone
  let i1 := if sound.any fun x => !mask.contains x.2.h.ctag.toNat then i0.attach ⟨record s.dev o .bounds Cause.bankMask 0, true⟩ else i0
  let i2 := if sound.any fun x => (cfg.limitOf x).isSome then i1.attach ⟨record s.dev o .shapeOverrun 0 0, true⟩ else i1
  (s.modTile a.tile fun t => limits.foldl (fun t x => t.setQueue x.1 (keepRows h.seq x.2 (t.queue x.1))) t).setActor key { a with
    item := some i2, hs := h, k := 0, hold := [], retained := [], rc := [], waveS := 0xFE, waveN := 0xFF, start := s.cycle
    work := none, snap := some ⟨mask.map fun b => (b, tile.bank b), a.gpos, act, a.seed, h⟩, choice := Choice.none
    prevWid := some h.wid, levels := l.levelsOf a.prevWid h.wid, cancel := none, yielded := false, drainBusy := 0 }

/-- A station takes a bubble, or a cancel token, which is one (R168, R256). -/
def State.takeBubble (s : State) (k stn : Nat) (c : Option Desc) : State :=
  s.modActor (stationKey k stn) fun a => { a with
    item := none, hs := HState.zero, hold := [], retained := [], rc := [], start := s.cycle, work := none, snap := none
    choice := Choice.none, levels := 0, cancel := c, yielded := false, bubbles := a.bubbles + 1 }

/-- Parts by rising queue number. -/
def byQueue (ps : List (Nat × Desc)) : List (Nat × Desc) := (List.range 8).flatMap fun q => ps.filter fun p => p.1 == q

/-- What a join takes: an item, or a cancel that annihilates what is pending of its SEQ. -/
def State.takeParts (s : State) (k : Nat) (l : Line) (stn : Nat) (parts : List (Nat × Desc)) : State :=
  let parts := byQueue parts
  match joined (parts.map (·.2)) with
  | none => s.takeBubble k stn none
  | some d =>
    if d.can then (s.annihilate k stn d.h.seq).takeBubble k stn (some d)
    else (s.takeItem k l stn d parts).settle l stn d.h.wid

/-- The items that stand first on source queues, with the SEQ that the head gives them. -/
def srcParts (a : Actor) (qs : List Nat) (seq : BitVec 48) : List (Nat × Desc) :=
  qs.filterMap fun q => (Sparse.get a.arrive [] q).head?.map fun d => (q, { d with h := { d.h with seq := seq } })

/-- The parts of a join leave their queues, a cancelled edge's flits with them, and the station takes them (R256). -/
def State.joinTake (s : State) (k : Nat) (l : Line) (stn : Nat) (qs : List Nat) (seq : BitVec 48) (more : List (Nat × Desc)) : State :=
  let key := stationKey k stn
  let ps := joinParts (s.actor key) qs seq
  let s1 := s.modActor key fun a => dropParts a ps seq
  let s2 := s1.modTile (s.actor key).tile fun t =>
    (ps.filter fun p => p.2.can).foldl (fun t p => t.setQueue p.1 (keepOthers seq (t.queue p.1))) t
  s2.takeParts k l stn (ps ++ more)

/-- A station takes at a boundary (R168, R170, R187): from inside a cycle that is entered at it, or else from outside, unless
the cycle is full (DESIGN CHOICE: what comes from inside goes first, notes/assumptions/123.md); `open_` says that head stations take
from their sources, `withheld` that every head station withholds (R179). The answer says whether one took from them. -/
def State.takeAt (s : State) (k : Nat) (open_ withheld : Bool) (seq : BitVec 48) (stn : Nat) : State × Bool :=
  match s.line? k with
  | none => (s, false)
  | some l =>
    let key := stationKey k stn
    let a := s.actor key
    let queues (es : List (Nat × Nat)) : List Nat := (List.range 8).filter fun q => es.any fun e => e.1 == q
    let inner := queues (s.innerUp l stn)
    let outer := queues (s.outerUp l stn)
    let src := s.srcQueues k l stn
    let ready := src.all fun q => !(Sparse.get a.arrive [] q).isEmpty
    let give (s : State) (q : BitVec 48) : State :=
      (src.foldl (fun s n => s.assignSeq k stn a.tile n q) s).modActor key fun a => dropFirst a src fun _ => true
    if withheld && s.isHead l stn then (s.takeBubble k stn none, false) else
    match joinSeq a inner with
    | some q => (s.joinTake k l stn inner q [], false)
    | none =>
      if s.cycleClosed k l stn ∨ !ready then (s.takeBubble k stn none, false)
      else if s.isFirst l stn then
        if open_ ∧ src ≠ [] then ((give s seq).takeParts k l stn (srcParts a src seq), true)
        else (s.takeBubble k stn none, false)
      else
        match joinSeq a outer with
        | some q => ((give s q).joinTake k l stn outer q (srcParts a src q), false)
        | none => (s.takeBubble k stn none, false)

/-- Whether a head station of a router would take an item of a new layer, whose resize comes first (R387). -/
def State.newLayer (s : State) (k : Nat) (l : Line) : Bool :=
  !l.resized && !(s.experts k l).isEmpty && l.stns.any fun st =>
    let a := s.actor (stationKey k st.1)
    let src := s.srcQueues k l st.1
    s.isHead l st.1 && !src.isEmpty && (src.all fun q => !(Sparse.get a.arrive [] q).isEmpty) &&
      match src.findSome? fun q => (Sparse.get a.arrive [] q).head? with
      | some d => (l.levelsOf a.prevWid d.h.wid).getLsbD l.layer
      | none => false

-- THE GOVERNOR (R181, R182, R185, R358)

/-- A window starts. -/
def Line.window (l : Line) : Line := { l with winBeats := 0, winOver := 0, winSlack := [] }
/-- B is set. -/
def Line.setB (l : Line) (b : Nat) : Line :=
  { l with b := b, beat := BitVec.ofNat 64 (l.beat.toNat / 2 ^ 16 * 2 ^ 16 + b % 2 ^ 16) }
/-- A field of LINE_GOV. -/
def Line.govFld (l : Line) (i : Nat) : Nat := l.gov.toNat / 2 ^ (16 * i) % 2 ^ 16

/-- Whether a splice is in flight, or its LOK item stands at a head station or in its bay: the governor makes no adjustment
(R185; notes/assumptions/66.md). -/
def State.splicing (s : State) (k : Nat) (l : Line) : Bool :=
  l.splice.isSome || (l.stns.any fun st => (s.actor (stationKey k st.1)).choice.splice.isSome)
    || l.fifo.any fun r => (s.actor (bayKey r.bay)).choice.splice.isSome

/-- The governor's adjustment at the end of a window (R182); `still` says that a splice is in flight. -/
def Line.govern (l : Line) (still : Bool) : Line :=
  let (step, lo, hi) := (l.govFld 3, l.govFld 1, l.govFld 2)
  let l1 :=
    if l.beat.getLsbD 40 ∨ step = 0 ∨ still then l
    else if l.govFld 4 < l.winOver then l.setB (Nat.min (l.b + step) hi)
    else if l.winOver = 0 ∧ l.winSlack.all (fun x => l.govFld 5 ≤ x) then l.setB (Nat.max (l.b - step) lo)
    else l.setB (Nat.max (Nat.min l.b hi) lo)
  l1.window

/-- A write of LINE_BEAT, of the whole word or of BEAT alone; during a splice its BEAT is the successor's (R185, R358). -/
def Line.applyBeat (l : Line) (whole : Bool) (x : Word) : Line :=
  let y := if whole then x else withBeat l.beat x.toNat
  if l.splice.isSome then { l with beat := withBeat y l.beat.toNat, sucBeat := y }
  else { l with beat := y, b := y.toNat % 2 ^ 16 }.window

/-- The writes of LINE_BEAT and LINE_GOV that wait for the boundary, in station-number order (R185, R358). -/
def Line.applyReqs (l : Line) : Line :=
  let l1 := l.beatReq.foldl (fun l r => l.applyBeat r.2.1 r.2.2) l
  let l2 := match l.govReq with
    | none => l1
    | some (_, x) => { l1 with gov := x }.window
  { l2 with beatReq := [], govReq := none }

/-- GOVERNOR_ADJUSTMENT (R182): at the boundary that completes the window, before writes that take effect there. -/
def execGovernorAdjustment (line : Nat) (s : State) : Out :=
  .next (match s.line? line with
    | none => s
    | some l => if l.govFld 0 ≤ l.winBeats then s.modLine line fun x => (x.govern (s.splicing line l)).applyReqs else s)

-- THE WATCHDOG (R414, R415)

/-- The age of the oldest remote request of a line's units that is outstanding and not queued, against its class timeout:
whether it is younger; none when there is no such request. -/
def State.oldestYoung (s : State) (k : Nat) (l : Line) : Option Bool :=
  let mine (a : Access) : Bool := a.stage = .sent && a.leaf.isSome && !a.discard &&
    (a.actor < 32768 && (s.actor a.actor).line == k) && !s.localTo (dieOf a.tile) a.pa
  let oldest := (s.accs.filter mine).foldl (fun b a => match b with
    | some (x : Access) => if a.sentAt < x.sentAt then some a else some x
    | none => some a) none
  oldest.map fun a => decide (s.cycle - a.sentAt <
    (if devOf a.pa = s.dev then s.mgmt.ringTimeout.toNat else s.mgmt.linkTimeout.toNat)) && l.running

/-- The origin of a watchdog record: the die's regulator and placer, with the line's region. -/
def lineOrigin (l : Line) : Origin := { launchOrigin l.die with region := l.region, cver := l.cver.toNat }

/-- The factorisations of a line's units stop at their step boundary, to be re-issued (R340). -/
def State.haltRuns (s : State) (l : Line) : State := l.region_.foldl (fun s t =>
  match (s.tile t).run with
  | some r => if r.fire.actor < 32768 && (s.actor r.fire.actor).line == 48 * l.die + l.region then s.stopRun t true else s
  | none => s) s

/-- WATCHDOG_EXPIRY (R414). -/
def execWatchdogExpiry (line : Nat) (s : State) : Out :=
  .next (match s.line? line with
    | none => s
    | some l =>
      if l.watchLimit = 0 ∨ l.watchCount < l.watchLimit then s
      else
        let rec_ (s : State) (c : BitVec 8) : State :=
          s.trapAux l.ctx (launchKey l.die) (record s.dev (lineOrigin l) .watchdog c 0) (l.counter.setWidth 64)
        if s.oldestYoung line l = some true then rec_ (s.modLine line fun l => { l with watchCount := 0 }) 0x02
        else rec_ ((s.haltRuns l).modLine line fun l => { l with watchCount := 0, frozen := true, frozenAt := s.cycle }) 0x01)

-- SLEEPS AT A BOUNDARY (R355)

/-- A unit that sleeps on a beat of its own line wakes at a boundary. -/
def State.sleepAt (s : State) (key : Nat) : State :=
  match (s.actor key).sleep with
  | some (.beat _) => s.now (.waitbWake key)
  | _ => s

/-- A unit that sleeps on a job promised for a beat of this line misses the promise when the line's counter reaches it: PBEAT
counts on the beat counter of the line that asked for the job (R352, R355). -/
def State.promiseAt (s : State) (key k : Nat) (counter : BitVec 48) : State :=
  match (s.actor key).sleep with
  | some (.job h f d told) =>
    match s.jobOf h with
    | some (_, _, j) =>
      if !told ∧ j.open_ ∧ j.pbeat ≠ 0 ∧ j.pbeat = counter ∧ j.line = some k then
        (s.missPromise key h).modActor key fun a => { a with sleep := some (.job h f d true) }
      else s
    | none => s
  | _ => s

-- THE BOUNDARY

/-- The stations of a line in increasing number. -/
def Line.order (l : Line) : List Nat := (List.range 64).filter fun n => l.stns.any fun st => st.1 == n

/-- Whether a stream's write to a configuration takes effect where the stations that are not closed take (R225, R416). -/
def State.reconfigures (s : State) (l : Line) (closed : List Nat) : Bool :=
  l.stns.any fun st => !closed.contains st.1 && s.pendOf st.2 l.region st.1 != []

/-- The tiles of a line start with phase 0 when the context first runs on them (R225). -/
def State.firstRun (s : State) (l : Line) : State :=
  l.region_.foldl (fun s t => if (s.tile t).ran then s else s.modTile t fun x => { x with ran := true, phase := 0 }) s

/-- The request of SPLICE at the boundary at which its item is handed; of a refused one the SEQ of the LOK item is kept, since that
item's switches still occur (R259). -/
def State.askSplice (s : State) (k : Nat) (va : Word) (seq : BitVec 48) : State :=
  match s.line? k with
  | none => s
  | some l =>
    if l.splice.isSome then s
    else
      let s1 := s.spliceTo k va
      if (match s1.line? k with | some l => l.splice.isSome | none => true) then s1
      else s1.modDie l.die fun d => { d with held := Sparse.set d.held (refusedSlot k) seq.toNat }

/-- The switches that LOK items trigger: those of stations that hand one at once, those of rejoined ones at the next boundary (R184);
`loks` were handed, `back` rejoined. -/
def State.lokSwitches (s : State) (k : Nat) (loks back : List (Nat × BitVec 48)) : State :=
  match s.line? k with
  | none => s
  | some l =>
    let seq := Sparse.find? (s.die l.die).held (refusedSlot k)
    let mine (xs : List (Nat × BitVec 48)) : List Nat :=
      (xs.filter fun x => l.splice.isSome || seq == some x.2.toNat).map (·.1)
    ((mine loks).foldl (fun s n => s.lokSwitch k n) s).modLine k fun y => { y with
      lokOut := y.lokOut ++ mine back
      switched := if l.splice.isSome then (y.switched ++ mine loks ++ mine back).eraseDups else y.switched }

/-- Shunts, handings, rejoins, the splice's request and LOK switches, and the cancel tokens of what stays in the bay, in this
order (R171, R172, R178, R184, R255). -/
def State.handPhase (s : State) (k b : Nat) (l : Line) (closed lag : List Nat) : State × Handed × List Nat :=
  let s1 := (lag.zip (s.freeBays l)).foldl (fun s x => s.shunt k x.1 x.2) s
  let live := l.order.filter fun n => !closed.contains n
  let (s2, h) := live.foldl (fun (a : State × Handed) n => a.1.handAt k b a.2 n) (s1, (⟨[], [], none⟩ : Handed))
  let (s3, back, h2) := l.order.foldl (fun (a : State × (List Nat × Handed)) n => a.1.rejoinAt k h a.2 n) (s2, [], ⟨[], [], none⟩)
  let ask := match h.splice with | some x => some x | none => h2.splice
  let s4 := match ask with | some x => s3.askSplice k x.1 x.2 | none => s3
  let s5 := s4.lokSwitches k h.loks h2.loks
  let rest := match s5.line? k with | some l => l.fifo | none => []
  let s6 := rest.foldl (fun s r =>
    (s.sendAll k l r.stn (s.actor (bayKey r.bay)).seqTokens).modActor (bayKey r.bay) fun a => { a with
      yielded := false, choice := { a.choice with cancelSeqs := [] } }) s5
  (l.order.foldl (fun s n => s.countWait k h n) s6, h, back)

/-- Taking, station by station; closed stations keep what they hold (R168, R170, R179, R184). -/
def State.takePhase (s : State) (k : Nat) (closed : List Nat) : State :=
  match s.line? k with
  | none => s
  | some l =>
    let held := s.withholdFor l closed
    let s1 := held.foldl (fun s x => (s.modActor (bayKey x.2.bay) fun a => { a with withheld := true }).modLine k fun l => { l with
        reserved := l.reserved ++ [(x.1, l.counter + BitVec.ofNat 48 (s.depth l x.1 + 1))] }) s
    let turn := held.isEmpty && !l.exiting && !l.tearing && l.draining.isNone && !l.resizing && l.resize.isNone
    let layer := turn && s1.newLayer k l
    let s2 := if layer then (s1.modLine k fun l => { l with resizing := true }).now (.resizeWidths k) else s1
    let live := l.order.filter fun n => !closed.contains n
    let s3 := live.foldl (fun s n =>
      match l.tileOf n with
      | some t => s.applyPend t l.region n
      | none => s) s2
    let (s4, took) := live.foldl (fun (a : State × Bool) n =>
      let (s, t) := a.1.takeAt k (turn && !layer) (!held.isEmpty) l.seqNext n
      (s, a.2 || t)) (s3, false)
    (closed.foldl (fun s n => s.modActor (stationKey k n) fun a => { a with closed := true, yielded := false })
      (live.foldl (fun s n => s.modActor (stationKey k n) fun a => { a with closed := false }) s4)).modLine k fun l => { l with
        seqNext := if took then l.seqNext + 1 else l.seqNext
        resized := if took then false else l.resized }

/-- What follows the taking: the governor, the end of a splice, the watchdog, sleeps, drains, and the line's end. -/
def State.afterTake (s : State) (k : Nat) (moved writes : Bool) : State :=
  let s := s.spliceEnd k
  match s.line? k with
  | none => s
  | some l =>
    let full := l.govFld 0 ≤ l.winBeats
    let s1 := if full then s.now (.governorAdjustment k) else s.modLine k fun l => l.applyReqs
    let s2 := s1.modLine k fun l => { l with
      watchCount := if moved then 0 else l.watchCount + 1
      draining := l.draining.map (· - 1)
      reserved := l.reserved.filter fun r => !later48 l.counter r.2 }
    let s3 := if !moved ∧ l.watchLimit ≠ 0 ∧ l.watchLimit ≤ l.watchCount + 1 then s2.now (.watchdogExpiry k) else s2
    let s3 := (l.stns.map (fun st => stationKey k st.1) ++ l.fifo.map fun r => bayKey r.bay).foldl (fun s u => s.sleepAt u) s3
    let s4 := (s3.actors.map (·.1)).foldl (fun s u => s.promiseAt u k l.counter) s3
    let s5 := if l.exiting ∨ l.tearing then s4.now (.lineExit k) else s4
    let s6 := if l.draining.isSome then s5.now (.preemptDrainEnd l.ctx) else s5
    let s7 := if l.resizing ∨ l.resize.isSome then s6.now (.resizeWidths k) else s6
    let s8 := if l.stopReq ∧ (writes ∨ l.reconf) ∧ s7.lineEmpty k l then s7.now (.debugStop k) else s7
    s8.kickDrains k

/-- At a teardown, what stands at a station or has ended its rework is discarded at the boundary (R395). -/
def State.tearAt (s : State) (k : Nat) (l : Line) : State :=
  let s1 := l.stns.foldl (fun s st => s.discardStation (stationKey k st.1)) s
  (s1.discardBay k { l with fifo := l.fifo.filter fun r => s.reworkDone r }).modLine k fun x => { x with
    fifo := l.fifo.filter fun r => !s.reworkDone r }

/-- The boundary falls. -/
def State.fall (s : State) (k : Nat) (l0 : Line) (closed lag : List Nat) : State :=
  let first := l0.beats = 0
  let s1 := (if first then s.firstRun l0 else s).modLine k fun l => { l with
    counter := if first then l.counter else l.counter + 1, beats := l.beats + 1, last := s.cycle, deferred := false
    winBeats := if first then 0 else l.winBeats + 1, lokOut := [], reconf := false }
  let s2 := (l0.lokOut.foldl (fun s n => s.lokSwitch k n) s1).modCtx l0.ctx fun c => { c with beats := c.beats + 1 }
  if l0.tearing then (s2.tearAt k l0).now (.lineExit k)
  else
    let (s3, h, back) := s2.handPhase k l0.b l0 closed lag
    (s3.takePhase k closed).afterTake k (!h.items.isEmpty || !back.isEmpty) (s3.reconfigures l0 closed)

-- REWORK RECORDS OF A PRE-EMPTION (R410, R412)

/-- The place of a rework record that has no bay tile: a tile number that no tile has. -/
def recordTile (k i : Nat) : Nat := 1024 + 64 * k + i
/-- Whether a rework record has no bay tile. -/
def Rework.loose (r : Rework) : Bool := 1024 ≤ r.bay

/-- Rework records without a bay tile enter the free ones, in their order (R412). -/
def State.admitRecords (s : State) (k : Nat) : State :=
  match s.line? k with
  | none => s
  | some l =>
    ((l.fifo.filter (·.loose)).zip (s.freeBays l)).foldl (fun s x =>
      let old := bayKey x.1.bay
      let new := bayKey x.2
      let a := s.actor old
      let mv (f : Firing) : Firing := if f.actor = old then { f with actor := new, tile := x.2 } else f
      let s1 := s.modTile x.2 fun t =>
        let r := s.tile x.1.bay
        { t with banks := r.banks, iq := r.iq, m := r.m, a := r.a, pv := r.pv, fs := r.fs }
      let s2 : State := { s1 with
        actors := Sparse.set (Sparse.del s1.actors old) new { a with tile := x.2, members := a.members ++ (s.tile x.2).members }
        tiles := Sparse.del s1.tiles x.1.bay
        accs := s1.accs.map fun y => if y.actor = old then { y with actor := new, fire := mv y.fire } else y }
      let act := (List.find? (fun (c : Nat × Nat × Nat × Nat) => c.1 == a.active) (s.tile x.1.bay).copies).map fun c => c.2.2.2
      ((s2.modLine k fun l => { l with fifo := l.fifo.map fun r => if r = x.1 then { r with bay := x.2 } else r }).bayTurn new x.2 k
        a.stn (act.getD a.active) 0).pump new) s

/-- What goes before a boundary: splices that wait, items that wait before sinks or for the parking store (R35, R393, R406). -/
def State.beforeFall (s : State) (k : Nat) (l : Line) : State :=
  let held := (l.order.map (stationKey k) ++ l.fifo.map fun r => bayKey r.bay).any fun u => s.spliceHeld k l u
  let s1 := l.sinks.foldl (fun s x => s.sinkResume k x.stn x.oq (x.wait.length + 1)) (if held then s.spliceHold k l else s)
  l.order.foldl (fun s n => s.unstick (stationKey k n)) s1

/-- A boundary that is due: it finds the line to be frozen, ends it at once, is deferred, or falls (R167, R174, R186,
R362, R412). -/
def State.boundary (s : State) (k : Nat) : State :=
  match s.line? k with
  | none => s
  | some l =>
    if l.freezeNext ∧ !l.tearing then (s.haltRuns l).modLine k fun l => { l with frozen := true, frozenAt := s.cycle, freezeNext := false }
    else if l.exitNow then s.now (.lineExit k)
    else
      let s0 := if l.fifo.any (·.loose) then s.admitRecords k else s
      match s0.line? k with
      | none => s0
      | some l =>
        if l.fifo.any (·.loose) then s0.modLine k fun l => { l with deferred := true }
        else
          let s1 := s0.beforeFall k l
          let (closed, lag) := s1.closures k l
          if !l.tearing ∧ (s1.freeBays l).length < lag.length then
            s1.modLine k fun l => { l with deferred := true, winOver := if l.deferred then l.winOver else l.winOver + 1 }
          else s1.fall k (match s1.line? k with | some x => x | none => l) closed lag

/-- Whether a line's boundaries fall: it runs and is not frozen or stopped (R186, R417). -/
def Line.beating (l : Line) : Bool := l.running && !l.exited && !l.frozen && !l.stopped

/-- Whether the next boundary of a line is due (R167). -/
def State.due (s : State) (l : Line) : Bool :=
  l.beating && !l.deferred && (if l.beats = 0 then decide (l.last < s.cycle) else decide (l.last + l.b ≤ s.cycle))

/-- LINE_BOUNDARY (R167 to R189). -/
def execLineBoundary (line : Nat) (s : State) : Out :=
  .next (match s.line? line with
    | none => s
    | some l => if s.due l then s.boundary line else s)

/-- DEFERRED_BOUNDARY: a line hold is tried again (R174). -/
def execDeferredBoundary (line : Nat) (s : State) : Out :=
  .next (match s.line? line with
    | none => s
    | some l => if l.beating ∧ l.deferred then s.boundary line else s)

/-- DEBUG_STOP: the line stops at a reconfiguration boundary at which it is empty (R417). -/
def execDebugStop (line : Nat) (s : State) : Out :=
  .next (match s.line? line with
    | none => s
    | some l =>
      if l.stopReq ∧ s.lineEmpty line l then s.modLine line fun l => { l with stopReq := false, stopped := true, frozenAt := s.cycle }
      else s)

end Sys2Proof.Machine
end

