-- ==== Sys2Proof/Machine/Link.lean ====
section
/-! DEFINITION. The Drauk link layer and the route table (R429, R430). What a flit says to or asks of another device is no
part of the spec's device-internal rules: the replies of other devices are free values. -/

namespace Sys2Proof.Machine

/-- Whether a 12-bit sequence number is acknowledged by the number that its receiver expects next
(notes/assumptions/33.md). -/
def acked (ack seq : BitVec 12) : Bool := 0 < (ack - seq).toNat && (ack - seq).toNat ≤ 1024

/-- Requests to other devices that are outstanding on a port, by the route table (R430). -/
def State.onPort (s : State) (p : Nat) (a : Access) : Bool :=
  a.stage = .sent && devOf a.pa != s.dev && a.pa != noAddress &&
    (Sparse.get s.mgmt.routes 0 (devOf a.pa)).toNat % 32 == p

/-- A port goes down (R429): its requests return E_LINK tokens, its route entries become invalid, and a management-log
record is written. -/
def State.dropPort (s : State) (p : Nat) : State :=
  let s1 := (s.accs.filter (s.onPort p)).foldl (fun s a => s.failAcc a .link Cause.port 0)
    (s.modPort p fun q => { q with
      up := false, replay := [], queue := [], acked := q.acked + q.replay.length + q.queue.length, fails := 0 })
  (s1.modMgmt fun m => { m with routes := m.routes.map fun e =>
    if e.2.toNat % 32 = p then (e.1, e.2 &&& 0x7FFF) else e }).logRec
    (logBlock (record s.dev { launchOrigin 0 with okind := 6 } .link Cause.port p))

/-- LINK_FRAME_RECEIVE (R429): a frame that fails its CRC, and every later one, is discarded; the next in order is taken,
and what it acknowledges leaves the replay buffer, which takes what has waited for room. -/
def execLinkFrameReceive (p : Nat) (seq ack : BitVec 12) (crcOk : Bool) (_flit : Blk) (s : State) : Out :=
  let q := s.port p
  .next (if 18 ≤ p ∨ !q.up ∨ s.mgmt.linkFrozen.contains (2 * p + 1) ∨ !crcOk ∨ seq ≠ q.recvSeq then s
    else
      let done := q.replay.filter fun f => acked ack f.1
      (((s.modPort p fun q => { q with
        recvSeq := q.recvSeq + 1
        replay := q.replay.filter fun f => !acked ack f.1
        acked := q.acked + done.length
        fails := if done = [] then q.fails else 0 }).linkMoved (2 * p + 1) 1).sendQueued p q.queue.length))

/-- LINK_RESEND (R429): the sender resends from the first frame that has not been acknowledged; after 8 consecutive failed
resends the port goes down. -/
def execLinkResend (p : Nat) (s : State) : Out :=
  let q := s.port p
  .next (if 18 ≤ p ∨ !q.up ∨ q.replay = [] then s
    else if 8 ≤ q.fails + 1 then s.dropPort p
    else s.modPort p fun q => { q with fails := q.fails + 1 })

/-- PORT_DOWN (R429): a loss of lock. -/
def execPortDown (p : Nat) (s : State) : Out := .next (if 18 ≤ p ∨ !(s.port p).up then s else s.dropPort p)

/-- LINK_RETRAIN (R429): a port that is down comes up again. -/
def execLinkRetrain (p : Nat) (s : State) : Out :=
  .next (if 18 ≤ p ∨ (s.port p).up then s else s.modPort p fun q => { Port.reset with acked := q.acked })

/-- ROUTE_ENTRY_EFFECT (R430): a write takes effect once every request sent under the old entry has been answered. -/
def execRouteEntryEffect (dev : Nat) (s : State) : Out :=
  .next (match Sparse.find? s.mgmt.routePend dev with
    | none => s
    | some e =>
      if s.accs.any fun a => a.stage = .sent && devOf a.pa == dev && a.pa != noAddress && dev != s.dev then s
      else s.modMgmt fun m => { m with routes := Sparse.set m.routes dev e, routePend := Sparse.del m.routePend dev })

end Sys2Proof.Machine
end

