-- ==== Sys2Proof/Machine/Eval.lean ====
section
/-! DEFINITION. The evaluation pool: the start of an evaluation, parking and waking (R112, R118, R119, R453). -/

namespace Sys2Proof.Machine

/-- The tile of a pool slot (R118). -/
def slotTile (die n : Nat) : Nat := 192 * die + (11 - n / 4 / 16) * 16 + n / 4 % 16

/-- The lowest free pool slot of a die (R119). -/
def State.freeSlot (s : State) (die : Nat) : Option Nat :=
  (List.range (4 * (s.die die).poolSize)).find? fun n => (Sparse.find? s.actors (evalKey die n)).isNone

/-- Whether an evaluation may fire or take a slot: no pre-emption stops its context, and its evaluations on the die are not
frozen (R126, R386). -/
def State.evalRuns (s : State) (die : Nat) (r : EvRec) : Bool :=
  match s.ctx? r.ctx with
  | some c => c.status == 1 && !c.frozenEval.contains die
  | none => false

/-- The evaluation that takes the next slot of a die: woken ones first, each kind in the order in which it became ready
(R119). -/
def State.nextEval (s : State) (die : Nat) : Option EvRec :=
  let rs := (s.die die).recs.filter fun r => r.place == .ready && s.evalRuns die r
  match rs.find? (·.woken) with
  | some r => some r
  | none => rs.head?

/-- A pool tile passes to another context: its L1 is written back and dropped, its scratchpad is scrubbed, and its matrix registers
and fs are as a context's first load leaves them (R55, R58, R312). -/
def State.poolTile (s : State) (tile ctx : Nat) : State :=
  if (s.tile tile).ctx = some ctx then s
  else (s.flushL1 tile).modTile tile fun t => { t with sp := [], m := [], a := [], pv := [], fs := 0, ctx := some ctx }

/-- The configurations of an evaluator at the places of a bank: 8 × bank + configuration. -/
def bankCfgs (t : Tile) (bank : Nat) (cs : Sparse Cfg) : Tile :=
  { t with cfgs := cs.foldl (fun m c => Sparse.set m (8 * bank + c.1) c.2) (t.cfgs.filter fun c => c.1 / 8 != bank) }

/-- The registers with which an evaluation starts (R112). R112 gives the values of g0..g3 alone: their format pair, (INT64, 127),
is the model's (DESIGN CHOICE, notes/assumptions/67.md). -/
def startBank (s : State) (die : Nat) (r : EvRec) : Bank :=
  let g (x : Word) : GReg := ⟨x, Pair.int64⟩
  { Bank.zero with g := [(0, g (s.hArg r.head)), (1, g (s.hSelf r.head)), (2, g (BitVec.ofNat 64 r.block)),
      (3, g (BitVec.ofNat 64 (r.evid + die * 2 ^ 16)))] }

/-- Whether an evaluation's fetch waits for the next walk of a migrating page (R35). -/
def State.evalHeld (s : State) (die evid : Nat) : Bool :=
  match Sparse.find? (s.die die).held (16 + evid) with
  | some c => (s.cycle - c) % Config.rewalkCycles != 0
  | none => false

/-- EVALUATION_START (R112, R119): the evaluator's stream is fetched and loaded, or the group is poisoned. -/
def execEvaluationStart (die : Nat) (evid : Nat) (s : State) : Out :=
  .next (match s.nextEval die, s.freeSlot die with
    | some r, some n =>
      if r.evid ≠ evid ∨ r.woken ∨ s.evalHeld die evid then s
      else
        match s.loadEval die r.ctx (s.hEval r.head) with
        | (s1, .error e) =>
          let migrates := e.toNat % 2 ^ 16 = 0x16 + 2 ^ 8 * Cause.migrationTimeout.toNat
          (match (if migrates then s1.holdFor die (16 + evid) (.evaluationStart die evid) else none) with
          | some s2 => s2
          | none => (s1.unhold die (16 + evid)).poisonGroup r.head e)
        | (s0, .ok t) =>
          let s1 := s0.unhold die (16 + evid)
          let tile := slotTile die n
          let b := n % 4
          let s2 := (s1.poolTile tile r.ctx).modTile tile fun x =>
            { bankCfgs x b t.cfgs with banks := Sparse.set x.banks b (startBank s1 die r) }
          (s2.setActor (evalKey die n) { Actor.idle with
            kind := .eval, ctx := r.ctx, tile := tile, bank := b, active := 8 * b, start := s.cycle }).modRec die evid fun r =>
              { r with place := .slot n, cfgs := t.cfgs }
    | _, _ => s)

/-- The accesses of an evaluation, and what they fire for, move with it. -/
def rekey (old new tile bank : Nat) (accs : List Access) : List Access :=
  accs.map fun a => if a.actor = old then
    { a with actor := new, fire := { a.fire with actor := new, tile := tile, bank := bank, cfg := 8 * bank + a.fire.cfg % 8 } } else a

/-- The evaluation's bank, unit and factor state, which is fs, are saved and its slot frees (R119); `place` says what its record is
marked. DESIGN CHOICE: the matrix registers are the tile's and stay there (R312; notes/assumptions/106.md). -/
def State.parkUnit (s : State) (die : Nat) (r : EvRec) (n : Nat) (place : Place) : State :=
  let key := evalKey die n
  let a := s.actor key
  let t := s.tile a.tile
  let s1 := { s with
    accs := rekey key (parkedKey die r.evid) a.tile a.bank s.accs
    actors := Sparse.del s.actors key }
  s1.modRec die r.evid fun r => { r with
    place := place, bank := t.bank a.bank, unit := some a, factor := t.fs }

/-- Whether an evaluation has a result pending other than the load that queues: its accesses that have begun, its results
and its factorisation (R119). -/
def State.evalPending (s : State) (key : Nat) (tile : Nat) : Bool :=
  s.results.any (fun r => r.fire.actor == key)
  || (match (s.tile tile).run with | some r => r.fire.actor == key | none => false)
  || s.accs.any fun a => a.actor == key && (match a.stage with
      | .walking | .sent | .answering => true
      | .waiting => !a.awaitsCell
      | _ => false)

/-- The evaluation of a record leaves its slot once every other result has been written (R119). -/
def State.park (s : State) (die evid : Nat) : State :=
  match (s.die die).recs.find? fun r => r.evid == evid with
  | some r =>
    match r.place with
    | .slot n =>
      let key := evalKey die n
      if r.queued.isNone then s
      else if s.evalPending key (s.actor key).tile then s.after 1 (.parking die evid)
      else s.parkUnit die r n .parked
    | _ => s
  | none => s

/-- PARKING (R114, R119, R123): the walks from the cells on which the evaluation has queued come first. -/
def execParking (die : Nat) (evid : Nat) (s : State) : Out :=
  .next (match (s.die die).recs.find? fun r => r.evid == evid with
    | some r => (s.walkCells die evid r.walks).park die evid
    | none => s)

/-- An evaluation returns to a slot as it left it (R119). -/
def State.unpark (s : State) (die : Nat) (r : EvRec) (n : Nat) (u : Actor) : State :=
  let tile := slotTile die n
  let b := n % 4
  let key := evalKey die n
  let s1 := (s.poolTile tile r.ctx).modTile tile fun x =>
    { bankCfgs x b r.cfgs with banks := Sparse.set x.banks b r.bank, fs := r.factor }
  let s2 := s1.setActor key { u with
    tile := tile, bank := b, active := 8 * b + u.active % 8
    reissue := u.reissue.map fun x => { x with fire := { x.fire with actor := key, tile := tile, bank := b, cfg := 8 * b + x.fire.cfg % 8 } }
    sleep := match u.sleep with
      | some (.job h f d t) => some (.job h { f with actor := key, tile := tile, bank := b, cfg := 8 * b + f.cfg % 8 } d t)
      | x => x }
  let s3 := { s2 with accs := rekey (parkedKey die r.evid) key tile b s2.accs }
  let still := s3.otherCell key s3.nextAcc
  let s4 := s3.modRec die r.evid fun r => { r with place := .slot n, woken := false, unit := none, queued := still }
  let s5 := if still.isSome then s4.after 1 (.parking die r.evid) else s4
  let done := (s5.accs.filter fun a => a.actor == key && decide (a.stage = .answering)).map (·.id)
  (done.foldl (fun s id => s.now (.answerDelivery id)) s5).pump key

/-- WAKING (R119): a woken evaluation takes a slot, where its load completes. -/
def execWaking (die : Nat) (evid : Nat) (s : State) : Out :=
  .next (match s.nextEval die, s.freeSlot die with
    | some r, some n =>
      match r.unit with
      | some u => if r.evid = evid ∧ r.woken then s.unpark die r n u else s
      | none => s
    | _, _ => s)

end Sys2Proof.Machine
end

