-- ==== Sys2Proof/Machine/Preempt.lean ====
section
/-! DEFINITION. Pre-emption and restore (R409 to R413, R126, R270, R370), the dispatch of the ready queue's first entry,
which may be a restore, and debug stops (R417). -/

namespace Sys2Proof.Machine

-- THE END OF A DRAIN (R409, R410)

/-- The lines of a context. -/
def State.linesOf (s : State) (c : Nat) : List (Nat × Line) := List.filter (fun l => l.2.ctx == c) s.lines

/-- Whether no item remains at a station, in a bay tile, in a FIFO or in a hold store (R409). -/
def State.drained (s : State) (k : Nat) (l : Line) : Bool :=
  l.fifo = [] && l.sinks.all (fun x => x.wait.isEmpty) && l.stns.all fun st =>
    let a := s.actor (stationKey k st.1)
    a.item.isNone && a.cancel.isNone && a.hold.isEmpty

/-- Whether a line's drain has ended; a frozen or stopped one does not drain (R409, R413). -/
def State.drainOver (s : State) (k : Nat) (l : Line) : Bool :=
  l.frozen || l.stopped || l.draining == some 0 || s.drained k l

/-- A RESTART rework begins again from its input and its snapshot; a run of its own that has been stopped is resumed no more (R340,
R410). -/
def State.restartBay (s : State) (key : Nat) : State :=
  let a := s.actor key
  let s := if a.reissue.isSome ∨ s.ownRun key then s.modTile a.tile Tile.unresume else s
  match a.item, a.snap with
  | some i, some p =>
    let es := a.retained ++ s.queued a i.desc.h.seq
    let s1 : State := { s with
      results := s.results.filter fun r => r.fire.actor != key
      accs := (s.accs.filter fun x => !(x.actor == key && decide (x.stage = Stage.buffered))).map fun x =>
        if x.actor = key then { x with discard := true } else x }
    (s1.setActor key { a with
      item := some ⟨i.desc, none, false, none, false, false, 0, i.limits⟩, hs := p.hs, seed := p.seed, k := 0, hold := [], retained := []
      rc := [], gpos := p.gpos, waveS := 0xFE, waveN := 0xFF, work := none, choice := Choice.none, sleep := none, reissue := none, drainBusy := 0 }).modTile
      a.tile fun t => { t with
        banks := p.banks.foldl (fun m (b : Nat × Bank) => Sparse.set m b.1 b.2) t.banks
        iq := (List.range 8).filterMap fun q =>
          match (es.filter fun (e : Nat × Entry) => e.1 == q).map (·.2) with | [] => none | x => some (q, x) }
  | _, _ => s

/-- A hard pre-emption of a line (R410): its factorisations stop at their step boundary, its RESTART reworks become their
input and snapshot, and a held boundary falls at once, its laggards becoming rework records. -/
def State.hardStop (s : State) (k : Nat) (l : Line) : State :=
  let s1 := s.haltRuns l
  let s2 := l.fifo.foldl (fun s r =>
    let key := bayKey r.bay
    let a := s.actor key
    let done : Bool := match a.item with | some i => i.record.isSome || i.handed | none => true
    if !done ∧ a.snap.isSome then s.restartBay key else s) s1
  if !l.deferred then s2
  else
    let (closed, lag) := s2.closures k (match s2.line? k with | some x => x | none => l)
    let free := (s2.freeBays l).length
    let s3 := ((lag.drop free).zip (List.range 64)).foldl (fun s x => s.shunt k x.1 (recordTile k x.2)) s2
    match s3.line? k with
    | some l' => s3.fall k l' closed (lag.take free)
    | none => s3

/-- A line's drain ends: it runs no more until its restore. -/
def State.stopDrained (s : State) (k : Nat) (l : Line) : State :=
  let s1 := if l.frozen ∨ l.stopped then s.haltRuns l else if s.drained k l then s else s.hardStop k l
  s1.modLine k fun l => { l with running := false }

/-- Whether an engine's stream stands between two elements: a row that has been read whole waits for its queue. -/
def Stream.between (t : Stream) : Bool :=
  if t.drain then t.rowBuf = [] else t.speculative || t.likely = [] || decide (t.fl ≤ t.likely.length)

/-- The streams of a context that have not ended, by die and engine. -/
def State.streamsOf (s : State) (c : Nat) : List (Nat × Nat × Stream) :=
  List.flatMap (fun (d : Nat × Die) => List.filterMap (fun (e : Nat × Edge) =>
    match e.2.stream with
    | some t => if t.ctx = c ∧ t.state = 0 then some (d.1, e.1, t) else none
    | none => none) d.2.edges) s.dies

/-- The jobs of a context with a status. -/
def State.jobsWith (s : State) (c st : Nat) : List Job :=
  List.flatMap (fun (d : Nat × Die) => List.flatMap (fun (e : Nat × Copier) =>
    e.2.jobs.filter fun j => j.ctx == c && j.status == st) d.2.copiers) s.dies

/-- Whether an engine's access waits on a cell. -/
def State.engineWaits (s : State) (key : Nat) : Bool :=
  s.accs.any fun a => a.actor == key && decide (a.stage = .waiting) && a.awaitsCell

/-- Whether nothing of a stopped context is still on its way: requests, results, trap records, running jobs, elements of
streams, flits between tiles, changes of configuration. What waits on a cell or at an object is not on its way (R126, R270, R413). -/
def State.quiet (s : State) (c : Nat) : Bool :=
  let ls := s.linesOf c
  let tiles := ls.flatMap fun l => l.2.region_
  let own (key : Nat) : Bool := match Sparse.find? s.actors key with | some a => a.ctx == c | none => false
  s.accs.all (fun a => a.ctx != c || launchKey 0 ≤ a.actor && a.actor < 200000 || (match a.stage with
    | .walking | .sent => false
    | .answering => decide (200000 ≤ a.actor)
    | _ => true))
  && s.results.all (fun r => !own r.fire.actor)
  && tiles.all (fun t => (s.tile t).moves.isEmpty)
  && s.traps.all (fun t => t.ctx != c)
  && (s.jobsWith c 1).isEmpty
  && (s.streamsOf c).all (fun x =>
    let key := engineKey x.1 x.2.1
    (x.2.2.between && !s.engineBusy key) || s.engineWaits key)
  && s.flights.all (fun f => !tiles.contains f.tile)
  && List.all s.actors (fun a => a.2.ctx != c || a.2.switchTo.isNone)

-- THE SAVE (R411)

/-- Blocks of a section with its header block. -/
def sectionSize (n : Nat) : Nat := n + 1

/-- SAVE_SIZE in blocks (R411): what the spec counts, and for what it does not, one block per flit, header, unit record,
wait, sleep and job card (notes/assumptions/34.md). -/
def State.saveSize (s : State) (c : Nat) : Nat :=
  let ls := s.linesOf c
  let tiles := (ls.flatMap fun l => l.2.region_).eraseDups
  let qs := (tiles.map fun t => ((s.tile t).iq.map fun q => sectionSize (q.2.length + headerFlits none 0 q.2)).sum).sum
  let holds := (List.map (fun (a : Nat × Actor) => if a.2.ctx = c ∧ a.2.hold ≠ [] then sectionSize a.2.hold.length else 0) s.actors).sum
  let recs := (ls.map fun l => (l.2.fifo.map fun r =>
    let a := s.actor (bayKey r.bay)
    sectionSize (a.retained.length + a.hold.length + 77)).sum).sum
  let parked := (List.map (fun (d : Nat × Die) =>
    let ps := d.2.parked.filter fun p => ls.any fun l => l.1 == p.dest / 512
    ((ps.map (·.dest)).eraseDups.map fun t =>
      sectionSize ((ps.filter fun p => p.dest == t).map fun p => p.desc.flits.length + 1).sum).sum) s.dies).sum
  let sleeps := (List.filter (fun (a : Nat × Actor) => a.2.ctx == c && a.2.sleep.isSome) s.actors).length
  let waits := (s.accs.filter fun a => a.ctx == c).length + sleeps
  let jobs := 4 * (s.jobsWith c 0).length
  let evals := (List.map (fun (d : Nat × Die) => 21 * (d.2.recs.filter fun r => r.ctx == c).length) s.dies).sum
  1 + sectionSize 400 + 9 * ls.length + 14483 * tiles.length + qs + holds + recs + parked
    + (if waits = 0 ∧ jobs = 0 then 0 else sectionSize (waits + jobs)) + evals

/-- The header block of a save area (R411); what it seals is the sections, whose bytes are the device's own. -/
def State.areaHeader (s : State) (c n : Nat) : Blk :=
  let base := 1 + at_ c 8 8 + at_ n 16 48
  let text := Config.areaText s.fresh
  if s.isConf c then
    let nonce := (Config.freeWord s.fresh).toNat
    let tag := (Config.gcmSeal (deriveKey (s.secret c) c labelSave 32) nonce 0 text).toNat
    BitVec.ofNat 512 (base + at_ nonce 64 64 + at_ tag 128 128)
  else BitVec.ofNat 512 (base + at_ (Config.shake256 (64 * n) text).toNat 256 256)

/-- A factorisation of the evaluation in a pool slot stops at its step boundary (R126). -/
def State.stopEvalRun (s : State) (die n : Nat) : State :=
  let tile := slotTile die n
  match (s.tile tile).run with
  | some r => if r.fire.actor = evalKey die n then s.stopRun tile true else s
  | none => s

/-- The factorisations of a context's evaluations stop (R126). -/
def State.stopEvals (s : State) (c : Nat) : State :=
  List.foldl (fun (s : State) (d : Nat × Die) =>
    (d.2.recs.filter fun r => r.ctx == c).foldl (fun s r =>
      match r.place with
      | .slot n => s.stopEvalRun d.1 n
      | _ => s) s) s s.dies

/-- The evaluations of a context leave their slots and are marked SAVED; waits on cells are withdrawn (R126). -/
def State.saveEvals (s : State) (c : Nat) : State :=
  List.foldl (fun (s : State) (d : Nat × Die) =>
    (d.2.recs.filter fun r => r.ctx == c).foldl (fun s r =>
      match r.place with
      | .slot n => (s.stopEvalRun d.1 n).parkUnit d.1 r n .saved
      | _ => s.modRec d.1 r.evid fun r => { r with place := .saved }) s) s s.dies

/-- A wait as the request that it was: it joins again when it is re-issued (R126, R270). -/
def Access.reissued (a : Access) : Access :=
  if a.stage = .waiting then { a with
    stage := .accepted, leaf := none, pa := noAddress, aux := 0, heldAt := 0, holds := false, look := none
    c := if a.awaitsCell then 0 else a.c
    b := match a.op with | .barr .. => BitVec.ofNat 64 (a.aux + 1) | _ => a.b }
  else a

/-- The accesses of a context that have not been performed, as they are re-issued: waits at objects and cells are removed
(R126, R270). An engine makes the access of its stream again itself. -/
def State.saveAccs (s : State) (c : Nat) : State × List Access :=
  let mine := s.accs.filter fun a => a.ctx == c && (a.actor < hostKey || 200000 ≤ a.actor)
  let waits := mine.filter fun a => a.stage = .waiting && a.awaitsCell
  let s1 := waits.foldl (fun s a => s.dropWaiter a (s.groupOf (paOf a.pa)).1) s
  ({ s1 with accs := s1.accs.filter fun a => !(mine.any fun x => x.id == a.id) },
    (mine.filter fun a => !a.discard && !(decide (65536 ≤ a.actor) && decide (a.actor < hostKey))).map Access.reissued)

/-- The blocks of an area are the device's own: what they held before is gone. -/
def State.clearArea (s : State) (area n : Nat) : State :=
  let lo := area
  let hi := area + 64 * n
  { s with
    mem := s.mem.filter fun x => x.1 < lo || hi ≤ x.1
    sides := outside s.sides (lo / 64) (hi / 64)
    keyed := outside s.keyed (lo / 64) (hi / 64)
    errs := outside s.errs (lo / 64) (hi / 64)
    l2 := outside s.l2 (lo / 64) (hi / 64) }

/-- FENCE at L5 on both sides for every tile of a context, the pool tiles of its evaluations among them, and no line of the RDCs
that it filled is left (R147). -/
def State.fenceAll (s : State) (c : Nat) : State :=
  let pool := (List.filter (fun (t : Nat × Tile) => t.2.ctx == some c) s.tiles).map (·.1)
  let s1 := (((s.linesOf c).flatMap fun l => l.2.region_) ++ pool).eraseDups.foldl (fun s t => s.flushL1 t) s
  List.foldl (fun (s : State) (d : Nat × Die) => (rdcKeys d.2 fun _ l => l.ctx == c).foldl (fun s k => s.dropRdc d.1 k) s) s1 s1.dies

/-- A context's state is written to its save area and leaves the device (R409, R411). DESIGN CHOICE: the header block, whose fields
the host may read, stands there under key id 0 (R420; notes/assumptions/34.md). -/
def State.save (s : State) (c : Nat) : State :=
  let n := s.saveSize c
  let area := s.mgmt.pre1.toNat
  let (s1, accs) := ((s.fenceAll c).saveEvals c).saveAccs c
  let ls := s1.linesOf c
  let keys := ls.map (·.1)
  let tiles := (ls.flatMap fun l => l.2.region_).eraseDups ++ (ls.flatMap fun l => (l.2.fifo.filter (·.loose)).map (·.bay))
  let mine (a : Nat × Actor) : Bool := a.1 < 32768 && a.2.ctx == c && keys.contains a.2.line
  let head := s1.areaHeader c n
  let v : Saved := {
    ctx := c, area := area, size := n, since := s1.cycle, lines := ls, actors := List.filter mine s1.actors
    tiles := tiles.map fun t => (t, s1.tile t)
    accs := accs, jobs := s1.jobsWith c 0, streams := s1.streamsOf c
    parked := List.flatMap (fun (d : Nat × Die) => (d.2.parked.filter fun p => keys.contains (p.dest / 512)).map fun p => (d.1, p)) s1.dies
    bins := List.flatMap (fun (d : Nat × Die) => (List.filter (fun (b : Nat × BitVec 32) => b.1 / 1024 == c) d.2.bins).map fun b => (d.1, b.1, b.2)) s1.dies
    header := head }
  let s2 : State := { s1 with
    saved := s1.saved ++ [v]
    lines := List.filter (fun l => l.2.ctx != c) s1.lines
    actors := List.filter (fun a => !mine a) s1.actors
    tiles := List.filter (fun t => !(tiles.contains t.1)) s1.tiles
    graphs := s1.graphs.map fun g => if g.2.ctx = c then (g.1, { g.2 with swapped := true }) else g
    dies := List.map (fun (d : Nat × Die) => (d.1, { d.2 with
      parked := d.2.parked.filter fun p => !keys.contains (p.dest / 512)
      bins := List.filter (fun b => b.1 / 1024 != c) d.2.bins
      edges := List.map (fun (e : Nat × Edge) => match e.2.stream with
        | some t => if t.ctx = c ∧ t.state = 0 then (e.1, { e.2 with stream := none }) else e
        | none => e) d.2.edges
      copiers := List.map (fun (e : Nat × Copier) => (e.1, { e.2 with jobs := e.2.jobs.filter fun j => !(j.ctx == c && j.status == 0) })) d.2.copiers })) s1.dies }
  let s3 := (s2.clearArea area n).putBlock 0 area ⟨head, Side.plain⟩
  ((s3.drew.modCtx c fun x => { x with status := 3 }).modMgmt fun m => { m with
    areas := m.areas.filter (fun a => a.1 != area) ++ [(area, n)]
    pre0 := BitVec.ofNat 64 (m.pre0.toNat % 2 ^ 63) })

/-- PREEMPT_DRAIN_END (R409, R410, R413): lines whose drain has ended stop; when all have, and nothing is on its way, the
context is saved. -/
def execPreemptDrainEnd (ctx : Nat) (s : State) : Out :=
  .next (match s.ctx? ctx with
    | none => s
    | some c =>
      if c.status ≠ 2 then s
      else
        let s1 := (s.linesOf ctx).foldl (fun s l => if l.2.running ∧ s.drainOver l.1 l.2 then s.stopDrained l.1 l.2 else s) s
        if List.any s1.lines fun l => l.2.ctx == ctx && l.2.running then s1
        else if s1.quiet ctx then s1.save ctx
        else s1.after 1 (.preemptDrainEnd ctx))

/-- PRE_CMD_PREEMPT (R126, R409, R426): the context's evaluations stop where they are and its lines drain; a command with a bad
field, or for a context that is not running, is discarded and counted; one during a pre-emption is ignored (R413). -/
def execPreCmdPreempt (w0 : Word) (s : State) : Out :=
  let c := w0.toNat / 2 ^ 8 % 2 ^ 8
  let area := s.mgmt.pre1.toNat
  let running : Bool := match s.ctx? c with | some x => x.status == 1 | none => false
  .next (
    if s.mgmt.pre0.getLsbD 63 then s
    else if w0.toNat % 4 ≠ 1 ∨ w0.toNat / 4 % 2 ^ 6 ≠ 0 ∨ w0.toNat / 2 ^ 32 % 2 ^ 31 ≠ 0 ∨ area / 2 ^ 46 ≠ 0 ∨ area % 4096 ≠ 0
        ∨ !running then s.strayed
    else
      let limit := w0.toNat / 2 ^ 16 % 2 ^ 16
      let s1 := ((s.stopEvals c).modCtx c fun x => { x with status := 2 }).modMgmt fun m => { m with
        pre0 := BitVec.ofNat 64 (w0.toNat % 2 ^ 63 + 2 ^ 63) }
      ({ s1 with lines := List.map (fun (l : Nat × Line) => if l.2.ctx = c then (l.1, { l.2 with draining := some limit }) else l) s1.lines }).now
        (.preemptDrainEnd c))

-- RESTORE (R412)

/-- Where a saved line goes: its former key and what it was, and its new spot. -/
structure Move where
  key : Nat
  line : Line
  spot : Spot

/-- The new key of a line. -/
def Move.newKey (m : Move) : Nat := 48 * m.line.die + m.spot.region

/-- The new place of a tile. -/
def moveTile (ms : List Move) (t : Nat) : Nat :=
  if 1024 ≤ t then
    match ms.find? fun m => recordTile m.key 0 ≤ t && t < recordTile m.key 64 with
    | some m => t - recordTile m.key 0 + recordTile m.newKey 0
    | none => t
  else
    match ms.find? fun m => m.line.region_.contains t with
    | some m => 192 * m.line.die + (m.spot.y0 + (t % 192 / 16 - m.line.y0)) * 16 + m.spot.x0 + (t % 16 - m.line.x0)
    | none => t

/-- The new key of a line. -/
def moveLine (ms : List Move) (k : Nat) : Nat := match ms.find? fun m => m.key == k with | some m => m.newKey | none => k

/-- The new key of a station or a bay tile. -/
def moveKey (ms : List Move) (key : Nat) : Nat :=
  if key < 16384 then moveLine ms (key / 64) * 64 + key % 64
  else if key < 32768 then bayKey (moveTile ms (key - 16384)) else key

/-- A firing at its new place. -/
def moveFire (ms : List Move) (f : Firing) : Firing := { f with tile := moveTile ms f.tile, actor := moveKey ms f.actor }

/-- An item's sender at its new place. -/
def moveDesc (ms : List Move) (d : Desc) : Desc := { d with sender := moveKey ms d.sender }

/-- A unit at its new place; the time off the device does not count (R186). -/
def moveActor (ms : List Move) (away : Nat) (a : Actor) : Actor := { a with
  line := moveLine ms a.line, tile := moveTile ms a.tile, start := a.start + away
  arrive := a.arrive.map fun q => (q.1, q.2.map (moveDesc ms))
  stuck := a.stuck.map fun x => (x.1, moveDesc ms x.2.1, x.2.2)
  reissue := a.reissue.map fun x => { x with fire := moveFire ms x.fire }
  sleep := match a.sleep with
    | some (.job h f d t) => some (.job h (moveFire ms f) d t)
    | x => x }

/-- The REGION of a tile's configurations and the keys that it holds, at its new place (R217). -/
def moveTileState (ms : List Move) (t : Tile) : Tile := { t with
  cfgs := t.cfgs.map fun c => (c.1,
    match ms.find? fun m => c.2.valid && c.2.region == m.line.region with
    | some m => { c.2 with stn := BitVec.ofNat 64 (c.2.stn.toNat - at_ c.2.region 18 6 + at_ m.spot.region 18 6) }
    | none => c.2)
  out := t.out.map fun o => { o with actor := moveKey ms o.actor }
  bay := t.bay.map (moveLine ms)
  copies := t.copies.map fun c => (c.1, moveLine ms c.2.1, c.2.2.1, c.2.2.2)
  l1 := [], tlb := [] }

/-- A line at its new place: its next boundary falls in its first running cycle, or is deferred while a rework record has
no bay tile (R412). -/
def State.moveLineState (s : State) (ms : List Move) (m : Move) : Line :=
  let l := m.line
  { l with
    region := m.spot.region, x0 := m.spot.x0, y0 := m.spot.y0
    bay := l.bay.map (moveTile ms)
    stns := l.stns.map fun st => (st.1, moveTile ms st.2)
    fifo := l.fifo.map fun r => { r with bay := moveTile ms r.bay }
    sinks := l.sinks.map fun x => { x with
      store := x.store.map (moveDesc ms), out := x.out.map (moveDesc ms), wait := x.wait.map (moveDesc ms) }
    sucPend := l.sucPend.map fun w => (moveTile ms w.1, w.2)
    sucCfgs := l.sucCfgs.map fun w => (moveTile ms w.1, w.2)
    draining := none, running := true, last := s.cycle - l.b, frozenAt := s.cycle }

/-- A line-table entry of the size of a saved line, that shares the rectangle of an earlier line where it did (R379). -/
def savedEnt (ls : List Line) (i : Nat) (l : Line) : LineEnt :=
  ⟨l.w, l.h, [], (List.range i).find? (fun j => match ls[j]? with | some o => o.x0 == l.x0 && o.y0 == l.y0 | none => false),
    0, 0, 0, 0, 0, none, 0, 0, 0, none, none⟩

/-- The places of a context's lines, die by die, or none (R380). -/
def State.restorePlaces (s : State) (v : Saved) : Option (List Move) :=
  (List.range 4).foldl (fun acc die =>
    let mine := v.lines.filter fun l => l.2.die == die
    match acc, s.findPlaces die false ((mine.map (·.2)).mapIdx (savedEnt (mine.map (·.2)))) with
    | some ms, some sps => some (ms ++ (mine.zip sps).map fun x => ⟨x.1.1, x.1.2, x.2⟩)
    | _, _ => none) (some [])

/-- Whether the engines of the saved streams are free: a stream's handle names its engine. -/
def State.enginesFree (s : State) (v : Saved) : Bool := v.streams.all fun x => (s.edge x.1 x.2.1).free

/-- The blocks of a save area that hold errors are read: one of up to two bytes is corrected, and a larger one fails the digest or
the tag, as a block that reads as another does (R26, R28, R411). -/
def State.readArea (s : State) (v : Saved) : State × Bool :=
  let inside (p : Nat) : Bool := decide (v.area / 64 ≤ p) && decide (p < v.area / 64 + v.size)
  let key := match s.ctx? v.ctx with | some x => x.key | none => 0
  let ps := (List.map (·.1) s.errs ++ List.map (·.1) (List.filter (fun k => k.2.bad) s.l2)).filter inside
  ps.foldl (fun x p =>
    let few : Bool := (Sparse.get x.1.errs [] p).length ≤ 2
    let (s1, b) := x.1.readHome (x.1.keyOf (if p = v.area / 64 then 0 else key) (64 * p)) (64 * p)
    (s1, x.2 && few && b.isSome)) (s, true)

/-- Whether a save area is as it was written (R411). -/
def State.areaIntact (s : State) (v : Saved) : Bool :=
  s.peek 0 v.area == ⟨v.header, Side.plain⟩
  && s.mgmt.areas.contains (v.area, v.size)
  && List.all s.keyed (fun k => k.1 ≤ v.area / 64 || v.area / 64 + v.size ≤ k.1)

/-- A channel whose version names a saved line's former place has the new one installed (R391, R412). -/
def State.moveChans (s : State) (c : Nat) (ms : List Move) : State :=
  match s.ctx? c with
  | none => s
  | some x =>
    List.foldl (fun (s : State) (ch : Nat × Chan) =>
      match (match ch.2.next with | some p => some p | none => ch.2.cur) with
      | some p =>
        (match ms.find? fun m => p.device == s.dev && m.key == 48 * p.die + p.region with
        | some m => s.writeChan c ch.1 (some { p with region := m.spot.region, from_ := 0 })
        | none => s)
      | none => s) s x.chans

/-- The context returns to the device (R412): lines, tiles, units, waits, cards, streams, parked items. -/
def State.bringBack (s : State) (v : Saved) (ms : List Move) : State :=
  let c := v.ctx
  let away := s.cycle - v.since
  let s1 : State := { s with saved := s.saved.filter fun x => x.ctx != c }
  let s2 := (v.tiles.filter fun t => t.1 < 1024).foldl (fun s t => s.flushL1 (moveTile ms t.1)) s1
  let s3 := v.tiles.foldl (fun s t => s.setTile (moveTile ms t.1) (moveTileState ms t.2)) s2
  let s4 : State := { s3 with
    lines := ms.foldl (fun m x => Sparse.set m x.newKey (s3.moveLineState ms x)) s3.lines
    actors := v.actors.foldl (fun m a => Sparse.set m (moveKey ms a.1) (moveActor ms away a.2)) s3.actors
    graphs := s3.graphs.map fun g => if g.2.ctx = c then (g.1, { g.2 with lines := g.2.lines.map (moveLine ms), swapped := false }) else g
    accs := s3.accs ++ v.accs.map fun a => { a with actor := moveKey ms a.actor, fire := moveFire ms a.fire } }
  let s5 := ms.foldl (fun (s : State) m => s.modLine m.newKey fun l => { l with deferred := l.deferred || l.fifo.any (·.loose) }) s4
  let s6 := v.jobs.foldl (fun (s : State) j => (s.modCopier j.die j.engine fun e => { e with
    jobs := e.jobs ++ [{ j with line := j.line.map (moveLine ms) }] }).now (.jobStart j.die j.engine)) s5
  let s7 := v.streams.foldl (fun (s : State) x =>
    (s.setStream x.1 x.2.1 { x.2.2 with line := moveLine ms x.2.2.line, tile := moveTile ms x.2.2.tile }).now (.streamElement x.1 x.2.1)) s6
  let s8 := v.bins.foldl (fun (s : State) b => s.modDie b.1 fun d => { d with bins := Sparse.set d.bins b.2.1 b.2.2 }) s7
  let ps := v.parked.map fun p => (p.1, { p.2 with dest := moveLine ms (p.2.dest / 512) * 512 + p.2.dest % 512, desc := moveDesc ms p.2.desc })
  let s9 := ps.reverse.foldl (fun (s : State) p => (s.modDie p.1 fun d => { d with parked := p.2 :: d.parked }).now (.parkedDelivery p.1 p.2.dest)) s8
  let s10 : State := { s9 with dies := List.map (fun (d : Nat × Die) => (d.1, { d.2 with recs := d.2.recs.map fun r =>
    if r.ctx = c ∧ r.place = .saved then { r with place := .ready, woken := r.unit.isSome, queued := none } else r })) s9.dies }
  let s11 := (s10.moveChans c ms).modCtx c fun x => { x with status := 1 }
  let s12 := v.accs.foldl (fun (s : State) a =>
    match s.acc? a.id with
    | some a => if a.actor < 32768 ∧ a.stage = .accepted ∧ s.mayStart a then s.startAcc a else s
    | none => s) s11
  v.actors.foldl (fun s a => s.pump (moveKey ms a.1)) s12

/-- A restore that the ready queue dispatches (R411, R412): refused when the area does not verify; it waits in the queue until its
lines find places. -/
def State.restore (s : State) (die : Nat) (r : Ready) : State :=
  match s.saved.find? fun v => v.ctx == r.ctx with
  | none => (s.dropReady die r).restoreOver
  | some v =>
    let (s, ok) := s.readArea v
    if !ok ∨ !s.areaIntact v then ((s.dropReady die r).modCtx r.ctx fun x => { x with status := 3 }).restoreOver
    else if !s.enginesFree v then s
    else
      match s.restorePlaces v with
      | none => s
      | some ms => ((s.dropReady die r).bringBack v ms).restoreOver

/-- PRE_CMD_RESTORE (R412, R426): a restore of a context that is not saved is discarded and counted. -/
def execPreCmdRestore (w0 : Word) (s : State) : Out :=
  let c := w0.toNat / 2 ^ 8 % 2 ^ 8
  let area := s.mgmt.pre1.toNat
  .next (
    if s.mgmt.pre0.getLsbD 63 then s
    else
      match s.saved.find? fun v => v.ctx == c && v.area == area with
      | some v =>
        if w0.toNat % 4 ≠ 2 ∨ w0.toNat / 4 % 2 ^ 6 ≠ 0 ∨ w0.toNat / 2 ^ 32 % 2 ^ 31 ≠ 0 then s.strayed
        else
          let (die, k) : Nat × Nat := match v.lines with | l :: _ => (l.2.die, l.1) | [] => (0, 0)
          ((s.modCtx c fun x => { x with status := 4 }).modMgmt fun m => { m with
            pre0 := BitVec.ofNat 64 (w0.toNat % 2 ^ 63 + 2 ^ 63) }).askRestore c die k
      | none => s.strayed)

-- DISPATCH

/-- DISPATCH (R377 to R382, R396, R412): the ready queue's first entry. -/
def execDispatch (die : Nat) (s : State) : Out :=
  .next (match s.readyFirst die with
    | none => s
    | some r =>
      if r.cancelled then s.dispatchCancelled die r
      else if r.restore then s.restore die r
      else
        match r.task with
        | some va => (s.unhold die 1).dispatchTask die r va
        | none =>
          match s.readCode die r.ctx (s.isConf r.ctx) false (BitVec.ofNat 64 (fld r.record 128 64)) (fld r.record 24 4) with
          | (s1, .ok code) => (s1.unhold die 1).launch die r r.record code
          | (s1, .error .wait) =>
            match s1.holdFor die 1 (.dispatch die) with
            | some s2 => s2
            | none => ((s1.unhold die 1).dropReady die r).refuseLaunch die r.record lcCode
          | (s1, .error (.refuse cause _)) => (s1.dropReady die r).refuseLaunch die r.record cause)

-- DEBUG STOPS (R417, R423)

/-- The line that STOP_CMD names. -/
def State.stopLine (v : Word) : Nat := 48 * (v.toNat / 2 ^ 8 % 4) + v.toNat % 2 ^ 6

/-- STOP_REQUEST (R417): refused for a confidential context's line. -/
def execStopRequest (v : Word) (s : State) : Out :=
  let k := State.stopLine v
  .next (match s.line? k with
    | some l => if 48 ≤ v.toNat % 2 ^ 6 ∨ s.isConf l.ctx then s.strayed else s.modLine k fun l => { l with stopReq := true }
    | none => s.strayed)

/-- STOP_RESUME (R417): the line goes on where it stopped; a stop that is pending is taken back. -/
def execStopResume (v : Word) (s : State) : Out :=
  let k := State.stopLine v
  .next (match s.line? k with
    | some l =>
      if 48 ≤ v.toNat % 2 ^ 6 then s.strayed
      else
        s.modLine k fun y => { y with
          stopReq := false, stopped := false, last := if l.stopped then y.last + (s.cycle - l.frozenAt) else y.last }
    | none => s.strayed)

end Sys2Proof.Machine
end

