-- ==== Sys2Proof/Machine/Home.lean ====
section
/-! DEFINITION. What an access does at its home, or at the unit that performs it (R60 to R66, R102, R264 to R285, R344 to
R357), the delivery of its answer (R68, R285), the expiry of latencies (R234) and the remote timeout (R415). -/

namespace Sys2Proof.Machine

-- LOADS AND STORES AT HOME

/-- Whether an access is one of a LIKELY stream that has not been committed (R347). -/
def State.speculates (s : State) (a : Access) : Bool :=
  decide (65536 ≤ a.actor) && decide (a.actor < hostKey) && decide ((a.actor - 65536) % 48 < 32) &&
  (match s.edgeStream ((a.actor - 65536) / 48) ((a.actor - 65536) % 48) with
    | some t => t.speculative
    | none => false)

/-- A copy that keeps the sidecar reads its block (R102): a block other than PLAIN is read with its tag and cached
nowhere. -/
def State.homeCopy (s : State) (a : Access) : State :=
  match s.readAt a.pol a.key (paOf a.pa) with
  | (s1, none) => s1.failAcc a .uncorrectable 0 0
  | (s1, some b) =>
    if b.side.tag = tagEvaluating then s1.refuse a Cause.cellTag
    else if b.side.tag = tagPlain then
      let (s2, x, p) := s1.install a b
      s2.copyAnswer a x p tagPlain
    else s1.copyAnswer a b.data ⟨b.side.fmt, b.side.scale⟩ b.side.tag

/-- A load at home: a value read (R102). Only a PLAIN block enters a cache (R56, R65, R125). -/
def State.homeLoad (s : State) (a : Access) : State :=
  if s.speculates a ∧ (s.side (paOf a.pa)).tag ≠ tagPlain then s.refuse a Cause.cellTag
  else if a.preserves then s.homeCopy a
  else
    let (s1, r) := s.valueRead a.pol a.ctx a.leaf a.va (paOf a.pa)
    match r with
    | .block b =>
      if b.side.tag = tagPlain then
        let (s2, x, p) := s1.install a b
        s2.loadAnswer a x p
      else s1.loadAnswer a b.data ⟨b.side.fmt, b.side.scale⟩
    | .token e c d => s1.failAcc a e c d
    | .given r => s1.answer a.id (failAns a.op ⟨r, true⟩)
    | .touch => s1.now (.firstTouch a.id)
    | .join => s1.now (.waiterJoin a.id)

/-- PREF at home: it is dropped on any tag but PLAIN, and brings the block into the home's L2 under every policy (R267). -/
def State.homePref (s : State) (a : Access) : State :=
  match s.readAt (if a.pol = .uncached then .homeOnly else a.pol) a.key (paOf a.pa) with
  | (s1, some b) => (if b.side.tag = tagPlain then (s1.install a b).1 else s1).answer a.id Answer.none
  | (s1, none) => s1.answer a.id Answer.none

/-- What the requester's die and tile hold of a block takes a store that has been performed at its home: a line of the RDC, and one of
the L1, which another station of the tile may have filled meanwhile (R64, R139, R152). -/
def State.touchCaches (s : State) (a : Access) (x : Blk) (m : BitVec 64) : State :=
  let k := lineKey a.key a.pa
  let s1 := match (if s.localTo a.die a.pa then none else Sparse.find? (s.die a.die).rdc k) with
    | some r => s.modDie a.die fun d => { d with rdc := Sparse.set d.rdc k (r.refresh x m a.newPair) }
    | none => s
  match s1.l1Of a k with
  | some l => s1.modTile a.tile fun t => { t with l1 := Sparse.set t.l1 k (l.refresh x m a.newPair) }
  | none => s1

/-- A store that allocates: a line with the written bytes, which are dirty, and nothing read, in the L1, or in the RDC for an
engine's remote block (R57, R64). -/
def State.storeAllocate (s : State) (a : Access) : State :=
  let k := lineKey a.key a.pa
  let (x, m) := a.bytes
  let wr (l : Option CLine) : CLine := { (l.getD (CLine.fresh a.key a.ctx a.imm)).write x m a.newPair with owner := a.actor }
  (if a.hasL1 then s.setL1 a.tile k (wr (s.l1Of a k))
   else s.setRdc a.die k (wr (Sparse.find? (s.die a.die).rdc k))).answer a.id Answer.none

/-- A whole block is stored with a sidecar of its own, over a block that is PLAIN or POISONED; the lines of the L1 and of the RDC go,
written back (R102, R264, R350). -/
def State.storeBlock (s : State) (a : Access) (b : Block) : State :=
  let k := lineKey a.key a.pa
  let s0 := if a.hasL1 then s.dropL1 a.tile k else s
  match (if s0.localTo a.die a.pa then s0 else s0.dropRdc a.die k).readAt a.pol a.key (paOf a.pa) with
  | (s1, none) => s1.failAcc a .uncorrectable 0 0
  | (s1, some old) =>
    if old.side.tag = tagPlain ∨ old.side.tag = tagPoisoned then
      (s1.putAt a.pol a.key (paOf a.pa) b).answer a.id Answer.none
    else s1.refuse a Cause.cellTag

/-- A store at home (R57, R64, R102, R264): a token as its data poisons the block; a copy that keeps sidecars writes its own.
A store that a cache allocates reads nothing but the tag. -/
def State.homeStore (s : State) (a : Access) : State :=
  let pa := paOf a.pa
  if a.data.isTok then s.storeBlock a (poisoned (a.data.val.setWidth 256))
  else if a.preserves then s.storeBlock a ⟨a.data.val, ⟨a.data.pair.fmt, a.data.pair.scale, a.copyTag⟩⟩
  else if a.cached ∧ (s.side pa).tag = tagPlain ∧ (a.hasL1 ∨ !s.localTo a.die a.pa) then s.storeAllocate a
  else
    let (x, m) := a.bytes
    match s.homeWrite a.pol a.key pa x m a.newPair with
    | (s1, none) => (s1.touchCaches a x m).answer a.id Answer.none
    | (s1, some (.permission, c)) => s1.refuse a c
    | (s1, some (e, c)) => s1.failAcc a e c 0

-- THE CONTROL OBJECT (R386, R425)

/-- The command of a value that has been released to a context's control object: bad fields are ignored. -/
def State.ctrlCommand (s : State) (c v : Nat) : State :=
  let kind := v / 2 ^ 8 % 2 ^ 8
  let index := v / 2 ^ 16 % 2 ^ 16
  let die := v / 2 ^ 32 % 4
  if v / 2 ^ 34 ≠ 0 then s
  else
    match v % 2 ^ 8 with
    | 1 => if 1 ≤ kind ∧ kind ≤ 3 then s.now (.ctrlThaw c (BitVec.ofNat 8 kind) index (BitVec.ofNat 2 die).toFin) else s
    | 2 => if v / 2 ^ 8 = 0 then s.now (.ctrlTeardown c) else s
    | 3 => if v / 2 ^ 8 = 0 then s.now (.ctrlInvalidate c) else s
    | _ => s

/-- The contexts whose control object lies at an address: a FLAG that the supervisor has created (R386). -/
def State.controlled (s : State) (supv pa : Nat) : List Nat :=
  (List.filter (fun (c : Nat × Ctx) => c.2.supv == supv && c.2.ctrl.getLsbD 63 &&
    s.names c.2.supv (c.2.ctrl &&& 0x000FFFFFFFFFFFFF) pa) s.ctxs).map (·.1)

/-- A REL at its object; a REL.set of a control object is a command (R277, R386). -/
def State.homeRelease (s : State) (a : Access) : State :=
  let pa := paOf a.pa
  let s1 := s.release a
  let done : Bool := match s1.acc? a.id with | some x => x.ans.tok.isNone | none => false
  match a.op with
  | .relSet .. =>
    if done ∧ s1.objFld pa 0 8 = kFlag then (s.controlled a.ctx pa).foldl (fun s c => s.ctrlCommand c a.a.toNat) s1 else s1
  | _ => s1

/-- A release by an engine or by the launch engine: REL of REL_OBJ, and, of a completion object, REL.set of a FLAG, or SDEC of 1 or a
cancel decrement of a COUNTER (R351, R383, R396). -/
def State.unitRelease (s : State) (a : Access) : State :=
  if isLockOp a.op then s.homeRelease a
  else
    s.openObj a (fun _ => [kFlag, kCounter]) fun s b =>
      if Blk.fld b 0 8 ≠ kCounter then s.homeRelease a
      else if launchKey 0 ≤ a.actor ∧ a.a = 3 then s.cancelDecrement a
      else s.decrement { a with a := 1 }

-- REQUESTS TO OTHER DEVICES

/-- What an operation that another device has performed answers, with free values `w` and `b`; and whether it acquired: an atomic's
result, its value in memory being free; a lock that a try has not taken, and a ring that a pop has found empty, acquire nothing (R137,
R274, R276, R280). -/
def remoteAnswer (op : Instr) (a b : Word) (w : Word) (x : Blk) : Answer × Bool :=
  let v : VReg := ⟨x, ⟨w.setWidth 8, (w >>> 8).setWidth 8⟩⟩
  let p := w.getLsbD 17
  match op with
  | .afadd .. | .acas .. | .aswap .. | .amin .. | .amax .. | .aand .. | .aor .. =>
    let (_, d, acq) := atomicResult op (w.toNat % 2 ^ (atomicShape op).1) a.toNat b.toNat
    (ansG d, acq)
  | .acqLockTry .. => if w.getLsbD 16 then (ansG (if p then 1 else 0), p) else (ansG w, true)
  | .rpop _ nb .. => (⟨none, some v, some p, none⟩, p || !nb || w.getLsbD 16)
  | _ => (⟨some ⟨w, Pair.int64⟩, some v, some p, none⟩, true)

/-- The reply of another device: its values are free (notes/assumptions/2.md). It may also refuse, and a request that waits there
waits on. -/
def State.remoteReply (s : State) (a : Access) : State :=
  let w := Config.freeWord s.fresh
  let b := Config.freeBlk s.fresh
  let b2 := Config.freeBlk (s.fresh + 1)
  let token := Config.freeBool s.fresh
  let held := Config.freeBool (s.fresh + 1)
  let s1 := s.drew.drew
  if isAcquire a.op ∧ held then (s1.modAcc a.id fun x => { x with sentAt := s.cycle }).later (.homeAccess a.id)
  else if token then s1.answer a.id (failAns a.op ⟨b.setWidth 256, true⟩)
  else
    let back : Block := ⟨b, ⟨w.setWidth 8, (w >>> 8).setWidth 8, tagPlain⟩⟩
    match a.op with
    | .ld .. | .ldb .. | .ldcb .. =>
      let (s2, x, p) := s1.install a back
      s2.loadAnswer a x p
    | .pref .. => (s1.install a back).1.answer a.id Answer.none
    | .st .. | .stb .. =>
      let k := lineKey a.key a.pa
      if a.data.isTok then ((if a.hasL1 then s1.dropL1 a.tile k else s1).dropRdc a.die k).answer a.id Answer.none
      else if a.cached then s1.storeAllocate a
      else
        let (x, m) := a.bytes
        (s1.touchCaches a x m).answer a.id Answer.none
    | _ =>
      let (x, acq) := remoteAnswer a.op a.a a.b w b2
      (s1.modAcc a.id fun x => { x with noAcq := !acq }).answer a.id x

/-- Whether a request to another device is a release there: its cache actions come before it leaves (R68). -/
def State.remoteRel (s : State) (a : Access) : State :=
  match a.op with
  | .relLock .. | .relSet .. | .relAdd .. | .barr .. | .barrNowait .. | .sdec .. | .sinc .. | .rpush .. =>
    s.relActs a (syncScope a.op)
  | .afadd .. | .acas .. | .aswap .. | .amin .. | .amax .. | .aand .. | .aor .. =>
    let (_, sc, rel) := atomicShape a.op
    if rel then s.partyRel a sc else s
  | .cres .. | .cresSp .. => s.fenceRel a.tile a.ctx 4
  | _ => s

/-- A request to another device: it leaves by its route, waits while its direction is frozen or its port's replay buffer is full, and
fails where there is no route, or no block at the offset (R20, R386, R429, R430). -/
def State.homeRemote (s : State) (a : Access) : State :=
  match s.routePort (devOf a.pa) with
  | none => s.failAcc a .link Cause.port 0
  | some p =>
    if s.mgmt.linkFrozen.contains (2 * p) ∨ !(s.port p).room then s.holdHome a false
    else
      match a.op with
      | .csusp .. => s.refuse a Cause.cells
      | _ =>
        let s1 := ((s.remoteRel a).moved a.actor 1).sendFrame p a.data.val
        if unbacked (paOf a.pa) then s1.failAcc a .translation Cause.unbacked (vaDetail a.va 0) else s1.remoteReply a

-- THE HOME

/-- An access that has a translation, at the home of its block on this device. -/
def State.homeLocal (s : State) (a : Access) : State :=
  match a.op with
  | .ld .. | .ldb .. | .ldcb .. => s.homeLoad a
  | .pref .. => s.homePref a
  | .st .. | .stb .. => s.homeStore a
  | .stbObj .. => s.createObj a
  | .stbUnobj .. => s.retireObj a
  | .afadd .. | .acas .. | .aswap .. | .amin .. | .amax .. | .aand .. | .aor .. => s.atomic a
  | .acqLockWait .. | .acqLockTry .. | .acqFlagWait .. | .acqFlagAny .. => s.acquire a
  | .relLock .. | .relSet .. | .relAdd .. =>
    if a.hasL1 ∨ a.actor = hostKey then s.homeRelease a else s.unitRelease a
  | .barr .. => s.barrier a true
  | .barrNowait .. => s.barrier a false
  | .sdec .. => s.decrement a
  | .sinc .. => s.increment a
  | .rpush _ nb .. => s.push a nb
  | .rpop _ nb .. => s.pop a nb
  | .csusp .. => s.suspend a
  | .cres .. | .cresSp .. => s.now (.groupResolution a.id)
  | .ctag .. => s.ctag a
  | .cpois .. => s.cpois a
  | .watch _ _ t once clr id => s.arm a t once clr id.val
  | _ => s.answer a.id Answer.none

/-- An access without a translation of its own, at the table or unit that performs it (R275, R344). -/
def State.homeUnit (s : State) (a : Access) : State :=
  match a.op with
  | .bind .. => s.bindEntry a
  | .unbind .. => s.unbindEntry a
  | .unbindObj .. => s.unbindAll a
  | .fenceRel .. => s.fence a true false
  | .fenceAcq .. => s.fence a false true
  | .fenceAr .. => s.fence a true true
  | .sspec .. => s.sspec a
  | .sbarWait .. | .sbarCommit .. | .sbarFlush .. | .sbarStop .. | .sbarQuery .. => s.sbar a
  | .jcopy .. | .jgath .. | .jscat .. | .jcoll .. => s.jobSubmit a
  | .prom .. => s.promise a
  | .waitbJob .. => s.waitJob a
  | .hist .. => s.histOp a true
  | .histRd .. => s.histOp a false
  | .hoffer .. => s.offer a
  | .hdump .. => s.dump a false
  | .hdumpClr .. => s.dump a true
  | .hdumpInit .. => s.heapInit a
  | .cfg .. => s.cfgLoad a
  | .ldcbV n .. =>
    (s.modCtx a.ctx fun c => { c with cbs := Sparse.set c.cbs n.val (a.data.val.setWidth 256) }).answer a.id Answer.none
  | _ => s.answer a.id Answer.none

/-- Whether the instruction is an atomic (R62, R274). -/
def isAtomic : Instr → Bool
  | .afadd .. | .acas .. | .aswap .. | .amin .. | .amax .. | .aand .. | .aor .. => true
  | _ => false

/-- A slice and its die. -/
def sliceId (pa : Nat) : Nat := homeDie pa * 32 + sliceOf pa

/-- Whether a request waits for its turn at its home: behind an earlier one to its block that is held there, or, as an atomic, behind
one of this cycle in its slice, which performs one in a cycle (R35, R60, R62). -/
def State.waitsTurn (s : State) (a : Access) : Option Bool :=
  if s.objHeld a then some false
  else if isAtomic a.op && Sparse.find? (s.die (homeDie (paOf a.pa))).atomics (sliceId (paOf a.pa)) == some s.cycle then some true
  else none

/-- An atomic takes its slice's turn of the cycle. -/
def State.takeTurn (s : State) (a : Access) : State :=
  if isAtomic a.op then
    s.modDie (homeDie (paOf a.pa)) fun d => { d with atomics := Sparse.set d.atomics (sliceId (paOf a.pa)) s.cycle }
  else s

/-- What a cache of the issuer has taken in since an atomic, a sync-object or a cell operation left it goes too, when the
operation is performed (R58, R139). -/
def State.leftCaches (s : State) (a : Access) : State :=
  match a.op with
  | .ld .. | .ldb .. | .pref .. | .ldcb .. | .st .. | .stb .. => s
  | _ => s.leaveCaches a

/-- HOME_ACCESS: an access is performed in its place in the order of its home (R60). -/
def execHomeAccess (id : Nat) (s : State) : Out :=
  .next (match s.acc? id with
    | none => s
    | some a =>
      if a.stage ≠ .sent then s
      else if !isMemory a.op then s.homeUnit a
      else if devOf a.pa ≠ s.dev then (s.leftCaches a).homeRemote a
      else
        match s.waitsTurn a with
        | some holds => s.holdHome a holds
        | none => (((s.takeTurn a).leftCaches a).moved a.actor 1).homeLocal a)

-- ANSWERS (R68, R137, R285)

/-- The acquire side of an access that has acquired (R68, R267, R276, R355). -/
def State.acquired (s : State) (a : Access) : State :=
  match a.op with
  | .ld _ o .. | .ldb o .. => if offOrd o && a.hasL1 then s.fenceAcq a.tile a.ctx (offScope o) else s
  | .afadd .. | .acas .. | .aswap .. | .amin .. | .amax .. | .aand .. | .aor .. =>
    if a.noAcq then s else s.partyAcq a (atomicShape a.op).2.1
  | .acqLockWait .. | .acqLockTry .. | .acqFlagWait .. | .acqFlagAny .. | .barr .. | .rpop .. =>
    if a.noAcq then s else s.acqActs a (syncScope a.op)
  | .waitbJob .. => s.fenceAcq a.tile a.ctx 4
  | _ => s

/-- The answer of an operation of HSYNC: word 3 takes the result, BUSY clears (R427). -/
def State.hostAnswer (s : State) (a : Access) : State :=
  let s1 := match a.ans.tok with
    | some t => (s.modMgmt fun m => { m with hs3 := BitVec.allOnes 64 }).logRec (logBlock t.record)
    | none =>
      match a.ans.g with
      | some x => s.modMgmt fun m => { m with hs3 := x.val }
      | none => s
  (s1.modMgmt fun m => { m with hs0 := m.hs0 &&& 0x7FFFFFFFFFFFFFFF }).delAcc a.id

/-- The answer of the launch engine's release of a graph's COMP: a refusal is a trap record (R459). -/
def State.launchAnswer (s : State) (a : Access) : State :=
  let s1 := s.delAcc a.id
  match a.ans.tok with
  | some t => s1.trapAux a.ctx a.actor t.record 0
  | none => s1

/-- The answer of a station, a bay tile or an evaluation: the acquire side, then its registers, then its token; a sleep on
a job ends. -/
def State.unitAnswer (s : State) (a : Access) : State :=
  let s1 := if isAcquire a.op || (match a.op with | .waitbJob .. => true | _ => false) then
      (if a.ans.tok.isSome then s else s.acquired a) else s
  let s2 := match a.op, (s1.actor a.actor).sleep with
    | .waitbJob .., some (.job _ f _ _) => if f = a.fire then s1.modActor a.actor fun u => { u with sleep := none } else s1
    | _, _ => s1
  let s3 := s2.modTile a.tile fun t => (answerWrites a.op a.fire.bank a.ans).foldl Wr.apply t
  ((s3.attach? a.actor a.ans.tok).delAcc a.id).pump a.actor

/-- A result that is thrown away leaves its cache actions done: an acquire's, and the write-back of a store that was accepted
before the release actions of its station's shunt (R68, R146). -/
def State.discarded (s : State) (a : Access) : State :=
  if !a.hasL1 ∨ a.ans.tok.isSome then s
  else
    let s1 := if isAcquire a.op then s.acquired a else s
    match a.op with
    | .st .. | .stb .. => s1.wbL1 a.tile (lineKey a.key a.pa)
    | _ => s1

/-- A unit in the transfer of a shunt: its answers wait for the switch of its bay tile (R270). -/
def State.inTransfer (s : State) (key : Nat) : Bool :=
  decide (bayKey 0 ≤ key) && decide (key < 32768) && (s.actor key).switchTo.isSome

/-- ANSWER_DELIVERY (R285): a result that has been thrown away is dropped, and a token that comes for a station whose line
has exited is written as a trap record (R401); a waiting evaluation's waits for its slot. -/
def execAnswerDelivery (id : Nat) (s : State) : Out :=
  .next (match s.acc? id with
    | none => s
    | some a =>
      if a.stage ≠ .answering then s
      else if a.discard then
        let s1 := ((s.discarded a).delAcc id).pumpAll a.actor
        match a.ans.tok with
        | some t =>
          if t.produced ∧ a.actor < bayKey 0 ∧ (Sparse.find? s.actors a.actor).isNone then s1.trapAux a.ctx a.actor t.record 0 else s1
        | none => s1
      else if 200000 ≤ a.actor then s
      else if launchKey 0 ≤ a.actor then s.launchAnswer a
      else if a.actor = hostKey then s.hostAnswer a
      else if 65536 ≤ a.actor then
        let die := (a.actor - 65536) / 48
        let n := (a.actor - 65536) % 48
        let s1 := if isAcquire a.op ∧ a.ans.tok.isNone then s.acquired a else s
        if n < 32 then s1.streamAnswer die n a else s1.jobAnswer die (n - 32) a
      else if s.inTransfer a.actor then s.after 1 (.answerDelivery id)
      else s.unitAnswer a)

-- LATENCIES (R234)

/-- The tiles whose factorisation ends in this cycle or before. -/
def State.runsDue (s : State) : List (Nat × FRun) :=
  List.filterMap (fun (t : Nat × Tile) => match t.2.run with
    | some r => if r.due ≤ s.cycle then some (t.1, r) else none
    | none => none) s.tiles

/-- RESULT_LATENCY_EXPIRY: factorisations that are due end, and results that are due become visible, in their order of
issue (R234). -/
def execResultLatencyExpiry (s : State) : Out :=
  let s1 := s.runsDue.foldl (fun s x => s.finishRun x.1 x.2) s
  let s2 : State := { s1 with results := s1.results.filter fun r => decide (s.cycle < r.due) }
  .next ((s1.results.filter fun r => decide (r.due ≤ s.cycle)).foldl (fun s r => s.deliver r) s2)

-- THE REMOTE TIMEOUT (R415)

/-- Whether an access is a remote request that is outstanding: one of a station or bay tile (R415). -/
def State.timed (s : State) (a : Access) : Bool :=
  decide (a.actor < 32768) && decide (a.stage = .sent) && !a.discard && a.pa != noAddress
    && (devOf a.pa != s.dev || homeDie (paOf a.pa) != a.die)

/-- REMOTE_TIMEOUT: the requester receives a token, once the limit that management has set by then has passed; what the home still performs is answered to nobody. -/
def execRemoteTimeout (id : Nat) (s : State) : Out :=
  .next (match s.acc? id with
    | none => s
    | some a =>
      if a.stage ≠ .sent ∨ a.discard then s
      else
        let far := devOf a.pa ≠ s.dev
        let limit := a.sentAt + (if far then s.mgmt.linkTimeout.toNat else s.mgmt.ringTimeout.toNat)
        if s.cycle < limit then s.after (limit - s.cycle) (.remoteTimeout id)
        else
          let s1 : State := if far then s else
            { s with
              nextAcc := s.nextAcc + 1
              accs := s.accs ++ [{ a with id := s.nextAcc, discard := true }] }.later (.homeAccess s.nextAcc)
          s1.failAcc a .remoteTimeout (if far then 0x02 else 0x01) 0)

end Sys2Proof.Machine
end

