-- ==== Sys2Proof/Machine/Host.lean ====
section
/-! DEFINITION. The host window and its management registers (R33, R40, R41, R371, R391, R415, R422 to R427, R430), and
Medlar: boot, measurement, keys, reports, health and the management log's interval records (R418, R432 to R447). -/

namespace Sys2Proof.Machine

/-- The state that an event leaves. -/
def Out.orSame (o : Out) (s : State) : State := match o with | .next x => x | _ => s

/-- Whether any context exists. -/
def State.anyCtx (s : State) : Bool := !(List.isEmpty s.ctxs)

-- DEVNUM, TIMEOUTS AND POOL SIZES (R118, R415, R424)

/-- A write of DEVNUM: reserved bits read zero. -/
def State.writeDevnum (s : State) (v : Word) : State :=
  if s.anyCtx then s.strayed
  else s.modMgmt fun m => { m with devnum := BitVec.ofNat 64 (v.toNat % 2 ^ 14), devnumSet := true }

/-- Whether a value is a timeout, 1 to 2^40 cycles (R423). -/
def timeoutOk (v : Word) : Bool := 1 ≤ v.toNat && v.toNat ≤ 2 ^ 40

/-- The timers of outstanding remote requests follow a change of the limits (R415). -/
def State.rearm (s : State) : State :=
  (s.accs.filter s.timed).foldl (fun s a => s.now (.remoteTimeout a.id)) s

/-- A write of a die's pool size. -/
def State.writePool (s : State) (die : Nat) (v : Word) : State :=
  if s.anyCtx ∨ 32 < v.toNat then s.strayed else s.modDie die fun d => { d with poolSize := v.toNat }

-- LAUNCH QUEUES (R371, R447)

/-- A write of RBASE: the array of a queue that is served lies on this die, whole. -/
def State.writeQueueBase (s : State) (die q : Nat) (w1 : Word) : State :=
  let b := w1.toNat
  let lq := s.launchQ die q
  if b / 2 ^ 46 ≠ 0 ∨ b % 256 ≠ 0 ∨ homeDie b ≠ die ∨ (lq.en ∧ homeDie (b + 256 * 2 ^ lq.log2n - 1) ≠ die) then s.strayed
  else s.modMgmt fun m => { m with queues := Sparse.set m.queues (queueKey die q) { lq with base := b } }

/-- The limits of word 0 of a launch queue. -/
def queueWordOk (die : Nat) (w0 : Word) : Bool :=
  w0.toNat / 2 ^ 53 % 2 ^ 10 = 0 && w0.toNat / 2 ^ 46 % 4 = 0 && w0.toNat / 2 ^ 48 % 32 ≤ 16
    && homeDie (w0.toNat % 2 ^ 46) = die && w0.toNat % 64 = 0

/-- EN = 1: the queue's FLAG is created with VALUE 0 and CONS is 0. -/
def State.enableQueue (s : State) (die q : Nat) (w0 : Word) : State :=
  let obj := w0.toNat % 2 ^ 46
  let log := w0.toNat / 2 ^ 48 % 32
  let lq := s.launchQ die q
  let t := (s.side obj).tag
  let own := lq.en && lq.obj == obj
  if !s.mgmt.devnumSet ∨ !queueWordOk die w0 ∨ unbacked obj ∨ homeDie lq.base ≠ die ∨ homeDie (lq.base + 256 * 2 ^ log - 1) ≠ die
      ∨ !(t = tagPlain ∨ t = tagPoisoned ∨ own) ∨ (lq.en ∧ !own) then s.strayed
  else
    (s.putBlock 0 obj ⟨newObject (BitVec.ofNat 512 kFlag) 0, ⟨0x00, 127, tagSync⟩⟩).modMgmt fun m =>
      { m with queues := Sparse.set m.queues (queueKey die q) ⟨true, 0, lq.base, log, obj⟩ }

/-- EN = 0: the FLAG is retired, unless requests wait at it. -/
def State.disableQueue (s : State) (die q : Nat) (w0 : Word) : State :=
  let lq := s.launchQ die q
  let off : LaunchQ := ⟨false, lq.cons, lq.base, w0.toNat / 2 ^ 48 % 32, w0.toNat % 2 ^ 46⟩
  if !queueWordOk die w0 ∨ (lq.en ∧ s.objWaiters lq.obj ≠ []) then s.strayed
  else (if lq.en then s.putBlock (s.keyOf 0 lq.obj) lq.obj ⟨0, Side.plain⟩ else s).modMgmt fun m =>
    { m with queues := Sparse.set m.queues (queueKey die q) off }

/-- A write of word 0 of a launch queue. -/
def State.writeQueue (s : State) (die q : Nat) (w0 : Word) : State :=
  if w0.getLsbD 63 then s.enableQueue die q w0 else s.disableQueue die q w0

-- TRANSLATION INVALIDATION (R33, R425)

/-- Two ranges of bytes meet. -/
def meets (a n b m : Nat) : Bool := decide (a < b + m) && decide (b < a + n)

/-- A leaf's bytes meet a range. -/
def Leaf.inRange (l : Leaf) (lo n : Nat) : Bool :=
  meets (l.page * (if l.big then 2 ^ 28 else 2 ^ 16)) (if l.big then 2 ^ 28 else 2 ^ 16) lo n
/-- A table pointer's bytes meet a range: level 2 pointers cover 256 MiB, level 1 pointers 1 TiB. -/
def Leaf.ptrRange (l : Leaf) (lo n : Nat) : Bool :=
  meets (l.page * (if l.big then 2 ^ 28 else 2 ^ 40)) (if l.big then 2 ^ 28 else 2 ^ 40) lo n

/-- A whole context's invalidation, KIND 10. -/
def State.invalidateCtx (s : State) (c : Nat) : State := 
  s.invalidate (fun l => l.ctx == c) (fun l => l.ctx == c) (fun l => l.ctx == c) fun l => l.ctx == c

/-- Whether the fields of an INV_CMD keep their limits, BASE and LEN under every KIND. -/
def State.invOk (s : State) (w0 : Word) : Bool :=
  let base := s.mgmt.inv1.toNat
  let len := s.mgmt.inv2.toNat
  let kind := w0.toNat % 4
  w0.toNat / 2 ^ 26 = 0 && w0.toNat / 2 ^ 2 % 2 ^ 6 = 0 && kind ≠ 0
    && base / 2 ^ 52 = 0 && base % 2 ^ 16 = 0 && len % 2 ^ 16 = 0 && 2 ^ 16 ≤ len && len ≤ 2 ^ 52

/-- INV_CMD: BUSY is set until every access translated through a dropped entry has been performed. DESIGN CHOICE: immutable lines
go by an invalidation that names their key id or their whole context, and stay at one of a range of it (R67;
notes/assumptions/107.md). -/
def State.startInv (s : State) (w0 : Word) : State :=
  let w := w0 &&& 0x7FFFFFFFFFFFFFFF
  if s.mgmt.inv0.getLsbD 63 ∨ !s.invOk w then s.strayed
  else
    let c := w.toNat / 2 ^ 8 % 2 ^ 8
    let k := w.toNat / 2 ^ 16 % 2 ^ 10
    let lo := s.mgmt.inv1.toNat
    let n := s.mgmt.inv2.toNat
    let s1 := match w.toNat % 4 with
      | 1 => s.invalidate (fun l => l.ctx == c && l.inRange lo n) (fun l => l.ctx == c && l.ptrRange lo n) (fun _ => false)
          fun l => l.ctx == c
      | 2 => s.invalidateCtx c
      | _ => s.invalidate (fun l => l.key == k) (fun _ => false) (fun l => l.key == k) fun l => l.key == k
    s1.modMgmt fun m => { m with inv0 := w ||| 0x8000000000000000 }

/-- BUSY of INV_CMD clears when R33's completion holds. -/
def State.invDone (s : State) : State :=
  let left := s.mgmt.invAccs.filter fun i => s.accs.any fun a => a.id == i && !a.performed
  let out := s.mgmt.invFrames.filter fun x => decide ((s.port x.1).acked < x.2)
  s.modMgmt fun m => { m with
    invAccs := left, invFrames := out, inv0 := if left = [] ∧ out = [] then m.inv0 &&& 0x7FFFFFFFFFFFFFFF else m.inv0 }

-- HSYNC (R148, R427)

/-- The operation of OP. -/
def syncOp (op : Nat) : Option Instr :=
  match op with
  | 1 => some (.relSet 5 0 0 noWave)
  | 2 => some (.relAdd 5 0 0 noWave)
  | 3 => some (.acqFlagWait .eq 5 0 0 0 noWave)
  | 4 => some (.acqFlagWait .ne 5 0 0 0 noWave)
  | 5 => some (.acqFlagWait .ge 5 0 0 0 noWave)
  | 6 => some (.acqFlagAny 5 0 0 0 noWave)
  | 7 => some (.acqLockWait 5 0 0 0 noWave)
  | 8 => some (.acqLockTry 5 0 0 0 noWave)
  | 9 => some (.relLock 5 0 0 noWave)
  | _ => none

/-- A refusal of HSYNC: word 3 is all ones, and the management log has a record. -/
def State.refuseSync (s : State) (cause : BitVec 8) : State :=
  (s.modMgmt fun m => { m with hs3 := BitVec.allOnes 64 }).logRec
    (logBlock (record s.dev (launchOrigin 0) .permission cause (s.mgmt.hs1.toNat % 2 ^ 52)))

/-- A write of word 0 of HSYNC: one operation at the object's home. -/
def State.startSync (s : State) (w0 : Word) : State :=
  let pa := s.mgmt.hs1.toNat
  let w := BitVec.ofNat 64 (w0.toNat % 2 ^ 16 / 2 ^ 8 * 2 ^ 8 + w0.toNat % 16)
  if s.mgmt.hs0.getLsbD 63 then s.strayed
  else
    let s1 := s.modMgmt fun m => { m with hs0 := w }
    match syncOp (w0.toNat % 16) with
    | none => s1.refuseSync Cause.syncState
    | some op =>
      if pa / 2 ^ 46 ≠ 0 ∨ pa % 64 ≠ 0 ∨ unbacked pa then s1.refuseSync Cause.cellTag
      else
        let x : Access := {
          id := s.nextAcc, actor := hostKey, ctx := w.toNat / 2 ^ 8, fire := engineFire hostKey, org := launchOrigin 0, op := op, va := 0
          a := s.mgmt.hs2, b := 0, c := 0, data := VReg.zero, bulk := [], wave := none, order := s.nextAcc, stage := .sent
          failed := false, leaf := none, pa := s.dev * 2 ^ 48 + pa, sentAt := s.cycle, aux := 0, discard := false
          noAcq := false, binds := [], ans := Answer.none }
        ({ s1 with nextAcc := s.nextAcc + 1, accs := s1.accs ++ [x] }.modMgmt fun m => { m with
          hs0 := w ||| 0x8000000000000000 }).later (.homeAccess s.nextAcc)

/-- Whether a host acquire is in progress: no later host-window read is performed before it is complete (R148). -/
def State.hostAcquires (s : State) : Bool := s.accs.any fun a => a.actor == hostKey && isAcquire a.op

-- REPLICA AND ROUTE TABLES (R391, R430)

/-- Word 0 of a replica-table slot with its FROM: one version is installed (notes/assumptions/18.md). -/
def State.writeReplica (s : State) (ctx ch : Nat) (w0 w1 : Word) : State :=
  let x := w0.toNat
  if (s.ctx? ctx).isNone ∨ x / 2 ^ 35 % 2 ^ 28 ≠ 0 ∨ x / 2 ^ 14 % 4 ≠ 0 ∨ x / 2 ^ 30 % 4 ≠ 0 ∨ 48 ≤ x / 2 ^ 18 % 64 then s.strayed
  else if x / 2 ^ 63 = 0 then s.writeChan ctx ch none
  else s.writeChan ctx ch (some ⟨x % 2 ^ 14, x / 2 ^ 16 % 4, x / 2 ^ 18 % 64, x / 2 ^ 24 % 64, x / 2 ^ 32 % 8, w1⟩)

/-- A route entry keeps its limits. -/
def routeOk (e : Nat) : Bool := e / 32 % 2 ^ 10 = 0 && e % 32 < 18

/-- A write of a word of the route table: each of its entries takes effect once what was sent under the old one has been
answered. -/
def State.writeRoutes (s : State) (word : Nat) (v : Word) : State :=
  let es := (List.range 4).map fun i => v.toNat / 2 ^ (16 * i) % 2 ^ 16
  if !(es.all routeOk) then s.strayed
  else (List.range 4).foldl (fun s i =>
    (s.modMgmt fun m => { m with routePend := Sparse.set m.routePend (4 * word + i) (BitVec.ofNat 16 (es.getD i 0)) }).now
      (.routeEntryEffect (4 * word + i))) s

-- STATUS WORDS (R420, R423)

/-- The state of a context as the host reads it. -/
def State.hostStatus (s : State) (c : Nat) : Nat :=
  match s.ctx? c with
  | none => 0
  | some x => if x.tearing then 6 else if x.status = 1 ∧ s.anyFrozen c then 5 else x.status

/-- A context's status word; the energy total is open (notes/assumptions/3.md). -/
def State.statusWord (s : State) (c w : Nat) : Word :=
  match s.ctx? c with
  | none => 0
  | some x =>
    match w with
    | 0 =>
      let n := match s.saved.find? fun v => v.ctx == c with | some v => v.size | none => s.saveSize c
      BitVec.ofNat 64 (s.hostStatus c + at_ n 16 48)
    | 1 => s.lostMirror c
    | 2 => x.beats
    | 3 => x.sunk
    | _ => Config.freeWord s.fresh

-- THE REGISTERS (R423)

/-- Budget number i: the host window's, then those of the link directions. -/
def State.budgetNo (s : State) (i : Nat) : Nat :=
  if i = 0 then s.mgmt.hostBudget.toNat else if i < 37 then (Sparse.get s.mgmt.linkBudget 0 (i - 1)).toNat else 0

/-- Word i of the management log: PROD, then the records. -/
def State.logWord (s : State) (i : Nat) : Word :=
  if i = 0 then s.mgmt.logProd
  else BitVec.ofNat 64 (Blk.fld (Sparse.get s.mgmt.log 0 (i / 8)) (i % 8 * 64) 64)

/-- A read of a management register; `none` where the window maps nothing. -/
def State.readReg (s : State) (off : Nat) : Option Word :=
  if off % 8 ≠ 0 then none
  else if off < 0x30 then some (s.feature 0 0 (off / 8))
  else if off = 0x100 then some s.mgmt.devnum
  else if off = 0x200 then some s.mgmt.ringTimeout
  else if off = 0x208 then some s.mgmt.linkTimeout
  else if 0x300 ≤ off ∧ off < 0x320 then some (BitVec.ofNat 64 (s.die ((off - 0x300) / 8)).poolSize)
  else if 0x1000 ≤ off ∧ off < 0x2000 then
    let q := (off - 0x1000) % 0x400 / 0x20
    let lq := s.launchQ ((off - 0x1000) / 0x400) q
    if 16 ≤ q then none
    else match off % 0x20 / 8 with
      | 0 => some (BitVec.ofNat 64 (lq.obj + at_ lq.log2n 48 5 + lq.en.toNat * 2 ^ 63))
      | 1 => some (BitVec.ofNat 64 lq.base)
      | 2 => some (lq.cons.setWidth 64)
      | _ => none
  else if off = 0x2000 then some s.mgmt.inv0
  else if off = 0x2008 then some s.mgmt.inv1
  else if off = 0x2010 then some s.mgmt.inv2
  else if off = 0x3000 then some s.mgmt.pre0
  else if off = 0x3008 then some s.mgmt.pre1
  else if off = 0x3100 then some s.mgmt.stop
  else if off = 0x3200 then some s.mgmt.hs0
  else if off = 0x3208 then some s.mgmt.hs1
  else if off = 0x3210 then some s.mgmt.hs2
  else if off = 0x3218 then some s.mgmt.hs3
  else if 0x4000 ≤ off ∧ off < 0x8000 then
    if off % 0x40 / 8 ≤ 4 then some (s.statusWord ((off - 0x4000) / 0x40) (off % 0x40 / 8)) else none
  else if 0x8000 ≤ off ∧ off < 0x8098 then
    let i := (off - 0x8000) / 4
    some (BitVec.ofNat 64 (s.budgetNo i + s.budgetNo (i + 1) * 2 ^ 32))
  else if 0x9000 ≤ off ∧ off < 0x9020 then some (Sparse.get s.mgmt.peol 0xFFFF ((off - 0x9000) / 8))
  else if off = 0x9F00 then some s.mgmt.bootStage
  else if 0x10000 ≤ off ∧ off < 0x11000 then some (BitVec.ofNat 64 (s.mgmt.mailbox.toNat / 2 ^ (8 * (off - 0x10000))))
  else if 0x20000 ≤ off ∧ off < 0x30000 then some (s.logWord ((off - 0x20000) / 8))
  else if 0xC0000 ≤ off ∧ off < 0xC8000 then
    let i := (off - 0xC0000) / 2
    some (BitVec.ofNat 64 (((List.range 4).map fun k => (Sparse.get s.mgmt.routes 0 (i + k)).toNat * 2 ^ (16 * k)).sum))
  else if 0x100000 ≤ off ∧ off < 0x4100000 then
    let i := (off - 0x100000) % 0x40000 / 8
    if i < 4096 then some (Sparse.get s.mgmt.trapLog 0 (4096 * ((off - 0x100000) / 0x40000) + i)) else none
  else none

/-- A write of a management register; one to a register that is read-only is discarded, and one that maps nothing is
counted (R40). -/
def State.writeReg (s : State) (off : Nat) (v : Word) : State :=
  if off % 8 ≠ 0 then s.strayed
  else if off = 0x100 then s.writeDevnum v
  else if off = 0x200 then if timeoutOk v then (s.modMgmt fun m => { m with ringTimeout := v }).rearm else s.strayed
  else if off = 0x208 then if timeoutOk v then (s.modMgmt fun m => { m with linkTimeout := v }).rearm else s.strayed
  else if 0x300 ≤ off ∧ off < 0x320 then s.writePool ((off - 0x300) / 8) v
  else if 0x1000 ≤ off ∧ off < 0x2000 then
    let q := (off - 0x1000) % 0x400 / 0x20
    let die := (off - 0x1000) / 0x400
    if 16 ≤ q then s.strayed
    else match off % 0x20 / 8 with
      | 0 => s.writeQueue die q v
      | 1 => s.writeQueueBase die q v
      | 2 => s
      | _ => s.strayed
  else if off = 0x2000 then s.startInv v
  else if off = 0x2008 then s.modMgmt fun m => { m with inv1 := v }
  else if off = 0x2010 then s.modMgmt fun m => { m with inv2 := v }
  else if off = 0x3000 then if v.toNat % 4 = 2 then (execPreCmdRestore v s).orSame s else (execPreCmdPreempt v s).orSame s
  else if off = 0x3008 then if s.mgmt.pre0.getLsbD 63 then s else s.modMgmt fun m => { m with pre1 := v }
  else if off = 0x3100 then
    let s1 := s.modMgmt fun m => { m with stop := v &&& 0x800000000000033F }
    if v.getLsbD 63 then (execStopResume v s1).orSame s1 else (execStopRequest v s1).orSame s1
  else if off = 0x3200 then s.startSync v
  else if off = 0x3208 then s.modMgmt fun m => { m with hs1 := v }
  else if off = 0x3210 then s.modMgmt fun m => { m with hs2 := v }
  else if off = 0x3218 then s.modMgmt fun m => { m with hs3 := v }
  else if 0x8000 ≤ off ∧ off < 0x8098 then
    let i := (off - 0x8000) / 4
    let lo : BitVec 32 := v.setWidth 32
    let hi : BitVec 32 := (v >>> 32).setWidth 32
    s.modMgmt fun m =>
      let m1 := if i = 0 then { m with hostBudget := lo } else { m with linkBudget := Sparse.set m.linkBudget (i - 1) lo }
      if i + 1 < 37 then { m1 with linkBudget := Sparse.set m1.linkBudget i hi } else m1
  else if 0x10000 ≤ off ∧ off < 0x11000 then
    let p := 8 * (off - 0x10000)
    s.modMgmt fun m => { m with mailbox := (m.mailbox &&& ~~~(BitVec.ofNat 32768 (2 ^ 64 - 1) <<< p)) ||| (v.setWidth 32768 <<< p) }
  else if 0x40000 ≤ off ∧ off < 0xC0000 then
    let i := (off - 0x40000) / 0x20
    match off % 0x20 / 8 with
    | 0 => s.writeReplica (i / 64) (i % 64) v (Sparse.get s.mgmt.replica 0 i)
    | 1 => s.modMgmt fun m => { m with replica := Sparse.set m.replica i v }
    | _ => s.strayed
  else if 0xC0000 ≤ off ∧ off < 0xC8000 then s.writeRoutes ((off - 0xC0000) / 8) v
  else match s.readReg off with
    | some _ => s
    | none => s.strayed

-- HOST-WINDOW ACCESSES (R40, R41, R422)

/-- The device-physical address of a host-window offset, when it maps memory. -/
def windowPa (off : Nat) : Option Nat := if 2 ^ 46 ≤ off ∧ off < 2 ^ 47 then some (off - 2 ^ 46) else none

/-- An access of the host transaction layer: 8 to 64 bytes within one aligned block (R422). -/
def hostShape (off n : Nat) : Bool := decide (8 ≤ n) && decide (n ≤ 64) && decide (off % 64 + n ≤ 64)

/-- The completion of a read. -/
def State.complete (s : State) (x : Nat) (n : Nat) : State :=
  s.modMgmt fun m => { m with completion := BitVec.ofNat 512 (x % 2 ^ (8 * n)) }

/-- A read that maps nothing: all ones, counted (R40). -/
def State.strayRead (s : State) (n : Nat) : State := s.strayed.complete (2 ^ 512 - 1) n

/-- A read of device-physical memory: the block's stored bytes whatever its tag (R41). DESIGN CHOICE: the spec does not say what a read
of an uncorrectable block returns to the host, which takes no token; it is a free value (notes/assumptions/2.md). -/
def State.hostRead (s : State) (pa n : Nat) : State :=
  if unbacked pa then s.strayRead n
  else
    let (s1, b) := s.readHome 0 pa
    let x := match b with | some b => b.data.toNat | none => (Config.freeBlk s.fresh).toNat
    (s1.drew.complete (x / 2 ^ (8 * (pa % 64))) n).hostMoved 1

/-- A write of device-physical memory (R41). -/
def State.hostWrite (s : State) (pa n : Nat) (x : Blk) : State :=
  let t := (s.side pa).tag
  if unbacked pa ∨ !(t = tagPlain ∨ t = tagPoisoned) then s.strayed
  else if n = 64 then (s.putBlock 0 pa ⟨x, Side.plain⟩).hostMoved 1
  else (s.mergeHome .homeOnly 0 pa (x <<< (8 * (pa % 64))) (maskAt (pa % 64) n) id).1.hostMoved 1

/-- HOST_WINDOW_READ. -/
def execHostWindowRead (off n : Nat) (s : State) : Out :=
  .next (if !hostShape off n then s.strayRead n
    else
      match windowPa off with
      | some pa => s.hostRead pa n
      | none =>
        if 2 ^ 32 ≤ off ∨ n ≠ 8 then s.strayRead n
        else match s.readReg off with
          | some v => s.drew.complete v.toNat 8
          | none => s.strayRead n)

/-- HOST_WINDOW_WRITE. -/
def execHostWindowWrite (off n : Nat) (data : Blk) (s : State) : Out :=
  .next (if !hostShape off n then s.strayed
    else
      match windowPa off with
      | some pa => s.hostWrite pa n data
      | none => if 2 ^ 32 ≤ off ∨ n ≠ 8 then s.strayed else s.writeReg off (data.setWidth 64))

/-- STRAY_WINDOW_ACCESS (R40). -/
def execStrayWindowAccess (_off : Nat) (isWrite : Bool) (s : State) : Out :=
  .next (if isWrite then s.strayed else s.strayRead 64)

-- THE EVENTS OF THE REGISTERS

/-- REGISTER_WRITE: any management register (R423). -/
def execRegisterWrite (off : Nat) (v : Word) (s : State) : Out := .next (s.writeReg off v)
/-- DEVNUM_WRITE (R424). -/
def execDevnumWrite (v : Word) (s : State) : Out := .next (s.writeDevnum v)
/-- LAUNCH_QUEUE_ENABLE (R371): RBASE, then word 0 with EN = 1. -/
def execLaunchQueueEnable (die q : Nat) (w0 w1 : Word) (s : State) : Out :=
  .next (if 4 ≤ die ∨ 16 ≤ q ∨ !w0.getLsbD 63 then s.strayed else (s.writeQueueBase die q w1).enableQueue die q w0)
/-- LAUNCH_QUEUE_DISABLE (R371). -/
def execLaunchQueueDisable (die q : Nat) (w0 : Word) (s : State) : Out :=
  .next (if 4 ≤ die ∨ 16 ≤ q ∨ w0.getLsbD 63 then s.strayed else s.disableQueue die q w0)
/-- INV_RANGE (R425). -/
def execInvRange (w0 : Word) (s : State) : Out := .next (if w0.toNat % 4 = 1 then s.startInv w0 else s.strayed)
/-- INV_CONTEXT (R425). -/
def execInvContext (w0 : Word) (s : State) : Out := .next (if w0.toNat % 4 = 2 then s.startInv w0 else s.strayed)
/-- INV_KEY_ID (R425). -/
def execInvKeyId (w0 : Word) (s : State) : Out := .next (if w0.toNat % 4 = 3 then s.startInv w0 else s.strayed)
/-- CTRL_INVALIDATE: command 3 on a context's control object (R425). -/
def execCtrlInvalidate (ctx : Nat) (s : State) : Out := .next (s.invalidateCtx ctx)

/-- Word 0 of HSYNC for an operation and a context. -/
def syncWord (op : Nat) (ctx : BitVec 8) : Word := BitVec.ofNat 64 (op + ctx.toNat * 2 ^ 8)
/-- HSYNC OP 1 (R427). -/
def execHsyncRelSet (ctx : BitVec 8) (s : State) : Out := .next (s.startSync (syncWord 1 ctx))
/-- HSYNC OP 2 (R427). -/
def execHsyncRelAdd (ctx : BitVec 8) (s : State) : Out := .next (s.startSync (syncWord 2 ctx))
/-- HSYNC OP 3 (R427). -/
def execHsyncAcqEq (ctx : BitVec 8) (s : State) : Out := .next (s.startSync (syncWord 3 ctx))
/-- HSYNC OP 4 (R427). -/
def execHsyncAcqNe (ctx : BitVec 8) (s : State) : Out := .next (s.startSync (syncWord 4 ctx))
/-- HSYNC OP 5 (R427). -/
def execHsyncAcqGe (ctx : BitVec 8) (s : State) : Out := .next (s.startSync (syncWord 5 ctx))
/-- HSYNC OP 6 (R427). -/
def execHsyncAcqAny (ctx : BitVec 8) (s : State) : Out := .next (s.startSync (syncWord 6 ctx))
/-- HSYNC OP 7 (R427). -/
def execHsyncLockWait (ctx : BitVec 8) (s : State) : Out := .next (s.startSync (syncWord 7 ctx))
/-- HSYNC OP 8 (R427). -/
def execHsyncLockTry (ctx : BitVec 8) (s : State) : Out := .next (s.startSync (syncWord 8 ctx))
/-- HSYNC OP 9 (R427). -/
def execHsyncLockRel (ctx : BitVec 8) (s : State) : Out := .next (s.startSync (syncWord 9 ctx))

/-- REPLICA_TABLE_WRITE (R391): words 0 and 1 of a slot. -/
def execReplicaTableWrite (ctx ch : Nat) (v : BitVec 128) (s : State) : Out :=
  .next (if 64 ≤ ch then s.strayed
    else (s.modMgmt fun m => { m with replica := Sparse.set m.replica (64 * ctx + ch) (v.extractLsb' 64 64) }).writeReplica ctx ch
      (v.extractLsb' 0 64) (v.extractLsb' 64 64))
/-- ROUTE_TABLE_WRITE (R430). -/
def execRouteTableWrite (word : Nat) (v : Word) (s : State) : Out :=
  .next (if 4096 ≤ word then s.strayed else s.writeRoutes word v)

-- BOOT AND MEASUREMENT (R432, R433)

/-- A measurement register after an extension. -/
def State.extend (s : State) (k : Nat) (digest : BitVec 512) : State :=
  s.modMgmt fun m => { m with
    meas := Sparse.set m.meas k (Config.shake256 128 ((Sparse.get m.meas 0 k).toNat + digest.toNat * 2 ^ 512)) }

/-- What Medlar's ROM checks of the first image (R432): its signature, its public key against the fused root hash, and its security
version against the fused counter. -/
def firstImageOk : Bool :=
  Config.slhVerify Config.bootKey.toNat (Config.imageHash 0).toNat Config.bootSig
    && Config.shake256 64 Config.bootKey.toNat == Config.rootHash
    && decide (Config.fusedVersion.toNat ≤ (Config.securityVersion 0).toNat)

/-- One stage of the boot: it is verified and measured; a failure halts the boot, with one more than the failing stage at
the health offset (notes/assumptions/29.md). -/
def State.bootOne (s : State) (k : Nat) : State :=
  if s.mgmt.bootStage ≠ 0 then s
  else if (if k = 0 then firstImageOk else Config.bootStage k) then s.extend k (Config.imageHash k)
  else s.modMgmt fun m => { m with bootStage := BitVec.ofNat 64 (k + 1) }

/-- BOOT (R432): Medlar's own image, then the H-die firmware, the C-die management firmware, Damson and the
memory-training image. -/
def execBoot (s : State) : Out :=
  let s1 := (List.range 5).foldl State.bootOne s
  .next (s1.modMgmt fun m => { m with booted := m.bootStage = 0 })

/-- MEAS_EXTEND (R433): management extends MEAS_5 to MEAS_7 only. -/
def execMeasExtend (k : Nat) (digest : BitVec 512) (s : State) : Out :=
  .next (if 5 ≤ k ∧ k ≤ 7 then s.extend k digest else s.strayed)

/-- SIGNER_REGISTER (R439). -/
def execSignerRegister (key : BitVec 512) (s : State) : Out :=
  .next (s.modMgmt fun m => { m with signers := if m.signers.contains key then m.signers else m.signers ++ [key] })

-- KEYS AND REPORTS (R434 to R436)

/-- Medlar returns a message: the mailbox holds its first 4 KiB. -/
def State.reply (s : State) (x : Nat) : State :=
  s.modMgmt fun m => { m with mailbox := BitVec.ofNat 32768 x, message := x }

/-- The key id of a context, when it exists or its key has been established. -/
def State.keyIdOf (s : State) (c : Nat) : Nat :=
  match s.ctx? c with
  | some x => x.key
  | none => match s.mgmt.tenants.find? fun t => t.1 == c with | some t => t.2.1 | none => 0

/-- The 1,568 bytes of a context's ML-KEM encapsulation key, by its draw (R435). -/
def kemKey (draw : Nat) : BitVec 12544 := BitVec.ofNat 12544 (Config.kemPublic draw)

/-- Bytes 0 to 727 of an attestation report (R434). -/
def State.reportText (s : State) (nonce : BitVec 512) (c : Nat) : Nat :=
  let meas := ((List.range 8).map fun k => at_ (Sparse.get s.mgmt.meas 0 k).toNat (512 + 512 * k) 512).sum
  let svn := ((List.range 8).map fun k => at_ (Config.securityVersion k).toNat (4624 + 16 * k) 16).sum
  let code := match s.ctx? c with | some x => x.codeHash.toNat | none => 0
  let ek := match Sparse.find? s.mgmt.kems c with | some d => (Config.shake256 1568 (kemKey d).toNat).toNat | none => 0
  nonce.toNat + meas + at_ s.dev 4608 16 + svn + at_ c 4752 8 + at_ (s.isConf c).toNat 4760 1 + at_ (s.keyIdOf c) 4768 10
    + at_ code 4800 512 + at_ ek 5312 512

/-- A report with its signature from byte 728. -/
def State.report (s : State) (nonce : BitVec 512) (c : Nat) : Nat :=
  let t := s.reportText nonce c
  t + Config.slhSign (Sparse.get s.mgmt.meas 0 0).toNat t % 2 ^ (8 * 29792) * 2 ^ 5824

/-- ATTESTATION_REPORT (R434). -/
def execAttestationReport (nonce : BitVec 512) (ctx : BitVec 8) (s : State) : Out :=
  .next (s.reply (s.report nonce ctx.toNat))

/-- The lowest key id that is free, 1 to 1,023. -/
def State.freeKey (s : State) : Option Nat :=
  (List.range 1023).map (· + 1) |>.find? fun k =>
    (Sparse.find? s.mgmt.keys k).isNone && !(s.mgmt.tenants.any fun t => t.2.1 == k) && !(List.any s.ctxs fun c => c.2.key == k)

/-- KEM_NEW (R435): a fresh ML-KEM pair; the encapsulation key and a report that binds it, with the mailbox's first 64
bytes as its nonce (notes/assumptions/30.md). -/
def execKemNew (ctx : BitVec 8) (s : State) : Out :=
  let c := ctx.toNat
  .next (if (s.ctx? c).isSome then s.strayed
    else
      let s1 := s.drew.modMgmt fun m => { m with kems := Sparse.set m.kems c s.fresh }
      s1.reply ((kemKey s.fresh).toNat + s1.report (s.mgmt.mailbox.setWidth 512) c * 2 ^ (8 * 1568)))

/-- KEM_SET (R435): the shared secret of the ciphertext, a free key id and CONFIRM; behind the ciphertext stands the hash
of the tenant's signer (R439). -/
def execKemSet (ctx : BitVec 8) (ct : Nat) (s : State) : Out :=
  let c := ctx.toNat
  .next (match Sparse.find? s.mgmt.kems c, s.freeKey with
    | some d, some k =>
      if (s.ctx? c).isSome then s.strayed
      else
        let ss := Config.kemSecret d (ct % 2 ^ (8 * 1568)) % 2 ^ 256
        let signer := ct / 2 ^ (8 * 1568) % 2 ^ 512
        (s.modMgmt fun m => { m with
          tenants := m.tenants.filter (fun t => t.1 != c) ++ [(c, k, ss + signer * 2 ^ 256)] }).reply
          (k + 2 ^ 16 * deriveKey ss c labelConfirm 32)
    | _, _ => s.strayed)

/-- KEY_NEW (R435): a random key under a free key id, for a context that is not confidential. -/
def execKeyNew (_ctx : BitVec 8) (s : State) : Out :=
  .next (match s.freeKey with
    | some k => (s.drew.modMgmt fun m => { m with keys := Sparse.set m.keys k s.fresh }).reply k
    | none => s.strayed)

-- HEALTH AND INTERVAL RECORDS (R418, R444)

/-- HEALTH_UPDATE: PEOL of a die; its estimates are free within their limits (R444). -/
def execHealthUpdate (die : Nat) (s : State) : Out :=
  let x := (Config.freeWord s.fresh).toNat
  let old := (Sparse.get s.mgmt.peol 0xFFFF die).toNat / 2 ^ 32
  .next (s.drew.modMgmt fun m => { m with peol := Sparse.set m.peol die (BitVec.ofNat 64
    (x % 2 ^ 16 + at_ (x / 2 ^ 16 % 101) 16 8 + at_ (1 + x / 2 ^ 24 % 3) 24 8 + at_ (old + 1) 32 32)) })

/-- The sum of a tile's counts of one class. -/
def Tile.classSum (t : Tile) (c : Nat) : Nat :=
  (List.range 16).foldl (fun n i => n + (Sparse.get t.counts 0 (countKey c i)).toNat) 0

/-- INTERVAL_RECORD: the counts of an element's configuration interval go to the management log with the interval's CVER, encrypted for
a confidential context, and start again; the interval that a load begins has its line's version, and none begins when the line ends
(R365, R418, R420; notes/assumptions/21.md). -/
def execIntervalRecord (tile : Nat) (s : State) : Out :=
  let t := s.tile tile
  let c := t.ctx.getD 0
  let line := List.find? (fun (l : Nat × Line) => l.2.region_.contains tile) s.lines
  let runs := List.find? (fun (l : Nat × Line) => l.2.region_.contains tile && !l.2.exited) s.lines
  let region := match line with | some l => l.2.region | none => 0
  let next : BitVec 16 := match runs with | some l => l.2.cver | none => 0
  let head := 1 + at_ (dieOf tile) 8 2 + at_ (localOf tile) 16 8 + at_ region 24 6 + at_ t.cver.toNat 32 16
  let body := ((List.range 5).map fun k => at_ (t.classSum k) (64 * k) 64).sum
  let rec_ : Blk :=
    if s.isConf c then
      let x := (Config.gcmSeal (deriveKey (s.secret c) c labelRec 32) (Config.freeWord s.fresh).toNat head body).toNat
      BitVec.ofNat 512 (head + at_ x 64 448)
    else BitVec.ofNat 512 (head + body * 2 ^ 64)
  .next ((if t.cver = 0 then s else s.drew.logRec rec_).modTile tile fun t => { t with counts := [], cver := next })

end Sys2Proof.Machine
end

