-- ==== Sys2Proof/Machine/Trigger.lean ====
section
/-! DEFINITION. Triggers: the registers that a slot reads and writes, the conditions of R232, the bank of a firing, the
grant of an issue table and the class of a tile's cycle (R118, R166, R191, R231 to R237, R240, R317, R318, R339, R361,
R384, R418, R455). -/

namespace Sys2Proof.Machine

-- THE REGISTERS OF A SLOT (R234)

/-- g registers of a bank. -/
def gRes (b : Nat) (rs : List (Fin 16)) : List Res := rs.map fun r => .g b r.val
/-- The registers of groups of v registers. -/
def vRes (b : Nat) (g : Grp) (rs : List (Fin 16)) : List Res := rs.flatMap fun r => (grpRegs g r).map (.v b ·)
/-- PD. -/
def pdRes (b : Nat) (pd : PDst) : List Res := match pd with | some n => [.p b n.val] | none => []
/-- PS. -/
def psRes (b : Nat) (ps : PSet) : List Res := match ps with | some (n, _) => [.p b n.val] | none => []
/-- The predicates of a mask. -/
def maskRes (b : Nat) (mask : BitVec 8) : List Res :=
  ((List.range 8).filter fun n => mask.getLsbD n).map fun n => .p b n
/-- The codebook that a format reads (R82). -/
def fmtRes (f : Fmt) : List Res := match f with | .cb n => [.cb n.val] | _ => []
/-- The codebooks of format codes. -/
def codeRes (xs : List VReg) : List Res :=
  (xs.flatMap fun x => match Fmt.of x.pair.fmt with | some f => fmtRes f | none => []).eraseDups
/-- The g registers of descriptor pairs. -/
def dscRes (b : Nat) (p : Fin 8) : List Res := [.g b (2 * p.val), .g b (2 * p.val + 1)]
/-- A matrix source operand. -/
def srcRes (b : Nat) (x : MSrc) : List Res :=
  match x with
  | .m r => [.m r.val]
  | .sp p => dscRes b p
  | .queue _ => []
/-- A number in the word or in a g register. -/
def immRes (b : Nat) (x : ImmOrG) : List Res := match x with | .reg g => gRes b [g] | .imm _ => []
/-- A scratchpad address. -/
def spRes (b : Nat) (x : SpAddr) : List Res := match x with | .index g => gRes b [g] | .gen _ => []

/-- The v registers of a conversion, by the format that its first source register holds; one whose source has no width, or whose
destination is the wide side whatever it is (`wide`), writes the whole group at D (R299, R302). -/
def convRes (s : State) (g : Grp) (wd part : Nat) (d s1 : Fin 16) (wide : Bool) : List Res :=
  let b := s.cur.bank
  let src := boundedRegs g s1
  let whole := boundedRegs g d
  let p := (s.vn s1.val).pair.fmt
  let (dst, cbs) : List Nat × List Res := match firstVTok (src.map s.vn), (if p = 0 then none else Fmt.of p) with
    | none, some f => (if wide then whole else (convShape g f.bits wd part d s1).dsts.filter (· ≤ 15), fmtRes f)
    | _, _ => (whole, [])
  (src ++ dst).map (.v b ·) ++ cbs

/-- Every register, predicate and special register that a slot reads or writes in the firing's bank, but for the
accumulator of a chain (R231, R234, R317). -/
def uses (s : State) (i : Instr) : List Res :=
  let b := s.cur.bank
  match i with
  | .add _ _ pd d x y | .sub _ _ pd d x y | .mul _ _ pd d x y | .mulh _ pd d x y | .div _ _ pd d x y | .rem _ pd d x y
  | .and _ pd d x y | .or _ pd d x y | .xor _ pd d x y | .andn _ pd d x y | .shl _ _ pd d x y | .shr _ pd d x y
  | .sar _ pd d x y | .min _ pd d x y | .max _ pd d x y | .fadd _ _ pd d x y | .fsub _ _ pd d x y | .fmul _ _ pd d x y
  | .ffma _ _ pd d x y | .fmin pd d x y | .fmax pd d x y => gRes b [d, x, y] ++ pdRes b pd
  | .clz _ pd d x | .popc _ pd d x | .bfx _ _ _ pd d x | .bfi _ _ pd d x | .fcvt _ _ _ pd d x | .addi _ pd d x _
  | .andi _ pd d x _ | .ori _ pd d x _ | .xori _ pd d x _ | .shli _ pd d x _ | .shri _ pd d x _ => gRes b [d, x] ++ pdRes b pd
  | .sel p d x y => .p b p.val :: gRes b [d, x, y]
  | .cmp _ _ pd x y | .fcmp _ pd x y => .p b pd.val :: gRes b [x, y]
  | .widx _ pd d | .movi _ pd d _ => gRes b [d] ++ pdRes b pd
  | .movhi _ d _ => gRes b [d]
  | .cmpi _ _ pd x _ => .p b pd.val :: gRes b [x]
  | .pset mask _ => maskRes b mask
  | .plog _ p q pd => [.p b p.val, .p b q.val, .p b pd.val]
  | .pmovRead d => maskRes b 0xFF ++ gRes b [d]
  | .pmovWrite x mask => maskRes b mask ++ gRes b [x]
  | .ld _ _ _ d x _ | .st _ _ _ d x _ => gRes b [d, x]
  | .ldb _ _ d x _ | .stb _ _ d x _ | .stbObj _ _ d x _ => .v b d.val :: gRes b [x]
  | .stbUnobj _ _ x _ | .pref _ _ x _ => gRes b [x]
  | .sld _ a d | .sst _ a d => spRes b a ++ gRes b [d]
  | .sldb a d | .sstb a d => .v b d.val :: spRes b a
  | .afadd _ _ _ d x y _ | .acas _ _ _ _ d x y _ | .aswap _ _ _ d x y _ | .amin _ _ _ _ d x y _ | .amax _ _ _ _ d x y _
  | .aand _ _ _ d x y _ | .aor _ _ _ d x y _ | .bind d x y _ => gRes b [d, x, y]
  | .unbind x _ | .unbindObj x _ => gRes b [x]
  | .acqLockWait _ d x y _ | .acqLockTry _ d x y _ | .acqFlagWait _ _ d x y _ | .acqFlagAny _ d x y _ | .barr _ d x y _
  | .barrNowait _ d x y _ | .sdec _ d x y _ | .sinc _ d x y _ => gRes b [d, x, y]
  | .relLock _ x y _ | .relSet _ x y _ | .relAdd _ x y _ => gRes b [x, y]
  | .fenceRel .. | .fenceAcq .. | .fenceAr .. => []
  | .rpush _ _ n x y _ => [.p b n.val, .v b y.val] ++ gRes b [x]
  | .rpop _ _ n d x _ => [.p b n.val, .v b d.val] ++ gRes b [x]
  | .csusp d x y _ => dscRes b d ++ gRes b [x, y]
  | .cres d x y _ => .v b y.val :: gRes b [d, x]
  | .cresSp d x y _ => gRes b [d, x, y]
  | .ctag d x _ => gRes b [d, x]
  | .cpois x y _ => gRes b [x, y]
  | .vadd g _ _ f _ d x y | .vsub g _ _ f _ d x y | .vmul g _ _ f _ d x y | .vfma g _ _ f _ d x y | .vmin g _ _ f _ d x y
  | .vmax g _ _ f _ d x y => vRes b g [d, x, y] ++ fmtRes f
  | .vabs g _ _ f _ d x | .vneg g _ _ f _ d x => vRes b g [d, x] ++ fmtRes f
  | .vand g d x y | .vor g d x y | .vxor g d x y | .vsel g _ d x y | .vperm g _ d x y => vRes b g [d, x, y]
  | .vshl g _ n d x | .vshrLsr g _ n d x | .vshrAsr g _ n d x =>
    vRes b g ([d, x] ++ match n with | .lanes r => [r] | .imm _ => [])
  | .vcmp g _ _ f pd d x y => vRes b g [d, x, y] ++ pdRes b pd ++ fmtRes f
  | .vrcp g _ _ f _ d x | .vrsq g _ _ f _ d x | .vexp2 g _ _ f _ d x | .vlog2 g _ _ f _ d x => vRes b g [d, x] ++ fmtRes f
  | .vcvt g _ _ f _ part d x => convRes s g f.bits part.val d x false ++ fmtRes f
  | .vqnt g _ _ f d x => convRes s g f.bits 0 d x false ++ fmtRes f
  | .vcbx g part d x => convRes s g 16 part.val d x true
  | .vred _ g _ _ f _ pd d x => .v b d.val :: (vRes b g [x] ++ pdRes b pd ++ fmtRes f)
  | .vscan _ g _ _ f _ d x => vRes b g [d, x] ++ fmtRes f
  | .vbcast g _ _ d x | .viota g _ _ d x => vRes b g [d] ++ gRes b [x]
  | .vbcastLane g _ _ d x => .v b x.val :: vRes b g [d]
  | .vmovg _ d x => .v b x.val :: gRes b [d]
  | .vmovgIns _ d x | .vmovgPair d x => .v b d.val :: gRes b [x]
  | .vmovgCp g d x => vRes b g [d, x]
  | .mld _ d p gx | .mldt _ d p gx => .m d.val :: (dscRes b p ++ gRes b [gx])
  | .mldQueue d _ gx => .m d.val :: gRes b [gx]
  | .mst f _ _ p x gx =>
    (match x with | .m r => .m r.val | .a r => .a r.val) :: (dscRes b p ++ gRes b [gx] ++ fmtRes f)
  | .mzero d => [match d with | .m r => .m r.val | .a r => .a r.val | .pv r => .pv r.val]
  | .mma _ _ f _ x y gx | .mmat _ _ f _ x y gx =>
    srcRes b x ++ srcRes b y ++ gRes b [gx] ++ fmtRes f ++
      codeRes ([x, y].flatMap fun o => match o with | .m r => (List.range 128).map (s.here.mblk r.val) | _ => [])
  | .macc _ _ _ q => [.a q.val]
  | .maccQueue f _ _ _ _ gx => gRes b [gx] ++ fmtRes f
  | .mdrain f _ _ _ a t gx => .a a.val :: (gRes b (gx :: match t with | .reg g => [g] | .queue _ => []) ++ fmtRes f)
  | .mluF d pv n gx | .mluC d pv n gx | .mqr d pv n gx => [.a d.val, .pv pv.val, .fs] ++ gRes b [n, gx]
  | .mchol d n gx => [.a d.val, .fs] ++ gRes b [n, gx]
  | .mtrsm _ _ _ _ d q n => [.a d.val, .a q.val, .fs] ++ gRes b [n]
  | .mperm _ _ d pv n => [.a d.val, .pv pv.val] ++ gRes b [n]
  | .mqapp _ _ d q pv gx => [.a d.val, .a q.val, .pv pv.val, .fs] ++ gRes b [gx]
  | .mfst d | .mfstHi d => .fs :: gRes b [d]
  | .mfstW x | .mfstWhi x => .fs :: gRes b [x]
  | .mfstClr => [.fs]
  | .sspec d x | .sbarWait d x | .sbarFlush d x | .sbarStop d x | .sbarQuery d x | .jcopy d x _ | .jgath d x _ | .jscat d x _
  | .jcoll d x _ | .prom d x | .waitbJob d x | .histRd d x _ => gRes b [d, x]
  | .sbarCommit d x y | .hist d x y _ | .hoffer d x y _ | .hdump d x y _ | .hdumpClr d x y _ | .hdumpInit d x y _
  | .cfg d x y => gRes b [d, x, y]
  | .waitb x | .rngseed x => gRes b [x]
  | .hand ps | .deqDiscard _ ps | .cancel _ ps | .pull _ _ ps | .nop ps => psRes b ps
  | .emit _ x ps => psRes b ps ++ match x with | .reg v => [.v b v.val] | .queue _ => []
  | .deq d _ ps => .v b d.val :: psRes b ps
  | .hdr d _ _ ps | .hdrOwn d _ ps | .sethdr _ d ps | .cancelSeq _ d ps | .splice d ps => gRes b [d] ++ psRes b ps
  | .route _ x ps | .switch x ps => immRes b x ++ psRes b ps
  | .steer p _ _ => [.p b p.val]
  | .trap _ g _ => match g with | some r => gRes b [r] | none => []
  | .feat d x => gRes b [d] ++ immRes b x
  | .beat d x => gRes b [d, x]
  | .beatB d _ | .rdctr d _ _ | .rdbeat d _ => gRes b [d]
  | .govn d p => gRes b [d] ++ dscRes b p
  | .yield | .exitl | .exitlNow => []
  | .watch d x _ _ _ _ => gRes b [d, x]
  | .ldcb n x => .cb n.val :: gRes b [x]
  | .ldcbV n v _ => [.cb n.val, .v b v.val]
  | _ => []

/-- The accumulator into which an instruction chains (R317). -/
def chainOf : Instr → Option Nat
  | .mma _ _ _ d _ _ _ | .mmat _ _ _ d _ _ _ | .macc _ _ d _ | .maccQueue _ _ _ d _ _ => some d.val
  | _ => none

/-- The predicates that a trigger tests. -/
def testRes (b : Nat) (trig : BitVec 32) : List Res := maskRes b (trig.extractLsb' 24 8)

/-- The results that a tile's units await: whether an accumulator's is of a chain alone (R234, R317). -/
def State.pending (s : State) (tile : Nat) : List (Res × Bool) :=
  (s.results.filter fun r => r.fire.tile == tile).flatMap (fun r =>
    r.writes.map fun w => (w.target, match w with | .chain _ => true | _ => false)) ++
  (s.accs.filter fun a => a.actor < hostKey && isAccActor a.actor && a.fire.tile == tile && !a.discard).flatMap fun a =>
    (accTargets a.op a.fire.bank).map fun r => (r, false)
where
  /-- Accesses of stations, bay tiles and running evaluations. -/
  isAccActor (k : Nat) : Bool := k < 65536

/-- The scoreboard (R232, R234, R317): no register of the slot awaits a result. -/
def State.scoreOk (s : State) (i : Instr) (trig : BitVec 32) : Bool :=
  let ps := s.pending s.cur.tile
  let rs := uses s i ++ testRes s.cur.bank trig
  !(ps.any fun p => rs.contains p.1 || (!p.2 && chainOf i == some (match p.1 with | .a r => r | _ => 4)))

-- UNITS THAT A SLOT NEEDS

/-- The instructions of class 100, which need the matrix array (R317). -/
def isMatrix : Instr → Bool
  | .mld .. | .mldQueue .. | .mldt .. | .mst .. | .mzero .. | .mma .. | .mmat .. | .macc .. | .maccQueue .. | .mdrain ..
  | .mluF .. | .mluC .. | .mchol .. | .mqr .. | .mtrsm .. | .mperm .. | .mqapp .. | .mfst .. | .mfstHi .. | .mfstW ..
  | .mfstWhi .. | .mfstClr => true
  | _ => false

/-- Whether the unit that the slot needs is free (R135, R240, R317, R339); a HAND waits for the release-side FENCEs of its unit
(R144; notes/assumptions/99.md). -/
def State.unitFree (s : State) (i : Instr) : Bool :=
  let t := s.here
  (match i with | .div .. | .rem .. => decide (t.divBusy ≤ s.cycle) | _ => true)
  && (!isMatrix i || decide (t.arrBusy ≤ s.cycle))
  && ((waveOf i).isNone || decide (s.waveCount s.cur.actor < Config.waveBuffer))
  && (match i with
    | .hand _ => decide (s.me.drainBusy ≤ s.cycle) && !(s.accs.any fun a => a.actor == s.cur.actor && isRelFence a.op)
    | _ => true)

-- ITEMS, QUEUES AND THE HOLD STORE

/-- The item-bound instructions (R233). -/
def itemBound : Instr → Bool
  | .hand .. | .emit .. | .deq .. | .deqDiscard .. | .sethdr .. | .route .. | .steer .. | .cancel .. | .splice .. => true
  | _ => false

/-- The flits of a row, for a queue-row form, and its queue (R318). -/
def rowForm : Instr → Option (Nat × Nat)
  | .mldQueue _ q _ => some (q.val, 2)
  | .mma _ _ _ _ (.queue q) _ _ | .mmat _ _ _ _ (.queue q) _ _ => some (q.val, 2)
  | .maccQueue f _ _ _ q _ => some (q.val, 64 * f.bits / 512)
  | _ => none

/-- Whether a queue's condition is met: it has a head, and for its queue-row form a whole row, or the end of the item
(R237, R318). -/
def State.queueHolds (s : State) (i : Instr) (q : Nat) : Bool :=
  (s.head q).isSome && (match rowForm i with
    | some (p, f) =>
      if p = q then
        let es := rowEntries (s.here.queue q) f
        es.length == f || es.any (·.last)
      else true
    | none => true)

/-- Flits that an instruction places in the hold store (R251, R324, R326). -/
def State.places (s : State) (i : Instr) : Nat :=
  match i with
  | .emit .. => 1
  | .mma true _ _ _ (.queue _) _ _ | .mmat true _ _ _ (.queue _) _ _ => 2
  | .mdrain f _ _ _ _ _ gx =>
    let r := rowWord (s.g gx).val
    if (s.g gx).isTok ∨ !r.clean ∨ r.count = 0 ∨ 64 < r.srow + r.count then 0 else r.count * (8 * f.bits / 64)
  | _ => 0

/-- Flits in a unit's hold store: those held, visible ones that have not drained, and those of items that a full parking store holds
back (R169, R393). -/
def State.heldCount (s : State) (key : Nat) : Nat :=
  (s.actor key).hold.length + ((s.actor key).stuck.map fun x => x.2.1.flits.length).sum + ((s.tile (s.actor key).tile).out.filter fun o => o.actor == key && !o.pass).length

/-- OQE (R232, R257). -/
def State.oqHolds (s : State) (i : Instr) (oq : Nat) : Bool :=
  decide (s.heldCount s.cur.actor + s.places i ≤ Config.holdFlits) &&
  (match mapEntry (s.tile s.portTile).oqmap oq with
    | some (_, 7) => Sparse.get (s.tile s.portTile).demand 0 oq != 0
    | _ => true)

-- THE CONDITIONS OF R232

/-- Whether a line's units may fire: it runs, from its first boundary on, and is neither frozen, stopped nor ended (R167, R186,
R362, R384, R417). -/
def State.lineFires (s : State) (k : Nat) : Bool :=
  match s.line? k with
  | some l => l.running && decide (0 < l.beats) && !l.frozen && !l.stopped && !l.exited
  | none => false

/-- Whether an evaluation may fire: its record is not queued on a cell, its context runs, and no CRES of its own is under
way (R114, R386, R455). -/
def State.evalFires (s : State) (key : Nat) : Bool :=
  (match s.recOf key with
    | some (die, r) => r.queued.isNone && s.evalRuns die r
    | none => false)
  && !(s.accs.any fun a => a.actor == key && (match a.op with | .cres .. | .cresSp .. => true | _ => false))

/-- The station-state condition (R232), with the sleep of WAITB (R355) and a full trap ring (R406); a bay tile's rework ends
with its HAND (R176), or with its item's record (R402). -/
def State.unitReady (s : State) (key : Nat) : Bool :=
  let a := s.actor key
  a.switchTo.isNone && !a.closed && a.sleep.isNone && !s.stalls key &&
  (match a.kind with
    | .eval => s.evalFires key
    | .bay => s.lineFires a.line && !(match a.item with
        | some i => i.handed || (i.record.isSome && decide (i.marked < s.cycle))
        | none => true)
    | _ => s.lineFires a.line)

/-- The predicates are as the trigger tests them (R232). -/
def State.testHolds (s : State) : Bool := (s.bk.p &&& s.cur.trig.extractLsb' 24 8) == s.cur.trig.extractLsb' 16 8

/-- The conditions of R232 other than the station's state, the queues and the hold store. -/
def State.slotFree (s : State) (i : Instr) : Bool :=
  (!itemBound i || (match s.me.item with
    | some x => !x.handed && (x.record.isNone || decide (s.cycle ≤ x.marked))
    | none => false))
  && s.testHolds && s.scoreOk i s.cur.trig && s.unitFree i
  && (match i with
    | .splice .. => (match s.line? s.me.line with | some l => l.splice.isNone | none => false)
    | _ => true)

/-- QAE, RTE and QBE (R232). -/
def State.queuesHold (s : State) (i : Instr) : Bool :=
  let t := s.cur.trig
  (trg t 15 1 != 1 || s.queueHolds i (trg t 12 3))
  && (trg t 3 1 != 1 || (match s.head (trg t 12 3) with | some e => e.hdr.rtag.toNat == trg t 0 3 | none => false))
  && (trg t 11 1 != 1 || s.queueHolds i (trg t 8 3))

/-- OQE, when the trigger enables it. -/
def State.outHolds (s : State) (i : Instr) : Bool := trg s.cur.trig 7 1 != 1 || s.oqHolds i (trg s.cur.trig 4 3)

/-- Whether a slot holds; `s.cur` is the firing that it would make (R232). -/
def State.holds (s : State) (i : Instr) : Bool := s.queuesHold i && s.outHolds i && s.slotFree i

-- BANKS (R235)

/-- The bank of a firing: the CTAG of queue QA's head, or the one that the issue table names. -/
def State.bankFor (s : State) (key : Nat) (mask : List Nat) (trig : BitVec 32) (table : Nat) : Nat :=
  let a := s.actor key
  if a.kind = .eval ∨ trg trig 15 1 ≠ 1 then table
  else
    match a.item, ((s.tile a.tile).queue (trg trig 12 3)).head? with
    | some _, some e => if mask.contains e.hdr.ctag.toNat then e.hdr.ctag.toNat else mask.headD 0
    | _, _ => table

/-- A candidate: its firing and its instruction. -/
def State.candidate (s : State) (key slot table : Nat) : Option (Firing × Instr) :=
  let a := s.actor key
  let c := (s.tile a.tile).cfg a.active
  let x := c.slot slot
  if x = vacant then none
  else
    match decode (slotOp x) with
    | .error _ => none
    | .ok i =>
      some (⟨a.tile, a.active, slot, s.bankFor key (bankList c.banks) (slotTrig x) table, key, slotTrig x⟩, i)

/-- The candidates of a unit, lowest slot first. -/
def State.candidates (s : State) (key table : Nat) : List (Firing × Instr) :=
  (List.range 16).filterMap fun n => s.candidate key n table

/-- The firing of a granted cycle (R234): a stopped factorisation's slot goes first, once the array and its registers are
free (R317, R340), then the lowest slot that holds. -/
def State.choose (s : State) (key table : Nat) : Option Firing :=
  if !s.unitReady key then none
  else
    match (s.actor key).reissue with
    | some r =>
      let f : Firing := { r.fire with actor := key, tile := (s.actor key).tile }
      let s1 := { s with cur := f }
      if s1.scoreOk r.op f.trig && s1.unitFree r.op then some f else none
    | none => ((s.candidates key table).find? fun c => { s with cur := c.1 }.holds c.2).map (·.1)

/-- Whether an evaluation has taken its last firing (R121): nothing that it has issued is outstanding, and no slot's predicates,
queues and item are such that it could still hold. -/
def State.lastFired (s : State) (key table : Nat) : Bool :=
  isEvalKey key && s.unitReady key && (s.actor key).reissue.isNone && !s.evalPending key (s.actor key).tile && !(s.accs.any fun a => a.actor == key)
  && (s.candidates key table).all fun c =>
    let s1 := { s with cur := c.1 }
    itemBound c.2 || !(s1.testHolds && s1.queuesHold c.2 && s1.outHolds c.2)

-- GRANTS (R118, R166, R235, R361, R384)

/-- What a cycle's issue-table entry grants: a unit and the bank of its firings. -/
structure Grant where
  key : Nat
  bank : Nat
  deriving DecidableEq, Repr

/-- The issue-table entry of a phase (R221). -/
def Tile.entry (t : Tile) (i : Nat) : Nat := t.issue.toNat / 2 ^ (4 * i) % 16

/-- The station that a configuration of a tile belongs to, by its key. -/
def State.ownerOf (s : State) (tile c : Nat) : Option Nat :=
  let t := s.tile tile
  if (t.cfg c).valid then
    let key := stationKey (48 * dieOf tile + (t.cfg c).region) (t.cfg c).stnNo
    if (Sparse.find? s.actors key).isSome then some key else none
  else none

/-- The number of an entry among those that name configurations of the same station (R235). -/
def State.entryNo (s : State) (tile key i : Nat) : Nat :=
  ((List.range i).filter fun j => (s.tile tile).entry j < 8 && s.ownerOf tile ((s.tile tile).entry j) == some key).length

/-- The bank that the entry numbered j names. -/
def nthBank (mask : List Nat) (j : Nat) : Nat := (mask[j % mask.length]?).getD 0

/-- The stations of a tile, by key, in increasing number, and of one number by region: stations of SHARE lines may have one number
(R217, R379). -/
def State.tileStations (s : State) (tile : Nat) : List Nat :=
  (List.range 64).flatMap fun n =>
    (List.range 48).filterMap fun r =>
      let key := stationKey (48 * dieOf tile + r) n
      if (stationsOf (s.tile tile)).any (fun x => x.1 == n && x.2.1 == r) && (Sparse.find? s.actors key).isSome then some key
      else none

/-- The banks of a unit's active configuration. -/
def State.banksOf (s : State) (key : Nat) : List Nat :=
  let a := s.actor key
  bankList ((s.tile a.tile).cfg a.active).banks

/-- Whether a tile is one of its die's pool (R118). -/
def State.poolSlot (s : State) (tile n : Nat) : Option Nat :=
  let die := dieOf tile
  let x := localOf tile % 16
  let y := localOf tile / 16
  let i := (11 - y) * 16 + x
  if i < (s.die die).poolSize then some (evalKey die (4 * i + n)) else none

/-- The grant of a tile in this cycle (R118, R166, R361). -/
def State.grantOf (s : State) (tile : Nat) : Option Grant :=
  let t := s.tile tile
  let i := t.phase
  match s.poolSlot tile (i % 4) with
  | some key => if (Sparse.find? s.actors key).isSome then some ⟨key, i % 4⟩ else none
  | none =>
    if (Sparse.find? s.actors (bayKey tile)).isSome then
      if (s.actor (bayKey tile)).yielded then none else some ⟨bayKey tile, nthBank (s.banksOf (bayKey tile)) i⟩
    else if 8 ≤ t.entry i then none
    else
      match s.ownerOf tile (t.entry i) with
      | none => none
      | some key =>
        if !(s.actor key).yielded then some ⟨key, nthBank (s.banksOf key) (s.entryNo tile key i)⟩
        else
          match (s.tileStations tile).find? fun k => k != key && !(s.actor k).yielded with
          | some k => some ⟨k, (s.banksOf k).headD 0⟩
          | none => none

/-- The grant is counted to its line, or to the context's evaluations (R384, R385). -/
def State.countGrant (s : State) (key : Nat) : State :=
  let a := s.actor key
  if a.kind = .eval then s.evalGrant (dieOf a.tile) a.ctx else s.lineGrant a.line

-- THE CLASS OF A TILE'S CYCLE (R418)

/-- The queue on which a slot waits, when its queues alone are in its way: QA before QB. -/
def State.waitsOn (s : State) (c : Firing × Instr) : Option Nat :=
  let s1 := { s with cur := c.1 }
  if s1.outHolds c.2 && s1.slotFree c.2 && !s1.queuesHold c.2 then
    if trg c.1.trig 15 1 = 1 ∧ !s1.queueHolds c.2 (trg c.1.trig 12 3) then some (trg c.1.trig 12 3)
    else if trg c.1.trig 11 1 = 1 ∧ !s1.queueHolds c.2 (trg c.1.trig 8 3) then some (trg c.1.trig 8 3)
    else none
  else none

/-- The class of a cycle in which no station of the tile fired, `blocked` being the lowest port with flits under
back-pressure; class and queue or port. -/
def State.classOf (s : State) (tile : Nat) (grant : Option Grant) (fired : Bool) (blocked : Option Nat) : Nat × Nat :=
  if List.any s.actors fun a => a.2.tile == tile && a.2.switchTo.isSome then (3, 0)
  else if fired then (0, 0)
  else
    let wait := match grant with
      | some g => if s.unitReady g.key then (s.candidates g.key g.bank).findSome? s.waitsOn else none
      | none => none
    match wait, blocked with
    | some q, _ => (1, q)
    | none, some p => (2, p)
    | none, none => (4, 0)

/-- One more cycle of a class. -/
def Tile.count (t : Tile) (c i : Nat) : Tile :=
  { t with counts := Sparse.set t.counts (countKey c i) (Sparse.get t.counts 0 (countKey c i) + 1) }

end Sys2Proof.Machine
end

