-- ==== Sys2Proof/Machine/Fabric.lean ====
section
/-! DEFINITION. The tile fabric: flits that leave a tile and reach its neighbour, pass-through tiles, flits that no queue
takes, and the request tokens of PULL (R72, R169, R188, R222, R257, R471). -/

namespace Sys2Proof.Machine

/-- Flits on their way into a (port, route tag) of a tile. -/
def State.inFlight (s : State) (tile p tag : Nat) : Nat :=
  (s.flights.filter fun f => f.tile == tile && f.port == p && f.tag == tag && !f.entry.hdr.req && !f.entry.hdr.can).length

/-- Whether a tile's (port, route tag) has room for a flit; where no queue is mapped, a flit is discarded (R188, R471). -/
def State.roomAt (s : State) (tile p tag : Nat) : Bool :=
  let t := s.tile tile
  match queueAt t p tag with
  | none => true
  | some q =>
    let n := if t.hasStation then (t.queue q).length else (t.out.filter fun o => o.pass && o.oq == q && !o.entry.hdr.can).length
    decide (n + s.inFlight tile p tag < Config.queueFlits)

/-- The first visible flit of each channel of a port, as (time, tag), lowest tag first (R188). -/
def portHeads (cycle : Nat) (out : List OutFlit) (p : Nat) : List OutFlit :=
  (List.range 8).filterMap fun tag => (out.find? fun o => o.port == p && o.tag == tag).filter fun o => decide (o.vis ≤ cycle)

/-- Whether the channel of a flit that stands first on its tile may pass it on; a cancel token occupies no entry (R237). -/
def State.mayLeave (s : State) (tile : Nat) (o : OutFlit) : Bool :=
  match neighbour tile o.port with
  | some t => o.entry.hdr.can || s.roomAt t (facing o.port) o.tag
  | none => true

/-- The flit that a port sends in this cycle: the oldest, and of these the lowest tag, among channels with room (R188). -/
def State.nextFlit (s : State) (tile p : Nat) : Option OutFlit :=
  ((portHeads s.cycle (s.tile tile).out p).filter (s.mayLeave tile)).foldl (fun b o => match b with
    | some x => if o.vis < x.vis then some o else some x
    | none => some o) none

/-- The lowest port of a tile whose visible flits wait under back-pressure (R418). -/
def State.blockedPort (s : State) (tile : Nat) : Option Nat :=
  (List.range 4).find? fun p => (portHeads s.cycle (s.tile tile).out p).any fun o => !s.mayLeave tile o

/-- A flit that no queue takes: its item's last one writes the record of R471 to the ring of the sender's context. -/
def State.noQueue (s : State) (tile p tag sender : Nat) (e : Entry) : State :=
  if !e.last then s
  else
    let o := { s.origin sender 0 with seq := e.hdr.seq.toNat, wid := e.hdr.wid.toNat }
    s.trap (s.actor sender).ctx (140000 + tile)
      (record s.dev o .link Cause.noQueue (at_ (localOf tile) 0 8 + at_ p 8 2 + at_ tag 10 3))

/-- FLIT_SEND (R169, R188): a port sends one flit, which reaches the adjacent tile two cycles on; at a port without a
neighbour it is discarded (notes/assumptions/35.md). -/
def execFlitSend (tile : Nat) (port : Fin 4) (s : State) : Out :=
  .next (match s.nextFlit tile port.val with
    | none => s
    | some o =>
      let s1 := s.modTile tile fun t => { t with out := t.out.erase o }
      match neighbour tile o.port with
      | none => s1.noQueue tile o.port o.tag o.actor o.entry
      | some t =>
        { s1 with
          flights := s1.flights ++ [⟨s1.nextFlight, t, facing o.port, o.tag, o.entry, o.actor, false⟩]
          nextFlight := s1.nextFlight + 1
          timers := s1.timers ++ [(s1.cycle + 2, .flitArrival s1.nextFlight)] })

/-- A header that no port sends (R72). -/
def Hdr.malformed (h : Hdr) : Bool := 64 < h.blen.toNat || 256 < h.rows.toNat || h.rsv != 0

/-- A malformed header poisons its item with E_LINK, cause HEADER (R72, R471). -/
def State.checkHeader (s : State) (key q : Nat) (e : Entry) : State × Entry :=
  if !e.hdr.malformed then (s, e)
  else s.strike key q e (record s.dev (s.portOrigin key e) .link Cause.header 0)

/-- FLIT_ARRIVAL (R169, R188, R237, R381, R471): a flit enters the queue that its (port, route tag) feeds, is held while its station's
line waits for a stream, goes on along a pass-through path, or is discarded. A cancel token ends here: its station has it. -/
def execFlitArrival (id : Nat) (s : State) : Out :=
  .next (match s.flights.find? fun f => f.id == id with
    | none => s
    | some f =>
      let s1 : State := { s with flights := s.flights.filter fun x => x.id != id }
      let t := s.tile f.tile
      match queueAt t f.port f.tag with
      | none => s1.noQueue f.tile f.port f.tag f.actor f.entry
      | some q =>
        if t.hasStation then
          match t.feeder q with
          | some (stn, region) =>
            let line := 48 * dieOf f.tile + region
            if s.loading line then
              { s with flights := s.flights.map fun (x : Flight) => if x.id = id then { x with held := true } else x }.after 1 (.flitArrival id)
            else
            if f.entry.hdr.can then s1 else
            let (s2, e) := s1.checkHeader (stationKey line stn) q f.entry
            s2.placeEntry line stn f.tile q e
          | none => s1
        else
          match mapEntry t.oqmap q with
          | some (p, tag) => s1.modTile f.tile fun x => { x with out := x.out ++ [⟨s.cycle, p, tag, f.entry, f.actor, q, true⟩] }
          | none => s1.noQueue f.tile f.port f.tag f.actor f.entry)

/-- The output queue of a tile on a (port, route tag). -/
def outAt (t : Tile) (p tag : Nat) : Option Nat := (List.range 8).find? fun q => mapEntry t.oqmap q = some (p, tag)

/-- REQUEST_TOKEN_ARRIVAL (R257): a token adds its n to the pull queue's demand, or crosses a pass-through tile in 2
cycles. -/
def execRequestTokenArrival (id : Nat) (s : State) : Out :=
  .next (match s.flights.find? fun f => f.id == id with
    | none => s
    | some f =>
      let s1 : State := { s with flights := s.flights.filter fun x => x.id != id }
      let t := s.tile f.tile
      match outAt t f.port f.tag with
      | none => s1
      | some q =>
        if t.hasStation then
          s1.modTile f.tile fun x => { x with
            demand := Sparse.set x.demand q (Nat.min 65535 (Sparse.get x.demand 0 q + f.entry.hdr.seq.toNat % 2 ^ 11)) }
        else
          match mapEntry t.iqmap q with
          | none => s1
          | some (p, tag) =>
            match neighbour f.tile p with
            | none => s1
            | some t' =>
              { s1 with
                flights := s1.flights ++ [{ f with id := s1.nextFlight, tile := t', port := facing p, tag := tag }]
                nextFlight := s1.nextFlight + 1
                timers := s1.timers ++ [(s1.cycle + 2, .requestTokenArrival s1.nextFlight)] })

end Sys2Proof.Machine
end

