-- ==== Sys2Proof/Machine/Cycle.lean ====
section
/-! DEFINITION. A cycle of the device: what falls due in it and in which order, the sends of the ports, the grants of the
issue tables and the fetch of the slot that fires (R4, R60, R166, R188, R234, R418; notes/assumptions/9.md and 36.md). -/

namespace Sys2Proof.Machine

-- THE ORDER OF EVENTS OF ONE CYCLE

/-- The rank of a copy or edge engine's act among those of a cycle (R60). -/
def engineRank (key : Nat) : Nat := 1000000 + key

/-- The place of an act among those that reach the homes in one cycle (R60): accesses by their requester, what an engine does by
its number, then the H-die's acts and the link ports'; a request that a link block hands on to its group's agent comes after
all that reach the agent directly (R107). What is no request at a home comes last. -/
def State.homeRank (s : State) (i : Instr) : Nat :=
  match i with
  | .homeAccess id =>
    match s.acc? id with
    | some a => requesterRank a + (if isMemory a.op && (s.side (paOf a.pa)).tag == tagGrouplink then 10000000 else 0)
    | none => 0
  | .streamElement die n => engineRank (engineKey die n)
  | .jobStart die n | .jobElement die n => engineRank (engineKey die (32 + n))
  | .linkFrameReceive p .. => 3000000 + portKey p
  | .linkResend p | .portDown p | .linkRetrain p => 3000000 + portKey p
  | _ => 4000000

/-- An act by which an agent makes writes of its own: a resolution, a poisoning, or what may end in one (R60). -/
def State.agentAct (s : State) (i : Instr) : Bool :=
  match i with
  | .homeAccess id =>
    match s.acc? id with
    | some a => (match a.op with
      | .cres .. | .cresSp .. => true
      | .cpois .. => decide ((s.side (paOf a.pa)).tag ≠ tagPlain)
      | _ => false)
    | none => false
  | .firstTouch .. | .groupResolution .. | .evaluationAbandon .. | .parking .. => true
  | _ => false

/-- The order of the acts of a cycle at the homes: the agents' own writes, then what has been held since an earlier cycle, by the
cycle of its arrival, then what arrives (R60, R107). -/
def State.homeKey (s : State) (i : Instr) : Nat :=
  let since : Nat := if s.agentAct i then 0
    else match i with
      | .homeAccess id => match s.acc? id with | some a => if a.heldAt = 0 then s.cycle else a.heldAt | none => s.cycle
      | _ => s.cycle
  since * 2 ^ 40 + s.homeRank i

/-- The rank of an act of the outside: the H-die's, or a link port's. -/
def State.outsideRank (s : State) (i : Instr) : Nat := Nat.min 3999999 (Nat.max 2000000 (s.homeRank i % 4000000))

/-- The rank of a flit that arrives: those that have waited at their port stand before later ones. -/
def flitRank : Instr → Nat | .flitArrival id => id | _ => 0

/-- Insertion behind the events of the same rank or a lower one. -/
def insertRank {α : Type} (rank : α → Nat) (x : α) : List α → List α
  | [] => [x]
  | y :: r => if rank y ≤ rank x then y :: insertRank rank x r else x :: y :: r

/-- Events by rising rank, in their order within a rank. -/
def sortRank {α : Type} (rank : α → Nat) (xs : List α) : List α := xs.foldl (fun acc x => insertRank rank x acc) []

/-- What falls due in a cycle, by kind. -/
def isRequest : Instr → Bool | .requestTokenArrival .. => true | _ => false
def isTurn : Instr → Bool | .configSwitchEnd .. | .bayConfigFetch .. => true | _ => false
def isFlit : Instr → Bool | .flitArrival .. => true | _ => false
def isAnswer : Instr → Bool | .answerDelivery .. => true | _ => false
def isOther (i : Instr) : Bool := !isRequest i && !isTurn i && !isFlit i && !isAnswer i

/-- The boundaries of the lines that are due, and the tries of deferred ones (R167, R174). -/
def State.boundaries (s : State) : List Instr :=
  List.filterMap (fun (l : Nat × Line) =>
    if l.2.deferred then some (.deferredBoundary l.1) else if s.due l.2 then some (.lineBoundary l.1) else none) s.lines

/-- What a die's launch engine, placer, evaluation pool, regulator and health estimator do in a cycle (R119, R372, R378,
R385, R444). -/
def State.dieWork (s : State) (die : Nat) : List Instr :=
  (if !s.mgmt.hot && s.mgmt.booted && (s.nextQueue die).isSome && (Sparse.find? (s.die die).held 0).isNone then
    [.launchRecordTake die] else [])
  ++ (if !s.mgmt.hot && (s.readyFirst die).isSome && (Sparse.find? (s.die die).held 1).isNone then [.dispatch die] else [])
  ++ (match s.nextEval die, s.freeSlot die with
    | some r, some _ => [if r.woken then .waking die r.evid else .evaluationStart die r.evid]
    | _, _ => [])
  ++ (if s.cycle % Config.period = 0 then [.regulatorPeriod die] else [])
  ++ (if s.cycle % 2 ^ 32 = 0 then [.healthUpdate die] else [])

/-- What the tiles' pending writes and the device's records do in a cycle (R225, R406, R430). -/
def State.deviceWork (s : State) : List Instr :=
  (List.range Config.dies).flatMap s.dieWork
  ++ (if s.traps = [] then [] else [.trapRecordWrite, .ringStallTimeout])
  ++ List.filterMap (fun (t : Nat × Tile) =>
    if t.2.pend.any (fun w => w.cfg == 8 && w.idx != 24) then some (.configWriteEffect t.1) else none) s.tiles
  ++ s.mgmt.routePend.map fun r => .routeEntryEffect r.1

/-- The tiles that a context has (R221, R223). -/
def State.liveTiles (s : State) : List Nat :=
  (List.filter (fun (t : Nat × Tile) => decide (t.1 < Config.dies * Config.tilesPerDie) && t.2.ctx.isSome) s.tiles).map (·.1)

/-- A cycle begins: the phases of the issue tables advance, and everything that falls due stands in its order: what the stations
find at the start of the cycle, the grants and the sends of the ports, the acts at the homes, and the device's own work (R60,
R232, R311). -/
def State.beginCycle (s : State) : State :=
  let c := s.cycle + 1
  let due := (s.timers.filter fun t => decide (t.1 ≤ c)).map (·.2)
  let ins := (s.inputs.filter fun t => decide (t.1 ≤ c)).map (·.2)
  let s1 : State := { s with
    cycle := c
    timers := s.timers.filter fun t => decide (c < t.1)
    inputs := s.inputs.filter fun t => decide (c < t.1)
    tiles := s.tiles.map fun t => (t.1, t.2.nextPhase) }
  let s2 := List.foldl (fun (s : State) (x : Nat × Ctx) => if x.2.tearing then (s.cancelEntries x.1).endCtx x.1 else s) s1.invDone s1.ctxs
  let results := s2.results.any (fun r => decide (r.due ≤ c)) || !s2.runsDue.isEmpty
  let first := due.filter isRequest ++ s2.boundaries ++ (if results then [.resultLatencyExpiry] else [])
    ++ due.filter isTurn ++ due.filter isAnswer ++ sortRank flitRank (due.filter isFlit)
  let homes := sortRank (fun (x : Nat × Instr) => x.1)
    ((due.filter isOther).map (fun i => (s2.homeKey i, i)) ++ ins.map fun i => (c * 2 ^ 40 + s2.outsideRank i, i))
  { s2 with agenda := s2.agenda ++ first.map .event ++ s2.liveTiles.map .grant ++ s2.liveTiles.map .ports
      ++ homes.map (fun x => .event x.2) ++ s2.deviceWork.map .event }

-- SENDS, GRANTS AND FIRINGS

/-- The ports of a tile on which flits wait send. -/
def State.portsOf (s : State) (tile : Nat) : State :=
  let ps : List (Fin 4) := (([0, 1, 2, 3] : List (Fin 4))).filter fun p => !(portHeads s.cycle (s.tile tile).out p.val).isEmpty
  { s with agenda := ps.map (fun p => .event (.flitSend tile p)) ++ s.agenda }

/-- A firing is performed once every tile has chosen its own and the ports have sent: each is chosen on the state at the start of
the cycle (R232). -/
def putFire (f : Firing) : List Act → List Act
  | [] => [.fire f]
  | .event i :: r => .fire f :: .event i :: r
  | a :: r => a :: putFire f r

/-- An evaluation that has taken its last firing ends (R121). -/
def State.spend (s : State) (g : Option Grant) : State :=
  match g with
  | some g => if s.lastFired g.key g.bank then
      (match s.recOf g.key with
        | some (die, r) => s.now (.evaluationAbandon die r.evid Cause.exited)
        | none => s)
    else s
  | none => s

/-- A tile's cycle: the scratchpad groups that fall due, the grant of its issue table, the slot that fires, and the class of the cycle
(R52, R166, R234, R418). -/
def State.grantTile (s0 : State) (tile : Nat) : State :=
  let s := s0.moveGroups tile
  let g := s.grantOf tile
  let f := g.bind fun g => s.choose g.key g.bank
  let (c, i) := s.classOf tile g f.isSome (s.blockedPort tile)
  let s1 := (match g with | some g => s.countGrant g.key | none => s).modTile tile fun t => t.count c i
  match f with
  | some f => { s1 with agenda := putFire f s1.agenda }
  | none => s1.spend g

/-- The slot that a firing names; a factorisation that was stopped is issued again as it was, whichever configuration is active now
(R330, R340). -/
def State.fetch (s : State) (f : Firing) : Option Instr :=
  match (s.actor f.actor).reissue with
  | some r => some r.op
  | none =>
  match decode (slotOp (((s.tile f.tile).cfg f.cfg).slot f.slot)) with
  | .ok i => some i
  | .error _ => none

/-- The state in which a firing's instruction is performed: a stopped factorisation that fires again waits no longer (R340), and of an
item's firings that RESTART bars the first one's configuration is kept (R146). -/
def State.firing (s : State) (f : Firing) (i : Instr) : State :=
  let s1 : State := { s with cur := f }
  let s2 := if (s.actor f.actor).reissue.isSome then s1.modActor f.actor fun a => { a with reissue := none } else s1
  let a := s.actor f.actor
  if needsCarry i ∧ a.item.isSome ∧ a.choice.bound.isNone then
    s2.modActor f.actor fun a => { a with choice := { a.choice with bound := some f.cfg } }
  else s2

/-- The operation of HSYNC that an act of the outside starts (R427). -/
def syncStart : Instr → Option Nat
  | .hostWindowWrite off _ x => if off = 0x3200 then some (x.toNat % 16) else none
  | .registerWrite off v => if off = 0x3200 then some (v.toNat % 16) else none
  | .hsyncRelSet _ => some 1
  | .hsyncRelAdd _ => some 2
  | .hsyncAcqEq _ => some 3
  | .hsyncAcqNe _ => some 4
  | .hsyncAcqGe _ => some 5
  | .hsyncAcqAny _ => some 6
  | .hsyncLockWait _ => some 7
  | .hsyncLockTry _ => some 8
  | .hsyncLockRel _ => some 9
  | _ => none

/-- An act of the outside on the words of HSYNC. -/
def onSync : Instr → Bool
  | .hostWindowRead off _ | .hostWindowWrite off .. | .registerWrite off _ => 0x3200 ≤ off && off < 0x3220
  | i => (syncStart i).isSome

/-- The block that an access of the host window to memory reaches. -/
def windowBlock : Instr → Option Nat
  | .hostWindowRead off _ | .hostWindowWrite off .. => (windowPa off).map (· / 64)
  | _ => none

/-- A write of the host window to memory. -/
def isWindowWrite : Instr → Bool
  | .hostWindowWrite off .. => (windowPa off).isSome
  | _ => false

/-- Whether an act of the outside that was put back in this cycle waits. -/
def State.waitsFor (s : State) (p : Instr → Bool) : Bool := s.inputs.any fun t => decide (t.1 ≤ s.cycle) && p t.2

/-- An act of the outside that waits: an access of the host window to memory while the window is frozen, a read of it behind
an acquire of HSYNC, or one of a block behind another that waits (R386, R422, R427); a host release behind a window write that waits (R148), and what comes to HSYNC behind
that release. -/
def State.heldBack (s : State) (i : Instr) : Bool :=
  (match i with
  | .hostWindowRead off _ => (windowPa off).isSome && (s.mgmt.hostFrozen || s.hostAcquires)
  | .hostWindowWrite off .. => (windowPa off).isSome && s.mgmt.hostFrozen
  | _ => false)
  || (match windowBlock i with | some b => s.waitsFor fun j => windowBlock j == some b | none => false)
  || (onSync i && s.waitsFor onSync)
  || ((match syncStart i with | some op => op == 1 || op == 2 || op == 9 | none => false) && s.waitsFor isWindowWrite)

/-- It comes again in the next cycle, behind what was put back before it and ahead of what comes later. -/
def State.putBack (s : State) (i : Instr) : State :=
  { s with inputs := (s.inputs.filter fun t => decide (t.1 ≤ s.cycle)) ++ (s.cycle, i) ::
      s.inputs.filter fun t => decide (s.cycle < t.1) }

end Sys2Proof.Machine
end

