-- ==== Sys2Proof/Machine/Imm.lean ====
section
/-! DEFINITION. The class 001 instructions: immediates and predicates (R245, R246), all of latency 1 (R247). -/

namespace Sys2Proof.Machine

/-- IMM, sign-extended or zero-extended to 64 bits (R231). -/
def immWord (sgn : Bool) (imm : BitVec 24) : Word := if sgn then imm.signExtend 64 else imm.setWidth 64

/-- A one-source immediate instruction under the token rule (R238, R245). -/
def imm1 (s : State) (pd : PDst) (d s1 : Fin 16) (f : Word → Word) : State :=
  match firstTok [s.g s1] with
  | some x => scalarTok s 1 (some d) pd x
  | none => intResult s 1 pd d (f (s.g s1).val)

/-- ADDI (R245). -/
def execAddi (ty : IntTy) (pd : PDst) (d s1 : Fin 16) (imm : BitVec 24) (s : State) : Out :=
  .next (imm1 s pd d s1 fun x => ty.wrap (ty.val x + imm.toInt))

/-- MOVI (R245). -/
def execMovi (sgn : Bool) (pd : PDst) (d : Fin 16) (imm : BitVec 24) (s : State) : Out :=
  .next (intResult s 1 pd d (immWord sgn imm))

/-- D with 16 bits replaced (R245). -/
def movhiWord (q : Nat) (d : Word) (imm : BitVec 16) : Word :=
  (d &&& ~~~(0xFFFF#64 <<< (16 * q))) ||| (imm.setWidth 64 <<< (16 * q))

/-- MOVHI (R245): D is also read. -/
def execMovhi (q : Fin 4) (d : Fin 16) (imm : BitVec 16) (s : State) : Out :=
  .next (imm1 s none d d fun x => movhiWord q.val x imm)

/-- ANDI (R245). -/
def execAndi (sgn : Bool) (pd : PDst) (d s1 : Fin 16) (imm : BitVec 24) (s : State) : Out :=
  .next (imm1 s pd d s1 fun x => x &&& immWord sgn imm)

/-- ORI (R245). -/
def execOri (sgn : Bool) (pd : PDst) (d s1 : Fin 16) (imm : BitVec 24) (s : State) : Out :=
  .next (imm1 s pd d s1 fun x => x ||| immWord sgn imm)

/-- XORI (R245). -/
def execXori (sgn : Bool) (pd : PDst) (d s1 : Fin 16) (imm : BitVec 24) (s : State) : Out :=
  .next (imm1 s pd d s1 fun x => x ^^^ immWord sgn imm)

/-- SHLI (R245): as SHL, without saturation. -/
def execShli (ty : IntTy) (pd : PDst) (d s1 : Fin 16) (n : Fin 64) (s : State) : Out :=
  .next (imm1 s pd d s1 fun x => shlInt ty false (ty.val x) n.val)

/-- SHRI (R245): as SAR under the .i types, as SHR under the .n types. -/
def execShri (ty : IntTy) (pd : PDst) (d s1 : Fin 16) (n : Fin 64) (s : State) : Out :=
  .next (imm1 s pd d s1 fun x => if ty.signed then sarInt ty (ty.val x) n.val else shrInt ty (ty.val x) n.val)

/-- CMPI (R246). -/
def execCmpi (uns : Bool) (c : Cond) (pd : Fin 8) (s1 : Fin 16) (imm : BitVec 24) (s : State) : Out :=
  .next (match firstTok [s.g s1] with
    | some x => scalarTok s 1 none (some pd) x
    | none =>
      let ty : IntTy := if uns then .n64 else .i64
      s.issue 1 [s.wp pd (condInt c (ty.val (s.g s1).val) (ty.val (immWord (!uns) imm)))] none)

/-- PSET (R245). -/
def execPset (mask vals : BitVec 8) (s : State) : Out := .next (s.issue 1 (maskWrites s mask vals) none)

/-- PLOG (R245). -/
def execPlog (t : BitVec 4) (a b : Fin 8) (pd : Fin 8) (s : State) : Out :=
  .next (s.issue 1 [s.wp pd (plogBit t (s.pred a) (s.pred b))] none)

/-- PMOV, read form (R245). -/
def execPmovRead (d : Fin 16) (s : State) : Out :=
  .next (s.issue 1 [s.wg d ⟨predBits s.bk, Pair.int64⟩] none)

/-- PMOV, write form (R245). Of a token, the predicates it would write become 0 (R238). -/
def execPmovWrite (s1 : Fin 16) (mask : BitVec 8) (s : State) : Out :=
  .next (match firstTok [s.g s1] with
    | some x => s.issue 1 (maskWrites s mask 0) (some (s.passG x))
    | none => s.issue 1 (maskWrites s mask ((s.g s1).val.setWidth 8)) none)

end Sys2Proof.Machine
end

