-- ==== Sys2Proof/Machine/Scratch.lean ====
section
/-! DEFINITION. SLD, SST, SLDB and SSTB (R51, R272, R273). -/

namespace Sys2Proof.Machine

/-- The key of a generator's position in the station state: its configuration and its number (R273). -/
def State.genKey (s : State) (n : Nat) : Nat := s.cfgNo s.me * 4 + n

/-- The address, row and rotation code of a generator's next element, and the state with its position advanced. -/
def State.nextElem (s : State) (n : Nat) : State × Nat × Nat × Nat :=
  let g := genOf (s.here.cfg s.cur.cfg).ags n
  let k := s.genKey n
  let i := Sparse.get s.me.gpos 0 k
  let (a, row) := g.elem s.window.1 i
  (s.modMe fun m => { m with gpos := Sparse.set m.gpos k (if i + 1 < g.total then i + 1 else 0) }, a, row, g.rot)

/-- A scratchpad access by address: `tokens` are its operands, `refuse` takes the token of a failing check, `ok` the
state, address, row and rotation code (R51, R264, R272). -/
def scratch (s : State) (a : SpAddr) (size : Nat) (refuse : State → Tok → State) (ok : State → Nat → Nat → Nat → State) : State :=
  match a with
  | .index g =>
    if (s.g g).isTok then refuse s (s.passG (s.g g))
    else
      match indexedCheck s.window (s.g g).val size with
      | some c => refuse s (s.tok .bounds c (s.g g).val.toNat)
      | none => ok s (s.g g).val.toNat 0 0
  | .gen n =>
    let (s1, a, row, rot) := s.nextElem n.val
    ok s1 a row rot

/-- A load's latency: 4 cycles after its group issues, one bank access (R52, R273). -/
def State.spLatency (s : State) : Nat := s.readWait + 4

/-- A load whose group waits for an earlier one reads the words then (R52). -/
def State.lateRead (s : State) (i : Instr) (wait l : Nat) (bytes : List Nat) : State :=
  if wait = 0 then s
  else s.spMove ⟨s.cur, i, s.cycle + l, s.bk, [], [(s.cycle + wait, (bytes.map (· / 4)).eraseDups)], [], bytes, []⟩

/-- A store's bytes are written in its group's cycle (R52). -/
def State.spStore (s : State) (i : Instr) (rot row a x n : Nat) : State :=
  let s1 := s.useWrite 1
  if s.writeWait = 0 then s1.modHere fun t => t.setSpBytes rot (fun _ => row) a x n
  else s1.spWrites i [(s.cycle + s.writeWait, placed (bytePlaces rot (fun _ => row) a n) x)]

/-- SLD (R272, R273). -/
def execSld (ty : IntTy) (a : SpAddr) (d : Fin 16) (s : State) : Out :=
  .next (scratch s a ty.bytes (fun s t => s.issue 4 [s.wg d t.greg] (some t))
    fun s1 x row rot =>
      let v := s1.here.spBytes rot (fun _ => row) x ty.bytes
      ((s1.useRead 1).issue s1.spLatency [s1.wg d ⟨ty.wrap v, Pair.int64⟩] none).lateRead (.sld ty a d) s1.readWait s1.spLatency
        (bytePlaces rot (fun _ => row) x ty.bytes))

/-- SLDB (R272, R273). -/
def execSldb (a : SpAddr) (d : Fin 16) (s : State) : Out :=
  .next (scratch s a 64 (fun s t => s.issue 4 [s.wv d.val t.vreg] (some t))
    fun s1 x row rot =>
      let v := s1.here.spBytes rot (fun _ => row) x 64
      ((s1.useRead 1).issue s1.spLatency [s1.wv d.val ⟨BitVec.ofNat 512 v, Pair.raw⟩] none).lateRead (.sldb a d) s1.readWait
        s1.spLatency (bytePlaces rot (fun _ => row) x 64))

/-- A refused scratchpad store changes no word; its token goes to the item (R47, R264). -/
def spRefuse (s : State) (t : Tok) : State := s.attach s.cur.actor t

/-- SST (R272, R273); with a token as data it is not performed (R264). -/
def execSst (ty : IntTy) (a : SpAddr) (d : Fin 16) (s : State) : Out :=
  .next (scratch s a ty.bytes spRefuse fun s1 x row rot =>
    if (s1.g d).isTok then spRefuse s1 (s1.passG (s1.g d))
    else s1.spStore (.sst ty a d) rot row x (s1.g d).val.toNat ty.bytes)

/-- SSTB (R272, R273); with a token as data it is not performed (R264). -/
def execSstb (a : SpAddr) (d : Fin 16) (s : State) : Out :=
  .next (scratch s a 64 spRefuse fun s1 x row rot =>
    if (s1.v d).isTok then spRefuse s1 (passV (s1.v d))
    else s1.spStore (.sstb a d) rot row x (s1.v d).val.toNat 64)

end Sys2Proof.Machine
end

