-- ==== Sys2Proof/Machine/Dispatch.lean ====
section
/-! DEFINITION. The dispatch of a step to its meaning: one arm for each constructor of `Instr`. -/

namespace Sys2Proof.Machine

def exec (i : Instr) (s : State) : Host.Outcome State Fault Refusal :=
  match i with
  | .add ty sat pd d s1 s2 => Sys2Proof.Machine.execAdd ty sat pd d s1 s2 s
  | .sub ty sat pd d s1 s2 => Sys2Proof.Machine.execSub ty sat pd d s1 s2 s
  | .mul ty sat pd d s1 s2 => Sys2Proof.Machine.execMul ty sat pd d s1 s2 s
  | .mulh ty pd d s1 s2 => Sys2Proof.Machine.execMulh ty pd d s1 s2 s
  | .div ty sat pd d s1 s2 => Sys2Proof.Machine.execDiv ty sat pd d s1 s2 s
  | .rem ty pd d s1 s2 => Sys2Proof.Machine.execRem ty pd d s1 s2 s
  | .and ty pd d s1 s2 => Sys2Proof.Machine.execAnd ty pd d s1 s2 s
  | .or ty pd d s1 s2 => Sys2Proof.Machine.execOr ty pd d s1 s2 s
  | .xor ty pd d s1 s2 => Sys2Proof.Machine.execXor ty pd d s1 s2 s
  | .andn ty pd d s1 s2 => Sys2Proof.Machine.execAndn ty pd d s1 s2 s
  | .shl ty sat pd d s1 s2 => Sys2Proof.Machine.execShl ty sat pd d s1 s2 s
  | .shr ty pd d s1 s2 => Sys2Proof.Machine.execShr ty pd d s1 s2 s
  | .sar ty pd d s1 s2 => Sys2Proof.Machine.execSar ty pd d s1 s2 s
  | .min ty pd d s1 s2 => Sys2Proof.Machine.execMin ty pd d s1 s2 s
  | .max ty pd d s1 s2 => Sys2Proof.Machine.execMax ty pd d s1 s2 s
  | .clz ty pd d s1 => Sys2Proof.Machine.execClz ty pd d s1 s
  | .popc ty pd d s1 => Sys2Proof.Machine.execPopc ty pd d s1 s
  | .bfx sgn pos widm pd d s1 => Sys2Proof.Machine.execBfx sgn pos widm pd d s1 s
  | .bfi pos widm pd d s1 => Sys2Proof.Machine.execBfi pos widm pd d s1 s
  | .sel p d s1 s2 => Sys2Proof.Machine.execSel p d s1 s2 s
  | .cmp ty c pd s1 s2 => Sys2Proof.Machine.execCmp ty c pd s1 s2 s
  | .widx k pd d => Sys2Proof.Machine.execWidx k pd d s
  | .fadd rm sat pd d s1 s2 => Sys2Proof.Machine.execFadd rm sat pd d s1 s2 s
  | .fsub rm sat pd d s1 s2 => Sys2Proof.Machine.execFsub rm sat pd d s1 s2 s
  | .fmul rm sat pd d s1 s2 => Sys2Proof.Machine.execFmul rm sat pd d s1 s2 s
  | .ffma rm sat pd d s1 s2 => Sys2Proof.Machine.execFfma rm sat pd d s1 s2 s
  | .fmin pd d s1 s2 => Sys2Proof.Machine.execFmin pd d s1 s2 s
  | .fmax pd d s1 s2 => Sys2Proof.Machine.execFmax pd d s1 s2 s
  | .fcmp c pd s1 s2 => Sys2Proof.Machine.execFcmp c pd s1 s2 s
  | .fcvt op rm sat pd d s1 => Sys2Proof.Machine.execFcvt op rm sat pd d s1 s
  | .addi ty pd d s1 imm => Sys2Proof.Machine.execAddi ty pd d s1 imm s
  | .movi sgn pd d imm => Sys2Proof.Machine.execMovi sgn pd d imm s
  | .movhi q d imm => Sys2Proof.Machine.execMovhi q d imm s
  | .andi sgn pd d s1 imm => Sys2Proof.Machine.execAndi sgn pd d s1 imm s
  | .ori sgn pd d s1 imm => Sys2Proof.Machine.execOri sgn pd d s1 imm s
  | .xori sgn pd d s1 imm => Sys2Proof.Machine.execXori sgn pd d s1 imm s
  | .shli ty pd d s1 n => Sys2Proof.Machine.execShli ty pd d s1 n s
  | .shri ty pd d s1 n => Sys2Proof.Machine.execShri ty pd d s1 n s
  | .cmpi uns c pd s1 imm => Sys2Proof.Machine.execCmpi uns c pd s1 imm s
  | .pset mask vals => Sys2Proof.Machine.execPset mask vals s
  | .plog t a b pd => Sys2Proof.Machine.execPlog t a b pd s
  | .pmovRead d => Sys2Proof.Machine.execPmovRead d s
  | .pmovWrite s1 mask => Sys2Proof.Machine.execPmovWrite s1 mask s
  | .ld ty off pol d s1 w => Sys2Proof.Machine.execLd ty off pol d s1 w s
  | .st ty off pol d s1 w => Sys2Proof.Machine.execSt ty off pol d s1 w s
  | .ldb off pol d s1 w => Sys2Proof.Machine.execLdb off pol d s1 w s
  | .stb off pol d s1 w => Sys2Proof.Machine.execStb off pol d s1 w s
  | .stbObj off pol d s1 w => Sys2Proof.Machine.execStbObj off pol d s1 w s
  | .stbUnobj off pol s1 w => Sys2Proof.Machine.execStbUnobj off pol s1 w s
  | .pref off pol s1 w => Sys2Proof.Machine.execPref off pol s1 w s
  | .sld ty a d => Sys2Proof.Machine.execSld ty a d s
  | .sst ty a d => Sys2Proof.Machine.execSst ty a d s
  | .sldb a d => Sys2Proof.Machine.execSldb a d s
  | .sstb a d => Sys2Proof.Machine.execSstb a d s
  | .afadd sc w64 o d s1 s2 w => Sys2Proof.Machine.execAfadd sc w64 o d s1 s2 w s
  | .acas sc w64 o ford d s1 s2 w => Sys2Proof.Machine.execAcas sc w64 o ford d s1 s2 w s
  | .aswap sc w64 o d s1 s2 w => Sys2Proof.Machine.execAswap sc w64 o d s1 s2 w s
  | .amin sc w64 o sgn d s1 s2 w => Sys2Proof.Machine.execAmin sc w64 o sgn d s1 s2 w s
  | .amax sc w64 o sgn d s1 s2 w => Sys2Proof.Machine.execAmax sc w64 o sgn d s1 s2 w s
  | .aand sc w64 o d s1 s2 w => Sys2Proof.Machine.execAand sc w64 o d s1 s2 w s
  | .aor sc w64 o d s1 s2 w => Sys2Proof.Machine.execAor sc w64 o d s1 s2 w s
  | .bind d s1 s2 w => Sys2Proof.Machine.execBind d s1 s2 w s
  | .unbind s1 w => Sys2Proof.Machine.execUnbind s1 w s
  | .unbindObj s1 w => Sys2Proof.Machine.execUnbindObj s1 w s
  | .acqLockWait sc d s1 s2 w => Sys2Proof.Machine.execAcqLockWait sc d s1 s2 w s
  | .acqLockTry sc d s1 s2 w => Sys2Proof.Machine.execAcqLockTry sc d s1 s2 w s
  | .acqFlagWait c sc d s1 s2 w => Sys2Proof.Machine.execAcqFlagWait c sc d s1 s2 w s
  | .acqFlagAny sc d s1 s2 w => Sys2Proof.Machine.execAcqFlagAny sc d s1 s2 w s
  | .relLock sc s1 s2 w => Sys2Proof.Machine.execRelLock sc s1 s2 w s
  | .relSet sc s1 s2 w => Sys2Proof.Machine.execRelSet sc s1 s2 w s
  | .relAdd sc s1 s2 w => Sys2Proof.Machine.execRelAdd sc s1 s2 w s
  | .fenceRel sc w => Sys2Proof.Machine.execFenceRel sc w s
  | .fenceAcq sc w => Sys2Proof.Machine.execFenceAcq sc w s
  | .fenceAr sc w => Sys2Proof.Machine.execFenceAr sc w s
  | .barr sc d s1 s2 w => Sys2Proof.Machine.execBarr sc d s1 s2 w s
  | .barrNowait sc d s1 s2 w => Sys2Proof.Machine.execBarrNowait sc d s1 s2 w s
  | .sdec sc d s1 s2 w => Sys2Proof.Machine.execSdec sc d s1 s2 w s
  | .sinc sc d s1 s2 w => Sys2Proof.Machine.execSinc sc d s1 s2 w s
  | .rpush sc nb pn s1 s2 w => Sys2Proof.Machine.execRpush sc nb pn s1 s2 w s
  | .rpop sc nb pn d s1 w => Sys2Proof.Machine.execRpop sc nb pn d s1 w s
  | .csusp d s1 s2 w => Sys2Proof.Machine.execCsusp d s1 s2 w s
  | .cres d s1 s2 w => Sys2Proof.Machine.execCres d s1 s2 w s
  | .cresSp d s1 s2 w => Sys2Proof.Machine.execCresSp d s1 s2 w s
  | .ctag d s1 w => Sys2Proof.Machine.execCtag d s1 w s
  | .cpois s1 s2 w => Sys2Proof.Machine.execCpois s1 s2 w s
  | .vadd g rm sat f tsc d s1 s2 => Sys2Proof.Machine.execVadd g rm sat f tsc d s1 s2 s
  | .vsub g rm sat f tsc d s1 s2 => Sys2Proof.Machine.execVsub g rm sat f tsc d s1 s2 s
  | .vmul g rm sat f tsc d s1 s2 => Sys2Proof.Machine.execVmul g rm sat f tsc d s1 s2 s
  | .vfma g rm sat f tsc d s1 s2 => Sys2Proof.Machine.execVfma g rm sat f tsc d s1 s2 s
  | .vmin g rm sat f tsc d s1 s2 => Sys2Proof.Machine.execVmin g rm sat f tsc d s1 s2 s
  | .vmax g rm sat f tsc d s1 s2 => Sys2Proof.Machine.execVmax g rm sat f tsc d s1 s2 s
  | .vabs g rm sat f tsc d s1 => Sys2Proof.Machine.execVabs g rm sat f tsc d s1 s
  | .vneg g rm sat f tsc d s1 => Sys2Proof.Machine.execVneg g rm sat f tsc d s1 s
  | .vand g d s1 s2 => Sys2Proof.Machine.execVand g d s1 s2 s
  | .vor g d s1 s2 => Sys2Proof.Machine.execVor g d s1 s2 s
  | .vxor g d s1 s2 => Sys2Proof.Machine.execVxor g d s1 s2 s
  | .vshl g f n d s1 => Sys2Proof.Machine.execVshl g f n d s1 s
  | .vshrLsr g f n d s1 => Sys2Proof.Machine.execVshrLsr g f n d s1 s
  | .vshrAsr g f n d s1 => Sys2Proof.Machine.execVshrAsr g f n d s1 s
  | .vcmp g c uns f pd d s1 s2 => Sys2Proof.Machine.execVcmp g c uns f pd d s1 s2 s
  | .vsel g f d s1 s2 => Sys2Proof.Machine.execVsel g f d s1 s2 s
  | .vrcp g rm sat f tsc d s1 => Sys2Proof.Machine.execVrcp g rm sat f tsc d s1 s
  | .vrsq g rm sat f tsc d s1 => Sys2Proof.Machine.execVrsq g rm sat f tsc d s1 s
  | .vexp2 g rm sat f tsc d s1 => Sys2Proof.Machine.execVexp2 g rm sat f tsc d s1 s
  | .vlog2 g rm sat f tsc d s1 => Sys2Proof.Machine.execVlog2 g rm sat f tsc d s1 s
  | .vcvt g rm sat f tsc part d s1 => Sys2Proof.Machine.execVcvt g rm sat f tsc part d s1 s
  | .vqnt g rm sat f d s1 => Sys2Proof.Machine.execVqnt g rm sat f d s1 s
  | .vcbx g part d s1 => Sys2Proof.Machine.execVcbx g part d s1 s
  | .vred op g rm sat f tsc pd d s1 => Sys2Proof.Machine.execVred op g rm sat f tsc pd d s1 s
  | .vscan op g rm sat f tsc d s1 => Sys2Proof.Machine.execVscan op g rm sat f tsc d s1 s
  | .vperm g f d s1 s2 => Sys2Proof.Machine.execVperm g f d s1 s2 s
  | .vbcast g f tsc d s1 => Sys2Proof.Machine.execVbcast g f tsc d s1 s
  | .vbcastLane g f lane d s1 => Sys2Proof.Machine.execVbcastLane g f lane d s1 s
  | .viota g f tsc d s1 => Sys2Proof.Machine.execViota g f tsc d s1 s
  | .vmovg l d s1 => Sys2Proof.Machine.execVmovg l d s1 s
  | .vmovgIns l d s1 => Sys2Proof.Machine.execVmovgIns l d s1 s
  | .vmovgCp g d s1 => Sys2Proof.Machine.execVmovgCp g d s1 s
  | .vmovgPair d s1 => Sys2Proof.Machine.execVmovgPair d s1 s
  | .mld f d sp gx => Sys2Proof.Machine.execMld f d sp gx s
  | .mldQueue d q gx => Sys2Proof.Machine.execMldQueue d q gx s
  | .mldt f d sp gx => Sys2Proof.Machine.execMldt f d sp gx s
  | .mst f rm sat sp src gx => Sys2Proof.Machine.execMst f rm sat sp src gx s
  | .mzero d => Sys2Proof.Machine.execMzero d s
  | .mma fwd za f d a b gx => Sys2Proof.Machine.execMma fwd za f d a b gx s
  | .mmat fwd za f d a b gx => Sys2Proof.Machine.execMmat fwd za f d a b gx s
  | .macc rm sat d q => Sys2Proof.Machine.execMacc rm sat d q s
  | .maccQueue f rm sat d q gx => Sys2Proof.Machine.execMaccQueue f rm sat d q gx s
  | .mdrain f rm sat oq a t gx => Sys2Proof.Machine.execMdrain f rm sat oq a t gx s
  | .mluF d pv n gx => Sys2Proof.Machine.execMluF d pv n gx s
  | .mluC d pv n gx => Sys2Proof.Machine.execMluC d pv n gx s
  | .mchol d n gx => Sys2Proof.Machine.execMchol d n gx s
  | .mqr d pv n gx => Sys2Proof.Machine.execMqr d pv n gx s
  | .mtrsm up unit right tr d q n => Sys2Proof.Machine.execMtrsm up unit right tr d q n s
  | .mperm cols inv d pv n => Sys2Proof.Machine.execMperm cols inv d pv n s
  | .mqapp right tr d q pv gx => Sys2Proof.Machine.execMqapp right tr d q pv gx s
  | .mfst d => Sys2Proof.Machine.execMfst d s
  | .mfstHi d => Sys2Proof.Machine.execMfstHi d s
  | .mfstW q => Sys2Proof.Machine.execMfstW q s
  | .mfstWhi q => Sys2Proof.Machine.execMfstWhi q s
  | .mfstClr => Sys2Proof.Machine.execMfstClr s
  | .sspec d s1 => Sys2Proof.Machine.execSspec d s1 s
  | .sbarWait d s1 => Sys2Proof.Machine.execSbarWait d s1 s
  | .sbarCommit d s1 s2 => Sys2Proof.Machine.execSbarCommit d s1 s2 s
  | .sbarFlush d s1 => Sys2Proof.Machine.execSbarFlush d s1 s
  | .sbarStop d s1 => Sys2Proof.Machine.execSbarStop d s1 s
  | .sbarQuery d s1 => Sys2Proof.Machine.execSbarQuery d s1 s
  | .jcopy d s1 w => Sys2Proof.Machine.execJcopy d s1 w s
  | .jgath d s1 w => Sys2Proof.Machine.execJgath d s1 w s
  | .jscat d s1 w => Sys2Proof.Machine.execJscat d s1 w s
  | .jcoll d s1 w => Sys2Proof.Machine.execJcoll d s1 w s
  | .prom d s1 => Sys2Proof.Machine.execProm d s1 s
  | .waitb s1 => Sys2Proof.Machine.execWaitb s1 s
  | .waitbJob d s1 => Sys2Proof.Machine.execWaitbJob d s1 s
  | .hist d s1 s2 w => Sys2Proof.Machine.execHist d s1 s2 w s
  | .histRd d s1 w => Sys2Proof.Machine.execHistRd d s1 w s
  | .hoffer d s1 s2 w => Sys2Proof.Machine.execHoffer d s1 s2 w s
  | .hdump d s1 s2 w => Sys2Proof.Machine.execHdump d s1 s2 w s
  | .hdumpClr d s1 s2 w => Sys2Proof.Machine.execHdumpClr d s1 s2 w s
  | .hdumpInit d s1 s2 w => Sys2Proof.Machine.execHdumpInit d s1 s2 w s
  | .hand ps => Sys2Proof.Machine.execHand ps s
  | .emit oq src ps => Sys2Proof.Machine.execEmit oq src ps s
  | .deq d q ps => Sys2Proof.Machine.execDeq d q ps s
  | .deqDiscard q ps => Sys2Proof.Machine.execDeqDiscard q ps s
  | .hdr d q f ps => Sys2Proof.Machine.execHdr d q f ps s
  | .hdrOwn d f ps => Sys2Proof.Machine.execHdrOwn d f ps s
  | .sethdr f s1 ps => Sys2Proof.Machine.execSethdr f s1 ps s
  | .route oq e ps => Sys2Proof.Machine.execRoute oq e ps s
  | .steer p a b => Sys2Proof.Machine.execSteer p a b s
  | .cancel oq ps => Sys2Proof.Machine.execCancel oq ps s
  | .cancelSeq oq s1 ps => Sys2Proof.Machine.execCancelSeq oq s1 ps s
  | .pull q n ps => Sys2Proof.Machine.execPull q n ps s
  | .switch c ps => Sys2Proof.Machine.execSwitch c ps s
  | .splice s1 ps => Sys2Proof.Machine.execSplice s1 ps s
  | .nop ps => Sys2Proof.Machine.execNop ps s
  | .trap poi g imm => Sys2Proof.Machine.execTrap poi g imm s
  | .feat d n => Sys2Proof.Machine.execFeat d n s
  | .beat d s1 => Sys2Proof.Machine.execBeat d s1 s
  | .beatB d b => Sys2Proof.Machine.execBeatB d b s
  | .govn d q => Sys2Proof.Machine.execGovn d q s
  | .cfg d s1 s2 => Sys2Proof.Machine.execCfg d s1 s2 s
  | .yield => Sys2Proof.Machine.execYield s
  | .exitl => Sys2Proof.Machine.execExitl s
  | .exitlNow => Sys2Proof.Machine.execExitlNow s
  | .rdctr d c k => Sys2Proof.Machine.execRdctr d c k s
  | .watch d s1 t once clr id => Sys2Proof.Machine.execWatch d s1 t once clr id s
  | .rdbeat d c => Sys2Proof.Machine.execRdbeat d c s
  | .ldcb cb s1 => Sys2Proof.Machine.execLdcb cb s1 s
  | .ldcbV cb v half => Sys2Proof.Machine.execLdcbV cb v half s
  | .rngseed s1 => Sys2Proof.Machine.execRngseed s1 s
  | .resultLatencyExpiry => Sys2Proof.Machine.execResultLatencyExpiry s
  | .answerDelivery id => Sys2Proof.Machine.execAnswerDelivery id s
  | .configSwitchEnd actor => Sys2Proof.Machine.execConfigSwitchEnd actor s
  | .lineBoundary line => Sys2Proof.Machine.execLineBoundary line s
  | .deferredBoundary line => Sys2Proof.Machine.execDeferredBoundary line s
  | .bayConfigFetch tile => Sys2Proof.Machine.execBayConfigFetch tile s
  | .governorAdjustment line => Sys2Proof.Machine.execGovernorAdjustment line s
  | .waitbWake actor => Sys2Proof.Machine.execWaitbWake actor s
  | .flitSend tile port => Sys2Proof.Machine.execFlitSend tile port s
  | .flitArrival id => Sys2Proof.Machine.execFlitArrival id s
  | .requestTokenArrival id => Sys2Proof.Machine.execRequestTokenArrival id s
  | .parkedDelivery die dest => Sys2Proof.Machine.execParkedDelivery die dest s
  | .homeAccess id => Sys2Proof.Machine.execHomeAccess id s
  | .translationWalk die => Sys2Proof.Machine.execTranslationWalk die s
  | .migrationRewalk die => Sys2Proof.Machine.execMigrationRewalk die s
  | .migrationTimeout die => Sys2Proof.Machine.execMigrationTimeout die s
  | .firstTouch id => Sys2Proof.Machine.execFirstTouch id s
  | .evaluationStart die evid => Sys2Proof.Machine.execEvaluationStart die evid s
  | .waiterJoin id => Sys2Proof.Machine.execWaiterJoin id s
  | .parking die evid => Sys2Proof.Machine.execParking die evid s
  | .waking die evid => Sys2Proof.Machine.execWaking die evid s
  | .groupResolution id => Sys2Proof.Machine.execGroupResolution id s
  | .evaluationAbandon die evid cause => Sys2Proof.Machine.execEvaluationAbandon die evid cause s
  | .barrierWithdrawal pa k => Sys2Proof.Machine.execBarrierWithdrawal pa k s
  | .launchRecordTake die => Sys2Proof.Machine.execLaunchRecordTake die s
  | .dispatch die => Sys2Proof.Machine.execDispatch die s
  | .streamLoad line ctx va len => Sys2Proof.Machine.execStreamLoad line ctx va len s
  | .configWriteEffect tile => Sys2Proof.Machine.execConfigWriteEffect tile s
  | .lineExit line => Sys2Proof.Machine.execLineExit line s
  | .graphEnd graph => Sys2Proof.Machine.execGraphEnd graph s
  | .resizeWidths line => Sys2Proof.Machine.execResizeWidths line s
  | .regulatorPeriod die => Sys2Proof.Machine.execRegulatorPeriod die s
  | .budgetFreeze die kind index => Sys2Proof.Machine.execBudgetFreeze die kind index s
  | .ctrlThaw ctx kind index die => Sys2Proof.Machine.execCtrlThaw ctx kind index die s
  | .ctrlTeardown ctx => Sys2Proof.Machine.execCtrlTeardown ctx s
  | .ctrlInvalidate ctx => Sys2Proof.Machine.execCtrlInvalidate ctx s
  | .trapRecordWrite => Sys2Proof.Machine.execTrapRecordWrite s
  | .ringStallTimeout => Sys2Proof.Machine.execRingStallTimeout s
  | .watchdogExpiry line => Sys2Proof.Machine.execWatchdogExpiry line s
  | .remoteTimeout id => Sys2Proof.Machine.execRemoteTimeout id s
  | .streamElement die engine => Sys2Proof.Machine.execStreamElement die engine s
  | .jobStart die engine => Sys2Proof.Machine.execJobStart die engine s
  | .jobElement die engine => Sys2Proof.Machine.execJobElement die engine s
  | .jobCompletion die engine => Sys2Proof.Machine.execJobCompletion die engine s
  | .collectiveTimeout coll => Sys2Proof.Machine.execCollectiveTimeout coll s
  | .linkResend port => Sys2Proof.Machine.execLinkResend port s
  | .routeEntryEffect dev => Sys2Proof.Machine.execRouteEntryEffect dev s
  | .preemptDrainEnd ctx => Sys2Proof.Machine.execPreemptDrainEnd ctx s
  | .debugStop line => Sys2Proof.Machine.execDebugStop line s
  | .intervalRecord tile => Sys2Proof.Machine.execIntervalRecord tile s
  | .boot => Sys2Proof.Machine.execBoot s
  | .healthUpdate die => Sys2Proof.Machine.execHealthUpdate die s
  | .thermalFreeze die => Sys2Proof.Machine.execThermalFreeze die s
  | .registerWrite off v => Sys2Proof.Machine.execRegisterWrite off v s
  | .devnumWrite v => Sys2Proof.Machine.execDevnumWrite v s
  | .launchQueueEnable die q w0 w1 => Sys2Proof.Machine.execLaunchQueueEnable die q w0 w1 s
  | .launchQueueDisable die q w0 => Sys2Proof.Machine.execLaunchQueueDisable die q w0 s
  | .invRange w0 => Sys2Proof.Machine.execInvRange w0 s
  | .invContext w0 => Sys2Proof.Machine.execInvContext w0 s
  | .invKeyId w0 => Sys2Proof.Machine.execInvKeyId w0 s
  | .preCmdPreempt w0 => Sys2Proof.Machine.execPreCmdPreempt w0 s
  | .preCmdRestore w0 => Sys2Proof.Machine.execPreCmdRestore w0 s
  | .stopRequest v => Sys2Proof.Machine.execStopRequest v s
  | .stopResume v => Sys2Proof.Machine.execStopResume v s
  | .hsyncRelSet ctx => Sys2Proof.Machine.execHsyncRelSet ctx s
  | .hsyncRelAdd ctx => Sys2Proof.Machine.execHsyncRelAdd ctx s
  | .hsyncAcqEq ctx => Sys2Proof.Machine.execHsyncAcqEq ctx s
  | .hsyncAcqNe ctx => Sys2Proof.Machine.execHsyncAcqNe ctx s
  | .hsyncAcqGe ctx => Sys2Proof.Machine.execHsyncAcqGe ctx s
  | .hsyncAcqAny ctx => Sys2Proof.Machine.execHsyncAcqAny ctx s
  | .hsyncLockWait ctx => Sys2Proof.Machine.execHsyncLockWait ctx s
  | .hsyncLockTry ctx => Sys2Proof.Machine.execHsyncLockTry ctx s
  | .hsyncLockRel ctx => Sys2Proof.Machine.execHsyncLockRel ctx s
  | .replicaTableWrite ctx ch v => Sys2Proof.Machine.execReplicaTableWrite ctx ch v s
  | .routeTableWrite word v => Sys2Proof.Machine.execRouteTableWrite word v s
  | .kemNew ctx => Sys2Proof.Machine.execKemNew ctx s
  | .kemSet ctx ct => Sys2Proof.Machine.execKemSet ctx ct s
  | .keyNew ctx => Sys2Proof.Machine.execKeyNew ctx s
  | .attestationReport nonce ctx => Sys2Proof.Machine.execAttestationReport nonce ctx s
  | .measExtend k digest => Sys2Proof.Machine.execMeasExtend k digest s
  | .signerRegister key => Sys2Proof.Machine.execSignerRegister key s
  | .managementThaw kind index die ctx => Sys2Proof.Machine.execManagementThaw kind index die ctx s
  | .managementTeardown ctx => Sys2Proof.Machine.execManagementTeardown ctx s
  | .cacheLineEviction rdc owner block => Sys2Proof.Machine.execCacheLineEviction rdc owner block s
  | .storedByteError block byte v => Sys2Proof.Machine.execStoredByteError block byte v s
  | .backgroundCorrection block => Sys2Proof.Machine.execBackgroundCorrection block s
  | .frameScrub frame key => Sys2Proof.Machine.execFrameScrub frame key s
  | .scratchpadScrub tile => Sys2Proof.Machine.execScratchpadScrub tile s
  | .dirtyWriteback tile block => Sys2Proof.Machine.execDirtyWriteback tile block s
  | .rdcWriteback die block => Sys2Proof.Machine.execRdcWriteback die block s
  | .hostWindowRead off n => Sys2Proof.Machine.execHostWindowRead off n s
  | .hostWindowWrite off n data => Sys2Proof.Machine.execHostWindowWrite off n data s
  | .strayWindowAccess off isWrite => Sys2Proof.Machine.execStrayWindowAccess off isWrite s
  | .linkFrameReceive port seq ack crcOk flit => Sys2Proof.Machine.execLinkFrameReceive port seq ack crcOk flit s
  | .portDown port => Sys2Proof.Machine.execPortDown port s
  | .linkRetrain port => Sys2Proof.Machine.execLinkRetrain port s

end Sys2Proof.Machine
end

