-- ==== Sys2Proof/Machine/Step.lean ====
section
/-! DEFINITION. One step of the device, and the placing of an instruction where the next step fetches it. -/

namespace Sys2Proof.Machine

/-- One step: what stands first in the cycle's agenda, or, when nothing is left, the beginning of the next cycle. -/
def step (s : State) : Host.Outcome State Fault Refusal :=
  match s.agenda with
  | [] => .next s.beginCycle
  | .event i :: r =>
    if s.heldBack i then .next ({ s with agenda := r }.putBack i) else exec i { s with agenda := r }
  | .ports t :: r => .next ({ s with agenda := r }.portsOf t)
  | .grant t :: r => .next ({ s with agenda := r }.grantTile t)
  | .fire f :: r =>
    match s.fetch f with
    | some i => exec i ({ s with agenda := r }.firing f i)
    | none => .fault .illegalSlot

/-- The firing of slot 0 of configuration 0 of tile 0, for station 0 of region 0 of C-die 0. -/
def firstFiring (trig : BitVec 32) : Firing := ⟨0, 0, 0, 0, stationKey 0 0, trig⟩

/-- The state with an instruction, given in the opcode table's numbering, in slot 0 of configuration 0 of tile 0, and its
firing first on the agenda. It stands for a load of a stream and the grant that fires the slot (notes/assumptions/9.md). -/
def State.withFetchWord (s : State) (nbits w : Nat) : State :=
  let x := tableSlot nbits w
  let s1 := s.modTile 0 fun t => { t with cfgs := Sparse.set t.cfgs 0 { t.cfg 0 with slots := Sparse.set (t.cfg 0).slots 0 x } }
  { s1 with agenda := .fire (firstFiring (slotTrig x)) :: s1.agenda }

end Sys2Proof.Machine
end

