-- ==== Sys2Proof/Safety.lean ====
section
/-! DEFINITION. What a safe run is, in the terms that the statements use: the invariants of a state, and a step that neither
faults nor refuses. -/

namespace Sys2Proof.Machine

/-- The keys of a sparse map stand in strictly rising order, so that equal maps are equal lists. -/
def Sparse.ordered {α : Type} : Sparse α → Bool
  | [] => true
  | (a, _) :: r => (match r with | [] => true | (b, _) :: _ => decide (a < b)) && Sparse.ordered r

/-- The memory is in canonical form. -/
def State.memWf (s : State) : Prop := Memory.wf s.mem = true

/-- A step that has a next state. -/
def State.steps (s : State) : Prop := ∃ t, step s = .next t

end Sys2Proof.Machine
end

