-- ==== Sys2Proof/Certificates/Slice0/Obligations.lean ====
section
/-! DEFINITION. The statements for the provers, each from the rules that its docstring and its entry in OBLIGATIONS.json
cite, after the vocabulary that they share. -/

namespace Sys2Proof.Spec
open Sys2Proof.Machine

-- WHAT THE STATEMENTS SAY THINGS IN

/-- The answer of a firing that changes nothing but what is pending: it writes `ws` and passes `tok` after `l` cycles. -/
def issued (s : State) (l : Nat) (ws : List Wr) (tok : Option Tok) : Out :=
  .next { s with results := s.results ++ [⟨s.cycle + l, s.cur, ws, tok⟩] }

/-- The write of g register `d` of the firing's bank. -/
def toG (s : State) (d : Fin 16) (x : Word) (p : Pair) : Wr := .g s.cur.bank d.val ⟨x, p⟩
/-- The write of v register `d` of the firing's bank. -/
def toV (s : State) (d : Nat) (x : VReg) : Wr := .v s.cur.bank d x
/-- The write of predicate `n` of the firing's bank. -/
def toP (s : State) (n : Fin 8) (b : Bool) : Wr := .p s.cur.bank n.val b
/-- The write of PD, where PDE = 1. -/
def toPd (s : State) (pd : PDst) (b : Bool) : List Wr :=
  match pd with
  | some n => [toP s n b]
  | none => []

/-- No operand of a firing holds an error token. -/
def plain (s : State) (rs : List (Fin 16)) : Prop := ∀ r ∈ rs, (s.g r).isTok = false
/-- No v register of a firing holds an error token. -/
def vPlain (s : State) (rs : List Nat) : Prop := ∀ r ∈ rs, (s.vn r).isTok = false

/-- A 64-bit register as a number, by the signedness of a type. -/
def regInt (ty : IntTy) (r : Word) : Int := if ty.signed then r.toInt else r.toNat
/-- The number that the low w bits of a register stand for. -/
def operand (ty : IntTy) (r : Word) : Int :=
  if ty.signed then (r.setWidth ty.width).toInt else (r.setWidth ty.width).toNat
/-- The register holds the exact result `x` wrapped to w bits and extended by the type. -/
def Wrapped (ty : IntTy) (r : Word) (x : Int) : Prop :=
  ty.lo ≤ regInt ty r ∧ regInt ty r ≤ ty.hi ∧ (regInt ty r - x) % 2 ^ ty.width = 0
/-- The register holds the exact result `x` saturated to the type's range. -/
def Saturated (ty : IntTy) (r : Word) (x : Int) : Prop := regInt ty r = max ty.lo (min ty.hi x)
/-- The register holds the exact result `x`, saturated under SAT and wrapped otherwise. -/
def Holds (ty : IntTy) (sat : Bool) (r : Word) (x : Int) : Prop := if sat then Saturated ty r x else Wrapped ty r x
/-- The low w bits of a word, extended by the type. -/
def extended (ty : IntTy) (x : Word) : Word :=
  if ty.signed then (x.setWidth ty.width).signExtend 64 else (x.setWidth ty.width).setWidth 64

/-- An integer result: D takes a register with `P`, with pair INT64, and PD says whether it is nonzero (R238). -/
def IntResult (i : Instr) (s : State) (l : Nat) (pd : PDst) (d : Fin 16) (P : Word → Prop) : Prop :=
  ∃ r, exec i s = issued s l (toG s d r Pair.int64 :: toPd s pd (r != 0)) none ∧ P r

/-- An integer condition (R241). -/
def Cond.onInt (c : Cond) (a b : Int) : Prop :=
  match c with
  | .eq => a = b | .ne => a ≠ b | .lt => a < b | .le => a ≤ b | .gt => b < a | .ge => b ≤ a | .un => False

end Sys2Proof.Spec

open Sys2Proof Sys2Proof.Machine Sys2Proof.Spec

-- ENCODING

/-- Words that the spec writes out for ADD, LD, ACAS, VQNT and JCOPY decode to the instructions that they stand for; a
vacant slot's word, and one with a reserved bit set, are refused. -/
def Obligations.DecodeWords : Prop :=
  decode 0x0030304050000000 = .ok (.add .i64 false none 3 4 5) ∧
  decode 0x4020502020030204 = .ok (.ld .i32 (.plain 2) .cached 5 2 ⟨3, 2, 4⟩) ∧
  decode 0x4A7060207E050406 = .ok (.acas 3 true .acqRel true 6 2 7 ⟨5, 4, 6⟩) ∧
  decode 0x7442824000040000 = .ok (.vqnt .two .rn false .e4m3 8 4) ∧
  decode 0xA20040200001FEFE = .ok (.jcopy 4 2 ⟨1, 0xFE, 0xFE⟩) ∧
  (∀ i, decode 0xFFFFFFFFFFFFFFFF ≠ .ok i) ∧ (∀ i, decode 0x0030304050000001 ≠ .ok i)

/-- Decoding undoes encoding for every well-formed instruction. -/
def Obligations.EncodeThenDecode : Prop :=
  ∀ (i : Instr) (w : BitVec 64), i.wellFormed = true → encode i = some w → decode w = .ok i.canonical

/-- Every word that decodes is the one word of a well-formed instruction, so that a word with any reserved bit set, or
any reserved code, is refused. -/
def Obligations.DecodeThenEncode : Prop :=
  ∀ (w : BitVec 64) (i : Instr), decode w = .ok i → i.wellFormed = true ∧ encode i = some w

-- STEPPING

/-- A step performs what stands first on the cycle's agenda: the instruction of the slot that fires, or the factorisation that its
unit has stopped and issues again; a firing that RESTART bars leaves its configuration with the item (R146). -/
def Obligations.StepRunsDecoded : Prop :=
  (∀ (s : State) (f : Firing) (r : List Act) (i : Instr), s.agenda = .fire f :: r → (s.actor f.actor).reissue = none →
    decode (slotOp (((s.tile f.tile).cfg f.cfg).slot f.slot)) = .ok i →
    step s = exec i ({ s with agenda := r }.firing f i)) ∧
  (∀ (s : State) (f : Firing) (r : List Act) (x : Reissue), s.agenda = .fire f :: r → (s.actor f.actor).reissue = some x →
    step s = exec x.op ({ s with agenda := r }.firing f x.op)) ∧
  (∀ (s : State) (f : Firing) (i : Instr), (s.firing f i).cur = f ∧
    ((s.actor f.actor).reissue = none → needsCarry i = false → s.firing f i = { s with cur := f })) ∧
  (∀ (s : State) (i : Instr) (r : List Act), s.agenda = .event i :: r → s.heldBack i = false →
    step s = exec i { s with agenda := r })

/-- Nothing that the decoder reads is refused, and the one fault is that of a slot that does not decode. -/
def Obligations.StopsOnlyAtIllegalSlot : Prop :=
  (∀ (i : Instr) (s : State), ∃ t, exec i s = .next t) ∧
  (∀ s : State, (∃ t, step s = .next t) ∨
    (step s = .fault .illegalSlot ∧ ∃ f r, s.agenda = .fire f :: r ∧
      ∃ c, decode (slotOp (((s.tile f.tile).cfg f.cfg).slot f.slot)) = .error c))

-- SCALAR INTEGER

/-- ADD, SUB, MUL, MULH, MIN and MAX. -/
def Obligations.IntegerArithmetic : Prop :=
  ∀ (s : State) (ty : IntTy) (sat : Bool) (pd : PDst) (d s1 s2 : Fin 16), plain s [s1, s2] →
    let a := operand ty (s.g s1).val
    let b := operand ty (s.g s2).val
    IntResult (.add ty sat pd d s1 s2) s 1 pd d (fun r => Holds ty sat r (a + b)) ∧
    IntResult (.sub ty sat pd d s1 s2) s 1 pd d (fun r => Holds ty sat r (a - b)) ∧
    IntResult (.mul ty sat pd d s1 s2) s 4 pd d (fun r => Holds ty sat r (a * b)) ∧
    IntResult (.mulh ty pd d s1 s2) s 4 pd d (fun r => Wrapped ty r (Int.fdiv (a * b) (2 ^ ty.width))) ∧
    IntResult (.min ty pd d s1 s2) s 1 pd d (fun r => regInt ty r = min a b) ∧
    IntResult (.max ty pd d s1 s2) s 1 pd d (fun r => regInt ty r = max a b)

/-- DIV and REM, with their two special cases; the divider is busy for the latency. -/
def Obligations.Division : Prop :=
  ∀ (s : State) (ty : IntTy) (sat : Bool) (pd : PDst) (d s1 s2 : Fin 16), plain s [s1, s2] →
    let a := operand ty (s.g s1).val
    let b := operand ty (s.g s2).val
    let l := if ty.width = 64 then 24 else 12
    let s' := s.modTile s.cur.tile fun t => { t with divBusy := s.cycle + l }
    (∃ r, exec (.div ty sat pd d s1 s2) s = issued s' l (toG s d r Pair.int64 :: toPd s pd (r != 0)) none ∧
      (b = 0 → r = extended ty (-1)) ∧ (b ≠ 0 → Holds ty sat r (Int.tdiv a b))) ∧
    (∃ r, exec (.rem ty pd d s1 s2) s = issued s' l (toG s d r Pair.int64 :: toPd s pd (r != 0)) none ∧
      (b = 0 → regInt ty r = a) ∧ (b ≠ 0 → regInt ty r = Int.tmod a b))

/-- AND, OR, XOR and ANDN on the low w bits; SHL, SHR and SAR by an unsigned 64-bit amount, an amount of w or more
included; CLZ, POPC, BFX and BFI, bit by bit. -/
def Obligations.LogicShiftsBitFields : Prop :=
  (∀ (s : State) (ty : IntTy) (pd : PDst) (d s1 s2 : Fin 16), plain s [s1, s2] →
    let a := (s.g s1).val
    let b := (s.g s2).val
    IntResult (.and ty pd d s1 s2) s 1 pd d (fun r => r = extended ty (a &&& b)) ∧
    IntResult (.or ty pd d s1 s2) s 1 pd d (fun r => r = extended ty (a ||| b)) ∧
    IntResult (.xor ty pd d s1 s2) s 1 pd d (fun r => r = extended ty (a ^^^ b)) ∧
    IntResult (.andn ty pd d s1 s2) s 1 pd d (fun r => r = extended ty (a &&& ~~~b))) ∧
  (∀ (s : State) (ty : IntTy) (sat : Bool) (pd : PDst) (d s1 s2 : Fin 16), plain s [s1, s2] →
    let a := operand ty (s.g s1).val
    let low : Nat := (s.g s1).val.toNat % 2 ^ ty.width
    let n := (s.g s2).val.toNat
    IntResult (.shl ty sat pd d s1 s2) s 1 pd d (fun r => Holds ty sat r (a * 2 ^ min n ty.width)) ∧
    IntResult (.shr ty pd d s1 s2) s 1 pd d (fun r => Wrapped ty r (low / 2 ^ n : Nat)) ∧
    IntResult (.sar ty pd d s1 s2) s 1 pd d
      (fun r => Wrapped ty r (Int.fdiv ((s.g s1).val.setWidth ty.width).toInt (2 ^ min n ty.width)))) ∧
  (∀ (s : State) (ty : IntTy) (pd : PDst) (d s1 : Fin 16), plain s [s1] →
    let v := (s.g s1).val.toNat % 2 ^ ty.width
    IntResult (.clz ty pd d s1) s 1 pd d (fun r => r.toNat ≤ ty.width ∧ v < 2 ^ (ty.width - r.toNat) ∧
      (v ≠ 0 → 2 ^ (ty.width - r.toNat - 1) ≤ v)) ∧
    IntResult (.popc ty pd d s1) s 1 pd d (fun r => r.toNat = (List.range ty.width).countP v.testBit)) ∧
  (∀ (s : State) (sgn : Bool) (pos widm : Fin 64) (pd : PDst) (d s1 : Fin 16), plain s [s1] → pos.val + widm.val ≤ 63 →
    IntResult (.bfx sgn pos widm pd d s1) s 1 pd d (fun r => ∀ k < 64, r.getLsbD k =
      if k ≤ widm.val then (s.g s1).val.getLsbD (pos.val + k) else sgn && (s.g s1).val.getLsbD (pos.val + widm.val))) ∧
  (∀ (s : State) (pos widm : Fin 64) (pd : PDst) (d s1 : Fin 16), plain s [s1, d] → pos.val + widm.val ≤ 63 →
    IntResult (.bfi pos widm pd d s1) s 1 pd d (fun r => ∀ k < 64, r.getLsbD k =
      if pos.val ≤ k ∧ k ≤ pos.val + widm.val then (s.g s1).val.getLsbD (k - pos.val) else (s.g d).val.getLsbD k))

/-- SEL and CMP, and WIDX of the item that the unit holds. -/
def Obligations.SelectCompareWidx : Prop :=
  (∀ (s : State) (p : Fin 8) (d s1 s2 : Fin 16), plain s [s1, s2] →
    IntResult (.sel p d s1 s2) s 1 none d (fun r => r = if s.pred p then (s.g s1).val else (s.g s2).val)) ∧
  (∀ (s : State) (ty : IntTy) (c : Cond) (pd : Fin 8) (s1 s2 : Fin 16), plain s [s1, s2] →
    ∃ b : Bool, exec (.cmp ty c pd s1 s2) s = issued s 1 [toP s pd b] none ∧
      (b = true ↔ Cond.onInt c (operand ty (s.g s1).val) (operand ty (s.g s2).val))) ∧
  (∀ (s : State) (i : Fin 6) (pd : PDst) (d : Fin 16),
    (s.me.holds = true → exec (.widx i pd d) s = issued s 1
      (toG s d (widField (s.widw s.me) s.me.hs.wid i.val) Pair.int64 :: toPd s pd (s.me.levels.getLsbD i.val)) none) ∧
    (s.me.holds = false → exec (.widx i pd d) s = issued s 1 (toG s d 0 Pair.int64 :: toPd s pd false) none))

-- SCALAR FP32

namespace Sys2Proof.Spec
open Sys2Proof.Machine

/-- The magnitude of encoding `k` of a format, on the grid that goes on past its largest finite value (R79, R86). -/
def gridMag (f : FloatFmt) (k : Nat) : ℚ :=
  if k < 2 ^ f.mb then (k : ℚ) * 2 ^ (f.emin - f.mb)
  else ((2 ^ f.mb + k % 2 ^ f.mb : Nat) : ℚ) * 2 ^ (f.emin - f.mb + ((k / 2 ^ f.mb : Nat) : ℤ) - 1)

/-- The sign bit of an encoding. -/
def neg (f : FloatFmt) (b : Nat) : Bool := b.testBit (f.width - 1)
/-- An encoding without its sign bit. -/
def mag (f : FloatFmt) (b : Nat) : Nat := b % 2 ^ (f.width - 1)
/-- The encoding is of a finite number. -/
def finite (f : FloatFmt) (b : Nat) : Prop := mag f b ≤ f.maxEnc
/-- The encoding is of an infinity. -/
def infinite (f : FloatFmt) (b : Nat) : Prop := f.infEnc = some (mag f b)
/-- The encoding is of a NaN. -/
def isNan (f : FloatFmt) (b : Nat) : Prop := ¬ finite f b ∧ ¬ infinite f b
/-- The number that a finite encoding stands for. -/
def number (f : FloatFmt) (b : Nat) : ℚ := if neg f b then -gridMag f (mag f b) else gridMag f (mag f b)

/-- A sign bit and a magnitude as an encoding. -/
def withSign (f : FloatFmt) (s : Bool) (m : Nat) : Nat := (if s then 2 ^ (f.width - 1) else 0) + m

/-- The overflow result of R87; `i` says that the exact value is infinite. -/
def beyond (f : FloatFmt) (rm : Rm) (sat s i : Bool) : Nat :=
  let inf := f.maxEnc + 1
  if sat || f.infEnc.isNone then f.maxEnc
  else if i then inf
  else match rm with
    | .rn | .rs => inf
    | .rz => f.maxEnc
    | .ru => if s then f.maxEnc else inf
    | .rd => if s then inf else f.maxEnc

/-- The magnitude between `lo` and `hi` goes to `hi` (R86, R88); `odd` is the last encoded bit of `lo`. -/
def goesUp (rm : Rm) (x lo hi : ℚ) (odd : Bool) (q : Nat) : Prop :=
  lo ≠ |x| ∧ match rm with
    | .rn => lo + hi < 2 * |x| ∨ (lo + hi = 2 * |x| ∧ odd = true)
    | .rz => False
    | .ru => 0 < x
    | .rd => x < 0
    | .rs => (q : ℤ) < ⌊(|x| - lo) / (hi - lo) * 2 ^ 32⌋

/-- `r` is RoundTo of the exact nonzero number `x` (R86, R87, R88). -/
def RoundsTo (f : FloatFmt) (rm : Rm) (sat : Bool) (q : Nat) (x : ℚ) (r : Nat) : Prop :=
  ∃ k n : Nat, gridMag f k ≤ |x| ∧ |x| < gridMag f (k + 1) ∧
    (goesUp rm x (gridMag f k) (gridMag f (k + 1)) (k % 2 == 1) q → n = k + 1) ∧
    (¬ goesUp rm x (gridMag f k) (gridMag f (k + 1)) (k % 2 == 1) q → n = k) ∧
    r = withSign f (x < 0) (if n ≤ f.maxEnc then n else beyond f rm sat (x < 0) false)

/-- The same, a zero taking the sign `z` (R96). -/
def Rounded (f : FloatFmt) (rm : Rm) (sat : Bool) (q : Nat) (z : Bool) (x : ℚ) (r : Nat) : Prop :=
  if x = 0 then r = withSign f z 0 else RoundsTo f rm sat q x r

/-- The low 32 bits of a g register. -/
def low (s : State) (r : Fin 16) : Nat := (s.g r).val.toNat % 2 ^ 32

/-- Bits 63:32 of the firing's random word for its element `e` (R88). -/
def pickWord (s : State) (e : Nat) : Nat :=
  (randomWord s.me.seed s.me.seqNo (s.me.k + BitVec.ofNat 64 e)).toNat / 2 ^ 32

/-- The counter k after `n` elements rounded under .rs (R88). -/
def counted (s : State) (rm : Rm) (n : Nat) : State :=
  if rm = .rs then s.modActor s.cur.actor fun a => { a with k := a.k + BitVec.ofNat 64 n } else s

/-- An FP32 result: D takes an encoding with `P`, and PD says whether it is not ±0 (R243). -/
def FpResult (i : Instr) (s : State) (l : Nat) (rm : Rm) (pd : PDst) (d : Fin 16) (P : Nat → Prop) : Prop :=
  ∃ x : Nat, x < 2 ^ 32 ∧ P x ∧ exec i s = .next (counted
    { s with results := s.results ++ [⟨s.cycle + l, s.cur,
        toG s d (BitVec.ofNat 64 x) ⟨0x01, 127⟩ :: toPd s pd (x % 2 ^ 31 != 0), none⟩] } rm 1)

/-- The choice of R95 among NaN candidates, in operand order: the lowest low four payload bits, the earliest on a tie. -/
def Chosen (cs : List Nat) (r : Nat) : Prop :=
  ∃ pre c post, cs = pre ++ c :: post ∧ (∀ x ∈ pre, c % 16 < x % 16) ∧ (∀ x ∈ post, c % 16 ≤ x % 16) ∧
    r = c ||| 0x400000

open Classical in
/-- The NaNs among FP32 operands. -/
noncomputable def nanOps (xs : List Nat) : List Nat := xs.filter fun x => decide (isNan fFP32 x)

/-- FP32's infinity, or its largest number under SAT. -/
def infOr (sat s : Bool) : Nat := withSign fFP32 s (if sat then 0x7F7FFFFF else 0x7F800000)

end Sys2Proof.Spec

/-- FADD, FSUB, FMUL and FFMA on finite operands: one rounding of the exact number. -/
def Obligations.FpFinite : Prop :=
  ∀ (s : State) (rm : Rm) (sat : Bool) (pd : PDst) (d s1 s2 : Fin 16), plain s [s1, s2] →
    finite fFP32 (low s s1) → finite fFP32 (low s s2) →
    let a := number fFP32 (low s s1)
    let b := number fFP32 (low s s2)
    let na := neg fFP32 (low s s1)
    let nb := neg fFP32 (low s s2)
    let q := pickWord s 0
    FpResult (.fadd rm sat pd d s1 s2) s 4 rm pd d
      (Rounded fFP32 rm sat q (if na = nb then na else rm = .rd) (a + b)) ∧
    FpResult (.fsub rm sat pd d s1 s2) s 4 rm pd d
      (Rounded fFP32 rm sat q (if na = !nb then na else rm = .rd) (a - b)) ∧
    FpResult (.fmul rm sat pd d s1 s2) s 4 rm pd d (Rounded fFP32 rm sat q (xor na nb) (a * b)) ∧
    (plain s [d] → finite fFP32 (low s d) →
      FpResult (.ffma rm sat pd d s1 s2) s 4 rm pd d
        (Rounded fFP32 rm sat q (if xor na nb = neg fFP32 (low s d) then neg fFP32 (low s d) else rm = .rd)
          (a * b + number fFP32 (low s d))))

/-- FADD, FSUB, FMUL and FFMA on infinities and NaNs: the NaN that R95 chooses, made quiet, or an infinity. On a tie between a NaN
operand and a NaN that the operation generates the operand's is the model's choice (notes/assumptions/110.md). -/
def Obligations.FpSpecial : Prop :=
  ∀ (s : State) (rm : Rm) (sat : Bool) (pd : PDst) (d s1 s2 : Fin 16), plain s [s1, s2] →
    let a := low s s1
    let b := low s s2
    let na := neg fFP32 a
    let nb := neg fFP32 b
    let clash (na nb : Bool) (ia ib : Prop) : Prop := ia ∧ ib ∧ na ≠ nb
    let zi : Prop := (mag fFP32 a = 0 ∧ infinite fFP32 b) ∨ (infinite fFP32 a ∧ mag fFP32 b = 0)
    let ip : Prop := (infinite fFP32 a ∨ infinite fFP32 b) ∧ ¬ zi
    (∀ cs, cs = nanOps [a, b] ++ (open Classical in if clash na nb (infinite fFP32 a) (infinite fFP32 b) then [0x7FC00003] else []) →
      (cs ≠ [] → FpResult (.fadd rm sat pd d s1 s2) s 4 rm pd d (Chosen cs)) ∧
      (cs = [] → infinite fFP32 a → FpResult (.fadd rm sat pd d s1 s2) s 4 rm pd d (· = infOr sat na)) ∧
      (cs = [] → infinite fFP32 b → FpResult (.fadd rm sat pd d s1 s2) s 4 rm pd d (· = infOr sat nb))) ∧
    (∀ cs, cs = nanOps [a, b] ++ (open Classical in if clash na (!nb) (infinite fFP32 a) (infinite fFP32 b) then [0x7FC00003] else []) →
      (cs ≠ [] → FpResult (.fsub rm sat pd d s1 s2) s 4 rm pd d (Chosen cs)) ∧
      (cs = [] → infinite fFP32 a → FpResult (.fsub rm sat pd d s1 s2) s 4 rm pd d (· = infOr sat na)) ∧
      (cs = [] → infinite fFP32 b → FpResult (.fsub rm sat pd d s1 s2) s 4 rm pd d (· = infOr sat (!nb)))) ∧
    (∀ cs, cs = nanOps [a, b] ++ (open Classical in if zi then [0x7FC00004] else []) →
      (cs ≠ [] → FpResult (.fmul rm sat pd d s1 s2) s 4 rm pd d (Chosen cs)) ∧
      (cs = [] → ip → FpResult (.fmul rm sat pd d s1 s2) s 4 rm pd d (· = infOr sat (xor na nb)))) ∧
    (plain s [d] → ∀ c cs, c = low s d → cs = nanOps [a, b, c] ++ (open Classical in
        if zi then [0x7FC00004]
        else if clash (xor na nb) (neg fFP32 c) (ip ∧ nanOps [a, b] = []) (infinite fFP32 c) then [0x7FC00003] else []) →
      (cs ≠ [] → FpResult (.ffma rm sat pd d s1 s2) s 4 rm pd d (Chosen cs)) ∧
      (cs = [] → ip → FpResult (.ffma rm sat pd d s1 s2) s 4 rm pd d (· = infOr sat (xor na nb))) ∧
      (cs = [] → infinite fFP32 c → FpResult (.ffma rm sat pd d s1 s2) s 4 rm pd d (· = infOr sat (neg fFP32 c))))

/-- FMIN, FMAX and FCMP: FP32 encodings in their numeric order, −0 below +0 for a minimum and equal to it for FCMP. -/
def Obligations.FpMinMaxCompare : Prop :=
  ∀ (s : State) (pd : PDst) (n : Fin 8) (c : Cond) (d s1 s2 : Fin 16), plain s [s1, s2] →
    let a := low s s1
    let b := low s s2
    let order (x : Nat) : ℤ := if neg fFP32 x then -(mag fFP32 x : ℤ) - 1 else mag fFP32 x
    let value (x : Nat) : ℤ := if neg fFP32 x then -(mag fFP32 x : ℤ) else mag fFP32 x
    (nanOps [a, b] ≠ [] →
      FpResult (.fmin pd d s1 s2) s 2 .rn pd d (Chosen (nanOps [a, b])) ∧
      FpResult (.fmax pd d s1 s2) s 2 .rn pd d (Chosen (nanOps [a, b])) ∧
      exec (.fcmp c n s1 s2) s = issued s 2 [toP s n (c == .ne || c == .un)] none) ∧
    (nanOps [a, b] = [] →
      FpResult (.fmin pd d s1 s2) s 2 .rn pd d (· = if order a ≤ order b then a else b) ∧
      FpResult (.fmax pd d s1 s2) s 2 .rn pd d (· = if order a ≤ order b then b else a) ∧
      ∃ t : Bool, exec (.fcmp c n s1 s2) s = issued s 2 [toP s n t] none ∧
        (t = true ↔ Cond.onInt c (value a) (value b)))

/-- FCVT in all its variants. -/
def Obligations.FpConvert : Prop :=
  ∀ (s : State) (rm : Rm) (sat : Bool) (pd : PDst) (d s1 : Fin 16), plain s [s1] →
    let a := low s s1
    let h := (s.g s1).val.toNat % 2 ^ 16
    let q := pickWord s 0
    let gives (op : FcvtOp) (pair : Pair) (w : Nat) (P : Nat → Prop) : Prop := ∃ x : Nat, x < 2 ^ w ∧ P x ∧
      exec (.fcvt op rm sat pd d s1) s = .next (counted
        { s with results := s.results ++ [⟨s.cycle + 4, s.cur,
            toG s d (BitVec.ofNat 64 x) pair :: toPd s pd (x % 2 ^ (w - 1) != 0), none⟩] } rm 1)
    (∀ ty : IntTy, ∃ r : Word,
      exec (.fcvt (.toInt ty) rm sat pd d s1) s = .next (counted
        { s with results := s.results ++ [⟨s.cycle + 4, s.cur,
            toG s d r Pair.int64 :: toPd s pd (r != 0), none⟩] } rm 1) ∧
      (isNan fFP32 a → r = 0) ∧
      (infinite fFP32 a → regInt ty r = if neg fFP32 a then ty.lo else ty.hi) ∧
      (finite fFP32 a → ∃ n : ℕ, (n = ⌊|number fFP32 a|⌋₊ ∨ n = ⌊|number fFP32 a|⌋₊ + 1) ∧
        (goesUp rm (number fFP32 a) (⌊|number fFP32 a|⌋₊ : ℚ) ((⌊|number fFP32 a|⌋₊ : ℚ) + 1)
          (⌊|number fFP32 a|⌋₊ % 2 == 1) q ↔ n = ⌊|number fFP32 a|⌋₊ + 1) ∧
        Saturated ty r (if neg fFP32 a then -n else n))) ∧
    gives .fromI64 ⟨0x01, 127⟩ 32 (Rounded fFP32 rm false q false ((s.g s1).val.toInt : ℚ)) ∧
    gives .fromN64 ⟨0x01, 127⟩ 32 (Rounded fFP32 rm false q false ((s.g s1).val.toNat : ℚ)) ∧
    (∀ (op : FcvtOp) (f : FloatFmt) (p : Pair), (op, f, p) ∈ [(FcvtOp.toBf16, fBF16, Fmt.bf16.pairAt 127), (.toFp16, fFP16, Fmt.fp16.pairAt 127)] →
      (finite fFP32 a → gives op p 16 (Rounded f rm sat q (neg fFP32 a) (number fFP32 a))) ∧
      (infinite fFP32 a → gives op p 16 (· = withSign f (neg fFP32 a) (beyond f rm sat (neg fFP32 a) true))) ∧
      (isNan fFP32 a → gives op p 16 (· = withSign f (neg fFP32 a) (f.maxEnc + 1 + 2 ^ (f.mb - 1) + a % 2 ^ (f.mb - 1))))) ∧
    (∀ (op : FcvtOp) (f : FloatFmt), (op, f) ∈ [(FcvtOp.fromBf16, fBF16), (.fromFp16, fFP16)] →
      (finite f h → gives op ⟨0x01, 127⟩ 32 (fun x => finite fFP32 x ∧ neg fFP32 x = neg f h ∧ number fFP32 x = number f h)) ∧
      (infinite f h → gives op ⟨0x01, 127⟩ 32 (· = withSign fFP32 (neg f h) 0x7F800000)) ∧
      (isNan f h → gives op ⟨0x01, 127⟩ 32 (· = withSign fFP32 (neg f h) (0x7FC00000 + h % 2 ^ (f.mb - 1)))))

-- IMMEDIATES AND PREDICATES

/-- ADDI, ANDI, ORI, XORI, SHLI and SHRI; CMPI on 64 bits, signed or unsigned. -/
def Obligations.Immediates : Prop :=
  (∀ (s : State) (ty : IntTy) (sgn : Bool) (pd : PDst) (d s1 : Fin 16) (imm : BitVec 24) (n : Fin 64), plain s [s1] →
    let x := (s.g s1).val
    let a := operand ty x
    let low : Nat := x.toNat % 2 ^ ty.width
    let m : Word := if sgn then imm.signExtend 64 else imm.setWidth 64
    IntResult (.addi ty pd d s1 imm) s 1 pd d (fun r => Wrapped ty r (a + imm.toInt)) ∧
    IntResult (.andi sgn pd d s1 imm) s 1 pd d (fun r => r = x &&& m) ∧
    IntResult (.ori sgn pd d s1 imm) s 1 pd d (fun r => r = x ||| m) ∧
    IntResult (.xori sgn pd d s1 imm) s 1 pd d (fun r => r = x ^^^ m) ∧
    IntResult (.shli ty pd d s1 n) s 1 pd d (fun r => Wrapped ty r (a * 2 ^ min n.val ty.width)) ∧
    IntResult (.shri ty pd d s1 n) s 1 pd d (fun r => Wrapped ty r
      (if ty.signed then Int.fdiv a (2 ^ n.val) else (low / 2 ^ n.val : Nat)))) ∧
  (∀ (s : State) (uns : Bool) (c : Cond) (pd : Fin 8) (s1 : Fin 16) (imm : BitVec 24), plain s [s1] →
    ∃ b : Bool, exec (.cmpi uns c pd s1 imm) s = issued s 1 [toP s pd b] none ∧
      (b = true ↔ if uns then Cond.onInt c (s.g s1).val.toNat imm.toNat else Cond.onInt c (s.g s1).val.toInt imm.toInt))

/-- MOVI, MOVHI, PSET, PLOG and PMOV. -/
def Obligations.MovesAndPredicates : Prop :=
  (∀ (s : State) (sgn : Bool) (pd : PDst) (d : Fin 16) (imm : BitVec 24),
    IntResult (.movi sgn pd d imm) s 1 pd d (fun r => r = if sgn then imm.signExtend 64 else imm.setWidth 64)) ∧
  (∀ (s : State) (q : Fin 4) (d : Fin 16) (imm : BitVec 16), plain s [d] →
    IntResult (.movhi q d imm) s 1 none d (fun r => ∀ k < 64, r.getLsbD k =
      if 16 * q.val ≤ k ∧ k < 16 * q.val + 16 then imm.getLsbD (k - 16 * q.val) else (s.g d).val.getLsbD k)) ∧
  (∀ (s : State) (mask vals : BitVec 8), ∃ ws, exec (.pset mask vals) s = issued s 1 ws none ∧
    ∀ w, w ∈ ws ↔ ∃ n : Fin 8, mask.getLsbD n.val = true ∧ w = toP s n (vals.getLsbD n.val)) ∧
  (∀ (s : State) (t : BitVec 4) (a b pd : Fin 8), exec (.plog t a b pd) s = issued s 1
    [toP s pd (t.getLsbD (2 * (s.bk.p.getLsbD a.val).toNat + (s.bk.p.getLsbD b.val).toNat))] none) ∧
  (∀ (s : State) (d : Fin 16), IntResult (.pmovRead d) s 1 none d (fun r => r = s.bk.p.setWidth 64)) ∧
  (∀ (s : State) (s1 : Fin 16) (mask : BitVec 8), plain s [s1] →
    ∃ ws, exec (.pmovWrite s1 mask) s = issued s 1 ws none ∧
      ∀ w, w ∈ ws ↔ ∃ n : Fin 8, mask.getLsbD n.val = true ∧ w = toP s n ((s.g s1).val.getLsbD n.val))

-- ERROR TOKENS AND RESULTS

namespace Sys2Proof.Spec
open Sys2Proof.Machine

/-- A scalar instruction as the token rule sees it (R238): its latency, the g registers it reads in the order S1, S2, D,
the register it writes, the predicates it writes, and its rounding mode. -/
def scalarShape : Instr → Option (Nat × List (Fin 16) × Option (Fin 16) × List (Fin 8) × Rm)
  | .add _ _ pd d a b | .sub _ _ pd d a b | .shl _ _ pd d a b => some (1, [a, b], some d, pd.toList, .rn)
  | .and _ pd d a b | .or _ pd d a b | .xor _ pd d a b | .andn _ pd d a b | .shr _ pd d a b | .sar _ pd d a b
  | .min _ pd d a b | .max _ pd d a b => some (1, [a, b], some d, pd.toList, .rn)
  | .mul _ _ pd d a b => some (4, [a, b], some d, pd.toList, .rn)
  | .mulh _ pd d a b => some (4, [a, b], some d, pd.toList, .rn)
  | .clz _ pd d a | .popc _ pd d a => some (1, [a], some d, pd.toList, .rn)
  | .bfx _ _ _ pd d a => some (1, [a], some d, pd.toList, .rn)
  | .bfi _ _ pd d a => some (1, [a, d], some d, pd.toList, .rn)
  | .sel _ d a b => some (1, [a, b], some d, [], .rn)
  | .cmp _ _ pd a b => some (1, [a, b], none, [pd], .rn)
  | .fadd rm _ pd d a b | .fsub rm _ pd d a b | .fmul rm _ pd d a b => some (4, [a, b], some d, pd.toList, rm)
  | .ffma rm _ pd d a b => some (4, [a, b, d], some d, pd.toList, rm)
  | .fmin pd d a b | .fmax pd d a b => some (2, [a, b], some d, pd.toList, .rn)
  | .fcmp _ pd a b => some (2, [a, b], none, [pd], .rn)
  | .fcvt _ rm _ pd d a => some (4, [a], some d, pd.toList, rm)
  | .addi _ pd d a _ | .andi _ pd d a _ | .ori _ pd d a _ | .xori _ pd d a _ => some (1, [a], some d, pd.toList, .rn)
  | .movhi _ d _ => some (1, [d], some d, [], .rn)
  | .shli _ pd d a _ | .shri _ pd d a _ => some (1, [a], some d, pd.toList, .rn)
  | .cmpi _ _ pd a _ => some (1, [a], none, [pd], .rn)
  | .pmovWrite a mask => some (1, [a], none, (List.finRange 8).filter fun n => mask.getLsbD n.val, .rn)
  | _ => none

/-- The token that a firing passes on from a g register: bits 63:0 of its record, the rest from the header state, with
DETAIL 0 (R400). -/
def passed (s : State) (x : GReg) : Tok :=
  ⟨BitVec.ofNat 256 (x.val.toNat + s.mgmt.devnum.toNat % 2 ^ 14 * 2 ^ 64 + s.me.hs.seq.toNat * 2 ^ 80
    + s.me.hs.wid.toNat * 2 ^ 128), false⟩

end Sys2Proof.Spec

/-- The token rule of the scalar classes: nothing is computed, the destination takes the first token in the order S1, S2,
D, predicates become 0, the counter advances, and the token is passed on. -/
def Obligations.ScalarTokens : Prop :=
  (∀ (i : Instr) (s : State) (l : Nat) (pre : List (Fin 16)) (r : Fin 16) (post : List (Fin 16)) (d : Option (Fin 16))
      (pds : List (Fin 8)) (rm : Rm),
    scalarShape i = some (l, pre ++ r :: post, d, pds, rm) → plain s pre → (s.g r).isTok = true →
    exec i s = .next (counted { s with results := s.results ++ [⟨s.cycle + l, s.cur,
      (d.toList.map fun d => Wr.g s.cur.bank d.val (s.g r)) ++ pds.map fun n => toP s n false, some (passed s (s.g r))⟩] } rm 1)) ∧
  (∀ (s : State) (ty : IntTy) (sat : Bool) (pd : PDst) (d s1 s2 r : Fin 16), (s.g r).isTok = true →
    (r = s1 ∨ (r = s2 ∧ plain s [s1])) →
    let l := if ty.width = 64 then 24 else 12
    let t := issued (s.modTile s.cur.tile fun t => { t with divBusy := s.cycle + l }) l
      (Wr.g s.cur.bank d.val (s.g r) :: toPd s pd false) (some (passed s (s.g r)))
    exec (.div ty sat pd d s1 s2) s = t ∧ exec (.rem ty pd d s1 s2) s = t)

/-- A delivered result writes the registers that it names and no others. RESULT_LATENCY_EXPIRY completes: every result that is
due is delivered, in the order of issue, and no other. -/
def Obligations.ResultDelivery : Prop :=
  (∀ (t : Tile) (ws : List Wr) (b r : Nat),
    ((∀ x, Wr.g b r x ∉ ws) → ((ws.foldl Wr.apply t).bank b).gr r = (t.bank b).gr r) ∧
    ((∀ x, Wr.v b r x ∉ ws) → ((ws.foldl Wr.apply t).bank b).vr r = (t.bank b).vr r) ∧
    ((∀ x, Wr.p b r x ∉ ws) → ((ws.foldl Wr.apply t).bank b).pr r = (t.bank b).pr r) ∧
    (∀ x rest, ws = rest ++ [Wr.g b r x] → ((ws.foldl Wr.apply t).bank b).gr r = x) ∧
    (∀ x rest, ws = rest ++ [Wr.v b r x] → ((ws.foldl Wr.apply t).bank b).vr r = x) ∧
    (∀ x rest, r < 8 → ws = rest ++ [Wr.p b r x] → ((ws.foldl Wr.apply t).bank b).pr r = x) ∧
    (ws.foldl Wr.apply t).sp = t.sp ∧ (ws.foldl Wr.apply t).m = t.m ∧ (ws.foldl Wr.apply t).iq = t.iq) ∧
  (∀ (s : State), ∃ t, exec .resultLatencyExpiry s = .next t ∧ t.mem = s.mem ∧ t.sides = s.sides ∧ t.cycle = s.cycle ∧
    (∀ r ∈ s.results, r.due ≤ s.cycle → r ∉ t.results) ∧ (∀ r ∈ s.results, s.cycle < r.due → r ∈ t.results)) ∧
  (∀ (s : State) (rs : List Result), (∀ x ∈ s.tiles, x.2.run = none) → rs = s.results.filter (fun r => decide (r.due ≤ s.cycle)) →
    (∀ r ∈ rs, r.tok = none) →
    ∃ t, exec .resultLatencyExpiry s = .next t ∧ t = { s with results := t.results, tiles := t.tiles } ∧
      t.results = s.results.filter (fun r => decide (s.cycle < r.due)) ∧
      ∀ k, t.tile k = ((rs.filter fun r => r.fire.tile == k).flatMap (·.writes)).foldl Wr.apply (s.tile k)) ∧
  (∀ (s : State) (r : Result) (k : Tok), (∀ x ∈ s.tiles, x.2.run = none) → s.results = [r] → r.due ≤ s.cycle → r.tok = some k →
    ∃ t, exec .resultLatencyExpiry s = .next t ∧ t.results = [] ∧ t.tile r.fire.tile = r.writes.foldl Wr.apply (s.tile r.fire.tile) ∧
      (∀ i, (s.actor r.fire.actor).item = some i → i.record = none →
        ∃ j, (t.actor r.fire.actor).item = some j ∧ j.record = some k.record ∧ t.traps = s.traps) ∧
      ((s.actor r.fire.actor).item = none → k.produced = true →
        ∃ pre post, s.traps = pre ++ post ∧
          t.traps = pre ++ ⟨(s.actor r.fire.actor).ctx, r.fire.actor, k.record, s.beatOf r.fire.actor, s.cycle⟩ :: post))

-- MEMORY, SYNC AND CELL INSTRUCTIONS: WHAT FIRING ONE DOES

namespace Sys2Proof.Spec
open Sys2Proof.Machine

/-- Firing an access: what it takes at issue stands behind the unit's other accesses, and the unit's memory interface
moves on. `bad` is the token of an operand or of a check that fails before translation, which is then its answer. -/
def fired (s : State) (op : Instr) (w : Option Wave) (va a b c : Word) (data : VReg) (bulk : List Blk) (bad : Option Tok) : Out :=
  .next (State.pump
    { s with
      nextAcc := s.nextAcc + 1
      accs := s.accs ++ [{
        id := s.nextAcc, actor := s.cur.actor, ctx := s.me.ctx, fire := s.cur, org := s.origin s.cur.actor s.cur.slot
        op := op, va := va, a := a, b := b, c := c, data := data, bulk := bulk, wave := w, order := 0, stage := .buffered
        failed := bad.isSome, leaf := none, pa := 2 ^ 62, sentAt := 0, aux := 0, discard := false, noAcq := false, binds := []
        ans := match bad with | some t => failAns op t | none => ⟨none, none, none, none⟩ }] } s.cur.actor)

/-- The token of the first operand that holds one, or E_BOUNDS MISALIGNED of an address off its alignment (R263, R264). -/
def refusal (s : State) (gs : List (Fin 16)) (va : Word) (size : Nat) : Option Tok :=
  match gs.find? fun r => (s.g r).isTok with
  | some r => some (passed s (s.g r))
  | none => if va.toNat % size = 0 then none else some (s.tok .bounds 0x02 va.toNat)

/-- The offset of layout 1, scaled by the access size (R262). -/
def place (x : Word) (off : Off) (size : Nat) : Word :=
  match off with
  | .plain o => BitVec.ofInt 64 (x.toInt + o.toInt * size)
  | .ordered _ => x

/-- The data of a store from a g register: the whole record of a token (R264, R400). -/
def gData (s : State) (r : Fin 16) : VReg :=
  if (s.g r).isTok then ⟨(passed s (s.g r)).record.setWidth 512, Pair.token⟩ else ⟨(s.g r).val.setWidth 512, (s.g r).pair⟩

/-- A g register's value. -/
def reg (s : State) (r : Fin 16) : Word := (s.g r).val
/-- No data. -/
def nil : VReg := ⟨0, Pair.raw⟩

end Sys2Proof.Spec

/-- LD, ST, LDB, STB and PREF take their address, data and wave triple at issue; the atomics their address and operands. -/
def Obligations.MemoryIssue : Prop :=
  (∀ (s : State) (ty : IntTy) (off : Off) (o8 : BitVec 8) (pol : Pol) (d s1 : Fin 16) (w : Wave),
    let va := place (reg s s1) off (ty.width / 8)
    let vb := place (reg s s1) off 64
    exec (.ld ty off pol d s1 w) s = fired s (.ld ty off pol d s1 w) (some w) va 0 0 0 nil [] (refusal s [s1] va (ty.width / 8)) ∧
    exec (.st ty off pol d s1 w) s =
      fired s (.st ty off pol d s1 w) (some w) va 0 0 0 (gData s d) [] (refusal s [s1] va (ty.width / 8)) ∧
    exec (.ldb off pol d s1 w) s = fired s (.ldb off pol d s1 w) (some w) vb 0 0 0 nil [] (refusal s [s1] vb 64) ∧
    exec (.stb off pol d s1 w) s = fired s (.stb off pol d s1 w) (some w) vb 0 0 0 (s.v d) [] (refusal s [s1] vb 64) ∧
    exec (.pref o8 pol s1 w) s =
      (let vp := place (reg s s1) (.plain o8) 64
       fired s (.pref o8 pol s1 w) (some w) vp 0 0 0 nil [] (refusal s [s1] vp 1))) ∧
  (∀ (s : State) (sc : Scope) (w64 sgn ford : Bool) (o : Ord4) (d s1 s2 : Fin 16) (w : Wave),
    let size := if w64 then 8 else 4
    let issue (i : Instr) (gs : List (Fin 16)) : Prop :=
      exec i s = fired s i (some w) (reg s s1) (reg s s2) (reg s d) 0 nil [] (refusal s gs (reg s s1) size)
    issue (.afadd sc w64 o d s1 s2 w) [s1, s2, d] ∧ issue (.acas sc w64 o ford d s1 s2 w) [s1, s2, d] ∧
    issue (.aswap sc w64 o d s1 s2 w) [s1, s2] ∧ issue (.amin sc w64 o sgn d s1 s2 w) [s1, s2] ∧
    issue (.amax sc w64 o sgn d s1 s2 w) [s1, s2] ∧ issue (.aand sc w64 o d s1 s2 w) [s1, s2] ∧
    issue (.aor sc w64 o d s1 s2 w) [s1, s2])

/-- The sync-object instructions take the object's address and their operand at issue. -/
def Obligations.SyncIssue : Prop :=
  ∀ (s : State) (sc : Scope) (fc : FlagCond) (nb : Bool) (pn : Fin 8) (d s1 s2 : Fin 16) (w : Wave),
    let obj (i : Instr) : Prop :=
      exec i s = fired s i (some w) (reg s s1) (reg s s2) 0 0 nil [] (refusal s [s1, s2] (reg s s1) 64)
    let fence (i : Instr) : Prop := exec i s = fired s i (some w) 0 0 0 0 nil [] none
    obj (.acqLockWait sc d s1 s2 w) ∧ obj (.acqLockTry sc d s1 s2 w) ∧ obj (.acqFlagWait fc sc d s1 s2 w) ∧
    obj (.acqFlagAny sc d s1 s2 w) ∧ obj (.relLock sc s1 s2 w) ∧ obj (.relSet sc s1 s2 w) ∧ obj (.relAdd sc s1 s2 w) ∧
    obj (.barr sc d s1 s2 w) ∧ obj (.barrNowait sc d s1 s2 w) ∧ obj (.sdec sc d s1 s2 w) ∧ obj (.sinc sc d s1 s2 w) ∧
    fence (.fenceRel sc w) ∧ fence (.fenceAcq sc w) ∧ fence (.fenceAr sc w) ∧
    exec (.bind d s1 s2 w) s = fired s (.bind d s1 s2 w) (some w) (reg s s1) (reg s s2) (reg s d) 0 nil [] (refusal s [s1, s2, d] 0 64) ∧
    exec (.unbind s1 w) s = fired s (.unbind s1 w) (some w) 0 (reg s s1) 0 0 nil [] (refusal s [s1] 0 64) ∧
    exec (.unbindObj s1 w) s = fired s (.unbindObj s1 w) (some w) (reg s s1) 0 0 0 nil [] (refusal s [s1] 0 64) ∧
    exec (.rpush sc nb pn s1 s2 w) s = fired s (.rpush sc nb pn s1 s2 w) (some w) (reg s s1) 0 0 0 (s.v s2) []
      (match refusal s [s1] (reg s s1) 64 with
        | some t => some t
        | none => if (s.v s2).isTok then some ⟨(s.v s2).val.setWidth 256, false⟩ else none) ∧
    exec (.rpop sc nb pn d s1 w) s = fired s (.rpop sc nb pn d s1 w) (some w) (reg s s1) 0 0 0 nil [] (refusal s [s1] (reg s s1) 64)

namespace Sys2Proof.Spec
open Sys2Proof.Machine

/-- The descriptor of STB.obj is sound: a kind of R130, zero in every field that its kind does not name, and the limits
that each kind sets (R268, R271). -/
def goodObject (x : Blk) : Prop :=
  let f := Blk.fld x
  (f 0 8 = 1 ∧ f 65 447 = 0) ∨
  (f 0 8 = 2 ∧ f 128 384 = 0) ∨
  (f 0 8 = 3 ∧ f 104 24 = 0 ∧ f 128 6 = 0 ∧ f 224 288 = 0) ∨
  (f 0 8 = 4 ∧ 1 ≤ f 64 8 ∧ f 64 8 ≤ 128 ∧ f 72 24 = 0) ∨
  (f 0 8 = 5 ∧ f 64 6 = 0 ∧ f 116 5 ≤ 16 ∧ f 121 7 = 0 ∧ f 192 320 = 0)

end Sys2Proof.Spec

/-- STB.obj and STB.unobj: the address, then the operands' tokens, then the descriptor's checks. -/
def Obligations.ObjectIssue : Prop :=
  ∀ (s : State) (o : BitVec 8) (pol : Pol) (d s1 : Fin 16) (w : Wave),
    let va := place (reg s s1) (.plain o) 64
    let issue (bad : Option Tok) : Prop := exec (.stbObj o pol d s1 w) s = fired s (.stbObj o pol d s1 w) (some w) va 0 0 0 (s.v d) [] bad
    (∀ t, refusal s [s1] va 64 = some t → issue (some t)) ∧
    (refusal s [s1] va 64 = none →
      ((s.v d).isTok = true → issue (some ⟨(s.v d).val.setWidth 256, false⟩)) ∧
      ((s.v d).isTok = false → (goodObject (s.v d).val → issue none) ∧
        (¬ goodObject (s.v d).val → issue (some (s.tok .bounds 0x05 0))))) ∧
    exec (.stbUnobj o pol s1 w) s = fired s (.stbUnobj o pol s1 w) (some w) va 0 0 0 nil [] (refusal s [s1] va 64)

/-- CSUSP, CRES, CRES.sp, CTAG and CPOIS take what they need at issue, with the checks of R281 and R282. -/
def Obligations.CellIssue : Prop :=
  (∀ (s : State) (d : Fin 8) (s1 s2 : Fin 16) (w : Wave),
    let ra : Fin 16 := ⟨2 * d.val, by omega⟩
    let rx : Fin 16 := ⟨2 * d.val + 1, by omega⟩
    let h := reg s s1
    let x := reg s rx
    let good : Prop := h.toNat % 64 = 0 ∧ (reg s s2).toNat % 64 = 0 ∧ (reg s s2).toNat < 2 ^ 52 ∧ (reg s ra).toNat < 2 ^ 52 ∧
      h.toNat % 2 ^ 16 + 64 * (x.toNat % 64 + 1) ≤ 2 ^ 16 ∧ x.toNat < 2 ^ 16 ∧ x.toNat / 64 % 4 = 0 ∧
      (fmtOf (x.toNat / 256)).isSome = true
    let issue (bad : Option Tok) : Prop :=
      exec (.csusp d s1 s2 w) s = fired s (.csusp d s1 s2 w) (some w) h (reg s s2) (reg s ra) x nil [] bad
    (∀ t, refusal s [s1, s2, ra, rx] 0 1 = some t → issue (some t)) ∧
    (refusal s [s1, s2, ra, rx] 0 1 = none → (good → issue none) ∧ (¬ good → issue (some (s.tok .bounds 0x05 0))))) ∧
  (∀ (s : State) (d s1 s2 : Fin 16) (w : Wave),
    exec (.cres d s1 s2 w) s = fired s (.cres d s1 s2 w) (some w) (reg s s1) (reg s d) 0 0 (s.v s2) [] (refusal s [d, s1] (reg s s1) 64) ∧
    exec (.ctag d s1 w) s = fired s (.ctag d s1 w) (some w) (reg s s1) 0 0 0 nil [] (refusal s [s1] (reg s s1) 64) ∧
    exec (.cpois s1 s2 w) s = fired s (.cpois s1 s2 w) (some w) (reg s s1) (reg s s2) 0 0 nil [] (refusal s [s1, s2] (reg s s1) 64)) ∧
  (∀ (s : State) (d s1 s2 : Fin 16) (w : Wave),
    let x := (reg s s2).toNat
    let base := (s.here.cfg s.cur.cfg).stn.toNat / 2 ^ 40 % 256 * 4096
    let stop := base + (s.here.cfg s.cur.cfg).stn.toNat / 2 ^ 48 % 256 * 4096
    let bad : Option Tok := match refusal s [d, s1, s2] (reg s s1) 64 with
      | some t => some t
      | none => if x % 64 ≠ 0 then some (s.tok .bounds 0x02 x) else if x < base then some (s.tok .bounds 0x01 x) else none
    ∃ bulk s', exec (.cresSp d s1 s2 w) s =
      fired s' (.cresSp d s1 s2 w) (some w) (reg s s1) (reg s d) (reg s s2) (BitVec.ofNat 64 stop) nil bulk bad ∧
      (bad.isSome = true → s' = s) ∧
      (bad = none → ∃ n, s' = s.modTile s.cur.tile fun t => { t with spRead := max t.spRead s.cycle + n }) ∧
      (x % 64 = 0 → base ≤ x → ∀ k < 64, x + 64 * (k + 1) ≤ stop →
        bulk[k]? = some (BitVec.ofNat 512 (s.here.spBytes 0 (fun _ => 0) (x + 64 * k) 64))))

/-- Until its answer comes, an access writes no register, no scratchpad word and no predicate; and what the memory
interface accepts follows the wave order: nothing that links to the last accepted access stays behind. -/
def Obligations.WaveOrder : Prop :=
  (∀ (s : State) (key t : Nat), ((s.pump key).tile t).banks = (s.tile t).banks ∧ ((s.pump key).tile t).sp = (s.tile t).sp ∧
    ((s.pump key).tile t).m = (s.tile t).m ∧ (s.pump key).results = s.results ∧ (s.pump key).cycle = s.cycle) ∧
  (∀ (s : State) (key n : Nat), s.waveCount key ≤ n → ∀ a ∈ (s.acceptWave key n).accs, a.actor = key → a.stage = .buffered →
    ∃ w, a.wave = some w ∧ w.p ≠ ((s.acceptWave key n).actor key).waveS ∧ ((s.acceptWave key n).actor key).waveN ≠ w.s) ∧
  (∀ (s : State) (key n : Nat) (a : Access), a ∈ s.accs → a.stage ≠ .buffered → (∀ b ∈ s.accs, b.id = a.id → b = a) →
    a ∈ (s.acceptWave key n).accs)

-- WHAT ACCESSES DO AT HOME

namespace Sys2Proof.Spec
open Sys2Proof.Machine

/-- An access, the only one of its id, stands at the home of its block on this device, memory is in its canonical form, and no
operation on its object is held by a migrating page. -/
def atHome (s : State) (a : Access) : Prop :=
  s.acc? a.id = some a ∧ (∀ y ∈ s.accs, y.id = a.id → y = a) ∧ a.stage = .sent ∧ devOf a.pa = s.dev ∧ s.objHeld a = false ∧ s.memWf

/-- A unit on a tile makes the access: a station, a bay tile or an evaluation. -/
def byUnit (a : Access) : Prop := a.actor < 65536

/-- An access has its answer, which is on its way back. -/
def answered (t : State) (id : Nat) (x : Answer) : Prop :=
  ∃ y, t.acc? id = some y ∧ y.stage = .answering ∧ y.ans = x
/-- An access waits. -/
def waits (t : State) (id : Nat) : Prop := ∃ y, t.acc? id = some y ∧ y.stage = .waiting
/-- A word for D, with pair INT64. -/
def word (x : Nat) : Answer := ⟨some ⟨BitVec.ofNat 64 x, Pair.int64⟩, none, none, none⟩
/-- A predicate. -/
def flag (b : Bool) : Answer := ⟨none, none, some b, none⟩
/-- No value. -/
def done : Answer := ⟨none, none, none, none⟩
/-- The access ends with an error of its own origin. -/
def failed (s t : State) (a : Access) (e : Err) (cause : BitVec 8) (detail : Nat) : Prop :=
  answered t a.id (failAns a.op ⟨record s.dev a.org e cause detail, true⟩)

/-- The block of an access. -/
def blk (a : Access) : Nat := paOf a.pa / 64 * 64
/-- A field of the stored block of an access. -/
def fld (s : State) (a : Access) (pos w : Nat) : Nat := Blk.fld (s.stored (paOf a.pa)) pos w
/-- The block at an address can be read without an error: none is stored in memory, nor in the L2 of its home. -/
def intact (s : State) (pa : Nat) : Prop :=
  Sparse.get s.errs [] (pa / 64) = [] ∧ ∀ l, Sparse.find? s.l2 (pa / 64) = some l → l.bad = false
/-- The block at an address can be read, and was last written under a key id. -/
def readableAt (s : State) (key pa : Nat) : Prop := intact s pa ∧ Sparse.find? s.keyed (pa / 64) = some (s.keyTag key)
/-- The access's block can be read, and was last written under the access's key. -/
def sound (s : State) (a : Access) : Prop := readableAt s a.key (paOf a.pa)
/-- Neither the L1 nor the RDC of the party holds one of the access's blocks, 0 to n, which left them when it was sent (R58). -/
def left (s : State) (a : Access) (n : Nat) : Prop :=
  ∀ i ≤ n, ∀ k, k = lineKey a.key (a.pa / 64 * 64 + 64 * i) ∨
      (devOf (lineAddr k) = s.dev ∧ paOf (lineAddr k) / 64 = paOf a.pa / 64 + i) →
    s.l1Of a k = none ∧ Sparse.find? (s.die a.die).rdc k = none
/-- A live object of a kind that belongs to the access's context. -/
def object (s : State) (a : Access) (kind : Nat) : Prop :=
  sound s a ∧ left s a 0 ∧ (s.side (paOf a.pa)).tag = 4 ∧ s.launchObj (paOf a.pa) = false ∧ fld s a 16 8 = a.ctx ∧ fld s a 0 8 = kind
/-- An atomic's slice has performed none in this cycle (R62). -/
def turn (s : State) (a : Access) : Prop :=
  Sparse.find? (s.die (homeDie (paOf a.pa))).atomics (sliceId (paOf a.pa)) ≠ some s.cycle
/-- Memory outside a block is as it was. -/
def elsewhere (s t : State) (a : Access) : Prop :=
  ∀ x, x / 64 ≠ paOf a.pa / 64 → Memory.get t.mem x = Memory.get s.mem x
/-- A home access answers a next state with `P`. -/
def HomeDoes (s : State) (a : Access) (P : State → Prop) : Prop := ∃ t, exec (.homeAccess a.id) s = .next t ∧ P t

/-- The first waiter at an object, and the FLAG waiters whose condition holds. -/
def flagReady (v : Nat) (w : Access) : Bool :=
  match w.op with
  | .acqLockWait .. => v == w.a.toNat
  | .acqLockTry .. => v != w.a.toNat
  | .acqFlagWait c .. => match c with | .eq => v == w.a.toNat | .ne => v != w.a.toNat | .ge => w.a.toNat ≤ v
  | _ => true

end Sys2Proof.Spec

/-- ACQ and REL of a LOCK and of a FLAG at the object's home. -/
def Obligations.LocksAndFlags : Prop :=
  ∀ (s : State) (a : Access) (sc : Scope) (fc : FlagCond) (d s1 s2 : Fin 16) (w : Wave), atHome s a → byUnit a →
    let room : Prop := s.syncWaiting (homeDie (paOf a.pa)) < 16384
    let v := fld s a 64 64
    (object s a 1 →
      (a.op = .acqLockWait sc d s1 s2 w ∨ a.op = .acqLockTry sc d s1 s2 w → fld s a 64 1 = 0 →
        HomeDoes s a fun t => answered t a.id (word 1) ∧ fld t a 64 1 = 1 ∧ elsewhere s t a) ∧
      (a.op = .acqLockWait sc d s1 s2 w → fld s a 64 1 = 1 → room → HomeDoes s a fun t => waits t a.id ∧ t.mem = s.mem) ∧
      (a.op = .acqLockTry sc d s1 s2 w → fld s a 64 1 = 1 → HomeDoes s a fun t => answered t a.id (word 0) ∧ t.mem = s.mem) ∧
      (a.op = .acqFlagWait fc sc d s1 s2 w ∧ fc = .ge ∨ a.op = .acqFlagAny sc d s1 s2 w →
        HomeDoes s a fun t => failed s t a .permission 0x07 (a.va.toNat % 2 ^ 52) ∧ t.mem = s.mem) ∧
      (a.op = .relLock sc s1 s2 w ∨ a.op = .relSet sc s1 s2 w →
        (fld s a 64 1 = 0 → HomeDoes s a fun t => failed s t a .permission 0x08 (a.va.toNat % 2 ^ 52) ∧
          t.stored (paOf a.pa) = s.stored (paOf a.pa)) ∧
        (fld s a 64 1 = 1 → s.objWaiters (paOf a.pa) = [] →
          HomeDoes s a fun t => answered t a.id done ∧ fld t a 64 1 = 0 ∧ fld t a 32 32 = (fld s a 32 32 + 1) % 2 ^ 32) ∧
        (∀ x xs, fld s a 64 1 = 1 → s.objWaiters (paOf a.pa) = x :: xs →
          HomeDoes s a fun t => answered t a.id done ∧ answered t x.id (word 1) ∧ fld t a 64 1 = 1 ∧
            fld t a 32 32 = (fld s a 32 32 + 1) % 2 ^ 32))) ∧
    (object s a 2 →
      (a.op = .acqLockWait sc d s1 s2 w ∨ a.op = .acqLockTry sc d s1 s2 w ∨ a.op = .acqFlagWait fc sc d s1 s2 w ∨
          a.op = .acqFlagAny sc d s1 s2 w →
        (flagReady v a = true → HomeDoes s a fun t => answered t a.id (word v) ∧ t.mem = s.mem) ∧
        (flagReady v a = false → room → HomeDoes s a fun t => waits t a.id ∧ t.mem = s.mem)) ∧
      (∀ n : Nat, (a.op = .relSet sc s1 s2 w ∨ a.op = .relLock sc s1 s2 w) ∧ n = a.a.toNat ∨
          a.op = .relAdd sc s1 s2 w ∧ n = (v + a.a.toNat) % 2 ^ 64 →
        HomeDoes s a fun t => answered t a.id done ∧ fld t a 64 64 = n ∧ fld t a 32 32 = (fld s a 32 32 + 1) % 2 ^ 32 ∧
          (∀ x ∈ s.objWaiters (paOf a.pa), flagReady n x = true → answered t x.id (word n)) ∧
          (∀ x ∈ s.objWaiters (paOf a.pa), (∀ y ∈ s.accs, y.id = x.id → y = x) → flagReady n x = false → waits t x.id)))

/-- BARR, SDEC and SINC at the object's home. -/
def Obligations.BarriersAndCounters : Prop :=
  ∀ (s : State) (a : Access) (sc : Scope) (d s1 s2 : Fin 16) (w : Wave), atHome s a → byUnit a →
    let seq : Nat := (fld s a 32 32 + 1) % 2 ^ 32
    let n := a.a.toNat
    let count := fld s a 64 8
    let ph := fld s a 96 32
    let arrived := fld s a 128 128
    let gone := fld s a 256 128
    let closes : Prop := ∀ k < count, k = n ∨ arrived.testBit k = true ∨ gone.testBit k = true
    let room : Prop := s.syncWaiting (homeDie (paOf a.pa)) < 16384
    (object s a 4 → a.op = .barr sc d s1 s2 w ∧ a.b = 0 ∨ a.op = .barrNowait sc d s1 s2 w →
      (count ≤ n ∨ arrived.testBit n = true ∨ gone.testBit n = true →
        HomeDoes s a fun t => failed s t a .barrierOverarrive 0x01 n ∧ t.mem = s.mem) ∧
      (n < count → n < 128 → arrived.testBit n = false → gone.testBit n = false →
        (closes → HomeDoes s a fun t => answered t a.id (word ph) ∧ fld t a 96 32 = (ph + 1) % 2 ^ 32 ∧ fld t a 128 128 = 0 ∧
          fld t a 256 128 = Nat.lor gone (fld s a 384 128) ∧ fld t a 384 128 = 0 ∧ fld t a 32 32 = seq ∧
          ∀ x ∈ s.objWaiters (paOf a.pa), x.aux = ph → answered t x.id (word ph)) ∧
        (¬ closes → a.op = .barr sc d s1 s2 w → ¬ room → HomeDoes s a fun t => t.mem = s.mem ∧ ∃ y, t.acc? a.id = some y ∧ y.stage = .sent) ∧
        (¬ closes → a.op = .barrNowait sc d s1 s2 w ∨ room → HomeDoes s a fun t => fld t a 96 32 = ph ∧ fld t a 128 128 = Nat.lor arrived (2 ^ n) ∧
          fld t a 32 32 = seq ∧ (a.op = .barr sc d s1 s2 w → waits t a.id) ∧
          (a.op = .barrNowait sc d s1 s2 w → answered t a.id (word ph))))) ∧
    (object s a 3 →
      let n := n % 2 ^ 32
      let c := fld s a 64 32
      let die := homeDie (paOf a.pa)
      (a.op = .sdec sc d s1 s2 w →
        (c < n → HomeDoes s a fun t => failed s t a .counterUnderflow 0 n ∧ t.mem = s.mem) ∧
        (n < c ∨ n = 0 → HomeDoes s a fun t => answered t a.id (word (c - n)) ∧ fld t a 64 32 = c - n ∧
          fld t a 192 32 = fld s a 192 32 ∧ fld t a 32 32 = seq ∧ (t.die die).ready = (s.die die).ready) ∧
        (n = c → 0 < n → s.readyRoom die = true → HomeDoes s a fun t => answered t a.id (word 0) ∧ fld t a 64 32 = 0 ∧
          fld t a 192 32 = (fld s a 192 32 + 1) % 2 ^ 32 ∧ fld t a 32 32 = seq ∧
          (t.die die).cancels = (s.die die).cancels.filter (· != paOf a.pa) ∧
          ∃ pre post, (s.die die).ready = pre ++ post ∧
            (∀ x ∈ pre, x.since < s.cycle ∨ x.since = s.cycle ∧ x.source ≤ sliceOf (paOf a.pa)) ∧
            (t.die die).ready = pre ++ ⟨fld s a 96 8, a.ctx, s.cycle, sliceOf (paOf a.pa), 0,
              some (BitVec.ofNat 64 (fld s a 128 64)), (s.die die).cancels.contains (paOf a.pa), false⟩ :: post)) ∧
      (a.op = .sinc sc d s1 s2 w →
        (2 ^ 32 ≤ c + n → HomeDoes s a fun t => failed s t a .bounds 0x0A 0 ∧ t.mem = s.mem) ∧
        (c + n < 2 ^ 32 → HomeDoes s a fun t => answered t a.id (word (c + n)) ∧ fld t a 64 32 = c + n ∧
          fld t a 32 32 = seq ∧ (t.die die).ready = (s.die die).ready)))

/-- RPUSH and RPOP at the object's home, with the slot that their index names. -/
def Obligations.Rings : Prop :=
  ∀ (s : State) (a : Access) (l : Leaf) (sc : Scope) (nb : Bool) (pn : Fin 8) (d s1 s2 : Fin 16) (w : Wave),
    atHome s a → byUnit a → object s a 5 → a.aux = 0 →
    let size := 2 ^ fld s a 116 5
    let prod := fld s a 128 32
    let cons := fld s a 160 32
    let held := (prod + 2 ^ 32 - cons) % 2 ^ 32
    let va (k : Nat) : Word := BitVec.ofNat 64 (fld s a 64 52 + 64 * (k % size))
    let slot (k : Nat) : Nat := paOf (l.addr (va k))
    let reached (k : Nat) (p : Perm) : Prop :=
      tlbFind (s.die (homeDie (paOf a.pa))).tlb a.ctx (va k) = some l ∧ s.leafCheck a.ctx l (va k) p = none ∧
      devOf (l.addr (va k)) = s.dev ∧ homeDie (slot k) = homeDie (paOf a.pa) ∧ slot k / 64 ≠ paOf a.pa / 64
    let room : Prop := s.syncWaiting (homeDie (paOf a.pa)) < 16384
    let kept (p : Pair) : Pair := if l.typed then p else ⟨0, 127⟩
    let unscaled : Bool := match fmtOf a.data.pair.fmt.toNat with | some f => !f.scaled | none => false
    let pair := kept ⟨a.data.pair.fmt, if unscaled then 127 else a.data.pair.scale⟩
    (a.op = .rpush sc nb pn s1 s2 w → reached prod .store →
      (held = size → nb = true → HomeDoes s a fun t => answered t a.id (flag false) ∧ fld t a 128 32 = prod) ∧
      (held = size → nb = false → room → HomeDoes s a fun t => waits t a.id ∧ fld t a 128 32 = prod) ∧
      (held ≠ size → (∀ i, (s.actor a.actor).item = some i → i.record = none) → HomeDoes s a fun t =>
        answered t a.id (flag true) ∧ fld t a 128 32 = (prod + 1) % 2 ^ 32 ∧ fld t a 160 32 = cons ∧
        fld t a 32 32 = (fld s a 32 32 + 1) % 2 ^ 32 ∧ t.stored (slot prod) = a.data.val ∧
        t.side (slot prod) = ⟨pair.fmt, pair.scale, 0⟩) ∧
      (∀ i r, held ≠ size → (s.actor a.actor).item = some i → i.record = some r → HomeDoes s a fun t =>
        answered t a.id (flag true) ∧ fld t a 128 32 = (prod + 1) % 2 ^ 32 ∧ t.stored (slot prod) = r.setWidth 512 ∧
        t.side (slot prod) = ⟨0, 127, 3⟩)) ∧
    (a.op = .rpop sc nb pn d s1 w →
      (prod = cons → nb = true → HomeDoes s a fun t => answered t a.id ⟨none, some nil, some false, none⟩ ∧ t.mem = s.mem) ∧
      (prod = cons → nb = false → room → HomeDoes s a fun t => waits t a.id ∧ t.mem = s.mem) ∧
      (prod ≠ cons → reached cons .load → readableAt s l.key (slot cons) → (s.side (slot cons)).tag.toNat < 6 →
        HomeDoes s a fun t => fld t a 160 32 = (cons + 1) % 2 ^ 32 ∧ fld t a 128 32 = prod ∧
          answered t a.id ⟨none, some ⟨s.stored (slot cons), kept ⟨(s.side (slot cons)).fmt, (s.side (slot cons)).scale⟩⟩,
            some ((s.side (slot cons)).tag != 3), none⟩))

/-- The atomics at home: what they leave in memory and what D receives; a cell that is not PLAIN refuses them. -/
def Obligations.AtomicsAtHome : Prop :=
  ∀ (s : State) (a : Access) (sc : Scope) (w64 sgn ford : Bool) (o : Ord4) (d s1 s2 : Fin 16) (w : Wave), atHome s a →
    turn s a → sound s a → left s a 0 → paOf a.pa % (if w64 then 8 else 4) = 0 →
    let n : Nat := if w64 then 64 else 32
    let pos := paOf a.pa % 64 * 8
    let m := fld s a pos n
    let x := a.a.toNat % 2 ^ n
    let l := a.b.toNat % 2 ^ n
    let int (y : Nat) : ℤ := if 2 ^ (n - 1) ≤ y then (y : ℤ) - 2 ^ n else y
    let gives (i : Instr) (new : Nat) (r : Word) : Prop := a.op = i → (s.side (paOf a.pa)).tag = 0 →
      HomeDoes s a fun t => answered t a.id ⟨some ⟨r, Pair.int64⟩, none, none, none⟩ ∧ fld t a pos n = new ∧
        (∀ k, k + 32 ≤ 512 → k % 32 = 0 → (k + 32 ≤ pos ∨ pos + n ≤ k) → fld t a k 32 = fld s a k 32) ∧
        (a.typed = true → t.side (paOf a.pa) = s.side (paOf a.pa)) ∧
        (a.typed = false → new ≠ m → t.side (paOf a.pa) = ⟨0, 127, 0⟩) ∧
        (new = m → (∃ o' f', i = .acas sc w64 o' f' d s1 s2 w ∧ m ≠ l) ∨ (∃ o', i = .afadd sc w64 o' d s1 s2 w ∧ l < m + x) →
          t.stored (paOf a.pa) = s.stored (paOf a.pa) ∧ t.side (paOf a.pa) = s.side (paOf a.pa))
    gives (.afadd sc w64 o d s1 s2 w) (if m + x ≤ l then m + x else m)
      (if m + x ≤ l then BitVec.ofNat 64 m else BitVec.allOnes 64) ∧
    gives (.acas sc w64 o ford d s1 s2 w) (if m = l then x else m) (BitVec.ofNat 64 m) ∧
    gives (.aswap sc w64 o d s1 s2 w) x (BitVec.ofNat 64 m) ∧
    gives (.amin sc w64 o sgn d s1 s2 w) (if sgn then (if int x < int m then x else m) else min m x)
      (BitVec.ofInt 64 (if sgn then int m else m)) ∧
    gives (.amax sc w64 o sgn d s1 s2 w) (if sgn then (if int m < int x then x else m) else max m x)
      (BitVec.ofInt 64 (if sgn then int m else m)) ∧
    gives (.aand sc w64 o d s1 s2 w) (Nat.land m x) (BitVec.ofNat 64 m) ∧
    gives (.aor sc w64 o d s1 s2 w) (Nat.lor m x) (BitVec.ofNat 64 m) ∧
    (∀ i ∈ [Instr.afadd sc w64 o d s1 s2 w, .acas sc w64 o ford d s1 s2 w, .aswap sc w64 o d s1 s2 w,
        .amin sc w64 o sgn d s1 s2 w, .amax sc w64 o sgn d s1 s2 w, .aand sc w64 o d s1 s2 w, .aor sc w64 o d s1 s2 w],
      a.op = i → (s.side (paOf a.pa)).tag ∈ [1#4, 2#4, 4#4, 5#4] →
        HomeDoes s a fun t => failed s t a .permission 0x07 (a.va.toNat % 2 ^ 52) ∧ t.mem = s.mem)

/-- A value read at home, by the tag that it finds. -/
def Obligations.ValueReads : Prop :=
  ∀ (s : State) (a : Access) (off : Off) (pol : Pol) (ty : IntTy) (d s1 : Fin 16) (w : Wave), atHome s a → byUnit a →
    sound s a → a.op = .ldb off pol d s1 w ∨ a.op = .ld ty off pol d s1 w →
    let pa := paOf a.pa
    let head := if (s.side pa).tag = 5 then blk a - 64 * fld s a 0 6 else blk a
    readableAt s a.key head →
    let cells : Prop := ∃ l, a.leaf = some l ∧ l.cells = true ∧ (a.ctx = Blk.fld (s.stored head) 208 8 ∨
      (s.isConf a.ctx = false ∧ s.isConf (Blk.fld (s.stored head) 208 8) = false))
    ((s.side pa).tag = 0 → s.l1Of a (lineKey a.key a.pa) = none → Sparse.find? (s.die a.die).rdc (lineKey a.key a.pa) = none →
      (a.typed = false ∨ (fmtOf (s.side pa).fmt.toNat).isSome = true) →
      HomeDoes s a fun t =>
        (a.op = .ldb off pol d s1 w → answered t a.id ⟨none, some ⟨s.stored pa,
          if a.typed then ⟨(s.side pa).fmt, (s.side pa).scale⟩ else Pair.raw⟩, none, none⟩) ∧
        (a.op = .ld ty off pol d s1 w → ∃ r, answered t a.id ⟨some ⟨r,
          if a.typed then ⟨(s.side pa).fmt, (s.side pa).scale⟩ else Pair.raw⟩, none, none, none⟩ ∧
          Wrapped ty r (Blk.fld (s.stored pa) (8 * (a.va.toNat % 64)) ty.width)) ∧
        (a.pol ≠ .cached ∨ (l1Victim s.cycle (s.tile a.tile) (lineKey a.key a.pa) = none ∧
            rdcVictim s.cycle (s.die a.die) (lineKey a.key a.pa) = none) → t.mem = s.mem)) ∧
    ((s.side pa).tag = 3 → HomeDoes s a fun t => t.mem = s.mem ∧ failed s t a .cellPoisoned 0
      (if (s.stored pa).toNat % 2 ^ 256 = 0 then 5 else Blk.fld (s.stored pa) 0 64)) ∧
    ((s.side pa).tag = 4 → HomeDoes s a fun t => t.mem = s.mem ∧ failed s t a .permission 0x07 (a.va.toNat % 2 ^ 52)) ∧
    (((s.side pa).tag = 1 ∨ ((s.side pa).tag = 5 ∧ (s.side head).tag = 1)) →
      (cells → HomeDoes s a fun t => t.mem = s.mem ∧ ∃ r, t.agenda = .event (.firstTouch a.id) :: r) ∧
      (¬ cells → HomeDoes s a fun t => t.mem = s.mem ∧ failed s t a .permission 0x04 (a.va.toNat % 2 ^ 52))) ∧
    (((s.side pa).tag = 2 ∨ ((s.side pa).tag = 5 ∧ (s.side head).tag = 2)) → (s.evalOf head).isSome = true →
      (cells → HomeDoes s a fun t => t.mem = s.mem ∧ ∃ r, t.agenda = .event (.waiterJoin a.id) :: r) ∧
      (¬ cells → HomeDoes s a fun t => t.mem = s.mem ∧ failed s t a .permission 0x04 (a.va.toNat % 2 ^ 52)))

/-- The life of a group at its agent: CSUSP makes it, a first touch starts its evaluation, a read joins, CRES resolves it,
and an abandoned evaluation poisons every block. -/
def Obligations.CellGroups : Prop :=
  (∀ (s : State) (a : Access) (d : Fin 8) (s1 s2 : Fin 16) (w : Wave), atHome s a → a.op = .csusp d s1 s2 w →
    let n := a.c.toNat % 64
    let free : Prop := ∀ i ≤ n, (s.side (blk a + 64 * i)).tag = 0 ∨ (s.side (blk a + 64 * i)).tag = 3
    left s a n → (∀ i ≤ n, intact s (blk a + 64 * i) ∧ (s.side (blk a + 64 * i)).tag.toNat < 6) →
    (free → a.ctx < 256 → HomeDoes s a fun t => answered t a.id done ∧
      t.side (blk a) = ⟨0, 127, 1⟩ ∧
      Blk.fld (t.stored (blk a)) 0 64 = a.a.toNat ∧ Blk.fld (t.stored (blk a)) 64 64 = a.b.toNat ∧
      Blk.fld (t.stored (blk a)) 128 64 = a.va.toNat ∧ Blk.fld (t.stored (blk a)) 192 8 = a.c.toNat / 256 % 256 ∧
      Blk.fld (t.stored (blk a)) 200 6 = n ∧ Blk.fld (t.stored (blk a)) 208 8 = a.ctx ∧
      Blk.fld (t.stored (blk a)) 216 296 = 0 ∧
      (∀ i, 1 ≤ i → i ≤ n → t.side (blk a + 64 * i) = ⟨0, 127, 5⟩ ∧ Blk.fld (t.stored (blk a + 64 * i)) 0 6 = i ∧
        Blk.fld (t.stored (blk a + 64 * i)) 16 8 = a.ctx) ∧
      ∀ x, x < blk a ∨ blk a + 64 * (n + 1) ≤ x → Memory.get t.mem x = Memory.get s.mem x) ∧
    (¬ free → HomeDoes s a fun t => failed s t a .permission 0x07 (a.va.toNat % 2 ^ 52) ∧ t.mem = s.mem)) ∧
  (∀ (s : State) (a : Access) (c : Ctx), s.memWf → s.acc? a.id = some a → (s.side (paOf a.pa)).tag = 1 →
    Sparse.find? s.ctxs (Blk.fld (s.stored (paOf a.pa)) 208 8) = some c → c.status ≠ 3 → c.status ≠ 5 → c.tearing = false →
    (s.die (homeDie (blk a))).recs.length < 4096 →
    (s.die (homeDie (blk a))).poolSize ≠ 0 → isEvalKey a.actor = false → a.actor < 200000 → Blk.fld (s.stored (paOf a.pa)) 232 24 = 0 →
    Blk.fld (s.stored (paOf a.pa)) 256 64 = 0 →
    ∃ t r, exec (.firstTouch a.id) s = .next t ∧ (t.die (homeDie (blk a))).recs = (s.die (homeDie (blk a))).recs ++ [r] ∧
      r.head = blk a ∧ r.place = .ready ∧ r.ctx = Blk.fld (s.stored (paOf a.pa)) 208 8 ∧
      (t.side (blk a)).tag = 2 ∧ Blk.fld (t.stored (blk a)) 216 16 = r.evid % 2 ^ 16 ∧ Blk.fld (t.stored (blk a)) 232 3 = 1 ∧
      Blk.fld (t.stored (blk a)) 256 64 ≠ 0 ∧ waits t a.id ∧ elsewhere s t a) ∧
  (∀ (s : State) (a : Access), s.memWf → s.acc? a.id = some a → (s.side (paOf a.pa)).tag = 2 → isEvalKey a.actor = false →
    s.entryFree a (blk a) = true →
    ∃ t, exec (.waiterJoin a.id) s = .next t ∧ waits t a.id ∧ elsewhere s t a ∧ (t.side (blk a)).tag = 2 ∧
      (Blk.fld (s.stored (paOf a.pa)) 232 3 < 4 → (∃ i < 4, Blk.fld (s.stored (paOf a.pa)) (256 + 64 * i) 64 = 0) →
        Blk.fld (t.stored (blk a)) 232 3 = Blk.fld (s.stored (paOf a.pa)) 232 3 + 1)) ∧
  (∀ (s : State) (a : Access) (d s1 s2 : Fin 16) (w : Wave), s.memWf → s.acc? a.id = some a → a.op = .cres d s1 s2 w →
    intact s (paOf a.pa) →
    (s.side (paOf a.pa)).tag = 1 → Blk.fld (s.stored (paOf a.pa)) 208 8 = a.ctx →
    Blk.fld (s.stored (paOf a.pa)) 200 6 = 0 → a.data.isTok = false →
    ∃ t, exec (.groupResolution a.id) s = .next t ∧ t.stored (blk a) = a.data.val ∧
      (t.side (blk a)).fmt = BitVec.ofNat 8 (Blk.fld (s.stored (paOf a.pa)) 192 8) ∧ (t.side (blk a)).tag = 0) ∧
  (∀ (s : State) (die : Nat) (cause : BitVec 8) (r : EvRec), s.memWf →
    (s.die die).recs.find? (fun x => x.evid == r.evid) = some r → s.evalOf r.head = some r → homeDie r.head = die → r.head % 64 = 0 →
    ∃ t, exec (.evaluationAbandon die r.evid cause) s = .next t ∧ (∀ x ∈ (t.die die).recs, x.evid ≠ r.evid) ∧
      ∀ i ≤ Blk.fld (s.stored r.head) 200 6, t.side (r.head + 64 * i) = ⟨0, 127, 3⟩ ∧
        t.stored (r.head + 64 * i) = (recordOf s.dev ⟨5, die, 0, 0, 0, 0, 0, 0, 0, 0⟩ 0x0C cause 0).setWidth 512)

-- ENGINES: WHAT FIRING ONE OF THEIR INSTRUCTIONS DOES

/-- SSPEC, SBAR, the J instructions, PROM, WAITB, HIST, the heap instructions, CFG, WATCH and LDCB. -/
def Obligations.EngineIssue : Prop :=
  (∀ (s : State) (t : WatchTr) (once clr : Bool) (id cb d s1 s2 : Fin 16) (w : Wave),
    let x := reg s s1
    let y := reg s s2
    let at1 (i : Instr) (wv : Option Wave) (size : Nat) : Prop :=
      exec i s = fired s i wv x 0 0 0 nil [] (refusal s [s1] x size)
    let op1 (i : Instr) (wv : Option Wave) : Prop := exec i s = fired s i wv 0 x 0 0 nil [] (refusal s [s1] 0 1)
    let op2 (i : Instr) (wv : Option Wave) : Prop := exec i s = fired s i wv 0 x y 0 nil [] (refusal s [s1, s2] 0 1)
    let dump (i : Instr) : Prop := exec i s = fired s i (some w) y x 0 0 nil [] (refusal s [s1, s2] y 64)
    let card (i : Instr) : Prop := exec i s = fired s i (some w) x 0 0 0 nil []
      (match refusal s [s1] 0 1 with
        | some t => some t
        | none => if x.toNat % 256 = 0 then none else some (s.tok .bounds 0x05 0))
    at1 (.sspec d s1) none 64 ∧ card (.jcopy d s1 w) ∧ card (.jgath d s1 w) ∧ card (.jscat d s1 w) ∧ card (.jcoll d s1 w) ∧ at1 (.watch d s1 t once clr id) none 64 ∧
    at1 (.ldcb cb s1) none 32 ∧
    op1 (.sbarWait d s1) none ∧ op1 (.sbarFlush d s1) none ∧ op1 (.sbarStop d s1) none ∧ op1 (.sbarQuery d s1) none ∧
    op1 (.prom d s1) none ∧ op1 (.histRd d s1 w) (some w) ∧
    op2 (.sbarCommit d s1 s2) none ∧ op2 (.hist d s1 s2 w) (some w) ∧ op2 (.hoffer d s1 s2 w) (some w) ∧
    op2 (.hdumpInit d s1 s2 w) (some w) ∧ dump (.hdump d s1 s2 w) ∧ dump (.hdumpClr d s1 s2 w) ∧
    exec (.cfg d s1 s2) s = fired s (.cfg d s1 s2) none x y 0 0 nil [] (refusal s [s1, s2] x 4)) ∧
  (∀ (s : State) (cb v : Fin 16) (half : Bool), (s.v v).isTok = false →
    exec (.ldcbV cb v half) s = fired s (.ldcbV cb v half) none 0 0 0 0
      ⟨((s.v v).val.extractLsb' (if half then 256 else 0) 256).setWidth 512, Pair.raw⟩ [] none) ∧
  (∀ (s : State) (d s1 : Fin 16),
    let asleep := s.modActor s.cur.actor fun a => { a with sleep := some (.job (reg s s1) s.cur d.val false) }
    (plain s [s1] → exec (.waitbJob d s1) s = fired asleep (.waitbJob d s1) none 0 (reg s s1) 0 0 nil [] none) ∧
    ((s.g s1).isTok = true → exec (.waitbJob d s1) s = fired s (.waitbJob d s1) none 0 (reg s s1) 0 0 nil [] (some (passed s (s.g s1))))) ∧
  (∀ (s : State) (s1 : Fin 16) (l : Line), plain s [s1] → s.cur.actor < 32768 → s.line? s.me.line = some l →
    let t := (reg s s1).toNat % 2 ^ 48
    let ahead := (t + 2 ^ 48 - l.counter.toNat) % 2 ^ 48
    exec (.waitb s1) s = .next (if 1 ≤ ahead ∧ ahead < 2 ^ 47 then
      s.modActor s.cur.actor fun a => { a with sleep := some (.beat (BitVec.ofNat 48 t)) } else s))

/-- PROM at the engines answers at once with the status of the job that the handle names. -/
def Obligations.PromStatus : Prop :=
  ∀ (s : State) (a : Access) (d s1 : Fin 16), s.acc? a.id = some a → a.stage = .sent → a.op = .prom d s1 →
    (∀ die n j, s.jobOf a.a = some (die, n, j) → ∃ t, exec (.homeAccess a.id) s = .next t ∧
      ∃ x : Word, answered t a.id ⟨some ⟨x, Pair.int64⟩, none, none, none⟩ ∧ (j.status ≤ 4 → x.toNat % 2 ^ 48 = j.pbeat.toNat ∧
        x.toNat / 2 ^ 48 % 16 = j.status ∧ x.getLsbD 52 = j.missed ∧ x.toNat / 2 ^ 53 = 0)) ∧
    (s.jobOf a.a = none → ∃ t, exec (.homeAccess a.id) s = .next t ∧
      ∃ x : Word, answered t a.id ⟨some ⟨x, Pair.int64⟩, none, none, none⟩ ∧ x.toNat / 2 ^ 48 = 5)

-- FLOW

namespace Sys2Proof.Spec
open Sys2Proof.Machine

/-- The write of PS, when the instruction has one, is seen one cycle later (R247, R248). -/
def thenPs (s : State) (ps : Sys2Proof.PSet) : State :=
  match ps with
  | none => s
  | some (n, b) => { s with results := s.results ++ [⟨s.cycle + 1, s.cur, [toP s n b], none⟩] }

/-- Nothing changes but the firing tile's queues, the firing unit and what is pending. -/
def flowOnly (s t : State) : Prop :=
  t = { s with tiles := t.tiles, actors := t.actors, results := t.results } ∧
  (∀ k, k ≠ s.cur.tile → t.tile k = s.tile k) ∧ (∀ k, k ≠ s.cur.actor → t.actor k = s.actor k) ∧
  t.here = { s.here with iq := t.here.iq }

/-- The head of a queue is consumed: it leaves the queue and stands in the retained input (R169, R231). -/
def taken (s t : State) (q : Fin 8) (e : Entry) : Prop :=
  (t.here.queue q.val) = (s.here.queue q.val).drop 1 ∧ (∀ k, k ≠ q.val → t.here.queue k = s.here.queue k) ∧
  t.me.retained = s.me.retained ++ [(q.val, e)]

/-- A data flit. -/
def dataFlit (e : Entry) : Prop := e.hdr.poi = false ∧ e.bare = false

/-- The pending results of a flow instruction: PS, and a register before it. -/
def pends (s t : State) (ws : List Wr) : Prop :=
  t.results = if ws = [] then s.results else s.results ++ [⟨s.cycle + 1, s.cur, ws, none⟩]
/-- The writes of PS. -/
def psList (s : State) (ps : Sys2Proof.PSet) : List Wr := match ps with | none => [] | some (n, b) => [toP s n b]

end Sys2Proof.Spec

/-- EMIT and DEQ: from a register, and on each kind of queue head. -/
def Obligations.FlowQueues : Prop :=
  (∀ (s : State) (oq : Fin 8) (v : Fin 16) (ps : Sys2Proof.PSet), ∃ t, exec (.emit oq (.reg v) ps) s = .next t ∧ flowOnly s t ∧
    t.me.hold = s.me.hold ++ [⟨oq.val, s.v v⟩] ∧ t.here = s.here ∧ pends s t (psList s ps) ∧ t.me.retained = s.me.retained ∧
    (∀ i, s.me.item = some i → t.me.item = some (match i.first with | none => { i with first := some s.me.hs } | some _ => i))) ∧
  (∀ (s : State) (oq q : Fin 8) (d : Fin 16) (ps : Sys2Proof.PSet) (e : Entry), s.head q.val = some e →
    (dataFlit e →
      (∃ t, exec (.emit oq (.queue q) ps) s = .next t ∧ flowOnly s t ∧ taken s t q e ∧
        t.me.hold = s.me.hold ++ [⟨oq.val, ⟨e.data, ⟨e.hdr.fmt, e.hdr.scale⟩⟩⟩] ∧ pends s t (psList s ps)) ∧
      (∃ t, exec (.deq d q ps) s = .next t ∧ flowOnly s t ∧ taken s t q e ∧ t.me.hold = s.me.hold ∧
        pends s t (toV s d.val ⟨e.data, ⟨e.hdr.fmt, e.hdr.scale⟩⟩ :: psList s ps)) ∧
      (∃ t, exec (.deqDiscard q ps) s = .next t ∧ flowOnly s t ∧ taken s t q e ∧ t.me.hold = s.me.hold ∧
        pends s t (psList s ps))) ∧
    (∀ i ∈ [Instr.emit oq (.queue q) ps, .deq d q ps, .deqDiscard q ps],
      (e.bare = true → e.hdr.poi = false → ∃ t, exec i s = .next t ∧ flowOnly s t ∧ taken s t q e ∧ t.me.hold = s.me.hold ∧
        t.me.hs = { s.me.hs with lok := true } ∧ pends s t (psList s ps)) ∧
      (e.hdr.poi = true → ∃ t, exec i s = .next t ∧ flowOnly s t ∧ taken s t q e ∧ t.me.hold = s.me.hold ∧
        pends s t [] ∧ ∀ it, s.me.item = some it → ∃ it', t.me.item = some it' ∧ it'.record = some (it.record.getD e.hdr.err))))

/-- HDR, HDR.own and SETHDR, field by field. -/
def Obligations.FlowHeaders : Prop :=
  (∀ (s : State) (d : Fin 16) (q : Fin 8) (ps : Sys2Proof.PSet) (e : Entry), s.head q.val = some e →
    let h := e.hdr
    let gives (f : HField) (x : Word) : Prop :=
      exec (.hdr d q f ps) s = issued s 1 (toG s d x Pair.int64 :: psList s ps) none
    gives .wid h.wid ∧ gives .seq (h.seq.setWidth 64) ∧ gives .rows (h.rows.setWidth 64) ∧ gives .shape (h.shape.setWidth 64) ∧
    gives .ctag (h.ctag.setWidth 64) ∧ gives .rtag (h.rtag.setWidth 64) ∧ gives .fmt (h.fmt.setWidth 64) ∧
    gives .scale (h.scale.setWidth 64) ∧
    ∃ x, gives .flags x ∧ x.toNat < 64 ∧ x.getLsbD 0 = (e.last || e.bare) ∧ x.getLsbD 1 = h.lok ∧ x.getLsbD 2 = h.unf ∧
      x.getLsbD 3 = h.poi ∧ x.getLsbD 4 = h.can ∧ x.getLsbD 5 = h.req) ∧
  (∀ (s : State) (d : Fin 16) (ps : Sys2Proof.PSet),
    let h := s.me.hs
    let gives (f : HField) (x : Word) : Prop :=
      exec (.hdrOwn d f ps) s = issued s 1 (toG s d x Pair.int64 :: psList s ps) none
    gives .wid h.wid ∧ gives .seq (h.seq.setWidth 64) ∧ gives .rows (h.rows.setWidth 64) ∧ gives .shape (h.shape.setWidth 64) ∧
    gives .ctag (h.ctag.setWidth 64) ∧ gives .rtag 0 ∧ gives .fmt 0 ∧ gives .scale 0 ∧ gives .flags (if h.lok then 2 else 0)) ∧
  (∀ (s : State) (s1 : Fin 16) (ps : Sys2Proof.PSet),
    let x := reg s s1
    let sets (f : HField) (h : HState) : Prop := ∃ t, exec (.sethdr f s1 ps) s = .next t ∧ flowOnly s t ∧ t.here = s.here ∧
      t.me.hs = h ∧ t.me.hold = s.me.hold ∧ pends s t (psList s ps)
    sets .wid { s.me.hs with wid := x } ∧ sets .seq { s.me.hs with seq := x.setWidth 48 } ∧
    sets .rows { s.me.hs with rows := BitVec.ofNat 9 (min x.toNat 256) } ∧
    sets .shape { s.me.hs with shape := x.setWidth 4 } ∧ sets .ctag { s.me.hs with ctag := x.setWidth 2 } ∧
    sets .flags { s.me.hs with lok := x.getLsbD 1 })

/-- HAND, ROUTE, STEER, CANCEL, PULL, SWITCH, SPLICE and NOP. -/
def Obligations.FlowSteering : Prop :=
  (∀ (s : State) (ps : Sys2Proof.PSet) (i : Item), s.me.item = some i → ∃ t, exec (.hand ps) s = .next t ∧ flowOnly s t ∧
    (∃ i', t.me.item = some i' ∧ i'.handed = true ∧ i'.drop = true ∧ i'.desc = i.desc ∧ i'.record = i.record) ∧
    t.me.work = some (s.me.work.getD (s.cycle - s.me.start + 1)) ∧ t.me.hold = s.me.hold ∧ pends s t (psList s ps) ∧
    (∀ q < 8, t.here.queue q = if s.ownsQueue s.me q then
      (s.here.queue q).filter (fun e => e.unseq || e.hdr.seq != i.desc.h.seq) else s.here.queue q)) ∧
  (∀ (s : State) (ps : Sys2Proof.PSet), s.me.item = none → exec (.hand ps) s = .next (thenPs s ps)) ∧
  (∀ (s : State) (p a b oq : Fin 8) (ps : Sys2Proof.PSet) (s1 : Fin 16) (e : ImmOrG),
    let en : Nat := match e with | .imm k => k.val | .reg g => (reg s g).toNat
    let choose (f : Choice → Choice) : State := s.modActor s.cur.actor fun u => { u with choice := f u.choice }
    exec (.steer p a b) s = .next (choose fun c => { c with steer := some (if s.pred p then (a.val, b.val) else (b.val, a.val)) }) ∧
    (en < 16 → (s.here.cfg s.cur.cfg).routes.getLsbD (12 * en + 11) = true → exec (.route oq e ps) s =
      .next (thenPs (choose fun c => { c with routes := Sparse.set c.routes oq.val en }) ps)) ∧
    (¬ (en < 16 ∧ (s.here.cfg s.cur.cfg).routes.getLsbD (12 * en + 11) = true) → exec (.route oq e ps) s =
      .next (thenPs (s.attach s.cur.actor (s.tok .bounds 0x09 0)) ps)) ∧
    exec (.cancel oq ps) s = .next (thenPs (s.modActor s.cur.actor fun u => { u with
      hold := u.hold.filter (fun h => h.oq != oq.val), choice := { u.choice with cancels := u.choice.cancels ++ [oq.val] } }) ps) ∧
    exec (.cancelSeq oq s1 ps) s = .next (thenPs (choose fun c =>
      { c with cancelSeqs := c.cancelSeqs ++ [(oq.val, (reg s s1).setWidth 48, s.me.hs.wid)] }) ps) ∧
    exec (.splice s1 ps) s = .next (thenPs (s.modActor s.cur.actor fun u => { u with
      hs := { u.hs with lok := true }, choice := { u.choice with splice := some (reg s s1) } }) ps) ∧
    exec (.nop ps) s = .next (thenPs s ps)) ∧
  (∀ (s : State) (q : Fin 8) (n : BitVec 11) (ps : Sys2Proof.PSet),
    let pt := if s.me.kind = .bay then (s.actor (stationKey s.me.line s.me.stn)).tile else s.cur.tile
    let m := (s.tile pt).iqmap.toNat / 2 ^ (6 * q.val) % 64
    (m < 32 → exec (.pull q n ps) s = .next (thenPs s ps)) ∧
    (32 ≤ m → ∀ t', neighbour pt (m / 8 % 4) = some t' → ∃ t f, exec (.pull q n ps) s = .next t ∧
      t.flights = s.flights ++ [f] ∧ f.id = s.nextFlight ∧ f.tile = t' ∧ f.port = (m / 8 % 4 + 2) % 4 ∧ f.tag = m % 8 ∧
      f.entry.hdr.req = true ∧ f.entry.hdr.seq = n.setWidth 48 ∧
      t.timers = s.timers ++ [(s.cycle + 3, .requestTokenArrival s.nextFlight)] ∧ t.tiles = s.tiles ∧ t.actors = s.actors)) ∧
  (∀ (s : State) (c : ImmOrG) (ps : Sys2Proof.PSet),
    let n : Nat := match c with | .imm k => k.val | .reg g => (reg s g).toNat
    (7 < n → exec (.switch c ps) s = .next (thenPs (s.attach s.cur.actor (s.tok .illegalConfig 0x0A 0)) ps)) ∧
    (n ≤ 7 → s.me.kind = .station →
      let cf := (s.tile s.me.tile).cfg n
      let own : Prop := cf.stn.getLsbD 0 = true ∧ cf.stn.toNat / 2 ^ 18 % 64 = s.me.line % 48 ∧ cf.stn.toNat / 2 ^ 24 % 64 = s.me.stn
      (own → exec (.switch c ps) s = .next (thenPs
        { s.modActor s.cur.actor fun a => { a with switchTo := some (n, s.cycle + 5) } with
          timers := s.timers ++ [(s.cycle + 5, .configSwitchEnd s.cur.actor)] } ps)) ∧
      (¬ own → exec (.switch c ps) s = .next (thenPs (s.attach s.cur.actor (s.tok .illegalConfig 0x0A 0)) ps))))

-- SYSTEM

/-- TRAP, FEAT, BEAT, GOVN, YIELD, EXITL, RDCTR and RNGSEED. -/
def Obligations.SystemInstructions : Prop :=
  (∀ (s : State) (poi : Bool) (g : Option (Fin 16)) (imm : BitVec 16), (∀ r, g = some r → plain s [r]) →
    let x : Nat := match g with | some r => (reg s r).toNat % 2 ^ 48 | none => 0
    let r := recordOf s.dev (s.origin s.cur.actor s.cur.slot) 0x17 0 (imm.toNat + 2 ^ 16 * x)
    ∃ t, exec (.trap poi g imm) s = .next t ∧
      (∃ pre post, s.traps = pre ++ post ∧ (∀ x ∈ pre, s.trapBefore s.cur.actor x = true) ∧
        t.traps = pre ++ ⟨s.me.ctx, s.cur.actor, r, s.beatOf s.cur.actor, s.cycle⟩ :: post) ∧
      ((∀ x ∈ s.traps, x.since < s.cycle) → t.traps = s.traps ++ [⟨s.me.ctx, s.cur.actor, r, s.beatOf s.cur.actor, s.cycle⟩]) ∧
      t.agenda = s.agenda ++ [.event .trapRecordWrite] ∧ (∀ k, k ≠ s.cur.actor → t.actor k = s.actor k) ∧
      t = { s with traps := t.traps, agenda := t.agenda, actors := t.actors } ∧
      (poi = false ∨ s.me.item = none → t.actors = s.actors) ∧
      (∀ i, poi = true → s.me.item = some i → t.me = { s.me with
        item := some { i with
          record := some (match i.record with | none => r | some r0 => r0 ||| (1#256 <<< 78))
          marked := if i.record.isNone then s.cycle else i.marked } })) ∧
  (∀ (s : State) (d s1 : Fin 16) (p : Fin 8) (b : BitVec 16) (l : Line), s.cur.actor < 32768 → s.line? s.me.line = some l →
    let x := reg s s1
    let pr : BitVec 128 := (s.gn (2 * p.val)).val.setWidth 128 ||| ((s.gn (2 * p.val + 1)).val.setWidth 128 <<< 64)
    let beatGood (x : Word) : Prop := x.toNat < 2 ^ 41 ∧ x.toNat / 2 ^ 16 % 2 ^ 16 = 0 ∧ x.toNat / 2 ^ 32 % 256 ≠ 0 ∧ 8 ≤ x.toNat % 2 ^ 16
    let govGood : Prop := pr.toNat < 2 ^ 96 ∧ pr.toNat % 2 ^ 16 ≠ 0 ∧ 8 ≤ pr.toNat / 2 ^ 16 % 2 ^ 16 ∧
      pr.toNat / 2 ^ 16 % 2 ^ 16 ≤ pr.toNat / 2 ^ 32 % 2 ^ 16
    let asks (l' : Line) (whole : Bool) (x : Word) : Prop := ∃ pre post, l.beatReq = pre ++ post ∧
      l'.beatReq = pre ++ (s.me.stn, whole, x) :: post ∧ (∀ r ∈ pre, r.1 ≤ s.me.stn) ∧ (∀ r, post.head? = some r → s.me.stn < r.1)
    let field : Word := BitVec.ofNat 64 (l.beat.toNat / 2 ^ 16 * 2 ^ 16 + b.toNat)
    let keeps (t : State) (r : Word) : Prop := t.results = s.results ++ [⟨s.cycle + 2, s.cur, [toG s d r Pair.int64], none⟩] ∧
      t = { s with results := t.results, lines := t.lines }
    (plain s [s1] → beatGood x → ∃ t l', exec (.beat d s1) s = .next t ∧ keeps t l.beat ∧ t.line? s.me.line = some l' ∧
      l'.beat = l.beat ∧ asks l' true x) ∧
    (plain s [s1] → ¬ beatGood x → exec (.beat d s1) s = issued s 2
      [.g s.cur.bank d.val ⟨(s.tok .bounds 0x05 0).record.extractLsb' 0 64, ⟨0xFF, 0xFF⟩⟩] (some (s.tok .bounds 0x05 0))) ∧
    (beatGood field → ∃ t l', exec (.beatB d b) s = .next t ∧ keeps t l.beat ∧ t.line? s.me.line = some l' ∧
      l'.beat = l.beat ∧ asks l' false (b.setWidth 64)) ∧
    (¬ beatGood field → exec (.beatB d b) s = issued s 2
      [.g s.cur.bank d.val ⟨(s.tok .bounds 0x05 0).record.extractLsb' 0 64, ⟨0xFF, 0xFF⟩⟩] (some (s.tok .bounds 0x05 0))) ∧
    ((s.gn (2 * p.val)).isTok = false → (s.gn (2 * p.val + 1)).isTok = false → govGood →
      ∃ t l', exec (.govn d p) s = .next t ∧ keeps t (l.gov.extractLsb' 0 64) ∧ t.line? s.me.line = some l' ∧ l'.gov = l.gov ∧
      (l.govReq = none → l'.govReq = some (s.me.stn, pr)))) ∧
  (∀ (s : State) (d s1 : Fin 16) (c : Fin 11) (i : Fin 8),
    exec .yield s = .next (s.modActor s.cur.actor fun a => { a with yielded := true }) ∧
    (plain s [s1] → exec (.rngseed s1) s = .next (s.modActor s.cur.actor fun a => { a with seed := reg s s1 })) ∧
    (∀ k : ImmOrG, plain s (match k with | .imm _ => [] | .reg g => [g]) → ∃ x, exec (.feat d k) s = issued s 2 [toG s d x Pair.int64] none ∧
      ∀ m, m = (match k with | .imm j => j.val | .reg g => (reg s g).toNat) →
        (m = 0 → x.toNat % 256 = 4 ∧ x.toNat / 2 ^ 16 % 16 = 4 ∧ x.toNat / 2 ^ 20 % 4096 = 192 ∧ x.toNat / 2 ^ 32 = 1500) ∧
        (m = 1 → x = 0xFFF) ∧ (m = 2 → x = 0x3F) ∧ (m = 3 → x = 63 + 336 * 2 ^ 16 + 768 * 2 ^ 32 + 320 * 2 ^ 48) ∧
        (m = 4 → x.toNat % 2 ^ 16 = 128 ∧ x.toNat / 2 ^ 16 % 2 ^ 16 = 32 ∧ x.toNat / 2 ^ 40 = 18) ∧ (6 ≤ m → x = 0)) ∧
    (c.val = 10 → let u := (s.ringLost s.me.ctx 31).1
      exec (.rdctr d c i) s = issued { u with fresh := u.fresh + 1 } 2 [toG u d (s.ringLost s.me.ctx 31).2 Pair.int64] none) ∧
    ∃ x, (c.val ≠ 10 → exec (.rdctr d c i) s = issued { s with fresh := s.fresh + 1 } 2 [toG s d x Pair.int64] none) ∧
      (c.val = 5 → x = s.me.handed) ∧ (c.val = 6 → x = s.me.overruns) ∧ (c.val = 7 → x = s.me.bubbles) ∧
      (∀ l, c.val = 8 → s.cur.actor < 32768 → s.line? s.me.line = some l → x = l.reworked)) ∧
  (∀ (s : State) (l : Line), isEvalKey s.cur.actor = false → s.line? s.me.line = some l →
    exec .exitl s = .next { s with lines := Sparse.set s.lines s.me.line { l with exiting := true } } ∧
    exec .exitlNow s = .next { s with lines := Sparse.set s.lines s.me.line { l with exiting := true, exitNow := true } }) ∧
  (∀ (s : State) (die : Nat) (r : EvRec), isEvalKey s.cur.actor = true → s.recOf s.cur.actor = some (die, r) →
    exec .exitl s = .next { s with agenda := .event (.evaluationAbandon die r.evid 0x04) :: s.agenda } ∧
    exec .exitlNow s = .next { s with agenda := .event (.evaluationAbandon die r.evid 0x04) :: s.agenda })

/-- RDBEAT reads the line's registers and counts as they stand. -/
def Obligations.RdbeatValues : Prop :=
  ∀ (s : State) (d : Fin 16) (l : Line), s.cur.actor < 32768 → s.line? s.me.line = some l →
    let gives (c : Fin 5) (x : Word) : Prop := exec (.rdbeat d c) s = issued s 2 [toG s d x Pair.int64] none
    gives 0 (l.counter.setWidth 64) ∧ gives 1 l.beat ∧ gives 2 (l.gov.setWidth 64) ∧
    gives 3 ((l.gov >>> 64).setWidth 64) ∧ gives 4 (BitVec.ofNat 64 l.winOver)

-- SCRATCHPAD

namespace Sys2Proof.Spec
open Sys2Proof.Machine

/-- The tile of the firing after it. -/
def after (s t : State) : Tile := t.tile s.cur.tile
/-- No group of the firing's tile is due, and none of its instructions is over. -/
def noneDue (s : State) : Prop :=
  ∀ m ∈ s.here.moves, m.over = false ∧ (∀ g ∈ m.reads, s.cycle < g.1) ∧ (∀ g ∈ m.writes, s.cycle < g.1)

end Sys2Proof.Spec

/-- SLD, SLDB, SST and SSTB by address: the checks, the words moved, in the cycle of the group (R52), and a refused access that moves
none. -/
def Obligations.ScratchpadByIndex : Prop :=
  ∀ (s : State) (ty : IntTy) (g d : Fin 16),
    let a := (reg s g).toNat
    let stn := (s.here.cfg s.cur.cfg).stn.toNat
    let base := stn / 2 ^ 40 % 256 * 4096
    let stop := base + stn / 2 ^ 48 % 256 * 4096
    let legal (n : Nat) : Prop := a < 2 ^ 20 ∧ a % n = 0 ∧ base ≤ a ∧ a + n ≤ stop
    let cause (n : Nat) : BitVec 8 := if 2 ^ 20 ≤ a then 0x05 else if a % n ≠ 0 then 0x02 else 0x01
    let byte (t : State) (k : Nat) : Nat := (Sparse.get t.here.sp 0 (k / 4)).toNat / 2 ^ (8 * (k % 4)) % 256
    let wait := s.here.spRead - s.cycle
    let late := s.here.spWrite - s.cycle
    let places (n : Nat) : List Nat := (List.range n).map (a + ·)
    let loads (i : Instr) (n : Nat) (w : Wr) (t : State) : Prop := exec i s = .next t ∧ t.here.sp = s.here.sp ∧ t.mem = s.mem ∧
      t.results = s.results ++ [⟨s.cycle + (wait + 4), s.cur, [w], none⟩] ∧ t.here.spRead = s.cycle + wait + 1 ∧
      (wait = 0 → t.here.moves = s.here.moves) ∧
      (0 < wait → t.here.moves = s.here.moves ++ [⟨s.cur, i, s.cycle + (wait + 4), s.bk, [],
        [(s.cycle + wait, ((places n).map (· / 4)).eraseDups)], [], places n, []⟩])
    let stores (i : Instr) (n : Nat) (x : Nat) : Prop := ∃ t, exec i s = .next t ∧
      (late = 0 → t.here.moves = s.here.moves ∧
        ∀ k, byte t k = if a ≤ k ∧ k < a + n then x / 2 ^ (8 * (k - a)) % 256 else byte s k) ∧
      (0 < late → t.here.sp = s.here.sp ∧ t.here.moves = s.here.moves ++ [⟨s.cur, i, s.cycle, s.bk, [], [], [], [],
        [(s.cycle + late, (List.range n).map fun k => (a + k, BitVec.ofNat 8 (x / 2 ^ (8 * k))))]⟩]) ∧
      t.here.spWrite = s.cycle + late + 1 ∧
      t.results = s.results ∧ t.mem = s.mem ∧ t.actors = s.actors ∧ t.here.banks = s.here.banks ∧
      (∀ k, k ≠ s.cur.tile → t.tile k = s.tile k)
    noneDue s →
    (plain s [g] →
      (legal (ty.width / 8) →
        (∃ r : Word, (∃ t, loads (.sld ty (.index g) d) (ty.width / 8) (toG s d r Pair.int64) t) ∧
          Wrapped ty r ((List.range (ty.width / 8)).foldr (fun k x => byte s (a + k) + 256 * x) 0 : Nat)) ∧
        (plain s [d] → stores (.sst ty (.index g) d) (ty.width / 8) (reg s d).toNat)) ∧
      (legal 64 →
        (∃ x : Blk, (∃ t, loads (.sldb (.index g) d) 64 (toV s d.val ⟨x, Pair.raw⟩) t) ∧
          ∀ k < 64, Blk.fld x (8 * k) 8 = byte s (a + k)) ∧
        (vPlain s [d.val] → stores (.sstb (.index g) d) 64 (s.v d).val.toNat)) ∧
      (¬ legal (ty.width / 8) → let t := s.tok .bounds (cause (ty.width / 8)) a
        exec (.sld ty (.index g) d) s = issued s 4 [.g s.cur.bank d.val ⟨t.record.extractLsb' 0 64, Pair.token⟩] (some t) ∧
        exec (.sst ty (.index g) d) s = .next (s.attach s.cur.actor t)) ∧
      (¬ legal 64 → let t := s.tok .bounds (cause 64) a
        exec (.sldb (.index g) d) s = issued s 4 [.v s.cur.bank d.val ⟨t.record.setWidth 512, Pair.token⟩] (some t) ∧
        exec (.sstb (.index g) d) s = .next (s.attach s.cur.actor t)))

-- VECTORS

namespace Sys2Proof.Spec
open Sys2Proof.Machine

/-- A stored lane as a two's-complement number. -/
def sInt (w v : Nat) : ℤ := if 2 ^ (w - 1) ≤ v then (v : ℤ) - 2 ^ w else v
/-- A lane of w bits holds an exact integer, wrapped, or saturated under SAT (R293). -/
def LaneHolds (w : Nat) (sat : Bool) (v : Nat) (x : ℤ) : Prop :=
  if sat then sInt w v = max (-(2 ^ (w - 1))) (min (2 ^ (w - 1) - 1) x) else ((v : ℤ) - x) % 2 ^ w = 0

/-- The sign and the number of a finite element, decoded as `f` (R84); a Raw register counts as `f` with scale 127. -/
def finElt (s : State) (f : Fmt) (x : VReg) (i : Nat) : Option (Bool × ℚ) :=
  let sc : BitVec 8 := if x.pair.fmt = 0 then 127 else x.pair.scale
  let k : ℤ := if f.scaled then (sc.toNat : ℤ) - 127 else 0
  let v := lane f.bits x.val i
  let float (ff : FloatFmt) (v : Nat) : Option (Bool × ℚ) :=
    if mag ff v ≤ ff.maxEnc then some (neg ff v, number ff v * 2 ^ k) else none
  if f.scaled && sc == 0xFF then none
  else match f with
    | .raw => none
    | .int8 | .int32 | .int64 => some (decide (2 ^ (f.bits - 1) ≤ v), (sInt f.bits v : ℚ) * 2 ^ k)
    | .cb n => float fBF16 ((s.cb n.val).toNat / 2 ^ (16 * v) % 65536)
    | .fp32 => float fFP32 v
    | .bf16 => float fBF16 v
    | .fp16 => float fFP16 v
    | .e4m3 => float fE4M3 v
    | .e5m2 => float fE5M2 v

/-- Rounding to an integer and saturation (R89). -/
def RoundsToInt (w : Nat) (rm : Rm) (q : Nat) (y : ℚ) (r : Nat) : Prop :=
  ∃ n : ℕ, (n = ⌊|y|⌋₊ ∨ n = ⌊|y|⌋₊ + 1) ∧
    (goesUp rm y (⌊|y|⌋₊ : ℚ) ((⌊|y|⌋₊ : ℚ) + 1) (⌊|y|⌋₊ % 2 == 1) q ↔ n = ⌊|y|⌋₊ + 1) ∧
    sInt w r = max (-(2 ^ (w - 1))) (min (2 ^ (w - 1) - 1) (if y < 0 then -(n : ℤ) else n))

/-- The finite entry `c` of a codebook. -/
def cbEntry (s : State) (n c : Nat) : Option ℚ :=
  let b := (s.cb n).toNat / 2 ^ (16 * c) % 65536
  if mag fBF16 b ≤ fBF16.maxEnc then some (number fBF16 b) else none

/-- `r` is a finite exact number converted to an element of `f` under a target scale (R86, R89, R90, R91). -/
def Converted (s : State) (f : Fmt) (tsc : BitVec 8) (rm : Rm) (sat : Bool) (q : Nat) (z : Bool) (x : ℚ) (r : Nat) : Prop :=
  let y : ℚ := if f.scaled then x * 2 ^ (127 - (tsc.toNat : ℤ)) else x
  match f with
  | .raw => True
  | .int8 | .int32 | .int64 => RoundsToInt f.bits rm q y r
  | .cb n => (∃ c e, cbEntry s n.val c = some e ∧ c < 16) → ∃ e, cbEntry s n.val r = some e ∧
      ∀ c < 16, ∀ e', cbEntry s n.val c = some e' → |e - y| < |e' - y| ∨ (|e - y| = |e' - y| ∧ r ≤ c)
  | .fp32 => Rounded fFP32 rm sat q z y r
  | .bf16 => Rounded fBF16 rm sat q z y r
  | .fp16 => Rounded fFP16 rm sat q z y r
  | .e4m3 => Rounded fE4M3 rm sat q z y r
  | .e5m2 => Rounded fE5M2 rm sat q z y r

/-- Register j of a group. -/
def vr (s : State) (r : Fin 16) (j : Nat) : VReg := s.vn (r.val + j)
/-- The registers of a group. -/
def regsOf (g : Grp) (r : Fin 16) : List Nat := (List.range g.size).map (r.val + ·)
/-- Registers hold no token, and each names `f` or Raw. -/
def readable (s : State) (f : Fmt) (rs : List Nat) : Prop :=
  ∀ r ∈ rs, (s.vn r).isTok = false ∧ ((s.vn r).pair.fmt = 0 ∨ (s.vn r).pair.fmt = f.code8)

/-- A firing that writes the registers `ds` after `l` cycles, register j as `P` says, then what `ws` says. -/
def VWrites (i : Instr) (s : State) (l : Nat) (rm : Rm) (n : Nat) (ds : List Nat) (ws : List Wr) (P : Nat → VReg → Prop) : Prop :=
  ∃ xs : Nat → VReg, exec i s = .next (counted { s with results := s.results ++
    [⟨s.cycle + l, s.cur, ds.zipIdx.map (fun x => toV s x.1 (xs x.2)) ++ ws, none⟩] } rm n) ∧ ∀ j < ds.length, P j (xs j)

/-- Every lane of a register as `P` says, under one pair. -/
def Lanes (f : Fmt) (p : Pair) (P : Nat → Nat → Prop) (x : VReg) : Prop :=
  x.pair = p ∧ ∀ i < f.lanes, P i (lane f.bits x.val i)

end Sys2Proof.Spec

/-- VAND, VOR, VXOR, VSHL, VSHR, VSEL, VPERM, VBCAST, VIOTA and VMOVG: bit patterns, lane by lane. -/
def Obligations.VectorBits : Prop :=
  (∀ (s : State) (g : Grp) (d s1 s2 : Fin 16), vPlain s (regsOf g s1 ++ regsOf g s2) →
    let gives (i : Instr) (f : Blk → Blk → Blk) : Prop := VWrites i s 2 .rn 0 (regsOf g d) [] fun j x =>
      x = ⟨f (vr s s1 j).val (vr s s2 j).val, (vr s s1 j).pair⟩
    gives (.vand g d s1 s2) (· &&& ·) ∧ gives (.vor g d s1 s2) (· ||| ·) ∧ gives (.vxor g d s1 s2) (· ^^^ ·)) ∧
  (∀ (s : State) (g : Grp) (f : Fmt) (am : VAmount) (d s1 : Fin 16), f.isInt = true → vPlain s (regsOf g s1 ++
      match am with | .imm _ => [] | .lanes r => regsOf g r) →
    let w := f.bits
    let amt (j i : Nat) : Nat := match am with | .imm k => k.val | .lanes r => lane w (vr s r j).val i
    let gives (i : Instr) (P : Nat → Nat → Nat → Prop) : Prop := VWrites i s 2 .rn 0 (regsOf g d) [] fun j =>
      Lanes f (vr s s1 j).pair fun i y => P (lane w (vr s s1 j).val i) (amt j i) y
    gives (.vshl g f am d s1) (fun x n y => y = if w ≤ n then 0 else x * 2 ^ n % 2 ^ w) ∧
    gives (.vshrLsr g f am d s1) (fun x n y => y = if w ≤ n then 0 else x / 2 ^ n) ∧
    gives (.vshrAsr g f am d s1) (fun x n y => sInt w y = Int.fdiv (sInt w x) (2 ^ min n w))) ∧
  (∀ (s : State) (g : Grp) (f : Fmt) (d s1 s2 : Fin 16), f.lanewise = true →
    (vPlain s (regsOf g s1 ++ regsOf g s2 ++ regsOf g d) → VWrites (.vsel g f d s1 s2) s 2 .rn 0 (regsOf g d) [] fun j =>
      Lanes f (vr s s1 j).pair fun i y => y = if lane f.bits (vr s d j).val i ≠ 0 then lane f.bits (vr s s1 j).val i
        else lane f.bits (vr s s2 j).val i) ∧
    (vPlain s (regsOf g s1 ++ regsOf g s2) → VWrites (.vperm g f d s1 s2) s 4 .rn 0 (regsOf g d) [] fun j =>
      Lanes f (vr s s1 0).pair fun i y =>
        let e := j * f.lanes + i
        let p := lane 8 (vr s s2 (e / 64)).val (e % 64)
        y = if p < g.size * f.lanes then lane f.bits (vr s s1 (p / f.lanes)).val (p % f.lanes) else 0)) ∧
  (∀ (s : State) (g : Grp) (f : Fmt) (tsc ln : BitVec 8) (d s1 : Fin 16), f.lanewise = true →
    (plain s [s1] → VWrites (.vbcast g f tsc d s1) s 2 .rn 0 (regsOf g d) [] fun _ =>
      Lanes f (f.pairAt tsc) fun _ y => y = (reg s s1).toNat % 2 ^ f.bits) ∧
    (vPlain s [s1.val] → VWrites (.vbcastLane g f ln d s1) s 2 .rn 0 (regsOf g d) [] fun _ =>
      Lanes f (s.v s1).pair fun _ y => y = lane f.bits (s.v s1).val ln.toNat) ∧
    (plain s [s1] → f.isInt = true → VWrites (.viota g f tsc d s1) s 2 .rn 0 (regsOf g d) [] fun j =>
      Lanes f (f.pairAt 127) fun i y => ((y : ℤ) - ((reg s s1).toNat + (j * f.lanes + i : Nat) * tsc.toInt)) % 2 ^ f.bits = 0)) ∧
  (∀ (s : State) (g : Grp) (l : Fin 8) (d s1 : Fin 16),
    (vPlain s [s1.val] → exec (.vmovg l d s1) s = issued s 2 [toG s d ((s.v s1).val.extractLsb' (64 * l.val) 64) Pair.int64] none) ∧
    (plain s [s1] → vPlain s [d.val] → VWrites (.vmovgIns l d s1) s 2 .rn 0 [d.val] [] fun _ =>
      Lanes .int64 (s.v d).pair fun i y => y = if i = l.val then (reg s s1).toNat else lane 64 (s.v d).val i) ∧
    (vPlain s (regsOf g s1) → VWrites (.vmovgCp g d s1) s 2 .rn 0 (regsOf g d) [] fun j x => x = vr s s1 j) ∧
    (plain s [s1] → vPlain s [d.val] → (reg s s1).toNat < 2 ^ 16 → (fmtOf ((reg s s1).toNat % 256)).isSome = true →
      exec (.vmovgPair d s1) s = issued s 2
        [toV s d.val ⟨(s.v d).val, ⟨(reg s s1).setWidth 8, (reg s s1 >>> 8).setWidth 8⟩⟩] none))

/-- The integer forms of VADD, VSUB, VMUL, VFMA, VMIN, VMAX, VABS, VNEG, VCMP, VRED and VSCAN. -/
def Obligations.VectorInteger : Prop :=
  ∀ (s : State) (g : Grp) (rm : Rm) (sat uns : Bool) (c : Cond) (f : Fmt) (tsc : BitVec 8) (pd : PDst) (d s1 s2 : Fin 16),
    f.isInt = true → readable s f (regsOf g s1 ++ regsOf g s2) →
    let w := f.bits
    let n := f.lanes
    let a (j i : Nat) : ℤ := sInt w (lane w (vr s s1 j).val i)
    let b (j i : Nat) : ℤ := sInt w (lane w (vr s s2 j).val i)
    let gives (i : Instr) (l : Nat) (x : Nat → Nat → ℤ) : Prop := VWrites i s l .rn 0 (regsOf g d) [] fun j =>
      Lanes f (f.pairAt tsc) fun i y => LaneHolds w sat y (x j i)
    let elt (e : Nat) : ℤ := a (e / n) (e % n)
    let sum (k : Nat) : ℤ := ((List.range k).map elt).sum
    let top (k : Nat) (x : ℤ) : Prop := (∃ e < k, elt e = x) ∧ ∀ e < k, elt e ≤ x
    let least (k : Nat) (x : ℤ) : Prop := (∃ e < k, elt e = x) ∧ ∀ e < k, x ≤ elt e
    let reduces (op : RedOp) (P : ℤ → Prop) : Prop := ∃ v < 2 ^ w, exec (.vred op g rm sat f tsc pd d s1) s =
      issued s 6 (toV s d.val ⟨BitVec.ofNat 512 v, f.pairAt tsc⟩ :: toPd s pd (v != 0)) none ∧ ∃ x, P x ∧ LaneHolds w sat v x
    let scans (op : ScanOp) (P : Nat → ℤ → Prop) : Prop := VWrites (.vscan op g rm sat f tsc d s1) s 8 .rn 0 (regsOf g d) [] fun j =>
      Lanes f (f.pairAt tsc) fun i y => ∃ x, P (j * n + i) x ∧ LaneHolds w sat y x
    gives (.vadd g rm sat f tsc d s1 s2) 4 (fun j i => a j i + b j i) ∧
    gives (.vsub g rm sat f tsc d s1 s2) 4 (fun j i => a j i - b j i) ∧
    gives (.vmul g rm sat f tsc d s1 s2) 4 (fun j i => a j i * b j i) ∧
    gives (.vmin g rm sat f tsc d s1 s2) 4 (fun j i => min (a j i) (b j i)) ∧
    gives (.vmax g rm sat f tsc d s1 s2) 4 (fun j i => max (a j i) (b j i)) ∧
    gives (.vabs g rm sat f tsc d s1) 2 (fun j i => |a j i|) ∧ gives (.vneg g rm sat f tsc d s1) 2 (fun j i => -a j i) ∧
    (readable s f (regsOf g d) →
      gives (.vfma g rm sat f tsc d s1 s2) 4 (fun j i => a j i * b j i + sInt w (lane w (vr s d j).val i))) ∧
    (∃ t : Nat → Nat → Bool,
      (∀ j i, t j i = true ↔ if uns then Cond.onInt c (lane w (vr s s1 j).val i) (lane w (vr s s2 j).val i) else Cond.onInt c (a j i) (b j i)) ∧
      ∃ any : Bool, (any = true ↔ ∃ j < g.size, ∃ i < n, t j i = true) ∧
        VWrites (.vcmp g c uns f pd d s1 s2) s 4 .rn 0 (regsOf g d) (toPd s pd any) fun j =>
          Lanes f Pair.raw fun i y => y = if t j i then 2 ^ w - 1 else 0) ∧
    reduces .sum (· = sum (g.size * n)) ∧ reduces .max (top (g.size * n)) ∧ reduces .min (least (g.size * n)) ∧
    reduces .amax (fun x => (∃ e < g.size * n, |elt e| = x) ∧ ∀ e < g.size * n, |elt e| ≤ x) ∧
    scans .sum (fun e x => x = sum (e + 1)) ∧ scans .xsum (fun e x => x = sum e) ∧
    scans .max (fun e => top (e + 1)) ∧ scans .min (fun e => least (e + 1))

/-- The floating-point forms on finite elements: one rounding of the exact number, under the target scale. -/
def Obligations.VectorFloat : Prop :=
  ∀ (s : State) (g : Grp) (rm : Rm) (sat : Bool) (c : Cond) (f : Fmt) (tsc : BitVec 8) (pd : PDst) (d s1 s2 : Fin 16),
    f.arith = true → f.isInt = false → readable s f (regsOf g s1 ++ regsOf g s2) →
    let n := f.lanes
    let all := g.size * n
    let A (j i : Nat) := finElt s f (vr s s1 j) i
    let B (j i : Nat) := finElt s f (vr s s2 j) i
    let C (j i : Nat) := finElt s f (vr s d j) i
    let q (j i : Nat) : Nat := pickWord s (j * n + i)
    let rounds (i : Instr) (l : Nat) (P : Nat → Nat → Nat → Prop) : Prop := VWrites i s l rm all (regsOf g d) [] fun j =>
      Lanes f (f.pairAt tsc) fun i y => P j i y
    let conv (j i : Nat) (z : Bool) (x : ℚ) (y : Nat) : Prop := Converted s f tsc rm sat (q j i) z x y
    let elt (e : Nat) := A (e / n) (e % n)
    let numbers (k : Nat) (xs : List (Bool × ℚ)) : Prop := xs.map some = (List.range k).map elt
    let total (xs : List (Bool × ℚ)) : ℚ := (xs.map (·.2)).sum
    let zsum (xs : List (Bool × ℚ)) : Bool := if xs.all (fun x => x.2 == 0 && x.1) && !xs.isEmpty then true
      else if xs.all (fun x => x.2 == 0 && !x.1) then false else rm == .rd
    let top (xs : List (Bool × ℚ)) (x : ℚ) : Prop := x ∈ xs.map (·.2) ∧ ∀ y ∈ xs, y.2 ≤ x
    let least (xs : List (Bool × ℚ)) (x : ℚ) : Prop := x ∈ xs.map (·.2) ∧ ∀ y ∈ xs, x ≤ y.2
    let ztop (xs : List (Bool × ℚ)) : Bool := xs.all fun x => x.2 != 0 || x.1
    let zleast (xs : List (Bool × ℚ)) : Bool := xs.any fun x => x.2 == 0 && x.1
    let reduces (op : RedOp) (P : List (Bool × ℚ) → Nat → Prop) : Prop := ∃ v < 2 ^ f.bits,
      exec (.vred op g rm sat f tsc pd d s1) s = .next (counted { s with results := s.results ++ [⟨s.cycle + 6, s.cur,
        toV s d.val ⟨BitVec.ofNat 512 v, f.pairAt tsc⟩ :: toPd s pd (v % 2 ^ (f.bits - 1) != 0), none⟩] } rm 1) ∧
      ∀ xs, numbers all xs → P xs v
    let scans (op : ScanOp) (P : Nat → List (Bool × ℚ) → Nat → Prop) : Prop :=
      rounds (.vscan op g rm sat f tsc d s1) 8 fun j i y => ∀ xs, numbers (j * n + i + 1) xs → P (j * n + i) xs y
    rounds (.vadd g rm sat f tsc d s1 s2) 4 (fun j i y => ∀ a b, A j i = some a → B j i = some b →
      conv j i (if a.1 = b.1 then a.1 else rm == .rd) (a.2 + b.2) y) ∧
    rounds (.vsub g rm sat f tsc d s1 s2) 4 (fun j i y => ∀ a b, A j i = some a → B j i = some b →
      conv j i (if a.1 = !b.1 then a.1 else rm == .rd) (a.2 - b.2) y) ∧
    rounds (.vmul g rm sat f tsc d s1 s2) 4 (fun j i y => ∀ a b, A j i = some a → B j i = some b →
      conv j i (xor a.1 b.1) (a.2 * b.2) y) ∧
    (readable s f (regsOf g d) → rounds (.vfma g rm sat f tsc d s1 s2) 4 (fun j i y => ∀ a b x, A j i = some a → B j i = some b →
      C j i = some x → conv j i (if xor a.1 b.1 = x.1 then x.1 else rm == .rd) (a.2 * b.2 + x.2) y)) ∧
    rounds (.vmin g rm sat f tsc d s1 s2) 4 (fun j i y => ∀ a b, A j i = some a → B j i = some b →
      conv j i (a.1 || b.1) (min a.2 b.2) y) ∧
    rounds (.vmax g rm sat f tsc d s1 s2) 4 (fun j i y => ∀ a b, A j i = some a → B j i = some b →
      conv j i (a.1 && b.1) (max a.2 b.2) y) ∧
    rounds (.vabs g rm sat f tsc d s1) 4 (fun j i y => ∀ a, A j i = some a → conv j i false |a.2| y) ∧
    rounds (.vneg g rm sat f tsc d s1) 4 (fun j i y => ∀ a, A j i = some a → conv j i (!a.1) (-a.2) y) ∧
    (∃ any : Bool, VWrites (.vcmp g c false f pd d s1 s2) s 4 .rn 0 (regsOf g d) (toPd s pd any) fun j =>
      Lanes f Pair.raw fun i y => (y = 0 ∨ (y = 2 ^ f.bits - 1 ∧ any = true)) ∧
        ∀ a b, A j i = some a → B j i = some b → (y ≠ 0 ↔ match c with
          | .eq => a.2 = b.2 | .ne => a.2 ≠ b.2 | .lt => a.2 < b.2 | .le => a.2 ≤ b.2 | .gt => b.2 < a.2 | .ge => b.2 ≤ a.2
          | .un => False)) ∧
    reduces .sum (fun xs y => conv 0 0 (zsum xs) (total xs) y) ∧
    reduces .max (fun xs y => ∃ x, top xs x ∧ conv 0 0 (ztop xs) x y) ∧
    reduces .min (fun xs y => ∃ x, least xs x ∧ conv 0 0 (zleast xs) x y) ∧
    reduces .amax (fun xs y => ∃ x, top (xs.map fun p => (false, |p.2|)) x ∧ conv 0 0 false x y) ∧
    scans .sum (fun e xs y => conv 0 e (zsum xs) (total xs) y) ∧
    scans .xsum (fun e xs y => if e = 0 then y = 0 else conv 0 e (zsum (xs.take e)) (total (xs.take e)) y) ∧
    scans .max (fun e xs y => ∃ x, top xs x ∧ conv 0 e (ztop xs) x y) ∧
    scans .min (fun e xs y => ∃ x, least xs x ∧ conv 0 e (zleast xs) x y)

/-- VRCP is one rounding of the reciprocal; VRSQ brackets the reciprocal square root; VEXP2 of an integer and VLOG2 of a
power of two are exact; zeros give what R298 lists. -/
def Obligations.VectorFunctions : Prop :=
  ∀ (s : State) (g : Grp) (rm : Rm) (sat : Bool) (f : Fmt) (ff : FloatFmt) (tsc : BitVec 8) (d s1 : Fin 16),
    (f, ff) ∈ [(Fmt.fp32, fFP32), (.bf16, fBF16), (.fp16, fFP16)] → readable s f (regsOf g s1) →
    let n := f.lanes
    let A (j i : Nat) := finElt s f (vr s s1 j) i
    let rounds (i : Instr) (l : Nat) (P : Nat → Nat → Nat → Prop) : Prop := VWrites i s l rm (g.size * n) (regsOf g d) [] fun j =>
      Lanes f (f.pairAt tsc) fun i y => P j i y
    let conv (j i : Nat) (x : ℚ) (y : Nat) : Prop := Converted s f tsc rm sat (pickWord s (j * n + i)) false x y
    let inf (z : Bool) (y : Nat) : Prop := y = withSign ff z (beyond ff rm sat z true)
    let k : ℚ := if f.scaled then 2 ^ (127 - (tsc.toNat : ℤ)) else 1
    rounds (.vrcp g rm sat f tsc d s1) 8 (fun j i y => ∀ a, A j i = some a →
      (a.2 ≠ 0 → conv j i a.2⁻¹ y) ∧ (a.2 = 0 → inf a.1 y)) ∧
    rounds (.vrsq g rm sat f tsc d s1) 8 (fun j i y => ∀ a, A j i = some a → (a.2 = 0 → inf a.1 y) ∧
      (a.2 < 0 → y = ff.nanEnc + 3) ∧
      (0 < a.2 → neg ff y = false ∧ (mag ff y < ff.maxEnc → ∃ e, (gridMag ff e) ^ 2 * a.2 ≤ k ^ 2 ∧ k ^ 2 < (gridMag ff (e + 1)) ^ 2 * a.2 ∧
        (y = e ∨ y = e + 1) ∧ (rm = .rz → y = e) ∧ ((gridMag ff e) ^ 2 * a.2 = k ^ 2 → y = e)))) ∧
    rounds (.vexp2 g rm sat f tsc d s1) 12 (fun j i y => ∀ a (m : ℤ), A j i = some a → a.2 = m → -4000 < m → m < 4000 → conv j i (2 ^ m) y) ∧
    rounds (.vlog2 g rm sat f tsc d s1) 12 (fun j i y => ∀ a, A j i = some a →
      (a.2 = 0 → inf true y) ∧ (a.2 < 0 → y = ff.nanEnc + 3) ∧ (∀ m : ℤ, a.2 = 2 ^ m → conv j i m y))

/-- VCVT, VQNT and VCBX on finite elements, with the slices of R299. -/
def Obligations.VectorConversions : Prop :=
  ∀ (s : State) (g : Grp) (rm : Rm) (sat : Bool) (f sf : Fmt) (tsc : BitVec 8) (part : Fin 16) (d s1 : Fin 16),
    let G := g.size
    let wide := max f.bits sf.bits
    let r := wide / min f.bits sf.bits
    let m := G * 512 / wide
    let srcs := if f.bits ≤ sf.bits then regsOf g s1 else [s1.val]
    let dsts := if sf.bits ≤ f.bits then regsOf g d else [d.val]
    let so := if sf.bits < f.bits then part.val * m else 0
    let po := if f.bits < sf.bits then part.val * m else 0
    let src (e : Nat) : VReg := s.vn (srcs.getD ((so + e) / sf.lanes) 0)
    let old (j i : Nat) : Nat := lane f.bits (s.vn (dsts.getD j 0)).val i
    let shaped : Prop := (if r = 1 then part.val = 0 else G ≤ r ∧ part.val < r / G) ∧ sf ≠ .raw ∧
      (f.bits ≤ sf.bits → s1.val % G = 0) ∧ (sf.bits ≤ f.bits → d.val % G = 0) ∧
      (∀ q ∈ regsOf g s1, (s.vn q).isTok = false) ∧ (∀ q ∈ srcs, (s.vn q).pair.fmt = sf.code8) ∧
      (∀ q ∈ dsts, f.bits < sf.bits → (s.vn q).isTok = false)
    let gives (i : Instr) (l : Nat) (rm : Rm) (k : Nat) (p : Pair) (P : Nat → Nat → Prop) : Prop :=
      VWrites i s l rm k dsts [] fun j => Lanes f p fun i y =>
        let e := j * f.lanes + i
        if po ≤ e ∧ e < po + m then P (e - po) y else y = old j i
    shaped →
    (f ≠ .raw → gives (.vcvt g rm sat f tsc part d s1) 4 rm m (f.pairAt tsc) fun e y => ∀ a,
      finElt s sf (src e) ((so + e) % sf.lanes) = some a → Converted s f tsc rm sat (pickWord s e) a.1 a.2 y) ∧
    (f = .bf16 → ∀ n, sf = .cb n → gives (.vcbx g part d s1) 4 .rn 0 ⟨0x02, (s.v s1).pair.scale⟩ fun e y =>
      y = (s.cb n.val).toNat / 2 ^ (16 * lane 4 (src e).val ((so + e) % 128)) % 65536) ∧
    (∀ top : ℤ, (f, top) ∈ [(Fmt.bf16, 127), (.fp16, 15), (.e4m3, 8), (.e5m2, 15), (.int8, 6)] → part = 0 → (r = 1 ∨ G = r) →
      ∃ t : BitVec 8, (∀ l : ℤ, (∃ e < m, ∃ a, finElt s sf (src e) (e % sf.lanes) = some a ∧ 2 ^ l ≤ |a.2|) →
          (∀ e < m, ∀ a, finElt s sf (src e) (e % sf.lanes) = some a → |a.2| < 2 ^ (l + 1)) →
          (t.toNat : ℤ) = max 0 (min 254 (l - top + 127))) ∧
        ((∀ e < m, ∀ a, finElt s sf (src e) (e % sf.lanes) = some a → a.2 = 0) → t = 127) ∧
        gives (.vqnt g rm sat f d s1) 6 rm m (f.pairAt t) fun e y => ∀ a,
          finElt s sf (src e) (e % sf.lanes) = some a → Converted s f t rm sat (pickWord s e) a.1 a.2 y)

-- THE MATRIX UNIT

namespace Sys2Proof.Spec
open Sys2Proof.Machine

/-- A row word that passes the second and third checks of R316, for an entry that uses COUNT, and SROW and DROW as said. -/
def rowGood (r : RowWord) (srow drow : Bool) (pitches : List Nat) : Prop :=
  r.clean = true ∧ 1 ≤ r.count ∧ r.count ≤ 64 ∧ (r.tile = 0 ∨ 0 ∉ pitches) ∧
  (srow = true → r.srow + r.count ≤ 64) ∧ (drow = true → r.drow + r.count ≤ 64)

/-- A scratchpad operand that passes the first and the last check of R316 for spans of bytes. -/
def spGood (s : State) (p : Fin 8) (esize : Nat) (spans : List (Nat × Nat)) : Prop :=
  (s.gn (2 * p.val)).isTok = false ∧ (s.gn (2 * p.val + 1)).isTok = false ∧ dscCheck s.window (s.dsc p) esize spans = none

/-- A matrix firing: what it writes is seen after some cycles; it changes its own tile, not its g, v and p registers, and
its own unit. -/
def Matrix (i : Instr) (s : State) (ws : List Wr) (P : State → Prop) : Prop :=
  ∃ t l, exec i s = .next t ∧ t.results = s.results ++ [⟨s.cycle + l, s.cur, ws, none⟩] ∧
    t = { s with tiles := t.tiles, actors := t.actors, results := t.results } ∧
    (∀ k, k ≠ s.cur.tile → t.tile k = s.tile k) ∧ (after s t).banks = s.here.banks ∧ (after s t).fs = s.here.fs ∧
    (∀ k, k ≠ s.cur.actor → t.actor k = s.actor k) ∧ P t

/-- A firing that leaves its unit's own state alone. -/
def unitKept (s t : State) : Prop := t.actors = s.actors
/-- The m registers, accumulators, pv registers and scratchpad that a firing leaves alone. -/
def keepsM (s t : State) : Prop := (after s t).m = s.here.m
def keepsA (s t : State) : Prop := (after s t).a = s.here.a
def keepsPv (s t : State) : Prop := (after s t).pv = s.here.pv
def keepsSp (s t : State) : Prop := (after s t).sp = s.here.sp

/-- Every m block: those of `d` in a range as `P` says, every other as before. -/
def mAfter (s t : State) (d lo hi : Nat) (P : Nat → VReg → Prop) : Prop :=
  ∀ r b, b < 128 → if r = d ∧ lo ≤ b ∧ b < hi then P b ((after s t).mblk r b) else (after s t).mblk r b = s.here.mblk r b
/-- Every accumulator element: rows `lo` to `hi` of `d` as `P` says, every other as before. -/
def aAfter (s t : State) (d lo hi : Nat) (P : Nat → Nat → Nat → Prop) : Prop :=
  ∀ r i j, i < 64 → j < 64 → if r = d ∧ lo ≤ i ∧ i < hi then P i j ((after s t).ael r i j)
    else (after s t).ael r i j = s.here.ael r i j

/-- Rows of bytes stored one after another in the scratchpad: where two bytes meet, the later stands. -/
def Stored (s t : State) (ds : Dsc) (count len : Nat) (addr : Nat → Nat) (byte : Nat → Nat → Nat) : Prop :=
  let pl (i k : Nat) : Nat := let a := addr i + k; 4 * spPlace ds.rot (ds.row a) (a / 4) + a % 4
  let b (u : Tile) (p : Nat) : Nat := (Sparse.get u.sp 0 (p / 4)).toNat / 2 ^ (8 * (p % 4)) % 256
  (∀ p, (∀ i < count, ∀ k < len, pl i k ≠ p) → b (after s t) p = b s.here p) ∧
  ∀ i < count, ∀ k < len, (∀ i' < count, ∀ k' < len, (i < i' ∨ (i = i' ∧ k < k')) → pl i' k' ≠ pl i k) →
    b (after s t) (pl i k) = byte i k

/-- The cycles until the firing's tile takes the next read group, and the next write group (R52). -/
def readLag (s : State) : Nat := s.here.spRead - s.cycle
def writeLag (s : State) : Nat := s.here.spWrite - s.cycle

/-- The read groups of a firing begin, one after another: those of this cycle are read, and once all have been read the instruction acts
on the words that they gave (R52). -/
def ReadsIn (s t : State) (i : Instr) (l : Nat) (ws : List Wr) (gs : List (List Nat)) : Prop :=
  let m := SpMove.read s.here s.cycle ⟨s.cur, i, s.cycle + l, s.bk, s.books, groupStarts (s.cycle + readLag s) gs, [], [], []⟩
  t.results = s.results ++ [⟨s.cycle + l, s.cur, ws, none⟩] ∧ t.actors = s.actors ∧
  (after s t).pv = s.here.pv ∧ (after s t).sp = s.here.sp ∧ (after s t).iq = s.here.iq ∧
  (after s t).spRead = s.cycle + readLag s + groupCosts gs ∧
  (m.reads ≠ [] → (after s t).moves = s.here.moves ++ [m] ∧ (after s t).m = s.here.m ∧ (after s t).a = s.here.a) ∧
  (m.reads = [] → (after s t).moves = s.here.moves ∧ (after s t).m = ((s.gathered m).matTile i).m ∧
    (after s t).a = ((s.gathered m).matTile i).a)

/-- The write groups of a firing begin, one after another; those of this cycle are written (R52). -/
def WritesIn (s t : State) (i : Instr) (gs : List (List Nat)) (ws : List (Nat × List (Nat × BitVec 8))) : Prop :=
  let now := Tile.writeGroups { s.here with moves := s.here.moves ++ [⟨s.cur, i, s.cycle, s.bk, [], [], [], [], ws⟩] } s.cycle
  ws.map (·.1) = (groupStarts (s.cycle + writeLag s) gs).map (·.1) ∧
  (after s t).sp = now.sp ∧ (after s t).moves = now.moves ∧ (after s t).spWrite = s.cycle + writeLag s + groupCosts gs

/-- The state in which the firing's instruction has acted on the words that it has read. -/
def actedOn (s : State) (i : Instr) : State := s.setTile s.cur.tile (s.matTile i)

/-- An FP32 element of an accumulator row, converted to a target: one random word for each element (R321). -/
def rowConverted (s : State) (f : Fmt) (sc : BitVec 8) (rm : Rm) (sat : Bool) (a : Fin 4) (srow i j y : Nat) : Prop :=
  let x := s.here.ael a.val (srow + i) j
  finite fFP32 x → Converted s f sc rm sat (pickWord s (64 * i + j)) (neg fFP32 x) (number fFP32 x) y

/-- The target formats of MST and MDRAIN. -/
def targets : List Fmt := [.fp32, .bf16, .fp16, .e4m3, .e5m2, .int8]

/-- The data flit at the head of a queue, and a row of its item: at most `n` entries, up to the item's last. -/
def rowAt (s : State) (q : Fin 8) (n : Nat) (es : List Entry) : Prop :=
  (∃ e, s.head q.val = some e ∧ dataFlit e) ∧ es = rowEntries (s.here.queue q.val) n ∧ ∀ e ∈ es, e.hdr.poi = false
/-- A row is consumed and its counter advances (R318). -/
def rowTaken (s t : State) (q : Fin 8) (es : List Entry) : Prop :=
  (after s t).queue q.val = (s.here.queue q.val).drop es.length ∧
  (∀ k, k ≠ q.val → (after s t).queue k = s.here.queue k) ∧
  Sparse.get (t.actor s.cur.actor).rc 0 q.val = Sparse.get s.me.rc 0 q.val + 1 ∧
  (t.actor s.cur.actor).retained = s.me.retained ++ (es.take es.length).map fun e => (q.val, e)
/-- Nothing of the queues moves. -/
def queuesKept (s t : State) : Prop := (after s t).iq = s.here.iq

end Sys2Proof.Spec

/-- MLD and MLDT begin their read groups, MST its write groups; MZERO and MPERM move data; MFST reads and writes the factor state. -/
def Obligations.MatrixMoves : Prop :=
  (∀ (s : State) (f : Fmt) (d sp q : Fin 8) (gx : Fin 16), plain s [gx] →
    let r := rowWord (reg s gx)
    let ds := s.dsc sp
    (rowGood r true true [ds.tilePitch] → spGood s sp (f.bits / 8) (rowSpans ds r.tile r.srow r.count 128) → noneDue s →
      let gs := spGroups ds 2 33 (rowSpans ds r.tile r.srow r.count 128)
      Matrix (.mld f d sp gx) s [.mark (.m d.val)] fun t =>
        ReadsIn s t (.mld f d sp gx) (readLag s + groupCosts gs + 3) [.mark (.m d.val)] gs) ∧
    (∀ es, rowAt s q 2 es → (∀ e ∈ es, (Fmt.of e.hdr.fmt).isSome = true) → r.clean = true → r.drow + Sparse.get s.me.rc 0 q.val < 64 →
      let row := r.drow + Sparse.get s.me.rc 0 q.val
      Matrix (.mldQueue d q gx) s [.mark (.m d.val)] fun t => rowTaken s t q es ∧ keepsA s t ∧ keepsPv s t ∧ keepsSp s t ∧
        mAfter s t d.val (2 * row) (2 * row + 2) fun b x => x = match es[b % 2]? with
          | some e => ⟨e.data, ⟨e.hdr.fmt, e.hdr.scale⟩⟩
          | none => ⟨0, Pair.raw⟩) ∧
    (f ≠ .raw → rowGood r false false [ds.tilePitch] → r.count = 64 → r.srow = 0 → r.drow = 0 →
      spGood s sp (f.bits / 8) (rowSpans ds r.tile 0 64 128) → noneDue s →
      let gs := (List.range 32).map fun g => (List.range 64).flatMap fun i => spanPlaces ds (ds.rowAddr r.tile i + 4 * g) 4
      Matrix (.mldt f d sp gx) s [.mark (.m d.val)] fun t =>
        ReadsIn s t (.mldt f d sp gx) (readLag s + groupCosts gs + 3) [.mark (.m d.val)] gs)) ∧
  (∀ (s : State) (f : Fmt) (rm : Rm) (sat : Bool) (sp m : Fin 8) (a : Fin 4) (gx : Fin 16), plain s [gx] →
    let r := rowWord (reg s gx)
    let ds := s.dsc sp
    let to_ (i : Nat) : Nat := ds.rowAddr r.tile (r.drow + i)
    let outs (ws : List (Nat × List (Nat × BitVec 8))) : State := s.modHere fun t => (ws.flatMap (·.2)).foldl Tile.setPlace t
    rowGood r true true [ds.tilePitch] → noneDue s →
    (spGood s sp 1 (rowSpans ds r.tile r.drow r.count 128) → Matrix (.mst f rm sat sp (.m m) gx) s [] fun t =>
      unitKept s t ∧ keepsM s t ∧ keepsA s t ∧ keepsPv s t ∧ queuesKept s t ∧
      ∃ ws, WritesIn s t (.mst f rm sat sp (.m m) gx) (spGroups ds 2 65 (rowSpans ds r.tile r.drow r.count 128)) ws ∧
        Stored s (outs ws) ds r.count 128 to_ fun i k =>
          Blk.fld (s.here.mblk m.val (2 * (r.srow + i) + k / 64)).val (8 * (k % 64)) 8) ∧
    (f ∈ targets → (f = .fp32 → r.scale = 127) → spGood s sp (f.bits / 8) (rowSpans ds r.tile r.drow r.count (8 * f.bits)) →
      Matrix (.mst f rm sat sp (.a a) gx) s [] fun t => t.actors = (counted s rm (64 * r.count)).actors ∧
        keepsM s t ∧ keepsA s t ∧ keepsPv s t ∧ queuesKept s t ∧
        ∃ ws, WritesIn s t (.mst f rm sat sp (.a a) gx)
            (spGroups ds (32 / f.bits) 65 (rowSpans ds r.tile r.drow r.count (8 * f.bits))) ws ∧
        ∃ y : Nat → Nat → Nat, (∀ i < r.count, ∀ j < 64, y i j < 2 ^ f.bits ∧ rowConverted s f r.scale rm sat a r.srow i j (y i j)) ∧
          Stored s (outs ws) ds r.count (8 * f.bits) to_ fun i k => y i (8 * k / f.bits) / 2 ^ (8 * k % f.bits) % 256)) ∧
  (∀ (s : State) (d : Fin 8) (a : Fin 4),
    (Matrix (.mzero (.m d)) s [.mark (.m d.val)] fun t => unitKept s t ∧ keepsA s t ∧ keepsPv s t ∧ keepsSp s t ∧ queuesKept s t ∧
      mAfter s t d.val 0 128 fun _ x => x = ⟨0, Pair.raw⟩) ∧
    (Matrix (.mzero (.a a)) s [.mark (.a a.val)] fun t => unitKept s t ∧ keepsM s t ∧ keepsPv s t ∧ keepsSp s t ∧ queuesKept s t ∧
      aAfter s t a.val 0 64 fun _ _ x => x = 0) ∧
    (Matrix (.mzero (.pv a)) s [.mark (.pv a.val)] fun t => unitKept s t ∧ keepsM s t ∧ keepsA s t ∧ keepsSp s t ∧ queuesKept s t ∧
      ∀ r k, k < 64 → (after s t).pvel r k = if r = a.val then 0 else s.here.pvel r k)) ∧
  (∀ (s : State) (cols inv : Bool) (d pv : Fin 4) (g : Fin 16), plain s [g] →
    let w := nWord false (reg s g)
    let p (k : Nat) : Nat := s.here.pvel pv.val k
    let ks := if inv then (List.range w.n).reverse else List.range w.n
    let σ : Nat → Nat := ks.foldl (fun f k i => f (if i = k then p k else if i = p k then k else i)) id
    w.clean = true → (∀ k < w.n, p k ≤ 63) → Matrix (.mperm cols inv d pv g) s [.mark (.a d.val)] fun t =>
      unitKept s t ∧ keepsM s t ∧ keepsPv s t ∧ keepsSp s t ∧ queuesKept s t ∧
      aAfter s t d.val 0 64 fun i j x => x = if cols then s.here.ael d.val i (σ j) else s.here.ael d.val (σ i) j) ∧
  (∀ (s : State) (d : Fin 16),
    let loads (i : Instr) (x : BitVec 128) : Prop := ∃ t, exec i s = .next t ∧
      t.results = s.results ++ [⟨s.cycle + 2, s.cur, [.mark .fs], none⟩] ∧ t = { s with tiles := t.tiles, results := t.results } ∧
      (∀ k, k ≠ s.cur.tile → t.tile k = s.tile k) ∧ after s t = { s.here with fs := x, arrBusy := s.cycle + 2 }
    let reads (i : Instr) (x : Word) : Prop := ∃ t, exec i s = .next t ∧
      t.results = s.results ++ [⟨s.cycle + 2, s.cur, [toG s d x Pair.int64], none⟩] ∧
      t = { s with tiles := t.tiles, results := t.results } ∧
      (∀ k, k ≠ s.cur.tile → t.tile k = s.tile k) ∧ after s t = { s.here with arrBusy := s.cycle + 2 }
    reads (.mfst d) (s.here.fs.setWidth 64) ∧ reads (.mfstHi d) ((s.here.fs >>> 64).setWidth 64) ∧
    loads .mfstClr (s.here.fs.extractLsb' 64 64 ++ (0 : BitVec 64)) ∧
    (plain s [d] → loads (.mfstWhi d) (reg s d ++ s.here.fs.setWidth 64)) ∧
    (plain s [d] → (reg s d).toNat / 2 ^ 28 % 16 ≤ 6 → (reg s d).toNat % 2 = 0 →
      loads (.mfstW d) (s.here.fs.extractLsb' 64 64 ++ reg s d)))

namespace Sys2Proof.Spec
open Sys2Proof.Machine

/-- An element of a block under the pair that the block carries: Raw reads as FMT, and another format of FMT's width as
itself (R78, R323). -/
def blockElt (s : State) (f : Fmt) (x : VReg) (i : Nat) : Option (Bool × ℚ) :=
  match matPair f x.pair with
  | some (h, _) => finElt s h x i
  | none => none
/-- Element `e` of an m register, counted across its blocks. -/
def mElt (s : State) (f : Fmt) (r e : Nat) : Option (Bool × ℚ) := blockElt s f (s.here.mblk r (e / f.lanes)) (e % f.lanes)
/-- Element `j` of a scratchpad row of `len` bytes, of format FMT. -/
def spElt (s : State) (ds : Dsc) (f : Fmt) (sc : BitVec 8) (a len j : Nat) : Option (Bool × ℚ) :=
  finElt s f ⟨BitVec.ofNat 512 (rowBytes s.here ds a len / 2 ^ (f.bits * j) % 2 ^ f.bits), ⟨f.code8, sc⟩⟩ 0

/-- A dot product in groups along K: each group's products summed exactly and rounded, then added and rounded (R97).
Nothing is said once a value is no finite number. -/
def DotIs : List (List ((Bool × ℚ) × (Bool × ℚ))) → Nat → Nat → Prop
  | [], a, r => r = a
  | g :: gs, a, r =>
    let z : Bool := g.all fun p => p.1.2 * p.2.2 == 0 && xor p.1.1 p.2.1
    ∃ t, Rounded fFP32 .rn false 0 z ((g.map fun p => p.1.2 * p.2.2).sum) t ∧
      (finite fFP32 t → finite fFP32 a →
        ∃ a', Rounded fFP32 .rn false 0 (if neg fFP32 t = neg fFP32 a then neg fFP32 a else false)
            (number fFP32 a + number fFP32 t) a' ∧
          DotIs gs a' r)

/-- An accumulator element after a row of MMA, where every element read is a finite number. -/
def MmaElt (s : State) (za : Bool) (f : Fmt) (d i j : Nat) (a b : Nat → Option (Bool × ℚ)) (y : Nat) : Prop :=
  ∀ xs : List ((Bool × ℚ) × (Bool × ℚ)), xs.length = kdim f →
    (∀ k < kdim f, a k = (xs[k]?).map (·.1) ∧ b k = (xs[k]?).map (·.2)) →
    DotIs ((List.range (kdim f / 16)).map fun g => (xs.drop (16 * g)).take 16) (if za then 0 else s.here.ael d i j) y

/-- A B operand that passes its checks, and its elements B[k][j] (R323). -/
def bGood (s : State) (tr : Bool) (f : Fmt) (b : MSrc) (tile : Nat) (el : Nat → Nat → Option (Bool × ℚ)) : Prop :=
  match b with
  | .m r => (∀ k < 128, (matPair f (s.here.mblk r.val k).pair).isSome = true) ∧
      ∀ k j, el k j = mElt s f r.val (if tr then j * kdim f + k else k * 64 + j)
  | .sp p =>
    let ds := s.dsc p
    spGood s p (f.bits / 8) (if tr then rowSpans ds tile 0 64 128 else rowSpans ds tile 0 (kdim f) (8 * f.bits)) ∧
      ∀ k j, el k j = if tr then spElt s ds f 127 (ds.rowAddr tile j) 128 k else spElt s ds f 127 (ds.rowAddr tile k) (8 * f.bits) j
  | .queue _ => False

/-- The TILE_PITCH of a scratchpad operand. -/
def pitchOf (s : State) (x : MSrc) : List Nat := match x with | .sp p => [(s.dsc p).tilePitch] | _ => []

end Sys2Proof.Spec

/-- Groups in their cycles: what a group reads and writes when its cycle comes, that the groups of an operand hold all of its bytes,
and where an instruction's result goes once all have been read; and what MLD, MLDT, MMA and MMAT then make of the words that they have
read: the rows loaded, the elements transposed, and the accumulation row by row in the order of R97. -/
def Obligations.GroupsInTheirCycles : Prop :=
  (∀ (t : Tile) (now : Nat) (m : SpMove),
    let u := m.read t now
    u = { m with reads := u.reads, got := u.got } ∧ u.reads = m.reads.filter (fun g => now < g.1) ∧
    ∀ p, Sparse.get u.got 0 p = if ∃ g ∈ m.reads, g.1 ≤ now ∧ p ∈ g.2 then Sparse.get t.sp 0 p else Sparse.get m.got 0 p) ∧
  (∀ (t : Tile) (now : Nat),
    let u := t.writeGroups now
    let bs := t.moves.flatMap fun m => (m.writes.filter fun g => g.1 ≤ now).flatMap (·.2)
    let byte (x : Tile) (p : Nat) : Nat := (Sparse.get x.sp 0 (p / 4)).toNat / 2 ^ (8 * (p % 4)) % 256
    u = { t with sp := u.sp, moves := u.moves } ∧
    (∀ p, (∀ b ∈ bs, b.1 ≠ p) → byte u p = byte t p) ∧
    (∀ (k : Nat) (b : Nat × BitVec 8), bs[k]? = some b → (∀ (j : Nat) (c : Nat × BitVec 8), k < j → bs[j]? = some c → c.1 ≠ b.1) → byte u b.1 = b.2.toNat) ∧
    (∀ m ∈ t.moves, m.reads ≠ [] ∨ (∃ g ∈ m.writes, now < g.1) → { m with writes := m.writes.filter fun g => now < g.1 } ∈ u.moves)) ∧
  (∀ (ds : Dsc) (per fuel : Nat) (spans : List (Nat × Nat)), ds.rot / 8 % 2 = 0 ∨ rotOk ds.base ds.rowPitch ds.tilePitch ds.rot = true →
    0 < per → spans.length ≤ per * fuel → ∀ x ∈ spans, ∀ k < x.2, ∃ g ∈ spGroups ds per fuel spans,
      spPlace ds.rot (ds.row (x.1 + k)) ((x.1 + k) / 4) ∈ g) ∧
  (∀ (s : State) (m : SpMove) (i : Instr), m.instr = i → (∀ ty a d, i ≠ .sld ty a d) → (∀ a d, i ≠ .sldb a d) →
    (s.gathered m).cur = m.fire ∧ (s.gathered m).here.sp = m.got ∧ (s.gathered m).bk = m.bank ∧
    s.finishMove m = s.modTile m.fire.tile fun t => { t with m := ((s.gathered m).matTile i).m, a := ((s.gathered m).matTile i).a }) ∧
  (∀ (s : State) (m : SpMove) (ty : IntTy) (x : SpAddr) (d : Fin 16) (b : Nat) (v : GReg) (pre post : List Result), m.instr = .sld ty x d →
    s.results = pre ++ ⟨m.due, m.fire, [.g b d.val v], none⟩ :: post → (∀ r ∈ pre ++ post, r.fire ≠ m.fire ∨ r.due ≠ m.due) →
    ∃ w : Word, s.finishMove m = { s with results := pre ++ ⟨m.due, m.fire, [.g b d.val ⟨w, v.pair⟩], none⟩ :: post } ∧
      Wrapped ty w (m.bytes.foldr (fun p y => (Sparse.get m.got 0 (p / 4)).toNat / 2 ^ (8 * (p % 4)) % 256 + 256 * y) 0 : Nat)) ∧
  (∀ (s : State) (m : SpMove) (x : SpAddr) (d : Fin 16) (b : Nat) (v : VReg) (pre post : List Result), m.instr = .sldb x d →
    s.results = pre ++ ⟨m.due, m.fire, [.v b d.val v], none⟩ :: post → (∀ r ∈ pre ++ post, r.fire ≠ m.fire ∨ r.due ≠ m.due) →
    m.bytes.length = 64 → ∃ w : Blk, s.finishMove m = { s with results := pre ++ ⟨m.due, m.fire, [.v b d.val ⟨w, v.pair⟩], none⟩ :: post } ∧
      ∀ k p, m.bytes[k]? = some p → Blk.fld w (8 * k) 8 = (Sparse.get m.got 0 (p / 4)).toNat / 2 ^ (8 * (p % 4)) % 256) ∧
  (∀ (s : State) (f : Fmt) (d sp : Fin 8) (gx : Fin 16),
    let r := rowWord (reg s gx)
    let ds := s.dsc sp
    (rowGood r true true [ds.tilePitch] →
      let t := actedOn s (.mld f d sp gx)
      keepsA s t ∧ keepsPv s t ∧ keepsSp s t ∧ queuesKept s t ∧ (after s t).banks = s.here.banks ∧
      mAfter s t d.val (2 * r.drow) (2 * (r.drow + r.count)) fun b x => x.pair = f.pairAt r.scale ∧
        ∀ k < 64, let a := ds.rowAddr r.tile (r.srow + (b / 2 - r.drow)) + 64 * (b % 2) + k
          Blk.fld x.val (8 * k) 8 = s.here.spByte ds.rot (ds.row a) a) ∧
    (f ≠ .raw →
      let t := actedOn s (.mldt f d sp gx)
      keepsA s t ∧ keepsPv s t ∧ keepsSp s t ∧ queuesKept s t ∧ (after s t).banks = s.here.banks ∧
      mAfter s t d.val 0 128 fun b x => x.pair = f.pairAt r.scale ∧ ∀ e < f.lanes,
        let n := b * f.lanes + e
        lane f.bits x.val e = rowBytes s.here ds (ds.rowAddr r.tile (n % 64)) 128 / 2 ^ (f.bits * (n / 64)) % 2 ^ f.bits)) ∧
  (∀ (s : State) (fwd za tr : Bool) (f : Fmt) (d : Fin 4) (a b : MSrc) (gx : Fin 16) (el : Nat → Nat → Option (Bool × ℚ)), f ≠ .raw →
    let r := rowWord (reg s gx)
    let t := actedOn s (if tr then .mmat fwd za f d a b gx else .mma fwd za f d a b gx)
    let row (i k : Nat) : Option (Bool × ℚ) := match a with
      | .m m => mElt s f m.val ((r.srow + (i - r.drow)) * kdim f + k)
      | .sp p => spElt s (s.dsc p) f r.scale ((s.dsc p).rowAddr r.tile (r.srow + (i - r.drow))) 128 k
      | .queue _ => none
    bGood s tr f b r.tile el → (∀ q, a ≠ .queue q) → rowGood r true true [] →
    (∀ m k, a = .m m → k < 2 * r.count → (matPair f (s.here.mblk m.val (2 * r.srow + k)).pair).isSome = true) →
    keepsM s t ∧ keepsPv s t ∧ keepsSp s t ∧ queuesKept s t ∧ (after s t).banks = s.here.banks ∧
    aAfter s t d.val r.drow (r.drow + r.count) fun i j y => MmaElt s za f d.val i j (row i) (fun k => el k j) y)

/-- MMA and MMAT of registers accumulate row by row in the order of R97, and those of the scratchpad begin their groups; MACC adds; MDRAIN converts, places and routes; a matrix
instruction that is refused has only its token, in the order of the checks of R316. -/
def Obligations.MatrixProducts : Prop :=
  (∀ (s : State) (fwd za tr : Bool) (f : Fmt) (d : Fin 4) (b : MSrc) (gx : Fin 16) (el : Nat → Nat → Option (Bool × ℚ)),
    plain s [gx] → f ≠ .raw →
    let r := rowWord (reg s gx)
    let run (a : MSrc) : Instr := if tr then .mmat fwd za f d a b gx else .mma fwd za f d a b gx
    let bg := bGroups s b (bSpans s tr f b r.tile)
    bGood s tr f b r.tile el →
    (∀ m : Fin 8, rowGood r true true (pitchOf s b) →
      (∀ k < 2 * r.count, (matPair f (s.here.mblk m.val (2 * r.srow + k)).pair).isSome = true) →
      (∀ x, b = .m x → Matrix (run (.m m)) s [.chain d.val] fun t => unitKept s t ∧ keepsM s t ∧ keepsPv s t ∧ keepsSp s t ∧ queuesKept s t ∧
        aAfter s t d.val r.drow (r.drow + r.count) fun i j y => MmaElt s za f d.val i j
          (fun k => mElt s f m.val ((r.srow + (i - r.drow)) * kdim f + k)) (fun k => el k j) y) ∧
      (∀ p, b = .sp p → noneDue s → Matrix (run (.m m)) s [.chain d.val] fun t => ReadsIn s t (run (.m m))
        (rowCycles f * r.count + 7 + (groupCosts bg + 3) + readLag s) [.chain d.val] bg)) ∧
    (∀ p : Fin 8, rowGood r true true (pitchOf s (.sp p) ++ pitchOf s b) →
      spGood s p (f.bits / 8) (rowSpans (s.dsc p) r.tile r.srow r.count 128) → noneDue s →
      let ag := spGroups (s.dsc p) 1 65 (rowSpans (s.dsc p) r.tile r.srow r.count 128)
      Matrix (run (.sp p)) s [.chain d.val] fun t => ReadsIn s t (run (.sp p))
        (rowCycles f * r.count + 7 + 4 + (groupCosts ag - r.count) + (if bg = [] then 0 else groupCosts bg + 3) + readLag s)
        [.chain d.val] (bg ++ ag)) ∧
    (∀ (q m : Fin 8) (es : List Entry), b = .m m → r.clean = true → rowAt s q 2 es →
      let row := r.drow + Sparse.get s.me.rc 0 q.val
      let flit (k : Nat) : VReg := match es[k]? with | some e => ⟨e.data, ⟨e.hdr.fmt, e.hdr.scale⟩⟩ | none => ⟨0, Pair.raw⟩
      row < 64 → (∀ k < 2, (matPair f (flit k).pair).isSome = true) →
      Matrix (run (.queue q)) s [.chain d.val] fun t => rowTaken s t q es ∧ keepsM s t ∧ keepsPv s t ∧ keepsSp s t ∧
        (t.actor s.cur.actor).hold = s.me.hold ++ (if fwd then es.map fun e =>
          ⟨s.cur.trig.toNat / 2 ^ 4 % 8, ⟨e.data, ⟨e.hdr.fmt, e.hdr.scale⟩⟩⟩ else []) ∧
        aAfter s t d.val row (row + 1) fun i j y => MmaElt s za f d.val i j
          (fun k => if k / f.lanes < es.length then blockElt s f (flit (k / f.lanes)) (k % f.lanes) else some (false, 0))
          (fun k => el k j) y)) ∧
  (∀ (s : State) (f : Fmt) (rm : Rm) (sat : Bool) (d a : Fin 4) (q : Fin 8) (gx : Fin 16) (es : List Entry),
    let sum (x : Nat) (y : Option (Bool × ℚ)) (n r : Nat) : Prop := finite fFP32 x → ∀ v, y = some v →
      Rounded fFP32 rm sat (pickWord s n) (if neg fFP32 x = v.1 then v.1 else rm = .rd) (number fFP32 x + v.2) r
    (Matrix (.macc rm sat d a) s [.chain d.val] fun t => t.actors = (counted s rm 4096).actors ∧ keepsM s t ∧ keepsPv s t ∧
      keepsSp s t ∧ queuesKept s t ∧ aAfter s t d.val 0 64 fun i j y =>
        let v := s.here.ael a.val i j
        finite fFP32 v → sum (s.here.ael d.val i j) (some (neg fFP32 v, number fFP32 v)) (64 * i + j) y) ∧
    (plain s [gx] → f ∈ [Fmt.fp32, .bf16, .fp16] → rowAt s q (f.bits / 8) es →
      let r := rowWord (reg s gx)
      let row := r.drow + Sparse.get s.me.rc 0 q.val
      let flit (k : Nat) : VReg := match es[k]? with | some e => ⟨e.data, ⟨e.hdr.fmt, e.hdr.scale⟩⟩ | none => ⟨0, Pair.raw⟩
      r.clean = true → row < 64 → (∀ k < f.bits / 8, (flit k).pair.fmt = 0 ∨ (flit k).pair.fmt = f.code8) →
      Matrix (.maccQueue f rm sat d q gx) s [.chain d.val] fun t => rowTaken s t q es ∧ keepsM s t ∧ keepsPv s t ∧ keepsSp s t ∧
        (t.actor s.cur.actor).k = ((counted s rm 64).actor s.cur.actor).k ∧
        aAfter s t d.val row (row + 1) fun i j y =>
          sum (s.here.ael d.val i j) (finElt s f (flit (j / f.lanes)) (j % f.lanes)) j y)) ∧
  (∀ (s : State) (f : Fmt) (rm : Rm) (sat : Bool) (oq : Fin 8) (a : Fin 4) (g gx : Fin 16) (q : Fin 8),
    plain s [gx] → f ∈ targets →
    let r := rowWord (reg s gx)
    let n := f.bits / 8
    let good (e : Nat) : Prop := e ≤ 15 ∧ ((s.here.cfg s.cur.cfg).route e).1 = true
    let places (i : Instr) (e : Nat) (P : State → Prop) : Prop := (good e ∨ s.me.item ≠ none) → Matrix i s [] fun t =>
      keepsM s t ∧ keepsA s t ∧ keepsPv s t ∧ keepsSp s t ∧ P t ∧
      (t.actor s.cur.actor).k = ((counted s rm (64 * r.count)).actor s.cur.actor).k ∧
      (∃ ys : List VReg, ys.length = r.count * n ∧ (t.actor s.cur.actor).hold = s.me.hold ++ ys.map (fun y => ⟨oq.val, y⟩) ∧
        ∀ x < r.count * n, Lanes f (f.pairAt r.scale) (fun l y => rowConverted s f r.scale rm sat a r.srow (x / n) (x % n * f.lanes + l) y)
          (ys.getD x ⟨0, Pair.raw⟩)) ∧
      (good e → (t.actor s.cur.actor).choice.routes = Sparse.set s.me.choice.routes oq.val e) ∧
      (¬ good e → (t.actor s.cur.actor).choice = s.me.choice)
    rowGood r true false [] → (f = .fp32 → r.scale = 127) →
    (plain s [g] → places (.mdrain f rm sat oq a (.reg g) gx) (reg s g).toNat fun t => queuesKept s t) ∧
    (∀ e, s.head q.val = some e → dataFlit e → places (.mdrain f rm sat oq a (.queue q) gx) (e.data.toNat % 16) fun t =>
      (after s t).queue q.val = (s.here.queue q.val).drop 1 ∧ ∀ k, k ≠ q.val → (after s t).queue k = s.here.queue k)) ∧
  (∀ (s : State) (f : Fmt) (rm : Rm) (sat : Bool) (d sp : Fin 8) (src : MstSrc) (gx : Fin 16),
    let r := rowWord (reg s gx)
    let refused (i : Instr) (t : Tok) : Prop := ∃ u, exec i s = .next u ∧ u = { s with results := s.results ++ [⟨s.cycle + 2, s.cur, [], some t⟩] }
    let regs : List GReg := [s.gn (2 * sp.val), s.gn (2 * sp.val + 1), s.g gx]
    let bad : Prop := r.clean = false ∨ r.count = 0 ∨ 64 < r.count ∨ (r.tile ≠ 0 ∧ (s.dsc sp).tilePitch = 0)
    (∀ x, regs.find? (fun x => x.isTok) = some x →
      refused (.mld f d sp gx) (passed s x) ∧ refused (.mldt f d sp gx) (passed s x) ∧ refused (.mst f rm sat sp src gx) (passed s x)) ∧
    (regs.find? (fun x => x.isTok) = none →
      (bad → ∀ i ∈ [Instr.mld f d sp gx, .mldt f d sp gx, .mst f rm sat sp src gx], refused i (s.tok .bounds 0x05 0)) ∧
      (¬ bad → 64 < r.srow + r.count ∨ 64 < r.drow + r.count →
        ∀ i ∈ [Instr.mld f d sp gx, .mst f rm sat sp src gx], refused i (s.tok .bounds 0x0C 0)) ∧
      (¬ bad → r.count ≠ 64 ∨ r.srow ≠ 0 ∨ r.drow ≠ 0 → refused (.mldt f d sp gx) (s.tok .bounds 0x0C 0)) ∧
      (¬ bad → r.srow + r.count ≤ 64 → r.drow + r.count ≤ 64 → ∀ c a,
        dscCheck s.window (s.dsc sp) (f.bits / 8) (rowSpans (s.dsc sp) r.tile r.srow r.count 128) = some (c, a) →
        refused (.mld f d sp gx) (s.tok .bounds c a)))) ∧
  (∀ (s : State) (cols inv : Bool) (d pv : Fin 4) (g : Fin 16), plain s [g] →
    let w := nWord false (reg s g)
    let refused (t : Tok) : Prop := exec (.mperm cols inv d pv g) s = issued s 2 [] (some t)
    (w.clean = false → refused (s.tok .bounds 0x05 0)) ∧
    (w.clean = true → (∃ k < w.n, 63 < s.here.pvel pv.val k) → refused (s.tok .bounds 0x0B 0))) ∧
  (∀ (s : State) (f : Fmt) (rm : Rm) (sat : Bool) (d : Fin 4) (q : Fin 8) (gx : Fin 16) (es : List Entry) (n : Nat) (i : Instr),
    (n, i) ∈ [(f.bits / 8, Instr.maccQueue f rm sat d q gx), (2, .mldQueue ⟨d.val, by omega⟩ q gx)] → plain s [gx] →
    (rowWord (reg s gx)).clean = true → rowAt s q n es → 64 ≤ (rowWord (reg s gx)).drow + Sparse.get s.me.rc 0 q.val →
    ∃ t, exec i s = .next t ∧ rowTaken s t q es ∧ keepsA s t ∧ keepsM s t ∧
      t.results = s.results ++ [⟨s.cycle + 2, s.cur, [], some (s.tok .bounds 0x0C 0)⟩]) ∧
  (∀ (s : State) (d q : Fin 8) (gx : Fin 16) (es : List Entry) (x : Entry), plain s [gx] → (rowWord (reg s gx)).clean = true →
    rowAt s q 2 es → (rowWord (reg s gx)).drow + Sparse.get s.me.rc 0 q.val < 64 →
    let refused (tk : Tok) : Prop := ∃ t, exec (.mldQueue d q gx) s = .next t ∧ rowTaken s t q es ∧ keepsA s t ∧ keepsM s t ∧
      t.results = s.results ++ [⟨s.cycle + 2, s.cur, [], some tk⟩]
    (es.find? (fun e => (⟨e.hdr.fmt, e.hdr.scale⟩ : Pair) = Pair.token) = some x → refused ⟨x.data.setWidth 256, false⟩) ∧
    ((∀ e ∈ es, (⟨e.hdr.fmt, e.hdr.scale⟩ : Pair) ≠ Pair.token) → es.find? (fun e => (Fmt.of e.hdr.fmt).isNone) = some x →
      refused (s.tok .formatReserved 0x01 x.hdr.fmt.toNat))) ∧
  (∀ (s : State) (fwd za : Bool) (f : Fmt) (rm : Rm) (sat : Bool) (d : Fin 4) (q : Fin 8) (b : MSrc) (gx : Fin 16) (x y : Entry)
      (n : Nat) (i : Instr),
    (n, i) ∈ [(f.bits / 8, Instr.maccQueue f rm sat d q gx), (2, .mldQueue ⟨d.val, by omega⟩ q gx), (2, .mma fwd za f d (.queue q) b gx),
      (2, .mmat fwd za f d (.queue q) b gx)] → plain s [gx] → (rowWord (reg s gx)).clean = true →
    s.head q.val = some x → x.bare = false → (rowEntries (s.here.queue q.val) n).find? (fun e => e.hdr.poi) = some y →
    ∃ t, exec i s = .next t ∧ rowTaken s t q (rowEntries (s.here.queue q.val) n) ∧ keepsA s t ∧ keepsM s t ∧ keepsPv s t ∧
      keepsSp s t ∧ t.results = s.results ∧
      ∀ it, s.me.item = some it → it.record = none → ∃ it', (t.actor s.cur.actor).item = some it' ∧ it'.record = some y.hdr.err)

-- FACTORISATIONS

namespace Sys2Proof.Spec
open Sys2Proof.Machine

/-- The registers of a factorisation: n word, growth register, and whether m is used; its OP (R327, R329). -/
def factorArgs : Instr → Option (Fin 16 × Option (Fin 16) × Bool × Nat)
  | .mluF _ _ n g => some (n, some g, false, 1)
  | .mluC _ _ n g => some (n, some g, false, 2)
  | .mchol _ n g => some (n, some g, false, 3)
  | .mqr _ _ n g => some (n, some g, false, 4)
  | .mtrsm _ _ _ _ _ _ n => some (n, none, true, 5)
  | .mqapp _ _ _ _ _ n => some (n, none, true, 6)
  | _ => none

/-- The cycles of the steps from K on (R339). -/
def stepCycles (i : Instr) (k n m : Nat) : Option Nat :=
  let sum (f : Nat → Nat) : Option Nat := some (((List.range n).filter (k ≤ ·)).map f).sum
  match i with
  | .mluC .. => sum fun k => 6 + (n - k - 1)
  | .mqr .. => sum fun k => 12 + 2 * (n - k - 1)
  | .mtrsm .. => sum fun _ => 4 + m
  | .mqapp .. => sum fun _ => 8 + m
  | _ => none

end Sys2Proof.Spec

/-- MLU, MCHOL, MQR, MTRSM and MQAPP start a run, fresh or resumed; their results are pending until it ends. -/
def Obligations.FactorIssue : Prop :=
  ∀ (s : State) (i : Instr) (nr : Fin 16) (gx : Option (Fin 16)) (useM : Bool) (op : Nat), factorArgs i = some (nr, gx, useM, op) →
    let x := (reg s nr).toNat
    let n := x % 128
    let m := if useM then x / 2 ^ 8 % 128 else 1
    let good : Prop := x < 2 ^ 15 ∧ x / 2 ^ 7 % 2 = 0 ∧ 1 ≤ n ∧ n ≤ 64 ∧ (if useM then 1 ≤ m ∧ m ≤ 64 else x / 2 ^ 8 % 128 = 0)
    let f := s.here.fs.toNat
    let valid : Prop := f / 2 ^ 27 % 2 = 1
    let same : Prop := f / 2 ^ 28 % 16 = op ∧ f / 2 ^ 7 % 64 + 1 = n ∧ f / 2 % 64 + 1 = m ∧ f / 2 ^ 13 % 128 ≤ n
    let refused (t : Tok) (x : GReg) : Prop := exec i s = issued s 2 (match gx with | some g => [.g s.cur.bank g.val x] | none => []) (some t)
    ((s.g nr).isTok = true → refused (passed s (s.g nr)) (s.g nr)) ∧
    (plain s [nr] → ¬ good → refused (s.tok .bounds 0x05 0) (s.tok .bounds 0x05 0).greg) ∧
    (plain s [nr] → good → valid → ¬ same → refused (s.tok .bounds 0x0D 0) (s.tok .bounds 0x0D 0).greg) ∧
    (plain s [nr] → good → (valid → same) → ∃ due ws, s.cycle + 4 ≤ due ∧
      exec i s = .next { (s.modTile s.cur.tile fun t => { t with arrBusy := due, run := some ⟨i, s.cur, n, m, s.cycle, due⟩ }) with
        results := s.results ++ [⟨due, s.cur, ws, none⟩] } ∧
      .mark .fs ∈ ws ∧ (∀ g, gx = some g → .mark (.g s.cur.bank g.val) ∈ ws) ∧
      (∀ c, valid → stepCycles i (f / 2 ^ 13 % 128) n m = some c → due = s.cycle + 4 + c) ∧
      (∀ c, ¬ valid → stepCycles i 0 n m = some c → due = s.cycle + 4 + c))

/-- One step of MLU and of MCHOL on finite numbers: the pivot, the exchange, the multipliers and the trailing update,
each rounded once; and what a step leaves alone. -/
def Obligations.FactorSteps : Prop :=
  ∀ (x : Fact) (c : Bool) (r pv n k : Nat), k < n → n ≤ 64 →
    let num (t : Tile) (i j : Nat) : ℚ := number fFP32 (t.ael r i j)
    let sg (t : Tile) (i j : Nat) : Bool := neg fFP32 (t.ael r i j)
    let rnd (z : Bool) (v : ℚ) (y : Nat) : Prop := Rounded fFP32 .rn false 0 z v y
    let t := x.t
    (∀ i < n, ∀ j < n, finite fFP32 (t.ael r i j)) →
    (let u := luStep c r pv n k x;
      ∃ p, k ≤ p ∧ p < n ∧ (∀ i, k ≤ i → i < n → |num t i k| ≤ |num t p k|) ∧ (∀ i, k ≤ i → i < p → |num t i k| < |num t p k|) ∧
        let w (i : Nat) : Nat := if i = k then p else if i = p then k else i
        let a (i j : Nat) : Nat := t.ael r (w i) j
        u.t.pvel pv k = p ∧ u.t.m = t.m ∧ u.t.sp = t.sp ∧ u.t.banks = t.banks ∧
        (∀ q j, j < 64 → (q ≠ pv ∨ j ≠ k) → u.t.pvel q j = t.pvel q j) ∧
        (∀ q i j, i < 64 → j < 64 → (q ≠ r ∨ n ≤ i ∨ n ≤ j ∨ i ≤ k ∨ j < k) → u.t.ael q i j = if q = r then a i j else t.ael q i j) ∧
        (finite fFP32 x.fs.tol → |num t p k| ≤ number fFP32 x.fs.tol →
          u.fs.zp = true ∧ u.fs.zk = (if x.fs.zp then x.fs.zk else k) ∧ u.fs.tol = x.fs.tol ∧ u.fs.runmax = x.fs.runmax ∧
          (c = false → u.fault = some (.zeroPivot, k) ∧ u.fs.valid = false ∧ u.fs.k = k ∧
            ∀ i j, i < 64 → j < 64 → u.t.ael r i j = a i j) ∧
          (c = true → u.fault = none ∧ u.fs.k = k + 1 ∧ (∀ i, k < i → i < n → u.t.ael r i k = 0) ∧
            ∀ i j, i < 64 → j < 64 → k < j → u.t.ael r i j = a i j)) ∧
        ((finite fFP32 x.fs.tol → number fFP32 x.fs.tol < |num t p k|) → num t p k ≠ 0 →
          u.fault = none ∧ u.fs.k = k + 1 ∧ u.fs.zp = x.fs.zp ∧
          ∀ i, k < i → i < n →
            rnd (xor (sg t (w i) k) (sg t p k)) (num t (w i) k / num t p k) (u.t.ael r i k) ∧
            ∀ j, k < j → j < n → finite fFP32 (u.t.ael r i k) →
              rnd (if (!xor (sg u.t i k) (sg u.t k j)) = sg t (w i) j then sg t (w i) j else false)
                (-(num u.t i k * num u.t k j) + num t (w i) j) (u.t.ael r i j))) ∧
    (let u := cholStep r n k x;
      u.t.m = t.m ∧ u.t.sp = t.sp ∧ u.t.banks = t.banks ∧ u.t.pv = t.pv ∧
      (∀ q i j, i < 64 → j < 64 → (q ≠ r ∨ n ≤ i ∨ i < j ∨ j < k) → u.t.ael q i j = t.ael q i j) ∧
      (num t k k ≤ 0 → u.fault = some (.notPd, k) ∧ u.t = t ∧ u.fs.zp = true ∧ u.fs.zk = k ∧ u.fs.valid = false ∧ u.fs.k = k) ∧
      (0 < num t k k → u.fault = none ∧ u.fs.k = k + 1 ∧
        (∃ e, 0 < e ∧ (gridMag fFP32 e) ^ 2 ≤ num t k k ∧ num t k k < (gridMag fFP32 (e + 1)) ^ 2 ∧
          u.t.ael r k k = if ((gridMag fFP32 e + gridMag fFP32 (e + 1)) / 2) ^ 2 < num t k k then e + 1 else e) ∧
        ∀ i, k < i → i < n → rnd (sg t i k) (num t i k / num u.t k k) (u.t.ael r i k) ∧
          ∀ j, k < j → j ≤ i → finite fFP32 (u.t.ael r i k) → finite fFP32 (u.t.ael r j k) →
            rnd (if (!xor (sg u.t i k) (sg u.t j k)) = sg t i j then sg t i j else false)
              (-(num u.t i k * num u.t j k) + num t i j) (u.t.ael r i j)))

/-- A run that is stopped after any step and resumed ends as one that was not stopped: every register, fs and the fault. -/
def Obligations.FactorResume : Prop :=
  ∀ (op : Instr) (n m limit : Nat) (t : Tile), 1 ≤ n → n ≤ 64 → 1 ≤ m → m ≤ 64 → opCode op ≠ 0 →
    let x := factRun op n m limit t
    let y := factRun op n m 100000 t
    let z := factRun op n m 100000 { x.t with fs := { x.fs with valid := true }.bits }
    x.fault = none → { z.t with fs := t.fs } = y.t ∧ z.fs = y.fs ∧ z.fault = y.fault

-- EVENTS: THE FABRIC

/-- A port sends the oldest flit that may leave, and of the oldest the lowest route tag; a flit that arrives enters its
queue, is held while its line waits for a stream, goes on, or is discarded, and a cancel token ends at its station; a request token adds to its queue's demand; parked items enter in their order. -/
def Obligations.FabricEvents : Prop :=
  (∀ (s : State) (tile : Nat) (p : Fin 4),
    let out := (s.tile tile).out
    let can (o : OutFlit) : Prop := o.port = p.val ∧ o.tag < 8 ∧ o.vis ≤ s.cycle ∧
      (∃ pre post, out = pre ++ o :: post ∧ ∀ x ∈ pre, x.port = p.val → x.tag ≠ o.tag) ∧
      ∀ n, neighbour tile p.val = some n → o.entry.hdr.can = true ∨ s.roomAt n (facing p.val) o.tag = true
    ((¬ ∃ o, can o) → exec (.flitSend tile p) s = .next s) ∧
    ((∃ o, can o) → ∃ o t, can o ∧ (∀ x, can x → o.vis < x.vis ∨ (o.vis = x.vis ∧ o.tag ≤ x.tag)) ∧
      exec (.flitSend tile p) s = .next t ∧ t.tile tile = { s.tile tile with out := out.erase o } ∧
      (∀ k, k ≠ tile → t.tile k = s.tile k) ∧ t.actors = s.actors ∧
      (∀ n, neighbour tile p.val = some n →
        t.flights = s.flights ++ [⟨s.nextFlight, n, facing p.val, o.tag, o.entry, o.actor, false⟩] ∧
        t.nextFlight = s.nextFlight + 1 ∧ t.timers = s.timers ++ [(s.cycle + 2, .flitArrival s.nextFlight)]) ∧
      (neighbour tile p.val = none → t.flights = s.flights ∧ t.timers = s.timers))) ∧
  (∀ (s : State) (id : Nat) (f : Flight), s.flights.find? (fun x => x.id == id) = some f →
    let x := s.tile f.tile
    let e := f.entry
    let held : Prop := ∃ q stn region, queueAt x f.port f.tag = some q ∧ x.hasStation = true ∧ x.feeder q = some (stn, region) ∧
      s.loading (48 * dieOf f.tile + region) = true
    (held → exec (.flitArrival id) s = .next { s with
      flights := s.flights.map fun (y : Flight) => if y.id = id then { y with held := true } else y
      timers := s.timers ++ [(s.cycle + 1, .flitArrival id)] }) ∧
    (¬ held → ∃ t, exec (.flitArrival id) s = .next t ∧ t.flights = s.flights.filter (fun x => x.id != id) ∧
      (queueAt x f.port f.tag = none → t.tiles = s.tiles ∧
        t.traps.length = s.traps.length + (if e.last then 1 else 0)) ∧
      (∀ q p g, queueAt x f.port f.tag = some q → x.hasStation = false → mapEntry x.oqmap q = some (p, g) →
        t.tile f.tile = { x with out := x.out ++ [⟨s.cycle, p, g, e, f.actor, q, true⟩] }) ∧
      (∀ q stn region, queueAt x f.port f.tag = some q → x.hasStation = true → x.feeder q = some (stn, region) →
        let a := s.actor (stationKey (48 * dieOf f.tile + region) stn)
        let come : Nat := (a.retained.filter fun r => r.1 == q && r.2.hdr.seq == e.hdr.seq).length +
          ((x.queue q).filter fun r => r.hdr.seq == e.hdr.seq).length
        let beyond (i : Item) : Prop := ∃ n, (q, n) ∈ i.limits ∧ n ≤ come
        (e.hdr.can = true → t.tiles = s.tiles ∧ t.actors = s.actors) ∧
        (∀ i, a.item = some i → i.desc.h.seq = e.hdr.seq → e.unseq = false → beyond i → (t.tile f.tile).queue q = x.queue q) ∧
        (e.hdr.can = false → (e.unseq = true ∨ ∃ i, a.item = some i ∧ i.desc.h.seq = e.hdr.seq ∧ i.drop = false ∧ ¬ beyond i) →
          (e.hdr.blen.toNat ≤ 64 → e.hdr.rows.toNat ≤ 256 → e.hdr.rsv = 0 → (t.tile f.tile).queue q = x.queue q ++ [e]) ∧
          (64 < e.hdr.blen.toNat ∨ 256 < e.hdr.rows.toNat ∨ e.hdr.rsv ≠ 0 → ∃ e', (t.tile f.tile).queue q = x.queue q ++ [e'] ∧
            e'.hdr.poi = true ∧ e'.data = e.data)))) ∧
    (∃ t, exec (.requestTokenArrival id) s = .next t ∧ t.flights.filter (fun x => x.id != s.nextFlight) =
        (s.flights.filter fun x => x.id != id).filter (fun x => x.id != s.nextFlight) ∧
      (∀ q, outAt x f.port f.tag = some q → x.hasStation = true →
        let n := min 65535 (Sparse.get x.demand 0 q + e.hdr.seq.toNat % 2 ^ 11)
        t.tile f.tile = { x with demand := Sparse.set x.demand q n }) ∧
      (∀ q p g n, outAt x f.port f.tag = some q → x.hasStation = false → mapEntry x.iqmap q = some (p, g) →
        neighbour f.tile p = some n → t.tiles = s.tiles ∧
        ⟨s.nextFlight, n, facing p, g, e, f.actor, f.held⟩ ∈ t.flights ∧
        t.timers = s.timers ++ [(s.cycle + 2, .requestTokenArrival s.nextFlight)]))) ∧
  (∀ (s : State) (die dest : Nat),
    let k := dest / 512
    let ps := (s.die die).parked.filter fun p => p.dest == dest
    let left (t : State) : Prop := (t.die die).parked = (s.die die).parked.filter fun p => p.dest != dest
    let stays (l : Line) : Prop := ∀ c x ch, s.ctx? l.ctx = some x → Sparse.find? x.chans c = some ch → ch.next = none
    ((s.line? k = none ∨ ∃ l, s.line? k = some l ∧ l.exited = true) →
      ∃ t, exec (.parkedDelivery die dest) s = .next t ∧ left t ∧ t.tiles = s.tiles ∧
        t.traps.length = s.traps.length + ps.length) ∧
    (∀ l, s.line? k = some l → l.exited = false →
      ((l.running = false ∨ l.resize ≠ none) → exec (.parkedDelivery die dest) s = .next s) ∧
      (l.running = true → l.resize = none → stays l → ∃ t, exec (.parkedDelivery die dest) s = .next t ∧ left t ∧ t.traps = s.traps ∧
        (k / 48 = die → ∀ tile, l.tileOf (dest / 8 % 64) = some tile →
          (t.tile tile).queue (dest % 8) = (s.tile tile).queue (dest % 8) ++ ps.flatMap fun p =>
            ((entriesOf p.desc 6).filter fun e => !e.hdr.can).map fun e => { e with unseq := true }))))

-- EVENTS: LINES

/-- Whether a splice is in flight, or its item stands at a station or in its bay (R185, notes/assumptions/66.md). -/
def Sys2Proof.Spec.splicing (s : State) (k : Nat) (l : Line) : Bool :=
  l.splice.isSome || (l.stns.any fun st => (s.actor (stationKey k st.1)).choice.splice.isSome) ||
    l.fifo.any fun r => (s.actor (bayKey r.bay)).choice.splice.isSome

/-- The governor at the end of a window (R182): the beat length that a window's overruns and slack give; `still` says that a
splice is in flight. -/
def Sys2Proof.Spec.governed (still : Bool) (l : Line) : Nat :=
  let f (i : Nat) : Nat := l.gov.toNat / 2 ^ (16 * i) % 2 ^ 16
  if l.beat.toNat / 2 ^ 40 % 2 = 1 ∨ f 3 = 0 ∨ still then l.b
  else if f 4 < l.winOver then min (l.b + f 3) (f 2)
  else if l.winOver = 0 ∧ (∀ x ∈ l.winSlack, f 5 ≤ x) then max (l.b - f 3) (f 1)
  else max (min l.b (f 2)) (f 1)

/-- What happens to a line between boundaries: the governor, the watchdog, sleeps, changes of configuration, debug stops,
the end of the line and of its graph, resizes, interval records and writes that wait. -/
def Obligations.LineEvents : Prop :=
  (∀ (s : State) (k : Nat) (l : Line), s.line? k = some l →
    (l.winBeats < l.gov.toNat % 2 ^ 16 → exec (.governorAdjustment k) s = .next s) ∧
    (l.gov.toNat % 2 ^ 16 ≤ l.winBeats → ∃ t l', exec (.governorAdjustment k) s = .next t ∧
      t = { s with lines := t.lines } ∧ t.line? k = some l' ∧ (∀ j, j ≠ k → t.line? j = s.line? j) ∧
      l'.winBeats = 0 ∧ l'.winOver = 0 ∧ l'.winSlack = [] ∧ l'.beatReq = [] ∧ l'.govReq = none ∧ l'.counter = l.counter ∧
      (l.beatReq = [] → l'.b = governed (splicing s k l) l ∧ l'.beat.toNat / 2 ^ 16 = l.beat.toNat / 2 ^ 16) ∧
      (∀ (r : List (Nat × Bool × Word)) (x : Nat × Word), l.beatReq = r ++ [(x.1, true, x.2)] → l.splice = none → l'.beat = x.2 ∧ l'.b = x.2.toNat % 2 ^ 16) ∧
      (∀ x : Nat × Word, l.beatReq = [(x.1, false, x.2)] → l.splice = none → l'.b = x.2.toNat % 2 ^ 16 ∧
        l'.beat.toNat = l.beat.toNat / 2 ^ 16 * 2 ^ 16 + x.2.toNat % 2 ^ 16) ∧
      (∀ (r : List (Nat × Bool × Word)) (x : Nat × Word), l.beatReq = r ++ [(x.1, true, x.2)] → l.splice ≠ none → l'.sucBeat = x.2 ∧ l'.b = l.b ∧
        l'.beat.toNat = x.2.toNat / 2 ^ 16 * 2 ^ 16 + l.beat.toNat % 2 ^ 16) ∧
      l'.gov = match l.govReq with | some (_, x) => x | none => l.gov) ∧
    (l.watchLimit = 0 ∨ l.watchCount < l.watchLimit → exec (.watchdogExpiry k) s = .next s) ∧
    (l.watchLimit ≠ 0 → l.watchLimit ≤ l.watchCount → ∃ (t : State) (l' : Line) (pre post : List Trap) (c : BitVec 8) (o : Origin), exec (.watchdogExpiry k) s = .next t ∧
      t.line? k = some l' ∧ l'.watchCount = 0 ∧
      t.traps = pre ++ ⟨l.ctx, launchKey l.die, record s.dev o .watchdog c 0, l.counter.setWidth 64, s.cycle⟩ :: post ∧
      ((∀ a ∈ s.accs, a.stage ≠ .sent) → c = 0x01 ∧ l'.frozen = true ∧ l'.frozenAt = s.cycle) ∧
      (c = 0x02 → l' = { l with watchCount := 0 } ∧ pre ++ post = s.traps)) ∧
    (l.stopReq = true ∧ s.lineEmpty k l = true → exec (.debugStop k) s =
      .next { s with lines := Sparse.set s.lines k { l with stopReq := false, stopped := true, frozenAt := s.cycle } }) ∧
    (¬ (l.stopReq = true ∧ s.lineEmpty k l = true) → exec (.debugStop k) s = .next s) ∧
    (l.exited = true ∨ (l.exiting = false ∧ l.tearing = false) ∨ (l.exitNow = false ∧ s.lineDrained k l = false) →
      exec (.lineExit k) s = .next s) ∧
    (l.exited = false → l.exiting = true ∨ l.tearing = true → l.exitNow = true ∨ s.lineDrained k l = true →
      ∃ t l', exec (.lineExit k) s = .next t ∧ t.line? k = some l' ∧ l'.exited = true ∧ l'.running = false ∧ l'.fifo = [] ∧
        l'.counter = l.counter) ∧
    (l.resize = none → l.resizing = false ∨ s.lineDrained k l = false → exec (.resizeWidths k) s = .next s) ∧
    (∀ w, l.resize = some w → s.lineIdle k l = false → exec (.resizeWidths k) s = .next s) ∧
    (l.resize = none → l.resizing = true → s.lineDrained k l = true → (∀ e ∈ s.experts k l, e.2.slotCtr = none) →
      ∃ t l', exec (.resizeWidths k) s = .next t ∧ t.line? k = some l' ∧ l'.resizing = false ∧ l'.resized = true ∧
        (∀ e < (s.experts k l).length, Sparse.get (t.die l.die).bins 0 (1024 * l.ctx + e) = 0) ∧
        t.tiles = s.tiles ∧ t.actors = s.actors)) ∧
  (∀ (s : State) (key c due : Nat), (s.actor key).switchTo = some (c, due) →
    (due ≤ s.cycle → exec (.configSwitchEnd key) s =
      .next { s with actors := Sparse.set s.actors key { s.actor key with active := c, switchTo := none } }) ∧
    (s.cycle < due → exec (.configSwitchEnd key) s = .next s)) ∧
  (∀ (s s1 : State) (tile c due : Nat) (l : Line) (r : Except Absent (List Nat)),
    let a := s.actor (bayKey tile)
    a.switchTo = some (c, due) → a.kind = .bay → s.line? a.line = some l →
    s.fetchStream l.die l.ctx l.code l.variant l.stream l.slen = (s1, r) →
    (s.cycle < due → exec (.bayConfigFetch tile) s = .next s) ∧
    (due ≤ s.cycle →
      let b := s1.actor (bayKey tile)
      (∀ cmds, r = .ok cmds → ∃ t k, exec (.bayConfigFetch tile) s = .next t ∧ k < 8 ∧
        (t.tile tile).cfg k = (s1.tile (s1.actor (stationKey b.line b.stn)).tile).cfg c ∧
        Sparse.find? (t.tile tile).copies k = some (b.line, b.stn, c) ∧ k ∉ (t.tile tile).fixed ∧
        t.actor (bayKey tile) = { b with active := k, switchTo := none } ∧ t.lines = s1.lines ∧ t.results = s1.results) ∧
      (∀ e i, r = .error e → ¬ (e.code = 3 ∧ e.cause = Cause.migrationTimeout) → b.kind ≠ .eval → b.item = some i →
        ∃ t j, exec (.bayConfigFetch tile) s = .next t ∧ (t.actor (bayKey tile)).switchTo = none ∧
          (t.actor (bayKey tile)).item = some j ∧ j.record.isSome = true))) ∧
  (∀ (s : State) (key : Nat) (x : BitVec 48) (b : Nat), (s.actor key).sleep = some (.beat x) → s.beatNow key = some b →
    let ahead := (x.toNat + 2 ^ 48 - b) % 2 ^ 48
    (1 ≤ ahead ∧ ahead ≤ 2 ^ 47 - 1 → exec (.waitbWake key) s = .next s) ∧
    (¬ (1 ≤ ahead ∧ ahead ≤ 2 ^ 47 - 1) → exec (.waitbWake key) s = .next (s.modActor key fun a => { a with sleep := none }))) ∧
  (∀ (s : State) (g : Nat) (x : Graph), Sparse.find? s.graphs g = some x →
    let done : Prop := ∀ k ∈ x.lines, ∀ l, s.line? k = some l → l.exited = true
    (x.ended = true ∨ ¬ done → exec (.graphEnd g) s = .next s) ∧
    (x.ended = false → done → ∃ t, exec (.graphEnd g) s = .next t ∧ (∀ k ∈ x.lines, t.line? k = none) ∧
      (∀ k, k ∉ x.lines → (t.line? k).isSome = (s.line? k).isSome) ∧
      ∀ y, Sparse.find? t.graphs g = some y → y.ended = true ∧ y.status = if x.status = 0 then 1 else x.status)) ∧
  (∀ (s : State) (tile : Nat),
    let x := s.tile tile
    let next : BitVec 16 := match List.find? (fun (l : Nat × Line) => l.2.region_.contains tile && !l.2.exited) s.lines with | some l => l.2.cver | none => 0
    ∃ t, exec (.intervalRecord tile) s = .next t ∧ t.tile tile = { x with counts := [], cver := next } ∧
      (∀ k, k ≠ tile → t.tile k = s.tile k) ∧ t.lines = s.lines ∧ t.traps = s.traps ∧
      (x.cver = 0 → t.mgmt = s.mgmt) ∧
      (x.cver ≠ 0 → t.mgmt.logProd = s.mgmt.logProd + 1 ∧ (s.isConf (x.ctx.getD 0) = false →
        let r := Sparse.get t.mgmt.log 0 (1 + s.mgmt.logProd.toNat % 1023)
        Blk.fld r 32 16 = x.cver.toNat ∧ ∀ c < 5, Blk.fld r (64 + 64 * c) 64 = x.classSum c % 2 ^ 64))) ∧
  (∀ (s : State) (tile : Nat), ∃ t, exec (.configWriteEffect tile) s = .next t ∧
    (∀ k, k ≠ tile → t.tile k = s.tile k) ∧ t.actors = s.actors ∧
    (t.tile tile).pend.filter (fun w => w.cfg < 8) = (s.tile tile).pend.filter (fun w => w.cfg < 8) ∧
    (∀ v made, (s.tile tile).pend = [⟨8, 25, v, made⟩] → ∀ q < 8, (t.tile tile).iqmap.toNat / 2 ^ (6 * q) % 64 =
      if q ∉ made ∧ (s.tile tile).queue q = [] then v.toNat / 2 ^ (6 * q) % 64 else (s.tile tile).iqmap.toNat / 2 ^ (6 * q) % 64) ∧
    (∀ v made, (s.tile tile).pend = [⟨8, 26, v, made⟩] → ∀ q < 8,
      let now : Prop := q ∉ made ∧ s.queueEmpty tile 26 q = true
      (now → (t.tile tile).oqmap.toNat / 2 ^ (6 * q) % 64 = v.toNat / 2 ^ (6 * q) % 64 ∧ Sparse.get (t.tile tile).demand 0 q = 0) ∧
      (¬ now → (t.tile tile).oqmap.toNat / 2 ^ (6 * q) % 64 = (s.tile tile).oqmap.toNat / 2 ^ (6 * q) % 64 ∧
        Sparse.get (t.tile tile).demand 0 q = Sparse.get (s.tile tile).demand 0 q))) ∧
  (∀ (x : Tile) (v : BitVec 512), x.pend = [⟨8, 24, v, []⟩] →
    x.nextPhase.phase = (x.phase + 1) % 16 ∧
    (x.phase % 16 = 15 → x.nextPhase.issue = v.setWidth 64 ∧ x.nextPhase.pend = []) ∧
    (x.phase % 16 ≠ 15 → x.nextPhase = { x with phase := (x.phase + 1) % 16 })) ∧
  (∀ (s : State) (k c : Nat) (va : Word) (n : Nat), (s.line? k = none ∨ n = 0 ∨ 2 ^ 24 < n) →
    ∃ o t pre post, exec (.streamLoad k c va n) s = .next t ∧ t.loading k = false ∧ s.traps = pre ++ post ∧
      t.traps = pre ++ ⟨c, launchKey (k / 48), record s.dev o .illegalConfig 0x01 1, 0, s.cycle⟩ :: post ∧
      t.agenda = s.agenda ++ [.event .trapRecordWrite] ∧ t.tiles = s.tiles ∧ t.lines = s.lines ∧ t.mem = s.mem ∧ t.results = s.results ∧
      ((s.flights.map (·.id)).Nodup → ∀ f ∈ s.flights, (f.held = false → f ∈ t.flights) ∧ (f.held = true → f.entry.hdr.req = false →
        (∃ q stn region, queueAt (s.tile f.tile) f.port f.tag = some q ∧ (s.tile f.tile).feeder q = some (stn, region) ∧
          48 * dieOf f.tile + region = k) →
        ∃ g ∈ t.flights, g.id = f.id ∧ g.tile = f.tile ∧ g.entry.hdr.poi = true ∧ g.entry.data = f.entry.data))) ∧
  (∀ (s s1 : State) (k c : Nat) (va : Word) (n : Nat) (l : Line) (a : Absent), s.line? k = some l → 1 ≤ n → n ≤ 2 ^ 24 →
    s.fetchStream l.die c l.code l.variant va n = (s1, .error a) →
    let migrates : Prop := a.code = 3 ∧ a.cause = Cause.migrationTimeout
    (¬ migrates → ∃ o t pre post, exec (.streamLoad k c va n) s = .next t ∧ t.loading k = false ∧ t.tiles = s1.tiles ∧
      t.lines = s1.lines ∧ s1.traps = pre ++ post ∧
      t.traps = pre ++ ⟨c, launchKey (k / 48), record s1.dev o .configAbsent a.cause (a.detail % 2 ^ 54 + a.code * 2 ^ 56), 0,
        s1.cycle⟩ :: post) ∧
    (migrates → s1.loading k = false → ∃ t, exec (.streamLoad k c va n) s = .next t ∧ t.loading k = true ∧ t.tiles = s1.tiles ∧
      t.lines = s1.lines ∧ t.traps = s1.traps ∧ t.flights = s1.flights ∧
      t.timers = s1.timers ++ [(s1.cycle + 4096, .streamLoad k c va n)])) ∧
  (∀ (s s1 : State) (k c : Nat) (va : Word) (n : Nat) (l : Line) (cmds : List Nat), s.line? k = some l → 1 ≤ n → n ≤ 2 ^ 24 →
    (s1 = s ∧ (∃ e, (s.die l.die).cfgCache.find? (fun e => (e.ctx == c && e.code == l.code.toNat && e.variant == l.variant &&
        e.va == va.toNat) && decide (n ≤ e.cmds.length)) = some e ∧ cmds = e.cmds.take n) ∨
      s1.line? k = some l ∧ s.fetchStream l.die c l.code l.variant va n = (s1, .ok cmds)) →
    ∀ ts, s1.checkStream l cmds = .ok ts → ∃ t l', exec (.streamLoad k c va n) s = .next t ∧ t.loading k = false ∧
      t.line? k = some l' ∧ l'.cver = (if l.cver + 1 = 0 then 1 else l.cver + 1) ∧ t.traps = s1.traps ∧ t.mem = s1.mem ∧
      t.flights = s1.flights ∧ t.results = s1.results ∧
      (∀ tile, (∀ x ∈ ts, l.tileAt x.x x.y ≠ tile) → ∃ m, t.tile tile = { s1.tile tile with copies := m }) ∧
      ∀ x, ts = [x] → x.idx < 24 →
        let tile := l.tileAt x.x x.y
        let u := { s1.tile tile with pend := (s1.tile tile).pend.filter fun y => !(y.cfg == x.cfg && y.idx == x.idx) }
        ∃ m f, t.tile tile = if s1.activeOn tile x.cfg then { u with pend := u.pend ++ [⟨x.cfg, x.idx, x.stored l.region, []⟩], copies := m }
          else { (u.write x.cfg x.idx (x.stored l.region)) with copies := m, fixed := f })

/-- A boundary of a line: when it is due, what holds it back, and what it always does (R167, R174, R362). -/
def Obligations.BoundaryFalls : Prop :=
  ∀ (s : State) (k : Nat) (l : Line), s.line? k = some l →
    let beats : Prop := l.running = true ∧ l.exited = false ∧ l.frozen = false ∧ l.stopped = false
    let due : Prop := beats ∧ l.deferred = false ∧ (if l.beats = 0 then l.last < s.cycle else l.last + l.b ≤ s.cycle)
    (¬ due → exec (.lineBoundary k) s = .next s) ∧
    (¬ (beats ∧ l.deferred = true) → exec (.deferredBoundary k) s = .next s) ∧
    ∀ i, (i = .lineBoundary k ∧ due) ∨ (i = .deferredBoundary k ∧ beats ∧ l.deferred = true) →
      (l.freezeNext = true → l.tearing = false → ∃ t l', exec i s = .next t ∧ t.line? k = some l' ∧
        l'.frozen = true ∧ l'.frozenAt = s.cycle ∧ l'.freezeNext = false ∧ l'.counter = l.counter ∧ l'.last = l.last) ∧
      (l.freezeNext = false ∨ l.tearing = true → l.exitNow = true →
        exec i s = .next { s with agenda := .event (.lineExit k) :: s.agenda }) ∧
      (l.freezeNext = false ∨ l.tearing = true → l.exitNow = false → (∀ r ∈ l.fifo, r.bay < 1024) → ∀ l1, (s.beforeFall k l).line? k = some l1 →
        let s1 := s.beforeFall k l
        let lags (n : Nat) : Prop := n ∉ s1.closedOf k l [] ∧ n < 64 ∧ (∃ st ∈ l.stns, st.1 = n) ∧
          ∃ j, (s1.actor (stationKey k n)).item = some j ∧ j.handed = false ∧ j.record = none
        let lok (n : Nat) : Prop := lags n ∧ (s1.actor (stationKey k n)).lokItem = true
        let free := (l.bay.filter fun t => (Sparse.find? s1.actors (bayKey t)).isNone).length
        ∀ loks ns : List Nat, (∀ n, n ∈ loks ↔ lok n) → ns.Nodup →
          (∀ n, n ∈ ns ↔ lags n ∧ (lok n ∨ n ∉ s1.closedOf k l loks)) →
          (l.tearing = false → free < ns.length → ∃ t l', exec i s = .next t ∧ t = { s1 with lines := t.lines } ∧
            t.line? k = some l' ∧ l' = { l1 with deferred := true, winOver := if l1.deferred then l1.winOver else l1.winOver + 1 }) ∧
          (l.tearing = true ∨ ns.length ≤ free → ∃ t l', exec i s = .next t ∧ t.line? k = some l' ∧
            l'.counter = (if l1.beats = 0 then l1.counter else l1.counter + 1) ∧ l'.beats = l1.beats + 1 ∧ l'.last = s1.cycle ∧
            l'.deferred = false))

-- EVENTS: LAUNCHES, CONTEXTS AND BUDGETS

/-- Launch records are taken in turn and refused with their cause; the ready queue's first entry is cancelled, refused or
placed; a pre-emption ends with its context saved; a teardown marks what it ends; boot measures in order. -/
def Obligations.LaunchEvents : Prop :=
  (∀ (s : State) (die : Nat), s.nextQueue die = none ∨ s.readyRoom die = false ∨ s.mgmt.booted = false →
    exec (.launchRecordTake die) s = .next s) ∧
  (∀ (s : State) (die q : Nat), s.nextQueue die = some q → s.readyRoom die = true → s.mgmt.booted = true →
    let lq := s.launchQ die q
    let pa := lq.base + 256 * (lq.cons.toNat % 2 ^ lq.log2n)
    let x := (s.readRecord pa).2
    let c := recCtx x
    let took (t : State) : Prop := t.launchQ die q = { lq with cons := lq.cons + 1 } ∧ (t.die die).turn = q
    (recordBad x none = true → (∀ y, s.ctx? c = some y → y.tearing = false) → ∃ t, exec (.launchRecordTake die) s = .next t ∧ took t ∧
      (t.die die).ready = (s.die die).ready ∧
      (∀ y, s.ctx? c = some y → ∃ pre post o a, t.traps = pre ++ ⟨c, launchKey die, record s.dev o .illegalConfig 0x0D 1, a, s.cycle⟩ :: post)) ∧
    (x % 2 ^ 8 = 2 → (∃ y, s.ctx? c = some y ∧ y.tearing = true) → ∃ t, exec (.launchRecordTake die) s = .next t ∧ took t ∧
      (t.die die).ready = (s.die die).ready ∧ ∃ pre post o a, t.traps = pre ++ ⟨c, launchKey die, record s.dev o .cancelled 0 0, a, s.cycle⟩ :: post) ∧
    (∀ s1 code, (s.readRecord pa).1.checkRecord die x none = (s1, .ok code) → (∀ y, s.ctx? c = some y → y.tearing = false) →
      ∃ t pre post, exec (.launchRecordTake die) s = .next t ∧ took t ∧ (s1.die die).ready = pre ++ post ∧
        (t.die die).ready = pre ++ ⟨x / 2 ^ 16 % 2 ^ 8, c, s.cycle, 32, x, none, false, false⟩ :: post ∧
        let older (y : Ready) : Prop := y.since < s.cycle ∨ (y.since = s.cycle ∧ y.source ≤ 32)
        (∀ y ∈ pre, older y) ∧ ∀ y ys, post = y :: ys → ¬ older y)) ∧
  (∀ (s : State) (die : Nat) (r : Ready), s.readyFirst die = some r →
    let s0 := (s.unhold die 1).dropReady die r
    let ended (s1 : State) : Prop := ∃ t pre post o a, exec (.dispatch die) s = .next t ∧ (t.die die).ready = (s1.die die).ready ∧
      t.traps = pre ++ ⟨r.ctx, launchKey die, record s1.dev o .cancelled 0 0, a, s1.cycle⟩ :: post ∧ s1.traps.length < t.traps.length
    (s0.die die).ready = (s.die die).ready.erase r ∧
    (r.cancelled = true → r.task = none → ended s0) ∧
    (r.cancelled = true → ∀ va s1 y, r.task = some va → s0.fetchBytes die r.ctx .load 2 (va.toNat + 72) 8 = (s1, y) →
      ((∀ a, y = .error a → a.waits = false) → ended s1) ∧
      (∀ a, y = .error a → a.waits = true → Sparse.find? (s.die die).held 1 = none → ∃ t, exec (.dispatch die) s = .next t ∧
        t = { s with dies := t.dies, timers := s.timers ++ [(s.cycle + 4096, .dispatch die)] } ∧ (t.die die).ready = (s.die die).ready)) ∧
    (r.cancelled = false → r.restore = true → (∀ v ∈ s.saved, v.ctx ≠ r.ctx) → ∃ t, exec (.dispatch die) s = .next t ∧
      (t.die die).ready = (s.die die).ready.erase r ∧ t.mgmt.pre0.toNat = s.mgmt.pre0.toNat % 2 ^ 63 ∧ t.lines = s.lines) ∧
    (r.cancelled = false → r.restore = false → r.task = none → ∀ s1 code,
      s.readCode die r.ctx (s.isConf r.ctx) false (BitVec.ofNat 64 (r.record / 2 ^ 128 % 2 ^ 64)) (r.record / 2 ^ 24 % 2 ^ 4) = (s1, .ok code) →
      let s2 := s1.unhold die 1
      ((s2.findPlaces die false code.lines).isNone = true → (s2.findPlaces die true code.lines).isSome = true →
        exec (.dispatch die) s = .next s2 ∧ (s2.die die).ready = (s1.die die).ready ∧ s2.lines = s1.lines) ∧
      (∀ sps, s2.findPlaces die false code.lines = some sps →
        let w := match code.wid with | some w => w | none => (widths (r.record / 2 ^ 32 % 2 ^ 42), r.record / 2 ^ 29 % 2 ^ 3)
        ∀ s3 ks, s2.loadLines die (recCtx r.record) code s2.nextGraph (r.record / 2 ^ 384 % 2 ^ 32) (r.record / 2 ^ 416 % 2 ^ 32) w.1 w.2
            (((List.range code.lines.length).zip (code.lines.zip sps)).map fun t => (t.1, t.2.1, t.2.2)) = (s3, .ok ks) →
          ∃ t, exec (.dispatch die) s = .next t ∧ t.nextGraph = s2.nextGraph + 1 ∧
            Sparse.find? t.graphs s2.nextGraph = some ⟨recCtx r.record, die, recComp r.record, ks, r.prio, false, 0, false⟩ ∧
            ∀ k ∈ ks, ∀ l, s3.line? k = some l → ∃ l', t.line? k = some l' ∧ l'.running = true ∧ s.cycle ≤ l'.last))) ∧
  (∀ (s : State) (c : Nat) (x : Ctx), s.ctx? c = some x →
    let mine (p : Line → Prop) : Prop := ∀ l ∈ s.lines, l.2.ctx = c → p l.2
    (x.status ≠ 2 → exec (.preemptDrainEnd c) s = .next s) ∧
    (x.status = 2 → (∃ l ∈ s.lines, l.2.ctx = c ∧ l.2.running = true) →
      (∀ l ∈ s.lines, l.2.ctx = c → l.2.running = true → s.drainOver l.1 l.2 = false) → exec (.preemptDrainEnd c) s = .next s) ∧
    (x.status = 2 → mine (fun l => l.running = false) → s.quiet c = false → exec (.preemptDrainEnd c) s =
      .next { s with timers := s.timers ++ [(s.cycle + 1, .preemptDrainEnd c)] }) ∧
    (x.status = 2 → mine (fun l => l.running = false) → s.quiet c = true → ∃ t v y, exec (.preemptDrainEnd c) s = .next t ∧
      t.saved = s.saved ++ [v] ∧ v.ctx = c ∧ v.area = s.mgmt.pre1.toNat ∧ v.size = s.saveSize c ∧ v.since = s.cycle ∧
      t.ctx? c = some y ∧ y.status = 3 ∧ (∀ k l, t.line? k = some l → l.ctx ≠ c) ∧ t.mgmt.pre0.toNat = s.mgmt.pre0.toNat % 2 ^ 63) ∧
    ∀ i ∈ [Instr.ctrlTeardown c, .managementTeardown c],
      (x.tearing = true → exec i s = .next s) ∧
      (x.tearing = false → ∃ t, exec i s = .next t ∧ (∀ y, t.ctx? c = some y → y.tearing = true ∧ y.status = 6) ∧
        ∀ k l, s.line? k = some l → l.ctx = c → ∃ l', t.line? k = some l' ∧ l'.tearing = true ∧
          (l.frozen = true ∨ l.stopped = true ∨ l.running = false → l'.exitNow = true))) ∧
  (∀ s : State, s.mgmt.bootStage = 0 →
    let good (k : Nat) : Prop := if k = 0 then Config.slhVerify Config.bootKey.toNat (Config.imageHash 0).toNat Config.bootSig = true ∧
      Config.shake256 64 Config.bootKey.toNat = Config.rootHash ∧ Config.fusedVersion.toNat ≤ (Config.securityVersion 0).toNat
      else Config.bootStage k = true
    ∃ t n, exec .boot s = .next t ∧ n ≤ 5 ∧ (∀ k < n, good k) ∧ (n < 5 → ¬ good n) ∧ t.mgmt.booted = (n == 5) ∧
    t.mgmt.bootStage = (if n = 5 then 0 else BitVec.ofNat 64 (n + 1)) ∧ t = { s with mgmt := t.mgmt } ∧
    ∀ k, Sparse.get t.mgmt.meas 0 k = if k < n then
      Config.shake256 128 ((Sparse.get s.mgmt.meas 0 k).toNat + (Config.imageHash k).toNat * 2 ^ 512) else Sparse.get s.mgmt.meas 0 k) ∧
  (∀ (s : State) (die : Nat), ∃ t, exec (.healthUpdate die) s = .next t ∧
    let y := (Sparse.get t.mgmt.peol 0xFFFF die).toNat
    y / 2 ^ 16 % 2 ^ 8 ≤ 100 ∧ 1 ≤ y / 2 ^ 24 % 2 ^ 8 ∧ y / 2 ^ 24 % 2 ^ 8 ≤ 3 ∧
    y / 2 ^ 32 = ((Sparse.get s.mgmt.peol 0xFFFF die).toNat / 2 ^ 32 + 1) % 2 ^ 32 ∧
    (∀ d, d ≠ die → Sparse.get t.mgmt.peol 0xFFFF d = Sparse.get s.mgmt.peol 0xFFFF d) ∧ t = { s with mgmt := t.mgmt, fresh := s.fresh + 1 })

/-- The regulator: a period starts the counts again; a freeze stops one activity with its record; a thaw lets it go on
where it stopped; nothing thaws while the module is too hot. -/
def Obligations.BudgetEvents : Prop :=
  (∀ (s : State) (die : Nat), ∃ t, exec (.regulatorPeriod die) s = .next t ∧ t = { s with lines := t.lines, ctxs := t.ctxs, mgmt := t.mgmt } ∧
    (∀ k, t.line? k = (s.line? k).map fun l => if l.die = die then { l with issued := 0, moved := 0 } else l) ∧
    (∀ c x, s.ctx? c = some x → ∃ y, t.ctx? c = some y ∧ Sparse.get y.evalIssued 0 die = 0 ∧ Sparse.get y.evalMoved 0 die = 0 ∧
      (∀ e < 16, Sparse.get y.copyMoved 0 (16 * die + e) = 0) ∧
      (∀ d, d ≠ die → Sparse.get y.evalIssued 0 d = Sparse.get x.evalIssued 0 d ∧ Sparse.get y.evalMoved 0 d = Sparse.get x.evalMoved 0 d) ∧
      y = { x with evalIssued := y.evalIssued, evalMoved := y.evalMoved, copyMoved := y.copyMoved }) ∧
    (die = 0 → t.mgmt = { s.mgmt with hostMoved := 0, linkMoved := [] }) ∧ (die ≠ 0 → t.mgmt = s.mgmt)) ∧
  (∀ (s : State) (die index : Nat),
    let rec_ (kind i budget : Nat) : BitVec 256 := record s.dev (launchOrigin die) .budget 0 (kind + i * 2 ^ 8 + budget * 2 ^ 32)
    let trapped (t : State) (c kind i : Nat) : Prop := ∃ b a pre post, s.traps = pre ++ post ∧
      t.traps = pre ++ ⟨c, launchKey die, rec_ kind i b, a, s.cycle⟩ :: post
    exec (.budgetFreeze die 0 index) s = .next s ∧
    (∀ l, s.line? (48 * die + index) = some l →
      (l.freezeNext = true ∨ l.frozen = true → exec (.budgetFreeze die 1 index) s = .next s) ∧
      (l.freezeNext = false → l.frozen = false → ∃ t, exec (.budgetFreeze die 1 index) s = .next t ∧ trapped t l.ctx 1 index ∧
        t = { s with lines := Sparse.set s.lines (48 * die + index) { l with freezeNext := true }, traps := t.traps, agenda := t.agenda })) ∧
    (∀ x, s.ctx? (index / 16) = some x → 16 * die + index % 16 ∉ x.frozenCopy → ∃ t, exec (.budgetFreeze die 2 index) s = .next t ∧
      trapped t (index / 16) 2 (index % 16) ∧ t.lines = s.lines ∧
      t.ctx? (index / 16) = some { x with frozenCopy := x.frozenCopy ++ [16 * die + index % 16] }) ∧
    (∀ x, s.ctx? index = some x → die ∉ x.frozenEval → ∃ t, exec (.budgetFreeze die 3 index) s = .next t ∧ trapped t index 3 0 ∧
      t.ctx? index = some { x with frozenEval := x.frozenEval ++ [die] } ∧
      ∀ r ∈ (s.die die).recs, r.ctx = index → ((∃ n, r.place = .slot n) ∨ r.place = .parked) →
        (s.cycle + 1, .evaluationAbandon die r.evid 0x01) ∈ t.timers) ∧
    (s.mgmt.hostFrozen = false → ∃ t, exec (.budgetFreeze die 4 index) s = .next t ∧ t.mgmt.hostFrozen = true ∧
      t.mgmt.logProd = s.mgmt.logProd + 1 ∧ Sparse.get t.mgmt.log 0 (1 + s.mgmt.logProd.toNat % 1023) =
        (rec_ 4 0 s.mgmt.hostBudget.toNat).setWidth 512 <<< 64) ∧
    (index ∉ s.mgmt.linkFrozen → ∃ t, exec (.budgetFreeze die 5 index) s = .next t ∧ t.mgmt.linkFrozen = s.mgmt.linkFrozen ++ [index] ∧
      t.mgmt.logProd = s.mgmt.logProd + 1 ∧ Sparse.get t.mgmt.log 0 (1 + s.mgmt.logProd.toNat % 1023) =
        (rec_ 5 index (Sparse.get s.mgmt.linkBudget 0 index).toNat).setWidth 512 <<< 64)) ∧
  (∀ (s : State) (c index : Nat) (die : Fin 4),
    let thawed (i : Instr) (kind : Nat) : Prop :=
      (kind = 1 → ∀ l, s.line? (48 * die.val + index) = some l → l.tearing = false → ∃ t, exec i s = .next t ∧
        t.line? (48 * die.val + index) = some { l with
          frozen := false, freezeNext := false, last := l.last + (if l.frozen then s.cycle - l.frozenAt else 0) } ∧
        (∀ k, k ≠ 48 * die.val + index → t.line? k = s.line? k) ∧ t = { s with lines := t.lines, actors := t.actors }) ∧
      (kind = 2 → ∀ x, s.ctx? c = some x → ∃ t, exec i s = .next t ∧
        t.ctx? c = some { x with frozenCopy := x.frozenCopy.filter (· ≠ 16 * die.val + index) }) ∧
      (kind = 3 → ∀ x, s.ctx? c = some x → ∃ t, exec i s = .next t ∧
        t.ctx? c = some { x with frozenEval := x.frozenEval.filter (· ≠ die.val) })
    (∀ kind, kind.toNat ≤ 3 → 1 ≤ kind.toNat → s.mgmt.hot = true → exec (.managementThaw kind index die c) s = .next s) ∧
    (∀ kind, s.mgmt.hot = true → exec (.ctrlThaw c kind index die) s = .next s) ∧
    (s.mgmt.hot = false → (∀ kind : BitVec 8, kind ≠ 0 → thawed (.managementThaw kind index die c) kind.toNat) ∧
      (∀ kind : BitVec 8, (kind = 1 → index < 48 ∧ ∃ l, s.line? (48 * die.val + index) = some l ∧ l.ctx = c) → (kind = 2 → index < 16) →
        (kind = 3 → index = 0) → thawed (.ctrlThaw c kind index die) kind.toNat) ∧
      (∀ l, s.line? (48 * die.val + index) = some l → l.ctx ≠ c → exec (.ctrlThaw c 1 index die) s = .next s) ∧
      exec (.managementThaw 4 index die c) s = .next { s with mgmt := { s.mgmt with hostFrozen := false } } ∧
      exec (.managementThaw 5 index die c) s = .next { s with mgmt := { s.mgmt with linkFrozen := s.mgmt.linkFrozen.filter (· != index) } }) ∧
    (∃ t, exec (.managementThaw 0 index die c) s = .next t ∧ t.mgmt.hot = false ∧ t.mgmt.hostFrozen = false ∧ t.mgmt.linkFrozen = [] ∧
      (∀ k l, s.line? k = some l → l.tearing = false → ∃ l', t.line? k = some l' ∧ l'.frozen = false ∧ l'.freezeNext = false) ∧
      ∀ d x, s.ctx? d = some x → t.ctx? d = some { x with frozenEval := [], frozenCopy := [] })) ∧
  (∀ (s : State) (die : Nat), ∃ t, exec (.thermalFreeze die) s = .next t ∧ t.mgmt.hot = true ∧ t.mgmt.hostFrozen = true ∧
    (∀ d < 36, d ∈ t.mgmt.linkFrozen) ∧ t.mgmt.logProd = s.mgmt.logProd + 1 ∧
    (∀ k, t.line? k = (s.line? k).map fun l => { l with freezeNext := !l.frozen }) ∧
    ∀ c x, s.ctx? c = some x → t.ctx? c = some { x with frozenEval := [0, 1, 2, 3], frozenCopy := List.range 64 })

-- EVENTS: TRANSLATION, CACHES, STORED BLOCKS AND LINKS

/-- An access that has been answered with an error token of a code, cause and detail (R37). -/
def Sys2Proof.Spec.refused (t : State) (a : Access) (id : Nat) (e : Err) (cause : BitVec 8) (detail : Nat) : Prop :=
  ∃ a', t.acc? id = some a' ∧ a'.stage = .answering ∧ a'.ans = failAns a.op ⟨record t.dev a.org e cause detail, true⟩

/-- An access whose walk has failed: its operation is refused, but a RING operation goes back to its object with the token that it
is to have, since its object's home decides what follows (R35, R280). -/
def Sys2Proof.Spec.walkFailed (t : State) (a : Access) (e : Err) (cause : BitVec 8) (level : Nat) : Prop :=
  let detail := if e = .uncorrectable then 0 else (a.look.getD a.va).toNat % 2 ^ 52 + level * 2 ^ 52
  let ring : Prop := a.look.isSome = true ∧ ((∃ c nb p x y w, a.op = .rpush c nb p x y w) ∨ ∃ c nb p x y w, a.op = .rpop c nb p x y w)
  (¬ ring → Spec.refused t a a.id e cause detail) ∧
  (ring → ∃ a', t.acc? a.id = some a' ∧ a'.stage = .sent ∧ a'.look = none ∧
    a'.ans = failAns a.op ⟨record t.dev a.org e cause detail, true⟩)

/-- A die TLB after a leaf has entered its set, which gives up the leaf used longest ago when its 8 ways are taken (R30,
notes/assumptions/92.md). -/
def Sys2Proof.Spec.tlbWith (l : Leaf) (tlb : List Leaf) : List Leaf :=
  let rest := tlb.filter (· != l)
  let set := rest.filter fun x => Config.tlbSet x.ctx x.page % 4096 == Config.tlbSet l.ctx l.page % 4096
  l :: match (if 8 ≤ set.length then set.getLast? else none) with
    | some v => rest.filter (· != v)
    | none => rest

/-- Answers reach their registers; a request that stays without an answer ends at its timeout; walks end in a leaf, a wait
or a token; write-backs merge dirty bytes where they belong; stored blocks are corrected, poisoned and scrubbed; frames and
ports follow the link layer; a context's invalidation drops what was translated for it. -/
def Obligations.MemoryEvents : Prop :=
  (∀ (s : State) (id : Nat),
    ((∀ a, s.acc? id = some a → a.stage ≠ .answering) → exec (.answerDelivery id) s = .next s) ∧
    (∀ a, s.acc? id = some a → a.stage = .answering → a.actor < 65536 →
      let moving : Prop := bayKey 0 ≤ a.actor ∧ a.actor < 32768 ∧ (s.actor a.actor).switchTo.isSome = true
      (a.discard = false → moving → exec (.answerDelivery id) s =
        .next { s with timers := s.timers ++ [(s.cycle + 1, .answerDelivery id)] }) ∧
      (a.discard = true ∨ ¬ moving → ∃ t, exec (.answerDelivery id) s = .next t ∧ t.acc? id = none ∧
        let x := s.tile a.tile
        let w := if a.discard then x else (answerWrites a.op a.fire.bank a.ans).foldl Wr.apply x
        (t.tile a.tile).banks = w.banks ∧ (t.tile a.tile).sp = x.sp ∧ (t.tile a.tile).m = x.m ∧ (t.tile a.tile).a = x.a))) ∧
  (∀ (s : State) (id : Nat),
    ((∀ a, s.acc? id = some a → a.stage ≠ .sent ∨ a.discard = true) → exec (.remoteTimeout id) s = .next s) ∧
    (∀ a, s.acc? id = some a → a.stage = .sent → a.discard = false →
      let far := devOf a.pa ≠ s.dev
      let limit := if far then s.mgmt.linkTimeout.toNat else s.mgmt.ringTimeout.toNat
      (s.cycle < a.sentAt + limit → exec (.remoteTimeout id) s =
        .next { s with timers := s.timers ++ [(a.sentAt + limit, .remoteTimeout id)] }) ∧
      (a.sentAt + limit ≤ s.cycle → ∃ t, exec (.remoteTimeout id) s = .next t ∧ t.mem = s.mem ∧
        Spec.refused t a id .remoteTimeout (if far then 0x02 else 0x01) 0))) ∧
  (∀ (s : State) (die : Nat),
    ((∀ m ∈ (s.die die).misses, m.walking = false) → exec (.translationWalk die) s = .next s) ∧
    (∀ m, (s.die die).misses.find? (·.walking) = some m →
      let p := s.walk die m.ctx (pageVa m.page)
      ∃ t, exec (.translationWalk die) s = .next t ∧
        (∀ l, p.2 = .leaf l → (t.die die).tlb = Spec.tlbWith l (s.die die).tlb) ∧
        (∀ e c d, p.2 = .fail e c d → ((s.die die).misses.flatMap (·.accs)).Nodup → ∀ id ∈ m.accs, ∀ a, s.acc? id = some a →
          Spec.walkFailed t a e c (d / 2 ^ 52)) ∧
        (∀ b, p.2 = .mig b → m.mig = none →
          (∃ m' ∈ (t.die die).misses, m'.ctx = m.ctx ∧ m'.page = m.page ∧ m'.mig = some s.cycle ∧ m'.walking = false) ∧
          (s.cycle + 4096, .migrationRewalk die) ∈ t.timers ∧ (s.cycle + 131072, .migrationTimeout die) ∈ t.timers))) ∧
  (∀ (s : State) (die : Nat) (m : Miss) (c : Nat), m.mig = some c → (s.cycle - c) % 4096 = 0 →
    ((s.die die).misses.filter fun x => match x.mig with | some c => (s.cycle - c) % 4096 == 0 | none => false) = [m] →
    let p := s.walk die m.ctx (pageVa m.page)
    ∃ t, exec (.migrationRewalk die) s = .next t ∧
      (∀ l, p.2 = .leaf l → (t.die die).tlb = Spec.tlbWith l (s.die die).tlb) ∧
      (∀ b, p.2 = .mig b → (s.cycle + 4096, .migrationRewalk die) ∈ t.timers ∧
        (∃ m' ∈ (t.die die).misses, m'.ctx = m.ctx ∧ m'.page = m.page ∧ m'.mig = some c))) ∧
  (∀ (s : State) (die : Nat), ∃ t, exec (.migrationTimeout die) s = .next t ∧ t.mem = s.mem ∧
    ∀ m ∈ (s.die die).misses, ∀ c, m.mig = some c → c + 131072 ≤ s.cycle → ∀ id ∈ m.accs, ∀ a, s.acc? id = some a →
      (a.look = none → Spec.refused t a id .translation 0x06 (a.va.toNat % 2 ^ 52))) ∧
  (∀ (s : State) (tile block : Nat),
    (Sparse.find? (s.tile tile).l1 block = none → exec (.dirtyWriteback tile block) s = .next s) ∧
    (∀ l, Sparse.find? (s.tile tile).l1 block = some l → (l.dirty = 0 ∧ l.pairDirty = false) →
      exec (.dirtyWriteback tile block) s = .next s) ∧
    (∀ l, Sparse.find? (s.tile tile).l1 block = some l → (l.dirty ≠ 0 ∨ l.pairDirty = true) →
      let ga := block % 2 ^ 56 * 64
      let pa := ga % 2 ^ 46
      let there : Prop := devOf ga = s.dev ∧ homeDie pa = dieOf tile
      ∃ t, exec (.dirtyWriteback tile block) s = .next t ∧
        Sparse.find? (t.tile tile).l1 block = some { l with dirty := 0, pairDirty := false } ∧
        (there → s.memWf → Spec.intact s pa → (s.side pa).tag = 0 →
          t.stored pa = mergeBytes (s.peek l.key pa).data l.data l.dirty ∧ (t.side pa).tag = 0 ∧
          (l.pairDirty = true → (t.side pa).fmt = l.pair.fmt ∧ (t.side pa).scale = l.pair.scale) ∧
          ∀ x, x / 64 ≠ pa / 64 → Memory.get t.mem x = Memory.get s.mem x) ∧
        (¬ there → (((s.die (dieOf tile)).rdc.filter fun x => Config.rdcSet x.1 % 65536 == Config.rdcSet block % 65536).length < 8 ∨
            (Sparse.find? (s.die (dieOf tile)).rdc block).isSome = true → t.mem = s.mem) ∧
          ∃ r, Sparse.find? (t.die (dieOf tile)).rdc block = some r ∧ r.dirty &&& l.dirty = l.dirty ∧
          (Sparse.find? (s.die (dieOf tile)).rdc block = none → r.data = mergeBytes 0 l.data l.dirty ∧ r.dirty = l.dirty)))) ∧
  (∀ (s : State) (die block : Nat),
    ((∀ l, Sparse.find? (s.die die).rdc block = some l → l.dirty = 0 ∧ l.pairDirty = false) →
      exec (.rdcWriteback die block) s = .next s) ∧
    (∀ l, Sparse.find? (s.die die).rdc block = some l → (l.dirty ≠ 0 ∨ l.pairDirty = true) →
      let ga := block % 2 ^ 56 * 64
      let pa := ga % 2 ^ 46
      ∃ t, exec (.rdcWriteback die block) s = .next t ∧
        Sparse.find? (t.die die).rdc block = some { l with dirty := 0, pairDirty := false } ∧
        (devOf ga = s.dev → s.memWf → Spec.intact s pa → (s.side pa).tag = 0 →
          t.stored pa = mergeBytes (s.peek l.key pa).data l.data l.dirty ∧
          ∀ x, x / 64 ≠ pa / 64 → Memory.get t.mem x = Memory.get s.mem x) ∧
        (devOf ga ≠ s.dev → t.mem = s.mem))) ∧
  (∀ (s : State) (owner block : Nat),
    (∃ t u, exec (.cacheLineEviction false owner block) s = .next t ∧ exec (.dirtyWriteback owner block) s = .next u ∧
      t = u.modTile owner fun x => { x with l1 := Sparse.del x.l1 block }) ∧
    (∃ t u, exec (.cacheLineEviction true owner block) s = .next t ∧ exec (.rdcWriteback owner block) s = .next u ∧
      t = u.modDie owner fun x => { x with rdc := Sparse.del x.rdc block })) ∧
  (∀ (s : State) (block byte : Nat) (v : BitVec 8),
    let at_ (u : State) (b : Nat) : BitVec 8 :=
      match (Sparse.get u.errs [] block).find? fun x => x.1 == b with | some x => x.2 | none => 0
    (72 ≤ byte → byte < 128 ∨ Sparse.find? s.l2 block = none → exec (.storedByteError block byte v) s = .next s) ∧
    (128 ≤ byte → ∀ l, Sparse.find? s.l2 block = some l → ∃ t, exec (.storedByteError block byte v) s = .next t ∧
      t = { s with l2 := t.l2, fresh := t.fresh } ∧ (∀ b, b ≠ block → Sparse.find? t.l2 b = Sparse.find? s.l2 b) ∧
      Sparse.find? t.l2 block = some { l with bad := l.bad || (v != 0 && Config.freeBool s.fresh) }) ∧
    (byte < 72 → ∃ t, exec (.storedByteError block byte v) s = .next t ∧ t.mem = s.mem ∧ t.sides = s.sides ∧
      (v ≠ 0 → (∀ e ∈ Sparse.get s.errs [] block, e.1 ≠ byte) → at_ t byte = v) ∧
      (∀ b, b ≠ byte → at_ t b = at_ s b) ∧ ∀ b, b ≠ block → Sparse.get t.errs [] b = Sparse.get s.errs [] b)) ∧
  (∀ (s : State) (block : Nat),
    let es := Sparse.get s.errs [] block
    ((Sparse.find? s.l2 block).isSome = true → exec (.backgroundCorrection block) s = .next s) ∧
    (Sparse.find? s.l2 block = none → ∃ t, exec (.backgroundCorrection block) s = .next t ∧
      (es.length ≤ 2 → (s.side (block * 64)).tag.toNat < 6 → t.mem = s.mem ∧ t.sides = s.sides ∧
        (es ≠ [] → Sparse.get t.errs [] block = [] ∧ (t.die (homeDie (block * 64))).trend = (s.die (homeDie (block * 64))).trend + 1)) ∧
      (2 < es.length ∧ Config.freeBool s.fresh = true ∨ es.length ≤ 2 ∧ 6 ≤ (s.side (block * 64)).tag.toNat → s.memWf →
        t.stored (block * 64) = 0 ∧ t.side (block * 64) = ⟨0x00, 127, 3⟩ ∧ Sparse.get t.errs [] block = [] ∧
        ∀ x, x / 64 ≠ block → Memory.get t.mem x = Memory.get s.mem x))) ∧
  (∀ (s : State) (frame key : Nat), ∃ t, exec (.frameScrub frame key) s = .next t ∧
    (∀ x, Memory.get t.mem x = if x / 2 ^ 16 = frame then 0 else Memory.get s.mem x) ∧
    (∀ x, t.side x = if x / 2 ^ 16 = frame then Side.plain else s.side x) ∧
    (∀ b, b / 1024 = frame → Sparse.get t.errs [] b = [] ∧ Sparse.find? t.l2 b = none) ∧
    (∀ b, b / 1024 ≠ frame → Sparse.get t.errs [] b = Sparse.get s.errs [] b ∧ Sparse.find? t.l2 b = Sparse.find? s.l2 b) ∧
    t = { s with mem := t.mem, sides := t.sides, keyed := t.keyed, errs := t.errs, l2 := t.l2 }) ∧
  (∀ (s : State) (tile : Nat), ∃ t, exec (.scratchpadScrub tile) s = .next t ∧
    t.tile tile = { s.tile tile with sp := [] } ∧ (∀ k, k ≠ tile → t.tile k = s.tile k) ∧ t = { s with tiles := t.tiles }) ∧
  (∀ (s : State) (p : Nat) (seq ack : BitVec 12) (ok : Bool) (f : Blk),
    (18 ≤ p ∨ (s.port p).up = false ∨ ok = false ∨ seq ≠ (s.port p).recvSeq →
      exec (.linkFrameReceive p seq ack ok f) s = .next s) ∧
    (p < 18 → (s.port p).up = true → ok = true → seq = (s.port p).recvSeq →
      s.mgmt.linkFrozen.contains (2 * p + 1) = false → ∃ t, exec (.linkFrameReceive p seq ack ok f) s = .next t ∧
        let q := s.port p
        let left := q.replay.filter fun x => !(0 < (ack - x.1).toNat && (ack - x.1).toNat ≤ 1024)
        let n := min q.queue.length (1024 - left.length)
        (t.port p).recvSeq = q.recvSeq + 1 ∧ (t.port p).up = true ∧ (t.port p).queue = q.queue.drop n ∧
        (t.port p).replay = left ++ (q.queue.take n).mapIdx fun i x => (q.sendSeq + BitVec.ofNat 12 i, x))) ∧
  (∀ (s : State) (p : Nat),
    let down (t : State) : Prop := (t.port p).up = false ∧ (t.port p).replay = [] ∧ (t.port p).queue = [] ∧
      (∀ e ∈ t.mgmt.routes, e.2.toNat % 32 = p → e.2.getLsbD 15 = false) ∧
      (∀ a ∈ s.accs, (∀ b ∈ s.accs, b.id = a.id → b = a) → s.onPort p a = true → Spec.refused t a a.id .link 0x03 0) ∧ t.mem = s.mem
    ((18 ≤ p ∨ (s.port p).up = false ∨ (s.port p).replay = []) → exec (.linkResend p) s = .next s) ∧
    (p < 18 → (s.port p).up = true → (s.port p).replay ≠ [] → ∃ t, exec (.linkResend p) s = .next t ∧
      ((s.port p).fails < 7 → t.port p = { s.port p with fails := (s.port p).fails + 1 }) ∧
      (7 ≤ (s.port p).fails → down t)) ∧
    ((18 ≤ p ∨ (s.port p).up = false) → exec (.portDown p) s = .next s) ∧
    (p < 18 → (s.port p).up = true → ∃ t, exec (.portDown p) s = .next t ∧ down t) ∧
    ((18 ≤ p ∨ (s.port p).up = true) → exec (.linkRetrain p) s = .next s) ∧
    (p < 18 → (s.port p).up = false → ∃ t, exec (.linkRetrain p) s = .next t ∧ (t.port p).up = true)) ∧
  (∀ (s : State) (dev : Nat),
    let busy : Prop := ∃ a ∈ s.accs, a.stage = .sent ∧ devOf a.pa = dev ∧ a.pa ≠ noAddress ∧ dev ≠ s.dev
    (Sparse.find? s.mgmt.routePend dev = none ∨ busy → exec (.routeEntryEffect dev) s = .next s) ∧
    (∀ e, Sparse.find? s.mgmt.routePend dev = some e → ¬ busy → ∃ t, exec (.routeEntryEffect dev) s = .next t ∧
      Sparse.find? t.mgmt.routes dev = some e ∧ Sparse.find? t.mgmt.routePend dev = none ∧
      ∀ d, d ≠ dev → Sparse.find? t.mgmt.routes d = Sparse.find? s.mgmt.routes d)) ∧
  (∀ (s : State) (c : Nat), ∃ t, exec (.ctrlInvalidate c) s = .next t ∧ t.accs = s.accs ∧
    ((∀ k b l, Sparse.find? (s.tile k).l1 b = some l → l.ctx = c → l.isDirty = false) →
      (∀ d b l, Sparse.find? (s.die d).rdc b = some l → l.isDirty = false) → t.mem = s.mem) ∧
    ((∀ k, Sparse.ordered (s.tile k).l1 = true) → (∀ d, Sparse.ordered (s.die d).rdc = true) →
      (∀ k b l, Sparse.find? (t.tile k).l1 b = some l → l.ctx = c → l.isDirty = false) ∧
      ∀ d b l, Sparse.find? (t.die d).rdc b = some l → l.isDirty = false) ∧
    (∀ k, Sparse.find? s.tiles k ≠ none → (t.tile k).tlb = (s.tile k).tlb.filter fun l => l.ctx != c) ∧
    (∀ d, Sparse.find? s.dies d ≠ none → (t.die d).tlb = ((s.die d).tlb.filter fun l => l.ctx != c) ∧
      (t.die d).ptrs = ((s.die d).ptrs.filter fun l => l.ctx != c)))

-- EVENTS: ENGINES, EVALUATIONS, BARRIERS AND TRAP RINGS

/-- Streams load and end, jobs start, go through their phases and complete, a collective times out; evaluations start,
park and wake; a retired participant is withdrawn from its barrier; trap records are written to their rings, or lost. -/
def Obligations.EngineEvents : Prop :=
  (∀ (s : State) (die n : Nat), let key := engineKey die n
    (s.edgeStream die n = none ∨ (∃ t, s.edgeStream die n = some t ∧ t.state ≠ 0) ∨ s.engineBusy key = true →
      exec (.streamElement die n) s = .next s) ∧
    (∀ t, s.edgeStream die n = some t → t.state = 0 → s.engineBusy key = false →
      (s.stalls key = true → exec (.streamElement die n) s =
        .next { s with timers := s.timers ++ [(s.cycle + 1, .streamElement die n)] }) ∧
      (s.stalls key = false → t.stopReq = false → t.nitems ≤ t.item → ∃ u, exec (.streamElement die n) s = .next u ∧
        ∃ t', u.edgeStream die n = some t' ∧ t'.state = 1 ∧ t'.code = 0 ∧ t'.likely = [] ∧ t'.item = t.item) ∧
      (s.stalls key = false → t.stopReq = true → t.drain = false → t.likely = [] → ∃ u, exec (.streamElement die n) s = .next u ∧
        ∃ t', u.edgeStream die n = some t' ∧ t'.state = 3 ∧ t'.item = t.item) ∧
      (s.stalls key = false → t.stopReq = false → t.item < t.nitems → t.drain = false → t.likely = [] → 0 < t.fl → 0 < t.rows →
        t.row < t.rows → s.acc? s.nextAcc = none → ∀ l tile, s.line? t.line = some l → l.running = true → l.draining = none →
        l.tileOf t.stn = some tile → ∃ u a, exec (.streamElement die n) s = .next u ∧ u.acc? s.nextAcc = some a ∧
          a.actor = key ∧ a.ctx = t.ctx ∧ a.va = t.addr t.item t.row 0 ∧ u.nextAcc = s.nextAcc + 1))) ∧
  (∀ (s : State) (die n : Nat), let jobs := (s.copier die n).jobs
    let active (c : Nat) : Prop := ∃ y, s.ctx? c = some y ∧ y.status = 1
    (∀ j, s.runningJob die n = some j → exec (.jobStart die n) s = .next { s with agenda := .event (.jobElement die n) :: s.agenda }) ∧
    (s.runningJob die n = none → (∀ j ∈ jobs, j.status = 0 → s.copyRuns j.ctx die n = false ∨ ¬ active j.ctx) →
      exec (.jobStart die n) s = .next s) ∧
    (∀ pre j post, jobs = pre ++ j :: post → s.runningJob die n = none → j.status = 0 → j.die = die → j.engine = n →
      s.copyRuns j.ctx die n = true → active j.ctx → (∀ x ∈ pre ++ post, x.order ≠ j.order) →
      (∀ x ∈ pre, x.status = 0 → s.copyRuns x.ctx die n = false ∨ ¬ active x.ctx) →
      ∃ t, exec (.jobStart die n) s = .next t ∧ (t.copier die n).jobs = pre ++ { j with status := 1 } :: post ∧
        t.traps = s.traps ∧ t.mem = s.mem)) ∧
  (∀ (s : State) (die n : Nat),
    (s.runningJob die n = none ∨ s.engineBusy (engineKey die (32 + n)) = true → exec (.jobElement die n) s = .next s) ∧
    (∀ j, s.runningJob die n = some j → j.die = die → j.engine = n →
      (∀ x ∈ (s.copier die n).jobs, x.order = j.order → x = j) → s.engineBusy (engineKey die (32 + n)) = false →
      s.stalls (engineKey die (32 + n)) = false →
      let becomes (j' : Job) : Prop := ∃ t, exec (.jobElement die n) s = .next t ∧ t.runningJob die n = some j' ∧ t.mem = s.mem
      (j.phase = 0 → cObj j.card 1024 = none → becomes { j with phase := 1 }) ∧
      (j.phase = 1 → cKind j.card ≠ 4 → cElems j.card ≤ j.element → becomes { j with phase := 2 }) ∧
      (j.phase = 1 → cKind j.card = 1 → j.element < cElems j.card → s.copyRuns j.ctx die n = true → j.hold = none →
        let src := cardFld j.card 64 64
        (∀ tile off, src / 2 ^ 63 = 1 → tile = src / 2 ^ 20 % 2 ^ 10 → off = src % 2 ^ 20 + 64 * j.element →
          (s.spTarget j.ctx (tile, off) = none → becomes { j with hold := some ⟨s.spBlock (tile, off), Pair.raw⟩ }) ∧
          (∀ e c, s.spTarget j.ctx (tile, off) = some (e, c) →
            becomes { j with err := some (s.jobRecord j e c off), faultVa := 0, phase := 2, hold := none })) ∧
        (∀ va : Word, src / 2 ^ 63 = 0 → va = BitVec.ofNat 64 (src + 64 * j.element) → inRegions (cReads j.card) va = false →
          becomes { j with err := some (s.jobRecord j .bounds 0x06 (va.toNat % 2 ^ 52)), faultVa := va, phase := 2, hold := none })) ∧
      (j.phase = 1 → cKind j.card = 1 → j.element < cElems j.card → s.copyRuns j.ctx die n = true → ∀ x, j.hold = some x →
        let dst := cardFld j.card 128 64
        ∀ tile off, dst / 2 ^ 63 = 1 → tile = dst / 2 ^ 20 % 2 ^ 10 → off = dst % 2 ^ 20 + 64 * j.element →
          s.spTarget j.ctx (tile, off) = none → cElen j.card ≤ j.sub + 1 →
          ∃ t, exec (.jobElement die n) s = .next t ∧ t.tile tile = (s.setSpBlock (tile, off) x.val).tile tile ∧
            t.runningJob die n = some { j with sub := 0, idx := none, hold := none, element := j.element + 1 }) ∧
      (j.phase = 4 → cObj j.card 1088 = none → becomes { j with phase := 5 }) ∧
      (j.phase = 5 → cObj j.card 1152 = none → becomes { j with phase := 6 }) ∧
      (6 ≤ j.phase → exec (.jobElement die n) s = .next { s with agenda := .event (.jobCompletion die n) :: s.agenda }))) ∧
  (∀ (s : State) (die n : Nat),
    (s.runningJob die n = none → exec (.jobCompletion die n) s = .next s) ∧
    (∀ pre j post, (s.copier die n).jobs = pre ++ j :: post → s.runningJob die n = some j → j.die = die → j.engine = n →
      (∀ x ∈ pre ++ post, x.order ≠ j.order) →
      (j.phase < 6 → exec (.jobCompletion die n) s = .next s) ∧
      (6 ≤ j.phase → ∃ t, exec (.jobCompletion die n) s = .next t ∧ t.mem = s.mem ∧
        (t.copier die n).jobs = pre ++ { j with status := if j.err.isSome then 3 else 2 } :: post))) ∧
  (∀ (s : State) (coll : Word), ((∀ c ∈ s.ctxs, s.collLate c.1 coll.toNat = []) → exec (.collectiveTimeout coll) s = .next s) ∧
    (∀ c x j pre post, s.ctxs = [(c, x)] → s.collLate c coll.toNat = [j] → (s.copier j.die j.engine).jobs = pre ++ j :: post →
      (∀ x ∈ pre ++ post, x.order ≠ j.order) → ∃ t r p q, exec (.collectiveTimeout coll) s = .next t ∧
        r = s.jobRecord j .remoteTimeout 0x02 0 ∧ s.traps = p ++ q ∧
        t.traps = p ++ ⟨j.ctx, engineKey j.die (32 + j.engine), r, j.cardVa, s.cycle⟩ :: q ∧
        (t.copier j.die j.engine).jobs = pre ++ { j with err := some r, faultVa := 0, phase := 2, hold := none } :: post)) ∧
  (∀ (s : State) (die evid : Nat),
    let rs := (s.die die).recs.filter fun r => r.place == .ready && s.evalRuns die r
    (rs = [] ∨ s.freeSlot die = none →
      exec (.evaluationStart die evid) s = .next s ∧ exec (.waking die evid) s = .next s) ∧
    (∀ r n, s.nextEval die = some r → s.freeSlot die = some n → r.evid = evid → r.woken = false → s.evalHeld die evid = false →
      ∀ s0 x, s.loadEval die r.ctx (s.hEval r.head) = (s0, .ok x) →
        ∃ t, exec (.evaluationStart die evid) s = .next t ∧
          let k := t.tile (slotTile die n)
          let u := t.actor (evalKey die n)
          k.ctx = some r.ctx ∧ u.ctx = r.ctx ∧ u.kind = .eval ∧ u.tile = slotTile die n ∧ u.bank = n % 4 ∧ u.active = 8 * (n % 4) ∧
          (k.bank (n % 4)).g = (startBank s0 die r).g ∧ (k.bank (n % 4)).v = [] ∧
          ((s0.tile (slotTile die n)).ctx = some r.ctx →
            k = { s0.tile (slotTile die n) with banks := k.banks, cfgs := k.cfgs }) ∧
          ((s0.tile (slotTile die n)).ctx ≠ some r.ctx → k.m = [] ∧ k.a = [] ∧ k.pv = [] ∧ k.fs = 0 ∧ k.sp = []) ∧
          (∀ r' ∈ (t.die die).recs, r'.evid = evid → r'.place = .slot n)) ∧
    (∀ r n u, s.nextEval die = some r → s.freeSlot die = some n → r.evid = evid → r.woken = true → r.unit = some u →
      ∃ t, exec (.waking die evid) s = .next t ∧
        let k := t.tile (slotTile die n)
        k.ctx = some r.ctx ∧ k.bank (n % 4) = r.bank ∧ k.fs = r.factor ∧
        ((s.tile (slotTile die n)).ctx = some r.ctx → k.m = (s.tile (slotTile die n)).m ∧ k.a = (s.tile (slotTile die n)).a ∧
          k.pv = (s.tile (slotTile die n)).pv) ∧
        (t.actor (evalKey die n)).tile = slotTile die n ∧ (t.actor (evalKey die n)).bank = n % 4 ∧
        (∀ r' ∈ (t.die die).recs, r'.evid = evid → r'.place = .slot n ∧ r'.woken = false)) ∧
    ((s.die die).recs.find? (fun r => r.evid == evid) = none → exec (.parking die evid) s = .next s) ∧
    (∀ r r1, (s.die die).recs.find? (fun r => r.evid == evid) = some r →
      let s1 := s.walkCells die evid r.walks
      (s1.die die).recs.find? (fun r => r.evid == evid) = some r1 →
      ((∀ n, r1.place ≠ .slot n) ∨ r1.queued = none → exec (.parking die evid) s = .next s1) ∧
      (∀ n, r1.place = .slot n → n < 128 → r1.queued ≠ none →
        let key := evalKey die n
        let u := s1.actor key
        (s1.evalPending key u.tile = true → exec (.parking die evid) s =
          .next { s1 with timers := s1.timers ++ [(s1.cycle + 1, .parking die evid)] }) ∧
        (s1.evalPending key u.tile = false → ∃ t, exec (.parking die evid) s = .next t ∧
          Sparse.find? t.actors key = none ∧ t.mem = s1.mem ∧ t.tiles = s1.tiles ∧ (∀ a ∈ t.accs, a.actor ≠ key) ∧
          ∃ r', (t.die die).recs.find? (fun r => r.evid == evid) = some r' ∧ r'.place = .parked ∧
            r'.bank = (s1.tile u.tile).bank u.bank ∧ r'.unit = some u ∧ r'.factor = (s1.tile u.tile).fs)))) ∧
  (∀ (s : State) (pa i : Nat), s.memWf →
    let f (t : State) (pos w : Nat) : Nat := Blk.fld (t.stored pa) pos w
    let is : Prop := Spec.intact s pa ∧ (s.side pa).tag = 4 ∧ f s 0 8 = 4 ∧ i < f s 64 8 ∧ i < 128
    let arrived := f s 128 128
    let gone := Nat.lor (f s 256 128) (2 ^ i)
    (Spec.intact s pa → (s.side pa).tag.toNat < 6 → (s.side pa).tag ≠ 4 ∨ f s 0 8 ≠ 4 ∨ f s 64 8 ≤ i →
      ∃ t, exec (.barrierWithdrawal pa i) s = .next t ∧ t.mem = s.mem ∧ t.sides = s.sides ∧ t.accs = s.accs) ∧
    (is → ∃ t, exec (.barrierWithdrawal pa i) s = .next t ∧ (t.side pa).tag = 4 ∧
      (∀ x, x / 64 ≠ pa / 64 → Memory.get t.mem x = Memory.get s.mem x) ∧
      (arrived.testBit i = true → f t 384 128 = Nat.lor (f s 384 128) (2 ^ i) ∧ f t 256 128 = f s 256 128 ∧
        f t 128 128 = arrived ∧ f t 96 32 = f s 96 32) ∧
      (arrived.testBit i = false → (∀ k < f s 64 8, arrived.testBit k = true ∨ gone.testBit k = true) →
        f t 96 32 = (f s 96 32 + 1) % 2 ^ 32 ∧ f t 128 128 = 0 ∧ f t 256 128 = Nat.lor gone (f s 384 128) ∧ f t 384 128 = 0) ∧
      (arrived.testBit i = false → (∃ k < f s 64 8, arrived.testBit k = false ∧ gone.testBit k = false) →
        f t 96 32 = f s 96 32 ∧ f t 128 128 = arrived ∧ f t 256 128 = gone ∧ f t 384 128 = f s 384 128))) ∧
  (∀ s : State, (s.traps = [] → exec .trapRecordWrite s = .next s ∧ exec .ringStallTimeout s = .next s) ∧
    (∀ x r s1, s.traps = x :: r → s.writeTrap x = some s1 → exec .trapRecordWrite s = .next { s1 with traps := r }) ∧
    (∀ x, s.traps = [x] → s.writeTrap x = none → exec .trapRecordWrite s = .next s) ∧
    (∀ x y r s1, s.traps = x :: y :: r → s.writeTrap x = none → s.writeTrap y = some s1 → x.ctx ≠ y.ctx →
      exec .trapRecordWrite s = .next { s1 with traps := x :: r }) ∧
    ((∀ x ∈ s.traps, s.cycle < x.since + 65536) → exec .ringStallTimeout s = .next s) ∧
    (∀ x r, s.traps = x :: r → x.since + 65536 ≤ s.cycle → s.ringMigrates x.ctx = false ∨ x.since + 131072 ≤ s.cycle →
      ∃ t, exec .ringStallTimeout s = .next t ∧ t.traps = r ∧
      ∀ c s1 ctl l b, s.ctx? x.ctx = some c → s.ringCtl x.ctx c.ringBase = (s1, some (ctl, l, b)) → s1.memWf →
        let n := Blk.fld b.data 128 31
        Blk.fld (t.stored ctl) 128 31 = (if n = 2 ^ 31 - 1 then n else n + 1) ∧ Blk.fld (t.stored ctl) 159 1 = 1 ∧
        Blk.fld (t.stored ctl) 0 128 = Blk.fld b.data 0 128) ∧
    (∀ x, s.traps = [x] → s.cycle < x.since + 131072 → s.ringMigrates x.ctx = true → exec .ringStallTimeout s = .next s))

-- THE HOST WINDOW AND MANAGEMENT

/-- The host window: what an access that maps nothing does, what memory reads and writes do, and the management
registers that are read and written as they stand. -/
def Obligations.HostWindow : Prop :=
  (∀ (s : State) (off n : Nat) (data : Blk),
    let shape : Prop := 8 ≤ n ∧ n ≤ 64 ∧ off % 64 + n ≤ 64
    let memory : Prop := 2 ^ 46 ≤ off ∧ off < 2 ^ 47
    let pa := off - 2 ^ 46
    let ones (t : State) (n : Nat) : Prop :=
      t.mgmt.completion = BitVec.ofNat 512 ((2 ^ 512 - 1) % 2 ^ (8 * n)) ∧ t.mgmt.stray = s.mgmt.stray + 1
    let astray : Prop := ¬ shape ∨ (¬ memory ∧ 2 ^ 32 ≤ off) ∨ (memory ∧ unbacked pa = true)
    (astray → (∃ t, exec (.hostWindowRead off n) s = .next t ∧ ones t n ∧ t.mem = s.mem) ∧
      exec (.hostWindowWrite off n data) s = .next { s with mgmt := { s.mgmt with stray := s.mgmt.stray + 1 } }) ∧
    (shape → memory → unbacked pa = false → Spec.intact s pa → (s.side pa).tag.toNat < 6 →
      ∃ t, exec (.hostWindowRead off n) s = .next t ∧ t.mem = s.mem ∧ t.sides = s.sides ∧
        t.mgmt.completion = BitVec.ofNat 512 ((s.peek 0 pa).data.toNat / 2 ^ (8 * (pa % 64)) % 2 ^ (8 * n)) ∧
        t.mgmt.stray = s.mgmt.stray) ∧
    (shape → memory → unbacked pa = false →
      ((s.side pa).tag ≠ 0 ∧ (s.side pa).tag ≠ 3 → exec (.hostWindowWrite off n data) s =
        .next { s with mgmt := { s.mgmt with stray := s.mgmt.stray + 1 } }) ∧
      ((s.side pa).tag = 0 ∨ (s.side pa).tag = 3 → s.memWf → Spec.intact s pa →
        ∃ t, exec (.hostWindowWrite off n data) s = .next t ∧ t.mgmt.stray = s.mgmt.stray ∧
          (n = 64 → t.stored pa = data ∧ t.side pa = ⟨0x00, 127, 0⟩) ∧
          (n < 64 → t.side pa = s.side pa ∧
            t.stored pa = mergeBytes (s.peek 0 pa).data (data <<< (8 * (pa % 64))) (maskAt (pa % 64) n)) ∧
          ∀ x, x / 64 ≠ pa / 64 → Memory.get t.mem x = Memory.get s.mem x))) ∧
  (∀ (s : State) (off : Nat),
    exec (.strayWindowAccess off true) s = .next { s with mgmt := { s.mgmt with stray := s.mgmt.stray + 1 } } ∧
    ∃ t, exec (.strayWindowAccess off false) s = .next t ∧ t.mgmt.completion = BitVec.allOnes 512 ∧
      t.mgmt.stray = s.mgmt.stray + 1 ∧ t.mem = s.mem) ∧
  (∀ (s : State) (off : Nat) (v : Word),
    (∀ d : Blk, off < 2 ^ 32 → off % 64 + 8 ≤ 64 → exec (.hostWindowWrite off 8 d) s = exec (.registerWrite off (d.setWidth 64)) s) ∧
    (off % 8 ≠ 0 → exec (.registerWrite off v) s = .next { s with mgmt := { s.mgmt with stray := s.mgmt.stray + 1 } }) ∧
    (off < 0x30 → off % 8 = 0 → exec (.registerWrite off v) s = .next s) ∧
    (off = 0x100 → exec (.registerWrite off v) s = exec (.devnumWrite v) s) ∧
    (off = 0x3008 → s.mgmt.pre0.getLsbD 63 = true → exec (.registerWrite off v) s = .next s) ∧
    (off ∈ [0x2008, 0x2010, 0x3008, 0x3208, 0x3210, 0x3218] → (off = 0x3008 → s.mgmt.pre0.getLsbD 63 = false) → ∃ t, exec (.registerWrite off v) s = .next t ∧
      t.readReg off = some v ∧ t = { s with mgmt := t.mgmt } ∧
      ∀ o ∈ [0x100, 0x200, 0x208, 0x2008, 0x2010, 0x3008, 0x3208, 0x3210, 0x3218], o ≠ off → t.readReg o = s.readReg o) ∧
    (off = 0x200 ∨ off = 0x208 → (1 ≤ v.toNat ∧ v.toNat ≤ 2 ^ 40 → ∃ t, exec (.registerWrite off v) s = .next t ∧
        t.readReg off = some v ∧ t = { s with mgmt := t.mgmt, agenda := t.agenda }) ∧
      (v = 0 ∨ 2 ^ 40 < v.toNat → exec (.registerWrite off v) s = .next { s with mgmt := { s.mgmt with stray := s.mgmt.stray + 1 } })) ∧
    (∀ die < 4, off = 0x300 + 8 * die → (s.ctxs = [] → v.toNat ≤ 32 → ∃ t, exec (.registerWrite off v) s = .next t ∧
        (t.die die).poolSize = v.toNat ∧ t.readReg off = some v) ∧
      (s.ctxs ≠ [] ∨ 32 < v.toNat → exec (.registerWrite off v) s = .next { s with mgmt := { s.mgmt with stray := s.mgmt.stray + 1 } }))) ∧
  (∀ (s : State) (v : Word),
    (s.ctxs ≠ [] → exec (.devnumWrite v) s = .next { s with mgmt := { s.mgmt with stray := s.mgmt.stray + 1 } }) ∧
    (s.ctxs = [] → ∃ t, exec (.devnumWrite v) s = .next t ∧ t.readReg 0x100 = some (v &&& 0x3FFF) ∧ t.dev = v.toNat % 2 ^ 14 ∧
      t = { s with mgmt := { s.mgmt with devnum := t.mgmt.devnum, devnumSet := true } }))

/-- The management commands: launch queues, invalidation, pre-emption and restore, stops, the host's synchronisation,
the replica and route tables, keys, reports, measurement and signers. -/
def Obligations.ManagementCommands : Prop :=
  let stray (s : State) : State := { s with mgmt := { s.mgmt with stray := s.mgmt.stray + 1 } }
  (∀ (s : State) (die q : Nat) (w0 w1 : Word),
    let obj := w0.toNat % 2 ^ 46
    let log := w0.toNat / 2 ^ 48 % 32
    let word : Prop := w0.toNat / 2 ^ 53 % 2 ^ 10 = 0 ∧ w0.toNat / 2 ^ 46 % 4 = 0 ∧ log ≤ 16 ∧ homeDie obj = die ∧ obj % 64 = 0
    let base : Prop := w1.toNat < 2 ^ 46 ∧ w1.toNat % 256 = 0 ∧ homeDie w1.toNat = die ∧ homeDie (w1.toNat + 256 * 2 ^ log - 1) = die
    ((4 ≤ die ∨ 16 ≤ q) → exec (.launchQueueEnable die q w0 w1) s = .next (stray s) ∧
      exec (.launchQueueDisable die q w0) s = .next (stray s)) ∧
    (die < 4 → q < 16 → w0.getLsbD 63 = true → word → base → unbacked obj = false → s.mgmt.devnumSet = true → s.memWf →
      (s.launchQ die q).en = false → (s.side obj).tag = 0 → ∃ t, exec (.launchQueueEnable die q w0 w1) s = .next t ∧
        t.launchQ die q = ⟨true, 0, w1.toNat, log, obj⟩ ∧ (t.side obj).tag = 4 ∧ Blk.fld (t.stored obj) 0 8 = 2 ∧
        Blk.fld (t.stored obj) 64 64 = 0 ∧ ∀ x, x / 64 ≠ obj / 64 → Memory.get t.mem x = Memory.get s.mem x) ∧
    (die < 4 → q < 16 → w0.getLsbD 63 = true → (s.launchQ die q).en = false → ¬ word ∨ unbacked obj = true ∨
        ((s.side obj).tag ≠ 0 ∧ (s.side obj).tag ≠ 3) ∨ s.mgmt.devnumSet = false →
      ∃ t, exec (.launchQueueEnable die q w0 w1) s = .next t ∧ (t.launchQ die q).en = false ∧ t.mem = s.mem ∧
        s.mgmt.stray < t.mgmt.stray) ∧
    (die < 4 → q < 16 → w0.getLsbD 63 = false → (¬ word ∨ ((s.launchQ die q).en = true ∧ s.objWaiters (s.launchQ die q).obj ≠ []) →
        exec (.launchQueueDisable die q w0) s = .next (stray s)) ∧
      (word → (s.launchQ die q).en = true → s.objWaiters (s.launchQ die q).obj = [] → s.memWf →
        ∃ t, exec (.launchQueueDisable die q w0) s = .next t ∧ (t.launchQ die q).en = false ∧
          t.side (s.launchQ die q).obj = ⟨0x00, 127, 0⟩ ∧ t.stored (s.launchQ die q).obj = 0))) ∧
  (∀ (s : State) (w0 : Word) (i : Instr) (kind : Nat),
    (i = .invRange w0 ∧ kind = 1 ∨ i = .invContext w0 ∧ kind = 2 ∨ i = .invKeyId w0 ∧ kind = 3) →
    let c := w0.toNat / 2 ^ 8 % 2 ^ 8
    let k := w0.toNat / 2 ^ 16 % 2 ^ 10
    let ok : Prop := w0.toNat % 2 ^ 63 / 2 ^ 26 = 0 ∧ w0.toNat / 2 ^ 2 % 2 ^ 6 = 0 ∧ w0.toNat % 4 = kind ∧
      s.mgmt.inv1.toNat < 2 ^ 52 ∧ s.mgmt.inv1.toNat % 2 ^ 16 = 0 ∧ s.mgmt.inv2.toNat % 2 ^ 16 = 0 ∧
      2 ^ 16 ≤ s.mgmt.inv2.toNat ∧ s.mgmt.inv2.toNat ≤ 2 ^ 52
    (s.mgmt.inv0.getLsbD 63 = true ∨ ¬ ok → exec i s = .next (stray s)) ∧
    let its (l : CLine) : Prop := if kind = 3 then l.key = k else l.ctx = c
    (s.mgmt.inv0.getLsbD 63 = false → ok → ∃ t, exec i s = .next t ∧
      ((∀ j b l, Sparse.find? (s.tile j).l1 b = some l → its l → l.isDirty = false) →
        (∀ d b l, Sparse.find? (s.die d).rdc b = some l → l.isDirty = false) → t.mem = s.mem) ∧
      ((∀ j, Sparse.ordered (s.tile j).l1 = true) → (∀ d, Sparse.ordered (s.die d).rdc = true) →
        (∀ j b l, Sparse.find? (t.tile j).l1 b = some l → its l → l.isDirty = false) ∧
        ∀ d b l, Sparse.find? (t.die d).rdc b = some l → l.isDirty = false) ∧
      t.mgmt.inv0 = w0 ||| 0x8000000000000000 ∧
      (∀ tile, ∀ l ∈ (t.tile tile).tlb, l ∈ (s.tile tile).tlb ∧ ¬ (kind = 2 ∧ l.ctx = c) ∧ ¬ (kind = 3 ∧ l.key = k) ∧
        ¬ (kind = 1 ∧ l.ctx = c ∧ l.inRange s.mgmt.inv1.toNat s.mgmt.inv2.toNat = true)) ∧
      (∀ die, ∀ l ∈ (t.die die).tlb, l ∈ (s.die die).tlb ∧ ¬ (kind = 2 ∧ l.ctx = c) ∧ ¬ (kind = 3 ∧ l.key = k) ∧
        ¬ (kind = 1 ∧ l.ctx = c ∧ l.inRange s.mgmt.inv1.toNat s.mgmt.inv2.toNat = true)) ∧
      (∀ tile, ∀ l ∈ (s.tile tile).tlb, l.ctx ≠ c → kind ≠ 3 → l ∈ (t.tile tile).tlb))) ∧
  (∀ (s : State) (w0 : Word),
    let c := w0.toNat / 2 ^ 8 % 2 ^ 8
    let shape : Prop := w0.toNat / 4 % 2 ^ 6 = 0 ∧ w0.toNat / 2 ^ 32 % 2 ^ 31 = 0
    let area := s.mgmt.pre1.toNat
    (s.mgmt.pre0.getLsbD 63 = true → exec (.preCmdPreempt w0) s = .next s ∧ exec (.preCmdRestore w0) s = .next s) ∧
    (s.mgmt.pre0.getLsbD 63 = false →
      (∀ x, s.ctx? c = some x → x.status = 1 → shape → w0.toNat % 4 = 1 → area < 2 ^ 46 → area % 4096 = 0 →
        ∃ t y, exec (.preCmdPreempt w0) s = .next t ∧ t.ctx? c = some y ∧ y.status = 2 ∧ t.mgmt.pre0 = w0 ||| 0x8000000000000000 ∧
          (∀ k l, s.line? k = some l → t.line? k =
            some (if l.ctx = c then { l with draining := some (w0.toNat / 2 ^ 16 % 2 ^ 16) } else l)) ∧
          (∃ post, t.agenda = .event (.preemptDrainEnd c) :: (s.agenda ++ post) ∧ ∀ e ∈ post, e = .event .trapRecordWrite) ∧
          ∀ die, ∀ r ∈ (s.die die).recs, r.ctx = c → ∀ n, r.place = .slot n →
            ∀ f, (t.tile (slotTile die n)).run = some f → f.fire.actor ≠ evalKey die n) ∧
      ((∀ x, s.ctx? c = some x → x.status ≠ 1) ∨ ¬ shape ∨ w0.toNat % 4 ≠ 1 ∨ 2 ^ 46 ≤ area ∨ area % 4096 ≠ 0 →
        exec (.preCmdPreempt w0) s = .next (stray s)) ∧
      ((∀ v ∈ s.saved, v.ctx ≠ c ∨ v.area ≠ area) ∨ ¬ shape ∨ w0.toNat % 4 ≠ 2 → exec (.preCmdRestore w0) s = .next (stray s)) ∧
      ((∃ v ∈ s.saved, v.ctx = c ∧ v.area = area) → shape → w0.toNat % 4 = 2 → ∀ x, s.ctx? c = some x →
        ∃ t y, exec (.preCmdRestore w0) s = .next t ∧ t.ctx? c = some y ∧ y.status = 4 ∧
          t.mgmt.pre0 = w0 ||| 0x8000000000000000))) ∧
  (∀ (s : State) (v : Word),
    let r := v.toNat % 2 ^ 6
    let k := 48 * (v.toNat / 2 ^ 8 % 4) + r
    ((s.line? k = none ∨ 48 ≤ r) → exec (.stopRequest v) s = .next (stray s) ∧ exec (.stopResume v) s = .next (stray s)) ∧
    (∀ l, s.line? k = some l → r < 48 →
      (s.isConf l.ctx = true → exec (.stopRequest v) s = .next (stray s)) ∧
      (s.isConf l.ctx = false → ∃ t, exec (.stopRequest v) s = .next t ∧ t.line? k = some { l with stopReq := true } ∧
        t = { s with lines := t.lines }) ∧
      (∃ t l', exec (.stopResume v) s = .next t ∧ t.line? k = some l' ∧ l'.stopped = false ∧ l'.stopReq = false ∧
        l'.counter = l.counter ∧ t = { s with lines := t.lines }))) ∧
  (∀ (s : State) (c : BitVec 8) (op : Nat) (i o : Instr), (op, i, o) ∈
      [(1, Instr.hsyncRelSet c, Instr.relSet 5 0 0 noWave), (2, .hsyncRelAdd c, .relAdd 5 0 0 noWave),
        (3, .hsyncAcqEq c, .acqFlagWait .eq 5 0 0 0 noWave), (4, .hsyncAcqNe c, .acqFlagWait .ne 5 0 0 0 noWave),
        (5, .hsyncAcqGe c, .acqFlagWait .ge 5 0 0 0 noWave), (6, .hsyncAcqAny c, .acqFlagAny 5 0 0 0 noWave),
        (7, .hsyncLockWait c, .acqLockWait 5 0 0 0 noWave), (8, .hsyncLockTry c, .acqLockTry 5 0 0 0 noWave),
        (9, .hsyncLockRel c, .relLock 5 0 0 noWave)] →
    let pa := s.mgmt.hs1.toNat
    (s.mgmt.hs0.getLsbD 63 = true → exec i s = .next (stray s)) ∧
    (s.mgmt.hs0.getLsbD 63 = false →
      (2 ^ 46 ≤ pa ∨ pa % 64 ≠ 0 ∨ unbacked pa = true → ∃ t, exec i s = .next t ∧ t.mgmt.hs3 = BitVec.allOnes 64 ∧
        t.mgmt.hs0.getLsbD 63 = false ∧ t.mgmt.logProd = s.mgmt.logProd + 1 ∧ t.accs = s.accs ∧ t.mem = s.mem) ∧
      (pa < 2 ^ 46 → pa % 64 = 0 → unbacked pa = false → ∃ t a, exec i s = .next t ∧ t.accs = s.accs ++ [a] ∧ a.op = o ∧
        a.actor = hostKey ∧ a.ctx = c.toNat ∧ a.a = s.mgmt.hs2 ∧ a.pa = s.dev * 2 ^ 48 + pa ∧ a.stage = .sent ∧
        t.mgmt.hs0 = BitVec.ofNat 64 (op + c.toNat * 2 ^ 8 + 2 ^ 63) ∧ t.mem = s.mem))) ∧
  (∀ (s : State) (c ch : Nat) (v : BitVec 128),
    let w0 := v.toNat % 2 ^ 64
    let ok : Prop := ch < 64 ∧ s.ctx? c ≠ none ∧ w0 / 2 ^ 35 % 2 ^ 28 = 0 ∧ w0 / 2 ^ 14 % 4 = 0 ∧ w0 / 2 ^ 30 % 4 = 0 ∧ w0 / 2 ^ 18 % 64 < 48
    (¬ ok → ∃ t, exec (.replicaTableWrite c ch v) s = .next t ∧ t.ctxs = s.ctxs ∧ t.mgmt.stray = s.mgmt.stray + 1) ∧
    (ok → ∃ t y, exec (.replicaTableWrite c ch v) s = .next t ∧ t.ctx? c = some y ∧ t.mgmt.stray = s.mgmt.stray ∧
      ∀ x, s.ctx? c = some x → (Sparse.get y.chans ⟨none, none, false⟩ ch).cur = (Sparse.get x.chans ⟨none, none, false⟩ ch).next ∧
        (Sparse.get y.chans ⟨none, none, false⟩ ch).next = (if w0 / 2 ^ 63 = 0 then none else
          some ⟨w0 % 2 ^ 14, w0 / 2 ^ 16 % 4, w0 / 2 ^ 18 % 64, w0 / 2 ^ 24 % 64, w0 / 2 ^ 32 % 8, BitVec.ofNat 64 (v.toNat / 2 ^ 64)⟩) ∧
        ∀ j, j ≠ ch → Sparse.find? y.chans j = Sparse.find? x.chans j)) ∧
  (∀ (s : State) (word : Nat) (v : Word),
    let entry (k : Nat) : Nat := v.toNat / 2 ^ (16 * k) % 2 ^ 16
    let ok : Prop := word < 4096 ∧ ∀ k < 4, entry k / 32 % 2 ^ 10 = 0 ∧ entry k % 32 < 18
    (¬ ok → exec (.routeTableWrite word v) s = .next (stray s)) ∧
    (ok → ∃ t, exec (.routeTableWrite word v) s = .next t ∧ t.mgmt.routes = s.mgmt.routes ∧
      (∀ k < 4, Sparse.find? t.mgmt.routePend (4 * word + k) = some (BitVec.ofNat 16 (entry k)) ∧
        .event (.routeEntryEffect (4 * word + k)) ∈ t.agenda) ∧
      ∀ d, d / 4 ≠ word → Sparse.find? t.mgmt.routePend d = Sparse.find? s.mgmt.routePend d)) ∧
  (∀ (s : State) (c : BitVec 8) (ct : Nat) (nonce : BitVec 512),
    (s.ctx? c.toNat ≠ none → exec (.kemNew c) s = .next (stray s)) ∧
    (s.ctx? c.toNat = none → ∃ t, exec (.kemNew c) s = .next t ∧ Sparse.find? t.mgmt.kems c.toNat = some s.fresh ∧
      t.mgmt.message % 2 ^ 12544 = Config.kemPublic s.fresh % 2 ^ 12544 ∧ t.mem = s.mem) ∧
    (Sparse.find? s.mgmt.kems c.toNat = none ∨ s.freeKey = none ∨ s.ctx? c.toNat ≠ none → exec (.kemSet c ct) s = .next (stray s)) ∧
    (∀ d k, Sparse.find? s.mgmt.kems c.toNat = some d → s.freeKey = some k → s.ctx? c.toNat = none →
      ∃ t ss, exec (.kemSet c ct) s = .next t ∧ 1 ≤ k ∧ k ≤ 1023 ∧ ss = Config.kemSecret d (ct % 2 ^ 12544) % 2 ^ 256 ∧
        (c.toNat, k, ss + ct / 2 ^ 12544 % 2 ^ 512 * 2 ^ 256) ∈ t.mgmt.tenants ∧
        t.mgmt.message = k + 2 ^ 16 * deriveKey ss c.toNat labelConfirm 32) ∧
    (s.freeKey = none → exec (.keyNew c) s = .next (stray s)) ∧
    (∀ k, s.freeKey = some k → ∃ t, exec (.keyNew c) s = .next t ∧ Sparse.find? s.mgmt.keys k = none ∧
      Sparse.find? t.mgmt.keys k = some s.fresh ∧ t.mgmt.message = k) ∧
    (∃ t, exec (.attestationReport nonce c) s = .next t ∧ t.mgmt.message % 2 ^ 512 = nonce.toNat ∧
      (∀ k < 8, t.mgmt.message / 2 ^ (512 + 512 * k) % 2 ^ 512 = (Sparse.get s.mgmt.meas 0 k).toNat) ∧
      t.mgmt.message / 2 ^ 4608 % 2 ^ 16 = s.dev % 2 ^ 16 ∧ t.mgmt.message / 2 ^ 4752 % 2 ^ 8 = c.toNat ∧
      t = { s with mgmt := { s.mgmt with mailbox := t.mgmt.mailbox, message := t.mgmt.message } })) ∧
  (∀ (s : State) (k : Nat) (digest key : BitVec 512),
    (k < 5 ∨ 7 < k → exec (.measExtend k digest) s = .next (stray s)) ∧
    (5 ≤ k → k ≤ 7 → ∃ t, exec (.measExtend k digest) s = .next t ∧
      Sparse.get t.mgmt.meas 0 k = Config.shake256 128 ((Sparse.get s.mgmt.meas 0 k).toNat + digest.toNat * 2 ^ 512) ∧
      (∀ j, j ≠ k → Sparse.get t.mgmt.meas 0 j = Sparse.get s.mgmt.meas 0 j) ∧ t = { s with mgmt := t.mgmt }) ∧
    (∃ t, exec (.signerRegister key) s = .next t ∧ key ∈ t.mgmt.signers ∧ (∀ x ∈ s.mgmt.signers, x ∈ t.mgmt.signers) ∧
      (∀ x ∈ t.mgmt.signers, x = key ∨ x ∈ s.mgmt.signers) ∧ t = { s with mgmt := t.mgmt }))

-- ADDRESSES, RESET AND THE INVARIANT OF MEMORY

/-- R9: an access whose address has any of bits 63:52 set is not translated, whoever makes it: no table, TLB or block is
read or changed; it fails with E_TRANSLATION, cause NONCANONICAL. -/
def Obligations.NoncanonicalAddress : Prop :=
  (∀ (s : State) (a : Access), s.acc? a.id = some a → isMemory a.op = true → a.failed = false → 2 ^ 52 ≤ a.va.toNat →
    let t := s.startAcc a
    Spec.refused t a a.id .translation 0x01 (a.va.toNat % 2 ^ 52) ∧ t.tiles = s.tiles ∧ t.dies = s.dies ∧ t.mem = s.mem ∧
      t.sides = s.sides ∧ t.errs = s.errs) ∧
  (∀ (s : State) (die ctx : Nat) (va : Word) (p : Perm), 2 ^ 52 ≤ va.toNat →
    s.translate die ctx va p = (s, .fail .translation 0x01 (va.toNat % 2 ^ 52)) ∧
    s.walk die ctx va = (s, .fail .translation 0x01 (va.toNat % 2 ^ 52)))

/-- Reset: the registers whose reset value the spec gives read it; no context, line, item or access exists; the first step
boots. Memory's reset contents and the registers for which the spec gives no value are the model's choice
(notes/assumptions/1.md). -/
def Obligations.ResetState : Prop :=
  let s := State.reset
  s.cycle = 0 ∧ s.readReg 0x100 = some 0 ∧ s.readReg 0x200 = some 262144 ∧ s.readReg 0x208 = some 4194304 ∧
  (∀ off ∈ [0x2000, 0x2008, 0x2010, 0x3000, 0x3008, 0x3100, 0x3200, 0x3208, 0x3210, 0x3218], s.readReg off = some 0) ∧
  (∀ die < 4, ∀ q < 16, s.launchQ die q = ⟨false, 0, 0, 0, 0⟩) ∧ (∀ k, Sparse.get s.mgmt.meas 0 k = 0) ∧
  (∀ dev, Sparse.get s.mgmt.routes 0 dev = 0) ∧ (∀ i, s.budgetNo i = 0) ∧
  s.ctxs = [] ∧ s.lines = [] ∧ s.graphs = [] ∧ s.actors = [] ∧ s.accs = [] ∧ s.traps = [] ∧ s.saved = [] ∧
  (∀ tile, s.tile tile = Tile.reset ∧ (s.tile tile).sp = [] ∧ (s.tile tile).m = []) ∧ (∀ die, (s.die die).recs = [] ∧ (s.die die).tlb = []) ∧
  (∀ a, Memory.get s.mem a = 0) ∧ (∀ pa, s.side pa = ⟨0x00, 127, 0⟩) ∧
  ∃ t, step s = exec .boot t ∧ t = { s with agenda := [] }

/-- The memory is in canonical form at reset. -/
def Obligations.MemoryFormAtReset : Prop := State.reset.memWf

/-- Every step keeps the canonical form of memory, from every state that has it. -/
def Obligations.MemoryFormKept : Prop := ∀ s t : State, s.memWf → step s = .next t → t.memWf
end

