-- ==== Sys2Proof/Laws/Encode.lean ====
section
/-! SUPPORT. The fields of an operation word that the encoder builds, and the decoding of each coded field: what the
round trip of the encodings rests on. -/

namespace Sys2Proof

/-- Every part of a word that `opWord` builds from parts in their ranges. -/
structure Parts (w cls op var d s1 s2 low : Nat) : Prop where
  h_cls : fld w 61 3 = cls
  h_op : fld w 56 5 = op
  h_var : vari w = var
  h_var52 : fld w 52 1 = var % 2
  h_var53 : fld w 53 1 = var / 2 % 2
  h_var54 : fld w 54 1 = var / 4 % 2
  h_var55 : fld w 55 1 = var / 8
  h_scope : fld w 53 3 = var / 2
  h_low2 : fld w 52 2 = var % 4
  h_group : fld w 54 2 = var / 4
  h_d : dSp w = d
  h_s1 : s1Sp w = s1
  h_s2 : s2Sp w = s2
  h_s2lo : fld w 28 3 = s2 % 8
  h_s2hi : fld w 31 5 = s2 / 8
  h_lt : w < 2 ^ 64
  h_low : ∀ pos n, pos + n ≤ 28 → fld w pos n = fld low pos n

theorem fld_opWord_low (cls op var d s1 s2 low pos n : Nat) (h : pos + n ≤ 28) :
    fld (opWord cls op var d s1 s2 low) pos n = fld low pos n := by
  obtain ⟨k, hk⟩ : ∃ k, opWord cls op var d s1 s2 low = 2 ^ 28 * k + low :=
    ⟨(cls * 32 + op) * 2 ^ 28 + var * 2 ^ 24 + d * 2 ^ 16 + s1 * 2 ^ 8 + s2, by unfold opWord; ring⟩
  obtain ⟨m, hm⟩ : ∃ m, 28 = pos + n + m := ⟨28 - pos - n, by omega⟩
  simp only [fld, hk, hm, pow_add]
  rw [show 2 ^ pos * 2 ^ n * 2 ^ m * k + low = low + 2 ^ pos * (2 ^ n * (2 ^ m * k)) by ring,
    Nat.add_mul_div_left _ _ (by positivity), Nat.add_mul_mod_self_left]

theorem parts_opWord (cls op var d s1 s2 low : Nat) (h0 : cls < 8) (h1 : op < 32) (h2 : var < 16) (h3 : d < 256)
    (h4 : s1 < 256) (h5 : s2 < 256) (h6 : low < 2 ^ 28) :
    Parts (opWord cls op var d s1 s2 low) cls op var d s1 s2 low := by
  refine ⟨?_, ?_, ?_, ?_, ?_, ?_, ?_, ?_, ?_, ?_, ?_, ?_, ?_, ?_, ?_, ?_, fld_opWord_low _ _ _ _ _ _ _⟩ <;>
    (simp only [fld, opWord, vari, dSp, s1Sp, s2Sp]; omega)

@[simp] theorem gOf_val (r : Fin 16) : gOf r.val = .ok r := by revert r; decide
@[simp] theorem vOf_val (r : Fin 16) : vOf (vSp r) = .ok r := by revert r; decide
@[simp] theorem mOf_val (r : Fin 8) : mOf (mSp r) = .ok r := by revert r; decide
@[simp] theorem aOf_val (r : Fin 4) : aOf (aSp r) = .ok r := by revert r; decide
@[simp] theorem pvOf_val (r : Fin 4) : pvOf (pvSp r) = .ok r := by revert r; decide
@[simp] theorem iqOf_val (r : Fin 8) : iqOf (iqSp r) = .ok r := by revert r; decide
@[simp] theorem oqOf_val (r : Fin 8) : oqOf (oqSp r) = .ok r := by revert r; decide
@[simp] theorem cbOf_val (r : Fin 16) : cbOf (cbSp r) = .ok r := by revert r; decide
@[simp] theorem spOf_val (r : Fin 8) : spOf (spSp r) = .ok r := by revert r; decide
@[simp] theorem vgOf_val (g : Grp) (r : Fin 16) (h : g.aligned r = true) : vgOf g (vSp r) = .ok r := by
  simp [vgOf, h, req, bind, Except.bind, pure, Except.pure]
@[simp] theorem msrcOf_val (a : MSrc) : msrcOf a.sp' = .ok a := by
  rcases a with r | r | r <;> (revert r; decide)

theorem vSp_lt (r : Fin 16) : vSp r < 256 := by revert r; decide
theorem mSp_lt (r : Fin 8) : mSp r < 256 := by revert r; decide
theorem aSp_lt (r : Fin 4) : aSp r < 256 := by revert r; decide
theorem pvSp_lt (r : Fin 4) : pvSp r < 256 := by revert r; decide
theorem iqSp_lt (r : Fin 8) : iqSp r < 256 := by revert r; decide
theorem oqSp_lt (r : Fin 8) : oqSp r < 256 := by revert r; decide
theorem cbSp_lt (r : Fin 16) : cbSp r < 256 := by revert r; decide
theorem spSp_lt (r : Fin 8) : spSp r < 256 := by revert r; decide
theorem MSrc.sp_lt (a : MSrc) : a.sp' < 256 := by
  rcases a with r | r | r <;> (revert r; decide)

@[simp] theorem gval_cls (r : Fin 16) : r.val / 32 = 0 := by revert r; decide
@[simp] theorem vSp_cls (r : Fin 16) : vSp r / 32 = 1 := by revert r; decide
@[simp] theorem mSp_cls (r : Fin 8) : mSp r / 32 = 2 := by revert r; decide
@[simp] theorem aSp_cls (r : Fin 4) : aSp r / 32 = 3 := by revert r; decide
@[simp] theorem pvSp_cls (r : Fin 4) : pvSp r / 32 = 4 := by revert r; decide
@[simp] theorem iqSp_cls (r : Fin 8) : iqSp r / 32 = 5 := by revert r; decide
@[simp] theorem spSp_cls (r : Fin 8) : spSp r / 32 = 0 := by revert r; decide
@[simp] theorem vSp_ne (r : Fin 16) : (vSp r == 0) = false := by revert r; decide

theorem IntTy.code_lt (x : IntTy) : x.code < 8 := by cases x <;> decide
theorem Rm.code_lt (x : Rm) : x.code < 8 := by cases x <;> decide
theorem Cond.code_lt (x : Cond) : x.code < 8 := by cases x <;> decide
theorem Fmt.code_lt (x : Fmt) : x.code < 256 := by
  cases x with
  | cb n => revert n; decide
  | _ => decide
theorem Grp.code_lt (x : Grp) : x.code < 4 := by cases x <;> decide
theorem Pol.code_lt (x : Pol) : x.code < 4 := by cases x <;> decide
theorem Ord4.code_lt (x : Ord4) : x.code < 4 := by cases x <;> decide
theorem HField.code_lt (x : HField) : x.code < 16 := by cases x <;> decide
theorem RedOp.code_lt (x : RedOp) : x.code < 16 := by cases x <;> decide
theorem ScanOp.code_lt (x : ScanOp) : x.code < 16 := by cases x <;> decide
theorem WatchTr.code_lt (x : WatchTr) : x.code < 4 := by cases x <;> decide
theorem FcvtOp.code_lt (x : FcvtOp) : x.code < 16 := by
  cases x with
  | toInt t => cases t <;> decide
  | _ => decide

@[simp] theorem intTyOf_code (x : IntTy) : intTyOf x.code = some x := by cases x <;> rfl
@[simp] theorem rmOf_code (x : Rm) : rmOf x.code = some x := by cases x <;> rfl
@[simp] theorem condOf_code (x : Cond) : condOf x.code = some x := by cases x <;> rfl
@[simp] theorem intCondOf_code (x : Cond) (h : x.intOk = true) : intCondOf x.code = some x := by
  cases x <;> first | rfl | cases h
@[simp] theorem fmtOf_code (x : Fmt) : fmtOf x.code = some x := by
  cases x with
  | cb n => revert n; decide
  | _ => rfl
@[simp] theorem fmtIf_code (p : Fmt → Bool) (x : Fmt) (h : p x = true) : fmtIf p x.code = some x := by
  simp [fmtIf, h]
@[simp] theorem grpOf_code (x : Grp) : grpOf x.code = some x := by cases x <;> rfl
@[simp] theorem polOf_code (x : Pol) : polOf x.code = x := by cases x <;> rfl
@[simp] theorem ordOf_code (x : Ord4) : ordOf x.code = x := by cases x <;> rfl
@[simp] theorem scopeOf_val (x : Scope) : scopeOf x.val = some x := by revert x; decide
@[simp] theorem hfieldOf_code (x : HField) : hfieldOf x.code = some x := by cases x <;> rfl
@[simp] theorem redOf_code (x : RedOp) : redOf x.code = some x := by cases x <;> rfl
@[simp] theorem scanOf_code (x : ScanOp) : scanOf x.code = some x := by cases x <;> rfl
@[simp] theorem fcvtOf_code (x : FcvtOp) : fcvtOf x.code = some x := by
  cases x with
  | toInt t => cases t <;> rfl
  | _ => rfl
@[simp] theorem toNat_eq_one (b : Bool) : (b.toNat == 1) = b := by cases b <;> rfl
@[simp] theorem toNat_ne_zero (b : Bool) : (b.toNat == 0) = !b := by cases b <;> rfl
@[simp] theorem sgn64_eq_three (b : Bool) : (sgn64 b == 3) = b := by cases b <;> rfl
@[simp] theorem sgn64_eq_seven (b : Bool) : (sgn64 b == 7) = !b := by cases b <;> rfl
theorem sgn64_lt (b : Bool) : sgn64 b < 8 := by cases b <;> decide

@[simp] theorem offEnc_plain (b : BitVec 8) (n : Nat) : offEnc (.plain b) n = (b.toNat, 0) := rfl
@[simp] theorem offEnc_ordered (c : Scope) (n : Nat) : offEnc (.ordered c) n = (c.val, n) := rfl
@[simp] theorem fin_val_mod {n : Nat} (x : Fin n) (h : x.val % n < n) : (⟨x.val % n, h⟩ : Fin n) = x :=
  Fin.ext (Nat.mod_eq_of_lt x.isLt)
@[simp] theorem two_mul_add_toNat_div (x : Nat) (b : Bool) : (x * 2 + b.toNat) / 2 = x := by cases b <;> simp; omega
@[simp] theorem two_mul_add_toNat_mod (x : Nat) (b : Bool) : (x * 2 + b.toNat) % 2 = b.toNat := by cases b <;> simp
@[simp] theorem eight_mul_add_cond_mod (b : Bool) (c : Cond) : (b.toNat * 8 + c.code) % 8 = c.code := by
  cases b <;> cases c <;> rfl
@[simp] theorem eight_mul_add_cond_div (b : Bool) (c : Cond) : (b.toNat * 8 + c.code) / 8 = b.toNat := by
  cases b <;> cases c <;> rfl
@[simp] theorem toNat_mod_eq_one (b : Bool) : (b.toNat % 2 == 1) = b := by cases b <;> rfl
@[simp] theorem cond_mod (c : Cond) : c.code % 8 = c.code := by cases c <;> rfl
@[simp] theorem gOf_zero : gOf 0 = .ok 0 := by decide
@[simp] theorem fld_zero (w pos : Nat) : fld w pos 0 = 0 := by simp [fld, Nat.mod_one]
@[simp] theorem two_bits_lt (a b : Bool) : a.toNat * 2 + b.toNat < 4 := by cases a <;> cases b <;> decide
@[simp] theorem laneRm_special (f : Fmt) (rm : Rm) (h : f.special = true) : laneRm f rm = true := by
  cases f <;> simp_all [laneRm, Fmt.special, Fmt.isInt]
theorem mmaOk_false (fwd : Bool) (a b : MSrc) (h : mmaOk fwd a b = true) : mmaOk false a b = true := by
  cases a <;> cases b <;> simp_all [mmaOk]
theorem enc_bv_zero : (0 : BitVec 8).toNat = 0 := by decide
theorem enc_false : false.toNat = 0 := by decide
theorem enc_add_zero (n : Nat) : n + 0 = n := by omega
theorem enc_zero_add (n : Nat) : 0 + n = n := by omega
theorem enc_zero_mul (n : Nat) : 0 * n = 0 := by omega
theorem Rm.code_rn : Rm.rn.code = 0 := by decide
theorem Fmt.code_raw : Fmt.raw.code = 0 := by decide
theorem Grp.code_one : Grp.one.code = 0 := by decide
theorem lt_eight_of_scope (c : Scope) : c.val < 8 := by omega
@[simp] theorem scope_mod (c : Scope) : c.val % 8 = c.val := by omega
@[simp] theorem scope_div (c : Scope) : c.val / 8 = 0 := by omega

end Sys2Proof
end

