-- ==== Sys2Proof/Laws/State.lean ====
section
/-! SUPPORT. What each update of the state leaves as it is, field by field, so that no later proof unfolds a record
update. -/

namespace Sys2Proof.Machine

/-- Touching a line of the L2 changes the L2 and the errors of a line that it writes back, nothing else. -/
theorem State.l2Touch_eq (s : State) (p : Pol) (b : Nat) (w : Bool) :
    ∃ e l, s.l2Touch p b w = { s with errs := e, l2 := l } := by
  unfold State.l2Touch
  split
  · exact ⟨s.errs, _, rfl⟩
  · split
    · exact ⟨s.errs, s.l2, rfl⟩
    · dsimp only
      split
      · exact ⟨_, _, rfl⟩
      · exact ⟨s.errs, _, rfl⟩

@[simp] theorem State.setTile_cycle (s : State) (t : Nat) (x : Tile) : (s.setTile t x).cycle = s.cycle := rfl
@[simp] theorem State.setTile_fresh (s : State) (t : Nat) (x : Tile) : (s.setTile t x).fresh = s.fresh := rfl
@[simp] theorem State.setTile_agenda (s : State) (t : Nat) (x : Tile) : (s.setTile t x).agenda = s.agenda := rfl
@[simp] theorem State.setTile_timers (s : State) (t : Nat) (x : Tile) : (s.setTile t x).timers = s.timers := rfl
@[simp] theorem State.setTile_inputs (s : State) (t : Nat) (x : Tile) : (s.setTile t x).inputs = s.inputs := rfl
@[simp] theorem State.setTile_cur (s : State) (t : Nat) (x : Tile) : (s.setTile t x).cur = s.cur := rfl
@[simp] theorem State.setTile_mem (s : State) (t : Nat) (x : Tile) : (s.setTile t x).mem = s.mem := rfl
@[simp] theorem State.setTile_sides (s : State) (t : Nat) (x : Tile) : (s.setTile t x).sides = s.sides := rfl
@[simp] theorem State.setTile_keyed (s : State) (t : Nat) (x : Tile) : (s.setTile t x).keyed = s.keyed := rfl
@[simp] theorem State.setTile_errs (s : State) (t : Nat) (x : Tile) : (s.setTile t x).errs = s.errs := rfl
@[simp] theorem State.setTile_l2 (s : State) (t : Nat) (x : Tile) : (s.setTile t x).l2 = s.l2 := rfl
@[simp] theorem State.setTile_actors (s : State) (t : Nat) (x : Tile) : (s.setTile t x).actors = s.actors := rfl
@[simp] theorem State.setTile_results (s : State) (t : Nat) (x : Tile) : (s.setTile t x).results = s.results := rfl
@[simp] theorem State.setTile_accs (s : State) (t : Nat) (x : Tile) : (s.setTile t x).accs = s.accs := rfl
@[simp] theorem State.setTile_nextAcc (s : State) (t : Nat) (x : Tile) : (s.setTile t x).nextAcc = s.nextAcc := rfl
@[simp] theorem State.setTile_flights (s : State) (t : Nat) (x : Tile) : (s.setTile t x).flights = s.flights := rfl
@[simp] theorem State.setTile_nextFlight (s : State) (t : Nat) (x : Tile) : (s.setTile t x).nextFlight = s.nextFlight := rfl
@[simp] theorem State.setTile_dies (s : State) (t : Nat) (x : Tile) : (s.setTile t x).dies = s.dies := rfl
@[simp] theorem State.setTile_lines (s : State) (t : Nat) (x : Tile) : (s.setTile t x).lines = s.lines := rfl
@[simp] theorem State.setTile_graphs (s : State) (t : Nat) (x : Tile) : (s.setTile t x).graphs = s.graphs := rfl
@[simp] theorem State.setTile_nextGraph (s : State) (t : Nat) (x : Tile) : (s.setTile t x).nextGraph = s.nextGraph := rfl
@[simp] theorem State.setTile_metas (s : State) (t : Nat) (x : Tile) : (s.setTile t x).metas = s.metas := rfl
@[simp] theorem State.setTile_ctxs (s : State) (t : Nat) (x : Tile) : (s.setTile t x).ctxs = s.ctxs := rfl
@[simp] theorem State.setTile_traps (s : State) (t : Nat) (x : Tile) : (s.setTile t x).traps = s.traps := rfl
@[simp] theorem State.setTile_saved (s : State) (t : Nat) (x : Tile) : (s.setTile t x).saved = s.saved := rfl
@[simp] theorem State.setTile_mgmt (s : State) (t : Nat) (x : Tile) : (s.setTile t x).mgmt = s.mgmt := rfl

@[simp] theorem State.modTile_cycle (s : State) (t : Nat) (f : Tile → Tile) : (s.modTile t f).cycle = s.cycle := rfl
@[simp] theorem State.modTile_fresh (s : State) (t : Nat) (f : Tile → Tile) : (s.modTile t f).fresh = s.fresh := rfl
@[simp] theorem State.modTile_agenda (s : State) (t : Nat) (f : Tile → Tile) : (s.modTile t f).agenda = s.agenda := rfl
@[simp] theorem State.modTile_timers (s : State) (t : Nat) (f : Tile → Tile) : (s.modTile t f).timers = s.timers := rfl
@[simp] theorem State.modTile_inputs (s : State) (t : Nat) (f : Tile → Tile) : (s.modTile t f).inputs = s.inputs := rfl
@[simp] theorem State.modTile_cur (s : State) (t : Nat) (f : Tile → Tile) : (s.modTile t f).cur = s.cur := rfl
@[simp] theorem State.modTile_mem (s : State) (t : Nat) (f : Tile → Tile) : (s.modTile t f).mem = s.mem := rfl
@[simp] theorem State.modTile_sides (s : State) (t : Nat) (f : Tile → Tile) : (s.modTile t f).sides = s.sides := rfl
@[simp] theorem State.modTile_keyed (s : State) (t : Nat) (f : Tile → Tile) : (s.modTile t f).keyed = s.keyed := rfl
@[simp] theorem State.modTile_errs (s : State) (t : Nat) (f : Tile → Tile) : (s.modTile t f).errs = s.errs := rfl
@[simp] theorem State.modTile_l2 (s : State) (t : Nat) (f : Tile → Tile) : (s.modTile t f).l2 = s.l2 := rfl
@[simp] theorem State.modTile_actors (s : State) (t : Nat) (f : Tile → Tile) : (s.modTile t f).actors = s.actors := rfl
@[simp] theorem State.modTile_results (s : State) (t : Nat) (f : Tile → Tile) : (s.modTile t f).results = s.results := rfl
@[simp] theorem State.modTile_accs (s : State) (t : Nat) (f : Tile → Tile) : (s.modTile t f).accs = s.accs := rfl
@[simp] theorem State.modTile_nextAcc (s : State) (t : Nat) (f : Tile → Tile) : (s.modTile t f).nextAcc = s.nextAcc := rfl
@[simp] theorem State.modTile_flights (s : State) (t : Nat) (f : Tile → Tile) : (s.modTile t f).flights = s.flights := rfl
@[simp] theorem State.modTile_nextFlight (s : State) (t : Nat) (f : Tile → Tile) : (s.modTile t f).nextFlight = s.nextFlight := rfl
@[simp] theorem State.modTile_dies (s : State) (t : Nat) (f : Tile → Tile) : (s.modTile t f).dies = s.dies := rfl
@[simp] theorem State.modTile_lines (s : State) (t : Nat) (f : Tile → Tile) : (s.modTile t f).lines = s.lines := rfl
@[simp] theorem State.modTile_graphs (s : State) (t : Nat) (f : Tile → Tile) : (s.modTile t f).graphs = s.graphs := rfl
@[simp] theorem State.modTile_nextGraph (s : State) (t : Nat) (f : Tile → Tile) : (s.modTile t f).nextGraph = s.nextGraph := rfl
@[simp] theorem State.modTile_metas (s : State) (t : Nat) (f : Tile → Tile) : (s.modTile t f).metas = s.metas := rfl
@[simp] theorem State.modTile_ctxs (s : State) (t : Nat) (f : Tile → Tile) : (s.modTile t f).ctxs = s.ctxs := rfl
@[simp] theorem State.modTile_traps (s : State) (t : Nat) (f : Tile → Tile) : (s.modTile t f).traps = s.traps := rfl
@[simp] theorem State.modTile_saved (s : State) (t : Nat) (f : Tile → Tile) : (s.modTile t f).saved = s.saved := rfl
@[simp] theorem State.modTile_mgmt (s : State) (t : Nat) (f : Tile → Tile) : (s.modTile t f).mgmt = s.mgmt := rfl

@[simp] theorem State.setActor_cycle (s : State) (k : Nat) (x : Actor) : (s.setActor k x).cycle = s.cycle := rfl
@[simp] theorem State.setActor_fresh (s : State) (k : Nat) (x : Actor) : (s.setActor k x).fresh = s.fresh := rfl
@[simp] theorem State.setActor_agenda (s : State) (k : Nat) (x : Actor) : (s.setActor k x).agenda = s.agenda := rfl
@[simp] theorem State.setActor_timers (s : State) (k : Nat) (x : Actor) : (s.setActor k x).timers = s.timers := rfl
@[simp] theorem State.setActor_inputs (s : State) (k : Nat) (x : Actor) : (s.setActor k x).inputs = s.inputs := rfl
@[simp] theorem State.setActor_cur (s : State) (k : Nat) (x : Actor) : (s.setActor k x).cur = s.cur := rfl
@[simp] theorem State.setActor_mem (s : State) (k : Nat) (x : Actor) : (s.setActor k x).mem = s.mem := rfl
@[simp] theorem State.setActor_sides (s : State) (k : Nat) (x : Actor) : (s.setActor k x).sides = s.sides := rfl
@[simp] theorem State.setActor_keyed (s : State) (k : Nat) (x : Actor) : (s.setActor k x).keyed = s.keyed := rfl
@[simp] theorem State.setActor_errs (s : State) (k : Nat) (x : Actor) : (s.setActor k x).errs = s.errs := rfl
@[simp] theorem State.setActor_l2 (s : State) (k : Nat) (x : Actor) : (s.setActor k x).l2 = s.l2 := rfl
@[simp] theorem State.setActor_tiles (s : State) (k : Nat) (x : Actor) : (s.setActor k x).tiles = s.tiles := rfl
@[simp] theorem State.setActor_results (s : State) (k : Nat) (x : Actor) : (s.setActor k x).results = s.results := rfl
@[simp] theorem State.setActor_accs (s : State) (k : Nat) (x : Actor) : (s.setActor k x).accs = s.accs := rfl
@[simp] theorem State.setActor_nextAcc (s : State) (k : Nat) (x : Actor) : (s.setActor k x).nextAcc = s.nextAcc := rfl
@[simp] theorem State.setActor_flights (s : State) (k : Nat) (x : Actor) : (s.setActor k x).flights = s.flights := rfl
@[simp] theorem State.setActor_nextFlight (s : State) (k : Nat) (x : Actor) : (s.setActor k x).nextFlight = s.nextFlight := rfl
@[simp] theorem State.setActor_dies (s : State) (k : Nat) (x : Actor) : (s.setActor k x).dies = s.dies := rfl
@[simp] theorem State.setActor_lines (s : State) (k : Nat) (x : Actor) : (s.setActor k x).lines = s.lines := rfl
@[simp] theorem State.setActor_graphs (s : State) (k : Nat) (x : Actor) : (s.setActor k x).graphs = s.graphs := rfl
@[simp] theorem State.setActor_nextGraph (s : State) (k : Nat) (x : Actor) : (s.setActor k x).nextGraph = s.nextGraph := rfl
@[simp] theorem State.setActor_metas (s : State) (k : Nat) (x : Actor) : (s.setActor k x).metas = s.metas := rfl
@[simp] theorem State.setActor_ctxs (s : State) (k : Nat) (x : Actor) : (s.setActor k x).ctxs = s.ctxs := rfl
@[simp] theorem State.setActor_traps (s : State) (k : Nat) (x : Actor) : (s.setActor k x).traps = s.traps := rfl
@[simp] theorem State.setActor_saved (s : State) (k : Nat) (x : Actor) : (s.setActor k x).saved = s.saved := rfl
@[simp] theorem State.setActor_mgmt (s : State) (k : Nat) (x : Actor) : (s.setActor k x).mgmt = s.mgmt := rfl

@[simp] theorem State.modActor_cycle (s : State) (k : Nat) (f : Actor → Actor) : (s.modActor k f).cycle = s.cycle := rfl
@[simp] theorem State.modActor_fresh (s : State) (k : Nat) (f : Actor → Actor) : (s.modActor k f).fresh = s.fresh := rfl
@[simp] theorem State.modActor_agenda (s : State) (k : Nat) (f : Actor → Actor) : (s.modActor k f).agenda = s.agenda := rfl
@[simp] theorem State.modActor_timers (s : State) (k : Nat) (f : Actor → Actor) : (s.modActor k f).timers = s.timers := rfl
@[simp] theorem State.modActor_inputs (s : State) (k : Nat) (f : Actor → Actor) : (s.modActor k f).inputs = s.inputs := rfl
@[simp] theorem State.modActor_cur (s : State) (k : Nat) (f : Actor → Actor) : (s.modActor k f).cur = s.cur := rfl
@[simp] theorem State.modActor_mem (s : State) (k : Nat) (f : Actor → Actor) : (s.modActor k f).mem = s.mem := rfl
@[simp] theorem State.modActor_sides (s : State) (k : Nat) (f : Actor → Actor) : (s.modActor k f).sides = s.sides := rfl
@[simp] theorem State.modActor_keyed (s : State) (k : Nat) (f : Actor → Actor) : (s.modActor k f).keyed = s.keyed := rfl
@[simp] theorem State.modActor_errs (s : State) (k : Nat) (f : Actor → Actor) : (s.modActor k f).errs = s.errs := rfl
@[simp] theorem State.modActor_l2 (s : State) (k : Nat) (f : Actor → Actor) : (s.modActor k f).l2 = s.l2 := rfl
@[simp] theorem State.modActor_tiles (s : State) (k : Nat) (f : Actor → Actor) : (s.modActor k f).tiles = s.tiles := rfl
@[simp] theorem State.modActor_results (s : State) (k : Nat) (f : Actor → Actor) : (s.modActor k f).results = s.results := rfl
@[simp] theorem State.modActor_accs (s : State) (k : Nat) (f : Actor → Actor) : (s.modActor k f).accs = s.accs := rfl
@[simp] theorem State.modActor_nextAcc (s : State) (k : Nat) (f : Actor → Actor) : (s.modActor k f).nextAcc = s.nextAcc := rfl
@[simp] theorem State.modActor_flights (s : State) (k : Nat) (f : Actor → Actor) : (s.modActor k f).flights = s.flights := rfl
@[simp] theorem State.modActor_nextFlight (s : State) (k : Nat) (f : Actor → Actor) : (s.modActor k f).nextFlight = s.nextFlight := rfl
@[simp] theorem State.modActor_dies (s : State) (k : Nat) (f : Actor → Actor) : (s.modActor k f).dies = s.dies := rfl
@[simp] theorem State.modActor_lines (s : State) (k : Nat) (f : Actor → Actor) : (s.modActor k f).lines = s.lines := rfl
@[simp] theorem State.modActor_graphs (s : State) (k : Nat) (f : Actor → Actor) : (s.modActor k f).graphs = s.graphs := rfl
@[simp] theorem State.modActor_nextGraph (s : State) (k : Nat) (f : Actor → Actor) : (s.modActor k f).nextGraph = s.nextGraph := rfl
@[simp] theorem State.modActor_metas (s : State) (k : Nat) (f : Actor → Actor) : (s.modActor k f).metas = s.metas := rfl
@[simp] theorem State.modActor_ctxs (s : State) (k : Nat) (f : Actor → Actor) : (s.modActor k f).ctxs = s.ctxs := rfl
@[simp] theorem State.modActor_traps (s : State) (k : Nat) (f : Actor → Actor) : (s.modActor k f).traps = s.traps := rfl
@[simp] theorem State.modActor_saved (s : State) (k : Nat) (f : Actor → Actor) : (s.modActor k f).saved = s.saved := rfl
@[simp] theorem State.modActor_mgmt (s : State) (k : Nat) (f : Actor → Actor) : (s.modActor k f).mgmt = s.mgmt := rfl

@[simp] theorem State.setDie_cycle (s : State) (d : Nat) (x : Die) : (s.setDie d x).cycle = s.cycle := rfl
@[simp] theorem State.setDie_fresh (s : State) (d : Nat) (x : Die) : (s.setDie d x).fresh = s.fresh := rfl
@[simp] theorem State.setDie_agenda (s : State) (d : Nat) (x : Die) : (s.setDie d x).agenda = s.agenda := rfl
@[simp] theorem State.setDie_timers (s : State) (d : Nat) (x : Die) : (s.setDie d x).timers = s.timers := rfl
@[simp] theorem State.setDie_inputs (s : State) (d : Nat) (x : Die) : (s.setDie d x).inputs = s.inputs := rfl
@[simp] theorem State.setDie_cur (s : State) (d : Nat) (x : Die) : (s.setDie d x).cur = s.cur := rfl
@[simp] theorem State.setDie_mem (s : State) (d : Nat) (x : Die) : (s.setDie d x).mem = s.mem := rfl
@[simp] theorem State.setDie_sides (s : State) (d : Nat) (x : Die) : (s.setDie d x).sides = s.sides := rfl
@[simp] theorem State.setDie_keyed (s : State) (d : Nat) (x : Die) : (s.setDie d x).keyed = s.keyed := rfl
@[simp] theorem State.setDie_errs (s : State) (d : Nat) (x : Die) : (s.setDie d x).errs = s.errs := rfl
@[simp] theorem State.setDie_l2 (s : State) (d : Nat) (x : Die) : (s.setDie d x).l2 = s.l2 := rfl
@[simp] theorem State.setDie_tiles (s : State) (d : Nat) (x : Die) : (s.setDie d x).tiles = s.tiles := rfl
@[simp] theorem State.setDie_actors (s : State) (d : Nat) (x : Die) : (s.setDie d x).actors = s.actors := rfl
@[simp] theorem State.setDie_results (s : State) (d : Nat) (x : Die) : (s.setDie d x).results = s.results := rfl
@[simp] theorem State.setDie_accs (s : State) (d : Nat) (x : Die) : (s.setDie d x).accs = s.accs := rfl
@[simp] theorem State.setDie_nextAcc (s : State) (d : Nat) (x : Die) : (s.setDie d x).nextAcc = s.nextAcc := rfl
@[simp] theorem State.setDie_flights (s : State) (d : Nat) (x : Die) : (s.setDie d x).flights = s.flights := rfl
@[simp] theorem State.setDie_nextFlight (s : State) (d : Nat) (x : Die) : (s.setDie d x).nextFlight = s.nextFlight := rfl
@[simp] theorem State.setDie_lines (s : State) (d : Nat) (x : Die) : (s.setDie d x).lines = s.lines := rfl
@[simp] theorem State.setDie_graphs (s : State) (d : Nat) (x : Die) : (s.setDie d x).graphs = s.graphs := rfl
@[simp] theorem State.setDie_nextGraph (s : State) (d : Nat) (x : Die) : (s.setDie d x).nextGraph = s.nextGraph := rfl
@[simp] theorem State.setDie_metas (s : State) (d : Nat) (x : Die) : (s.setDie d x).metas = s.metas := rfl
@[simp] theorem State.setDie_ctxs (s : State) (d : Nat) (x : Die) : (s.setDie d x).ctxs = s.ctxs := rfl
@[simp] theorem State.setDie_traps (s : State) (d : Nat) (x : Die) : (s.setDie d x).traps = s.traps := rfl
@[simp] theorem State.setDie_saved (s : State) (d : Nat) (x : Die) : (s.setDie d x).saved = s.saved := rfl
@[simp] theorem State.setDie_mgmt (s : State) (d : Nat) (x : Die) : (s.setDie d x).mgmt = s.mgmt := rfl

@[simp] theorem State.modDie_cycle (s : State) (d : Nat) (f : Die → Die) : (s.modDie d f).cycle = s.cycle := rfl
@[simp] theorem State.modDie_fresh (s : State) (d : Nat) (f : Die → Die) : (s.modDie d f).fresh = s.fresh := rfl
@[simp] theorem State.modDie_agenda (s : State) (d : Nat) (f : Die → Die) : (s.modDie d f).agenda = s.agenda := rfl
@[simp] theorem State.modDie_timers (s : State) (d : Nat) (f : Die → Die) : (s.modDie d f).timers = s.timers := rfl
@[simp] theorem State.modDie_inputs (s : State) (d : Nat) (f : Die → Die) : (s.modDie d f).inputs = s.inputs := rfl
@[simp] theorem State.modDie_cur (s : State) (d : Nat) (f : Die → Die) : (s.modDie d f).cur = s.cur := rfl
@[simp] theorem State.modDie_mem (s : State) (d : Nat) (f : Die → Die) : (s.modDie d f).mem = s.mem := rfl
@[simp] theorem State.modDie_sides (s : State) (d : Nat) (f : Die → Die) : (s.modDie d f).sides = s.sides := rfl
@[simp] theorem State.modDie_keyed (s : State) (d : Nat) (f : Die → Die) : (s.modDie d f).keyed = s.keyed := rfl
@[simp] theorem State.modDie_errs (s : State) (d : Nat) (f : Die → Die) : (s.modDie d f).errs = s.errs := rfl
@[simp] theorem State.modDie_l2 (s : State) (d : Nat) (f : Die → Die) : (s.modDie d f).l2 = s.l2 := rfl
@[simp] theorem State.modDie_tiles (s : State) (d : Nat) (f : Die → Die) : (s.modDie d f).tiles = s.tiles := rfl
@[simp] theorem State.modDie_actors (s : State) (d : Nat) (f : Die → Die) : (s.modDie d f).actors = s.actors := rfl
@[simp] theorem State.modDie_results (s : State) (d : Nat) (f : Die → Die) : (s.modDie d f).results = s.results := rfl
@[simp] theorem State.modDie_accs (s : State) (d : Nat) (f : Die → Die) : (s.modDie d f).accs = s.accs := rfl
@[simp] theorem State.modDie_nextAcc (s : State) (d : Nat) (f : Die → Die) : (s.modDie d f).nextAcc = s.nextAcc := rfl
@[simp] theorem State.modDie_flights (s : State) (d : Nat) (f : Die → Die) : (s.modDie d f).flights = s.flights := rfl
@[simp] theorem State.modDie_nextFlight (s : State) (d : Nat) (f : Die → Die) : (s.modDie d f).nextFlight = s.nextFlight := rfl
@[simp] theorem State.modDie_lines (s : State) (d : Nat) (f : Die → Die) : (s.modDie d f).lines = s.lines := rfl
@[simp] theorem State.modDie_graphs (s : State) (d : Nat) (f : Die → Die) : (s.modDie d f).graphs = s.graphs := rfl
@[simp] theorem State.modDie_nextGraph (s : State) (d : Nat) (f : Die → Die) : (s.modDie d f).nextGraph = s.nextGraph := rfl
@[simp] theorem State.modDie_metas (s : State) (d : Nat) (f : Die → Die) : (s.modDie d f).metas = s.metas := rfl
@[simp] theorem State.modDie_ctxs (s : State) (d : Nat) (f : Die → Die) : (s.modDie d f).ctxs = s.ctxs := rfl
@[simp] theorem State.modDie_traps (s : State) (d : Nat) (f : Die → Die) : (s.modDie d f).traps = s.traps := rfl
@[simp] theorem State.modDie_saved (s : State) (d : Nat) (f : Die → Die) : (s.modDie d f).saved = s.saved := rfl
@[simp] theorem State.modDie_mgmt (s : State) (d : Nat) (f : Die → Die) : (s.modDie d f).mgmt = s.mgmt := rfl

@[simp] theorem State.modMgmt_cycle (s : State) (f : Mgmt → Mgmt) : (s.modMgmt f).cycle = s.cycle := rfl
@[simp] theorem State.modMgmt_fresh (s : State) (f : Mgmt → Mgmt) : (s.modMgmt f).fresh = s.fresh := rfl
@[simp] theorem State.modMgmt_agenda (s : State) (f : Mgmt → Mgmt) : (s.modMgmt f).agenda = s.agenda := rfl
@[simp] theorem State.modMgmt_timers (s : State) (f : Mgmt → Mgmt) : (s.modMgmt f).timers = s.timers := rfl
@[simp] theorem State.modMgmt_inputs (s : State) (f : Mgmt → Mgmt) : (s.modMgmt f).inputs = s.inputs := rfl
@[simp] theorem State.modMgmt_cur (s : State) (f : Mgmt → Mgmt) : (s.modMgmt f).cur = s.cur := rfl
@[simp] theorem State.modMgmt_mem (s : State) (f : Mgmt → Mgmt) : (s.modMgmt f).mem = s.mem := rfl
@[simp] theorem State.modMgmt_sides (s : State) (f : Mgmt → Mgmt) : (s.modMgmt f).sides = s.sides := rfl
@[simp] theorem State.modMgmt_keyed (s : State) (f : Mgmt → Mgmt) : (s.modMgmt f).keyed = s.keyed := rfl
@[simp] theorem State.modMgmt_errs (s : State) (f : Mgmt → Mgmt) : (s.modMgmt f).errs = s.errs := rfl
@[simp] theorem State.modMgmt_l2 (s : State) (f : Mgmt → Mgmt) : (s.modMgmt f).l2 = s.l2 := rfl
@[simp] theorem State.modMgmt_tiles (s : State) (f : Mgmt → Mgmt) : (s.modMgmt f).tiles = s.tiles := rfl
@[simp] theorem State.modMgmt_actors (s : State) (f : Mgmt → Mgmt) : (s.modMgmt f).actors = s.actors := rfl
@[simp] theorem State.modMgmt_results (s : State) (f : Mgmt → Mgmt) : (s.modMgmt f).results = s.results := rfl
@[simp] theorem State.modMgmt_accs (s : State) (f : Mgmt → Mgmt) : (s.modMgmt f).accs = s.accs := rfl
@[simp] theorem State.modMgmt_nextAcc (s : State) (f : Mgmt → Mgmt) : (s.modMgmt f).nextAcc = s.nextAcc := rfl
@[simp] theorem State.modMgmt_flights (s : State) (f : Mgmt → Mgmt) : (s.modMgmt f).flights = s.flights := rfl
@[simp] theorem State.modMgmt_nextFlight (s : State) (f : Mgmt → Mgmt) : (s.modMgmt f).nextFlight = s.nextFlight := rfl
@[simp] theorem State.modMgmt_dies (s : State) (f : Mgmt → Mgmt) : (s.modMgmt f).dies = s.dies := rfl
@[simp] theorem State.modMgmt_lines (s : State) (f : Mgmt → Mgmt) : (s.modMgmt f).lines = s.lines := rfl
@[simp] theorem State.modMgmt_graphs (s : State) (f : Mgmt → Mgmt) : (s.modMgmt f).graphs = s.graphs := rfl
@[simp] theorem State.modMgmt_nextGraph (s : State) (f : Mgmt → Mgmt) : (s.modMgmt f).nextGraph = s.nextGraph := rfl
@[simp] theorem State.modMgmt_metas (s : State) (f : Mgmt → Mgmt) : (s.modMgmt f).metas = s.metas := rfl
@[simp] theorem State.modMgmt_ctxs (s : State) (f : Mgmt → Mgmt) : (s.modMgmt f).ctxs = s.ctxs := rfl
@[simp] theorem State.modMgmt_traps (s : State) (f : Mgmt → Mgmt) : (s.modMgmt f).traps = s.traps := rfl
@[simp] theorem State.modMgmt_saved (s : State) (f : Mgmt → Mgmt) : (s.modMgmt f).saved = s.saved := rfl

@[simp] theorem State.drew_cycle (s : State) : (s.drew).cycle = s.cycle := rfl
@[simp] theorem State.drew_agenda (s : State) : (s.drew).agenda = s.agenda := rfl
@[simp] theorem State.drew_timers (s : State) : (s.drew).timers = s.timers := rfl
@[simp] theorem State.drew_inputs (s : State) : (s.drew).inputs = s.inputs := rfl
@[simp] theorem State.drew_cur (s : State) : (s.drew).cur = s.cur := rfl
@[simp] theorem State.drew_mem (s : State) : (s.drew).mem = s.mem := rfl
@[simp] theorem State.drew_sides (s : State) : (s.drew).sides = s.sides := rfl
@[simp] theorem State.drew_keyed (s : State) : (s.drew).keyed = s.keyed := rfl
@[simp] theorem State.drew_errs (s : State) : (s.drew).errs = s.errs := rfl
@[simp] theorem State.drew_l2 (s : State) : (s.drew).l2 = s.l2 := rfl
@[simp] theorem State.drew_tiles (s : State) : (s.drew).tiles = s.tiles := rfl
@[simp] theorem State.drew_actors (s : State) : (s.drew).actors = s.actors := rfl
@[simp] theorem State.drew_results (s : State) : (s.drew).results = s.results := rfl
@[simp] theorem State.drew_accs (s : State) : (s.drew).accs = s.accs := rfl
@[simp] theorem State.drew_nextAcc (s : State) : (s.drew).nextAcc = s.nextAcc := rfl
@[simp] theorem State.drew_flights (s : State) : (s.drew).flights = s.flights := rfl
@[simp] theorem State.drew_nextFlight (s : State) : (s.drew).nextFlight = s.nextFlight := rfl
@[simp] theorem State.drew_dies (s : State) : (s.drew).dies = s.dies := rfl
@[simp] theorem State.drew_lines (s : State) : (s.drew).lines = s.lines := rfl
@[simp] theorem State.drew_graphs (s : State) : (s.drew).graphs = s.graphs := rfl
@[simp] theorem State.drew_nextGraph (s : State) : (s.drew).nextGraph = s.nextGraph := rfl
@[simp] theorem State.drew_metas (s : State) : (s.drew).metas = s.metas := rfl
@[simp] theorem State.drew_ctxs (s : State) : (s.drew).ctxs = s.ctxs := rfl
@[simp] theorem State.drew_traps (s : State) : (s.drew).traps = s.traps := rfl
@[simp] theorem State.drew_saved (s : State) : (s.drew).saved = s.saved := rfl
@[simp] theorem State.drew_mgmt (s : State) : (s.drew).mgmt = s.mgmt := rfl

@[simp] theorem State.after_cycle (s : State) (n : Nat) (e : Instr) : (s.after n e).cycle = s.cycle := rfl
@[simp] theorem State.after_fresh (s : State) (n : Nat) (e : Instr) : (s.after n e).fresh = s.fresh := rfl
@[simp] theorem State.after_agenda (s : State) (n : Nat) (e : Instr) : (s.after n e).agenda = s.agenda := rfl
@[simp] theorem State.after_inputs (s : State) (n : Nat) (e : Instr) : (s.after n e).inputs = s.inputs := rfl
@[simp] theorem State.after_cur (s : State) (n : Nat) (e : Instr) : (s.after n e).cur = s.cur := rfl
@[simp] theorem State.after_mem (s : State) (n : Nat) (e : Instr) : (s.after n e).mem = s.mem := rfl
@[simp] theorem State.after_sides (s : State) (n : Nat) (e : Instr) : (s.after n e).sides = s.sides := rfl
@[simp] theorem State.after_keyed (s : State) (n : Nat) (e : Instr) : (s.after n e).keyed = s.keyed := rfl
@[simp] theorem State.after_errs (s : State) (n : Nat) (e : Instr) : (s.after n e).errs = s.errs := rfl
@[simp] theorem State.after_l2 (s : State) (n : Nat) (e : Instr) : (s.after n e).l2 = s.l2 := rfl
@[simp] theorem State.after_tiles (s : State) (n : Nat) (e : Instr) : (s.after n e).tiles = s.tiles := rfl
@[simp] theorem State.after_actors (s : State) (n : Nat) (e : Instr) : (s.after n e).actors = s.actors := rfl
@[simp] theorem State.after_results (s : State) (n : Nat) (e : Instr) : (s.after n e).results = s.results := rfl
@[simp] theorem State.after_accs (s : State) (n : Nat) (e : Instr) : (s.after n e).accs = s.accs := rfl
@[simp] theorem State.after_nextAcc (s : State) (n : Nat) (e : Instr) : (s.after n e).nextAcc = s.nextAcc := rfl
@[simp] theorem State.after_flights (s : State) (n : Nat) (e : Instr) : (s.after n e).flights = s.flights := rfl
@[simp] theorem State.after_nextFlight (s : State) (n : Nat) (e : Instr) : (s.after n e).nextFlight = s.nextFlight := rfl
@[simp] theorem State.after_dies (s : State) (n : Nat) (e : Instr) : (s.after n e).dies = s.dies := rfl
@[simp] theorem State.after_lines (s : State) (n : Nat) (e : Instr) : (s.after n e).lines = s.lines := rfl
@[simp] theorem State.after_graphs (s : State) (n : Nat) (e : Instr) : (s.after n e).graphs = s.graphs := rfl
@[simp] theorem State.after_nextGraph (s : State) (n : Nat) (e : Instr) : (s.after n e).nextGraph = s.nextGraph := rfl
@[simp] theorem State.after_metas (s : State) (n : Nat) (e : Instr) : (s.after n e).metas = s.metas := rfl
@[simp] theorem State.after_ctxs (s : State) (n : Nat) (e : Instr) : (s.after n e).ctxs = s.ctxs := rfl
@[simp] theorem State.after_traps (s : State) (n : Nat) (e : Instr) : (s.after n e).traps = s.traps := rfl
@[simp] theorem State.after_saved (s : State) (n : Nat) (e : Instr) : (s.after n e).saved = s.saved := rfl
@[simp] theorem State.after_mgmt (s : State) (n : Nat) (e : Instr) : (s.after n e).mgmt = s.mgmt := rfl

@[simp] theorem State.later_cycle (s : State) (e : Instr) : (s.later e).cycle = s.cycle := rfl
@[simp] theorem State.later_agenda (s : State) (e : Instr) : (s.later e).agenda = s.agenda := rfl
@[simp] theorem State.later_inputs (s : State) (e : Instr) : (s.later e).inputs = s.inputs := rfl
@[simp] theorem State.later_cur (s : State) (e : Instr) : (s.later e).cur = s.cur := rfl
@[simp] theorem State.later_mem (s : State) (e : Instr) : (s.later e).mem = s.mem := rfl
@[simp] theorem State.later_sides (s : State) (e : Instr) : (s.later e).sides = s.sides := rfl
@[simp] theorem State.later_keyed (s : State) (e : Instr) : (s.later e).keyed = s.keyed := rfl
@[simp] theorem State.later_errs (s : State) (e : Instr) : (s.later e).errs = s.errs := rfl
@[simp] theorem State.later_l2 (s : State) (e : Instr) : (s.later e).l2 = s.l2 := rfl
@[simp] theorem State.later_tiles (s : State) (e : Instr) : (s.later e).tiles = s.tiles := rfl
@[simp] theorem State.later_actors (s : State) (e : Instr) : (s.later e).actors = s.actors := rfl
@[simp] theorem State.later_results (s : State) (e : Instr) : (s.later e).results = s.results := rfl
@[simp] theorem State.later_accs (s : State) (e : Instr) : (s.later e).accs = s.accs := rfl
@[simp] theorem State.later_nextAcc (s : State) (e : Instr) : (s.later e).nextAcc = s.nextAcc := rfl
@[simp] theorem State.later_flights (s : State) (e : Instr) : (s.later e).flights = s.flights := rfl
@[simp] theorem State.later_nextFlight (s : State) (e : Instr) : (s.later e).nextFlight = s.nextFlight := rfl
@[simp] theorem State.later_dies (s : State) (e : Instr) : (s.later e).dies = s.dies := rfl
@[simp] theorem State.later_lines (s : State) (e : Instr) : (s.later e).lines = s.lines := rfl
@[simp] theorem State.later_graphs (s : State) (e : Instr) : (s.later e).graphs = s.graphs := rfl
@[simp] theorem State.later_nextGraph (s : State) (e : Instr) : (s.later e).nextGraph = s.nextGraph := rfl
@[simp] theorem State.later_metas (s : State) (e : Instr) : (s.later e).metas = s.metas := rfl
@[simp] theorem State.later_ctxs (s : State) (e : Instr) : (s.later e).ctxs = s.ctxs := rfl
@[simp] theorem State.later_traps (s : State) (e : Instr) : (s.later e).traps = s.traps := rfl
@[simp] theorem State.later_saved (s : State) (e : Instr) : (s.later e).saved = s.saved := rfl
@[simp] theorem State.later_mgmt (s : State) (e : Instr) : (s.later e).mgmt = s.mgmt := rfl

@[simp] theorem State.now_cycle (s : State) (e : Instr) : (s.now e).cycle = s.cycle := rfl
@[simp] theorem State.now_fresh (s : State) (e : Instr) : (s.now e).fresh = s.fresh := rfl
@[simp] theorem State.now_timers (s : State) (e : Instr) : (s.now e).timers = s.timers := rfl
@[simp] theorem State.now_inputs (s : State) (e : Instr) : (s.now e).inputs = s.inputs := rfl
@[simp] theorem State.now_cur (s : State) (e : Instr) : (s.now e).cur = s.cur := rfl
@[simp] theorem State.now_mem (s : State) (e : Instr) : (s.now e).mem = s.mem := rfl
@[simp] theorem State.now_sides (s : State) (e : Instr) : (s.now e).sides = s.sides := rfl
@[simp] theorem State.now_keyed (s : State) (e : Instr) : (s.now e).keyed = s.keyed := rfl
@[simp] theorem State.now_errs (s : State) (e : Instr) : (s.now e).errs = s.errs := rfl
@[simp] theorem State.now_l2 (s : State) (e : Instr) : (s.now e).l2 = s.l2 := rfl
@[simp] theorem State.now_tiles (s : State) (e : Instr) : (s.now e).tiles = s.tiles := rfl
@[simp] theorem State.now_actors (s : State) (e : Instr) : (s.now e).actors = s.actors := rfl
@[simp] theorem State.now_results (s : State) (e : Instr) : (s.now e).results = s.results := rfl
@[simp] theorem State.now_accs (s : State) (e : Instr) : (s.now e).accs = s.accs := rfl
@[simp] theorem State.now_nextAcc (s : State) (e : Instr) : (s.now e).nextAcc = s.nextAcc := rfl
@[simp] theorem State.now_flights (s : State) (e : Instr) : (s.now e).flights = s.flights := rfl
@[simp] theorem State.now_nextFlight (s : State) (e : Instr) : (s.now e).nextFlight = s.nextFlight := rfl
@[simp] theorem State.now_dies (s : State) (e : Instr) : (s.now e).dies = s.dies := rfl
@[simp] theorem State.now_lines (s : State) (e : Instr) : (s.now e).lines = s.lines := rfl
@[simp] theorem State.now_graphs (s : State) (e : Instr) : (s.now e).graphs = s.graphs := rfl
@[simp] theorem State.now_nextGraph (s : State) (e : Instr) : (s.now e).nextGraph = s.nextGraph := rfl
@[simp] theorem State.now_metas (s : State) (e : Instr) : (s.now e).metas = s.metas := rfl
@[simp] theorem State.now_ctxs (s : State) (e : Instr) : (s.now e).ctxs = s.ctxs := rfl
@[simp] theorem State.now_traps (s : State) (e : Instr) : (s.now e).traps = s.traps := rfl
@[simp] theorem State.now_saved (s : State) (e : Instr) : (s.now e).saved = s.saved := rfl
@[simp] theorem State.now_mgmt (s : State) (e : Instr) : (s.now e).mgmt = s.mgmt := rfl

@[simp] theorem State.issue_cycle (s : State) (l : Nat) (ws : List Wr) (k : Option Tok) : (s.issue l ws k).cycle = s.cycle := rfl
@[simp] theorem State.issue_fresh (s : State) (l : Nat) (ws : List Wr) (k : Option Tok) : (s.issue l ws k).fresh = s.fresh := rfl
@[simp] theorem State.issue_agenda (s : State) (l : Nat) (ws : List Wr) (k : Option Tok) : (s.issue l ws k).agenda = s.agenda := rfl
@[simp] theorem State.issue_timers (s : State) (l : Nat) (ws : List Wr) (k : Option Tok) : (s.issue l ws k).timers = s.timers := rfl
@[simp] theorem State.issue_inputs (s : State) (l : Nat) (ws : List Wr) (k : Option Tok) : (s.issue l ws k).inputs = s.inputs := rfl
@[simp] theorem State.issue_cur (s : State) (l : Nat) (ws : List Wr) (k : Option Tok) : (s.issue l ws k).cur = s.cur := rfl
@[simp] theorem State.issue_mem (s : State) (l : Nat) (ws : List Wr) (k : Option Tok) : (s.issue l ws k).mem = s.mem := rfl
@[simp] theorem State.issue_sides (s : State) (l : Nat) (ws : List Wr) (k : Option Tok) : (s.issue l ws k).sides = s.sides := rfl
@[simp] theorem State.issue_keyed (s : State) (l : Nat) (ws : List Wr) (k : Option Tok) : (s.issue l ws k).keyed = s.keyed := rfl
@[simp] theorem State.issue_errs (s : State) (l : Nat) (ws : List Wr) (k : Option Tok) : (s.issue l ws k).errs = s.errs := rfl
@[simp] theorem State.issue_l2 (s : State) (l : Nat) (ws : List Wr) (k : Option Tok) : (s.issue l ws k).l2 = s.l2 := rfl
@[simp] theorem State.issue_tiles (s : State) (l : Nat) (ws : List Wr) (k : Option Tok) : (s.issue l ws k).tiles = s.tiles := rfl
@[simp] theorem State.issue_actors (s : State) (l : Nat) (ws : List Wr) (k : Option Tok) : (s.issue l ws k).actors = s.actors := rfl
@[simp] theorem State.issue_accs (s : State) (l : Nat) (ws : List Wr) (k : Option Tok) : (s.issue l ws k).accs = s.accs := rfl
@[simp] theorem State.issue_nextAcc (s : State) (l : Nat) (ws : List Wr) (k : Option Tok) : (s.issue l ws k).nextAcc = s.nextAcc := rfl
@[simp] theorem State.issue_flights (s : State) (l : Nat) (ws : List Wr) (k : Option Tok) : (s.issue l ws k).flights = s.flights := rfl
@[simp] theorem State.issue_nextFlight (s : State) (l : Nat) (ws : List Wr) (k : Option Tok) : (s.issue l ws k).nextFlight = s.nextFlight := rfl
@[simp] theorem State.issue_dies (s : State) (l : Nat) (ws : List Wr) (k : Option Tok) : (s.issue l ws k).dies = s.dies := rfl
@[simp] theorem State.issue_lines (s : State) (l : Nat) (ws : List Wr) (k : Option Tok) : (s.issue l ws k).lines = s.lines := rfl
@[simp] theorem State.issue_graphs (s : State) (l : Nat) (ws : List Wr) (k : Option Tok) : (s.issue l ws k).graphs = s.graphs := rfl
@[simp] theorem State.issue_nextGraph (s : State) (l : Nat) (ws : List Wr) (k : Option Tok) : (s.issue l ws k).nextGraph = s.nextGraph := rfl
@[simp] theorem State.issue_metas (s : State) (l : Nat) (ws : List Wr) (k : Option Tok) : (s.issue l ws k).metas = s.metas := rfl
@[simp] theorem State.issue_ctxs (s : State) (l : Nat) (ws : List Wr) (k : Option Tok) : (s.issue l ws k).ctxs = s.ctxs := rfl
@[simp] theorem State.issue_traps (s : State) (l : Nat) (ws : List Wr) (k : Option Tok) : (s.issue l ws k).traps = s.traps := rfl
@[simp] theorem State.issue_saved (s : State) (l : Nat) (ws : List Wr) (k : Option Tok) : (s.issue l ws k).saved = s.saved := rfl
@[simp] theorem State.issue_mgmt (s : State) (l : Nat) (ws : List Wr) (k : Option Tok) : (s.issue l ws k).mgmt = s.mgmt := rfl

@[simp] theorem State.modMe_cycle (s : State) (f : Actor → Actor) : (s.modMe f).cycle = s.cycle := rfl
@[simp] theorem State.modMe_fresh (s : State) (f : Actor → Actor) : (s.modMe f).fresh = s.fresh := rfl
@[simp] theorem State.modMe_agenda (s : State) (f : Actor → Actor) : (s.modMe f).agenda = s.agenda := rfl
@[simp] theorem State.modMe_timers (s : State) (f : Actor → Actor) : (s.modMe f).timers = s.timers := rfl
@[simp] theorem State.modMe_inputs (s : State) (f : Actor → Actor) : (s.modMe f).inputs = s.inputs := rfl
@[simp] theorem State.modMe_cur (s : State) (f : Actor → Actor) : (s.modMe f).cur = s.cur := rfl
@[simp] theorem State.modMe_mem (s : State) (f : Actor → Actor) : (s.modMe f).mem = s.mem := rfl
@[simp] theorem State.modMe_sides (s : State) (f : Actor → Actor) : (s.modMe f).sides = s.sides := rfl
@[simp] theorem State.modMe_keyed (s : State) (f : Actor → Actor) : (s.modMe f).keyed = s.keyed := rfl
@[simp] theorem State.modMe_errs (s : State) (f : Actor → Actor) : (s.modMe f).errs = s.errs := rfl
@[simp] theorem State.modMe_l2 (s : State) (f : Actor → Actor) : (s.modMe f).l2 = s.l2 := rfl
@[simp] theorem State.modMe_tiles (s : State) (f : Actor → Actor) : (s.modMe f).tiles = s.tiles := rfl
@[simp] theorem State.modMe_results (s : State) (f : Actor → Actor) : (s.modMe f).results = s.results := rfl
@[simp] theorem State.modMe_accs (s : State) (f : Actor → Actor) : (s.modMe f).accs = s.accs := rfl
@[simp] theorem State.modMe_nextAcc (s : State) (f : Actor → Actor) : (s.modMe f).nextAcc = s.nextAcc := rfl
@[simp] theorem State.modMe_flights (s : State) (f : Actor → Actor) : (s.modMe f).flights = s.flights := rfl
@[simp] theorem State.modMe_nextFlight (s : State) (f : Actor → Actor) : (s.modMe f).nextFlight = s.nextFlight := rfl
@[simp] theorem State.modMe_dies (s : State) (f : Actor → Actor) : (s.modMe f).dies = s.dies := rfl
@[simp] theorem State.modMe_lines (s : State) (f : Actor → Actor) : (s.modMe f).lines = s.lines := rfl
@[simp] theorem State.modMe_graphs (s : State) (f : Actor → Actor) : (s.modMe f).graphs = s.graphs := rfl
@[simp] theorem State.modMe_nextGraph (s : State) (f : Actor → Actor) : (s.modMe f).nextGraph = s.nextGraph := rfl
@[simp] theorem State.modMe_metas (s : State) (f : Actor → Actor) : (s.modMe f).metas = s.metas := rfl
@[simp] theorem State.modMe_ctxs (s : State) (f : Actor → Actor) : (s.modMe f).ctxs = s.ctxs := rfl
@[simp] theorem State.modMe_traps (s : State) (f : Actor → Actor) : (s.modMe f).traps = s.traps := rfl
@[simp] theorem State.modMe_saved (s : State) (f : Actor → Actor) : (s.modMe f).saved = s.saved := rfl
@[simp] theorem State.modMe_mgmt (s : State) (f : Actor → Actor) : (s.modMe f).mgmt = s.mgmt := rfl

@[simp] theorem State.modHere_cycle (s : State) (f : Tile → Tile) : (s.modHere f).cycle = s.cycle := rfl
@[simp] theorem State.modHere_fresh (s : State) (f : Tile → Tile) : (s.modHere f).fresh = s.fresh := rfl
@[simp] theorem State.modHere_agenda (s : State) (f : Tile → Tile) : (s.modHere f).agenda = s.agenda := rfl
@[simp] theorem State.modHere_timers (s : State) (f : Tile → Tile) : (s.modHere f).timers = s.timers := rfl
@[simp] theorem State.modHere_inputs (s : State) (f : Tile → Tile) : (s.modHere f).inputs = s.inputs := rfl
@[simp] theorem State.modHere_cur (s : State) (f : Tile → Tile) : (s.modHere f).cur = s.cur := rfl
@[simp] theorem State.modHere_mem (s : State) (f : Tile → Tile) : (s.modHere f).mem = s.mem := rfl
@[simp] theorem State.modHere_sides (s : State) (f : Tile → Tile) : (s.modHere f).sides = s.sides := rfl
@[simp] theorem State.modHere_keyed (s : State) (f : Tile → Tile) : (s.modHere f).keyed = s.keyed := rfl
@[simp] theorem State.modHere_errs (s : State) (f : Tile → Tile) : (s.modHere f).errs = s.errs := rfl
@[simp] theorem State.modHere_l2 (s : State) (f : Tile → Tile) : (s.modHere f).l2 = s.l2 := rfl
@[simp] theorem State.modHere_actors (s : State) (f : Tile → Tile) : (s.modHere f).actors = s.actors := rfl
@[simp] theorem State.modHere_results (s : State) (f : Tile → Tile) : (s.modHere f).results = s.results := rfl
@[simp] theorem State.modHere_accs (s : State) (f : Tile → Tile) : (s.modHere f).accs = s.accs := rfl
@[simp] theorem State.modHere_nextAcc (s : State) (f : Tile → Tile) : (s.modHere f).nextAcc = s.nextAcc := rfl
@[simp] theorem State.modHere_flights (s : State) (f : Tile → Tile) : (s.modHere f).flights = s.flights := rfl
@[simp] theorem State.modHere_nextFlight (s : State) (f : Tile → Tile) : (s.modHere f).nextFlight = s.nextFlight := rfl
@[simp] theorem State.modHere_dies (s : State) (f : Tile → Tile) : (s.modHere f).dies = s.dies := rfl
@[simp] theorem State.modHere_lines (s : State) (f : Tile → Tile) : (s.modHere f).lines = s.lines := rfl
@[simp] theorem State.modHere_graphs (s : State) (f : Tile → Tile) : (s.modHere f).graphs = s.graphs := rfl
@[simp] theorem State.modHere_nextGraph (s : State) (f : Tile → Tile) : (s.modHere f).nextGraph = s.nextGraph := rfl
@[simp] theorem State.modHere_metas (s : State) (f : Tile → Tile) : (s.modHere f).metas = s.metas := rfl
@[simp] theorem State.modHere_ctxs (s : State) (f : Tile → Tile) : (s.modHere f).ctxs = s.ctxs := rfl
@[simp] theorem State.modHere_traps (s : State) (f : Tile → Tile) : (s.modHere f).traps = s.traps := rfl
@[simp] theorem State.modHere_saved (s : State) (f : Tile → Tile) : (s.modHere f).saved = s.saved := rfl
@[simp] theorem State.modHere_mgmt (s : State) (f : Tile → Tile) : (s.modHere f).mgmt = s.mgmt := rfl

@[simp] theorem State.trapAux_cycle (s : State) (c w : Nat) (r : BitVec 256) (x : Word) : (s.trapAux c w r x).cycle = s.cycle := rfl
@[simp] theorem State.trapAux_fresh (s : State) (c w : Nat) (r : BitVec 256) (x : Word) : (s.trapAux c w r x).fresh = s.fresh := rfl
@[simp] theorem State.trapAux_timers (s : State) (c w : Nat) (r : BitVec 256) (x : Word) : (s.trapAux c w r x).timers = s.timers := rfl
@[simp] theorem State.trapAux_inputs (s : State) (c w : Nat) (r : BitVec 256) (x : Word) : (s.trapAux c w r x).inputs = s.inputs := rfl
@[simp] theorem State.trapAux_cur (s : State) (c w : Nat) (r : BitVec 256) (x : Word) : (s.trapAux c w r x).cur = s.cur := rfl
@[simp] theorem State.trapAux_mem (s : State) (c w : Nat) (r : BitVec 256) (x : Word) : (s.trapAux c w r x).mem = s.mem := rfl
@[simp] theorem State.trapAux_sides (s : State) (c w : Nat) (r : BitVec 256) (x : Word) : (s.trapAux c w r x).sides = s.sides := rfl
@[simp] theorem State.trapAux_keyed (s : State) (c w : Nat) (r : BitVec 256) (x : Word) : (s.trapAux c w r x).keyed = s.keyed := rfl
@[simp] theorem State.trapAux_errs (s : State) (c w : Nat) (r : BitVec 256) (x : Word) : (s.trapAux c w r x).errs = s.errs := rfl
@[simp] theorem State.trapAux_l2 (s : State) (c w : Nat) (r : BitVec 256) (x : Word) : (s.trapAux c w r x).l2 = s.l2 := rfl
@[simp] theorem State.trapAux_tiles (s : State) (c w : Nat) (r : BitVec 256) (x : Word) : (s.trapAux c w r x).tiles = s.tiles := rfl
@[simp] theorem State.trapAux_actors (s : State) (c w : Nat) (r : BitVec 256) (x : Word) : (s.trapAux c w r x).actors = s.actors := rfl
@[simp] theorem State.trapAux_results (s : State) (c w : Nat) (r : BitVec 256) (x : Word) : (s.trapAux c w r x).results = s.results := rfl
@[simp] theorem State.trapAux_accs (s : State) (c w : Nat) (r : BitVec 256) (x : Word) : (s.trapAux c w r x).accs = s.accs := rfl
@[simp] theorem State.trapAux_nextAcc (s : State) (c w : Nat) (r : BitVec 256) (x : Word) : (s.trapAux c w r x).nextAcc = s.nextAcc := rfl
@[simp] theorem State.trapAux_flights (s : State) (c w : Nat) (r : BitVec 256) (x : Word) : (s.trapAux c w r x).flights = s.flights := rfl
@[simp] theorem State.trapAux_nextFlight (s : State) (c w : Nat) (r : BitVec 256) (x : Word) : (s.trapAux c w r x).nextFlight = s.nextFlight := rfl
@[simp] theorem State.trapAux_dies (s : State) (c w : Nat) (r : BitVec 256) (x : Word) : (s.trapAux c w r x).dies = s.dies := rfl
@[simp] theorem State.trapAux_lines (s : State) (c w : Nat) (r : BitVec 256) (x : Word) : (s.trapAux c w r x).lines = s.lines := rfl
@[simp] theorem State.trapAux_graphs (s : State) (c w : Nat) (r : BitVec 256) (x : Word) : (s.trapAux c w r x).graphs = s.graphs := rfl
@[simp] theorem State.trapAux_nextGraph (s : State) (c w : Nat) (r : BitVec 256) (x : Word) : (s.trapAux c w r x).nextGraph = s.nextGraph := rfl
@[simp] theorem State.trapAux_metas (s : State) (c w : Nat) (r : BitVec 256) (x : Word) : (s.trapAux c w r x).metas = s.metas := rfl
@[simp] theorem State.trapAux_ctxs (s : State) (c w : Nat) (r : BitVec 256) (x : Word) : (s.trapAux c w r x).ctxs = s.ctxs := rfl
@[simp] theorem State.trapAux_saved (s : State) (c w : Nat) (r : BitVec 256) (x : Word) : (s.trapAux c w r x).saved = s.saved := rfl
@[simp] theorem State.trapAux_mgmt (s : State) (c w : Nat) (r : BitVec 256) (x : Word) : (s.trapAux c w r x).mgmt = s.mgmt := rfl

@[simp] theorem State.trap_cycle (s : State) (c w : Nat) (r : BitVec 256) : (s.trap c w r).cycle = s.cycle := rfl
@[simp] theorem State.trap_fresh (s : State) (c w : Nat) (r : BitVec 256) : (s.trap c w r).fresh = s.fresh := rfl
@[simp] theorem State.trap_timers (s : State) (c w : Nat) (r : BitVec 256) : (s.trap c w r).timers = s.timers := rfl
@[simp] theorem State.trap_inputs (s : State) (c w : Nat) (r : BitVec 256) : (s.trap c w r).inputs = s.inputs := rfl
@[simp] theorem State.trap_cur (s : State) (c w : Nat) (r : BitVec 256) : (s.trap c w r).cur = s.cur := rfl
@[simp] theorem State.trap_mem (s : State) (c w : Nat) (r : BitVec 256) : (s.trap c w r).mem = s.mem := rfl
@[simp] theorem State.trap_sides (s : State) (c w : Nat) (r : BitVec 256) : (s.trap c w r).sides = s.sides := rfl
@[simp] theorem State.trap_keyed (s : State) (c w : Nat) (r : BitVec 256) : (s.trap c w r).keyed = s.keyed := rfl
@[simp] theorem State.trap_errs (s : State) (c w : Nat) (r : BitVec 256) : (s.trap c w r).errs = s.errs := rfl
@[simp] theorem State.trap_l2 (s : State) (c w : Nat) (r : BitVec 256) : (s.trap c w r).l2 = s.l2 := rfl
@[simp] theorem State.trap_tiles (s : State) (c w : Nat) (r : BitVec 256) : (s.trap c w r).tiles = s.tiles := rfl
@[simp] theorem State.trap_actors (s : State) (c w : Nat) (r : BitVec 256) : (s.trap c w r).actors = s.actors := rfl
@[simp] theorem State.trap_results (s : State) (c w : Nat) (r : BitVec 256) : (s.trap c w r).results = s.results := rfl
@[simp] theorem State.trap_accs (s : State) (c w : Nat) (r : BitVec 256) : (s.trap c w r).accs = s.accs := rfl
@[simp] theorem State.trap_nextAcc (s : State) (c w : Nat) (r : BitVec 256) : (s.trap c w r).nextAcc = s.nextAcc := rfl
@[simp] theorem State.trap_flights (s : State) (c w : Nat) (r : BitVec 256) : (s.trap c w r).flights = s.flights := rfl
@[simp] theorem State.trap_nextFlight (s : State) (c w : Nat) (r : BitVec 256) : (s.trap c w r).nextFlight = s.nextFlight := rfl
@[simp] theorem State.trap_dies (s : State) (c w : Nat) (r : BitVec 256) : (s.trap c w r).dies = s.dies := rfl
@[simp] theorem State.trap_lines (s : State) (c w : Nat) (r : BitVec 256) : (s.trap c w r).lines = s.lines := rfl
@[simp] theorem State.trap_graphs (s : State) (c w : Nat) (r : BitVec 256) : (s.trap c w r).graphs = s.graphs := rfl
@[simp] theorem State.trap_nextGraph (s : State) (c w : Nat) (r : BitVec 256) : (s.trap c w r).nextGraph = s.nextGraph := rfl
@[simp] theorem State.trap_metas (s : State) (c w : Nat) (r : BitVec 256) : (s.trap c w r).metas = s.metas := rfl
@[simp] theorem State.trap_ctxs (s : State) (c w : Nat) (r : BitVec 256) : (s.trap c w r).ctxs = s.ctxs := rfl
@[simp] theorem State.trap_saved (s : State) (c w : Nat) (r : BitVec 256) : (s.trap c w r).saved = s.saved := rfl
@[simp] theorem State.trap_mgmt (s : State) (c w : Nat) (r : BitVec 256) : (s.trap c w r).mgmt = s.mgmt := rfl

@[simp] theorem State.l2Touch_cycle (s : State) (p : Pol) (b : Nat) (w : Bool) : (s.l2Touch p b w).cycle = s.cycle := by
  obtain ⟨e, l, h⟩ := s.l2Touch_eq p b w; rw [h]
@[simp] theorem State.l2Touch_fresh (s : State) (p : Pol) (b : Nat) (w : Bool) : (s.l2Touch p b w).fresh = s.fresh := by
  obtain ⟨e, l, h⟩ := s.l2Touch_eq p b w; rw [h]
@[simp] theorem State.l2Touch_agenda (s : State) (p : Pol) (b : Nat) (w : Bool) : (s.l2Touch p b w).agenda = s.agenda := by
  obtain ⟨e, l, h⟩ := s.l2Touch_eq p b w; rw [h]
@[simp] theorem State.l2Touch_timers (s : State) (p : Pol) (b : Nat) (w : Bool) : (s.l2Touch p b w).timers = s.timers := by
  obtain ⟨e, l, h⟩ := s.l2Touch_eq p b w; rw [h]
@[simp] theorem State.l2Touch_inputs (s : State) (p : Pol) (b : Nat) (w : Bool) : (s.l2Touch p b w).inputs = s.inputs := by
  obtain ⟨e, l, h⟩ := s.l2Touch_eq p b w; rw [h]
@[simp] theorem State.l2Touch_cur (s : State) (p : Pol) (b : Nat) (w : Bool) : (s.l2Touch p b w).cur = s.cur := by
  obtain ⟨e, l, h⟩ := s.l2Touch_eq p b w; rw [h]
@[simp] theorem State.l2Touch_mem (s : State) (p : Pol) (b : Nat) (w : Bool) : (s.l2Touch p b w).mem = s.mem := by
  obtain ⟨e, l, h⟩ := s.l2Touch_eq p b w; rw [h]
@[simp] theorem State.l2Touch_sides (s : State) (p : Pol) (b : Nat) (w : Bool) : (s.l2Touch p b w).sides = s.sides := by
  obtain ⟨e, l, h⟩ := s.l2Touch_eq p b w; rw [h]
@[simp] theorem State.l2Touch_keyed (s : State) (p : Pol) (b : Nat) (w : Bool) : (s.l2Touch p b w).keyed = s.keyed := by
  obtain ⟨e, l, h⟩ := s.l2Touch_eq p b w; rw [h]
@[simp] theorem State.l2Touch_tiles (s : State) (p : Pol) (b : Nat) (w : Bool) : (s.l2Touch p b w).tiles = s.tiles := by
  obtain ⟨e, l, h⟩ := s.l2Touch_eq p b w; rw [h]
@[simp] theorem State.l2Touch_actors (s : State) (p : Pol) (b : Nat) (w : Bool) : (s.l2Touch p b w).actors = s.actors := by
  obtain ⟨e, l, h⟩ := s.l2Touch_eq p b w; rw [h]
@[simp] theorem State.l2Touch_results (s : State) (p : Pol) (b : Nat) (w : Bool) : (s.l2Touch p b w).results = s.results := by
  obtain ⟨e, l, h⟩ := s.l2Touch_eq p b w; rw [h]
@[simp] theorem State.l2Touch_accs (s : State) (p : Pol) (b : Nat) (w : Bool) : (s.l2Touch p b w).accs = s.accs := by
  obtain ⟨e, l, h⟩ := s.l2Touch_eq p b w; rw [h]
@[simp] theorem State.l2Touch_nextAcc (s : State) (p : Pol) (b : Nat) (w : Bool) : (s.l2Touch p b w).nextAcc = s.nextAcc := by
  obtain ⟨e, l, h⟩ := s.l2Touch_eq p b w; rw [h]
@[simp] theorem State.l2Touch_flights (s : State) (p : Pol) (b : Nat) (w : Bool) : (s.l2Touch p b w).flights = s.flights := by
  obtain ⟨e, l, h⟩ := s.l2Touch_eq p b w; rw [h]
@[simp] theorem State.l2Touch_nextFlight (s : State) (p : Pol) (b : Nat) (w : Bool) : (s.l2Touch p b w).nextFlight = s.nextFlight := by
  obtain ⟨e, l, h⟩ := s.l2Touch_eq p b w; rw [h]
@[simp] theorem State.l2Touch_dies (s : State) (p : Pol) (b : Nat) (w : Bool) : (s.l2Touch p b w).dies = s.dies := by
  obtain ⟨e, l, h⟩ := s.l2Touch_eq p b w; rw [h]
@[simp] theorem State.l2Touch_lines (s : State) (p : Pol) (b : Nat) (w : Bool) : (s.l2Touch p b w).lines = s.lines := by
  obtain ⟨e, l, h⟩ := s.l2Touch_eq p b w; rw [h]
@[simp] theorem State.l2Touch_graphs (s : State) (p : Pol) (b : Nat) (w : Bool) : (s.l2Touch p b w).graphs = s.graphs := by
  obtain ⟨e, l, h⟩ := s.l2Touch_eq p b w; rw [h]
@[simp] theorem State.l2Touch_nextGraph (s : State) (p : Pol) (b : Nat) (w : Bool) : (s.l2Touch p b w).nextGraph = s.nextGraph := by
  obtain ⟨e, l, h⟩ := s.l2Touch_eq p b w; rw [h]
@[simp] theorem State.l2Touch_metas (s : State) (p : Pol) (b : Nat) (w : Bool) : (s.l2Touch p b w).metas = s.metas := by
  obtain ⟨e, l, h⟩ := s.l2Touch_eq p b w; rw [h]
@[simp] theorem State.l2Touch_ctxs (s : State) (p : Pol) (b : Nat) (w : Bool) : (s.l2Touch p b w).ctxs = s.ctxs := by
  obtain ⟨e, l, h⟩ := s.l2Touch_eq p b w; rw [h]
@[simp] theorem State.l2Touch_traps (s : State) (p : Pol) (b : Nat) (w : Bool) : (s.l2Touch p b w).traps = s.traps := by
  obtain ⟨e, l, h⟩ := s.l2Touch_eq p b w; rw [h]
@[simp] theorem State.l2Touch_saved (s : State) (p : Pol) (b : Nat) (w : Bool) : (s.l2Touch p b w).saved = s.saved := by
  obtain ⟨e, l, h⟩ := s.l2Touch_eq p b w; rw [h]
@[simp] theorem State.l2Touch_mgmt (s : State) (p : Pol) (b : Nat) (w : Bool) : (s.l2Touch p b w).mgmt = s.mgmt := by
  obtain ⟨e, l, h⟩ := s.l2Touch_eq p b w; rw [h]

@[simp] theorem State.storeMem_cycle (s : State) (k pa : Nat) (b : Block) : (s.storeMem k pa b).cycle = s.cycle := by simp only [State.storeMem]
@[simp] theorem State.storeMem_fresh (s : State) (k pa : Nat) (b : Block) : (s.storeMem k pa b).fresh = s.fresh := by simp only [State.storeMem]
@[simp] theorem State.storeMem_agenda (s : State) (k pa : Nat) (b : Block) : (s.storeMem k pa b).agenda = s.agenda := by simp only [State.storeMem]
@[simp] theorem State.storeMem_timers (s : State) (k pa : Nat) (b : Block) : (s.storeMem k pa b).timers = s.timers := by simp only [State.storeMem]
@[simp] theorem State.storeMem_inputs (s : State) (k pa : Nat) (b : Block) : (s.storeMem k pa b).inputs = s.inputs := by simp only [State.storeMem]
@[simp] theorem State.storeMem_cur (s : State) (k pa : Nat) (b : Block) : (s.storeMem k pa b).cur = s.cur := by simp only [State.storeMem]
@[simp] theorem State.storeMem_l2 (s : State) (k pa : Nat) (b : Block) : (s.storeMem k pa b).l2 = s.l2 := by simp only [State.storeMem]
@[simp] theorem State.storeMem_tiles (s : State) (k pa : Nat) (b : Block) : (s.storeMem k pa b).tiles = s.tiles := by simp only [State.storeMem]
@[simp] theorem State.storeMem_actors (s : State) (k pa : Nat) (b : Block) : (s.storeMem k pa b).actors = s.actors := by simp only [State.storeMem]
@[simp] theorem State.storeMem_results (s : State) (k pa : Nat) (b : Block) : (s.storeMem k pa b).results = s.results := by simp only [State.storeMem]
@[simp] theorem State.storeMem_accs (s : State) (k pa : Nat) (b : Block) : (s.storeMem k pa b).accs = s.accs := by simp only [State.storeMem]
@[simp] theorem State.storeMem_nextAcc (s : State) (k pa : Nat) (b : Block) : (s.storeMem k pa b).nextAcc = s.nextAcc := by simp only [State.storeMem]
@[simp] theorem State.storeMem_flights (s : State) (k pa : Nat) (b : Block) : (s.storeMem k pa b).flights = s.flights := by simp only [State.storeMem]
@[simp] theorem State.storeMem_nextFlight (s : State) (k pa : Nat) (b : Block) : (s.storeMem k pa b).nextFlight = s.nextFlight := by simp only [State.storeMem]
@[simp] theorem State.storeMem_dies (s : State) (k pa : Nat) (b : Block) : (s.storeMem k pa b).dies = s.dies := by simp only [State.storeMem]
@[simp] theorem State.storeMem_lines (s : State) (k pa : Nat) (b : Block) : (s.storeMem k pa b).lines = s.lines := by simp only [State.storeMem]
@[simp] theorem State.storeMem_graphs (s : State) (k pa : Nat) (b : Block) : (s.storeMem k pa b).graphs = s.graphs := by simp only [State.storeMem]
@[simp] theorem State.storeMem_nextGraph (s : State) (k pa : Nat) (b : Block) : (s.storeMem k pa b).nextGraph = s.nextGraph := by simp only [State.storeMem]
@[simp] theorem State.storeMem_metas (s : State) (k pa : Nat) (b : Block) : (s.storeMem k pa b).metas = s.metas := by simp only [State.storeMem]
@[simp] theorem State.storeMem_ctxs (s : State) (k pa : Nat) (b : Block) : (s.storeMem k pa b).ctxs = s.ctxs := by simp only [State.storeMem]
@[simp] theorem State.storeMem_traps (s : State) (k pa : Nat) (b : Block) : (s.storeMem k pa b).traps = s.traps := by simp only [State.storeMem]
@[simp] theorem State.storeMem_saved (s : State) (k pa : Nat) (b : Block) : (s.storeMem k pa b).saved = s.saved := by simp only [State.storeMem]
@[simp] theorem State.storeMem_mgmt (s : State) (k pa : Nat) (b : Block) : (s.storeMem k pa b).mgmt = s.mgmt := by simp only [State.storeMem]

@[simp] theorem State.rewrite_cycle (s : State) (k pa : Nat) (b : Block) : (s.rewrite k pa b).cycle = s.cycle := by simp only [State.rewrite, State.storeMem_cycle]
@[simp] theorem State.rewrite_fresh (s : State) (k pa : Nat) (b : Block) : (s.rewrite k pa b).fresh = s.fresh := by simp only [State.rewrite, State.storeMem_fresh]
@[simp] theorem State.rewrite_agenda (s : State) (k pa : Nat) (b : Block) : (s.rewrite k pa b).agenda = s.agenda := by simp only [State.rewrite, State.storeMem_agenda]
@[simp] theorem State.rewrite_timers (s : State) (k pa : Nat) (b : Block) : (s.rewrite k pa b).timers = s.timers := by simp only [State.rewrite, State.storeMem_timers]
@[simp] theorem State.rewrite_inputs (s : State) (k pa : Nat) (b : Block) : (s.rewrite k pa b).inputs = s.inputs := by simp only [State.rewrite, State.storeMem_inputs]
@[simp] theorem State.rewrite_cur (s : State) (k pa : Nat) (b : Block) : (s.rewrite k pa b).cur = s.cur := by simp only [State.rewrite, State.storeMem_cur]
@[simp] theorem State.rewrite_tiles (s : State) (k pa : Nat) (b : Block) : (s.rewrite k pa b).tiles = s.tiles := by simp only [State.rewrite, State.storeMem_tiles]
@[simp] theorem State.rewrite_actors (s : State) (k pa : Nat) (b : Block) : (s.rewrite k pa b).actors = s.actors := by simp only [State.rewrite, State.storeMem_actors]
@[simp] theorem State.rewrite_results (s : State) (k pa : Nat) (b : Block) : (s.rewrite k pa b).results = s.results := by simp only [State.rewrite, State.storeMem_results]
@[simp] theorem State.rewrite_accs (s : State) (k pa : Nat) (b : Block) : (s.rewrite k pa b).accs = s.accs := by simp only [State.rewrite, State.storeMem_accs]
@[simp] theorem State.rewrite_nextAcc (s : State) (k pa : Nat) (b : Block) : (s.rewrite k pa b).nextAcc = s.nextAcc := by simp only [State.rewrite, State.storeMem_nextAcc]
@[simp] theorem State.rewrite_flights (s : State) (k pa : Nat) (b : Block) : (s.rewrite k pa b).flights = s.flights := by simp only [State.rewrite, State.storeMem_flights]
@[simp] theorem State.rewrite_nextFlight (s : State) (k pa : Nat) (b : Block) : (s.rewrite k pa b).nextFlight = s.nextFlight := by simp only [State.rewrite, State.storeMem_nextFlight]
@[simp] theorem State.rewrite_dies (s : State) (k pa : Nat) (b : Block) : (s.rewrite k pa b).dies = s.dies := by simp only [State.rewrite, State.storeMem_dies]
@[simp] theorem State.rewrite_lines (s : State) (k pa : Nat) (b : Block) : (s.rewrite k pa b).lines = s.lines := by simp only [State.rewrite, State.storeMem_lines]
@[simp] theorem State.rewrite_graphs (s : State) (k pa : Nat) (b : Block) : (s.rewrite k pa b).graphs = s.graphs := by simp only [State.rewrite, State.storeMem_graphs]
@[simp] theorem State.rewrite_nextGraph (s : State) (k pa : Nat) (b : Block) : (s.rewrite k pa b).nextGraph = s.nextGraph := by simp only [State.rewrite, State.storeMem_nextGraph]
@[simp] theorem State.rewrite_metas (s : State) (k pa : Nat) (b : Block) : (s.rewrite k pa b).metas = s.metas := by simp only [State.rewrite, State.storeMem_metas]
@[simp] theorem State.rewrite_ctxs (s : State) (k pa : Nat) (b : Block) : (s.rewrite k pa b).ctxs = s.ctxs := by simp only [State.rewrite, State.storeMem_ctxs]
@[simp] theorem State.rewrite_traps (s : State) (k pa : Nat) (b : Block) : (s.rewrite k pa b).traps = s.traps := by simp only [State.rewrite, State.storeMem_traps]
@[simp] theorem State.rewrite_saved (s : State) (k pa : Nat) (b : Block) : (s.rewrite k pa b).saved = s.saved := by simp only [State.rewrite, State.storeMem_saved]
@[simp] theorem State.rewrite_mgmt (s : State) (k pa : Nat) (b : Block) : (s.rewrite k pa b).mgmt = s.mgmt := by simp only [State.rewrite, State.storeMem_mgmt]

@[simp] theorem State.putAt_cycle (s : State) (p : Pol) (k pa : Nat) (b : Block) : (s.putAt p k pa b).cycle = s.cycle := by simp only [State.putAt, State.l2Touch_cycle, State.storeMem_cycle]
@[simp] theorem State.putAt_fresh (s : State) (p : Pol) (k pa : Nat) (b : Block) : (s.putAt p k pa b).fresh = s.fresh := by simp only [State.putAt, State.l2Touch_fresh, State.storeMem_fresh]
@[simp] theorem State.putAt_agenda (s : State) (p : Pol) (k pa : Nat) (b : Block) : (s.putAt p k pa b).agenda = s.agenda := by simp only [State.putAt, State.l2Touch_agenda, State.storeMem_agenda]
@[simp] theorem State.putAt_timers (s : State) (p : Pol) (k pa : Nat) (b : Block) : (s.putAt p k pa b).timers = s.timers := by simp only [State.putAt, State.l2Touch_timers, State.storeMem_timers]
@[simp] theorem State.putAt_inputs (s : State) (p : Pol) (k pa : Nat) (b : Block) : (s.putAt p k pa b).inputs = s.inputs := by simp only [State.putAt, State.l2Touch_inputs, State.storeMem_inputs]
@[simp] theorem State.putAt_cur (s : State) (p : Pol) (k pa : Nat) (b : Block) : (s.putAt p k pa b).cur = s.cur := by simp only [State.putAt, State.l2Touch_cur, State.storeMem_cur]
@[simp] theorem State.putAt_tiles (s : State) (p : Pol) (k pa : Nat) (b : Block) : (s.putAt p k pa b).tiles = s.tiles := by simp only [State.putAt, State.l2Touch_tiles, State.storeMem_tiles]
@[simp] theorem State.putAt_actors (s : State) (p : Pol) (k pa : Nat) (b : Block) : (s.putAt p k pa b).actors = s.actors := by simp only [State.putAt, State.l2Touch_actors, State.storeMem_actors]
@[simp] theorem State.putAt_results (s : State) (p : Pol) (k pa : Nat) (b : Block) : (s.putAt p k pa b).results = s.results := by simp only [State.putAt, State.l2Touch_results, State.storeMem_results]
@[simp] theorem State.putAt_accs (s : State) (p : Pol) (k pa : Nat) (b : Block) : (s.putAt p k pa b).accs = s.accs := by simp only [State.putAt, State.l2Touch_accs, State.storeMem_accs]
@[simp] theorem State.putAt_nextAcc (s : State) (p : Pol) (k pa : Nat) (b : Block) : (s.putAt p k pa b).nextAcc = s.nextAcc := by simp only [State.putAt, State.l2Touch_nextAcc, State.storeMem_nextAcc]
@[simp] theorem State.putAt_flights (s : State) (p : Pol) (k pa : Nat) (b : Block) : (s.putAt p k pa b).flights = s.flights := by simp only [State.putAt, State.l2Touch_flights, State.storeMem_flights]
@[simp] theorem State.putAt_nextFlight (s : State) (p : Pol) (k pa : Nat) (b : Block) : (s.putAt p k pa b).nextFlight = s.nextFlight := by simp only [State.putAt, State.l2Touch_nextFlight, State.storeMem_nextFlight]
@[simp] theorem State.putAt_dies (s : State) (p : Pol) (k pa : Nat) (b : Block) : (s.putAt p k pa b).dies = s.dies := by simp only [State.putAt, State.l2Touch_dies, State.storeMem_dies]
@[simp] theorem State.putAt_lines (s : State) (p : Pol) (k pa : Nat) (b : Block) : (s.putAt p k pa b).lines = s.lines := by simp only [State.putAt, State.l2Touch_lines, State.storeMem_lines]
@[simp] theorem State.putAt_graphs (s : State) (p : Pol) (k pa : Nat) (b : Block) : (s.putAt p k pa b).graphs = s.graphs := by simp only [State.putAt, State.l2Touch_graphs, State.storeMem_graphs]
@[simp] theorem State.putAt_nextGraph (s : State) (p : Pol) (k pa : Nat) (b : Block) : (s.putAt p k pa b).nextGraph = s.nextGraph := by simp only [State.putAt, State.l2Touch_nextGraph, State.storeMem_nextGraph]
@[simp] theorem State.putAt_metas (s : State) (p : Pol) (k pa : Nat) (b : Block) : (s.putAt p k pa b).metas = s.metas := by simp only [State.putAt, State.l2Touch_metas, State.storeMem_metas]
@[simp] theorem State.putAt_ctxs (s : State) (p : Pol) (k pa : Nat) (b : Block) : (s.putAt p k pa b).ctxs = s.ctxs := by simp only [State.putAt, State.l2Touch_ctxs, State.storeMem_ctxs]
@[simp] theorem State.putAt_traps (s : State) (p : Pol) (k pa : Nat) (b : Block) : (s.putAt p k pa b).traps = s.traps := by simp only [State.putAt, State.l2Touch_traps, State.storeMem_traps]
@[simp] theorem State.putAt_saved (s : State) (p : Pol) (k pa : Nat) (b : Block) : (s.putAt p k pa b).saved = s.saved := by simp only [State.putAt, State.l2Touch_saved, State.storeMem_saved]
@[simp] theorem State.putAt_mgmt (s : State) (p : Pol) (k pa : Nat) (b : Block) : (s.putAt p k pa b).mgmt = s.mgmt := by simp only [State.putAt, State.l2Touch_mgmt, State.storeMem_mgmt]

@[simp] theorem State.putBlock_cycle (s : State) (k pa : Nat) (b : Block) : (s.putBlock k pa b).cycle = s.cycle := by simp only [State.putBlock, State.putAt_cycle]
@[simp] theorem State.putBlock_fresh (s : State) (k pa : Nat) (b : Block) : (s.putBlock k pa b).fresh = s.fresh := by simp only [State.putBlock, State.putAt_fresh]
@[simp] theorem State.putBlock_agenda (s : State) (k pa : Nat) (b : Block) : (s.putBlock k pa b).agenda = s.agenda := by simp only [State.putBlock, State.putAt_agenda]
@[simp] theorem State.putBlock_timers (s : State) (k pa : Nat) (b : Block) : (s.putBlock k pa b).timers = s.timers := by simp only [State.putBlock, State.putAt_timers]
@[simp] theorem State.putBlock_inputs (s : State) (k pa : Nat) (b : Block) : (s.putBlock k pa b).inputs = s.inputs := by simp only [State.putBlock, State.putAt_inputs]
@[simp] theorem State.putBlock_cur (s : State) (k pa : Nat) (b : Block) : (s.putBlock k pa b).cur = s.cur := by simp only [State.putBlock, State.putAt_cur]
@[simp] theorem State.putBlock_tiles (s : State) (k pa : Nat) (b : Block) : (s.putBlock k pa b).tiles = s.tiles := by simp only [State.putBlock, State.putAt_tiles]
@[simp] theorem State.putBlock_actors (s : State) (k pa : Nat) (b : Block) : (s.putBlock k pa b).actors = s.actors := by simp only [State.putBlock, State.putAt_actors]
@[simp] theorem State.putBlock_results (s : State) (k pa : Nat) (b : Block) : (s.putBlock k pa b).results = s.results := by simp only [State.putBlock, State.putAt_results]
@[simp] theorem State.putBlock_accs (s : State) (k pa : Nat) (b : Block) : (s.putBlock k pa b).accs = s.accs := by simp only [State.putBlock, State.putAt_accs]
@[simp] theorem State.putBlock_nextAcc (s : State) (k pa : Nat) (b : Block) : (s.putBlock k pa b).nextAcc = s.nextAcc := by simp only [State.putBlock, State.putAt_nextAcc]
@[simp] theorem State.putBlock_flights (s : State) (k pa : Nat) (b : Block) : (s.putBlock k pa b).flights = s.flights := by simp only [State.putBlock, State.putAt_flights]
@[simp] theorem State.putBlock_nextFlight (s : State) (k pa : Nat) (b : Block) : (s.putBlock k pa b).nextFlight = s.nextFlight := by simp only [State.putBlock, State.putAt_nextFlight]
@[simp] theorem State.putBlock_dies (s : State) (k pa : Nat) (b : Block) : (s.putBlock k pa b).dies = s.dies := by simp only [State.putBlock, State.putAt_dies]
@[simp] theorem State.putBlock_lines (s : State) (k pa : Nat) (b : Block) : (s.putBlock k pa b).lines = s.lines := by simp only [State.putBlock, State.putAt_lines]
@[simp] theorem State.putBlock_graphs (s : State) (k pa : Nat) (b : Block) : (s.putBlock k pa b).graphs = s.graphs := by simp only [State.putBlock, State.putAt_graphs]
@[simp] theorem State.putBlock_nextGraph (s : State) (k pa : Nat) (b : Block) : (s.putBlock k pa b).nextGraph = s.nextGraph := by simp only [State.putBlock, State.putAt_nextGraph]
@[simp] theorem State.putBlock_metas (s : State) (k pa : Nat) (b : Block) : (s.putBlock k pa b).metas = s.metas := by simp only [State.putBlock, State.putAt_metas]
@[simp] theorem State.putBlock_ctxs (s : State) (k pa : Nat) (b : Block) : (s.putBlock k pa b).ctxs = s.ctxs := by simp only [State.putBlock, State.putAt_ctxs]
@[simp] theorem State.putBlock_traps (s : State) (k pa : Nat) (b : Block) : (s.putBlock k pa b).traps = s.traps := by simp only [State.putBlock, State.putAt_traps]
@[simp] theorem State.putBlock_saved (s : State) (k pa : Nat) (b : Block) : (s.putBlock k pa b).saved = s.saved := by simp only [State.putBlock, State.putAt_saved]
@[simp] theorem State.putBlock_mgmt (s : State) (k pa : Nat) (b : Block) : (s.putBlock k pa b).mgmt = s.mgmt := by simp only [State.putBlock, State.putAt_mgmt]

@[simp] theorem State.strayed_cycle (s : State) : (s.strayed).cycle = s.cycle := rfl
@[simp] theorem State.strayed_fresh (s : State) : (s.strayed).fresh = s.fresh := rfl
@[simp] theorem State.strayed_agenda (s : State) : (s.strayed).agenda = s.agenda := rfl
@[simp] theorem State.strayed_timers (s : State) : (s.strayed).timers = s.timers := rfl
@[simp] theorem State.strayed_inputs (s : State) : (s.strayed).inputs = s.inputs := rfl
@[simp] theorem State.strayed_cur (s : State) : (s.strayed).cur = s.cur := rfl
@[simp] theorem State.strayed_mem (s : State) : (s.strayed).mem = s.mem := rfl
@[simp] theorem State.strayed_sides (s : State) : (s.strayed).sides = s.sides := rfl
@[simp] theorem State.strayed_keyed (s : State) : (s.strayed).keyed = s.keyed := rfl
@[simp] theorem State.strayed_errs (s : State) : (s.strayed).errs = s.errs := rfl
@[simp] theorem State.strayed_l2 (s : State) : (s.strayed).l2 = s.l2 := rfl
@[simp] theorem State.strayed_tiles (s : State) : (s.strayed).tiles = s.tiles := rfl
@[simp] theorem State.strayed_actors (s : State) : (s.strayed).actors = s.actors := rfl
@[simp] theorem State.strayed_results (s : State) : (s.strayed).results = s.results := rfl
@[simp] theorem State.strayed_accs (s : State) : (s.strayed).accs = s.accs := rfl
@[simp] theorem State.strayed_nextAcc (s : State) : (s.strayed).nextAcc = s.nextAcc := rfl
@[simp] theorem State.strayed_flights (s : State) : (s.strayed).flights = s.flights := rfl
@[simp] theorem State.strayed_nextFlight (s : State) : (s.strayed).nextFlight = s.nextFlight := rfl
@[simp] theorem State.strayed_dies (s : State) : (s.strayed).dies = s.dies := rfl
@[simp] theorem State.strayed_lines (s : State) : (s.strayed).lines = s.lines := rfl
@[simp] theorem State.strayed_graphs (s : State) : (s.strayed).graphs = s.graphs := rfl
@[simp] theorem State.strayed_nextGraph (s : State) : (s.strayed).nextGraph = s.nextGraph := rfl
@[simp] theorem State.strayed_metas (s : State) : (s.strayed).metas = s.metas := rfl
@[simp] theorem State.strayed_ctxs (s : State) : (s.strayed).ctxs = s.ctxs := rfl
@[simp] theorem State.strayed_traps (s : State) : (s.strayed).traps = s.traps := rfl
@[simp] theorem State.strayed_saved (s : State) : (s.strayed).saved = s.saved := rfl

@[simp] theorem State.logRec_cycle (s : State) (r : Blk) : (s.logRec r).cycle = s.cycle := rfl
@[simp] theorem State.logRec_fresh (s : State) (r : Blk) : (s.logRec r).fresh = s.fresh := rfl
@[simp] theorem State.logRec_agenda (s : State) (r : Blk) : (s.logRec r).agenda = s.agenda := rfl
@[simp] theorem State.logRec_timers (s : State) (r : Blk) : (s.logRec r).timers = s.timers := rfl
@[simp] theorem State.logRec_inputs (s : State) (r : Blk) : (s.logRec r).inputs = s.inputs := rfl
@[simp] theorem State.logRec_cur (s : State) (r : Blk) : (s.logRec r).cur = s.cur := rfl
@[simp] theorem State.logRec_mem (s : State) (r : Blk) : (s.logRec r).mem = s.mem := rfl
@[simp] theorem State.logRec_sides (s : State) (r : Blk) : (s.logRec r).sides = s.sides := rfl
@[simp] theorem State.logRec_keyed (s : State) (r : Blk) : (s.logRec r).keyed = s.keyed := rfl
@[simp] theorem State.logRec_errs (s : State) (r : Blk) : (s.logRec r).errs = s.errs := rfl
@[simp] theorem State.logRec_l2 (s : State) (r : Blk) : (s.logRec r).l2 = s.l2 := rfl
@[simp] theorem State.logRec_tiles (s : State) (r : Blk) : (s.logRec r).tiles = s.tiles := rfl
@[simp] theorem State.logRec_actors (s : State) (r : Blk) : (s.logRec r).actors = s.actors := rfl
@[simp] theorem State.logRec_results (s : State) (r : Blk) : (s.logRec r).results = s.results := rfl
@[simp] theorem State.logRec_accs (s : State) (r : Blk) : (s.logRec r).accs = s.accs := rfl
@[simp] theorem State.logRec_nextAcc (s : State) (r : Blk) : (s.logRec r).nextAcc = s.nextAcc := rfl
@[simp] theorem State.logRec_flights (s : State) (r : Blk) : (s.logRec r).flights = s.flights := rfl
@[simp] theorem State.logRec_nextFlight (s : State) (r : Blk) : (s.logRec r).nextFlight = s.nextFlight := rfl
@[simp] theorem State.logRec_dies (s : State) (r : Blk) : (s.logRec r).dies = s.dies := rfl
@[simp] theorem State.logRec_lines (s : State) (r : Blk) : (s.logRec r).lines = s.lines := rfl
@[simp] theorem State.logRec_graphs (s : State) (r : Blk) : (s.logRec r).graphs = s.graphs := rfl
@[simp] theorem State.logRec_nextGraph (s : State) (r : Blk) : (s.logRec r).nextGraph = s.nextGraph := rfl
@[simp] theorem State.logRec_metas (s : State) (r : Blk) : (s.logRec r).metas = s.metas := rfl
@[simp] theorem State.logRec_ctxs (s : State) (r : Blk) : (s.logRec r).ctxs = s.ctxs := rfl
@[simp] theorem State.logRec_traps (s : State) (r : Blk) : (s.logRec r).traps = s.traps := rfl
@[simp] theorem State.logRec_saved (s : State) (r : Blk) : (s.logRec r).saved = s.saved := rfl

@[simp] theorem State.modAcc_cycle (s : State) (i : Nat) (f : Access → Access) : (s.modAcc i f).cycle = s.cycle := rfl
@[simp] theorem State.modAcc_fresh (s : State) (i : Nat) (f : Access → Access) : (s.modAcc i f).fresh = s.fresh := rfl
@[simp] theorem State.modAcc_agenda (s : State) (i : Nat) (f : Access → Access) : (s.modAcc i f).agenda = s.agenda := rfl
@[simp] theorem State.modAcc_timers (s : State) (i : Nat) (f : Access → Access) : (s.modAcc i f).timers = s.timers := rfl
@[simp] theorem State.modAcc_inputs (s : State) (i : Nat) (f : Access → Access) : (s.modAcc i f).inputs = s.inputs := rfl
@[simp] theorem State.modAcc_cur (s : State) (i : Nat) (f : Access → Access) : (s.modAcc i f).cur = s.cur := rfl
@[simp] theorem State.modAcc_mem (s : State) (i : Nat) (f : Access → Access) : (s.modAcc i f).mem = s.mem := rfl
@[simp] theorem State.modAcc_sides (s : State) (i : Nat) (f : Access → Access) : (s.modAcc i f).sides = s.sides := rfl
@[simp] theorem State.modAcc_keyed (s : State) (i : Nat) (f : Access → Access) : (s.modAcc i f).keyed = s.keyed := rfl
@[simp] theorem State.modAcc_errs (s : State) (i : Nat) (f : Access → Access) : (s.modAcc i f).errs = s.errs := rfl
@[simp] theorem State.modAcc_l2 (s : State) (i : Nat) (f : Access → Access) : (s.modAcc i f).l2 = s.l2 := rfl
@[simp] theorem State.modAcc_tiles (s : State) (i : Nat) (f : Access → Access) : (s.modAcc i f).tiles = s.tiles := rfl
@[simp] theorem State.modAcc_actors (s : State) (i : Nat) (f : Access → Access) : (s.modAcc i f).actors = s.actors := rfl
@[simp] theorem State.modAcc_results (s : State) (i : Nat) (f : Access → Access) : (s.modAcc i f).results = s.results := rfl
@[simp] theorem State.modAcc_nextAcc (s : State) (i : Nat) (f : Access → Access) : (s.modAcc i f).nextAcc = s.nextAcc := rfl
@[simp] theorem State.modAcc_flights (s : State) (i : Nat) (f : Access → Access) : (s.modAcc i f).flights = s.flights := rfl
@[simp] theorem State.modAcc_nextFlight (s : State) (i : Nat) (f : Access → Access) : (s.modAcc i f).nextFlight = s.nextFlight := rfl
@[simp] theorem State.modAcc_dies (s : State) (i : Nat) (f : Access → Access) : (s.modAcc i f).dies = s.dies := rfl
@[simp] theorem State.modAcc_lines (s : State) (i : Nat) (f : Access → Access) : (s.modAcc i f).lines = s.lines := rfl
@[simp] theorem State.modAcc_graphs (s : State) (i : Nat) (f : Access → Access) : (s.modAcc i f).graphs = s.graphs := rfl
@[simp] theorem State.modAcc_nextGraph (s : State) (i : Nat) (f : Access → Access) : (s.modAcc i f).nextGraph = s.nextGraph := rfl
@[simp] theorem State.modAcc_metas (s : State) (i : Nat) (f : Access → Access) : (s.modAcc i f).metas = s.metas := rfl
@[simp] theorem State.modAcc_ctxs (s : State) (i : Nat) (f : Access → Access) : (s.modAcc i f).ctxs = s.ctxs := rfl
@[simp] theorem State.modAcc_traps (s : State) (i : Nat) (f : Access → Access) : (s.modAcc i f).traps = s.traps := rfl
@[simp] theorem State.modAcc_saved (s : State) (i : Nat) (f : Access → Access) : (s.modAcc i f).saved = s.saved := rfl
@[simp] theorem State.modAcc_mgmt (s : State) (i : Nat) (f : Access → Access) : (s.modAcc i f).mgmt = s.mgmt := rfl

@[simp] theorem State.delAcc_cycle (s : State) (i : Nat) : (s.delAcc i).cycle = s.cycle := rfl
@[simp] theorem State.delAcc_fresh (s : State) (i : Nat) : (s.delAcc i).fresh = s.fresh := rfl
@[simp] theorem State.delAcc_agenda (s : State) (i : Nat) : (s.delAcc i).agenda = s.agenda := rfl
@[simp] theorem State.delAcc_timers (s : State) (i : Nat) : (s.delAcc i).timers = s.timers := rfl
@[simp] theorem State.delAcc_inputs (s : State) (i : Nat) : (s.delAcc i).inputs = s.inputs := rfl
@[simp] theorem State.delAcc_cur (s : State) (i : Nat) : (s.delAcc i).cur = s.cur := rfl
@[simp] theorem State.delAcc_mem (s : State) (i : Nat) : (s.delAcc i).mem = s.mem := rfl
@[simp] theorem State.delAcc_sides (s : State) (i : Nat) : (s.delAcc i).sides = s.sides := rfl
@[simp] theorem State.delAcc_keyed (s : State) (i : Nat) : (s.delAcc i).keyed = s.keyed := rfl
@[simp] theorem State.delAcc_errs (s : State) (i : Nat) : (s.delAcc i).errs = s.errs := rfl
@[simp] theorem State.delAcc_l2 (s : State) (i : Nat) : (s.delAcc i).l2 = s.l2 := rfl
@[simp] theorem State.delAcc_tiles (s : State) (i : Nat) : (s.delAcc i).tiles = s.tiles := rfl
@[simp] theorem State.delAcc_actors (s : State) (i : Nat) : (s.delAcc i).actors = s.actors := rfl
@[simp] theorem State.delAcc_results (s : State) (i : Nat) : (s.delAcc i).results = s.results := rfl
@[simp] theorem State.delAcc_nextAcc (s : State) (i : Nat) : (s.delAcc i).nextAcc = s.nextAcc := rfl
@[simp] theorem State.delAcc_flights (s : State) (i : Nat) : (s.delAcc i).flights = s.flights := rfl
@[simp] theorem State.delAcc_nextFlight (s : State) (i : Nat) : (s.delAcc i).nextFlight = s.nextFlight := rfl
@[simp] theorem State.delAcc_dies (s : State) (i : Nat) : (s.delAcc i).dies = s.dies := rfl
@[simp] theorem State.delAcc_lines (s : State) (i : Nat) : (s.delAcc i).lines = s.lines := rfl
@[simp] theorem State.delAcc_graphs (s : State) (i : Nat) : (s.delAcc i).graphs = s.graphs := rfl
@[simp] theorem State.delAcc_nextGraph (s : State) (i : Nat) : (s.delAcc i).nextGraph = s.nextGraph := rfl
@[simp] theorem State.delAcc_metas (s : State) (i : Nat) : (s.delAcc i).metas = s.metas := rfl
@[simp] theorem State.delAcc_ctxs (s : State) (i : Nat) : (s.delAcc i).ctxs = s.ctxs := rfl
@[simp] theorem State.delAcc_traps (s : State) (i : Nat) : (s.delAcc i).traps = s.traps := rfl
@[simp] theorem State.delAcc_saved (s : State) (i : Nat) : (s.delAcc i).saved = s.saved := rfl
@[simp] theorem State.delAcc_mgmt (s : State) (i : Nat) : (s.delAcc i).mgmt = s.mgmt := rfl

@[simp] theorem State.joinWait_cycle (s : State) (i : Nat) : (s.joinWait i).cycle = s.cycle := rfl
@[simp] theorem State.joinWait_fresh (s : State) (i : Nat) : (s.joinWait i).fresh = s.fresh := rfl
@[simp] theorem State.joinWait_agenda (s : State) (i : Nat) : (s.joinWait i).agenda = s.agenda := rfl
@[simp] theorem State.joinWait_timers (s : State) (i : Nat) : (s.joinWait i).timers = s.timers := rfl
@[simp] theorem State.joinWait_inputs (s : State) (i : Nat) : (s.joinWait i).inputs = s.inputs := rfl
@[simp] theorem State.joinWait_cur (s : State) (i : Nat) : (s.joinWait i).cur = s.cur := rfl
@[simp] theorem State.joinWait_mem (s : State) (i : Nat) : (s.joinWait i).mem = s.mem := rfl
@[simp] theorem State.joinWait_sides (s : State) (i : Nat) : (s.joinWait i).sides = s.sides := rfl
@[simp] theorem State.joinWait_keyed (s : State) (i : Nat) : (s.joinWait i).keyed = s.keyed := rfl
@[simp] theorem State.joinWait_errs (s : State) (i : Nat) : (s.joinWait i).errs = s.errs := rfl
@[simp] theorem State.joinWait_l2 (s : State) (i : Nat) : (s.joinWait i).l2 = s.l2 := rfl
@[simp] theorem State.joinWait_tiles (s : State) (i : Nat) : (s.joinWait i).tiles = s.tiles := rfl
@[simp] theorem State.joinWait_actors (s : State) (i : Nat) : (s.joinWait i).actors = s.actors := rfl
@[simp] theorem State.joinWait_results (s : State) (i : Nat) : (s.joinWait i).results = s.results := rfl
@[simp] theorem State.joinWait_nextAcc (s : State) (i : Nat) : (s.joinWait i).nextAcc = s.nextAcc := rfl
@[simp] theorem State.joinWait_flights (s : State) (i : Nat) : (s.joinWait i).flights = s.flights := rfl
@[simp] theorem State.joinWait_nextFlight (s : State) (i : Nat) : (s.joinWait i).nextFlight = s.nextFlight := rfl
@[simp] theorem State.joinWait_dies (s : State) (i : Nat) : (s.joinWait i).dies = s.dies := rfl
@[simp] theorem State.joinWait_lines (s : State) (i : Nat) : (s.joinWait i).lines = s.lines := rfl
@[simp] theorem State.joinWait_graphs (s : State) (i : Nat) : (s.joinWait i).graphs = s.graphs := rfl
@[simp] theorem State.joinWait_nextGraph (s : State) (i : Nat) : (s.joinWait i).nextGraph = s.nextGraph := rfl
@[simp] theorem State.joinWait_metas (s : State) (i : Nat) : (s.joinWait i).metas = s.metas := rfl
@[simp] theorem State.joinWait_ctxs (s : State) (i : Nat) : (s.joinWait i).ctxs = s.ctxs := rfl
@[simp] theorem State.joinWait_traps (s : State) (i : Nat) : (s.joinWait i).traps = s.traps := rfl
@[simp] theorem State.joinWait_saved (s : State) (i : Nat) : (s.joinWait i).saved = s.saved := rfl
@[simp] theorem State.joinWait_mgmt (s : State) (i : Nat) : (s.joinWait i).mgmt = s.mgmt := rfl

@[simp] theorem State.answer_cycle (s : State) (i : Nat) (a : Answer) : (s.answer i a).cycle = s.cycle := by simp [State.answer]
@[simp] theorem State.answer_agenda (s : State) (i : Nat) (a : Answer) : (s.answer i a).agenda = s.agenda := by simp [State.answer]
@[simp] theorem State.answer_inputs (s : State) (i : Nat) (a : Answer) : (s.answer i a).inputs = s.inputs := by simp [State.answer]
@[simp] theorem State.answer_cur (s : State) (i : Nat) (a : Answer) : (s.answer i a).cur = s.cur := by simp [State.answer]
@[simp] theorem State.answer_mem (s : State) (i : Nat) (a : Answer) : (s.answer i a).mem = s.mem := by simp [State.answer]
@[simp] theorem State.answer_sides (s : State) (i : Nat) (a : Answer) : (s.answer i a).sides = s.sides := by simp [State.answer]
@[simp] theorem State.answer_keyed (s : State) (i : Nat) (a : Answer) : (s.answer i a).keyed = s.keyed := by simp [State.answer]
@[simp] theorem State.answer_errs (s : State) (i : Nat) (a : Answer) : (s.answer i a).errs = s.errs := by simp [State.answer]
@[simp] theorem State.answer_l2 (s : State) (i : Nat) (a : Answer) : (s.answer i a).l2 = s.l2 := by simp [State.answer]
@[simp] theorem State.answer_tiles (s : State) (i : Nat) (a : Answer) : (s.answer i a).tiles = s.tiles := by simp [State.answer]
@[simp] theorem State.answer_actors (s : State) (i : Nat) (a : Answer) : (s.answer i a).actors = s.actors := by simp [State.answer]
@[simp] theorem State.answer_results (s : State) (i : Nat) (a : Answer) : (s.answer i a).results = s.results := by simp [State.answer]
@[simp] theorem State.answer_nextAcc (s : State) (i : Nat) (a : Answer) : (s.answer i a).nextAcc = s.nextAcc := by simp [State.answer]
@[simp] theorem State.answer_flights (s : State) (i : Nat) (a : Answer) : (s.answer i a).flights = s.flights := by simp [State.answer]
@[simp] theorem State.answer_nextFlight (s : State) (i : Nat) (a : Answer) : (s.answer i a).nextFlight = s.nextFlight := by simp [State.answer]
@[simp] theorem State.answer_dies (s : State) (i : Nat) (a : Answer) : (s.answer i a).dies = s.dies := by simp [State.answer]
@[simp] theorem State.answer_lines (s : State) (i : Nat) (a : Answer) : (s.answer i a).lines = s.lines := by simp [State.answer]
@[simp] theorem State.answer_graphs (s : State) (i : Nat) (a : Answer) : (s.answer i a).graphs = s.graphs := by simp [State.answer]
@[simp] theorem State.answer_nextGraph (s : State) (i : Nat) (a : Answer) : (s.answer i a).nextGraph = s.nextGraph := by simp [State.answer]
@[simp] theorem State.answer_metas (s : State) (i : Nat) (a : Answer) : (s.answer i a).metas = s.metas := by simp [State.answer]
@[simp] theorem State.answer_ctxs (s : State) (i : Nat) (a : Answer) : (s.answer i a).ctxs = s.ctxs := by simp [State.answer]
@[simp] theorem State.answer_traps (s : State) (i : Nat) (a : Answer) : (s.answer i a).traps = s.traps := by simp [State.answer]
@[simp] theorem State.answer_saved (s : State) (i : Nat) (a : Answer) : (s.answer i a).saved = s.saved := by simp [State.answer]
@[simp] theorem State.answer_mgmt (s : State) (i : Nat) (a : Answer) : (s.answer i a).mgmt = s.mgmt := by simp [State.answer]

@[simp] theorem State.modLine_cycle (s : State) (k : Nat) (f : Line → Line) : (s.modLine k f).cycle = s.cycle := by
  unfold State.modLine; split <;> rfl
@[simp] theorem State.modLine_fresh (s : State) (k : Nat) (f : Line → Line) : (s.modLine k f).fresh = s.fresh := by
  unfold State.modLine; split <;> rfl
@[simp] theorem State.modLine_agenda (s : State) (k : Nat) (f : Line → Line) : (s.modLine k f).agenda = s.agenda := by
  unfold State.modLine; split <;> rfl
@[simp] theorem State.modLine_timers (s : State) (k : Nat) (f : Line → Line) : (s.modLine k f).timers = s.timers := by
  unfold State.modLine; split <;> rfl
@[simp] theorem State.modLine_inputs (s : State) (k : Nat) (f : Line → Line) : (s.modLine k f).inputs = s.inputs := by
  unfold State.modLine; split <;> rfl
@[simp] theorem State.modLine_cur (s : State) (k : Nat) (f : Line → Line) : (s.modLine k f).cur = s.cur := by
  unfold State.modLine; split <;> rfl
@[simp] theorem State.modLine_mem (s : State) (k : Nat) (f : Line → Line) : (s.modLine k f).mem = s.mem := by
  unfold State.modLine; split <;> rfl
@[simp] theorem State.modLine_sides (s : State) (k : Nat) (f : Line → Line) : (s.modLine k f).sides = s.sides := by
  unfold State.modLine; split <;> rfl
@[simp] theorem State.modLine_keyed (s : State) (k : Nat) (f : Line → Line) : (s.modLine k f).keyed = s.keyed := by
  unfold State.modLine; split <;> rfl
@[simp] theorem State.modLine_errs (s : State) (k : Nat) (f : Line → Line) : (s.modLine k f).errs = s.errs := by
  unfold State.modLine; split <;> rfl
@[simp] theorem State.modLine_l2 (s : State) (k : Nat) (f : Line → Line) : (s.modLine k f).l2 = s.l2 := by
  unfold State.modLine; split <;> rfl
@[simp] theorem State.modLine_tiles (s : State) (k : Nat) (f : Line → Line) : (s.modLine k f).tiles = s.tiles := by
  unfold State.modLine; split <;> rfl
@[simp] theorem State.modLine_actors (s : State) (k : Nat) (f : Line → Line) : (s.modLine k f).actors = s.actors := by
  unfold State.modLine; split <;> rfl
@[simp] theorem State.modLine_results (s : State) (k : Nat) (f : Line → Line) : (s.modLine k f).results = s.results := by
  unfold State.modLine; split <;> rfl
@[simp] theorem State.modLine_accs (s : State) (k : Nat) (f : Line → Line) : (s.modLine k f).accs = s.accs := by
  unfold State.modLine; split <;> rfl
@[simp] theorem State.modLine_nextAcc (s : State) (k : Nat) (f : Line → Line) : (s.modLine k f).nextAcc = s.nextAcc := by
  unfold State.modLine; split <;> rfl
@[simp] theorem State.modLine_flights (s : State) (k : Nat) (f : Line → Line) : (s.modLine k f).flights = s.flights := by
  unfold State.modLine; split <;> rfl
@[simp] theorem State.modLine_nextFlight (s : State) (k : Nat) (f : Line → Line) : (s.modLine k f).nextFlight = s.nextFlight := by
  unfold State.modLine; split <;> rfl
@[simp] theorem State.modLine_dies (s : State) (k : Nat) (f : Line → Line) : (s.modLine k f).dies = s.dies := by
  unfold State.modLine; split <;> rfl
@[simp] theorem State.modLine_graphs (s : State) (k : Nat) (f : Line → Line) : (s.modLine k f).graphs = s.graphs := by
  unfold State.modLine; split <;> rfl
@[simp] theorem State.modLine_nextGraph (s : State) (k : Nat) (f : Line → Line) : (s.modLine k f).nextGraph = s.nextGraph := by
  unfold State.modLine; split <;> rfl
@[simp] theorem State.modLine_metas (s : State) (k : Nat) (f : Line → Line) : (s.modLine k f).metas = s.metas := by
  unfold State.modLine; split <;> rfl
@[simp] theorem State.modLine_ctxs (s : State) (k : Nat) (f : Line → Line) : (s.modLine k f).ctxs = s.ctxs := by
  unfold State.modLine; split <;> rfl
@[simp] theorem State.modLine_traps (s : State) (k : Nat) (f : Line → Line) : (s.modLine k f).traps = s.traps := by
  unfold State.modLine; split <;> rfl
@[simp] theorem State.modLine_saved (s : State) (k : Nat) (f : Line → Line) : (s.modLine k f).saved = s.saved := by
  unfold State.modLine; split <;> rfl
@[simp] theorem State.modLine_mgmt (s : State) (k : Nat) (f : Line → Line) : (s.modLine k f).mgmt = s.mgmt := by
  unfold State.modLine; split <;> rfl

@[simp] theorem State.modCtx_cycle (s : State) (k : Nat) (f : Ctx → Ctx) : (s.modCtx k f).cycle = s.cycle := by
  unfold State.modCtx; split <;> rfl
@[simp] theorem State.modCtx_fresh (s : State) (k : Nat) (f : Ctx → Ctx) : (s.modCtx k f).fresh = s.fresh := by
  unfold State.modCtx; split <;> rfl
@[simp] theorem State.modCtx_agenda (s : State) (k : Nat) (f : Ctx → Ctx) : (s.modCtx k f).agenda = s.agenda := by
  unfold State.modCtx; split <;> rfl
@[simp] theorem State.modCtx_timers (s : State) (k : Nat) (f : Ctx → Ctx) : (s.modCtx k f).timers = s.timers := by
  unfold State.modCtx; split <;> rfl
@[simp] theorem State.modCtx_inputs (s : State) (k : Nat) (f : Ctx → Ctx) : (s.modCtx k f).inputs = s.inputs := by
  unfold State.modCtx; split <;> rfl
@[simp] theorem State.modCtx_cur (s : State) (k : Nat) (f : Ctx → Ctx) : (s.modCtx k f).cur = s.cur := by
  unfold State.modCtx; split <;> rfl
@[simp] theorem State.modCtx_mem (s : State) (k : Nat) (f : Ctx → Ctx) : (s.modCtx k f).mem = s.mem := by
  unfold State.modCtx; split <;> rfl
@[simp] theorem State.modCtx_sides (s : State) (k : Nat) (f : Ctx → Ctx) : (s.modCtx k f).sides = s.sides := by
  unfold State.modCtx; split <;> rfl
@[simp] theorem State.modCtx_keyed (s : State) (k : Nat) (f : Ctx → Ctx) : (s.modCtx k f).keyed = s.keyed := by
  unfold State.modCtx; split <;> rfl
@[simp] theorem State.modCtx_errs (s : State) (k : Nat) (f : Ctx → Ctx) : (s.modCtx k f).errs = s.errs := by
  unfold State.modCtx; split <;> rfl
@[simp] theorem State.modCtx_l2 (s : State) (k : Nat) (f : Ctx → Ctx) : (s.modCtx k f).l2 = s.l2 := by
  unfold State.modCtx; split <;> rfl
@[simp] theorem State.modCtx_tiles (s : State) (k : Nat) (f : Ctx → Ctx) : (s.modCtx k f).tiles = s.tiles := by
  unfold State.modCtx; split <;> rfl
@[simp] theorem State.modCtx_actors (s : State) (k : Nat) (f : Ctx → Ctx) : (s.modCtx k f).actors = s.actors := by
  unfold State.modCtx; split <;> rfl
@[simp] theorem State.modCtx_results (s : State) (k : Nat) (f : Ctx → Ctx) : (s.modCtx k f).results = s.results := by
  unfold State.modCtx; split <;> rfl
@[simp] theorem State.modCtx_accs (s : State) (k : Nat) (f : Ctx → Ctx) : (s.modCtx k f).accs = s.accs := by
  unfold State.modCtx; split <;> rfl
@[simp] theorem State.modCtx_nextAcc (s : State) (k : Nat) (f : Ctx → Ctx) : (s.modCtx k f).nextAcc = s.nextAcc := by
  unfold State.modCtx; split <;> rfl
@[simp] theorem State.modCtx_flights (s : State) (k : Nat) (f : Ctx → Ctx) : (s.modCtx k f).flights = s.flights := by
  unfold State.modCtx; split <;> rfl
@[simp] theorem State.modCtx_nextFlight (s : State) (k : Nat) (f : Ctx → Ctx) : (s.modCtx k f).nextFlight = s.nextFlight := by
  unfold State.modCtx; split <;> rfl
@[simp] theorem State.modCtx_dies (s : State) (k : Nat) (f : Ctx → Ctx) : (s.modCtx k f).dies = s.dies := by
  unfold State.modCtx; split <;> rfl
@[simp] theorem State.modCtx_lines (s : State) (k : Nat) (f : Ctx → Ctx) : (s.modCtx k f).lines = s.lines := by
  unfold State.modCtx; split <;> rfl
@[simp] theorem State.modCtx_graphs (s : State) (k : Nat) (f : Ctx → Ctx) : (s.modCtx k f).graphs = s.graphs := by
  unfold State.modCtx; split <;> rfl
@[simp] theorem State.modCtx_nextGraph (s : State) (k : Nat) (f : Ctx → Ctx) : (s.modCtx k f).nextGraph = s.nextGraph := by
  unfold State.modCtx; split <;> rfl
@[simp] theorem State.modCtx_metas (s : State) (k : Nat) (f : Ctx → Ctx) : (s.modCtx k f).metas = s.metas := by
  unfold State.modCtx; split <;> rfl
@[simp] theorem State.modCtx_traps (s : State) (k : Nat) (f : Ctx → Ctx) : (s.modCtx k f).traps = s.traps := by
  unfold State.modCtx; split <;> rfl
@[simp] theorem State.modCtx_saved (s : State) (k : Nat) (f : Ctx → Ctx) : (s.modCtx k f).saved = s.saved := by
  unfold State.modCtx; split <;> rfl
@[simp] theorem State.modCtx_mgmt (s : State) (k : Nat) (f : Ctx → Ctx) : (s.modCtx k f).mgmt = s.mgmt := by
  unfold State.modCtx; split <;> rfl

@[simp] theorem State.modGraph_cycle (s : State) (k : Nat) (f : Graph → Graph) : (s.modGraph k f).cycle = s.cycle := by
  unfold State.modGraph; split <;> rfl
@[simp] theorem State.modGraph_fresh (s : State) (k : Nat) (f : Graph → Graph) : (s.modGraph k f).fresh = s.fresh := by
  unfold State.modGraph; split <;> rfl
@[simp] theorem State.modGraph_agenda (s : State) (k : Nat) (f : Graph → Graph) : (s.modGraph k f).agenda = s.agenda := by
  unfold State.modGraph; split <;> rfl
@[simp] theorem State.modGraph_timers (s : State) (k : Nat) (f : Graph → Graph) : (s.modGraph k f).timers = s.timers := by
  unfold State.modGraph; split <;> rfl
@[simp] theorem State.modGraph_inputs (s : State) (k : Nat) (f : Graph → Graph) : (s.modGraph k f).inputs = s.inputs := by
  unfold State.modGraph; split <;> rfl
@[simp] theorem State.modGraph_cur (s : State) (k : Nat) (f : Graph → Graph) : (s.modGraph k f).cur = s.cur := by
  unfold State.modGraph; split <;> rfl
@[simp] theorem State.modGraph_mem (s : State) (k : Nat) (f : Graph → Graph) : (s.modGraph k f).mem = s.mem := by
  unfold State.modGraph; split <;> rfl
@[simp] theorem State.modGraph_sides (s : State) (k : Nat) (f : Graph → Graph) : (s.modGraph k f).sides = s.sides := by
  unfold State.modGraph; split <;> rfl
@[simp] theorem State.modGraph_keyed (s : State) (k : Nat) (f : Graph → Graph) : (s.modGraph k f).keyed = s.keyed := by
  unfold State.modGraph; split <;> rfl
@[simp] theorem State.modGraph_errs (s : State) (k : Nat) (f : Graph → Graph) : (s.modGraph k f).errs = s.errs := by
  unfold State.modGraph; split <;> rfl
@[simp] theorem State.modGraph_l2 (s : State) (k : Nat) (f : Graph → Graph) : (s.modGraph k f).l2 = s.l2 := by
  unfold State.modGraph; split <;> rfl
@[simp] theorem State.modGraph_tiles (s : State) (k : Nat) (f : Graph → Graph) : (s.modGraph k f).tiles = s.tiles := by
  unfold State.modGraph; split <;> rfl
@[simp] theorem State.modGraph_actors (s : State) (k : Nat) (f : Graph → Graph) : (s.modGraph k f).actors = s.actors := by
  unfold State.modGraph; split <;> rfl
@[simp] theorem State.modGraph_results (s : State) (k : Nat) (f : Graph → Graph) : (s.modGraph k f).results = s.results := by
  unfold State.modGraph; split <;> rfl
@[simp] theorem State.modGraph_accs (s : State) (k : Nat) (f : Graph → Graph) : (s.modGraph k f).accs = s.accs := by
  unfold State.modGraph; split <;> rfl
@[simp] theorem State.modGraph_nextAcc (s : State) (k : Nat) (f : Graph → Graph) : (s.modGraph k f).nextAcc = s.nextAcc := by
  unfold State.modGraph; split <;> rfl
@[simp] theorem State.modGraph_flights (s : State) (k : Nat) (f : Graph → Graph) : (s.modGraph k f).flights = s.flights := by
  unfold State.modGraph; split <;> rfl
@[simp] theorem State.modGraph_nextFlight (s : State) (k : Nat) (f : Graph → Graph) : (s.modGraph k f).nextFlight = s.nextFlight := by
  unfold State.modGraph; split <;> rfl
@[simp] theorem State.modGraph_dies (s : State) (k : Nat) (f : Graph → Graph) : (s.modGraph k f).dies = s.dies := by
  unfold State.modGraph; split <;> rfl
@[simp] theorem State.modGraph_lines (s : State) (k : Nat) (f : Graph → Graph) : (s.modGraph k f).lines = s.lines := by
  unfold State.modGraph; split <;> rfl
@[simp] theorem State.modGraph_nextGraph (s : State) (k : Nat) (f : Graph → Graph) : (s.modGraph k f).nextGraph = s.nextGraph := by
  unfold State.modGraph; split <;> rfl
@[simp] theorem State.modGraph_metas (s : State) (k : Nat) (f : Graph → Graph) : (s.modGraph k f).metas = s.metas := by
  unfold State.modGraph; split <;> rfl
@[simp] theorem State.modGraph_ctxs (s : State) (k : Nat) (f : Graph → Graph) : (s.modGraph k f).ctxs = s.ctxs := by
  unfold State.modGraph; split <;> rfl
@[simp] theorem State.modGraph_traps (s : State) (k : Nat) (f : Graph → Graph) : (s.modGraph k f).traps = s.traps := by
  unfold State.modGraph; split <;> rfl
@[simp] theorem State.modGraph_saved (s : State) (k : Nat) (f : Graph → Graph) : (s.modGraph k f).saved = s.saved := by
  unfold State.modGraph; split <;> rfl
@[simp] theorem State.modGraph_mgmt (s : State) (k : Nat) (f : Graph → Graph) : (s.modGraph k f).mgmt = s.mgmt := by
  unfold State.modGraph; split <;> rfl

theorem State.setTile_tiles (s : State) (t : Nat) (x : Tile) : (s.setTile t x).tiles = Sparse.set s.tiles t x := rfl
theorem State.setActor_actors (s : State) (k : Nat) (x : Actor) : (s.setActor k x).actors = Sparse.set s.actors k x := rfl
theorem State.setDie_dies (s : State) (d : Nat) (x : Die) : (s.setDie d x).dies = Sparse.set s.dies d x := rfl
@[simp] theorem State.modMgmt_mgmt (s : State) (f : Mgmt → Mgmt) : (s.modMgmt f).mgmt = f s.mgmt := rfl
@[simp] theorem State.drew_fresh (s : State) : s.drew.fresh = s.fresh + 1 := rfl
@[simp] theorem State.issue_results (s : State) (l : Nat) (ws : List Wr) (k : Option Tok) :
    (s.issue l ws k).results = s.results ++ [⟨s.cycle + l, s.cur, ws, k⟩] := rfl
@[simp] theorem State.now_agenda (s : State) (e : Instr) : (s.now e).agenda = .event e :: s.agenda := rfl
@[simp] theorem State.after_timers (s : State) (n : Nat) (e : Instr) : (s.after n e).timers = s.timers ++ [(s.cycle + n, e)] := rfl

end Sys2Proof.Machine
end

