-- ==== Sys2Proof/Laws/Memory.lean ====
section
/-! SUPPORT. Sparse maps and memory: reading after writing, and the canonical forms that every operation keeps. -/

namespace Sys2Proof

variable {α : Type}

theorem Sparse.get_set_same (m : Sparse α) (d v : α) (k : Nat) : Sparse.get (Sparse.set m k v) d k = v := by
  induction m with
  | nil => simp [Sparse.set, Sparse.get]
  | cons a r ih =>
    obtain ⟨j, w⟩ := a
    unfold Sparse.set
    split
    · simp [Sparse.get]
    · split
      · simp [Sparse.get]
      · have h : j ≠ k := fun e => by subst e; contradiction
        simp [Sparse.get, h, ih]

theorem Sparse.get_set_other (m : Sparse α) (d v : α) (k j : Nat) (h : j ≠ k) :
    Sparse.get (Sparse.set m k v) d j = Sparse.get m d j := by
  induction m with
  | nil => simp [Sparse.set, Sparse.get, Ne.symm h]
  | cons a r ih =>
    obtain ⟨i, w⟩ := a
    unfold Sparse.set
    split
    · simp [Sparse.get, Ne.symm h]
    · split
      · rename_i _ e
        subst e
        simp [Sparse.get, Ne.symm h]
      · simp only [Sparse.get, ih]

@[simp] theorem Sparse.get_set (m : Sparse α) (d v : α) (k j : Nat) :
    Sparse.get (Sparse.set m k v) d j = if j = k then v else Sparse.get m d j := by
  split
  · rename_i h; subst h; exact Sparse.get_set_same m d v j
  · exact Sparse.get_set_other m d v k j ‹_›

@[simp] theorem Sparse.find_set (m : Sparse α) (v : α) (k j : Nat) :
    Sparse.find? (Sparse.set m k v) j = if j = k then some v else Sparse.find? m j := by
  induction m with
  | nil => simp [Sparse.set, Sparse.find?, eq_comm]
  | cons a r ih =>
    obtain ⟨i, w⟩ := a
    unfold Sparse.set
    split
    · simp [Sparse.find?, eq_comm]
    · split
      · rename_i _ e
        subst e
        by_cases h : j = k
        · simp [Sparse.find?, h]
        · simp [Sparse.find?, h, show k ≠ j from fun e => h e.symm]
      · rename_i _ e
        simp only [Sparse.find?, ih]
        by_cases h : i = j
        · have : j ≠ k := fun e' => e (by rw [h, e'])
          simp [h, this]
        · simp [h]

/-- The keys of a map. -/
def Sparse.keysAbove (b : Nat) (m : Sparse α) : Prop := ∀ p ∈ m, b < p.1

end Sys2Proof

namespace Sys2Proof.Machine

namespace Memory

/-- Every address of a list of cells is above a bound. -/
def above (b : Nat) (m : List Host.Cell) : Prop := ∀ p ∈ m, b < p.1

theorem wf_cons (a : Nat) (x : BitVec 8) (r : List Host.Cell) :
    wf ((a, x) :: r) = true ↔ x ≠ blank ∧ above a r ∧ wf r = true := by
  induction r generalizing a x with
  | nil => simp [wf, above]
  | cons c r ih =>
    obtain ⟨b, y⟩ := c
    constructor
    · intro h
      have h' : (x ≠ blank ∧ a < b) ∧ wf ((b, y) :: r) = true := by simpa [wf] using h
      refine ⟨h'.1.1, fun p hp => ?_, h'.2⟩
      rcases List.mem_cons.mp hp with rfl | hp
      · exact h'.1.2
      · exact Nat.lt_trans h'.1.2 (((ih b y).mp h'.2).2.1 p hp)
    · intro ⟨h1, h2, h3⟩
      have : a < b := h2 (b, y) (by simp)
      rw [wf]
      simp [h1, this, h3]

theorem above_set (m : List Host.Cell) (b a : Nat) (x : BitVec 8) (h : above b m) (ha : b < a) : above b (set m a x) := by
  induction m with
  | nil =>
    unfold set
    split
    · exact h
    · intro p hp
      rcases List.mem_singleton.mp hp with rfl
      exact ha
  | cons c r ih =>
    obtain ⟨i, y⟩ := c
    have hr : above b r := fun p hp => h p (List.mem_cons_of_mem _ hp)
    unfold set
    repeat' split
    all_goals intro p hp
    all_goals first
      | exact h p hp
      | exact hr p hp
      | (rcases List.mem_cons.mp hp with rfl | hp
         · first | exact ha | exact h _ (by simp)
         · first | exact h p hp | exact hr p hp | exact ih hr p hp)

/-- Writing a byte keeps the canonical form. -/
theorem wf_set (m : List Host.Cell) (a : Nat) (x : BitVec 8) (h : wf m = true) : wf (set m a x) = true := by
  induction m with
  | nil =>
    unfold set
    split
    · rfl
    · exact (wf_cons _ _ _).mpr ⟨‹_›, fun p hp => by simp at hp, rfl⟩
  | cons c r ih =>
    obtain ⟨b, y⟩ := c
    obtain ⟨h1, h2, h3⟩ := (wf_cons _ _ _).mp h
    unfold set
    split
    · split
      · exact h
      · refine (wf_cons _ _ _).mpr ⟨‹_›, fun p hp => ?_, h⟩
        rcases List.mem_cons.mp hp with rfl | hp
        · assumption
        · exact Nat.lt_trans ‹_› (h2 p hp)
    · split
      · rename_i _ e
        subst e
        split
        · exact h3
        · exact (wf_cons _ _ _).mpr ⟨‹_›, h2, h3⟩
      · exact (wf_cons _ _ _).mpr ⟨h1, above_set r b a x h2 (by omega), ih h3⟩

/-- Writing bytes keeps the canonical form. -/
theorem wf_setN (m : List Host.Cell) (a x n : Nat) (h : wf m = true) : wf (setN m a x n) = true := by
  induction n generalizing m a x with
  | zero => exact h
  | succ n ih => exact ih _ _ _ (wf_set m a _ h)

/-- Dropping cells keeps the canonical form. -/
theorem wf_filter (m : List Host.Cell) (p : Host.Cell → Bool) (h : wf m = true) : wf (m.filter p) = true := by
  induction m with
  | nil => rfl
  | cons c r ih =>
    obtain ⟨b, y⟩ := c
    obtain ⟨h1, h2, h3⟩ := (wf_cons _ _ _).mp h
    rw [List.filter_cons]
    split
    · exact (wf_cons _ _ _).mpr ⟨h1, fun q hq => h2 q (List.mem_filter.mp hq).1, ih h3⟩
    · exact ih h3

theorem get_above (m : List Host.Cell) (a : Nat) (h : above a m) : get m a = blank := by
  induction m with
  | nil => rfl
  | cons c r ih =>
    obtain ⟨b, y⟩ := c
    have : a < b := h (b, y) (by simp)
    simp only [get, show b ≠ a by omega, if_false]
    exact ih fun p hp => h p (List.mem_cons_of_mem _ hp)

/-- A byte reads as it was last written, and every other byte as before. -/
theorem get_set (m : List Host.Cell) (a b : Nat) (x : BitVec 8) (h : wf m = true) :
    get (set m a x) b = if b = a then x else get m b := by
  induction m with
  | nil =>
    unfold set
    by_cases hx : x = blank <;> by_cases hb : b = a <;> simp [get, hx, hb, eq_comm]
    exact fun e => absurd e.symm hb
  | cons c r ih =>
    obtain ⟨i, y⟩ := c
    obtain ⟨h1, h2, h3⟩ := (wf_cons _ _ _).mp h
    have key : a ≤ i → get r a = blank := fun hl =>
      get_above r a fun p hp => Nat.lt_of_le_of_lt hl (h2 p hp)
    unfold set
    by_cases hlt : a < i
    · rw [if_pos hlt]
      by_cases hx : x = blank
      · rw [if_pos hx]
        by_cases hb : b = a
        · subst hb
          simp [get, show i ≠ b by omega, key (by omega), hx]
        · simp [hb]
      · rw [if_neg hx]
        by_cases hb : b = a
        · subst hb; simp [get]
        · simp [get, hb, show a ≠ b from fun e => hb e.symm]
    · rw [if_neg hlt]
      by_cases he : a = i
      · rw [if_pos he]
        subst he
        by_cases hx : x = blank
        · rw [if_pos hx]
          by_cases hb : b = a
          · subst hb; simp [key (Nat.le_refl _), hx]
          · simp [get, hb, show a ≠ b from fun e => hb e.symm]
        · rw [if_neg hx]
          by_cases hb : b = a
          · subst hb; simp [get]
          · simp [get, hb, show a ≠ b from fun e => hb e.symm]
      · rw [if_neg he]
        simp only [get]
        by_cases hi : i = b
        · subst hi
          simp [show i ≠ a from fun e => he e.symm]
        · simp [hi, ih h3]

/-- Bytes outside a write read as before. -/
theorem get_setN_outside (m : List Host.Cell) (a x n b : Nat) (h : wf m = true) (hb : b < a ∨ a + n ≤ b) :
    get (setN m a x n) b = get m b := by
  induction n generalizing m a x with
  | zero => rfl
  | succ n ih =>
    rw [setN, ih _ _ _ (wf_set m a _ h) (by omega), get_set m a b _ h, if_neg (by omega)]

end Memory

theorem putAt_mem (s : State) (pol : Pol) (key pa : Nat) (b : Block) :
    (s.putAt pol key pa b).mem = Memory.setN s.mem (pa / 64 * 64) b.data.toNat 64 := by
  simp only [State.putAt, State.l2Touch_mem, State.storeMem]

theorem putBlock_mem (s : State) (key pa : Nat) (b : Block) :
    (s.putBlock key pa b).mem = Memory.setN s.mem (pa / 64 * 64) b.data.toNat 64 := putAt_mem s _ key pa b

/-- A write of a block keeps the canonical form of memory. -/
theorem putBlock_memWf (s : State) (key pa : Nat) (b : Block) (h : s.memWf) : (s.putBlock key pa b).memWf := by
  unfold State.memWf at *
  rw [putBlock_mem]
  exact Memory.wf_setN _ _ _ _ h

/-- A write of a block leaves every byte outside the block as it was. -/
theorem putBlock_outside (s : State) (key pa : Nat) (b : Block) (h : s.memWf) (x : Nat) (hx : x / 64 ≠ pa / 64) :
    Memory.get (s.putBlock key pa b).mem x = Memory.get s.mem x := by
  rw [putBlock_mem]
  exact Memory.get_setN_outside _ _ _ _ _ h (by omega)

end Sys2Proof.Machine
end

