-- ==== Sys2Proof/Laws/PerInstr.lean ====
section
/-! SUPPORT. The round trip of the encodings, constructor by constructor: the word of a well-formed instruction decodes to
that instruction, or, where two rows of the opcode table share their words, to the row that the decoder names. -/

set_option linter.unusedSimpArgs false
set_option linter.unusedVariables false
set_option linter.unusedTactic false
set_option linter.unreachableTactic false

namespace Sys2Proof.Laws

/-- Decoding undoes encoding. An event has no operation word, so that nothing is claimed of it. -/
def Encoding.Statement (i : Instr) : Prop :=
  ∀ w, i.wellFormed = true → encode i = some w → decode w = .ok i.canonical

theorem Encoding.of_event {i : Instr} (h : encode i = none) : Encoding.Statement i := by
  intro w _ hw
  rw [h] at hw
  cases hw

theorem Encoding.of_parts {i : Instr} {cls op var d s1 s2 low : Nat}
    (he : encodeNat i = some (opWord cls op var d s1 s2 low)) (h0 : cls < 8) (h1 : op < 32) (h2 : var < 16)
    (h3 : d < 256) (h4 : s1 < 256) (h5 : s2 < 256) (h6 : low < 2 ^ 28)
    (h : i.wellFormed = true → ∀ w l, l = low → Parts w cls op var d s1 s2 l → decodeNat w = .ok i.canonical) :
    Encoding.Statement i := by
  intro w hwf hw
  have P := parts_opWord cls op var d s1 s2 low h0 h1 h2 h3 h4 h5 h6
  have := h hwf _ _ rfl P
  simp only [encode, he, Option.map_some, Option.some.injEq] at hw
  subst hw
  rw [decode, BitVec.toNat_ofNat, Nat.mod_eq_of_lt P.h_lt]
  exact this

theorem Encoding.of_dec3s (mk : IntTy → Bool → PDst → Fin 16 → Fin 16 → Fin 16 → Instr) (op : Nat) (hop : op < 32) (ty : IntTy) (sat : Bool) (pd : PDst) (d s1 s2 : Fin 16)
    (he : encodeNat (mk ty sat pd d s1 s2) = some (enc3s op ty sat pd d s1 s2)) (hd : ∀ W, decode0 op W = dec3s W mk)
    (hcan : (mk ty sat pd d s1 s2).canonical = mk ty sat pd d s1 s2) : Encoding.Statement (mk ty sat pd d s1 s2) := by
  cases pd with
  | none =>
    have b0 := IntTy.code_lt ty
    have b1 := Bool.toNat_lt sat
    have b2 := Fin.isLt d
    have b3 := Fin.isLt s1
    have b4 := Fin.isLt s2
    refine Encoding.of_parts he ?_ ?_ ?_ ?_ ?_ ?_ ?_ fun hwf W low hlow P => ?_
    any_goals first | (simp only [enc_zero_mul, enc_add_zero, enc_zero_add, pdEnc]; omega) | omega
    try simp only [enc_zero_mul, enc_add_zero, enc_zero_add, pdEnc] at hlow
    have F : fld low 27 1 = 0 ∧ fld low 24 3 = 0 ∧ fld low 21 3 = 0 ∧ fld low 20 1 = sat.toNat ∧ fld low 14 6 = 0 ∧ fld low 8 6 = 0 ∧ fld low 0 8 = 0 ∧ fld low 0 24 = sat.toNat * 1048576 ∧ fld low 0 21 = sat.toNat * 1048576 := by
      simp only [fld]; omega
    clear hlow
    obtain ⟨pc, po, pv, p52, p53, p54, p55, psc, pl2, pg, pd_, ps1, ps2, pslo, pshi, plt, pl⟩ := P
    obtain ⟨F0, F1, F2, F3, F4, F5, F6, F7, F8⟩ := F
    simp [decodeNat, hd, hcan, dec3s, dec3, dec2, decF, decFm, scalarClean, pdClean, pdAt, getOr, req, bitAt, fin8, fin16, fin64, Bind.bind, Except.bind, Pure.pure, Except.pure, pc, po, pv, p52, p53, p54, p55, psc, pl2, pg, pd_, ps1, ps2, pslo, pshi, pl, F0, F1, F2, F3, F4, F5, F6, F7, F8]
  | some p0 =>
    have b0 := IntTy.code_lt ty
    have b1 := Bool.toNat_lt sat
    have b2 := Fin.isLt p0
    have b3 := Fin.isLt d
    have b4 := Fin.isLt s1
    have b5 := Fin.isLt s2
    refine Encoding.of_parts he ?_ ?_ ?_ ?_ ?_ ?_ ?_ fun hwf W low hlow P => ?_
    any_goals first | (simp only [enc_zero_mul, enc_add_zero, enc_zero_add, pdEnc]; omega) | omega
    try simp only [enc_zero_mul, enc_add_zero, enc_zero_add, pdEnc] at hlow
    have F : fld low 27 1 = 1 ∧ fld low 24 3 = p0.val ∧ fld low 21 3 = 0 ∧ fld low 20 1 = sat.toNat ∧ fld low 14 6 = 0 ∧ fld low 8 6 = 0 ∧ fld low 0 8 = 0 ∧ fld low 0 24 = sat.toNat * 1048576 ∧ fld low 0 21 = sat.toNat * 1048576 := by
      simp only [fld]; omega
    clear hlow
    obtain ⟨pc, po, pv, p52, p53, p54, p55, psc, pl2, pg, pd_, ps1, ps2, pslo, pshi, plt, pl⟩ := P
    obtain ⟨F0, F1, F2, F3, F4, F5, F6, F7, F8⟩ := F
    simp [decodeNat, hd, hcan, dec3s, dec3, dec2, decF, decFm, scalarClean, pdClean, pdAt, getOr, req, bitAt, fin8, fin16, fin64, Bind.bind, Except.bind, Pure.pure, Except.pure, pc, po, pv, p52, p53, p54, p55, psc, pl2, pg, pd_, ps1, ps2, pslo, pshi, pl, F0, F1, F2, F3, F4, F5, F6, F7, F8]

theorem Encoding.of_dec3 (mk : IntTy → PDst → Fin 16 → Fin 16 → Fin 16 → Instr) (op : Nat) (hop : op < 32) (ty : IntTy) (pd : PDst) (d s1 s2 : Fin 16)
    (he : encodeNat (mk ty pd d s1 s2) = some (enc3s op ty false pd d s1 s2)) (hd : ∀ W, decode0 op W = dec3 W mk)
    (hcan : (mk ty pd d s1 s2).canonical = mk ty pd d s1 s2) : Encoding.Statement (mk ty pd d s1 s2) := by
  cases pd with
  | none =>
    have b0 := IntTy.code_lt ty
    have b1 := Fin.isLt d
    have b2 := Fin.isLt s1
    have b3 := Fin.isLt s2
    refine Encoding.of_parts he ?_ ?_ ?_ ?_ ?_ ?_ ?_ fun hwf W low hlow P => ?_
    any_goals first | (simp only [enc_false, enc_zero_mul, enc_add_zero, enc_zero_add, pdEnc]; omega) | omega
    try simp only [enc_false, enc_zero_mul, enc_add_zero, enc_zero_add, pdEnc] at hlow
    have F : fld low 27 1 = 0 ∧ fld low 24 3 = 0 ∧ fld low 21 3 = 0 ∧ fld low 20 1 = 0 ∧ fld low 14 6 = 0 ∧ fld low 8 6 = 0 ∧ fld low 0 8 = 0 ∧ fld low 0 24 = 0 ∧ fld low 0 21 = 0 := by
      simp only [fld]; omega
    clear hlow
    obtain ⟨pc, po, pv, p52, p53, p54, p55, psc, pl2, pg, pd_, ps1, ps2, pslo, pshi, plt, pl⟩ := P
    obtain ⟨F0, F1, F2, F3, F4, F5, F6, F7, F8⟩ := F
    simp [decodeNat, hd, hcan, dec3s, dec3, dec2, decF, decFm, scalarClean, pdClean, pdAt, getOr, req, bitAt, fin8, fin16, fin64, Bind.bind, Except.bind, Pure.pure, Except.pure, pc, po, pv, p52, p53, p54, p55, psc, pl2, pg, pd_, ps1, ps2, pslo, pshi, pl, F0, F1, F2, F3, F4, F5, F6, F7, F8]
  | some p0 =>
    have b0 := IntTy.code_lt ty
    have b1 := Fin.isLt p0
    have b2 := Fin.isLt d
    have b3 := Fin.isLt s1
    have b4 := Fin.isLt s2
    refine Encoding.of_parts he ?_ ?_ ?_ ?_ ?_ ?_ ?_ fun hwf W low hlow P => ?_
    any_goals first | (simp only [enc_false, enc_zero_mul, enc_add_zero, enc_zero_add, pdEnc]; omega) | omega
    try simp only [enc_false, enc_zero_mul, enc_add_zero, enc_zero_add, pdEnc] at hlow
    have F : fld low 27 1 = 1 ∧ fld low 24 3 = p0.val ∧ fld low 21 3 = 0 ∧ fld low 20 1 = 0 ∧ fld low 14 6 = 0 ∧ fld low 8 6 = 0 ∧ fld low 0 8 = 0 ∧ fld low 0 24 = 0 ∧ fld low 0 21 = 0 := by
      simp only [fld]; omega
    clear hlow
    obtain ⟨pc, po, pv, p52, p53, p54, p55, psc, pl2, pg, pd_, ps1, ps2, pslo, pshi, plt, pl⟩ := P
    obtain ⟨F0, F1, F2, F3, F4, F5, F6, F7, F8⟩ := F
    simp [decodeNat, hd, hcan, dec3s, dec3, dec2, decF, decFm, scalarClean, pdClean, pdAt, getOr, req, bitAt, fin8, fin16, fin64, Bind.bind, Except.bind, Pure.pure, Except.pure, pc, po, pv, p52, p53, p54, p55, psc, pl2, pg, pd_, ps1, ps2, pslo, pshi, pl, F0, F1, F2, F3, F4, F5, F6, F7, F8]

theorem Encoding.of_dec2 (mk : IntTy → PDst → Fin 16 → Fin 16 → Instr) (op : Nat) (hop : op < 32) (ty : IntTy) (pd : PDst) (d s1 : Fin 16)
    (he : encodeNat (mk ty pd d s1) = some (opWord 0 op ty.code d.val s1.val 0 (pdEnc pd 24))) (hd : ∀ W, decode0 op W = dec2 W mk)
    (hcan : (mk ty pd d s1).canonical = mk ty pd d s1) : Encoding.Statement (mk ty pd d s1) := by
  cases pd with
  | none =>
    have b0 := IntTy.code_lt ty
    have b1 := Fin.isLt d
    have b2 := Fin.isLt s1
    refine Encoding.of_parts he ?_ ?_ ?_ ?_ ?_ ?_ ?_ fun hwf W low hlow P => ?_
    any_goals first | (simp only [enc_zero_mul, enc_add_zero, enc_zero_add, pdEnc]; omega) | omega
    try simp only [enc_zero_mul, enc_add_zero, enc_zero_add, pdEnc] at hlow
    have F : fld low 27 1 = 0 ∧ fld low 24 3 = 0 ∧ fld low 21 3 = 0 ∧ fld low 20 1 = 0 ∧ fld low 14 6 = 0 ∧ fld low 8 6 = 0 ∧ fld low 0 8 = 0 ∧ fld low 0 24 = 0 ∧ fld low 0 21 = 0 := by
      simp only [fld]; omega
    clear hlow
    obtain ⟨pc, po, pv, p52, p53, p54, p55, psc, pl2, pg, pd_, ps1, ps2, pslo, pshi, plt, pl⟩ := P
    obtain ⟨F0, F1, F2, F3, F4, F5, F6, F7, F8⟩ := F
    simp [decodeNat, hd, hcan, dec3s, dec3, dec2, decF, decFm, scalarClean, pdClean, pdAt, getOr, req, bitAt, fin8, fin16, fin64, Bind.bind, Except.bind, Pure.pure, Except.pure, pc, po, pv, p52, p53, p54, p55, psc, pl2, pg, pd_, ps1, ps2, pslo, pshi, pl, F0, F1, F2, F3, F4, F5, F6, F7, F8]
  | some p0 =>
    have b0 := IntTy.code_lt ty
    have b1 := Fin.isLt p0
    have b2 := Fin.isLt d
    have b3 := Fin.isLt s1
    refine Encoding.of_parts he ?_ ?_ ?_ ?_ ?_ ?_ ?_ fun hwf W low hlow P => ?_
    any_goals first | (simp only [enc_zero_mul, enc_add_zero, enc_zero_add, pdEnc]; omega) | omega
    try simp only [enc_zero_mul, enc_add_zero, enc_zero_add, pdEnc] at hlow
    have F : fld low 27 1 = 1 ∧ fld low 24 3 = p0.val ∧ fld low 21 3 = 0 ∧ fld low 20 1 = 0 ∧ fld low 14 6 = 0 ∧ fld low 8 6 = 0 ∧ fld low 0 8 = 0 ∧ fld low 0 24 = 0 ∧ fld low 0 21 = 0 := by
      simp only [fld]; omega
    clear hlow
    obtain ⟨pc, po, pv, p52, p53, p54, p55, psc, pl2, pg, pd_, ps1, ps2, pslo, pshi, plt, pl⟩ := P
    obtain ⟨F0, F1, F2, F3, F4, F5, F6, F7, F8⟩ := F
    simp [decodeNat, hd, hcan, dec3s, dec3, dec2, decF, decFm, scalarClean, pdClean, pdAt, getOr, req, bitAt, fin8, fin16, fin64, Bind.bind, Except.bind, Pure.pure, Except.pure, pc, po, pv, p52, p53, p54, p55, psc, pl2, pg, pd_, ps1, ps2, pslo, pshi, pl, F0, F1, F2, F3, F4, F5, F6, F7, F8]

theorem Encoding.of_decF (mk : Rm → Bool → PDst → Fin 16 → Fin 16 → Fin 16 → Instr) (op : Nat) (hop : op < 32) (rm : Rm) (sat : Bool) (pd : PDst) (d s1 s2 : Fin 16)
    (he : encodeNat (mk rm sat pd d s1 s2) = some (encF op rm sat pd d s1 s2)) (hd : ∀ W, decode0 op W = decF W mk)
    (hcan : (mk rm sat pd d s1 s2).canonical = mk rm sat pd d s1 s2) : Encoding.Statement (mk rm sat pd d s1 s2) := by
  cases pd with
  | none =>
    have b0 := Rm.code_lt rm
    have b1 := Bool.toNat_lt sat
    have b2 := Fin.isLt d
    have b3 := Fin.isLt s1
    have b4 := Fin.isLt s2
    refine Encoding.of_parts he ?_ ?_ ?_ ?_ ?_ ?_ ?_ fun hwf W low hlow P => ?_
    any_goals first | (simp only [enc_zero_mul, enc_add_zero, enc_zero_add, pdEnc]; omega) | omega
    try simp only [enc_zero_mul, enc_add_zero, enc_zero_add, pdEnc] at hlow
    have F : fld low 27 1 = 0 ∧ fld low 24 3 = 0 ∧ fld low 21 3 = rm.code ∧ fld low 20 1 = sat.toNat ∧ fld low 14 6 = 0 ∧ fld low 8 6 = 0 ∧ fld low 0 8 = 0 ∧ fld low 0 24 = rm.code * 2097152 + sat.toNat * 1048576 ∧ fld low 0 21 = sat.toNat * 1048576 := by
      simp only [fld]; omega
    clear hlow
    obtain ⟨pc, po, pv, p52, p53, p54, p55, psc, pl2, pg, pd_, ps1, ps2, pslo, pshi, plt, pl⟩ := P
    obtain ⟨F0, F1, F2, F3, F4, F5, F6, F7, F8⟩ := F
    simp [decodeNat, hd, hcan, dec3s, dec3, dec2, decF, decFm, scalarClean, pdClean, pdAt, getOr, req, bitAt, fin8, fin16, fin64, Bind.bind, Except.bind, Pure.pure, Except.pure, pc, po, pv, p52, p53, p54, p55, psc, pl2, pg, pd_, ps1, ps2, pslo, pshi, pl, F0, F1, F2, F3, F4, F5, F6, F7, F8]
  | some p0 =>
    have b0 := Rm.code_lt rm
    have b1 := Bool.toNat_lt sat
    have b2 := Fin.isLt p0
    have b3 := Fin.isLt d
    have b4 := Fin.isLt s1
    have b5 := Fin.isLt s2
    refine Encoding.of_parts he ?_ ?_ ?_ ?_ ?_ ?_ ?_ fun hwf W low hlow P => ?_
    any_goals first | (simp only [enc_zero_mul, enc_add_zero, enc_zero_add, pdEnc]; omega) | omega
    try simp only [enc_zero_mul, enc_add_zero, enc_zero_add, pdEnc] at hlow
    have F : fld low 27 1 = 1 ∧ fld low 24 3 = p0.val ∧ fld low 21 3 = rm.code ∧ fld low 20 1 = sat.toNat ∧ fld low 14 6 = 0 ∧ fld low 8 6 = 0 ∧ fld low 0 8 = 0 ∧ fld low 0 24 = rm.code * 2097152 + sat.toNat * 1048576 ∧ fld low 0 21 = sat.toNat * 1048576 := by
      simp only [fld]; omega
    clear hlow
    obtain ⟨pc, po, pv, p52, p53, p54, p55, psc, pl2, pg, pd_, ps1, ps2, pslo, pshi, plt, pl⟩ := P
    obtain ⟨F0, F1, F2, F3, F4, F5, F6, F7, F8⟩ := F
    simp [decodeNat, hd, hcan, dec3s, dec3, dec2, decF, decFm, scalarClean, pdClean, pdAt, getOr, req, bitAt, fin8, fin16, fin64, Bind.bind, Except.bind, Pure.pure, Except.pure, pc, po, pv, p52, p53, p54, p55, psc, pl2, pg, pd_, ps1, ps2, pslo, pshi, pl, F0, F1, F2, F3, F4, F5, F6, F7, F8]

theorem Encoding.of_decFm (mk : PDst → Fin 16 → Fin 16 → Fin 16 → Instr) (op : Nat) (hop : op < 32) (pd : PDst) (d s1 s2 : Fin 16)
    (he : encodeNat (mk pd d s1 s2) = some (encF op .rn false pd d s1 s2)) (hd : ∀ W, decode0 op W = decFm W mk)
    (hcan : (mk pd d s1 s2).canonical = mk pd d s1 s2) : Encoding.Statement (mk pd d s1 s2) := by
  cases pd with
  | none =>
    have b0 := Fin.isLt d
    have b1 := Fin.isLt s1
    have b2 := Fin.isLt s2
    refine Encoding.of_parts he ?_ ?_ ?_ ?_ ?_ ?_ ?_ fun hwf W low hlow P => ?_
    any_goals first | (simp only [enc_false, Rm.code_rn, enc_zero_mul, enc_add_zero, enc_zero_add, pdEnc]; omega) | omega
    try simp only [enc_false, Rm.code_rn, enc_zero_mul, enc_add_zero, enc_zero_add, pdEnc] at hlow
    have F : fld low 27 1 = 0 ∧ fld low 24 3 = 0 ∧ fld low 21 3 = 0 ∧ fld low 20 1 = 0 ∧ fld low 14 6 = 0 ∧ fld low 8 6 = 0 ∧ fld low 0 8 = 0 ∧ fld low 0 24 = 0 ∧ fld low 0 21 = 0 := by
      simp only [fld]; omega
    clear hlow
    obtain ⟨pc, po, pv, p52, p53, p54, p55, psc, pl2, pg, pd_, ps1, ps2, pslo, pshi, plt, pl⟩ := P
    obtain ⟨F0, F1, F2, F3, F4, F5, F6, F7, F8⟩ := F
    simp [decodeNat, hd, hcan, dec3s, dec3, dec2, decF, decFm, scalarClean, pdClean, pdAt, getOr, req, bitAt, fin8, fin16, fin64, Bind.bind, Except.bind, Pure.pure, Except.pure, pc, po, pv, p52, p53, p54, p55, psc, pl2, pg, pd_, ps1, ps2, pslo, pshi, pl, F0, F1, F2, F3, F4, F5, F6, F7, F8]
  | some p0 =>
    have b0 := Fin.isLt p0
    have b1 := Fin.isLt d
    have b2 := Fin.isLt s1
    have b3 := Fin.isLt s2
    refine Encoding.of_parts he ?_ ?_ ?_ ?_ ?_ ?_ ?_ fun hwf W low hlow P => ?_
    any_goals first | (simp only [enc_false, Rm.code_rn, enc_zero_mul, enc_add_zero, enc_zero_add, pdEnc]; omega) | omega
    try simp only [enc_false, Rm.code_rn, enc_zero_mul, enc_add_zero, enc_zero_add, pdEnc] at hlow
    have F : fld low 27 1 = 1 ∧ fld low 24 3 = p0.val ∧ fld low 21 3 = 0 ∧ fld low 20 1 = 0 ∧ fld low 14 6 = 0 ∧ fld low 8 6 = 0 ∧ fld low 0 8 = 0 ∧ fld low 0 24 = 0 ∧ fld low 0 21 = 0 := by
      simp only [fld]; omega
    clear hlow
    obtain ⟨pc, po, pv, p52, p53, p54, p55, psc, pl2, pg, pd_, ps1, ps2, pslo, pshi, plt, pl⟩ := P
    obtain ⟨F0, F1, F2, F3, F4, F5, F6, F7, F8⟩ := F
    simp [decodeNat, hd, hcan, dec3s, dec3, dec2, decF, decFm, scalarClean, pdClean, pdAt, getOr, req, bitAt, fin8, fin16, fin64, Bind.bind, Except.bind, Pure.pure, Except.pure, pc, po, pv, p52, p53, p54, p55, psc, pl2, pg, pd_, ps1, ps2, pslo, pshi, pl, F0, F1, F2, F3, F4, F5, F6, F7, F8]

theorem Encoding.of_decLogI (mk : Bool → PDst → Fin 16 → Fin 16 → BitVec 24 → Instr) (op : Nat) (hop : op < 32) (sgn : Bool) (pd : PDst) (d s1 : Fin 16) (imm : BitVec 24)
    (he : encodeNat (mk sgn pd d s1 imm) = some (opWord 1 op (sgn64 sgn) d.val s1.val 0 (pdEnc pd 24 + imm.toNat))) (hd : ∀ W, decode1 op W = decLogI W mk)
    (hcan : (mk sgn pd d s1 imm).canonical = mk sgn pd d s1 imm) : Encoding.Statement (mk sgn pd d s1 imm) := by
  cases pd with
  | none =>
    have b0 := Bool.toNat_lt sgn
    have b1 := sgn64_lt sgn
    have b2 := Fin.isLt d
    have b3 := Fin.isLt s1
    have b4 := BitVec.isLt imm
    refine Encoding.of_parts he ?_ ?_ ?_ ?_ ?_ ?_ ?_ fun hwf W low hlow P => ?_
    any_goals first | (simp only [enc_zero_mul, enc_add_zero, enc_zero_add, pdEnc]; omega) | omega
    try simp only [enc_zero_mul, enc_add_zero, enc_zero_add, pdEnc] at hlow
    have F : fld low 27 1 = 0 ∧ fld low 24 3 = 0 ∧ fld low 0 24 = imm.toNat ∧ fld low 0 28 = imm.toNat := by
      simp only [fld]; omega
    clear hlow
    obtain ⟨pc, po, pv, p52, p53, p54, p55, psc, pl2, pg, pd_, ps1, ps2, pslo, pshi, plt, pl⟩ := P
    obtain ⟨F0, F1, F2, F3⟩ := F
    simp [decodeNat, hd, hcan, decLogI, decShI, pdClean, pdAt, imm24, getOr, req, bitAt, fin8, fin16, fin64, Bind.bind, Except.bind, Pure.pure, Except.pure, pc, po, pv, p52, p53, p54, p55, psc, pl2, pg, pd_, ps1, ps2, pslo, pshi, pl, F0, F1, F2, F3]
  | some p0 =>
    have b0 := Bool.toNat_lt sgn
    have b1 := sgn64_lt sgn
    have b2 := Fin.isLt p0
    have b3 := Fin.isLt d
    have b4 := Fin.isLt s1
    have b5 := BitVec.isLt imm
    refine Encoding.of_parts he ?_ ?_ ?_ ?_ ?_ ?_ ?_ fun hwf W low hlow P => ?_
    any_goals first | (simp only [enc_zero_mul, enc_add_zero, enc_zero_add, pdEnc]; omega) | omega
    try simp only [enc_zero_mul, enc_add_zero, enc_zero_add, pdEnc] at hlow
    have F : fld low 27 1 = 1 ∧ fld low 24 3 = p0.val ∧ fld low 0 24 = imm.toNat ∧ fld low 0 28 = 1 * 134217728 + p0.val * 16777216 + imm.toNat := by
      simp only [fld]; omega
    clear hlow
    obtain ⟨pc, po, pv, p52, p53, p54, p55, psc, pl2, pg, pd_, ps1, ps2, pslo, pshi, plt, pl⟩ := P
    obtain ⟨F0, F1, F2, F3⟩ := F
    simp [decodeNat, hd, hcan, decLogI, decShI, pdClean, pdAt, imm24, getOr, req, bitAt, fin8, fin16, fin64, Bind.bind, Except.bind, Pure.pure, Except.pure, pc, po, pv, p52, p53, p54, p55, psc, pl2, pg, pd_, ps1, ps2, pslo, pshi, pl, F0, F1, F2, F3]

theorem Encoding.of_decShI (mk : IntTy → PDst → Fin 16 → Fin 16 → Fin 64 → Instr) (op : Nat) (hop : op < 32) (ty : IntTy) (pd : PDst) (d s1 : Fin 16) (n : Fin 64)
    (he : encodeNat (mk ty pd d s1 n) = some (opWord 1 op ty.code d.val s1.val 0 (pdEnc pd 24 + n.val))) (hd : ∀ W, decode1 op W = decShI W mk)
    (hcan : (mk ty pd d s1 n).canonical = mk ty pd d s1 n) : Encoding.Statement (mk ty pd d s1 n) := by
  cases pd with
  | none =>
    have b0 := IntTy.code_lt ty
    have b1 := Fin.isLt d
    have b2 := Fin.isLt s1
    have b3 := Fin.isLt n
    refine Encoding.of_parts he ?_ ?_ ?_ ?_ ?_ ?_ ?_ fun hwf W low hlow P => ?_
    any_goals first | (simp only [enc_zero_mul, enc_add_zero, enc_zero_add, pdEnc]; omega) | omega
    try simp only [enc_zero_mul, enc_add_zero, enc_zero_add, pdEnc] at hlow
    have F : fld low 27 1 = 0 ∧ fld low 24 3 = 0 ∧ fld low 0 24 = n.val ∧ fld low 6 18 = 0 ∧ fld low 0 6 = n.val ∧ fld low 16 12 = 0 ∧ fld low 0 16 = n.val ∧ fld low 0 8 = n.val ∧ fld low 8 8 = 0 ∧ fld low 0 28 = n.val ∧ fld low 8 20 = 0 := by
      simp only [fld]; omega
    clear hlow
    obtain ⟨pc, po, pv, p52, p53, p54, p55, psc, pl2, pg, pd_, ps1, ps2, pslo, pshi, plt, pl⟩ := P
    obtain ⟨F0, F1, F2, F3, F4, F5, F6, F7, F8, F9, F10⟩ := F
    simp [decodeNat, hd, hcan, decLogI, decShI, pdClean, pdAt, imm24, getOr, req, bitAt, fin8, fin16, fin64, Bind.bind, Except.bind, Pure.pure, Except.pure, pc, po, pv, p52, p53, p54, p55, psc, pl2, pg, pd_, ps1, ps2, pslo, pshi, pl, F0, F1, F2, F3, F4, F5, F6, F7, F8, F9, F10]
  | some p0 =>
    have b0 := IntTy.code_lt ty
    have b1 := Fin.isLt p0
    have b2 := Fin.isLt d
    have b3 := Fin.isLt s1
    have b4 := Fin.isLt n
    refine Encoding.of_parts he ?_ ?_ ?_ ?_ ?_ ?_ ?_ fun hwf W low hlow P => ?_
    any_goals first | (simp only [enc_zero_mul, enc_add_zero, enc_zero_add, pdEnc]; omega) | omega
    try simp only [enc_zero_mul, enc_add_zero, enc_zero_add, pdEnc] at hlow
    have F : fld low 27 1 = 1 ∧ fld low 24 3 = p0.val ∧ fld low 0 24 = n.val ∧ fld low 6 18 = 0 ∧ fld low 0 6 = n.val ∧ fld low 16 12 = 1 * 2048 + p0.val * 256 ∧ fld low 0 16 = n.val ∧ fld low 0 8 = n.val ∧ fld low 8 8 = 0 ∧ fld low 0 28 = 1 * 134217728 + p0.val * 16777216 + n.val ∧ fld low 8 20 = 1 * 524288 + p0.val * 65536 := by
      simp only [fld]; omega
    clear hlow
    obtain ⟨pc, po, pv, p52, p53, p54, p55, psc, pl2, pg, pd_, ps1, ps2, pslo, pshi, plt, pl⟩ := P
    obtain ⟨F0, F1, F2, F3, F4, F5, F6, F7, F8, F9, F10⟩ := F
    simp [decodeNat, hd, hcan, decLogI, decShI, pdClean, pdAt, imm24, getOr, req, bitAt, fin8, fin16, fin64, Bind.bind, Except.bind, Pure.pure, Except.pure, pc, po, pv, p52, p53, p54, p55, psc, pl2, pg, pd_, ps1, ps2, pslo, pshi, pl, F0, F1, F2, F3, F4, F5, F6, F7, F8, F9, F10]

theorem Encoding.of_decSp (mk : IntTy → SpAddr → Fin 16 → Instr) (op : Nat) (hop : op < 32) (ty : IntTy) (a : SpAddr) (d : Fin 16)
    (he : encodeNat (mk ty a d) = some (encSp op ty.code d.val a)) (hd : ∀ W, decode2 op W = decSp W mk)
    (hcan : (mk ty a d).canonical = mk ty a d) : Encoding.Statement (mk ty a d) := by
  cases a with
  | index x0 =>
    have b0 := IntTy.code_lt ty
    have b1 := Fin.isLt x0
    have b2 := Fin.isLt d
    refine Encoding.of_parts he ?_ ?_ ?_ ?_ ?_ ?_ ?_ fun hwf W low hlow P => ?_
    any_goals first | (simp only [enc_zero_mul, enc_add_zero, enc_zero_add]; omega) | omega
    try simp only [enc_zero_mul, enc_add_zero, enc_zero_add] at hlow
    have F : fld low 26 2 = 0 ∧ fld low 25 1 = 0 ∧ fld low 24 1 = 0 ∧ fld low 24 2 = 0 ∧ fld low 24 4 = 0 ∧ fld low 27 1 = 0 ∧ fld low 24 3 = 0 ∧ fld low 16 8 = 0 ∧ fld low 8 8 = 0 ∧ fld low 0 8 = 0 ∧ fld low 0 28 = 0 := by
      simp only [fld]; omega
    clear hlow
    obtain ⟨pc, po, pv, p52, p53, p54, p55, psc, pl2, pg, pd_, ps1, ps2, pslo, pshi, plt, pl⟩ := P
    obtain ⟨F0, F1, F2, F3, F4, F5, F6, F7, F8, F9, F10⟩ := F
    simp [decodeNat, hd, hcan, decLdSt, offOf, offClean, spAddrOf, spClean, decSp, decSpB, decAtomic, sc4, subF, waveOf, getOr, req, bitAt, fin8, fin16, fin64, Bind.bind, Except.bind, Pure.pure, Except.pure, pc, po, pv, p52, p53, p54, p55, psc, pl2, pg, pd_, ps1, ps2, pslo, pshi, pl, F0, F1, F2, F3, F4, F5, F6, F7, F8, F9, F10]
  | gen x0 =>
    have b0 := IntTy.code_lt ty
    have b1 := Fin.isLt x0
    have b2 := Fin.isLt d
    refine Encoding.of_parts he ?_ ?_ ?_ ?_ ?_ ?_ ?_ fun hwf W low hlow P => ?_
    any_goals first | (simp only [enc_zero_mul, enc_add_zero, enc_zero_add]; omega) | omega
    try simp only [enc_zero_mul, enc_add_zero, enc_zero_add] at hlow
    have F : fld low 26 2 = 0 ∧ fld low 25 1 = 0 ∧ fld low 24 1 = 0 ∧ fld low 24 2 = 0 ∧ fld low 24 4 = 0 ∧ fld low 27 1 = 0 ∧ fld low 24 3 = 0 ∧ fld low 16 8 = 0 ∧ fld low 8 8 = 0 ∧ fld low 0 8 = 0 ∧ fld low 0 28 = 0 := by
      simp only [fld]; omega
    clear hlow
    obtain ⟨pc, po, pv, p52, p53, p54, p55, psc, pl2, pg, pd_, ps1, ps2, pslo, pshi, plt, pl⟩ := P
    obtain ⟨F0, F1, F2, F3, F4, F5, F6, F7, F8, F9, F10⟩ := F
    simp [decodeNat, hd, hcan, decLdSt, offOf, offClean, spAddrOf, spClean, decSp, decSpB, decAtomic, sc4, subF, waveOf, getOr, req, bitAt, fin8, fin16, fin64, Bind.bind, Except.bind, Pure.pure, Except.pure, pc, po, pv, p52, p53, p54, p55, psc, pl2, pg, pd_, ps1, ps2, pslo, pshi, pl, F0, F1, F2, F3, F4, F5, F6, F7, F8, F9, F10]

theorem Encoding.of_decSpB (mk : SpAddr → Fin 16 → Instr) (op : Nat) (hop : op < 32) (a : SpAddr) (d : Fin 16)
    (he : encodeNat (mk a d) = some (encSp op 0 (vSp d) a)) (hd : ∀ W, decode2 op W = decSpB W mk)
    (hcan : (mk a d).canonical = mk a d) : Encoding.Statement (mk a d) := by
  cases a with
  | index x0 =>
    have b0 := vSp_lt x0
    have b1 := vSp_lt d
    have b2 := Fin.isLt x0
    have b3 := Fin.isLt d
    refine Encoding.of_parts he ?_ ?_ ?_ ?_ ?_ ?_ ?_ fun hwf W low hlow P => ?_
    any_goals first | (simp only [enc_zero_mul, enc_add_zero, enc_zero_add]; omega) | omega
    try simp only [enc_zero_mul, enc_add_zero, enc_zero_add] at hlow
    have F : fld low 26 2 = 0 ∧ fld low 25 1 = 0 ∧ fld low 24 1 = 0 ∧ fld low 24 2 = 0 ∧ fld low 24 4 = 0 ∧ fld low 27 1 = 0 ∧ fld low 24 3 = 0 ∧ fld low 16 8 = 0 ∧ fld low 8 8 = 0 ∧ fld low 0 8 = 0 ∧ fld low 0 28 = 0 := by
      simp only [fld]; omega
    clear hlow
    obtain ⟨pc, po, pv, p52, p53, p54, p55, psc, pl2, pg, pd_, ps1, ps2, pslo, pshi, plt, pl⟩ := P
    obtain ⟨F0, F1, F2, F3, F4, F5, F6, F7, F8, F9, F10⟩ := F
    simp [decodeNat, hd, hcan, decLdSt, offOf, offClean, spAddrOf, spClean, decSp, decSpB, decAtomic, sc4, subF, waveOf, getOr, req, bitAt, fin8, fin16, fin64, Bind.bind, Except.bind, Pure.pure, Except.pure, pc, po, pv, p52, p53, p54, p55, psc, pl2, pg, pd_, ps1, ps2, pslo, pshi, pl, F0, F1, F2, F3, F4, F5, F6, F7, F8, F9, F10]
  | gen x0 =>
    have b0 := vSp_lt d
    have b1 := Fin.isLt x0
    have b2 := Fin.isLt d
    refine Encoding.of_parts he ?_ ?_ ?_ ?_ ?_ ?_ ?_ fun hwf W low hlow P => ?_
    any_goals first | (simp only [enc_zero_mul, enc_add_zero, enc_zero_add]; omega) | omega
    try simp only [enc_zero_mul, enc_add_zero, enc_zero_add] at hlow
    have F : fld low 26 2 = 0 ∧ fld low 25 1 = 0 ∧ fld low 24 1 = 0 ∧ fld low 24 2 = 0 ∧ fld low 24 4 = 0 ∧ fld low 27 1 = 0 ∧ fld low 24 3 = 0 ∧ fld low 16 8 = 0 ∧ fld low 8 8 = 0 ∧ fld low 0 8 = 0 ∧ fld low 0 28 = 0 := by
      simp only [fld]; omega
    clear hlow
    obtain ⟨pc, po, pv, p52, p53, p54, p55, psc, pl2, pg, pd_, ps1, ps2, pslo, pshi, plt, pl⟩ := P
    obtain ⟨F0, F1, F2, F3, F4, F5, F6, F7, F8, F9, F10⟩ := F
    simp [decodeNat, hd, hcan, decLdSt, offOf, offClean, spAddrOf, spClean, decSp, decSpB, decAtomic, sc4, subF, waveOf, getOr, req, bitAt, fin8, fin16, fin64, Bind.bind, Except.bind, Pure.pure, Except.pure, pc, po, pv, p52, p53, p54, p55, psc, pl2, pg, pd_, ps1, ps2, pslo, pshi, pl, F0, F1, F2, F3, F4, F5, F6, F7, F8, F9, F10]

theorem Encoding.of_decAtomic (mk : Scope → Bool → Ord4 → Fin 16 → Fin 16 → Fin 16 → Wave → Instr) (op : Nat) (hop : op < 32) (sc : Scope) (w64 : Bool) (o : Ord4) (d s1 s2 : Fin 16) (w : Wave)
    (he : encodeNat (mk sc w64 o d s1 s2 w) = some (encAt op sc w64 o false false d s1 s2 w)) (hd : ∀ W, decode2 op W = decAtomic W false false mk)
    (hcan : (mk sc w64 o d s1 s2 w).canonical = mk sc w64 o d s1 s2 w) : Encoding.Statement (mk sc w64 o d s1 s2 w) := by
  have b0 := Fin.isLt sc
  have b1 := Bool.toNat_lt w64
  have b2 := Ord4.code_lt o
  have b3 := Fin.isLt d
  have b4 := Fin.isLt s1
  have b5 := Fin.isLt s2
  have b6 := BitVec.isLt w.s
  have b7 := BitVec.isLt w.p
  have b8 := BitVec.isLt w.n
  refine Encoding.of_parts he ?_ ?_ ?_ ?_ ?_ ?_ ?_ fun hwf W low hlow P => ?_
  any_goals first | (simp only [enc_false, enc_zero_mul, enc_add_zero, enc_zero_add, Wave.code]; omega) | omega
  try simp only [enc_false, enc_zero_mul, enc_add_zero, enc_zero_add, Wave.code] at hlow
  have F : fld low 26 2 = o.code ∧ fld low 25 1 = 0 ∧ fld low 24 1 = 0 ∧ fld low 24 2 = 0 ∧ fld low 24 4 = o.code * 4 ∧ fld low 16 8 = w.s.toNat ∧ fld low 8 8 = w.p.toNat ∧ fld low 0 8 = w.n.toNat ∧ fld low 0 28 = o.code * 67108864 + w.s.toNat * 65536 + w.p.toNat * 256 + w.n.toNat := by
    simp only [fld]; omega
  clear hlow
  obtain ⟨pc, po, pv, p52, p53, p54, p55, psc, pl2, pg, pd_, ps1, ps2, pslo, pshi, plt, pl⟩ := P
  obtain ⟨F0, F1, F2, F3, F4, F5, F6, F7, F8⟩ := F
  simp [decodeNat, hd, hcan, decLdSt, offOf, offClean, spAddrOf, spClean, decSp, decSpB, decAtomic, sc4, subF, waveOf, getOr, req, bitAt, fin8, fin16, fin64, Bind.bind, Except.bind, Pure.pure, Except.pure, pc, po, pv, p52, p53, p54, p55, psc, pl2, pg, pd_, ps1, ps2, pslo, pshi, pl, F0, F1, F2, F3, F4, F5, F6, F7, F8]

theorem Encoding.of_decV3 (mk : Grp → Rm → Bool → Fmt → BitVec 8 → Fin 16 → Fin 16 → Fin 16 → Instr) (op : Nat) (hop : op < 32) (g : Grp) (rm : Rm) (sat : Bool) (f : Fmt) (tsc : BitVec 8) (d s1 s2 : Fin 16)
    (he : encodeNat (mk g rm sat f tsc d s1 s2) = some (encVA op g rm sat f tsc (vSp d) (vSp s1) (vSp s2) 0)) (hd : ∀ W, decode3 op W = decV3 W mk)
    (hcan : (mk g rm sat f tsc d s1 s2).canonical = mk g rm sat f tsc d s1 s2) (hm : (mk g rm sat f tsc d s1 s2).wellFormed = (.vadd g rm sat f tsc d s1 s2 : Instr).wellFormed) : Encoding.Statement (mk g rm sat f tsc d s1 s2) := by
  have b0 := vSp_lt d
  have b1 := vSp_lt s1
  have b2 := vSp_lt s2
  have b3 := Grp.code_lt g
  have b4 := Rm.code_lt rm
  have b5 := Bool.toNat_lt sat
  have b6 := Fmt.code_lt f
  have b7 := BitVec.isLt tsc
  have b8 := Fin.isLt d
  have b9 := Fin.isLt s1
  have b10 := Fin.isLt s2
  refine Encoding.of_parts he ?_ ?_ ?_ ?_ ?_ ?_ ?_ fun hwf W low hlow P => ?_
  any_goals first | (simp only [enc_zero_mul, enc_add_zero, enc_zero_add]; omega) | omega
  try simp only [enc_zero_mul, enc_add_zero, enc_zero_add] at hlow
  rw [hm] at hwf
  simp [Instr.wellFormed, vecOk, noRound, VAmount.ok] at hwf
  have F : fld low 24 4 = rm.code * 2 + sat.toNat ∧ fld low 25 3 = rm.code ∧ fld low 24 1 = sat.toNat ∧ fld low 16 8 = f.code ∧ fld low 8 8 = tsc.toNat ∧ fld low 7 1 = 0 ∧ fld low 4 3 = 0 ∧ fld low 4 4 = 0 ∧ fld low 0 4 = 0 ∧ fld low 0 3 = 0 ∧ fld low 3 1 = 0 := by
    simp only [fld]; omega
  clear hlow
  obtain ⟨pc, po, pv, p52, p53, p54, p55, psc, pl2, pg, pd_, ps1, ps2, pslo, pshi, plt, pl⟩ := P
  obtain ⟨F0, F1, F2, F3, F4, F5, F6, F7, F8, F9, F10⟩ := F
  simp [decodeNat, hd, hcan, tscF, vgrp, vecClean, pdClean, pdAt, fmtTsc, rmF, decV3, decV2, decVL, decVS, decVP, decVmovg, getOr, req, bitAt, fin8, fin16, fin64, Bind.bind, Except.bind, Pure.pure, Except.pure, pc, po, pv, p52, p53, p54, p55, psc, pl2, pg, pd_, ps1, ps2, pslo, pshi, pl, F0, F1, F2, F3, F4, F5, F6, F7, F8, F9, F10, hwf]

theorem Encoding.of_decV2a (mk : Grp → Rm → Bool → Fmt → BitVec 8 → Fin 16 → Fin 16 → Instr) (op : Nat) (hop : op < 32) (g : Grp) (rm : Rm) (sat : Bool) (f : Fmt) (tsc : BitVec 8) (d s1 : Fin 16)
    (he : encodeNat (mk g rm sat f tsc d s1) = some (encVA op g rm sat f tsc (vSp d) (vSp s1) 0 0)) (hd : ∀ W, decode3 op W = decV2 Fmt.arith W mk)
    (hcan : (mk g rm sat f tsc d s1).canonical = mk g rm sat f tsc d s1) (hm : (mk g rm sat f tsc d s1).wellFormed = (.vabs g rm sat f tsc d s1 : Instr).wellFormed) : Encoding.Statement (mk g rm sat f tsc d s1) := by
  have b0 := vSp_lt d
  have b1 := vSp_lt s1
  have b2 := Grp.code_lt g
  have b3 := Rm.code_lt rm
  have b4 := Bool.toNat_lt sat
  have b5 := Fmt.code_lt f
  have b6 := BitVec.isLt tsc
  have b7 := Fin.isLt d
  have b8 := Fin.isLt s1
  refine Encoding.of_parts he ?_ ?_ ?_ ?_ ?_ ?_ ?_ fun hwf W low hlow P => ?_
  any_goals first | (simp only [enc_zero_mul, enc_add_zero, enc_zero_add]; omega) | omega
  try simp only [enc_zero_mul, enc_add_zero, enc_zero_add] at hlow
  rw [hm] at hwf
  simp [Instr.wellFormed, vecOk, noRound, VAmount.ok] at hwf
  have F : fld low 24 4 = rm.code * 2 + sat.toNat ∧ fld low 25 3 = rm.code ∧ fld low 24 1 = sat.toNat ∧ fld low 16 8 = f.code ∧ fld low 8 8 = tsc.toNat ∧ fld low 7 1 = 0 ∧ fld low 4 3 = 0 ∧ fld low 4 4 = 0 ∧ fld low 0 4 = 0 ∧ fld low 0 3 = 0 ∧ fld low 3 1 = 0 := by
    simp only [fld]; omega
  clear hlow
  obtain ⟨pc, po, pv, p52, p53, p54, p55, psc, pl2, pg, pd_, ps1, ps2, pslo, pshi, plt, pl⟩ := P
  obtain ⟨F0, F1, F2, F3, F4, F5, F6, F7, F8, F9, F10⟩ := F
  simp [decodeNat, hd, hcan, tscF, vgrp, vecClean, pdClean, pdAt, fmtTsc, rmF, decV3, decV2, decVL, decVS, decVP, decVmovg, getOr, req, bitAt, fin8, fin16, fin64, Bind.bind, Except.bind, Pure.pure, Except.pure, pc, po, pv, p52, p53, p54, p55, psc, pl2, pg, pd_, ps1, ps2, pslo, pshi, pl, F0, F1, F2, F3, F4, F5, F6, F7, F8, F9, F10, hwf]

theorem Encoding.of_decV2s (mk : Grp → Rm → Bool → Fmt → BitVec 8 → Fin 16 → Fin 16 → Instr) (op : Nat) (hop : op < 32) (g : Grp) (rm : Rm) (sat : Bool) (f : Fmt) (tsc : BitVec 8) (d s1 : Fin 16)
    (he : encodeNat (mk g rm sat f tsc d s1) = some (encVA op g rm sat f tsc (vSp d) (vSp s1) 0 0)) (hd : ∀ W, decode3 op W = decV2 Fmt.special W mk)
    (hcan : (mk g rm sat f tsc d s1).canonical = mk g rm sat f tsc d s1) (hm : (mk g rm sat f tsc d s1).wellFormed = (.vrcp g rm sat f tsc d s1 : Instr).wellFormed) : Encoding.Statement (mk g rm sat f tsc d s1) := by
  have b0 := vSp_lt d
  have b1 := vSp_lt s1
  have b2 := Grp.code_lt g
  have b3 := Rm.code_lt rm
  have b4 := Bool.toNat_lt sat
  have b5 := Fmt.code_lt f
  have b6 := BitVec.isLt tsc
  have b7 := Fin.isLt d
  have b8 := Fin.isLt s1
  refine Encoding.of_parts he ?_ ?_ ?_ ?_ ?_ ?_ ?_ fun hwf W low hlow P => ?_
  any_goals first | (simp only [enc_zero_mul, enc_add_zero, enc_zero_add]; omega) | omega
  try simp only [enc_zero_mul, enc_add_zero, enc_zero_add] at hlow
  rw [hm] at hwf
  simp [Instr.wellFormed, vecOk, noRound, VAmount.ok] at hwf
  have F : fld low 24 4 = rm.code * 2 + sat.toNat ∧ fld low 25 3 = rm.code ∧ fld low 24 1 = sat.toNat ∧ fld low 16 8 = f.code ∧ fld low 8 8 = tsc.toNat ∧ fld low 7 1 = 0 ∧ fld low 4 3 = 0 ∧ fld low 4 4 = 0 ∧ fld low 0 4 = 0 ∧ fld low 0 3 = 0 ∧ fld low 3 1 = 0 := by
    simp only [fld]; omega
  clear hlow
  obtain ⟨pc, po, pv, p52, p53, p54, p55, psc, pl2, pg, pd_, ps1, ps2, pslo, pshi, plt, pl⟩ := P
  obtain ⟨F0, F1, F2, F3, F4, F5, F6, F7, F8, F9, F10⟩ := F
  simp [decodeNat, hd, hcan, tscF, vgrp, vecClean, pdClean, pdAt, fmtTsc, rmF, decV3, decV2, decVL, decVS, decVP, decVmovg, getOr, req, bitAt, fin8, fin16, fin64, Bind.bind, Except.bind, Pure.pure, Except.pure, pc, po, pv, p52, p53, p54, p55, psc, pl2, pg, pd_, ps1, ps2, pslo, pshi, pl, F0, F1, F2, F3, F4, F5, F6, F7, F8, F9, F10, hwf]

theorem Encoding.of_decVL (mk : Grp → Fin 16 → Fin 16 → Fin 16 → Instr) (op : Nat) (hop : op < 32) (g : Grp) (d s1 s2 : Fin 16)
    (he : encodeNat (mk g d s1 s2) = some (encV op g (vSp d) (vSp s1) (vSp s2) 0 0 0 0 0 0)) (hd : ∀ W, decode3 op W = decVL W mk)
    (hcan : (mk g d s1 s2).canonical = mk g d s1 s2) (hm : (mk g d s1 s2).wellFormed = (.vand g d s1 s2 : Instr).wellFormed) : Encoding.Statement (mk g d s1 s2) := by
  have b0 := vSp_lt d
  have b1 := vSp_lt s1
  have b2 := vSp_lt s2
  have b3 := Grp.code_lt g
  have b4 := Fin.isLt d
  have b5 := Fin.isLt s1
  have b6 := Fin.isLt s2
  refine Encoding.of_parts he ?_ ?_ ?_ ?_ ?_ ?_ ?_ fun hwf W low hlow P => ?_
  any_goals first | (simp only [enc_zero_mul, enc_add_zero, enc_zero_add]; omega) | omega
  try simp only [enc_zero_mul, enc_add_zero, enc_zero_add] at hlow
  rw [hm] at hwf
  simp [Instr.wellFormed, vecOk, noRound, VAmount.ok] at hwf
  have F : fld low 24 4 = 0 ∧ fld low 25 3 = 0 ∧ fld low 24 1 = 0 ∧ fld low 16 8 = 0 ∧ fld low 8 8 = 0 ∧ fld low 8 3 = 0 ∧ fld low 8 6 = 0 ∧ fld low 7 1 = 0 ∧ fld low 4 3 = 0 ∧ fld low 4 4 = 0 ∧ fld low 0 4 = 0 ∧ fld low 0 3 = 0 ∧ fld low 3 1 = 0 := by
    simp only [fld]; omega
  clear hlow
  obtain ⟨pc, po, pv, p52, p53, p54, p55, psc, pl2, pg, pd_, ps1, ps2, pslo, pshi, plt, pl⟩ := P
  obtain ⟨F0, F1, F2, F3, F4, F5, F6, F7, F8, F9, F10, F11, F12⟩ := F
  simp [decodeNat, hd, hcan, tscF, vgrp, vecClean, pdClean, pdAt, fmtTsc, rmF, decV3, decV2, decVL, decVS, decVP, decVmovg, getOr, req, bitAt, fin8, fin16, fin64, Bind.bind, Except.bind, Pure.pure, Except.pure, pc, po, pv, p52, p53, p54, p55, psc, pl2, pg, pd_, ps1, ps2, pslo, pshi, pl, F0, F1, F2, F3, F4, F5, F6, F7, F8, F9, F10, F11, F12, hwf]

theorem Encoding.of_decVP (mk : Grp → Fmt → Fin 16 → Fin 16 → Fin 16 → Instr) (op : Nat) (hop : op < 32) (g : Grp) (f : Fmt) (d s1 s2 : Fin 16)
    (he : encodeNat (mk g f d s1 s2) = some (encV op g (vSp d) (vSp s1) (vSp s2) 0 0 f.code 0 0 0)) (hd : ∀ W, decode3 op W = decVP W mk)
    (hcan : (mk g f d s1 s2).canonical = mk g f d s1 s2) (hm : (mk g f d s1 s2).wellFormed = (.vsel g f d s1 s2 : Instr).wellFormed) : Encoding.Statement (mk g f d s1 s2) := by
  have b0 := vSp_lt d
  have b1 := vSp_lt s1
  have b2 := vSp_lt s2
  have b3 := Grp.code_lt g
  have b4 := Fmt.code_lt f
  have b5 := Fin.isLt d
  have b6 := Fin.isLt s1
  have b7 := Fin.isLt s2
  refine Encoding.of_parts he ?_ ?_ ?_ ?_ ?_ ?_ ?_ fun hwf W low hlow P => ?_
  any_goals first | (simp only [enc_zero_mul, enc_add_zero, enc_zero_add]; omega) | omega
  try simp only [enc_zero_mul, enc_add_zero, enc_zero_add] at hlow
  rw [hm] at hwf
  simp [Instr.wellFormed, vecOk, noRound, VAmount.ok] at hwf
  have F : fld low 24 4 = 0 ∧ fld low 25 3 = 0 ∧ fld low 24 1 = 0 ∧ fld low 16 8 = f.code ∧ fld low 8 8 = 0 ∧ fld low 8 3 = 0 ∧ fld low 8 6 = 0 ∧ fld low 7 1 = 0 ∧ fld low 4 3 = 0 ∧ fld low 4 4 = 0 ∧ fld low 0 4 = 0 ∧ fld low 0 3 = 0 ∧ fld low 3 1 = 0 := by
    simp only [fld]; omega
  clear hlow
  obtain ⟨pc, po, pv, p52, p53, p54, p55, psc, pl2, pg, pd_, ps1, ps2, pslo, pshi, plt, pl⟩ := P
  obtain ⟨F0, F1, F2, F3, F4, F5, F6, F7, F8, F9, F10, F11, F12⟩ := F
  simp [decodeNat, hd, hcan, tscF, vgrp, vecClean, pdClean, pdAt, fmtTsc, rmF, decV3, decV2, decVL, decVS, decVP, decVmovg, getOr, req, bitAt, fin8, fin16, fin64, Bind.bind, Except.bind, Pure.pure, Except.pure, pc, po, pv, p52, p53, p54, p55, psc, pl2, pg, pd_, ps1, ps2, pslo, pshi, pl, F0, F1, F2, F3, F4, F5, F6, F7, F8, F9, F10, F11, F12, hwf]

theorem Encoding.of_decMma (mk : Bool → Bool → Fmt → Fin 4 → MSrc → MSrc → Fin 16 → Instr) (op : Nat) (hop : op < 32) (fwd za : Bool) (f : Fmt) (d : Fin 4) (a b : MSrc) (gx : Fin 16)
    (he : encodeNat (mk fwd za f d a b gx) = some (encM op (za.toNat * 2 + fwd.toNat) (aSp d) a.sp' b.sp' 0 0 f.code gx.val)) (hd : ∀ W, decode4 op W = decMma W mk)
    (hcan : (mk fwd za f d a b gx).canonical = mk fwd za f d a b gx) (hm : (mk fwd za f d a b gx).wellFormed = (.mma fwd za f d a b gx : Instr).wellFormed) : Encoding.Statement (mk fwd za f d a b gx) := by
  have b0 := aSp_lt d
  have b1 := Bool.toNat_lt fwd
  have b2 := Bool.toNat_lt za
  have b3 := Fmt.code_lt f
  have b4 := Fin.isLt d
  have b5 := MSrc.sp_lt a
  have b6 := MSrc.sp_lt b
  have b7 := Fin.isLt gx
  refine Encoding.of_parts he ?_ ?_ ?_ ?_ ?_ ?_ ?_ fun hwf W low hlow P => ?_
  any_goals first | (simp only [enc_zero_mul, enc_add_zero, enc_zero_add]; omega) | omega
  try simp only [enc_zero_mul, enc_add_zero, enc_zero_add] at hlow
  rw [hm] at hwf
  simp [Instr.wellFormed, vecOk, noRound, VAmount.ok] at hwf
  have hm2 := mmaOk_false _ _ _ hwf.2
  have F : fld low 24 4 = 0 ∧ fld low 25 3 = 0 ∧ fld low 24 1 = 0 ∧ fld low 16 8 = f.code ∧ fld low 12 4 = gx.val ∧ fld low 0 12 = 0 ∧ fld low 16 12 = f.code ∧ fld low 12 12 = f.code * 16 + gx.val := by
    simp only [fld]; omega
  clear hlow
  obtain ⟨pc, po, pv, p52, p53, p54, p55, psc, pl2, pg, pd_, ps1, ps2, pslo, pshi, plt, pl⟩ := P
  obtain ⟨F0, F1, F2, F3, F4, F5, F6, F7⟩ := F
  simp [decodeNat, hd, hcan, matClean, decMma, decFac, rmF, getOr, req, bitAt, fin8, fin16, fin64, Bind.bind, Except.bind, Pure.pure, Except.pure, pc, po, pv, p52, p53, p54, p55, psc, pl2, pg, pd_, ps1, ps2, pslo, pshi, pl, F0, F1, F2, F3, F4, F5, F6, F7, hwf, hm2]

theorem Encoding.add (ty : IntTy) (sat : Bool) (pd : PDst) (d s1 s2 : Fin 16) : Encoding.Statement (.add ty sat pd d s1 s2) :=
  Encoding.of_dec3s .add 0x00 (by decide) ty sat pd d s1 s2 rfl (fun _ => rfl) rfl

theorem Encoding.sub (ty : IntTy) (sat : Bool) (pd : PDst) (d s1 s2 : Fin 16) : Encoding.Statement (.sub ty sat pd d s1 s2) :=
  Encoding.of_dec3s .sub 0x01 (by decide) ty sat pd d s1 s2 rfl (fun _ => rfl) rfl

theorem Encoding.mul (ty : IntTy) (sat : Bool) (pd : PDst) (d s1 s2 : Fin 16) : Encoding.Statement (.mul ty sat pd d s1 s2) :=
  Encoding.of_dec3s .mul 0x02 (by decide) ty sat pd d s1 s2 rfl (fun _ => rfl) rfl

theorem Encoding.mulh (ty : IntTy) (pd : PDst) (d s1 s2 : Fin 16) : Encoding.Statement (.mulh ty pd d s1 s2) :=
  Encoding.of_dec3 .mulh 0x03 (by decide) ty pd d s1 s2 rfl (fun _ => rfl) rfl

theorem Encoding.div (ty : IntTy) (sat : Bool) (pd : PDst) (d s1 s2 : Fin 16) : Encoding.Statement (.div ty sat pd d s1 s2) :=
  Encoding.of_dec3s .div 0x04 (by decide) ty sat pd d s1 s2 rfl (fun _ => rfl) rfl

theorem Encoding.rem (ty : IntTy) (pd : PDst) (d s1 s2 : Fin 16) : Encoding.Statement (.rem ty pd d s1 s2) :=
  Encoding.of_dec3 .rem 0x05 (by decide) ty pd d s1 s2 rfl (fun _ => rfl) rfl

theorem Encoding.and (ty : IntTy) (pd : PDst) (d s1 s2 : Fin 16) : Encoding.Statement (.and ty pd d s1 s2) :=
  Encoding.of_dec3 .and 0x06 (by decide) ty pd d s1 s2 rfl (fun _ => rfl) rfl

theorem Encoding.or (ty : IntTy) (pd : PDst) (d s1 s2 : Fin 16) : Encoding.Statement (.or ty pd d s1 s2) :=
  Encoding.of_dec3 .or 0x07 (by decide) ty pd d s1 s2 rfl (fun _ => rfl) rfl

theorem Encoding.xor (ty : IntTy) (pd : PDst) (d s1 s2 : Fin 16) : Encoding.Statement (.xor ty pd d s1 s2) :=
  Encoding.of_dec3 .xor 0x08 (by decide) ty pd d s1 s2 rfl (fun _ => rfl) rfl

theorem Encoding.andn (ty : IntTy) (pd : PDst) (d s1 s2 : Fin 16) : Encoding.Statement (.andn ty pd d s1 s2) :=
  Encoding.of_dec3 .andn 0x09 (by decide) ty pd d s1 s2 rfl (fun _ => rfl) rfl

theorem Encoding.shl (ty : IntTy) (sat : Bool) (pd : PDst) (d s1 s2 : Fin 16) : Encoding.Statement (.shl ty sat pd d s1 s2) :=
  Encoding.of_dec3s .shl 0x0A (by decide) ty sat pd d s1 s2 rfl (fun _ => rfl) rfl

theorem Encoding.shr (ty : IntTy) (pd : PDst) (d s1 s2 : Fin 16) : Encoding.Statement (.shr ty pd d s1 s2) :=
  Encoding.of_dec3 .shr 0x0B (by decide) ty pd d s1 s2 rfl (fun _ => rfl) rfl

theorem Encoding.sar (ty : IntTy) (pd : PDst) (d s1 s2 : Fin 16) : Encoding.Statement (.sar ty pd d s1 s2) :=
  Encoding.of_dec3 .sar 0x0C (by decide) ty pd d s1 s2 rfl (fun _ => rfl) rfl

theorem Encoding.min (ty : IntTy) (pd : PDst) (d s1 s2 : Fin 16) : Encoding.Statement (.min ty pd d s1 s2) :=
  Encoding.of_dec3 .min 0x0D (by decide) ty pd d s1 s2 rfl (fun _ => rfl) rfl

theorem Encoding.max (ty : IntTy) (pd : PDst) (d s1 s2 : Fin 16) : Encoding.Statement (.max ty pd d s1 s2) :=
  Encoding.of_dec3 .max 0x0E (by decide) ty pd d s1 s2 rfl (fun _ => rfl) rfl

theorem Encoding.clz (ty : IntTy) (pd : PDst) (d s1 : Fin 16) : Encoding.Statement (.clz ty pd d s1) :=
  Encoding.of_dec2 .clz 0x0F (by decide) ty pd d s1 rfl (fun _ => rfl) rfl

theorem Encoding.popc (ty : IntTy) (pd : PDst) (d s1 : Fin 16) : Encoding.Statement (.popc ty pd d s1) :=
  Encoding.of_dec2 .popc 0x10 (by decide) ty pd d s1 rfl (fun _ => rfl) rfl

theorem Encoding.bfx (sgn : Bool) (pos widm : Fin 64) (pd : PDst) (d s1 : Fin 16) : Encoding.Statement (.bfx sgn pos widm pd d s1) := by
  cases pd with
  | none =>
    have b0 := Bool.toNat_lt sgn
    have b1 := sgn64_lt sgn
    have b2 := Fin.isLt pos
    have b3 := Fin.isLt widm
    have b4 := Fin.isLt d
    have b5 := Fin.isLt s1
    refine Encoding.of_parts rfl ?_ ?_ ?_ ?_ ?_ ?_ ?_ fun hwf W low hlow P => ?_
    any_goals first | (simp only [enc_zero_mul, enc_add_zero, enc_zero_add, pdEnc]; omega) | omega
    try simp only [enc_zero_mul, enc_add_zero, enc_zero_add, pdEnc] at hlow
    simp [Instr.wellFormed, vecOk, noRound, VAmount.ok] at hwf
    have F : fld low 27 1 = 0 ∧ fld low 24 3 = 0 ∧ fld low 21 3 = 0 ∧ fld low 20 1 = 0 ∧ fld low 14 6 = pos.val ∧ fld low 8 6 = widm.val ∧ fld low 0 8 = 0 ∧ fld low 0 24 = pos.val * 16384 + widm.val * 256 ∧ fld low 0 21 = pos.val * 16384 + widm.val * 256 := by
      simp only [fld]; omega
    clear hlow
    obtain ⟨pc, po, pv, p52, p53, p54, p55, psc, pl2, pg, pd_, ps1, ps2, pslo, pshi, plt, pl⟩ := P
    obtain ⟨F0, F1, F2, F3, F4, F5, F6, F7, F8⟩ := F
    simp [decodeNat, Instr.canonical, decode0, dec3s, dec3, dec2, decF, decFm, scalarClean, pdClean, pdAt, getOr, req, bitAt, fin8, fin16, fin64, Bind.bind, Except.bind, Pure.pure, Except.pure, pc, po, pv, p52, p53, p54, p55, psc, pl2, pg, pd_, ps1, ps2, pslo, pshi, pl, F0, F1, F2, F3, F4, F5, F6, F7, F8, hwf]
  | some p0 =>
    have b0 := Bool.toNat_lt sgn
    have b1 := sgn64_lt sgn
    have b2 := Fin.isLt pos
    have b3 := Fin.isLt widm
    have b4 := Fin.isLt p0
    have b5 := Fin.isLt d
    have b6 := Fin.isLt s1
    refine Encoding.of_parts rfl ?_ ?_ ?_ ?_ ?_ ?_ ?_ fun hwf W low hlow P => ?_
    any_goals first | (simp only [enc_zero_mul, enc_add_zero, enc_zero_add, pdEnc]; omega) | omega
    try simp only [enc_zero_mul, enc_add_zero, enc_zero_add, pdEnc] at hlow
    simp [Instr.wellFormed, vecOk, noRound, VAmount.ok] at hwf
    have F : fld low 27 1 = 1 ∧ fld low 24 3 = p0.val ∧ fld low 21 3 = 0 ∧ fld low 20 1 = 0 ∧ fld low 14 6 = pos.val ∧ fld low 8 6 = widm.val ∧ fld low 0 8 = 0 ∧ fld low 0 24 = pos.val * 16384 + widm.val * 256 ∧ fld low 0 21 = pos.val * 16384 + widm.val * 256 := by
      simp only [fld]; omega
    clear hlow
    obtain ⟨pc, po, pv, p52, p53, p54, p55, psc, pl2, pg, pd_, ps1, ps2, pslo, pshi, plt, pl⟩ := P
    obtain ⟨F0, F1, F2, F3, F4, F5, F6, F7, F8⟩ := F
    simp [decodeNat, Instr.canonical, decode0, dec3s, dec3, dec2, decF, decFm, scalarClean, pdClean, pdAt, getOr, req, bitAt, fin8, fin16, fin64, Bind.bind, Except.bind, Pure.pure, Except.pure, pc, po, pv, p52, p53, p54, p55, psc, pl2, pg, pd_, ps1, ps2, pslo, pshi, pl, F0, F1, F2, F3, F4, F5, F6, F7, F8, hwf]

theorem Encoding.bfi (pos widm : Fin 64) (pd : PDst) (d s1 : Fin 16) : Encoding.Statement (.bfi pos widm pd d s1) := by
  cases pd with
  | none =>
    have b0 := Fin.isLt pos
    have b1 := Fin.isLt widm
    have b2 := Fin.isLt d
    have b3 := Fin.isLt s1
    refine Encoding.of_parts rfl ?_ ?_ ?_ ?_ ?_ ?_ ?_ fun hwf W low hlow P => ?_
    any_goals first | (simp only [enc_zero_mul, enc_add_zero, enc_zero_add, pdEnc]; omega) | omega
    try simp only [enc_zero_mul, enc_add_zero, enc_zero_add, pdEnc] at hlow
    simp [Instr.wellFormed, vecOk, noRound, VAmount.ok] at hwf
    have F : fld low 27 1 = 0 ∧ fld low 24 3 = 0 ∧ fld low 21 3 = 0 ∧ fld low 20 1 = 0 ∧ fld low 14 6 = pos.val ∧ fld low 8 6 = widm.val ∧ fld low 0 8 = 0 ∧ fld low 0 24 = pos.val * 16384 + widm.val * 256 ∧ fld low 0 21 = pos.val * 16384 + widm.val * 256 := by
      simp only [fld]; omega
    clear hlow
    obtain ⟨pc, po, pv, p52, p53, p54, p55, psc, pl2, pg, pd_, ps1, ps2, pslo, pshi, plt, pl⟩ := P
    obtain ⟨F0, F1, F2, F3, F4, F5, F6, F7, F8⟩ := F
    simp [decodeNat, Instr.canonical, decode0, dec3s, dec3, dec2, decF, decFm, scalarClean, pdClean, pdAt, getOr, req, bitAt, fin8, fin16, fin64, Bind.bind, Except.bind, Pure.pure, Except.pure, pc, po, pv, p52, p53, p54, p55, psc, pl2, pg, pd_, ps1, ps2, pslo, pshi, pl, F0, F1, F2, F3, F4, F5, F6, F7, F8, hwf]
  | some p0 =>
    have b0 := Fin.isLt pos
    have b1 := Fin.isLt widm
    have b2 := Fin.isLt p0
    have b3 := Fin.isLt d
    have b4 := Fin.isLt s1
    refine Encoding.of_parts rfl ?_ ?_ ?_ ?_ ?_ ?_ ?_ fun hwf W low hlow P => ?_
    any_goals first | (simp only [enc_zero_mul, enc_add_zero, enc_zero_add, pdEnc]; omega) | omega
    try simp only [enc_zero_mul, enc_add_zero, enc_zero_add, pdEnc] at hlow
    simp [Instr.wellFormed, vecOk, noRound, VAmount.ok] at hwf
    have F : fld low 27 1 = 1 ∧ fld low 24 3 = p0.val ∧ fld low 21 3 = 0 ∧ fld low 20 1 = 0 ∧ fld low 14 6 = pos.val ∧ fld low 8 6 = widm.val ∧ fld low 0 8 = 0 ∧ fld low 0 24 = pos.val * 16384 + widm.val * 256 ∧ fld low 0 21 = pos.val * 16384 + widm.val * 256 := by
      simp only [fld]; omega
    clear hlow
    obtain ⟨pc, po, pv, p52, p53, p54, p55, psc, pl2, pg, pd_, ps1, ps2, pslo, pshi, plt, pl⟩ := P
    obtain ⟨F0, F1, F2, F3, F4, F5, F6, F7, F8⟩ := F
    simp [decodeNat, Instr.canonical, decode0, dec3s, dec3, dec2, decF, decFm, scalarClean, pdClean, pdAt, getOr, req, bitAt, fin8, fin16, fin64, Bind.bind, Except.bind, Pure.pure, Except.pure, pc, po, pv, p52, p53, p54, p55, psc, pl2, pg, pd_, ps1, ps2, pslo, pshi, pl, F0, F1, F2, F3, F4, F5, F6, F7, F8, hwf]

theorem Encoding.sel (p : Fin 8) (d s1 s2 : Fin 16) : Encoding.Statement (.sel p d s1 s2) := by
  have b0 := Fin.isLt p
  have b1 := Fin.isLt d
  have b2 := Fin.isLt s1
  have b3 := Fin.isLt s2
  refine Encoding.of_parts rfl ?_ ?_ ?_ ?_ ?_ ?_ ?_ fun hwf W low hlow P => ?_
  any_goals first | (simp only [enc_zero_mul, enc_add_zero, enc_zero_add]; omega) | omega
  try simp only [enc_zero_mul, enc_add_zero, enc_zero_add] at hlow
  have F : fld low 27 1 = 0 ∧ fld low 24 3 = p.val ∧ fld low 21 3 = 0 ∧ fld low 20 1 = 0 ∧ fld low 14 6 = 0 ∧ fld low 8 6 = 0 ∧ fld low 0 8 = 0 ∧ fld low 0 24 = 0 ∧ fld low 0 21 = 0 := by
    simp only [fld]; omega
  clear hlow
  obtain ⟨pc, po, pv, p52, p53, p54, p55, psc, pl2, pg, pd_, ps1, ps2, pslo, pshi, plt, pl⟩ := P
  obtain ⟨F0, F1, F2, F3, F4, F5, F6, F7, F8⟩ := F
  simp [decodeNat, Instr.canonical, decode0, dec3s, dec3, dec2, decF, decFm, scalarClean, pdClean, pdAt, getOr, req, bitAt, fin8, fin16, fin64, Bind.bind, Except.bind, Pure.pure, Except.pure, pc, po, pv, p52, p53, p54, p55, psc, pl2, pg, pd_, ps1, ps2, pslo, pshi, pl, F0, F1, F2, F3, F4, F5, F6, F7, F8]

theorem Encoding.cmp (ty : IntTy) (c : Cond) (pd : Fin 8) (s1 s2 : Fin 16) : Encoding.Statement (.cmp ty c pd s1 s2) := by
  have b0 := IntTy.code_lt ty
  have b1 := Cond.code_lt c
  have b2 := Fin.isLt pd
  have b3 := Fin.isLt s1
  have b4 := Fin.isLt s2
  refine Encoding.of_parts rfl ?_ ?_ ?_ ?_ ?_ ?_ ?_ fun hwf W low hlow P => ?_
  any_goals first | (simp only [enc_zero_mul, enc_add_zero, enc_zero_add, pdEnc]; omega) | omega
  try simp only [enc_zero_mul, enc_add_zero, enc_zero_add, pdEnc] at hlow
  simp [Instr.wellFormed, vecOk, noRound, VAmount.ok] at hwf
  have F : fld low 27 1 = 1 ∧ fld low 24 3 = pd.val ∧ fld low 21 3 = c.code ∧ fld low 20 1 = 0 ∧ fld low 14 6 = 0 ∧ fld low 8 6 = 0 ∧ fld low 0 8 = 0 ∧ fld low 0 24 = c.code * 2097152 ∧ fld low 0 21 = 0 := by
    simp only [fld]; omega
  clear hlow
  obtain ⟨pc, po, pv, p52, p53, p54, p55, psc, pl2, pg, pd_, ps1, ps2, pslo, pshi, plt, pl⟩ := P
  obtain ⟨F0, F1, F2, F3, F4, F5, F6, F7, F8⟩ := F
  simp [decodeNat, Instr.canonical, decode0, dec3s, dec3, dec2, decF, decFm, scalarClean, pdClean, pdAt, getOr, req, bitAt, fin8, fin16, fin64, Bind.bind, Except.bind, Pure.pure, Except.pure, pc, po, pv, p52, p53, p54, p55, psc, pl2, pg, pd_, ps1, ps2, pslo, pshi, pl, F0, F1, F2, F3, F4, F5, F6, F7, F8, hwf]

theorem Encoding.widx (i : Fin 6) (pd : PDst) (d : Fin 16) : Encoding.Statement (.widx i pd d) := by
  cases pd with
  | none =>
    have b0 := Fin.isLt i
    have b1 := Fin.isLt d
    refine Encoding.of_parts rfl ?_ ?_ ?_ ?_ ?_ ?_ ?_ fun hwf W low hlow P => ?_
    any_goals first | (simp only [enc_zero_mul, enc_add_zero, enc_zero_add, pdEnc]; omega) | omega
    try simp only [enc_zero_mul, enc_add_zero, enc_zero_add, pdEnc] at hlow
    have F : fld low 27 1 = 0 ∧ fld low 24 3 = 0 ∧ fld low 21 3 = 0 ∧ fld low 20 1 = 0 ∧ fld low 14 6 = i.val ∧ fld low 8 6 = 0 ∧ fld low 0 8 = 0 ∧ fld low 0 24 = i.val * 16384 ∧ fld low 0 21 = i.val * 16384 := by
      simp only [fld]; omega
    clear hlow
    obtain ⟨pc, po, pv, p52, p53, p54, p55, psc, pl2, pg, pd_, ps1, ps2, pslo, pshi, plt, pl⟩ := P
    obtain ⟨F0, F1, F2, F3, F4, F5, F6, F7, F8⟩ := F
    simp [decodeNat, Instr.canonical, decode0, dec3s, dec3, dec2, decF, decFm, scalarClean, pdClean, pdAt, getOr, req, bitAt, fin8, fin16, fin64, Bind.bind, Except.bind, Pure.pure, Except.pure, pc, po, pv, p52, p53, p54, p55, psc, pl2, pg, pd_, ps1, ps2, pslo, pshi, pl, F0, F1, F2, F3, F4, F5, F6, F7, F8]
  | some p0 =>
    have b0 := Fin.isLt i
    have b1 := Fin.isLt p0
    have b2 := Fin.isLt d
    refine Encoding.of_parts rfl ?_ ?_ ?_ ?_ ?_ ?_ ?_ fun hwf W low hlow P => ?_
    any_goals first | (simp only [enc_zero_mul, enc_add_zero, enc_zero_add, pdEnc]; omega) | omega
    try simp only [enc_zero_mul, enc_add_zero, enc_zero_add, pdEnc] at hlow
    have F : fld low 27 1 = 1 ∧ fld low 24 3 = p0.val ∧ fld low 21 3 = 0 ∧ fld low 20 1 = 0 ∧ fld low 14 6 = i.val ∧ fld low 8 6 = 0 ∧ fld low 0 8 = 0 ∧ fld low 0 24 = i.val * 16384 ∧ fld low 0 21 = i.val * 16384 := by
      simp only [fld]; omega
    clear hlow
    obtain ⟨pc, po, pv, p52, p53, p54, p55, psc, pl2, pg, pd_, ps1, ps2, pslo, pshi, plt, pl⟩ := P
    obtain ⟨F0, F1, F2, F3, F4, F5, F6, F7, F8⟩ := F
    simp [decodeNat, Instr.canonical, decode0, dec3s, dec3, dec2, decF, decFm, scalarClean, pdClean, pdAt, getOr, req, bitAt, fin8, fin16, fin64, Bind.bind, Except.bind, Pure.pure, Except.pure, pc, po, pv, p52, p53, p54, p55, psc, pl2, pg, pd_, ps1, ps2, pslo, pshi, pl, F0, F1, F2, F3, F4, F5, F6, F7, F8]

theorem Encoding.fadd (rm : Rm) (sat : Bool) (pd : PDst) (d s1 s2 : Fin 16) : Encoding.Statement (.fadd rm sat pd d s1 s2) :=
  Encoding.of_decF .fadd 0x16 (by decide) rm sat pd d s1 s2 rfl (fun _ => rfl) rfl

theorem Encoding.fsub (rm : Rm) (sat : Bool) (pd : PDst) (d s1 s2 : Fin 16) : Encoding.Statement (.fsub rm sat pd d s1 s2) :=
  Encoding.of_decF .fsub 0x17 (by decide) rm sat pd d s1 s2 rfl (fun _ => rfl) rfl

theorem Encoding.fmul (rm : Rm) (sat : Bool) (pd : PDst) (d s1 s2 : Fin 16) : Encoding.Statement (.fmul rm sat pd d s1 s2) :=
  Encoding.of_decF .fmul 0x18 (by decide) rm sat pd d s1 s2 rfl (fun _ => rfl) rfl

theorem Encoding.ffma (rm : Rm) (sat : Bool) (pd : PDst) (d s1 s2 : Fin 16) : Encoding.Statement (.ffma rm sat pd d s1 s2) :=
  Encoding.of_decF .ffma 0x19 (by decide) rm sat pd d s1 s2 rfl (fun _ => rfl) rfl

theorem Encoding.fmin (pd : PDst) (d s1 s2 : Fin 16) : Encoding.Statement (.fmin pd d s1 s2) :=
  Encoding.of_decFm .fmin 0x1A (by decide) pd d s1 s2 rfl (fun _ => rfl) rfl

theorem Encoding.fmax (pd : PDst) (d s1 s2 : Fin 16) : Encoding.Statement (.fmax pd d s1 s2) :=
  Encoding.of_decFm .fmax 0x1B (by decide) pd d s1 s2 rfl (fun _ => rfl) rfl

theorem Encoding.fcmp (c : Cond) (pd : Fin 8) (s1 s2 : Fin 16) : Encoding.Statement (.fcmp c pd s1 s2) := by
  have b0 := Cond.code_lt c
  have b1 := Fin.isLt pd
  have b2 := Fin.isLt s1
  have b3 := Fin.isLt s2
  refine Encoding.of_parts rfl ?_ ?_ ?_ ?_ ?_ ?_ ?_ fun hwf W low hlow P => ?_
  any_goals first | (simp only [enc_zero_mul, enc_add_zero, enc_zero_add, pdEnc]; omega) | omega
  try simp only [enc_zero_mul, enc_add_zero, enc_zero_add, pdEnc] at hlow
  have F : fld low 27 1 = 1 ∧ fld low 24 3 = pd.val ∧ fld low 21 3 = c.code ∧ fld low 20 1 = 0 ∧ fld low 14 6 = 0 ∧ fld low 8 6 = 0 ∧ fld low 0 8 = 0 ∧ fld low 0 24 = c.code * 2097152 ∧ fld low 0 21 = 0 := by
    simp only [fld]; omega
  clear hlow
  obtain ⟨pc, po, pv, p52, p53, p54, p55, psc, pl2, pg, pd_, ps1, ps2, pslo, pshi, plt, pl⟩ := P
  obtain ⟨F0, F1, F2, F3, F4, F5, F6, F7, F8⟩ := F
  simp [decodeNat, Instr.canonical, decode0, dec3s, dec3, dec2, decF, decFm, scalarClean, pdClean, pdAt, getOr, req, bitAt, fin8, fin16, fin64, Bind.bind, Except.bind, Pure.pure, Except.pure, pc, po, pv, p52, p53, p54, p55, psc, pl2, pg, pd_, ps1, ps2, pslo, pshi, pl, F0, F1, F2, F3, F4, F5, F6, F7, F8]

theorem Encoding.fcvt (op : FcvtOp) (rm : Rm) (sat : Bool) (pd : PDst) (d s1 : Fin 16) : Encoding.Statement (.fcvt op rm sat pd d s1) := by
  cases pd with
  | none =>
    have b0 := FcvtOp.code_lt op
    have b1 := Rm.code_lt rm
    have b2 := Bool.toNat_lt sat
    have b3 := Fin.isLt d
    have b4 := Fin.isLt s1
    refine Encoding.of_parts rfl ?_ ?_ ?_ ?_ ?_ ?_ ?_ fun hwf W low hlow P => ?_
    any_goals first | (simp only [enc_zero_mul, enc_add_zero, enc_zero_add, pdEnc]; omega) | omega
    try simp only [enc_zero_mul, enc_add_zero, enc_zero_add, pdEnc] at hlow
    simp [Instr.wellFormed, vecOk, noRound, VAmount.ok] at hwf
    have F : fld low 27 1 = 0 ∧ fld low 24 3 = 0 ∧ fld low 21 3 = rm.code ∧ fld low 20 1 = sat.toNat ∧ fld low 14 6 = 0 ∧ fld low 8 6 = 0 ∧ fld low 0 8 = 0 ∧ fld low 0 24 = rm.code * 2097152 + sat.toNat * 1048576 ∧ fld low 0 21 = sat.toNat * 1048576 := by
      simp only [fld]; omega
    clear hlow
    obtain ⟨pc, po, pv, p52, p53, p54, p55, psc, pl2, pg, pd_, ps1, ps2, pslo, pshi, plt, pl⟩ := P
    obtain ⟨F0, F1, F2, F3, F4, F5, F6, F7, F8⟩ := F
    simp [decodeNat, Instr.canonical, decode0, dec3s, dec3, dec2, decF, decFm, scalarClean, pdClean, pdAt, getOr, req, bitAt, fin8, fin16, fin64, Bind.bind, Except.bind, Pure.pure, Except.pure, pc, po, pv, p52, p53, p54, p55, psc, pl2, pg, pd_, ps1, ps2, pslo, pshi, pl, F0, F1, F2, F3, F4, F5, F6, F7, F8, hwf]
    cases op <;> simp_all [FcvtOp.usesRm, FcvtOp.usesSat, Rm.code]
  | some p0 =>
    have b0 := FcvtOp.code_lt op
    have b1 := Rm.code_lt rm
    have b2 := Bool.toNat_lt sat
    have b3 := Fin.isLt p0
    have b4 := Fin.isLt d
    have b5 := Fin.isLt s1
    refine Encoding.of_parts rfl ?_ ?_ ?_ ?_ ?_ ?_ ?_ fun hwf W low hlow P => ?_
    any_goals first | (simp only [enc_zero_mul, enc_add_zero, enc_zero_add, pdEnc]; omega) | omega
    try simp only [enc_zero_mul, enc_add_zero, enc_zero_add, pdEnc] at hlow
    simp [Instr.wellFormed, vecOk, noRound, VAmount.ok] at hwf
    have F : fld low 27 1 = 1 ∧ fld low 24 3 = p0.val ∧ fld low 21 3 = rm.code ∧ fld low 20 1 = sat.toNat ∧ fld low 14 6 = 0 ∧ fld low 8 6 = 0 ∧ fld low 0 8 = 0 ∧ fld low 0 24 = rm.code * 2097152 + sat.toNat * 1048576 ∧ fld low 0 21 = sat.toNat * 1048576 := by
      simp only [fld]; omega
    clear hlow
    obtain ⟨pc, po, pv, p52, p53, p54, p55, psc, pl2, pg, pd_, ps1, ps2, pslo, pshi, plt, pl⟩ := P
    obtain ⟨F0, F1, F2, F3, F4, F5, F6, F7, F8⟩ := F
    simp [decodeNat, Instr.canonical, decode0, dec3s, dec3, dec2, decF, decFm, scalarClean, pdClean, pdAt, getOr, req, bitAt, fin8, fin16, fin64, Bind.bind, Except.bind, Pure.pure, Except.pure, pc, po, pv, p52, p53, p54, p55, psc, pl2, pg, pd_, ps1, ps2, pslo, pshi, pl, F0, F1, F2, F3, F4, F5, F6, F7, F8, hwf]
    cases op <;> simp_all [FcvtOp.usesRm, FcvtOp.usesSat, Rm.code]

theorem Encoding.addi (ty : IntTy) (pd : PDst) (d s1 : Fin 16) (imm : BitVec 24) : Encoding.Statement (.addi ty pd d s1 imm) := by
  cases pd with
  | none =>
    have b0 := IntTy.code_lt ty
    have b1 := Fin.isLt d
    have b2 := Fin.isLt s1
    have b3 := BitVec.isLt imm
    refine Encoding.of_parts rfl ?_ ?_ ?_ ?_ ?_ ?_ ?_ fun hwf W low hlow P => ?_
    any_goals first | (simp only [enc_zero_mul, enc_add_zero, enc_zero_add, pdEnc]; omega) | omega
    try simp only [enc_zero_mul, enc_add_zero, enc_zero_add, pdEnc] at hlow
    have F : fld low 27 1 = 0 ∧ fld low 24 3 = 0 ∧ fld low 0 24 = imm.toNat ∧ fld low 0 28 = imm.toNat := by
      simp only [fld]; omega
    clear hlow
    obtain ⟨pc, po, pv, p52, p53, p54, p55, psc, pl2, pg, pd_, ps1, ps2, pslo, pshi, plt, pl⟩ := P
    obtain ⟨F0, F1, F2, F3⟩ := F
    simp [decodeNat, Instr.canonical, decode1, decLogI, decShI, pdClean, pdAt, imm24, getOr, req, bitAt, fin8, fin16, fin64, Bind.bind, Except.bind, Pure.pure, Except.pure, pc, po, pv, p52, p53, p54, p55, psc, pl2, pg, pd_, ps1, ps2, pslo, pshi, pl, F0, F1, F2, F3]
  | some p0 =>
    have b0 := IntTy.code_lt ty
    have b1 := Fin.isLt p0
    have b2 := Fin.isLt d
    have b3 := Fin.isLt s1
    have b4 := BitVec.isLt imm
    refine Encoding.of_parts rfl ?_ ?_ ?_ ?_ ?_ ?_ ?_ fun hwf W low hlow P => ?_
    any_goals first | (simp only [enc_zero_mul, enc_add_zero, enc_zero_add, pdEnc]; omega) | omega
    try simp only [enc_zero_mul, enc_add_zero, enc_zero_add, pdEnc] at hlow
    have F : fld low 27 1 = 1 ∧ fld low 24 3 = p0.val ∧ fld low 0 24 = imm.toNat ∧ fld low 0 28 = 1 * 134217728 + p0.val * 16777216 + imm.toNat := by
      simp only [fld]; omega
    clear hlow
    obtain ⟨pc, po, pv, p52, p53, p54, p55, psc, pl2, pg, pd_, ps1, ps2, pslo, pshi, plt, pl⟩ := P
    obtain ⟨F0, F1, F2, F3⟩ := F
    simp [decodeNat, Instr.canonical, decode1, decLogI, decShI, pdClean, pdAt, imm24, getOr, req, bitAt, fin8, fin16, fin64, Bind.bind, Except.bind, Pure.pure, Except.pure, pc, po, pv, p52, p53, p54, p55, psc, pl2, pg, pd_, ps1, ps2, pslo, pshi, pl, F0, F1, F2, F3]

theorem Encoding.movi (sgn : Bool) (pd : PDst) (d : Fin 16) (imm : BitVec 24) : Encoding.Statement (.movi sgn pd d imm) := by
  cases pd with
  | none =>
    have b0 := Bool.toNat_lt sgn
    have b1 := sgn64_lt sgn
    have b2 := Fin.isLt d
    have b3 := BitVec.isLt imm
    refine Encoding.of_parts rfl ?_ ?_ ?_ ?_ ?_ ?_ ?_ fun hwf W low hlow P => ?_
    any_goals first | (simp only [enc_zero_mul, enc_add_zero, enc_zero_add, pdEnc]; omega) | omega
    try simp only [enc_zero_mul, enc_add_zero, enc_zero_add, pdEnc] at hlow
    have F : fld low 27 1 = 0 ∧ fld low 24 3 = 0 ∧ fld low 0 24 = imm.toNat ∧ fld low 0 28 = imm.toNat := by
      simp only [fld]; omega
    clear hlow
    obtain ⟨pc, po, pv, p52, p53, p54, p55, psc, pl2, pg, pd_, ps1, ps2, pslo, pshi, plt, pl⟩ := P
    obtain ⟨F0, F1, F2, F3⟩ := F
    simp [decodeNat, Instr.canonical, decode1, decLogI, decShI, pdClean, pdAt, imm24, getOr, req, bitAt, fin8, fin16, fin64, Bind.bind, Except.bind, Pure.pure, Except.pure, pc, po, pv, p52, p53, p54, p55, psc, pl2, pg, pd_, ps1, ps2, pslo, pshi, pl, F0, F1, F2, F3]
  | some p0 =>
    have b0 := Bool.toNat_lt sgn
    have b1 := sgn64_lt sgn
    have b2 := Fin.isLt p0
    have b3 := Fin.isLt d
    have b4 := BitVec.isLt imm
    refine Encoding.of_parts rfl ?_ ?_ ?_ ?_ ?_ ?_ ?_ fun hwf W low hlow P => ?_
    any_goals first | (simp only [enc_zero_mul, enc_add_zero, enc_zero_add, pdEnc]; omega) | omega
    try simp only [enc_zero_mul, enc_add_zero, enc_zero_add, pdEnc] at hlow
    have F : fld low 27 1 = 1 ∧ fld low 24 3 = p0.val ∧ fld low 0 24 = imm.toNat ∧ fld low 0 28 = 1 * 134217728 + p0.val * 16777216 + imm.toNat := by
      simp only [fld]; omega
    clear hlow
    obtain ⟨pc, po, pv, p52, p53, p54, p55, psc, pl2, pg, pd_, ps1, ps2, pslo, pshi, plt, pl⟩ := P
    obtain ⟨F0, F1, F2, F3⟩ := F
    simp [decodeNat, Instr.canonical, decode1, decLogI, decShI, pdClean, pdAt, imm24, getOr, req, bitAt, fin8, fin16, fin64, Bind.bind, Except.bind, Pure.pure, Except.pure, pc, po, pv, p52, p53, p54, p55, psc, pl2, pg, pd_, ps1, ps2, pslo, pshi, pl, F0, F1, F2, F3]

theorem Encoding.movhi (q : Fin 4) (d : Fin 16) (imm : BitVec 16) : Encoding.Statement (.movhi q d imm) := by
  have b0 := Fin.isLt q
  have b1 := Fin.isLt d
  have b2 := BitVec.isLt imm
  refine Encoding.of_parts rfl ?_ ?_ ?_ ?_ ?_ ?_ ?_ fun hwf W low hlow P => ?_
  any_goals first | (simp only [enc_zero_mul, enc_add_zero, enc_zero_add]; omega) | omega
  try simp only [enc_zero_mul, enc_add_zero, enc_zero_add] at hlow
  have F : fld low 27 1 = 0 ∧ fld low 24 3 = 0 ∧ fld low 0 24 = imm.toNat ∧ fld low 16 12 = 0 ∧ fld low 0 16 = imm.toNat ∧ fld low 0 28 = imm.toNat := by
    simp only [fld]; omega
  clear hlow
  obtain ⟨pc, po, pv, p52, p53, p54, p55, psc, pl2, pg, pd_, ps1, ps2, pslo, pshi, plt, pl⟩ := P
  obtain ⟨F0, F1, F2, F3, F4, F5⟩ := F
  simp [decodeNat, Instr.canonical, decode1, decLogI, decShI, pdClean, pdAt, imm24, getOr, req, bitAt, fin8, fin16, fin64, Bind.bind, Except.bind, Pure.pure, Except.pure, pc, po, pv, p52, p53, p54, p55, psc, pl2, pg, pd_, ps1, ps2, pslo, pshi, pl, F0, F1, F2, F3, F4, F5]

theorem Encoding.andi (sgn : Bool) (pd : PDst) (d s1 : Fin 16) (imm : BitVec 24) : Encoding.Statement (.andi sgn pd d s1 imm) :=
  Encoding.of_decLogI .andi 0x03 (by decide) sgn pd d s1 imm rfl (fun _ => rfl) rfl

theorem Encoding.ori (sgn : Bool) (pd : PDst) (d s1 : Fin 16) (imm : BitVec 24) : Encoding.Statement (.ori sgn pd d s1 imm) :=
  Encoding.of_decLogI .ori 0x04 (by decide) sgn pd d s1 imm rfl (fun _ => rfl) rfl

theorem Encoding.xori (sgn : Bool) (pd : PDst) (d s1 : Fin 16) (imm : BitVec 24) : Encoding.Statement (.xori sgn pd d s1 imm) :=
  Encoding.of_decLogI .xori 0x05 (by decide) sgn pd d s1 imm rfl (fun _ => rfl) rfl

theorem Encoding.shli (ty : IntTy) (pd : PDst) (d s1 : Fin 16) (n : Fin 64) : Encoding.Statement (.shli ty pd d s1 n) :=
  Encoding.of_decShI .shli 0x06 (by decide) ty pd d s1 n rfl (fun _ => rfl) rfl

theorem Encoding.shri (ty : IntTy) (pd : PDst) (d s1 : Fin 16) (n : Fin 64) : Encoding.Statement (.shri ty pd d s1 n) :=
  Encoding.of_decShI .shri 0x07 (by decide) ty pd d s1 n rfl (fun _ => rfl) rfl

theorem Encoding.cmpi (uns : Bool) (c : Cond) (pd : Fin 8) (s1 : Fin 16) (imm : BitVec 24) : Encoding.Statement (.cmpi uns c pd s1 imm) := by
  have b0 := Bool.toNat_lt uns
  have b1 := Cond.code_lt c
  have b2 := Fin.isLt pd
  have b3 := Fin.isLt s1
  have b4 := BitVec.isLt imm
  refine Encoding.of_parts rfl ?_ ?_ ?_ ?_ ?_ ?_ ?_ fun hwf W low hlow P => ?_
  any_goals first | (simp only [enc_zero_mul, enc_add_zero, enc_zero_add, pdEnc]; omega) | omega
  try simp only [enc_zero_mul, enc_add_zero, enc_zero_add, pdEnc] at hlow
  simp [Instr.wellFormed, vecOk, noRound, VAmount.ok] at hwf
  have F : fld low 27 1 = 1 ∧ fld low 24 3 = pd.val ∧ fld low 0 24 = imm.toNat ∧ fld low 0 28 = 1 * 134217728 + pd.val * 16777216 + imm.toNat := by
    simp only [fld]; omega
  clear hlow
  obtain ⟨pc, po, pv, p52, p53, p54, p55, psc, pl2, pg, pd_, ps1, ps2, pslo, pshi, plt, pl⟩ := P
  obtain ⟨F0, F1, F2, F3⟩ := F
  simp [decodeNat, Instr.canonical, decode1, decLogI, decShI, pdClean, pdAt, imm24, getOr, req, bitAt, fin8, fin16, fin64, Bind.bind, Except.bind, Pure.pure, Except.pure, pc, po, pv, p52, p53, p54, p55, psc, pl2, pg, pd_, ps1, ps2, pslo, pshi, pl, F0, F1, F2, F3, hwf]

theorem Encoding.pset (mask vals : BitVec 8) : Encoding.Statement (.pset mask vals) := by
  have b0 := BitVec.isLt mask
  have b1 := BitVec.isLt vals
  refine Encoding.of_parts rfl ?_ ?_ ?_ ?_ ?_ ?_ ?_ fun hwf W low hlow P => ?_
  any_goals first | (simp only [enc_zero_mul, enc_add_zero, enc_zero_add]; omega) | omega
  try simp only [enc_zero_mul, enc_add_zero, enc_zero_add] at hlow
  have F : fld low 27 1 = 0 ∧ fld low 24 3 = 0 ∧ fld low 0 24 = vals.toNat * 256 + mask.toNat ∧ fld low 16 12 = 0 ∧ fld low 0 16 = vals.toNat * 256 + mask.toNat ∧ fld low 0 8 = mask.toNat ∧ fld low 8 8 = vals.toNat ∧ fld low 0 28 = vals.toNat * 256 + mask.toNat ∧ fld low 8 20 = vals.toNat := by
    simp only [fld]; omega
  clear hlow
  obtain ⟨pc, po, pv, p52, p53, p54, p55, psc, pl2, pg, pd_, ps1, ps2, pslo, pshi, plt, pl⟩ := P
  obtain ⟨F0, F1, F2, F3, F4, F5, F6, F7, F8⟩ := F
  simp [decodeNat, Instr.canonical, decode1, decLogI, decShI, pdClean, pdAt, imm24, getOr, req, bitAt, fin8, fin16, fin64, Bind.bind, Except.bind, Pure.pure, Except.pure, pc, po, pv, p52, p53, p54, p55, psc, pl2, pg, pd_, ps1, ps2, pslo, pshi, pl, F0, F1, F2, F3, F4, F5, F6, F7, F8]

theorem Encoding.plog (t : BitVec 4) (a b pd : Fin 8) : Encoding.Statement (.plog t a b pd) := by
  have b0 := BitVec.isLt t
  have b1 := Fin.isLt a
  have b2 := Fin.isLt b
  have b3 := Fin.isLt pd
  refine Encoding.of_parts rfl ?_ ?_ ?_ ?_ ?_ ?_ ?_ fun hwf W low hlow P => ?_
  any_goals first | (simp only [enc_zero_mul, enc_add_zero, enc_zero_add, pdEnc]; omega) | omega
  try simp only [enc_zero_mul, enc_add_zero, enc_zero_add, pdEnc] at hlow
  have F : fld low 27 1 = 1 ∧ fld low 24 3 = pd.val ∧ fld low 0 24 = b.val * 8 + a.val ∧ fld low 6 18 = 0 ∧ fld low 0 6 = b.val * 8 + a.val ∧ fld low 16 12 = 1 * 2048 + pd.val * 256 ∧ fld low 0 16 = b.val * 8 + a.val ∧ fld low 0 8 = b.val * 8 + a.val ∧ fld low 8 8 = 0 ∧ fld low 0 3 = a.val ∧ fld low 3 3 = b.val ∧ fld low 0 28 = 1 * 134217728 + pd.val * 16777216 + b.val * 8 + a.val ∧ fld low 8 20 = 1 * 524288 + pd.val * 65536 := by
    simp only [fld]; omega
  clear hlow
  obtain ⟨pc, po, pv, p52, p53, p54, p55, psc, pl2, pg, pd_, ps1, ps2, pslo, pshi, plt, pl⟩ := P
  obtain ⟨F0, F1, F2, F3, F4, F5, F6, F7, F8, F9, F10, F11, F12⟩ := F
  simp [decodeNat, Instr.canonical, decode1, decLogI, decShI, pdClean, pdAt, imm24, getOr, req, bitAt, fin8, fin16, fin64, Bind.bind, Except.bind, Pure.pure, Except.pure, pc, po, pv, p52, p53, p54, p55, psc, pl2, pg, pd_, ps1, ps2, pslo, pshi, pl, F0, F1, F2, F3, F4, F5, F6, F7, F8, F9, F10, F11, F12]

theorem Encoding.pmovRead (d : Fin 16) : Encoding.Statement (.pmovRead d) := by
  have b0 := Fin.isLt d
  refine Encoding.of_parts rfl ?_ ?_ ?_ ?_ ?_ ?_ ?_ fun hwf W low hlow P => ?_
  any_goals first | (simp only [enc_zero_mul, enc_add_zero, enc_zero_add]; omega) | omega
  try simp only [enc_zero_mul, enc_add_zero, enc_zero_add] at hlow
  have F : fld low 27 1 = 0 ∧ fld low 24 3 = 0 ∧ fld low 0 24 = 0 ∧ fld low 6 18 = 0 ∧ fld low 0 6 = 0 ∧ fld low 16 12 = 0 ∧ fld low 0 16 = 0 ∧ fld low 0 8 = 0 ∧ fld low 8 8 = 0 ∧ fld low 0 3 = 0 ∧ fld low 3 3 = 0 ∧ fld low 0 28 = 0 ∧ fld low 8 20 = 0 := by
    simp only [fld]; omega
  clear hlow
  obtain ⟨pc, po, pv, p52, p53, p54, p55, psc, pl2, pg, pd_, ps1, ps2, pslo, pshi, plt, pl⟩ := P
  obtain ⟨F0, F1, F2, F3, F4, F5, F6, F7, F8, F9, F10, F11, F12⟩ := F
  simp [decodeNat, Instr.canonical, decode1, decLogI, decShI, pdClean, pdAt, imm24, getOr, req, bitAt, fin8, fin16, fin64, Bind.bind, Except.bind, Pure.pure, Except.pure, pc, po, pv, p52, p53, p54, p55, psc, pl2, pg, pd_, ps1, ps2, pslo, pshi, pl, F0, F1, F2, F3, F4, F5, F6, F7, F8, F9, F10, F11, F12]

theorem Encoding.pmovWrite (s1 : Fin 16) (mask : BitVec 8) : Encoding.Statement (.pmovWrite s1 mask) := by
  have b0 := Fin.isLt s1
  have b1 := BitVec.isLt mask
  refine Encoding.of_parts rfl ?_ ?_ ?_ ?_ ?_ ?_ ?_ fun hwf W low hlow P => ?_
  any_goals first | (simp only [enc_zero_mul, enc_add_zero, enc_zero_add]; omega) | omega
  try simp only [enc_zero_mul, enc_add_zero, enc_zero_add] at hlow
  have F : fld low 27 1 = 0 ∧ fld low 24 3 = 0 ∧ fld low 0 24 = mask.toNat ∧ fld low 16 12 = 0 ∧ fld low 0 16 = mask.toNat ∧ fld low 0 8 = mask.toNat ∧ fld low 8 8 = 0 ∧ fld low 0 28 = mask.toNat ∧ fld low 8 20 = 0 := by
    simp only [fld]; omega
  clear hlow
  obtain ⟨pc, po, pv, p52, p53, p54, p55, psc, pl2, pg, pd_, ps1, ps2, pslo, pshi, plt, pl⟩ := P
  obtain ⟨F0, F1, F2, F3, F4, F5, F6, F7, F8⟩ := F
  simp [decodeNat, Instr.canonical, decode1, decLogI, decShI, pdClean, pdAt, imm24, getOr, req, bitAt, fin8, fin16, fin64, Bind.bind, Except.bind, Pure.pure, Except.pure, pc, po, pv, p52, p53, p54, p55, psc, pl2, pg, pd_, ps1, ps2, pslo, pshi, pl, F0, F1, F2, F3, F4, F5, F6, F7, F8]

theorem Encoding.ld (ty : IntTy) (off : Off) (pol : Pol) (d s1 : Fin 16) (w : Wave) : Encoding.Statement (.ld ty off pol d s1 w) := by
  cases off with
  | plain o0 =>
    have b0 := IntTy.code_lt ty
    have b1 := BitVec.isLt o0
    have b2 := Pol.code_lt pol
    have b3 := Fin.isLt d
    have b4 := Fin.isLt s1
    have b5 := BitVec.isLt w.s
    have b6 := BitVec.isLt w.p
    have b7 := BitVec.isLt w.n
    refine Encoding.of_parts rfl ?_ ?_ ?_ ?_ ?_ ?_ ?_ fun hwf W low hlow P => ?_
    any_goals first | (simp only [enc_zero_mul, enc_add_zero, enc_zero_add, offEnc, Wave.code]; omega) | omega
    try simp only [enc_zero_mul, enc_add_zero, enc_zero_add, offEnc, Wave.code] at hlow
    have F : fld low 26 2 = 0 ∧ fld low 24 2 = pol.code ∧ fld low 24 4 = pol.code ∧ fld low 27 1 = 0 ∧ fld low 24 3 = pol.code ∧ fld low 16 8 = w.s.toNat ∧ fld low 8 8 = w.p.toNat ∧ fld low 0 8 = w.n.toNat ∧ fld low 0 28 = pol.code * 16777216 + w.s.toNat * 65536 + w.p.toNat * 256 + w.n.toNat := by
      simp only [fld]; omega
    clear hlow
    obtain ⟨pc, po, pv, p52, p53, p54, p55, psc, pl2, pg, pd_, ps1, ps2, pslo, pshi, plt, pl⟩ := P
    obtain ⟨F0, F1, F2, F3, F4, F5, F6, F7, F8⟩ := F
    simp [decodeNat, Instr.canonical, decode2, decode2b, decLdSt, offOf, offClean, spAddrOf, spClean, decSp, decSpB, decAtomic, sc4, subF, waveOf, getOr, req, bitAt, fin8, fin16, fin64, Bind.bind, Except.bind, Pure.pure, Except.pure, pc, po, pv, p52, p53, p54, p55, psc, pl2, pg, pd_, ps1, ps2, pslo, pshi, pl, F0, F1, F2, F3, F4, F5, F6, F7, F8]
  | ordered c0 =>
    have b0 := IntTy.code_lt ty
    have b1 := Fin.isLt c0
    have b2 := Pol.code_lt pol
    have b3 := Fin.isLt d
    have b4 := Fin.isLt s1
    have b5 := BitVec.isLt w.s
    have b6 := BitVec.isLt w.p
    have b7 := BitVec.isLt w.n
    refine Encoding.of_parts rfl ?_ ?_ ?_ ?_ ?_ ?_ ?_ fun hwf W low hlow P => ?_
    any_goals first | (simp only [enc_zero_mul, enc_add_zero, enc_zero_add, offEnc, Wave.code]; omega) | omega
    try simp only [enc_zero_mul, enc_add_zero, enc_zero_add, offEnc, Wave.code] at hlow
    have F : fld low 26 2 = 1 ∧ fld low 24 2 = pol.code ∧ fld low 24 4 = pol.code + 1 * 4 ∧ fld low 16 8 = w.s.toNat ∧ fld low 8 8 = w.p.toNat ∧ fld low 0 8 = w.n.toNat ∧ fld low 0 28 = pol.code * 16777216 + w.s.toNat * 65536 + w.p.toNat * 256 + w.n.toNat + 1 * 67108864 := by
      simp only [fld]; omega
    clear hlow
    obtain ⟨pc, po, pv, p52, p53, p54, p55, psc, pl2, pg, pd_, ps1, ps2, pslo, pshi, plt, pl⟩ := P
    obtain ⟨F0, F1, F2, F3, F4, F5, F6⟩ := F
    simp [decodeNat, Instr.canonical, decode2, decode2b, decLdSt, offOf, offClean, spAddrOf, spClean, decSp, decSpB, decAtomic, sc4, subF, waveOf, getOr, req, bitAt, fin8, fin16, fin64, Bind.bind, Except.bind, Pure.pure, Except.pure, pc, po, pv, p52, p53, p54, p55, psc, pl2, pg, pd_, ps1, ps2, pslo, pshi, pl, F0, F1, F2, F3, F4, F5, F6]

theorem Encoding.st (ty : IntTy) (off : Off) (pol : Pol) (d s1 : Fin 16) (w : Wave) : Encoding.Statement (.st ty off pol d s1 w) := by
  cases off with
  | plain o0 =>
    have b0 := IntTy.code_lt ty
    have b1 := BitVec.isLt o0
    have b2 := Pol.code_lt pol
    have b3 := Fin.isLt d
    have b4 := Fin.isLt s1
    have b5 := BitVec.isLt w.s
    have b6 := BitVec.isLt w.p
    have b7 := BitVec.isLt w.n
    refine Encoding.of_parts rfl ?_ ?_ ?_ ?_ ?_ ?_ ?_ fun hwf W low hlow P => ?_
    any_goals first | (simp only [enc_zero_mul, enc_add_zero, enc_zero_add, offEnc, Wave.code]; omega) | omega
    try simp only [enc_zero_mul, enc_add_zero, enc_zero_add, offEnc, Wave.code] at hlow
    have F : fld low 26 2 = 0 ∧ fld low 24 2 = pol.code ∧ fld low 24 4 = pol.code ∧ fld low 27 1 = 0 ∧ fld low 24 3 = pol.code ∧ fld low 16 8 = w.s.toNat ∧ fld low 8 8 = w.p.toNat ∧ fld low 0 8 = w.n.toNat ∧ fld low 0 28 = pol.code * 16777216 + w.s.toNat * 65536 + w.p.toNat * 256 + w.n.toNat := by
      simp only [fld]; omega
    clear hlow
    obtain ⟨pc, po, pv, p52, p53, p54, p55, psc, pl2, pg, pd_, ps1, ps2, pslo, pshi, plt, pl⟩ := P
    obtain ⟨F0, F1, F2, F3, F4, F5, F6, F7, F8⟩ := F
    simp [decodeNat, Instr.canonical, decode2, decode2b, decLdSt, offOf, offClean, spAddrOf, spClean, decSp, decSpB, decAtomic, sc4, subF, waveOf, getOr, req, bitAt, fin8, fin16, fin64, Bind.bind, Except.bind, Pure.pure, Except.pure, pc, po, pv, p52, p53, p54, p55, psc, pl2, pg, pd_, ps1, ps2, pslo, pshi, pl, F0, F1, F2, F3, F4, F5, F6, F7, F8]
  | ordered c0 =>
    have b0 := IntTy.code_lt ty
    have b1 := Fin.isLt c0
    have b2 := Pol.code_lt pol
    have b3 := Fin.isLt d
    have b4 := Fin.isLt s1
    have b5 := BitVec.isLt w.s
    have b6 := BitVec.isLt w.p
    have b7 := BitVec.isLt w.n
    refine Encoding.of_parts rfl ?_ ?_ ?_ ?_ ?_ ?_ ?_ fun hwf W low hlow P => ?_
    any_goals first | (simp only [enc_zero_mul, enc_add_zero, enc_zero_add, offEnc, Wave.code]; omega) | omega
    try simp only [enc_zero_mul, enc_add_zero, enc_zero_add, offEnc, Wave.code] at hlow
    have F : fld low 26 2 = 2 ∧ fld low 24 2 = pol.code ∧ fld low 24 4 = pol.code + 2 * 4 ∧ fld low 16 8 = w.s.toNat ∧ fld low 8 8 = w.p.toNat ∧ fld low 0 8 = w.n.toNat ∧ fld low 0 28 = pol.code * 16777216 + w.s.toNat * 65536 + w.p.toNat * 256 + w.n.toNat + 2 * 67108864 := by
      simp only [fld]; omega
    clear hlow
    obtain ⟨pc, po, pv, p52, p53, p54, p55, psc, pl2, pg, pd_, ps1, ps2, pslo, pshi, plt, pl⟩ := P
    obtain ⟨F0, F1, F2, F3, F4, F5, F6⟩ := F
    simp [decodeNat, Instr.canonical, decode2, decode2b, decLdSt, offOf, offClean, spAddrOf, spClean, decSp, decSpB, decAtomic, sc4, subF, waveOf, getOr, req, bitAt, fin8, fin16, fin64, Bind.bind, Except.bind, Pure.pure, Except.pure, pc, po, pv, p52, p53, p54, p55, psc, pl2, pg, pd_, ps1, ps2, pslo, pshi, pl, F0, F1, F2, F3, F4, F5, F6]

theorem Encoding.ldb (off : Off) (pol : Pol) (d s1 : Fin 16) (w : Wave) : Encoding.Statement (.ldb off pol d s1 w) := by
  cases off with
  | plain o0 =>
    have b0 := vSp_lt d
    have b1 := vSp_lt s1
    have b2 := BitVec.isLt o0
    have b3 := Pol.code_lt pol
    have b4 := Fin.isLt d
    have b5 := Fin.isLt s1
    have b6 := BitVec.isLt w.s
    have b7 := BitVec.isLt w.p
    have b8 := BitVec.isLt w.n
    refine Encoding.of_parts rfl ?_ ?_ ?_ ?_ ?_ ?_ ?_ fun hwf W low hlow P => ?_
    any_goals first | (simp only [enc_zero_mul, enc_add_zero, enc_zero_add, offEnc, Wave.code]; omega) | omega
    try simp only [enc_zero_mul, enc_add_zero, enc_zero_add, offEnc, Wave.code] at hlow
    have F : fld low 26 2 = 0 ∧ fld low 24 2 = pol.code ∧ fld low 24 4 = pol.code ∧ fld low 27 1 = 0 ∧ fld low 24 3 = pol.code ∧ fld low 16 8 = w.s.toNat ∧ fld low 8 8 = w.p.toNat ∧ fld low 0 8 = w.n.toNat ∧ fld low 0 28 = pol.code * 16777216 + w.s.toNat * 65536 + w.p.toNat * 256 + w.n.toNat := by
      simp only [fld]; omega
    clear hlow
    obtain ⟨pc, po, pv, p52, p53, p54, p55, psc, pl2, pg, pd_, ps1, ps2, pslo, pshi, plt, pl⟩ := P
    obtain ⟨F0, F1, F2, F3, F4, F5, F6, F7, F8⟩ := F
    simp [decodeNat, Instr.canonical, decode2, decode2b, decLdSt, offOf, offClean, spAddrOf, spClean, decSp, decSpB, decAtomic, sc4, subF, waveOf, getOr, req, bitAt, fin8, fin16, fin64, Bind.bind, Except.bind, Pure.pure, Except.pure, pc, po, pv, p52, p53, p54, p55, psc, pl2, pg, pd_, ps1, ps2, pslo, pshi, pl, F0, F1, F2, F3, F4, F5, F6, F7, F8]
  | ordered c0 =>
    have b0 := vSp_lt d
    have b1 := vSp_lt s1
    have b2 := Fin.isLt c0
    have b3 := Pol.code_lt pol
    have b4 := Fin.isLt d
    have b5 := Fin.isLt s1
    have b6 := BitVec.isLt w.s
    have b7 := BitVec.isLt w.p
    have b8 := BitVec.isLt w.n
    refine Encoding.of_parts rfl ?_ ?_ ?_ ?_ ?_ ?_ ?_ fun hwf W low hlow P => ?_
    any_goals first | (simp only [enc_zero_mul, enc_add_zero, enc_zero_add, offEnc, Wave.code]; omega) | omega
    try simp only [enc_zero_mul, enc_add_zero, enc_zero_add, offEnc, Wave.code] at hlow
    have F : fld low 26 2 = 1 ∧ fld low 24 2 = pol.code ∧ fld low 24 4 = pol.code + 1 * 4 ∧ fld low 16 8 = w.s.toNat ∧ fld low 8 8 = w.p.toNat ∧ fld low 0 8 = w.n.toNat ∧ fld low 0 28 = pol.code * 16777216 + w.s.toNat * 65536 + w.p.toNat * 256 + w.n.toNat + 1 * 67108864 := by
      simp only [fld]; omega
    clear hlow
    obtain ⟨pc, po, pv, p52, p53, p54, p55, psc, pl2, pg, pd_, ps1, ps2, pslo, pshi, plt, pl⟩ := P
    obtain ⟨F0, F1, F2, F3, F4, F5, F6⟩ := F
    simp [decodeNat, Instr.canonical, decode2, decode2b, decLdSt, offOf, offClean, spAddrOf, spClean, decSp, decSpB, decAtomic, sc4, subF, waveOf, getOr, req, bitAt, fin8, fin16, fin64, Bind.bind, Except.bind, Pure.pure, Except.pure, pc, po, pv, p52, p53, p54, p55, psc, pl2, pg, pd_, ps1, ps2, pslo, pshi, pl, F0, F1, F2, F3, F4, F5, F6]

theorem Encoding.stb (off : Off) (pol : Pol) (d s1 : Fin 16) (w : Wave) : Encoding.Statement (.stb off pol d s1 w) := by
  cases off with
  | plain o0 =>
    have b0 := vSp_lt d
    have b1 := vSp_lt s1
    have b2 := BitVec.isLt o0
    have b3 := Pol.code_lt pol
    have b4 := Fin.isLt d
    have b5 := Fin.isLt s1
    have b6 := BitVec.isLt w.s
    have b7 := BitVec.isLt w.p
    have b8 := BitVec.isLt w.n
    refine Encoding.of_parts rfl ?_ ?_ ?_ ?_ ?_ ?_ ?_ fun hwf W low hlow P => ?_
    any_goals first | (simp only [enc_zero_mul, enc_add_zero, enc_zero_add, offEnc, Wave.code]; omega) | omega
    try simp only [enc_zero_mul, enc_add_zero, enc_zero_add, offEnc, Wave.code] at hlow
    have F : fld low 26 2 = 0 ∧ fld low 24 2 = pol.code ∧ fld low 24 4 = pol.code ∧ fld low 27 1 = 0 ∧ fld low 24 3 = pol.code ∧ fld low 16 8 = w.s.toNat ∧ fld low 8 8 = w.p.toNat ∧ fld low 0 8 = w.n.toNat ∧ fld low 0 28 = pol.code * 16777216 + w.s.toNat * 65536 + w.p.toNat * 256 + w.n.toNat := by
      simp only [fld]; omega
    clear hlow
    obtain ⟨pc, po, pv, p52, p53, p54, p55, psc, pl2, pg, pd_, ps1, ps2, pslo, pshi, plt, pl⟩ := P
    obtain ⟨F0, F1, F2, F3, F4, F5, F6, F7, F8⟩ := F
    simp [decodeNat, Instr.canonical, decode2, decode2b, decLdSt, offOf, offClean, spAddrOf, spClean, decSp, decSpB, decAtomic, sc4, subF, waveOf, getOr, req, bitAt, fin8, fin16, fin64, Bind.bind, Except.bind, Pure.pure, Except.pure, pc, po, pv, p52, p53, p54, p55, psc, pl2, pg, pd_, ps1, ps2, pslo, pshi, pl, F0, F1, F2, F3, F4, F5, F6, F7, F8]
  | ordered c0 =>
    have b0 := vSp_lt d
    have b1 := vSp_lt s1
    have b2 := Fin.isLt c0
    have b3 := Pol.code_lt pol
    have b4 := Fin.isLt d
    have b5 := Fin.isLt s1
    have b6 := BitVec.isLt w.s
    have b7 := BitVec.isLt w.p
    have b8 := BitVec.isLt w.n
    refine Encoding.of_parts rfl ?_ ?_ ?_ ?_ ?_ ?_ ?_ fun hwf W low hlow P => ?_
    any_goals first | (simp only [enc_zero_mul, enc_add_zero, enc_zero_add, offEnc, Wave.code]; omega) | omega
    try simp only [enc_zero_mul, enc_add_zero, enc_zero_add, offEnc, Wave.code] at hlow
    have F : fld low 26 2 = 2 ∧ fld low 24 2 = pol.code ∧ fld low 24 4 = pol.code + 2 * 4 ∧ fld low 16 8 = w.s.toNat ∧ fld low 8 8 = w.p.toNat ∧ fld low 0 8 = w.n.toNat ∧ fld low 0 28 = pol.code * 16777216 + w.s.toNat * 65536 + w.p.toNat * 256 + w.n.toNat + 2 * 67108864 := by
      simp only [fld]; omega
    clear hlow
    obtain ⟨pc, po, pv, p52, p53, p54, p55, psc, pl2, pg, pd_, ps1, ps2, pslo, pshi, plt, pl⟩ := P
    obtain ⟨F0, F1, F2, F3, F4, F5, F6⟩ := F
    simp [decodeNat, Instr.canonical, decode2, decode2b, decLdSt, offOf, offClean, spAddrOf, spClean, decSp, decSpB, decAtomic, sc4, subF, waveOf, getOr, req, bitAt, fin8, fin16, fin64, Bind.bind, Except.bind, Pure.pure, Except.pure, pc, po, pv, p52, p53, p54, p55, psc, pl2, pg, pd_, ps1, ps2, pslo, pshi, pl, F0, F1, F2, F3, F4, F5, F6]

theorem Encoding.stbObj (off : BitVec 8) (pol : Pol) (d s1 : Fin 16) (w : Wave) : Encoding.Statement (.stbObj off pol d s1 w) := by
  have b0 := vSp_lt d
  have b1 := vSp_lt s1
  have b2 := BitVec.isLt off
  have b3 := Pol.code_lt pol
  have b4 := Fin.isLt d
  have b5 := Fin.isLt s1
  have b6 := BitVec.isLt w.s
  have b7 := BitVec.isLt w.p
  have b8 := BitVec.isLt w.n
  refine Encoding.of_parts rfl ?_ ?_ ?_ ?_ ?_ ?_ ?_ fun hwf W low hlow P => ?_
  any_goals first | (simp only [enc_zero_mul, enc_add_zero, enc_zero_add, offEnc, Wave.code]; omega) | omega
  try simp only [enc_zero_mul, enc_add_zero, enc_zero_add, offEnc, Wave.code] at hlow
  have F : fld low 26 2 = 0 ∧ fld low 24 2 = pol.code ∧ fld low 24 4 = pol.code ∧ fld low 27 1 = 0 ∧ fld low 24 3 = pol.code ∧ fld low 16 8 = w.s.toNat ∧ fld low 8 8 = w.p.toNat ∧ fld low 0 8 = w.n.toNat ∧ fld low 0 28 = pol.code * 16777216 + w.s.toNat * 65536 + w.p.toNat * 256 + w.n.toNat := by
    simp only [fld]; omega
  clear hlow
  obtain ⟨pc, po, pv, p52, p53, p54, p55, psc, pl2, pg, pd_, ps1, ps2, pslo, pshi, plt, pl⟩ := P
  obtain ⟨F0, F1, F2, F3, F4, F5, F6, F7, F8⟩ := F
  simp [decodeNat, Instr.canonical, decode2, decode2b, decLdSt, offOf, offClean, spAddrOf, spClean, decSp, decSpB, decAtomic, sc4, subF, waveOf, getOr, req, bitAt, fin8, fin16, fin64, Bind.bind, Except.bind, Pure.pure, Except.pure, pc, po, pv, p52, p53, p54, p55, psc, pl2, pg, pd_, ps1, ps2, pslo, pshi, pl, F0, F1, F2, F3, F4, F5, F6, F7, F8]

theorem Encoding.stbUnobj (off : BitVec 8) (pol : Pol) (s1 : Fin 16) (w : Wave) : Encoding.Statement (.stbUnobj off pol s1 w) := by
  have b0 := BitVec.isLt off
  have b1 := Pol.code_lt pol
  have b2 := Fin.isLt s1
  have b3 := BitVec.isLt w.s
  have b4 := BitVec.isLt w.p
  have b5 := BitVec.isLt w.n
  refine Encoding.of_parts rfl ?_ ?_ ?_ ?_ ?_ ?_ ?_ fun hwf W low hlow P => ?_
  any_goals first | (simp only [enc_zero_mul, enc_add_zero, enc_zero_add, offEnc, Wave.code]; omega) | omega
  try simp only [enc_zero_mul, enc_add_zero, enc_zero_add, offEnc, Wave.code] at hlow
  have F : fld low 26 2 = 0 ∧ fld low 24 2 = pol.code ∧ fld low 24 4 = pol.code ∧ fld low 27 1 = 0 ∧ fld low 24 3 = pol.code ∧ fld low 16 8 = w.s.toNat ∧ fld low 8 8 = w.p.toNat ∧ fld low 0 8 = w.n.toNat ∧ fld low 0 28 = pol.code * 16777216 + w.s.toNat * 65536 + w.p.toNat * 256 + w.n.toNat := by
    simp only [fld]; omega
  clear hlow
  obtain ⟨pc, po, pv, p52, p53, p54, p55, psc, pl2, pg, pd_, ps1, ps2, pslo, pshi, plt, pl⟩ := P
  obtain ⟨F0, F1, F2, F3, F4, F5, F6, F7, F8⟩ := F
  simp [decodeNat, Instr.canonical, decode2, decode2b, decLdSt, offOf, offClean, spAddrOf, spClean, decSp, decSpB, decAtomic, sc4, subF, waveOf, getOr, req, bitAt, fin8, fin16, fin64, Bind.bind, Except.bind, Pure.pure, Except.pure, pc, po, pv, p52, p53, p54, p55, psc, pl2, pg, pd_, ps1, ps2, pslo, pshi, pl, F0, F1, F2, F3, F4, F5, F6, F7, F8]

theorem Encoding.pref (off : BitVec 8) (pol : Pol) (s1 : Fin 16) (w : Wave) : Encoding.Statement (.pref off pol s1 w) := by
  have b0 := BitVec.isLt off
  have b1 := Pol.code_lt pol
  have b2 := Fin.isLt s1
  have b3 := BitVec.isLt w.s
  have b4 := BitVec.isLt w.p
  have b5 := BitVec.isLt w.n
  refine Encoding.of_parts rfl ?_ ?_ ?_ ?_ ?_ ?_ ?_ fun hwf W low hlow P => ?_
  any_goals first | (simp only [enc_zero_mul, enc_add_zero, enc_zero_add, offEnc, Wave.code]; omega) | omega
  try simp only [enc_zero_mul, enc_add_zero, enc_zero_add, offEnc, Wave.code] at hlow
  have F : fld low 26 2 = 0 ∧ fld low 24 2 = pol.code ∧ fld low 24 4 = pol.code ∧ fld low 27 1 = 0 ∧ fld low 24 3 = pol.code ∧ fld low 16 8 = w.s.toNat ∧ fld low 8 8 = w.p.toNat ∧ fld low 0 8 = w.n.toNat ∧ fld low 0 28 = pol.code * 16777216 + w.s.toNat * 65536 + w.p.toNat * 256 + w.n.toNat := by
    simp only [fld]; omega
  clear hlow
  obtain ⟨pc, po, pv, p52, p53, p54, p55, psc, pl2, pg, pd_, ps1, ps2, pslo, pshi, plt, pl⟩ := P
  obtain ⟨F0, F1, F2, F3, F4, F5, F6, F7, F8⟩ := F
  simp [decodeNat, Instr.canonical, decode2, decode2b, decLdSt, offOf, offClean, spAddrOf, spClean, decSp, decSpB, decAtomic, sc4, subF, waveOf, getOr, req, bitAt, fin8, fin16, fin64, Bind.bind, Except.bind, Pure.pure, Except.pure, pc, po, pv, p52, p53, p54, p55, psc, pl2, pg, pd_, ps1, ps2, pslo, pshi, pl, F0, F1, F2, F3, F4, F5, F6, F7, F8]

theorem Encoding.sld (ty : IntTy) (a : SpAddr) (d : Fin 16) : Encoding.Statement (.sld ty a d) :=
  Encoding.of_decSp .sld 0x04 (by decide) ty a d rfl (fun _ => rfl) rfl

theorem Encoding.sst (ty : IntTy) (a : SpAddr) (d : Fin 16) : Encoding.Statement (.sst ty a d) :=
  Encoding.of_decSp .sst 0x05 (by decide) ty a d rfl (fun _ => rfl) rfl

theorem Encoding.sldb (a : SpAddr) (d : Fin 16) : Encoding.Statement (.sldb a d) :=
  Encoding.of_decSpB .sldb 0x06 (by decide) a d rfl (fun _ => rfl) rfl

theorem Encoding.sstb (a : SpAddr) (d : Fin 16) : Encoding.Statement (.sstb a d) :=
  Encoding.of_decSpB .sstb 0x07 (by decide) a d rfl (fun _ => rfl) rfl

theorem Encoding.afadd (sc : Scope) (w64 : Bool) (o : Ord4) (d s1 s2 : Fin 16) (w : Wave) : Encoding.Statement (.afadd sc w64 o d s1 s2 w) :=
  Encoding.of_decAtomic .afadd 0x09 (by decide) sc w64 o d s1 s2 w rfl (fun _ => rfl) rfl

theorem Encoding.acas (sc : Scope) (w64 : Bool) (o : Ord4) (ford : Bool) (d s1 s2 : Fin 16) (w : Wave) : Encoding.Statement (.acas sc w64 o ford d s1 s2 w) := by
  have b0 := Fin.isLt sc
  have b1 := Bool.toNat_lt w64
  have b2 := Ord4.code_lt o
  have b3 := Bool.toNat_lt ford
  have b4 := Fin.isLt d
  have b5 := Fin.isLt s1
  have b6 := Fin.isLt s2
  have b7 := BitVec.isLt w.s
  have b8 := BitVec.isLt w.p
  have b9 := BitVec.isLt w.n
  refine Encoding.of_parts rfl ?_ ?_ ?_ ?_ ?_ ?_ ?_ fun hwf W low hlow P => ?_
  any_goals first | (simp only [enc_false, enc_zero_mul, enc_add_zero, enc_zero_add, Wave.code]; omega) | omega
  try simp only [enc_false, enc_zero_mul, enc_add_zero, enc_zero_add, Wave.code] at hlow
  have F : fld low 26 2 = o.code ∧ fld low 25 1 = ford.toNat ∧ fld low 24 1 = 0 ∧ fld low 24 2 = ford.toNat * 2 ∧ fld low 24 4 = o.code * 4 + ford.toNat * 2 ∧ fld low 16 8 = w.s.toNat ∧ fld low 8 8 = w.p.toNat ∧ fld low 0 8 = w.n.toNat ∧ fld low 0 28 = o.code * 67108864 + w.s.toNat * 65536 + w.p.toNat * 256 + w.n.toNat + ford.toNat * 33554432 := by
    simp only [fld]; omega
  clear hlow
  obtain ⟨pc, po, pv, p52, p53, p54, p55, psc, pl2, pg, pd_, ps1, ps2, pslo, pshi, plt, pl⟩ := P
  obtain ⟨F0, F1, F2, F3, F4, F5, F6, F7, F8⟩ := F
  simp [decodeNat, Instr.canonical, decode2, decode2b, decLdSt, offOf, offClean, spAddrOf, spClean, decSp, decSpB, decAtomic, sc4, subF, waveOf, getOr, req, bitAt, fin8, fin16, fin64, Bind.bind, Except.bind, Pure.pure, Except.pure, pc, po, pv, p52, p53, p54, p55, psc, pl2, pg, pd_, ps1, ps2, pslo, pshi, pl, F0, F1, F2, F3, F4, F5, F6, F7, F8]

theorem Encoding.aswap (sc : Scope) (w64 : Bool) (o : Ord4) (d s1 s2 : Fin 16) (w : Wave) : Encoding.Statement (.aswap sc w64 o d s1 s2 w) :=
  Encoding.of_decAtomic .aswap 0x0B (by decide) sc w64 o d s1 s2 w rfl (fun _ => rfl) rfl

theorem Encoding.amin (sc : Scope) (w64 : Bool) (o : Ord4) (sgn : Bool) (d s1 s2 : Fin 16) (w : Wave) : Encoding.Statement (.amin sc w64 o sgn d s1 s2 w) := by
  have b0 := Fin.isLt sc
  have b1 := Bool.toNat_lt w64
  have b2 := Ord4.code_lt o
  have b3 := Bool.toNat_lt sgn
  have b4 := sgn64_lt sgn
  have b5 := Fin.isLt d
  have b6 := Fin.isLt s1
  have b7 := Fin.isLt s2
  have b8 := BitVec.isLt w.s
  have b9 := BitVec.isLt w.p
  have b10 := BitVec.isLt w.n
  refine Encoding.of_parts rfl ?_ ?_ ?_ ?_ ?_ ?_ ?_ fun hwf W low hlow P => ?_
  any_goals first | (simp only [enc_false, enc_zero_mul, enc_add_zero, enc_zero_add, Wave.code]; omega) | omega
  try simp only [enc_false, enc_zero_mul, enc_add_zero, enc_zero_add, Wave.code] at hlow
  have F : fld low 26 2 = o.code ∧ fld low 25 1 = 0 ∧ fld low 24 1 = sgn.toNat ∧ fld low 24 2 = sgn.toNat ∧ fld low 24 4 = o.code * 4 + sgn.toNat ∧ fld low 16 8 = w.s.toNat ∧ fld low 8 8 = w.p.toNat ∧ fld low 0 8 = w.n.toNat ∧ fld low 0 28 = o.code * 67108864 + w.s.toNat * 65536 + w.p.toNat * 256 + w.n.toNat + sgn.toNat * 16777216 := by
    simp only [fld]; omega
  clear hlow
  obtain ⟨pc, po, pv, p52, p53, p54, p55, psc, pl2, pg, pd_, ps1, ps2, pslo, pshi, plt, pl⟩ := P
  obtain ⟨F0, F1, F2, F3, F4, F5, F6, F7, F8⟩ := F
  simp [decodeNat, Instr.canonical, decode2, decode2b, decLdSt, offOf, offClean, spAddrOf, spClean, decSp, decSpB, decAtomic, sc4, subF, waveOf, getOr, req, bitAt, fin8, fin16, fin64, Bind.bind, Except.bind, Pure.pure, Except.pure, pc, po, pv, p52, p53, p54, p55, psc, pl2, pg, pd_, ps1, ps2, pslo, pshi, pl, F0, F1, F2, F3, F4, F5, F6, F7, F8]

theorem Encoding.amax (sc : Scope) (w64 : Bool) (o : Ord4) (sgn : Bool) (d s1 s2 : Fin 16) (w : Wave) : Encoding.Statement (.amax sc w64 o sgn d s1 s2 w) := by
  have b0 := Fin.isLt sc
  have b1 := Bool.toNat_lt w64
  have b2 := Ord4.code_lt o
  have b3 := Bool.toNat_lt sgn
  have b4 := sgn64_lt sgn
  have b5 := Fin.isLt d
  have b6 := Fin.isLt s1
  have b7 := Fin.isLt s2
  have b8 := BitVec.isLt w.s
  have b9 := BitVec.isLt w.p
  have b10 := BitVec.isLt w.n
  refine Encoding.of_parts rfl ?_ ?_ ?_ ?_ ?_ ?_ ?_ fun hwf W low hlow P => ?_
  any_goals first | (simp only [enc_false, enc_zero_mul, enc_add_zero, enc_zero_add, Wave.code]; omega) | omega
  try simp only [enc_false, enc_zero_mul, enc_add_zero, enc_zero_add, Wave.code] at hlow
  have F : fld low 26 2 = o.code ∧ fld low 25 1 = 0 ∧ fld low 24 1 = sgn.toNat ∧ fld low 24 2 = sgn.toNat ∧ fld low 24 4 = o.code * 4 + sgn.toNat ∧ fld low 16 8 = w.s.toNat ∧ fld low 8 8 = w.p.toNat ∧ fld low 0 8 = w.n.toNat ∧ fld low 0 28 = o.code * 67108864 + w.s.toNat * 65536 + w.p.toNat * 256 + w.n.toNat + sgn.toNat * 16777216 := by
    simp only [fld]; omega
  clear hlow
  obtain ⟨pc, po, pv, p52, p53, p54, p55, psc, pl2, pg, pd_, ps1, ps2, pslo, pshi, plt, pl⟩ := P
  obtain ⟨F0, F1, F2, F3, F4, F5, F6, F7, F8⟩ := F
  simp [decodeNat, Instr.canonical, decode2, decode2b, decLdSt, offOf, offClean, spAddrOf, spClean, decSp, decSpB, decAtomic, sc4, subF, waveOf, getOr, req, bitAt, fin8, fin16, fin64, Bind.bind, Except.bind, Pure.pure, Except.pure, pc, po, pv, p52, p53, p54, p55, psc, pl2, pg, pd_, ps1, ps2, pslo, pshi, pl, F0, F1, F2, F3, F4, F5, F6, F7, F8]

theorem Encoding.aand (sc : Scope) (w64 : Bool) (o : Ord4) (d s1 s2 : Fin 16) (w : Wave) : Encoding.Statement (.aand sc w64 o d s1 s2 w) :=
  Encoding.of_decAtomic .aand 0x0E (by decide) sc w64 o d s1 s2 w rfl (fun _ => rfl) rfl

theorem Encoding.aor (sc : Scope) (w64 : Bool) (o : Ord4) (d s1 s2 : Fin 16) (w : Wave) : Encoding.Statement (.aor sc w64 o d s1 s2 w) :=
  Encoding.of_decAtomic .aor 0x0F (by decide) sc w64 o d s1 s2 w rfl (fun _ => rfl) rfl

theorem Encoding.bind (d s1 s2 : Fin 16) (w : Wave) : Encoding.Statement (.bind d s1 s2 w) := by
  have b0 := Fin.isLt d
  have b1 := Fin.isLt s1
  have b2 := Fin.isLt s2
  have b3 := BitVec.isLt w.s
  have b4 := BitVec.isLt w.p
  have b5 := BitVec.isLt w.n
  refine Encoding.of_parts rfl ?_ ?_ ?_ ?_ ?_ ?_ ?_ fun hwf W low hlow P => ?_
  any_goals first | (simp only [enc_zero_mul, enc_add_zero, enc_zero_add, Wave.code]; omega) | omega
  try simp only [enc_zero_mul, enc_add_zero, enc_zero_add, Wave.code] at hlow
  have F : fld low 24 4 = 0 ∧ fld low 16 8 = w.s.toNat ∧ fld low 8 8 = w.p.toNat ∧ fld low 0 8 = w.n.toNat ∧ fld low 0 28 = 0 * 16777216 + w.s.toNat * 65536 + w.p.toNat * 256 + w.n.toNat := by
    simp only [fld]; omega
  clear hlow
  obtain ⟨pc, po, pv, p52, p53, p54, p55, psc, pl2, pg, pd_, ps1, ps2, pslo, pshi, plt, pl⟩ := P
  obtain ⟨F0, F1, F2, F3, F4⟩ := F
  simp [decodeNat, Instr.canonical, decode2, decode2b, decLdSt, offOf, offClean, spAddrOf, spClean, decSp, decSpB, decAtomic, sc4, subF, waveOf, getOr, req, bitAt, fin8, fin16, fin64, Bind.bind, Except.bind, Pure.pure, Except.pure, pc, po, pv, p52, p53, p54, p55, psc, pl2, pg, pd_, ps1, ps2, pslo, pshi, pl, F0, F1, F2, F3, F4]

theorem Encoding.unbind (s1 : Fin 16) (w : Wave) : Encoding.Statement (.unbind s1 w) := by
  have b0 := Fin.isLt s1
  have b1 := BitVec.isLt w.s
  have b2 := BitVec.isLt w.p
  have b3 := BitVec.isLt w.n
  refine Encoding.of_parts rfl ?_ ?_ ?_ ?_ ?_ ?_ ?_ fun hwf W low hlow P => ?_
  any_goals first | (simp only [enc_zero_mul, enc_add_zero, enc_zero_add, Wave.code]; omega) | omega
  try simp only [enc_zero_mul, enc_add_zero, enc_zero_add, Wave.code] at hlow
  have F : fld low 24 4 = 0 ∧ fld low 16 8 = w.s.toNat ∧ fld low 8 8 = w.p.toNat ∧ fld low 0 8 = w.n.toNat ∧ fld low 0 28 = 0 * 16777216 + w.s.toNat * 65536 + w.p.toNat * 256 + w.n.toNat := by
    simp only [fld]; omega
  clear hlow
  obtain ⟨pc, po, pv, p52, p53, p54, p55, psc, pl2, pg, pd_, ps1, ps2, pslo, pshi, plt, pl⟩ := P
  obtain ⟨F0, F1, F2, F3, F4⟩ := F
  simp [decodeNat, Instr.canonical, decode2, decode2b, decLdSt, offOf, offClean, spAddrOf, spClean, decSp, decSpB, decAtomic, sc4, subF, waveOf, getOr, req, bitAt, fin8, fin16, fin64, Bind.bind, Except.bind, Pure.pure, Except.pure, pc, po, pv, p52, p53, p54, p55, psc, pl2, pg, pd_, ps1, ps2, pslo, pshi, pl, F0, F1, F2, F3, F4]

theorem Encoding.unbindObj (s1 : Fin 16) (w : Wave) : Encoding.Statement (.unbindObj s1 w) := by
  have b0 := Fin.isLt s1
  have b1 := BitVec.isLt w.s
  have b2 := BitVec.isLt w.p
  have b3 := BitVec.isLt w.n
  refine Encoding.of_parts rfl ?_ ?_ ?_ ?_ ?_ ?_ ?_ fun hwf W low hlow P => ?_
  any_goals first | (simp only [enc_zero_mul, enc_add_zero, enc_zero_add, Wave.code]; omega) | omega
  try simp only [enc_zero_mul, enc_add_zero, enc_zero_add, Wave.code] at hlow
  have F : fld low 24 4 = 1 ∧ fld low 16 8 = w.s.toNat ∧ fld low 8 8 = w.p.toNat ∧ fld low 0 8 = w.n.toNat ∧ fld low 0 28 = 1 * 16777216 + w.s.toNat * 65536 + w.p.toNat * 256 + w.n.toNat := by
    simp only [fld]; omega
  clear hlow
  obtain ⟨pc, po, pv, p52, p53, p54, p55, psc, pl2, pg, pd_, ps1, ps2, pslo, pshi, plt, pl⟩ := P
  obtain ⟨F0, F1, F2, F3, F4⟩ := F
  simp [decodeNat, Instr.canonical, decode2, decode2b, decLdSt, offOf, offClean, spAddrOf, spClean, decSp, decSpB, decAtomic, sc4, subF, waveOf, getOr, req, bitAt, fin8, fin16, fin64, Bind.bind, Except.bind, Pure.pure, Except.pure, pc, po, pv, p52, p53, p54, p55, psc, pl2, pg, pd_, ps1, ps2, pslo, pshi, pl, F0, F1, F2, F3, F4]

theorem Encoding.acqLockWait (sc : Scope) (d s1 s2 : Fin 16) (w : Wave) : Encoding.Statement (.acqLockWait sc d s1 s2 w) := by
  have b0 := Fin.isLt sc
  have b1 := Fin.isLt d
  have b2 := Fin.isLt s1
  have b3 := Fin.isLt s2
  have b4 := BitVec.isLt w.s
  have b5 := BitVec.isLt w.p
  have b6 := BitVec.isLt w.n
  refine Encoding.of_parts rfl ?_ ?_ ?_ ?_ ?_ ?_ ?_ fun hwf W low hlow P => ?_
  any_goals first | (simp only [enc_zero_mul, enc_add_zero, enc_zero_add, Wave.code]; omega) | omega
  try simp only [enc_zero_mul, enc_add_zero, enc_zero_add, Wave.code] at hlow
  have F : fld low 24 4 = 0 ∧ fld low 16 8 = w.s.toNat ∧ fld low 8 8 = w.p.toNat ∧ fld low 0 8 = w.n.toNat ∧ fld low 0 28 = 0 * 16777216 + w.s.toNat * 65536 + w.p.toNat * 256 + w.n.toNat := by
    simp only [fld]; omega
  clear hlow
  obtain ⟨pc, po, pv, p52, p53, p54, p55, psc, pl2, pg, pd_, ps1, ps2, pslo, pshi, plt, pl⟩ := P
  obtain ⟨F0, F1, F2, F3, F4⟩ := F
  simp [decodeNat, Instr.canonical, decode2, decode2b, decLdSt, offOf, offClean, spAddrOf, spClean, decSp, decSpB, decAtomic, sc4, subF, waveOf, getOr, req, bitAt, fin8, fin16, fin64, Bind.bind, Except.bind, Pure.pure, Except.pure, pc, po, pv, p52, p53, p54, p55, psc, pl2, pg, pd_, ps1, ps2, pslo, pshi, pl, F0, F1, F2, F3, F4]

theorem Encoding.acqLockTry (sc : Scope) (d s1 s2 : Fin 16) (w : Wave) : Encoding.Statement (.acqLockTry sc d s1 s2 w) := by
  have b0 := Fin.isLt sc
  have b1 := Fin.isLt d
  have b2 := Fin.isLt s1
  have b3 := Fin.isLt s2
  have b4 := BitVec.isLt w.s
  have b5 := BitVec.isLt w.p
  have b6 := BitVec.isLt w.n
  refine Encoding.of_parts rfl ?_ ?_ ?_ ?_ ?_ ?_ ?_ fun hwf W low hlow P => ?_
  any_goals first | (simp only [enc_zero_mul, enc_add_zero, enc_zero_add, Wave.code]; omega) | omega
  try simp only [enc_zero_mul, enc_add_zero, enc_zero_add, Wave.code] at hlow
  have F : fld low 24 4 = 1 ∧ fld low 16 8 = w.s.toNat ∧ fld low 8 8 = w.p.toNat ∧ fld low 0 8 = w.n.toNat ∧ fld low 0 28 = 1 * 16777216 + w.s.toNat * 65536 + w.p.toNat * 256 + w.n.toNat := by
    simp only [fld]; omega
  clear hlow
  obtain ⟨pc, po, pv, p52, p53, p54, p55, psc, pl2, pg, pd_, ps1, ps2, pslo, pshi, plt, pl⟩ := P
  obtain ⟨F0, F1, F2, F3, F4⟩ := F
  simp [decodeNat, Instr.canonical, decode2, decode2b, decLdSt, offOf, offClean, spAddrOf, spClean, decSp, decSpB, decAtomic, sc4, subF, waveOf, getOr, req, bitAt, fin8, fin16, fin64, Bind.bind, Except.bind, Pure.pure, Except.pure, pc, po, pv, p52, p53, p54, p55, psc, pl2, pg, pd_, ps1, ps2, pslo, pshi, pl, F0, F1, F2, F3, F4]

theorem Encoding.acqFlagWait (c : FlagCond) (sc : Scope) (d s1 s2 : Fin 16) (w : Wave) : Encoding.Statement (.acqFlagWait c sc d s1 s2 w) := by
  cases c with
  | eq =>
    have b0 := Fin.isLt sc
    have b1 := Fin.isLt d
    have b2 := Fin.isLt s1
    have b3 := Fin.isLt s2
    have b4 := BitVec.isLt w.s
    have b5 := BitVec.isLt w.p
    have b6 := BitVec.isLt w.n
    refine Encoding.of_parts rfl ?_ ?_ ?_ ?_ ?_ ?_ ?_ fun hwf W low hlow P => ?_
    any_goals first | (simp only [FlagCond.code, enc_zero_mul, enc_add_zero, enc_zero_add, Wave.code]; omega) | omega
    try simp only [FlagCond.code, enc_zero_mul, enc_add_zero, enc_zero_add, Wave.code] at hlow
    simp [Instr.wellFormed, vecOk, noRound, VAmount.ok] at hwf
    have F : fld low 24 4 = 0 ∧ fld low 16 8 = w.s.toNat ∧ fld low 8 8 = w.p.toNat ∧ fld low 0 8 = w.n.toNat ∧ fld low 0 28 = 0 * 16777216 + w.s.toNat * 65536 + w.p.toNat * 256 + w.n.toNat := by
      simp only [fld]; omega
    clear hlow
    obtain ⟨pc, po, pv, p52, p53, p54, p55, psc, pl2, pg, pd_, ps1, ps2, pslo, pshi, plt, pl⟩ := P
    obtain ⟨F0, F1, F2, F3, F4⟩ := F
    simp [decodeNat, Instr.canonical, decode2, decode2b, decLdSt, offOf, offClean, spAddrOf, spClean, decSp, decSpB, decAtomic, sc4, subF, waveOf, getOr, req, bitAt, fin8, fin16, fin64, Bind.bind, Except.bind, Pure.pure, Except.pure, pc, po, pv, p52, p53, p54, p55, psc, pl2, pg, pd_, ps1, ps2, pslo, pshi, pl, F0, F1, F2, F3, F4, hwf]
  | ne =>
    have b0 := Fin.isLt sc
    have b1 := Fin.isLt d
    have b2 := Fin.isLt s1
    have b3 := Fin.isLt s2
    have b4 := BitVec.isLt w.s
    have b5 := BitVec.isLt w.p
    have b6 := BitVec.isLt w.n
    refine Encoding.of_parts rfl ?_ ?_ ?_ ?_ ?_ ?_ ?_ fun hwf W low hlow P => ?_
    any_goals first | (simp only [FlagCond.code, enc_zero_mul, enc_add_zero, enc_zero_add, Wave.code]; omega) | omega
    try simp only [FlagCond.code, enc_zero_mul, enc_add_zero, enc_zero_add, Wave.code] at hlow
    simp [Instr.wellFormed, vecOk, noRound, VAmount.ok] at hwf
    have F : fld low 24 4 = 1 ∧ fld low 16 8 = w.s.toNat ∧ fld low 8 8 = w.p.toNat ∧ fld low 0 8 = w.n.toNat ∧ fld low 0 28 = 1 * 16777216 + w.s.toNat * 65536 + w.p.toNat * 256 + w.n.toNat := by
      simp only [fld]; omega
    clear hlow
    obtain ⟨pc, po, pv, p52, p53, p54, p55, psc, pl2, pg, pd_, ps1, ps2, pslo, pshi, plt, pl⟩ := P
    obtain ⟨F0, F1, F2, F3, F4⟩ := F
    simp [decodeNat, Instr.canonical, decode2, decode2b, decLdSt, offOf, offClean, spAddrOf, spClean, decSp, decSpB, decAtomic, sc4, subF, waveOf, getOr, req, bitAt, fin8, fin16, fin64, Bind.bind, Except.bind, Pure.pure, Except.pure, pc, po, pv, p52, p53, p54, p55, psc, pl2, pg, pd_, ps1, ps2, pslo, pshi, pl, F0, F1, F2, F3, F4, hwf]
  | ge =>
    have b0 := Fin.isLt sc
    have b1 := Fin.isLt d
    have b2 := Fin.isLt s1
    have b3 := Fin.isLt s2
    have b4 := BitVec.isLt w.s
    have b5 := BitVec.isLt w.p
    have b6 := BitVec.isLt w.n
    refine Encoding.of_parts rfl ?_ ?_ ?_ ?_ ?_ ?_ ?_ fun hwf W low hlow P => ?_
    any_goals first | (simp only [FlagCond.code, enc_zero_mul, enc_add_zero, enc_zero_add, Wave.code]; omega) | omega
    try simp only [FlagCond.code, enc_zero_mul, enc_add_zero, enc_zero_add, Wave.code] at hlow
    simp [Instr.wellFormed, vecOk, noRound, VAmount.ok] at hwf
    have F : fld low 24 4 = 2 ∧ fld low 16 8 = w.s.toNat ∧ fld low 8 8 = w.p.toNat ∧ fld low 0 8 = w.n.toNat ∧ fld low 0 28 = 2 * 16777216 + w.s.toNat * 65536 + w.p.toNat * 256 + w.n.toNat := by
      simp only [fld]; omega
    clear hlow
    obtain ⟨pc, po, pv, p52, p53, p54, p55, psc, pl2, pg, pd_, ps1, ps2, pslo, pshi, plt, pl⟩ := P
    obtain ⟨F0, F1, F2, F3, F4⟩ := F
    simp [decodeNat, Instr.canonical, decode2, decode2b, decLdSt, offOf, offClean, spAddrOf, spClean, decSp, decSpB, decAtomic, sc4, subF, waveOf, getOr, req, bitAt, fin8, fin16, fin64, Bind.bind, Except.bind, Pure.pure, Except.pure, pc, po, pv, p52, p53, p54, p55, psc, pl2, pg, pd_, ps1, ps2, pslo, pshi, pl, F0, F1, F2, F3, F4, hwf]

theorem Encoding.acqFlagAny (sc : Scope) (d s1 s2 : Fin 16) (w : Wave) : Encoding.Statement (.acqFlagAny sc d s1 s2 w) := by
  have b0 := Fin.isLt sc
  have b1 := Fin.isLt d
  have b2 := Fin.isLt s1
  have b3 := Fin.isLt s2
  have b4 := BitVec.isLt w.s
  have b5 := BitVec.isLt w.p
  have b6 := BitVec.isLt w.n
  refine Encoding.of_parts rfl ?_ ?_ ?_ ?_ ?_ ?_ ?_ fun hwf W low hlow P => ?_
  any_goals first | (simp only [enc_zero_mul, enc_add_zero, enc_zero_add, Wave.code]; omega) | omega
  try simp only [enc_zero_mul, enc_add_zero, enc_zero_add, Wave.code] at hlow
  have F : fld low 24 4 = 3 ∧ fld low 16 8 = w.s.toNat ∧ fld low 8 8 = w.p.toNat ∧ fld low 0 8 = w.n.toNat ∧ fld low 0 28 = 3 * 16777216 + w.s.toNat * 65536 + w.p.toNat * 256 + w.n.toNat := by
    simp only [fld]; omega
  clear hlow
  obtain ⟨pc, po, pv, p52, p53, p54, p55, psc, pl2, pg, pd_, ps1, ps2, pslo, pshi, plt, pl⟩ := P
  obtain ⟨F0, F1, F2, F3, F4⟩ := F
  simp [decodeNat, Instr.canonical, decode2, decode2b, decLdSt, offOf, offClean, spAddrOf, spClean, decSp, decSpB, decAtomic, sc4, subF, waveOf, getOr, req, bitAt, fin8, fin16, fin64, Bind.bind, Except.bind, Pure.pure, Except.pure, pc, po, pv, p52, p53, p54, p55, psc, pl2, pg, pd_, ps1, ps2, pslo, pshi, pl, F0, F1, F2, F3, F4]

theorem Encoding.relLock (sc : Scope) (s1 s2 : Fin 16) (w : Wave) : Encoding.Statement (.relLock sc s1 s2 w) := by
  have b0 := Fin.isLt sc
  have b1 := Fin.isLt s1
  have b2 := Fin.isLt s2
  have b3 := BitVec.isLt w.s
  have b4 := BitVec.isLt w.p
  have b5 := BitVec.isLt w.n
  refine Encoding.of_parts rfl ?_ ?_ ?_ ?_ ?_ ?_ ?_ fun hwf W low hlow P => ?_
  any_goals first | (simp only [enc_zero_mul, enc_add_zero, enc_zero_add, Wave.code]; omega) | omega
  try simp only [enc_zero_mul, enc_add_zero, enc_zero_add, Wave.code] at hlow
  have F : fld low 24 4 = 0 ∧ fld low 16 8 = w.s.toNat ∧ fld low 8 8 = w.p.toNat ∧ fld low 0 8 = w.n.toNat ∧ fld low 0 28 = 0 * 16777216 + w.s.toNat * 65536 + w.p.toNat * 256 + w.n.toNat := by
    simp only [fld]; omega
  clear hlow
  obtain ⟨pc, po, pv, p52, p53, p54, p55, psc, pl2, pg, pd_, ps1, ps2, pslo, pshi, plt, pl⟩ := P
  obtain ⟨F0, F1, F2, F3, F4⟩ := F
  simp [decodeNat, Instr.canonical, decode2, decode2b, decLdSt, offOf, offClean, spAddrOf, spClean, decSp, decSpB, decAtomic, sc4, subF, waveOf, getOr, req, bitAt, fin8, fin16, fin64, Bind.bind, Except.bind, Pure.pure, Except.pure, pc, po, pv, p52, p53, p54, p55, psc, pl2, pg, pd_, ps1, ps2, pslo, pshi, pl, F0, F1, F2, F3, F4]

theorem Encoding.relSet (sc : Scope) (s1 s2 : Fin 16) (w : Wave) : Encoding.Statement (.relSet sc s1 s2 w) := by
  have b0 := Fin.isLt sc
  have b1 := Fin.isLt s1
  have b2 := Fin.isLt s2
  have b3 := BitVec.isLt w.s
  have b4 := BitVec.isLt w.p
  have b5 := BitVec.isLt w.n
  refine Encoding.of_parts rfl ?_ ?_ ?_ ?_ ?_ ?_ ?_ fun hwf W low hlow P => ?_
  any_goals first | (simp only [enc_zero_mul, enc_add_zero, enc_zero_add, Wave.code]; omega) | omega
  try simp only [enc_zero_mul, enc_add_zero, enc_zero_add, Wave.code] at hlow
  have F : fld low 24 4 = 0 ∧ fld low 16 8 = w.s.toNat ∧ fld low 8 8 = w.p.toNat ∧ fld low 0 8 = w.n.toNat ∧ fld low 0 28 = 0 * 16777216 + w.s.toNat * 65536 + w.p.toNat * 256 + w.n.toNat := by
    simp only [fld]; omega
  clear hlow
  obtain ⟨pc, po, pv, p52, p53, p54, p55, psc, pl2, pg, pd_, ps1, ps2, pslo, pshi, plt, pl⟩ := P
  obtain ⟨F0, F1, F2, F3, F4⟩ := F
  simp [decodeNat, Instr.canonical, decode2, decode2b, decLdSt, offOf, offClean, spAddrOf, spClean, decSp, decSpB, decAtomic, sc4, subF, waveOf, getOr, req, bitAt, fin8, fin16, fin64, Bind.bind, Except.bind, Pure.pure, Except.pure, pc, po, pv, p52, p53, p54, p55, psc, pl2, pg, pd_, ps1, ps2, pslo, pshi, pl, F0, F1, F2, F3, F4]

theorem Encoding.relAdd (sc : Scope) (s1 s2 : Fin 16) (w : Wave) : Encoding.Statement (.relAdd sc s1 s2 w) := by
  have b0 := Fin.isLt sc
  have b1 := Fin.isLt s1
  have b2 := Fin.isLt s2
  have b3 := BitVec.isLt w.s
  have b4 := BitVec.isLt w.p
  have b5 := BitVec.isLt w.n
  refine Encoding.of_parts rfl ?_ ?_ ?_ ?_ ?_ ?_ ?_ fun hwf W low hlow P => ?_
  any_goals first | (simp only [enc_zero_mul, enc_add_zero, enc_zero_add, Wave.code]; omega) | omega
  try simp only [enc_zero_mul, enc_add_zero, enc_zero_add, Wave.code] at hlow
  have F : fld low 24 4 = 1 ∧ fld low 16 8 = w.s.toNat ∧ fld low 8 8 = w.p.toNat ∧ fld low 0 8 = w.n.toNat ∧ fld low 0 28 = 1 * 16777216 + w.s.toNat * 65536 + w.p.toNat * 256 + w.n.toNat := by
    simp only [fld]; omega
  clear hlow
  obtain ⟨pc, po, pv, p52, p53, p54, p55, psc, pl2, pg, pd_, ps1, ps2, pslo, pshi, plt, pl⟩ := P
  obtain ⟨F0, F1, F2, F3, F4⟩ := F
  simp [decodeNat, Instr.canonical, decode2, decode2b, decLdSt, offOf, offClean, spAddrOf, spClean, decSp, decSpB, decAtomic, sc4, subF, waveOf, getOr, req, bitAt, fin8, fin16, fin64, Bind.bind, Except.bind, Pure.pure, Except.pure, pc, po, pv, p52, p53, p54, p55, psc, pl2, pg, pd_, ps1, ps2, pslo, pshi, pl, F0, F1, F2, F3, F4]

theorem Encoding.fenceRel (sc : Scope) (w : Wave) : Encoding.Statement (.fenceRel sc w) := by
  have b0 := Fin.isLt sc
  have b1 := BitVec.isLt w.s
  have b2 := BitVec.isLt w.p
  have b3 := BitVec.isLt w.n
  refine Encoding.of_parts rfl ?_ ?_ ?_ ?_ ?_ ?_ ?_ fun hwf W low hlow P => ?_
  any_goals first | (simp only [enc_zero_mul, enc_add_zero, enc_zero_add, Wave.code]; omega) | omega
  try simp only [enc_zero_mul, enc_add_zero, enc_zero_add, Wave.code] at hlow
  have F : fld low 24 4 = 1 ∧ fld low 16 8 = w.s.toNat ∧ fld low 8 8 = w.p.toNat ∧ fld low 0 8 = w.n.toNat ∧ fld low 0 28 = 1 * 16777216 + w.s.toNat * 65536 + w.p.toNat * 256 + w.n.toNat := by
    simp only [fld]; omega
  clear hlow
  obtain ⟨pc, po, pv, p52, p53, p54, p55, psc, pl2, pg, pd_, ps1, ps2, pslo, pshi, plt, pl⟩ := P
  obtain ⟨F0, F1, F2, F3, F4⟩ := F
  simp [decodeNat, Instr.canonical, decode2, decode2b, decLdSt, offOf, offClean, spAddrOf, spClean, decSp, decSpB, decAtomic, sc4, subF, waveOf, getOr, req, bitAt, fin8, fin16, fin64, Bind.bind, Except.bind, Pure.pure, Except.pure, pc, po, pv, p52, p53, p54, p55, psc, pl2, pg, pd_, ps1, ps2, pslo, pshi, pl, F0, F1, F2, F3, F4]

theorem Encoding.fenceAcq (sc : Scope) (w : Wave) : Encoding.Statement (.fenceAcq sc w) := by
  have b0 := Fin.isLt sc
  have b1 := BitVec.isLt w.s
  have b2 := BitVec.isLt w.p
  have b3 := BitVec.isLt w.n
  refine Encoding.of_parts rfl ?_ ?_ ?_ ?_ ?_ ?_ ?_ fun hwf W low hlow P => ?_
  any_goals first | (simp only [enc_zero_mul, enc_add_zero, enc_zero_add, Wave.code]; omega) | omega
  try simp only [enc_zero_mul, enc_add_zero, enc_zero_add, Wave.code] at hlow
  have F : fld low 24 4 = 2 ∧ fld low 16 8 = w.s.toNat ∧ fld low 8 8 = w.p.toNat ∧ fld low 0 8 = w.n.toNat ∧ fld low 0 28 = 2 * 16777216 + w.s.toNat * 65536 + w.p.toNat * 256 + w.n.toNat := by
    simp only [fld]; omega
  clear hlow
  obtain ⟨pc, po, pv, p52, p53, p54, p55, psc, pl2, pg, pd_, ps1, ps2, pslo, pshi, plt, pl⟩ := P
  obtain ⟨F0, F1, F2, F3, F4⟩ := F
  simp [decodeNat, Instr.canonical, decode2, decode2b, decLdSt, offOf, offClean, spAddrOf, spClean, decSp, decSpB, decAtomic, sc4, subF, waveOf, getOr, req, bitAt, fin8, fin16, fin64, Bind.bind, Except.bind, Pure.pure, Except.pure, pc, po, pv, p52, p53, p54, p55, psc, pl2, pg, pd_, ps1, ps2, pslo, pshi, pl, F0, F1, F2, F3, F4]

theorem Encoding.fenceAr (sc : Scope) (w : Wave) : Encoding.Statement (.fenceAr sc w) := by
  have b0 := Fin.isLt sc
  have b1 := BitVec.isLt w.s
  have b2 := BitVec.isLt w.p
  have b3 := BitVec.isLt w.n
  refine Encoding.of_parts rfl ?_ ?_ ?_ ?_ ?_ ?_ ?_ fun hwf W low hlow P => ?_
  any_goals first | (simp only [enc_zero_mul, enc_add_zero, enc_zero_add, Wave.code]; omega) | omega
  try simp only [enc_zero_mul, enc_add_zero, enc_zero_add, Wave.code] at hlow
  have F : fld low 24 4 = 3 ∧ fld low 16 8 = w.s.toNat ∧ fld low 8 8 = w.p.toNat ∧ fld low 0 8 = w.n.toNat ∧ fld low 0 28 = 3 * 16777216 + w.s.toNat * 65536 + w.p.toNat * 256 + w.n.toNat := by
    simp only [fld]; omega
  clear hlow
  obtain ⟨pc, po, pv, p52, p53, p54, p55, psc, pl2, pg, pd_, ps1, ps2, pslo, pshi, plt, pl⟩ := P
  obtain ⟨F0, F1, F2, F3, F4⟩ := F
  simp [decodeNat, Instr.canonical, decode2, decode2b, decLdSt, offOf, offClean, spAddrOf, spClean, decSp, decSpB, decAtomic, sc4, subF, waveOf, getOr, req, bitAt, fin8, fin16, fin64, Bind.bind, Except.bind, Pure.pure, Except.pure, pc, po, pv, p52, p53, p54, p55, psc, pl2, pg, pd_, ps1, ps2, pslo, pshi, pl, F0, F1, F2, F3, F4]

theorem Encoding.barr (sc : Scope) (d s1 s2 : Fin 16) (w : Wave) : Encoding.Statement (.barr sc d s1 s2 w) := by
  have b0 := Fin.isLt sc
  have b1 := Fin.isLt d
  have b2 := Fin.isLt s1
  have b3 := Fin.isLt s2
  have b4 := BitVec.isLt w.s
  have b5 := BitVec.isLt w.p
  have b6 := BitVec.isLt w.n
  refine Encoding.of_parts rfl ?_ ?_ ?_ ?_ ?_ ?_ ?_ fun hwf W low hlow P => ?_
  any_goals first | (simp only [enc_zero_mul, enc_add_zero, enc_zero_add, Wave.code]; omega) | omega
  try simp only [enc_zero_mul, enc_add_zero, enc_zero_add, Wave.code] at hlow
  have F : fld low 24 4 = 0 ∧ fld low 16 8 = w.s.toNat ∧ fld low 8 8 = w.p.toNat ∧ fld low 0 8 = w.n.toNat ∧ fld low 0 28 = 0 * 16777216 + w.s.toNat * 65536 + w.p.toNat * 256 + w.n.toNat := by
    simp only [fld]; omega
  clear hlow
  obtain ⟨pc, po, pv, p52, p53, p54, p55, psc, pl2, pg, pd_, ps1, ps2, pslo, pshi, plt, pl⟩ := P
  obtain ⟨F0, F1, F2, F3, F4⟩ := F
  simp [decodeNat, Instr.canonical, decode2, decode2b, decLdSt, offOf, offClean, spAddrOf, spClean, decSp, decSpB, decAtomic, sc4, subF, waveOf, getOr, req, bitAt, fin8, fin16, fin64, Bind.bind, Except.bind, Pure.pure, Except.pure, pc, po, pv, p52, p53, p54, p55, psc, pl2, pg, pd_, ps1, ps2, pslo, pshi, pl, F0, F1, F2, F3, F4]

theorem Encoding.barrNowait (sc : Scope) (d s1 s2 : Fin 16) (w : Wave) : Encoding.Statement (.barrNowait sc d s1 s2 w) := by
  have b0 := Fin.isLt sc
  have b1 := Fin.isLt d
  have b2 := Fin.isLt s1
  have b3 := Fin.isLt s2
  have b4 := BitVec.isLt w.s
  have b5 := BitVec.isLt w.p
  have b6 := BitVec.isLt w.n
  refine Encoding.of_parts rfl ?_ ?_ ?_ ?_ ?_ ?_ ?_ fun hwf W low hlow P => ?_
  any_goals first | (simp only [enc_zero_mul, enc_add_zero, enc_zero_add, Wave.code]; omega) | omega
  try simp only [enc_zero_mul, enc_add_zero, enc_zero_add, Wave.code] at hlow
  have F : fld low 24 4 = 1 ∧ fld low 16 8 = w.s.toNat ∧ fld low 8 8 = w.p.toNat ∧ fld low 0 8 = w.n.toNat ∧ fld low 0 28 = 1 * 16777216 + w.s.toNat * 65536 + w.p.toNat * 256 + w.n.toNat := by
    simp only [fld]; omega
  clear hlow
  obtain ⟨pc, po, pv, p52, p53, p54, p55, psc, pl2, pg, pd_, ps1, ps2, pslo, pshi, plt, pl⟩ := P
  obtain ⟨F0, F1, F2, F3, F4⟩ := F
  simp [decodeNat, Instr.canonical, decode2, decode2b, decLdSt, offOf, offClean, spAddrOf, spClean, decSp, decSpB, decAtomic, sc4, subF, waveOf, getOr, req, bitAt, fin8, fin16, fin64, Bind.bind, Except.bind, Pure.pure, Except.pure, pc, po, pv, p52, p53, p54, p55, psc, pl2, pg, pd_, ps1, ps2, pslo, pshi, pl, F0, F1, F2, F3, F4]

theorem Encoding.sdec (sc : Scope) (d s1 s2 : Fin 16) (w : Wave) : Encoding.Statement (.sdec sc d s1 s2 w) := by
  have b0 := Fin.isLt sc
  have b1 := Fin.isLt d
  have b2 := Fin.isLt s1
  have b3 := Fin.isLt s2
  have b4 := BitVec.isLt w.s
  have b5 := BitVec.isLt w.p
  have b6 := BitVec.isLt w.n
  refine Encoding.of_parts rfl ?_ ?_ ?_ ?_ ?_ ?_ ?_ fun hwf W low hlow P => ?_
  any_goals first | (simp only [enc_zero_mul, enc_add_zero, enc_zero_add, Wave.code]; omega) | omega
  try simp only [enc_zero_mul, enc_add_zero, enc_zero_add, Wave.code] at hlow
  have F : fld low 24 4 = 0 ∧ fld low 16 8 = w.s.toNat ∧ fld low 8 8 = w.p.toNat ∧ fld low 0 8 = w.n.toNat ∧ fld low 0 28 = 0 * 16777216 + w.s.toNat * 65536 + w.p.toNat * 256 + w.n.toNat := by
    simp only [fld]; omega
  clear hlow
  obtain ⟨pc, po, pv, p52, p53, p54, p55, psc, pl2, pg, pd_, ps1, ps2, pslo, pshi, plt, pl⟩ := P
  obtain ⟨F0, F1, F2, F3, F4⟩ := F
  simp [decodeNat, Instr.canonical, decode2, decode2b, decLdSt, offOf, offClean, spAddrOf, spClean, decSp, decSpB, decAtomic, sc4, subF, waveOf, getOr, req, bitAt, fin8, fin16, fin64, Bind.bind, Except.bind, Pure.pure, Except.pure, pc, po, pv, p52, p53, p54, p55, psc, pl2, pg, pd_, ps1, ps2, pslo, pshi, pl, F0, F1, F2, F3, F4]

theorem Encoding.sinc (sc : Scope) (d s1 s2 : Fin 16) (w : Wave) : Encoding.Statement (.sinc sc d s1 s2 w) := by
  have b0 := Fin.isLt sc
  have b1 := Fin.isLt d
  have b2 := Fin.isLt s1
  have b3 := Fin.isLt s2
  have b4 := BitVec.isLt w.s
  have b5 := BitVec.isLt w.p
  have b6 := BitVec.isLt w.n
  refine Encoding.of_parts rfl ?_ ?_ ?_ ?_ ?_ ?_ ?_ fun hwf W low hlow P => ?_
  any_goals first | (simp only [enc_zero_mul, enc_add_zero, enc_zero_add, Wave.code]; omega) | omega
  try simp only [enc_zero_mul, enc_add_zero, enc_zero_add, Wave.code] at hlow
  have F : fld low 24 4 = 0 ∧ fld low 16 8 = w.s.toNat ∧ fld low 8 8 = w.p.toNat ∧ fld low 0 8 = w.n.toNat ∧ fld low 0 28 = 0 * 16777216 + w.s.toNat * 65536 + w.p.toNat * 256 + w.n.toNat := by
    simp only [fld]; omega
  clear hlow
  obtain ⟨pc, po, pv, p52, p53, p54, p55, psc, pl2, pg, pd_, ps1, ps2, pslo, pshi, plt, pl⟩ := P
  obtain ⟨F0, F1, F2, F3, F4⟩ := F
  simp [decodeNat, Instr.canonical, decode2, decode2b, decLdSt, offOf, offClean, spAddrOf, spClean, decSp, decSpB, decAtomic, sc4, subF, waveOf, getOr, req, bitAt, fin8, fin16, fin64, Bind.bind, Except.bind, Pure.pure, Except.pure, pc, po, pv, p52, p53, p54, p55, psc, pl2, pg, pd_, ps1, ps2, pslo, pshi, pl, F0, F1, F2, F3, F4]

theorem Encoding.rpush (sc : Scope) (nb : Bool) (pn : Fin 8) (s1 s2 : Fin 16) (w : Wave) : Encoding.Statement (.rpush sc nb pn s1 s2 w) := by
  have b0 := vSp_lt s1
  have b1 := vSp_lt s2
  have b2 := Fin.isLt sc
  have b3 := Bool.toNat_lt nb
  have b4 := Fin.isLt pn
  have b5 := Fin.isLt s1
  have b6 := Fin.isLt s2
  have b7 := BitVec.isLt w.s
  have b8 := BitVec.isLt w.p
  have b9 := BitVec.isLt w.n
  refine Encoding.of_parts rfl ?_ ?_ ?_ ?_ ?_ ?_ ?_ fun hwf W low hlow P => ?_
  any_goals first | (simp only [enc_zero_mul, enc_add_zero, enc_zero_add, Wave.code]; omega) | omega
  try simp only [enc_zero_mul, enc_add_zero, enc_zero_add, Wave.code] at hlow
  have F : fld low 24 4 = nb.toNat * 8 + pn.val ∧ fld low 27 1 = nb.toNat ∧ fld low 24 3 = pn.val ∧ fld low 16 8 = w.s.toNat ∧ fld low 8 8 = w.p.toNat ∧ fld low 0 8 = w.n.toNat ∧ fld low 0 28 = nb.toNat * 134217728 + pn.val * 16777216 + w.s.toNat * 65536 + w.p.toNat * 256 + w.n.toNat := by
    simp only [fld]; omega
  clear hlow
  obtain ⟨pc, po, pv, p52, p53, p54, p55, psc, pl2, pg, pd_, ps1, ps2, pslo, pshi, plt, pl⟩ := P
  obtain ⟨F0, F1, F2, F3, F4, F5, F6⟩ := F
  simp [decodeNat, Instr.canonical, decode2, decode2b, decLdSt, offOf, offClean, spAddrOf, spClean, decSp, decSpB, decAtomic, sc4, subF, waveOf, getOr, req, bitAt, fin8, fin16, fin64, Bind.bind, Except.bind, Pure.pure, Except.pure, pc, po, pv, p52, p53, p54, p55, psc, pl2, pg, pd_, ps1, ps2, pslo, pshi, pl, F0, F1, F2, F3, F4, F5, F6]

theorem Encoding.rpop (sc : Scope) (nb : Bool) (pn : Fin 8) (d s1 : Fin 16) (w : Wave) : Encoding.Statement (.rpop sc nb pn d s1 w) := by
  have b0 := vSp_lt d
  have b1 := vSp_lt s1
  have b2 := Fin.isLt sc
  have b3 := Bool.toNat_lt nb
  have b4 := Fin.isLt pn
  have b5 := Fin.isLt d
  have b6 := Fin.isLt s1
  have b7 := BitVec.isLt w.s
  have b8 := BitVec.isLt w.p
  have b9 := BitVec.isLt w.n
  refine Encoding.of_parts rfl ?_ ?_ ?_ ?_ ?_ ?_ ?_ fun hwf W low hlow P => ?_
  any_goals first | (simp only [enc_zero_mul, enc_add_zero, enc_zero_add, Wave.code]; omega) | omega
  try simp only [enc_zero_mul, enc_add_zero, enc_zero_add, Wave.code] at hlow
  have F : fld low 24 4 = nb.toNat * 8 + pn.val ∧ fld low 27 1 = nb.toNat ∧ fld low 24 3 = pn.val ∧ fld low 16 8 = w.s.toNat ∧ fld low 8 8 = w.p.toNat ∧ fld low 0 8 = w.n.toNat ∧ fld low 0 28 = nb.toNat * 134217728 + pn.val * 16777216 + w.s.toNat * 65536 + w.p.toNat * 256 + w.n.toNat := by
    simp only [fld]; omega
  clear hlow
  obtain ⟨pc, po, pv, p52, p53, p54, p55, psc, pl2, pg, pd_, ps1, ps2, pslo, pshi, plt, pl⟩ := P
  obtain ⟨F0, F1, F2, F3, F4, F5, F6⟩ := F
  simp [decodeNat, Instr.canonical, decode2, decode2b, decLdSt, offOf, offClean, spAddrOf, spClean, decSp, decSpB, decAtomic, sc4, subF, waveOf, getOr, req, bitAt, fin8, fin16, fin64, Bind.bind, Except.bind, Pure.pure, Except.pure, pc, po, pv, p52, p53, p54, p55, psc, pl2, pg, pd_, ps1, ps2, pslo, pshi, pl, F0, F1, F2, F3, F4, F5, F6]

theorem Encoding.csusp (d : Fin 8) (s1 s2 : Fin 16) (w : Wave) : Encoding.Statement (.csusp d s1 s2 w) := by
  have b0 := spSp_lt d
  have b1 := Fin.isLt d
  have b2 := Fin.isLt s1
  have b3 := Fin.isLt s2
  have b4 := BitVec.isLt w.s
  have b5 := BitVec.isLt w.p
  have b6 := BitVec.isLt w.n
  refine Encoding.of_parts rfl ?_ ?_ ?_ ?_ ?_ ?_ ?_ fun hwf W low hlow P => ?_
  any_goals first | (simp only [enc_zero_mul, enc_add_zero, enc_zero_add, Wave.code]; omega) | omega
  try simp only [enc_zero_mul, enc_add_zero, enc_zero_add, Wave.code] at hlow
  have F : fld low 24 4 = 0 ∧ fld low 16 8 = w.s.toNat ∧ fld low 8 8 = w.p.toNat ∧ fld low 0 8 = w.n.toNat ∧ fld low 0 28 = 0 * 16777216 + w.s.toNat * 65536 + w.p.toNat * 256 + w.n.toNat := by
    simp only [fld]; omega
  clear hlow
  obtain ⟨pc, po, pv, p52, p53, p54, p55, psc, pl2, pg, pd_, ps1, ps2, pslo, pshi, plt, pl⟩ := P
  obtain ⟨F0, F1, F2, F3, F4⟩ := F
  simp [decodeNat, Instr.canonical, decode2, decode2b, decLdSt, offOf, offClean, spAddrOf, spClean, decSp, decSpB, decAtomic, sc4, subF, waveOf, getOr, req, bitAt, fin8, fin16, fin64, Bind.bind, Except.bind, Pure.pure, Except.pure, pc, po, pv, p52, p53, p54, p55, psc, pl2, pg, pd_, ps1, ps2, pslo, pshi, pl, F0, F1, F2, F3, F4]

theorem Encoding.cres (d s1 s2 : Fin 16) (w : Wave) : Encoding.Statement (.cres d s1 s2 w) := by
  have b0 := vSp_lt d
  have b1 := vSp_lt s1
  have b2 := vSp_lt s2
  have b3 := Fin.isLt d
  have b4 := Fin.isLt s1
  have b5 := Fin.isLt s2
  have b6 := BitVec.isLt w.s
  have b7 := BitVec.isLt w.p
  have b8 := BitVec.isLt w.n
  refine Encoding.of_parts rfl ?_ ?_ ?_ ?_ ?_ ?_ ?_ fun hwf W low hlow P => ?_
  any_goals first | (simp only [enc_zero_mul, enc_add_zero, enc_zero_add, Wave.code]; omega) | omega
  try simp only [enc_zero_mul, enc_add_zero, enc_zero_add, Wave.code] at hlow
  have F : fld low 24 4 = 0 ∧ fld low 16 8 = w.s.toNat ∧ fld low 8 8 = w.p.toNat ∧ fld low 0 8 = w.n.toNat ∧ fld low 0 28 = 0 * 16777216 + w.s.toNat * 65536 + w.p.toNat * 256 + w.n.toNat := by
    simp only [fld]; omega
  clear hlow
  obtain ⟨pc, po, pv, p52, p53, p54, p55, psc, pl2, pg, pd_, ps1, ps2, pslo, pshi, plt, pl⟩ := P
  obtain ⟨F0, F1, F2, F3, F4⟩ := F
  simp [decodeNat, Instr.canonical, decode2, decode2b, decLdSt, offOf, offClean, spAddrOf, spClean, decSp, decSpB, decAtomic, sc4, subF, waveOf, getOr, req, bitAt, fin8, fin16, fin64, Bind.bind, Except.bind, Pure.pure, Except.pure, pc, po, pv, p52, p53, p54, p55, psc, pl2, pg, pd_, ps1, ps2, pslo, pshi, pl, F0, F1, F2, F3, F4]

theorem Encoding.cresSp (d s1 s2 : Fin 16) (w : Wave) : Encoding.Statement (.cresSp d s1 s2 w) := by
  have b0 := Fin.isLt d
  have b1 := Fin.isLt s1
  have b2 := Fin.isLt s2
  have b3 := BitVec.isLt w.s
  have b4 := BitVec.isLt w.p
  have b5 := BitVec.isLt w.n
  refine Encoding.of_parts rfl ?_ ?_ ?_ ?_ ?_ ?_ ?_ fun hwf W low hlow P => ?_
  any_goals first | (simp only [enc_zero_mul, enc_add_zero, enc_zero_add, Wave.code]; omega) | omega
  try simp only [enc_zero_mul, enc_add_zero, enc_zero_add, Wave.code] at hlow
  have F : fld low 24 4 = 1 ∧ fld low 16 8 = w.s.toNat ∧ fld low 8 8 = w.p.toNat ∧ fld low 0 8 = w.n.toNat ∧ fld low 0 28 = 1 * 16777216 + w.s.toNat * 65536 + w.p.toNat * 256 + w.n.toNat := by
    simp only [fld]; omega
  clear hlow
  obtain ⟨pc, po, pv, p52, p53, p54, p55, psc, pl2, pg, pd_, ps1, ps2, pslo, pshi, plt, pl⟩ := P
  obtain ⟨F0, F1, F2, F3, F4⟩ := F
  simp [decodeNat, Instr.canonical, decode2, decode2b, decLdSt, offOf, offClean, spAddrOf, spClean, decSp, decSpB, decAtomic, sc4, subF, waveOf, getOr, req, bitAt, fin8, fin16, fin64, Bind.bind, Except.bind, Pure.pure, Except.pure, pc, po, pv, p52, p53, p54, p55, psc, pl2, pg, pd_, ps1, ps2, pslo, pshi, pl, F0, F1, F2, F3, F4]

theorem Encoding.ctag (d s1 : Fin 16) (w : Wave) : Encoding.Statement (.ctag d s1 w) := by
  have b0 := Fin.isLt d
  have b1 := Fin.isLt s1
  have b2 := BitVec.isLt w.s
  have b3 := BitVec.isLt w.p
  have b4 := BitVec.isLt w.n
  refine Encoding.of_parts rfl ?_ ?_ ?_ ?_ ?_ ?_ ?_ fun hwf W low hlow P => ?_
  any_goals first | (simp only [enc_zero_mul, enc_add_zero, enc_zero_add, Wave.code]; omega) | omega
  try simp only [enc_zero_mul, enc_add_zero, enc_zero_add, Wave.code] at hlow
  have F : fld low 24 4 = 0 ∧ fld low 16 8 = w.s.toNat ∧ fld low 8 8 = w.p.toNat ∧ fld low 0 8 = w.n.toNat ∧ fld low 0 28 = 0 * 16777216 + w.s.toNat * 65536 + w.p.toNat * 256 + w.n.toNat := by
    simp only [fld]; omega
  clear hlow
  obtain ⟨pc, po, pv, p52, p53, p54, p55, psc, pl2, pg, pd_, ps1, ps2, pslo, pshi, plt, pl⟩ := P
  obtain ⟨F0, F1, F2, F3, F4⟩ := F
  simp [decodeNat, Instr.canonical, decode2, decode2b, decLdSt, offOf, offClean, spAddrOf, spClean, decSp, decSpB, decAtomic, sc4, subF, waveOf, getOr, req, bitAt, fin8, fin16, fin64, Bind.bind, Except.bind, Pure.pure, Except.pure, pc, po, pv, p52, p53, p54, p55, psc, pl2, pg, pd_, ps1, ps2, pslo, pshi, pl, F0, F1, F2, F3, F4]

theorem Encoding.cpois (s1 s2 : Fin 16) (w : Wave) : Encoding.Statement (.cpois s1 s2 w) := by
  have b0 := Fin.isLt s1
  have b1 := Fin.isLt s2
  have b2 := BitVec.isLt w.s
  have b3 := BitVec.isLt w.p
  have b4 := BitVec.isLt w.n
  refine Encoding.of_parts rfl ?_ ?_ ?_ ?_ ?_ ?_ ?_ fun hwf W low hlow P => ?_
  any_goals first | (simp only [enc_zero_mul, enc_add_zero, enc_zero_add, Wave.code]; omega) | omega
  try simp only [enc_zero_mul, enc_add_zero, enc_zero_add, Wave.code] at hlow
  have F : fld low 24 4 = 0 ∧ fld low 16 8 = w.s.toNat ∧ fld low 8 8 = w.p.toNat ∧ fld low 0 8 = w.n.toNat ∧ fld low 0 28 = 0 * 16777216 + w.s.toNat * 65536 + w.p.toNat * 256 + w.n.toNat := by
    simp only [fld]; omega
  clear hlow
  obtain ⟨pc, po, pv, p52, p53, p54, p55, psc, pl2, pg, pd_, ps1, ps2, pslo, pshi, plt, pl⟩ := P
  obtain ⟨F0, F1, F2, F3, F4⟩ := F
  simp [decodeNat, Instr.canonical, decode2, decode2b, decLdSt, offOf, offClean, spAddrOf, spClean, decSp, decSpB, decAtomic, sc4, subF, waveOf, getOr, req, bitAt, fin8, fin16, fin64, Bind.bind, Except.bind, Pure.pure, Except.pure, pc, po, pv, p52, p53, p54, p55, psc, pl2, pg, pd_, ps1, ps2, pslo, pshi, pl, F0, F1, F2, F3, F4]

theorem Encoding.vadd (g : Grp) (rm : Rm) (sat : Bool) (f : Fmt) (tsc : BitVec 8) (d s1 s2 : Fin 16) : Encoding.Statement (.vadd g rm sat f tsc d s1 s2) :=
  Encoding.of_decV3 .vadd 0x00 (by decide) g rm sat f tsc d s1 s2 rfl (fun _ => rfl) rfl rfl

theorem Encoding.vsub (g : Grp) (rm : Rm) (sat : Bool) (f : Fmt) (tsc : BitVec 8) (d s1 s2 : Fin 16) : Encoding.Statement (.vsub g rm sat f tsc d s1 s2) :=
  Encoding.of_decV3 .vsub 0x01 (by decide) g rm sat f tsc d s1 s2 rfl (fun _ => rfl) rfl rfl

theorem Encoding.vmul (g : Grp) (rm : Rm) (sat : Bool) (f : Fmt) (tsc : BitVec 8) (d s1 s2 : Fin 16) : Encoding.Statement (.vmul g rm sat f tsc d s1 s2) :=
  Encoding.of_decV3 .vmul 0x02 (by decide) g rm sat f tsc d s1 s2 rfl (fun _ => rfl) rfl rfl

theorem Encoding.vfma (g : Grp) (rm : Rm) (sat : Bool) (f : Fmt) (tsc : BitVec 8) (d s1 s2 : Fin 16) : Encoding.Statement (.vfma g rm sat f tsc d s1 s2) :=
  Encoding.of_decV3 .vfma 0x03 (by decide) g rm sat f tsc d s1 s2 rfl (fun _ => rfl) rfl rfl

theorem Encoding.vmin (g : Grp) (rm : Rm) (sat : Bool) (f : Fmt) (tsc : BitVec 8) (d s1 s2 : Fin 16) : Encoding.Statement (.vmin g rm sat f tsc d s1 s2) :=
  Encoding.of_decV3 .vmin 0x04 (by decide) g rm sat f tsc d s1 s2 rfl (fun _ => rfl) rfl rfl

theorem Encoding.vmax (g : Grp) (rm : Rm) (sat : Bool) (f : Fmt) (tsc : BitVec 8) (d s1 s2 : Fin 16) : Encoding.Statement (.vmax g rm sat f tsc d s1 s2) :=
  Encoding.of_decV3 .vmax 0x05 (by decide) g rm sat f tsc d s1 s2 rfl (fun _ => rfl) rfl rfl

theorem Encoding.vabs (g : Grp) (rm : Rm) (sat : Bool) (f : Fmt) (tsc : BitVec 8) (d s1 : Fin 16) : Encoding.Statement (.vabs g rm sat f tsc d s1) :=
  Encoding.of_decV2a .vabs 0x06 (by decide) g rm sat f tsc d s1 rfl (fun _ => rfl) rfl rfl

theorem Encoding.vneg (g : Grp) (rm : Rm) (sat : Bool) (f : Fmt) (tsc : BitVec 8) (d s1 : Fin 16) : Encoding.Statement (.vneg g rm sat f tsc d s1) :=
  Encoding.of_decV2a .vneg 0x07 (by decide) g rm sat f tsc d s1 rfl (fun _ => rfl) rfl rfl

theorem Encoding.vand (g : Grp) (d s1 s2 : Fin 16) : Encoding.Statement (.vand g d s1 s2) :=
  Encoding.of_decVL .vand 0x08 (by decide) g d s1 s2 rfl (fun _ => rfl) rfl rfl

theorem Encoding.vor (g : Grp) (d s1 s2 : Fin 16) : Encoding.Statement (.vor g d s1 s2) :=
  Encoding.of_decVL .vor 0x09 (by decide) g d s1 s2 rfl (fun _ => rfl) rfl rfl

theorem Encoding.vxor (g : Grp) (d s1 s2 : Fin 16) : Encoding.Statement (.vxor g d s1 s2) :=
  Encoding.of_decVL .vxor 0x0A (by decide) g d s1 s2 rfl (fun _ => rfl) rfl rfl

theorem Encoding.vshl (g : Grp) (f : Fmt) (n : VAmount) (d s1 : Fin 16) : Encoding.Statement (.vshl g f n d s1) := by
  cases n with
  | imm x0 =>
    have b0 := vSp_lt d
    have b1 := vSp_lt s1
    have b2 := Grp.code_lt g
    have b3 := Fmt.code_lt f
    have b4 := Fin.isLt x0
    have b5 := Fin.isLt d
    have b6 := Fin.isLt s1
    refine Encoding.of_parts rfl ?_ ?_ ?_ ?_ ?_ ?_ ?_ fun hwf W low hlow P => ?_
    any_goals first | (simp only [enc_zero_mul, enc_add_zero, enc_zero_add]; omega) | omega
    try simp only [enc_zero_mul, enc_add_zero, enc_zero_add] at hlow
    simp [Instr.wellFormed, vecOk, noRound, VAmount.ok] at hwf
    have F : fld low 24 4 = 0 ∧ fld low 25 3 = 0 ∧ fld low 24 1 = 0 ∧ fld low 16 8 = f.code ∧ fld low 8 8 = x0.val ∧ fld low 8 6 = x0.val ∧ fld low 7 1 = 0 ∧ fld low 4 3 = 0 ∧ fld low 4 4 = 0 ∧ fld low 0 4 = 0 ∧ fld low 0 3 = 0 ∧ fld low 3 1 = 0 := by
      simp only [fld]; omega
    clear hlow
    obtain ⟨pc, po, pv, p52, p53, p54, p55, psc, pl2, pg, pd_, ps1, ps2, pslo, pshi, plt, pl⟩ := P
    obtain ⟨F0, F1, F2, F3, F4, F5, F6, F7, F8, F9, F10, F11⟩ := F
    simp [decodeNat, Instr.canonical, decode3, decode3b, tscF, vgrp, vecClean, pdClean, pdAt, fmtTsc, rmF, decV3, decV2, decVL, decVS, decVP, decVmovg, getOr, req, bitAt, fin8, fin16, fin64, Bind.bind, Except.bind, Pure.pure, Except.pure, pc, po, pv, p52, p53, p54, p55, psc, pl2, pg, pd_, ps1, ps2, pslo, pshi, pl, F0, F1, F2, F3, F4, F5, F6, F7, F8, F9, F10, F11, hwf]
  | lanes x0 =>
    have b0 := vSp_lt x0
    have b1 := vSp_lt d
    have b2 := vSp_lt s1
    have b3 := Grp.code_lt g
    have b4 := Fmt.code_lt f
    have b5 := Fin.isLt x0
    have b6 := Fin.isLt d
    have b7 := Fin.isLt s1
    refine Encoding.of_parts rfl ?_ ?_ ?_ ?_ ?_ ?_ ?_ fun hwf W low hlow P => ?_
    any_goals first | (simp only [enc_zero_mul, enc_add_zero, enc_zero_add]; omega) | omega
    try simp only [enc_zero_mul, enc_add_zero, enc_zero_add] at hlow
    simp [Instr.wellFormed, vecOk, noRound, VAmount.ok] at hwf
    have F : fld low 24 4 = 0 ∧ fld low 25 3 = 0 ∧ fld low 24 1 = 0 ∧ fld low 16 8 = f.code ∧ fld low 8 8 = 0 ∧ fld low 8 3 = 0 ∧ fld low 8 6 = 0 ∧ fld low 7 1 = 0 ∧ fld low 4 3 = 0 ∧ fld low 4 4 = 0 ∧ fld low 0 4 = 0 ∧ fld low 0 3 = 0 ∧ fld low 3 1 = 0 := by
      simp only [fld]; omega
    clear hlow
    obtain ⟨pc, po, pv, p52, p53, p54, p55, psc, pl2, pg, pd_, ps1, ps2, pslo, pshi, plt, pl⟩ := P
    obtain ⟨F0, F1, F2, F3, F4, F5, F6, F7, F8, F9, F10, F11, F12⟩ := F
    simp [decodeNat, Instr.canonical, decode3, decode3b, tscF, vgrp, vecClean, pdClean, pdAt, fmtTsc, rmF, decV3, decV2, decVL, decVS, decVP, decVmovg, getOr, req, bitAt, fin8, fin16, fin64, Bind.bind, Except.bind, Pure.pure, Except.pure, pc, po, pv, p52, p53, p54, p55, psc, pl2, pg, pd_, ps1, ps2, pslo, pshi, pl, F0, F1, F2, F3, F4, F5, F6, F7, F8, F9, F10, F11, F12, hwf]

theorem Encoding.vshrLsr (g : Grp) (f : Fmt) (n : VAmount) (d s1 : Fin 16) : Encoding.Statement (.vshrLsr g f n d s1) := by
  cases n with
  | imm x0 =>
    have b0 := vSp_lt d
    have b1 := vSp_lt s1
    have b2 := Grp.code_lt g
    have b3 := Fmt.code_lt f
    have b4 := Fin.isLt x0
    have b5 := Fin.isLt d
    have b6 := Fin.isLt s1
    refine Encoding.of_parts rfl ?_ ?_ ?_ ?_ ?_ ?_ ?_ fun hwf W low hlow P => ?_
    any_goals first | (simp only [enc_zero_mul, enc_add_zero, enc_zero_add]; omega) | omega
    try simp only [enc_zero_mul, enc_add_zero, enc_zero_add] at hlow
    simp [Instr.wellFormed, vecOk, noRound, VAmount.ok] at hwf
    have F : fld low 24 4 = 0 ∧ fld low 25 3 = 0 ∧ fld low 24 1 = 0 ∧ fld low 16 8 = f.code ∧ fld low 8 8 = x0.val ∧ fld low 8 6 = x0.val ∧ fld low 7 1 = 0 ∧ fld low 4 3 = 0 ∧ fld low 4 4 = 0 ∧ fld low 0 4 = 0 ∧ fld low 0 3 = 0 ∧ fld low 3 1 = 0 := by
      simp only [fld]; omega
    clear hlow
    obtain ⟨pc, po, pv, p52, p53, p54, p55, psc, pl2, pg, pd_, ps1, ps2, pslo, pshi, plt, pl⟩ := P
    obtain ⟨F0, F1, F2, F3, F4, F5, F6, F7, F8, F9, F10, F11⟩ := F
    simp [decodeNat, Instr.canonical, decode3, decode3b, tscF, vgrp, vecClean, pdClean, pdAt, fmtTsc, rmF, decV3, decV2, decVL, decVS, decVP, decVmovg, getOr, req, bitAt, fin8, fin16, fin64, Bind.bind, Except.bind, Pure.pure, Except.pure, pc, po, pv, p52, p53, p54, p55, psc, pl2, pg, pd_, ps1, ps2, pslo, pshi, pl, F0, F1, F2, F3, F4, F5, F6, F7, F8, F9, F10, F11, hwf]
  | lanes x0 =>
    have b0 := vSp_lt x0
    have b1 := vSp_lt d
    have b2 := vSp_lt s1
    have b3 := Grp.code_lt g
    have b4 := Fmt.code_lt f
    have b5 := Fin.isLt x0
    have b6 := Fin.isLt d
    have b7 := Fin.isLt s1
    refine Encoding.of_parts rfl ?_ ?_ ?_ ?_ ?_ ?_ ?_ fun hwf W low hlow P => ?_
    any_goals first | (simp only [enc_zero_mul, enc_add_zero, enc_zero_add]; omega) | omega
    try simp only [enc_zero_mul, enc_add_zero, enc_zero_add] at hlow
    simp [Instr.wellFormed, vecOk, noRound, VAmount.ok] at hwf
    have F : fld low 24 4 = 0 ∧ fld low 25 3 = 0 ∧ fld low 24 1 = 0 ∧ fld low 16 8 = f.code ∧ fld low 8 8 = 0 ∧ fld low 8 3 = 0 ∧ fld low 8 6 = 0 ∧ fld low 7 1 = 0 ∧ fld low 4 3 = 0 ∧ fld low 4 4 = 0 ∧ fld low 0 4 = 0 ∧ fld low 0 3 = 0 ∧ fld low 3 1 = 0 := by
      simp only [fld]; omega
    clear hlow
    obtain ⟨pc, po, pv, p52, p53, p54, p55, psc, pl2, pg, pd_, ps1, ps2, pslo, pshi, plt, pl⟩ := P
    obtain ⟨F0, F1, F2, F3, F4, F5, F6, F7, F8, F9, F10, F11, F12⟩ := F
    simp [decodeNat, Instr.canonical, decode3, decode3b, tscF, vgrp, vecClean, pdClean, pdAt, fmtTsc, rmF, decV3, decV2, decVL, decVS, decVP, decVmovg, getOr, req, bitAt, fin8, fin16, fin64, Bind.bind, Except.bind, Pure.pure, Except.pure, pc, po, pv, p52, p53, p54, p55, psc, pl2, pg, pd_, ps1, ps2, pslo, pshi, pl, F0, F1, F2, F3, F4, F5, F6, F7, F8, F9, F10, F11, F12, hwf]

theorem Encoding.vshrAsr (g : Grp) (f : Fmt) (n : VAmount) (d s1 : Fin 16) : Encoding.Statement (.vshrAsr g f n d s1) := by
  cases n with
  | imm x0 =>
    have b0 := vSp_lt d
    have b1 := vSp_lt s1
    have b2 := Grp.code_lt g
    have b3 := Fmt.code_lt f
    have b4 := Fin.isLt x0
    have b5 := Fin.isLt d
    have b6 := Fin.isLt s1
    refine Encoding.of_parts rfl ?_ ?_ ?_ ?_ ?_ ?_ ?_ fun hwf W low hlow P => ?_
    any_goals first | (simp only [enc_zero_mul, enc_add_zero, enc_zero_add]; omega) | omega
    try simp only [enc_zero_mul, enc_add_zero, enc_zero_add] at hlow
    simp [Instr.wellFormed, vecOk, noRound, VAmount.ok] at hwf
    have F : fld low 24 4 = 0 ∧ fld low 25 3 = 0 ∧ fld low 24 1 = 0 ∧ fld low 16 8 = f.code ∧ fld low 8 8 = x0.val ∧ fld low 8 6 = x0.val ∧ fld low 7 1 = 0 ∧ fld low 4 3 = 0 ∧ fld low 4 4 = 0 ∧ fld low 0 4 = 1 ∧ fld low 0 3 = 1 ∧ fld low 3 1 = 0 := by
      simp only [fld]; omega
    clear hlow
    obtain ⟨pc, po, pv, p52, p53, p54, p55, psc, pl2, pg, pd_, ps1, ps2, pslo, pshi, plt, pl⟩ := P
    obtain ⟨F0, F1, F2, F3, F4, F5, F6, F7, F8, F9, F10, F11⟩ := F
    simp [decodeNat, Instr.canonical, decode3, decode3b, tscF, vgrp, vecClean, pdClean, pdAt, fmtTsc, rmF, decV3, decV2, decVL, decVS, decVP, decVmovg, getOr, req, bitAt, fin8, fin16, fin64, Bind.bind, Except.bind, Pure.pure, Except.pure, pc, po, pv, p52, p53, p54, p55, psc, pl2, pg, pd_, ps1, ps2, pslo, pshi, pl, F0, F1, F2, F3, F4, F5, F6, F7, F8, F9, F10, F11, hwf]
  | lanes x0 =>
    have b0 := vSp_lt x0
    have b1 := vSp_lt d
    have b2 := vSp_lt s1
    have b3 := Grp.code_lt g
    have b4 := Fmt.code_lt f
    have b5 := Fin.isLt x0
    have b6 := Fin.isLt d
    have b7 := Fin.isLt s1
    refine Encoding.of_parts rfl ?_ ?_ ?_ ?_ ?_ ?_ ?_ fun hwf W low hlow P => ?_
    any_goals first | (simp only [enc_zero_mul, enc_add_zero, enc_zero_add]; omega) | omega
    try simp only [enc_zero_mul, enc_add_zero, enc_zero_add] at hlow
    simp [Instr.wellFormed, vecOk, noRound, VAmount.ok] at hwf
    have F : fld low 24 4 = 0 ∧ fld low 25 3 = 0 ∧ fld low 24 1 = 0 ∧ fld low 16 8 = f.code ∧ fld low 8 8 = 0 ∧ fld low 8 3 = 0 ∧ fld low 8 6 = 0 ∧ fld low 7 1 = 0 ∧ fld low 4 3 = 0 ∧ fld low 4 4 = 0 ∧ fld low 0 4 = 1 ∧ fld low 0 3 = 1 ∧ fld low 3 1 = 0 := by
      simp only [fld]; omega
    clear hlow
    obtain ⟨pc, po, pv, p52, p53, p54, p55, psc, pl2, pg, pd_, ps1, ps2, pslo, pshi, plt, pl⟩ := P
    obtain ⟨F0, F1, F2, F3, F4, F5, F6, F7, F8, F9, F10, F11, F12⟩ := F
    simp [decodeNat, Instr.canonical, decode3, decode3b, tscF, vgrp, vecClean, pdClean, pdAt, fmtTsc, rmF, decV3, decV2, decVL, decVS, decVP, decVmovg, getOr, req, bitAt, fin8, fin16, fin64, Bind.bind, Except.bind, Pure.pure, Except.pure, pc, po, pv, p52, p53, p54, p55, psc, pl2, pg, pd_, ps1, ps2, pslo, pshi, pl, F0, F1, F2, F3, F4, F5, F6, F7, F8, F9, F10, F11, F12, hwf]

theorem Encoding.vcmp (g : Grp) (c : Cond) (uns : Bool) (f : Fmt) (pd : PDst) (d s1 s2 : Fin 16) : Encoding.Statement (.vcmp g c uns f pd d s1 s2) := by
  cases pd with
  | none =>
    have b0 := vSp_lt d
    have b1 := vSp_lt s1
    have b2 := vSp_lt s2
    have b3 := Grp.code_lt g
    have b4 := Cond.code_lt c
    have b5 := Bool.toNat_lt uns
    have b6 := Fmt.code_lt f
    have b7 := Fin.isLt d
    have b8 := Fin.isLt s1
    have b9 := Fin.isLt s2
    refine Encoding.of_parts rfl ?_ ?_ ?_ ?_ ?_ ?_ ?_ fun hwf W low hlow P => ?_
    any_goals first | (simp only [enc_zero_mul, enc_add_zero, enc_zero_add, pdEnc]; omega) | omega
    try simp only [enc_zero_mul, enc_add_zero, enc_zero_add, pdEnc] at hlow
    simp [Instr.wellFormed, vecOk, noRound, VAmount.ok] at hwf
    have F : fld low 24 4 = 0 ∧ fld low 25 3 = 0 ∧ fld low 24 1 = 0 ∧ fld low 16 8 = f.code ∧ fld low 8 8 = 0 ∧ fld low 8 3 = 0 ∧ fld low 8 6 = 0 ∧ fld low 7 1 = 0 ∧ fld low 4 3 = 0 ∧ fld low 4 4 = 0 ∧ fld low 0 4 = uns.toNat * 8 + c.code ∧ fld low 0 3 = c.code ∧ fld low 3 1 = uns.toNat := by
      simp only [fld]; omega
    clear hlow
    obtain ⟨pc, po, pv, p52, p53, p54, p55, psc, pl2, pg, pd_, ps1, ps2, pslo, pshi, plt, pl⟩ := P
    obtain ⟨F0, F1, F2, F3, F4, F5, F6, F7, F8, F9, F10, F11, F12⟩ := F
    simp [decodeNat, Instr.canonical, decode3, decode3b, tscF, vgrp, vecClean, pdClean, pdAt, fmtTsc, rmF, decV3, decV2, decVL, decVS, decVP, decVmovg, getOr, req, bitAt, fin8, fin16, fin64, Bind.bind, Except.bind, Pure.pure, Except.pure, pc, po, pv, p52, p53, p54, p55, psc, pl2, pg, pd_, ps1, ps2, pslo, pshi, pl, F0, F1, F2, F3, F4, F5, F6, F7, F8, F9, F10, F11, F12, hwf]
  | some p0 =>
    have b0 := vSp_lt d
    have b1 := vSp_lt s1
    have b2 := vSp_lt s2
    have b3 := Grp.code_lt g
    have b4 := Cond.code_lt c
    have b5 := Bool.toNat_lt uns
    have b6 := Fmt.code_lt f
    have b7 := Fin.isLt p0
    have b8 := Fin.isLt d
    have b9 := Fin.isLt s1
    have b10 := Fin.isLt s2
    refine Encoding.of_parts rfl ?_ ?_ ?_ ?_ ?_ ?_ ?_ fun hwf W low hlow P => ?_
    any_goals first | (simp only [enc_zero_mul, enc_add_zero, enc_zero_add, pdEnc]; omega) | omega
    try simp only [enc_zero_mul, enc_add_zero, enc_zero_add, pdEnc] at hlow
    simp [Instr.wellFormed, vecOk, noRound, VAmount.ok] at hwf
    have F : fld low 24 4 = 0 ∧ fld low 25 3 = 0 ∧ fld low 24 1 = 0 ∧ fld low 16 8 = f.code ∧ fld low 8 8 = 0 ∧ fld low 8 3 = 0 ∧ fld low 8 6 = 0 ∧ fld low 7 1 = 1 ∧ fld low 4 3 = p0.val ∧ fld low 4 4 = 1 * 8 + p0.val ∧ fld low 0 4 = uns.toNat * 8 + c.code ∧ fld low 0 3 = c.code ∧ fld low 3 1 = uns.toNat := by
      simp only [fld]; omega
    clear hlow
    obtain ⟨pc, po, pv, p52, p53, p54, p55, psc, pl2, pg, pd_, ps1, ps2, pslo, pshi, plt, pl⟩ := P
    obtain ⟨F0, F1, F2, F3, F4, F5, F6, F7, F8, F9, F10, F11, F12⟩ := F
    simp [decodeNat, Instr.canonical, decode3, decode3b, tscF, vgrp, vecClean, pdClean, pdAt, fmtTsc, rmF, decV3, decV2, decVL, decVS, decVP, decVmovg, getOr, req, bitAt, fin8, fin16, fin64, Bind.bind, Except.bind, Pure.pure, Except.pure, pc, po, pv, p52, p53, p54, p55, psc, pl2, pg, pd_, ps1, ps2, pslo, pshi, pl, F0, F1, F2, F3, F4, F5, F6, F7, F8, F9, F10, F11, F12, hwf]

theorem Encoding.vsel (g : Grp) (f : Fmt) (d s1 s2 : Fin 16) : Encoding.Statement (.vsel g f d s1 s2) :=
  Encoding.of_decVP .vsel 0x0E (by decide) g f d s1 s2 rfl (fun _ => rfl) rfl rfl

theorem Encoding.vrcp (g : Grp) (rm : Rm) (sat : Bool) (f : Fmt) (tsc : BitVec 8) (d s1 : Fin 16) : Encoding.Statement (.vrcp g rm sat f tsc d s1) :=
  Encoding.of_decV2s .vrcp 0x0F (by decide) g rm sat f tsc d s1 rfl (fun _ => rfl) rfl rfl

theorem Encoding.vrsq (g : Grp) (rm : Rm) (sat : Bool) (f : Fmt) (tsc : BitVec 8) (d s1 : Fin 16) : Encoding.Statement (.vrsq g rm sat f tsc d s1) :=
  Encoding.of_decV2s .vrsq 0x10 (by decide) g rm sat f tsc d s1 rfl (fun _ => rfl) rfl rfl

theorem Encoding.vexp2 (g : Grp) (rm : Rm) (sat : Bool) (f : Fmt) (tsc : BitVec 8) (d s1 : Fin 16) : Encoding.Statement (.vexp2 g rm sat f tsc d s1) :=
  Encoding.of_decV2s .vexp2 0x11 (by decide) g rm sat f tsc d s1 rfl (fun _ => rfl) rfl rfl

theorem Encoding.vlog2 (g : Grp) (rm : Rm) (sat : Bool) (f : Fmt) (tsc : BitVec 8) (d s1 : Fin 16) : Encoding.Statement (.vlog2 g rm sat f tsc d s1) :=
  Encoding.of_decV2s .vlog2 0x12 (by decide) g rm sat f tsc d s1 rfl (fun _ => rfl) rfl rfl

theorem Encoding.vcvt (g : Grp) (rm : Rm) (sat : Bool) (f : Fmt) (tsc : BitVec 8) (part d s1 : Fin 16) : Encoding.Statement (.vcvt g rm sat f tsc part d s1) := by
  have b0 := vSp_lt part
  have b1 := vSp_lt d
  have b2 := vSp_lt s1
  have b3 := Grp.code_lt g
  have b4 := Rm.code_lt rm
  have b5 := Bool.toNat_lt sat
  have b6 := Fmt.code_lt f
  have b7 := BitVec.isLt tsc
  have b8 := Fin.isLt part
  have b9 := Fin.isLt d
  have b10 := Fin.isLt s1
  refine Encoding.of_parts rfl ?_ ?_ ?_ ?_ ?_ ?_ ?_ fun hwf W low hlow P => ?_
  any_goals first | (simp only [enc_zero_mul, enc_add_zero, enc_zero_add]; omega) | omega
  try simp only [enc_zero_mul, enc_add_zero, enc_zero_add] at hlow
  simp [Instr.wellFormed, vecOk, noRound, VAmount.ok] at hwf
  have F : fld low 24 4 = rm.code * 2 + sat.toNat ∧ fld low 25 3 = rm.code ∧ fld low 24 1 = sat.toNat ∧ fld low 16 8 = f.code ∧ fld low 8 8 = tsc.toNat ∧ fld low 7 1 = 0 ∧ fld low 4 3 = 0 ∧ fld low 4 4 = 0 ∧ fld low 0 4 = part.val := by
    simp only [fld]; omega
  clear hlow
  obtain ⟨pc, po, pv, p52, p53, p54, p55, psc, pl2, pg, pd_, ps1, ps2, pslo, pshi, plt, pl⟩ := P
  obtain ⟨F0, F1, F2, F3, F4, F5, F6, F7, F8⟩ := F
  simp [decodeNat, Instr.canonical, decode3, decode3b, tscF, vgrp, vecClean, pdClean, pdAt, fmtTsc, rmF, decV3, decV2, decVL, decVS, decVP, decVmovg, getOr, req, bitAt, fin8, fin16, fin64, Bind.bind, Except.bind, Pure.pure, Except.pure, pc, po, pv, p52, p53, p54, p55, psc, pl2, pg, pd_, ps1, ps2, pslo, pshi, pl, F0, F1, F2, F3, F4, F5, F6, F7, F8, hwf]

theorem Encoding.vqnt (g : Grp) (rm : Rm) (sat : Bool) (f : Fmt) (d s1 : Fin 16) : Encoding.Statement (.vqnt g rm sat f d s1) := by
  have b0 := vSp_lt d
  have b1 := vSp_lt s1
  have b2 := Grp.code_lt g
  have b3 := Rm.code_lt rm
  have b4 := Bool.toNat_lt sat
  have b5 := Fmt.code_lt f
  have b6 := Fin.isLt d
  have b7 := Fin.isLt s1
  refine Encoding.of_parts rfl ?_ ?_ ?_ ?_ ?_ ?_ ?_ fun hwf W low hlow P => ?_
  any_goals first | (simp only [enc_bv_zero, enc_zero_mul, enc_add_zero, enc_zero_add]; omega) | omega
  try simp only [enc_bv_zero, enc_zero_mul, enc_add_zero, enc_zero_add] at hlow
  simp [Instr.wellFormed, vecOk, noRound, VAmount.ok] at hwf
  have F : fld low 24 4 = rm.code * 2 + sat.toNat ∧ fld low 25 3 = rm.code ∧ fld low 24 1 = sat.toNat ∧ fld low 16 8 = f.code ∧ fld low 8 8 = 0 ∧ fld low 8 3 = 0 ∧ fld low 8 6 = 0 ∧ fld low 7 1 = 0 ∧ fld low 4 3 = 0 ∧ fld low 4 4 = 0 ∧ fld low 0 4 = 0 ∧ fld low 0 3 = 0 ∧ fld low 3 1 = 0 := by
    simp only [fld]; omega
  clear hlow
  obtain ⟨pc, po, pv, p52, p53, p54, p55, psc, pl2, pg, pd_, ps1, ps2, pslo, pshi, plt, pl⟩ := P
  obtain ⟨F0, F1, F2, F3, F4, F5, F6, F7, F8, F9, F10, F11, F12⟩ := F
  simp [decodeNat, Instr.canonical, decode3, decode3b, tscF, vgrp, vecClean, pdClean, pdAt, fmtTsc, rmF, decV3, decV2, decVL, decVS, decVP, decVmovg, getOr, req, bitAt, fin8, fin16, fin64, Bind.bind, Except.bind, Pure.pure, Except.pure, pc, po, pv, p52, p53, p54, p55, psc, pl2, pg, pd_, ps1, ps2, pslo, pshi, pl, F0, F1, F2, F3, F4, F5, F6, F7, F8, F9, F10, F11, F12, hwf]

theorem Encoding.vcbx (g : Grp) (part d s1 : Fin 16) : Encoding.Statement (.vcbx g part d s1) := by
  have b0 := vSp_lt part
  have b1 := vSp_lt d
  have b2 := vSp_lt s1
  have b3 := Grp.code_lt g
  have b4 := Fin.isLt part
  have b5 := Fin.isLt d
  have b6 := Fin.isLt s1
  refine Encoding.of_parts rfl ?_ ?_ ?_ ?_ ?_ ?_ ?_ fun hwf W low hlow P => ?_
  any_goals first | (simp only [enc_zero_mul, enc_add_zero, enc_zero_add]; omega) | omega
  try simp only [enc_zero_mul, enc_add_zero, enc_zero_add] at hlow
  simp [Instr.wellFormed, vecOk, noRound, VAmount.ok] at hwf
  have F : fld low 24 4 = 0 ∧ fld low 25 3 = 0 ∧ fld low 24 1 = 0 ∧ fld low 16 8 = 2 ∧ fld low 8 8 = 0 ∧ fld low 8 3 = 0 ∧ fld low 8 6 = 0 ∧ fld low 7 1 = 0 ∧ fld low 4 3 = 0 ∧ fld low 4 4 = 0 ∧ fld low 0 4 = part.val := by
    simp only [fld]; omega
  clear hlow
  obtain ⟨pc, po, pv, p52, p53, p54, p55, psc, pl2, pg, pd_, ps1, ps2, pslo, pshi, plt, pl⟩ := P
  obtain ⟨F0, F1, F2, F3, F4, F5, F6, F7, F8, F9, F10⟩ := F
  simp [decodeNat, Instr.canonical, decode3, decode3b, tscF, vgrp, vecClean, pdClean, pdAt, fmtTsc, rmF, decV3, decV2, decVL, decVS, decVP, decVmovg, getOr, req, bitAt, fin8, fin16, fin64, Bind.bind, Except.bind, Pure.pure, Except.pure, pc, po, pv, p52, p53, p54, p55, psc, pl2, pg, pd_, ps1, ps2, pslo, pshi, pl, F0, F1, F2, F3, F4, F5, F6, F7, F8, F9, F10, hwf]

theorem Encoding.vred (op : RedOp) (g : Grp) (rm : Rm) (sat : Bool) (f : Fmt) (tsc : BitVec 8) (pd : PDst) (d s1 : Fin 16) : Encoding.Statement (.vred op g rm sat f tsc pd d s1) := by
  cases pd with
  | none =>
    have b0 := vSp_lt d
    have b1 := vSp_lt s1
    have b2 := RedOp.code_lt op
    have b3 := Grp.code_lt g
    have b4 := Rm.code_lt rm
    have b5 := Bool.toNat_lt sat
    have b6 := Fmt.code_lt f
    have b7 := BitVec.isLt tsc
    have b8 := Fin.isLt d
    have b9 := Fin.isLt s1
    refine Encoding.of_parts rfl ?_ ?_ ?_ ?_ ?_ ?_ ?_ fun hwf W low hlow P => ?_
    any_goals first | (simp only [enc_zero_mul, enc_add_zero, enc_zero_add, pdEnc]; omega) | omega
    try simp only [enc_zero_mul, enc_add_zero, enc_zero_add, pdEnc] at hlow
    simp [Instr.wellFormed, vecOk, noRound, VAmount.ok] at hwf
    have F : fld low 24 4 = rm.code * 2 + sat.toNat ∧ fld low 25 3 = rm.code ∧ fld low 24 1 = sat.toNat ∧ fld low 16 8 = f.code ∧ fld low 8 8 = tsc.toNat ∧ fld low 7 1 = 0 ∧ fld low 4 3 = 0 ∧ fld low 4 4 = 0 ∧ fld low 0 4 = op.code := by
      simp only [fld]; omega
    clear hlow
    obtain ⟨pc, po, pv, p52, p53, p54, p55, psc, pl2, pg, pd_, ps1, ps2, pslo, pshi, plt, pl⟩ := P
    obtain ⟨F0, F1, F2, F3, F4, F5, F6, F7, F8⟩ := F
    simp [decodeNat, Instr.canonical, decode3, decode3b, tscF, vgrp, vecClean, pdClean, pdAt, fmtTsc, rmF, decV3, decV2, decVL, decVS, decVP, decVmovg, getOr, req, bitAt, fin8, fin16, fin64, Bind.bind, Except.bind, Pure.pure, Except.pure, pc, po, pv, p52, p53, p54, p55, psc, pl2, pg, pd_, ps1, ps2, pslo, pshi, pl, F0, F1, F2, F3, F4, F5, F6, F7, F8, hwf]
  | some p0 =>
    have b0 := vSp_lt d
    have b1 := vSp_lt s1
    have b2 := RedOp.code_lt op
    have b3 := Grp.code_lt g
    have b4 := Rm.code_lt rm
    have b5 := Bool.toNat_lt sat
    have b6 := Fmt.code_lt f
    have b7 := BitVec.isLt tsc
    have b8 := Fin.isLt p0
    have b9 := Fin.isLt d
    have b10 := Fin.isLt s1
    refine Encoding.of_parts rfl ?_ ?_ ?_ ?_ ?_ ?_ ?_ fun hwf W low hlow P => ?_
    any_goals first | (simp only [enc_zero_mul, enc_add_zero, enc_zero_add, pdEnc]; omega) | omega
    try simp only [enc_zero_mul, enc_add_zero, enc_zero_add, pdEnc] at hlow
    simp [Instr.wellFormed, vecOk, noRound, VAmount.ok] at hwf
    have F : fld low 24 4 = rm.code * 2 + sat.toNat ∧ fld low 25 3 = rm.code ∧ fld low 24 1 = sat.toNat ∧ fld low 16 8 = f.code ∧ fld low 8 8 = tsc.toNat ∧ fld low 7 1 = 1 ∧ fld low 4 3 = p0.val ∧ fld low 4 4 = 1 * 8 + p0.val ∧ fld low 0 4 = op.code := by
      simp only [fld]; omega
    clear hlow
    obtain ⟨pc, po, pv, p52, p53, p54, p55, psc, pl2, pg, pd_, ps1, ps2, pslo, pshi, plt, pl⟩ := P
    obtain ⟨F0, F1, F2, F3, F4, F5, F6, F7, F8⟩ := F
    simp [decodeNat, Instr.canonical, decode3, decode3b, tscF, vgrp, vecClean, pdClean, pdAt, fmtTsc, rmF, decV3, decV2, decVL, decVS, decVP, decVmovg, getOr, req, bitAt, fin8, fin16, fin64, Bind.bind, Except.bind, Pure.pure, Except.pure, pc, po, pv, p52, p53, p54, p55, psc, pl2, pg, pd_, ps1, ps2, pslo, pshi, pl, F0, F1, F2, F3, F4, F5, F6, F7, F8, hwf]

theorem Encoding.vscan (op : ScanOp) (g : Grp) (rm : Rm) (sat : Bool) (f : Fmt) (tsc : BitVec 8) (d s1 : Fin 16) : Encoding.Statement (.vscan op g rm sat f tsc d s1) := by
  have b0 := vSp_lt d
  have b1 := vSp_lt s1
  have b2 := ScanOp.code_lt op
  have b3 := Grp.code_lt g
  have b4 := Rm.code_lt rm
  have b5 := Bool.toNat_lt sat
  have b6 := Fmt.code_lt f
  have b7 := BitVec.isLt tsc
  have b8 := Fin.isLt d
  have b9 := Fin.isLt s1
  refine Encoding.of_parts rfl ?_ ?_ ?_ ?_ ?_ ?_ ?_ fun hwf W low hlow P => ?_
  any_goals first | (simp only [enc_zero_mul, enc_add_zero, enc_zero_add]; omega) | omega
  try simp only [enc_zero_mul, enc_add_zero, enc_zero_add] at hlow
  simp [Instr.wellFormed, vecOk, noRound, VAmount.ok] at hwf
  have F : fld low 24 4 = rm.code * 2 + sat.toNat ∧ fld low 25 3 = rm.code ∧ fld low 24 1 = sat.toNat ∧ fld low 16 8 = f.code ∧ fld low 8 8 = tsc.toNat ∧ fld low 7 1 = 0 ∧ fld low 4 3 = 0 ∧ fld low 4 4 = 0 ∧ fld low 0 4 = op.code := by
    simp only [fld]; omega
  clear hlow
  obtain ⟨pc, po, pv, p52, p53, p54, p55, psc, pl2, pg, pd_, ps1, ps2, pslo, pshi, plt, pl⟩ := P
  obtain ⟨F0, F1, F2, F3, F4, F5, F6, F7, F8⟩ := F
  simp [decodeNat, Instr.canonical, decode3, decode3b, tscF, vgrp, vecClean, pdClean, pdAt, fmtTsc, rmF, decV3, decV2, decVL, decVS, decVP, decVmovg, getOr, req, bitAt, fin8, fin16, fin64, Bind.bind, Except.bind, Pure.pure, Except.pure, pc, po, pv, p52, p53, p54, p55, psc, pl2, pg, pd_, ps1, ps2, pslo, pshi, pl, F0, F1, F2, F3, F4, F5, F6, F7, F8, hwf]

theorem Encoding.vperm (g : Grp) (f : Fmt) (d s1 s2 : Fin 16) : Encoding.Statement (.vperm g f d s1 s2) :=
  Encoding.of_decVP .vperm 0x18 (by decide) g f d s1 s2 rfl (fun _ => rfl) rfl rfl

theorem Encoding.vbcast (g : Grp) (f : Fmt) (tsc : BitVec 8) (d s1 : Fin 16) : Encoding.Statement (.vbcast g f tsc d s1) := by
  have b0 := vSp_lt d
  have b1 := vSp_lt s1
  have b2 := Grp.code_lt g
  have b3 := Fmt.code_lt f
  have b4 := BitVec.isLt tsc
  have b5 := Fin.isLt d
  have b6 := Fin.isLt s1
  refine Encoding.of_parts rfl ?_ ?_ ?_ ?_ ?_ ?_ ?_ fun hwf W low hlow P => ?_
  any_goals first | (simp only [enc_zero_mul, enc_add_zero, enc_zero_add]; omega) | omega
  try simp only [enc_zero_mul, enc_add_zero, enc_zero_add] at hlow
  simp [Instr.wellFormed, vecOk, noRound, VAmount.ok] at hwf
  have F : fld low 24 4 = 0 ∧ fld low 25 3 = 0 ∧ fld low 24 1 = 0 ∧ fld low 16 8 = f.code ∧ fld low 8 8 = tsc.toNat ∧ fld low 7 1 = 0 ∧ fld low 4 3 = 0 ∧ fld low 4 4 = 0 ∧ fld low 0 4 = 0 ∧ fld low 0 3 = 0 ∧ fld low 3 1 = 0 := by
    simp only [fld]; omega
  clear hlow
  obtain ⟨pc, po, pv, p52, p53, p54, p55, psc, pl2, pg, pd_, ps1, ps2, pslo, pshi, plt, pl⟩ := P
  obtain ⟨F0, F1, F2, F3, F4, F5, F6, F7, F8, F9, F10⟩ := F
  simp [decodeNat, Instr.canonical, decode3, decode3b, tscF, vgrp, vecClean, pdClean, pdAt, fmtTsc, rmF, decV3, decV2, decVL, decVS, decVP, decVmovg, getOr, req, bitAt, fin8, fin16, fin64, Bind.bind, Except.bind, Pure.pure, Except.pure, pc, po, pv, p52, p53, p54, p55, psc, pl2, pg, pd_, ps1, ps2, pslo, pshi, pl, F0, F1, F2, F3, F4, F5, F6, F7, F8, F9, F10, hwf]

theorem Encoding.vbcastLane (g : Grp) (f : Fmt) (lane : BitVec 8) (d s1 : Fin 16) : Encoding.Statement (.vbcastLane g f lane d s1) := by
  have b0 := vSp_lt d
  have b1 := vSp_lt s1
  have b2 := Grp.code_lt g
  have b3 := Fmt.code_lt f
  have b4 := BitVec.isLt lane
  have b5 := Fin.isLt d
  have b6 := Fin.isLt s1
  refine Encoding.of_parts rfl ?_ ?_ ?_ ?_ ?_ ?_ ?_ fun hwf W low hlow P => ?_
  any_goals first | (simp only [enc_zero_mul, enc_add_zero, enc_zero_add]; omega) | omega
  try simp only [enc_zero_mul, enc_add_zero, enc_zero_add] at hlow
  simp [Instr.wellFormed, vecOk, noRound, VAmount.ok] at hwf
  have F : fld low 24 4 = 0 ∧ fld low 25 3 = 0 ∧ fld low 24 1 = 0 ∧ fld low 16 8 = f.code ∧ fld low 8 8 = lane.toNat ∧ fld low 7 1 = 0 ∧ fld low 4 3 = 0 ∧ fld low 4 4 = 0 ∧ fld low 0 4 = 1 := by
    simp only [fld]; omega
  clear hlow
  obtain ⟨pc, po, pv, p52, p53, p54, p55, psc, pl2, pg, pd_, ps1, ps2, pslo, pshi, plt, pl⟩ := P
  obtain ⟨F0, F1, F2, F3, F4, F5, F6, F7, F8⟩ := F
  simp [decodeNat, Instr.canonical, decode3, decode3b, tscF, vgrp, vecClean, pdClean, pdAt, fmtTsc, rmF, decV3, decV2, decVL, decVS, decVP, decVmovg, getOr, req, bitAt, fin8, fin16, fin64, Bind.bind, Except.bind, Pure.pure, Except.pure, pc, po, pv, p52, p53, p54, p55, psc, pl2, pg, pd_, ps1, ps2, pslo, pshi, pl, F0, F1, F2, F3, F4, F5, F6, F7, F8, hwf]

theorem Encoding.viota (g : Grp) (f : Fmt) (tsc : BitVec 8) (d s1 : Fin 16) : Encoding.Statement (.viota g f tsc d s1) := by
  have b0 := vSp_lt d
  have b1 := vSp_lt s1
  have b2 := Grp.code_lt g
  have b3 := Fmt.code_lt f
  have b4 := BitVec.isLt tsc
  have b5 := Fin.isLt d
  have b6 := Fin.isLt s1
  refine Encoding.of_parts rfl ?_ ?_ ?_ ?_ ?_ ?_ ?_ fun hwf W low hlow P => ?_
  any_goals first | (simp only [enc_zero_mul, enc_add_zero, enc_zero_add]; omega) | omega
  try simp only [enc_zero_mul, enc_add_zero, enc_zero_add] at hlow
  simp [Instr.wellFormed, vecOk, noRound, VAmount.ok] at hwf
  have F : fld low 24 4 = 0 ∧ fld low 25 3 = 0 ∧ fld low 24 1 = 0 ∧ fld low 16 8 = f.code ∧ fld low 8 8 = tsc.toNat ∧ fld low 7 1 = 0 ∧ fld low 4 3 = 0 ∧ fld low 4 4 = 0 ∧ fld low 0 4 = 0 ∧ fld low 0 3 = 0 ∧ fld low 3 1 = 0 := by
    simp only [fld]; omega
  clear hlow
  obtain ⟨pc, po, pv, p52, p53, p54, p55, psc, pl2, pg, pd_, ps1, ps2, pslo, pshi, plt, pl⟩ := P
  obtain ⟨F0, F1, F2, F3, F4, F5, F6, F7, F8, F9, F10⟩ := F
  simp [decodeNat, Instr.canonical, decode3, decode3b, tscF, vgrp, vecClean, pdClean, pdAt, fmtTsc, rmF, decV3, decV2, decVL, decVS, decVP, decVmovg, getOr, req, bitAt, fin8, fin16, fin64, Bind.bind, Except.bind, Pure.pure, Except.pure, pc, po, pv, p52, p53, p54, p55, psc, pl2, pg, pd_, ps1, ps2, pslo, pshi, pl, F0, F1, F2, F3, F4, F5, F6, F7, F8, F9, F10, hwf]

theorem Encoding.vmovg (l : Fin 8) (d s1 : Fin 16) : Encoding.Statement (.vmovg l d s1) := by
  have b0 := vSp_lt d
  have b1 := vSp_lt s1
  have b2 := Fin.isLt l
  have b3 := Fin.isLt d
  have b4 := Fin.isLt s1
  refine Encoding.of_parts rfl ?_ ?_ ?_ ?_ ?_ ?_ ?_ fun hwf W low hlow P => ?_
  any_goals first | (simp only [Grp.code_one, enc_zero_mul, enc_add_zero, enc_zero_add]; omega) | omega
  try simp only [Grp.code_one, enc_zero_mul, enc_add_zero, enc_zero_add] at hlow
  have F : fld low 24 4 = 0 ∧ fld low 25 3 = 0 ∧ fld low 24 1 = 0 ∧ fld low 16 8 = 0 ∧ fld low 8 8 = l.val ∧ fld low 8 3 = l.val ∧ fld low 8 6 = l.val ∧ fld low 7 1 = 0 ∧ fld low 4 3 = 0 ∧ fld low 4 4 = 0 ∧ fld low 0 4 = 0 ∧ fld low 0 3 = 0 ∧ fld low 3 1 = 0 := by
    simp only [fld]; omega
  clear hlow
  obtain ⟨pc, po, pv, p52, p53, p54, p55, psc, pl2, pg, pd_, ps1, ps2, pslo, pshi, plt, pl⟩ := P
  obtain ⟨F0, F1, F2, F3, F4, F5, F6, F7, F8, F9, F10, F11, F12⟩ := F
  simp [decodeNat, Instr.canonical, decode3, decode3b, tscF, vgrp, vecClean, pdClean, pdAt, fmtTsc, rmF, decV3, decV2, decVL, decVS, decVP, decVmovg, getOr, req, bitAt, fin8, fin16, fin64, Bind.bind, Except.bind, Pure.pure, Except.pure, pc, po, pv, p52, p53, p54, p55, psc, pl2, pg, pd_, ps1, ps2, pslo, pshi, pl, F0, F1, F2, F3, F4, F5, F6, F7, F8, F9, F10, F11, F12]

theorem Encoding.vmovgIns (l : Fin 8) (d s1 : Fin 16) : Encoding.Statement (.vmovgIns l d s1) := by
  have b0 := vSp_lt d
  have b1 := vSp_lt s1
  have b2 := Fin.isLt l
  have b3 := Fin.isLt d
  have b4 := Fin.isLt s1
  refine Encoding.of_parts rfl ?_ ?_ ?_ ?_ ?_ ?_ ?_ fun hwf W low hlow P => ?_
  any_goals first | (simp only [Grp.code_one, enc_zero_mul, enc_add_zero, enc_zero_add]; omega) | omega
  try simp only [Grp.code_one, enc_zero_mul, enc_add_zero, enc_zero_add] at hlow
  have F : fld low 24 4 = 0 ∧ fld low 25 3 = 0 ∧ fld low 24 1 = 0 ∧ fld low 16 8 = 0 ∧ fld low 8 8 = l.val ∧ fld low 8 3 = l.val ∧ fld low 8 6 = l.val ∧ fld low 7 1 = 0 ∧ fld low 4 3 = 0 ∧ fld low 4 4 = 0 ∧ fld low 0 4 = 1 := by
    simp only [fld]; omega
  clear hlow
  obtain ⟨pc, po, pv, p52, p53, p54, p55, psc, pl2, pg, pd_, ps1, ps2, pslo, pshi, plt, pl⟩ := P
  obtain ⟨F0, F1, F2, F3, F4, F5, F6, F7, F8, F9, F10⟩ := F
  simp [decodeNat, Instr.canonical, decode3, decode3b, tscF, vgrp, vecClean, pdClean, pdAt, fmtTsc, rmF, decV3, decV2, decVL, decVS, decVP, decVmovg, getOr, req, bitAt, fin8, fin16, fin64, Bind.bind, Except.bind, Pure.pure, Except.pure, pc, po, pv, p52, p53, p54, p55, psc, pl2, pg, pd_, ps1, ps2, pslo, pshi, pl, F0, F1, F2, F3, F4, F5, F6, F7, F8, F9, F10]

theorem Encoding.vmovgCp (g : Grp) (d s1 : Fin 16) : Encoding.Statement (.vmovgCp g d s1) := by
  have b0 := vSp_lt d
  have b1 := vSp_lt s1
  have b2 := Grp.code_lt g
  have b3 := Fin.isLt d
  have b4 := Fin.isLt s1
  refine Encoding.of_parts rfl ?_ ?_ ?_ ?_ ?_ ?_ ?_ fun hwf W low hlow P => ?_
  any_goals first | (simp only [enc_zero_mul, enc_add_zero, enc_zero_add]; omega) | omega
  try simp only [enc_zero_mul, enc_add_zero, enc_zero_add] at hlow
  simp [Instr.wellFormed, vecOk, noRound, VAmount.ok] at hwf
  have F : fld low 24 4 = 0 ∧ fld low 25 3 = 0 ∧ fld low 24 1 = 0 ∧ fld low 16 8 = 0 ∧ fld low 8 8 = 0 ∧ fld low 8 3 = 0 ∧ fld low 8 6 = 0 ∧ fld low 7 1 = 0 ∧ fld low 4 3 = 0 ∧ fld low 4 4 = 0 ∧ fld low 0 4 = 2 := by
    simp only [fld]; omega
  clear hlow
  obtain ⟨pc, po, pv, p52, p53, p54, p55, psc, pl2, pg, pd_, ps1, ps2, pslo, pshi, plt, pl⟩ := P
  obtain ⟨F0, F1, F2, F3, F4, F5, F6, F7, F8, F9, F10⟩ := F
  simp [decodeNat, Instr.canonical, decode3, decode3b, tscF, vgrp, vecClean, pdClean, pdAt, fmtTsc, rmF, decV3, decV2, decVL, decVS, decVP, decVmovg, getOr, req, bitAt, fin8, fin16, fin64, Bind.bind, Except.bind, Pure.pure, Except.pure, pc, po, pv, p52, p53, p54, p55, psc, pl2, pg, pd_, ps1, ps2, pslo, pshi, pl, F0, F1, F2, F3, F4, F5, F6, F7, F8, F9, F10, hwf]

theorem Encoding.vmovgPair (d s1 : Fin 16) : Encoding.Statement (.vmovgPair d s1) := by
  have b0 := vSp_lt d
  have b1 := vSp_lt s1
  have b2 := Fin.isLt d
  have b3 := Fin.isLt s1
  refine Encoding.of_parts rfl ?_ ?_ ?_ ?_ ?_ ?_ ?_ fun hwf W low hlow P => ?_
  any_goals first | (simp only [Grp.code_one, enc_zero_mul, enc_add_zero, enc_zero_add]; omega) | omega
  try simp only [Grp.code_one, enc_zero_mul, enc_add_zero, enc_zero_add] at hlow
  have F : fld low 24 4 = 0 ∧ fld low 25 3 = 0 ∧ fld low 24 1 = 0 ∧ fld low 16 8 = 0 ∧ fld low 8 8 = 0 ∧ fld low 8 3 = 0 ∧ fld low 8 6 = 0 ∧ fld low 7 1 = 0 ∧ fld low 4 3 = 0 ∧ fld low 4 4 = 0 ∧ fld low 0 4 = 3 := by
    simp only [fld]; omega
  clear hlow
  obtain ⟨pc, po, pv, p52, p53, p54, p55, psc, pl2, pg, pd_, ps1, ps2, pslo, pshi, plt, pl⟩ := P
  obtain ⟨F0, F1, F2, F3, F4, F5, F6, F7, F8, F9, F10⟩ := F
  simp [decodeNat, Instr.canonical, decode3, decode3b, tscF, vgrp, vecClean, pdClean, pdAt, fmtTsc, rmF, decV3, decV2, decVL, decVS, decVP, decVmovg, getOr, req, bitAt, fin8, fin16, fin64, Bind.bind, Except.bind, Pure.pure, Except.pure, pc, po, pv, p52, p53, p54, p55, psc, pl2, pg, pd_, ps1, ps2, pslo, pshi, pl, F0, F1, F2, F3, F4, F5, F6, F7, F8, F9, F10]

theorem Encoding.mld (f : Fmt) (d sp : Fin 8) (gx : Fin 16) : Encoding.Statement (.mld f d sp gx) := by
  have b0 := mSp_lt d
  have b1 := spSp_lt d
  have b2 := mSp_lt sp
  have b3 := spSp_lt sp
  have b4 := Fmt.code_lt f
  have b5 := Fin.isLt d
  have b6 := Fin.isLt sp
  have b7 := Fin.isLt gx
  refine Encoding.of_parts rfl ?_ ?_ ?_ ?_ ?_ ?_ ?_ fun hwf W low hlow P => ?_
  any_goals first | (simp only [enc_zero_mul, enc_add_zero, enc_zero_add]; omega) | omega
  try simp only [enc_zero_mul, enc_add_zero, enc_zero_add] at hlow
  have F : fld low 24 4 = 0 ∧ fld low 25 3 = 0 ∧ fld low 24 1 = 0 ∧ fld low 16 8 = f.code ∧ fld low 12 4 = gx.val ∧ fld low 0 12 = 0 ∧ fld low 16 12 = f.code ∧ fld low 12 12 = f.code * 16 + gx.val := by
    simp only [fld]; omega
  clear hlow
  obtain ⟨pc, po, pv, p52, p53, p54, p55, psc, pl2, pg, pd_, ps1, ps2, pslo, pshi, plt, pl⟩ := P
  obtain ⟨F0, F1, F2, F3, F4, F5, F6, F7⟩ := F
  simp [decodeNat, Instr.canonical, decode4, decode4b, matClean, decMma, decFac, rmF, getOr, req, bitAt, fin8, fin16, fin64, Bind.bind, Except.bind, Pure.pure, Except.pure, pc, po, pv, p52, p53, p54, p55, psc, pl2, pg, pd_, ps1, ps2, pslo, pshi, pl, F0, F1, F2, F3, F4, F5, F6, F7]

theorem Encoding.mldQueue (d q : Fin 8) (gx : Fin 16) : Encoding.Statement (.mldQueue d q gx) := by
  have b0 := mSp_lt d
  have b1 := iqSp_lt d
  have b2 := mSp_lt q
  have b3 := iqSp_lt q
  have b4 := Fin.isLt d
  have b5 := Fin.isLt q
  have b6 := Fin.isLt gx
  refine Encoding.of_parts rfl ?_ ?_ ?_ ?_ ?_ ?_ ?_ fun hwf W low hlow P => ?_
  any_goals first | (simp only [enc_zero_mul, enc_add_zero, enc_zero_add]; omega) | omega
  try simp only [enc_zero_mul, enc_add_zero, enc_zero_add] at hlow
  have F : fld low 24 4 = 0 ∧ fld low 25 3 = 0 ∧ fld low 24 1 = 0 ∧ fld low 16 8 = 0 ∧ fld low 12 4 = gx.val ∧ fld low 0 12 = 0 ∧ fld low 16 12 = 0 ∧ fld low 12 12 = gx.val := by
    simp only [fld]; omega
  clear hlow
  obtain ⟨pc, po, pv, p52, p53, p54, p55, psc, pl2, pg, pd_, ps1, ps2, pslo, pshi, plt, pl⟩ := P
  obtain ⟨F0, F1, F2, F3, F4, F5, F6, F7⟩ := F
  simp [decodeNat, Instr.canonical, decode4, decode4b, matClean, decMma, decFac, rmF, getOr, req, bitAt, fin8, fin16, fin64, Bind.bind, Except.bind, Pure.pure, Except.pure, pc, po, pv, p52, p53, p54, p55, psc, pl2, pg, pd_, ps1, ps2, pslo, pshi, pl, F0, F1, F2, F3, F4, F5, F6, F7]

theorem Encoding.mldt (f : Fmt) (d sp : Fin 8) (gx : Fin 16) : Encoding.Statement (.mldt f d sp gx) := by
  have b0 := mSp_lt d
  have b1 := spSp_lt d
  have b2 := mSp_lt sp
  have b3 := spSp_lt sp
  have b4 := Fmt.code_lt f
  have b5 := Fin.isLt d
  have b6 := Fin.isLt sp
  have b7 := Fin.isLt gx
  refine Encoding.of_parts rfl ?_ ?_ ?_ ?_ ?_ ?_ ?_ fun hwf W low hlow P => ?_
  any_goals first | (simp only [enc_zero_mul, enc_add_zero, enc_zero_add]; omega) | omega
  try simp only [enc_zero_mul, enc_add_zero, enc_zero_add] at hlow
  simp [Instr.wellFormed, vecOk, noRound, VAmount.ok] at hwf
  have F : fld low 24 4 = 0 ∧ fld low 25 3 = 0 ∧ fld low 24 1 = 0 ∧ fld low 16 8 = f.code ∧ fld low 12 4 = gx.val ∧ fld low 0 12 = 0 ∧ fld low 16 12 = f.code ∧ fld low 12 12 = f.code * 16 + gx.val := by
    simp only [fld]; omega
  clear hlow
  obtain ⟨pc, po, pv, p52, p53, p54, p55, psc, pl2, pg, pd_, ps1, ps2, pslo, pshi, plt, pl⟩ := P
  obtain ⟨F0, F1, F2, F3, F4, F5, F6, F7⟩ := F
  simp [decodeNat, Instr.canonical, decode4, decode4b, matClean, decMma, decFac, rmF, getOr, req, bitAt, fin8, fin16, fin64, Bind.bind, Except.bind, Pure.pure, Except.pure, pc, po, pv, p52, p53, p54, p55, psc, pl2, pg, pd_, ps1, ps2, pslo, pshi, pl, F0, F1, F2, F3, F4, F5, F6, F7, hwf]

theorem Encoding.mst (f : Fmt) (rm : Rm) (sat : Bool) (sp : Fin 8) (src : MstSrc) (gx : Fin 16) : Encoding.Statement (.mst f rm sat sp src gx) := by
  cases src with
  | m x0 =>
    have b0 := mSp_lt sp
    have b1 := spSp_lt sp
    have b2 := mSp_lt x0
    have b3 := spSp_lt x0
    have b4 := Fmt.code_lt f
    have b5 := Rm.code_lt rm
    have b6 := Bool.toNat_lt sat
    have b7 := Fin.isLt sp
    have b8 := Fin.isLt x0
    have b9 := Fin.isLt gx
    refine Encoding.of_parts rfl ?_ ?_ ?_ ?_ ?_ ?_ ?_ fun hwf W low hlow P => ?_
    any_goals first | (simp only [enc_false, Rm.code_rn, Fmt.code_raw, enc_zero_mul, enc_add_zero, enc_zero_add]; omega) | omega
    try simp only [enc_false, Rm.code_rn, Fmt.code_raw, enc_zero_mul, enc_add_zero, enc_zero_add] at hlow
    simp [Instr.wellFormed, vecOk, noRound, VAmount.ok] at hwf
    obtain ⟨rfl, rfl, rfl⟩ := hwf
    simp only [enc_false, Rm.code_rn, Fmt.code_raw, enc_zero_mul, enc_add_zero, enc_zero_add] at hlow
    have F : fld low 24 4 = 0 ∧ fld low 25 3 = 0 ∧ fld low 24 1 = 0 ∧ fld low 16 8 = 0 ∧ fld low 12 4 = gx.val ∧ fld low 0 12 = 0 ∧ fld low 16 12 = 0 ∧ fld low 12 12 = gx.val := by
      simp only [fld]; omega
    clear hlow
    obtain ⟨pc, po, pv, p52, p53, p54, p55, psc, pl2, pg, pd_, ps1, ps2, pslo, pshi, plt, pl⟩ := P
    obtain ⟨F0, F1, F2, F3, F4, F5, F6, F7⟩ := F
    simp [decodeNat, Instr.canonical, decode4, decode4b, matClean, decMma, decFac, rmF, getOr, req, bitAt, fin8, fin16, fin64, Bind.bind, Except.bind, Pure.pure, Except.pure, pc, po, pv, p52, p53, p54, p55, psc, pl2, pg, pd_, ps1, ps2, pslo, pshi, pl, F0, F1, F2, F3, F4, F5, F6, F7, Rm.code_rn, Fmt.code_raw]
  | a x0 =>
    have b0 := mSp_lt sp
    have b1 := spSp_lt sp
    have b2 := aSp_lt x0
    have b3 := Fmt.code_lt f
    have b4 := Rm.code_lt rm
    have b5 := Bool.toNat_lt sat
    have b6 := Fin.isLt sp
    have b7 := Fin.isLt x0
    have b8 := Fin.isLt gx
    refine Encoding.of_parts rfl ?_ ?_ ?_ ?_ ?_ ?_ ?_ fun hwf W low hlow P => ?_
    any_goals first | (simp only [enc_false, Rm.code_rn, Fmt.code_raw, enc_zero_mul, enc_add_zero, enc_zero_add]; omega) | omega
    try simp only [enc_false, Rm.code_rn, Fmt.code_raw, enc_zero_mul, enc_add_zero, enc_zero_add] at hlow
    simp [Instr.wellFormed, vecOk, noRound, VAmount.ok] at hwf
    have F : fld low 24 4 = rm.code * 2 + sat.toNat ∧ fld low 25 3 = rm.code ∧ fld low 24 1 = sat.toNat ∧ fld low 16 8 = f.code ∧ fld low 12 4 = gx.val ∧ fld low 0 12 = 0 ∧ fld low 16 12 = rm.code * 512 + sat.toNat * 256 + f.code ∧ fld low 12 12 = f.code * 16 + gx.val := by
      simp only [fld]; omega
    clear hlow
    obtain ⟨pc, po, pv, p52, p53, p54, p55, psc, pl2, pg, pd_, ps1, ps2, pslo, pshi, plt, pl⟩ := P
    obtain ⟨F0, F1, F2, F3, F4, F5, F6, F7⟩ := F
    simp [decodeNat, Instr.canonical, decode4, decode4b, matClean, decMma, decFac, rmF, getOr, req, bitAt, fin8, fin16, fin64, Bind.bind, Except.bind, Pure.pure, Except.pure, pc, po, pv, p52, p53, p54, p55, psc, pl2, pg, pd_, ps1, ps2, pslo, pshi, pl, F0, F1, F2, F3, F4, F5, F6, F7, hwf, Rm.code_rn, Fmt.code_raw]

theorem Encoding.mzero (d : MzDst) : Encoding.Statement (.mzero d) := by
  cases d with
  | m x0 =>
    have b0 := mSp_lt x0
    have b1 := Fin.isLt x0
    refine Encoding.of_parts rfl ?_ ?_ ?_ ?_ ?_ ?_ ?_ fun hwf W low hlow P => ?_
    any_goals first | (simp only [enc_zero_mul, enc_add_zero, enc_zero_add]; omega) | omega
    try simp only [enc_zero_mul, enc_add_zero, enc_zero_add] at hlow
    have F : fld low 24 4 = 0 ∧ fld low 25 3 = 0 ∧ fld low 24 1 = 0 ∧ fld low 16 8 = 0 ∧ fld low 12 4 = 0 ∧ fld low 0 12 = 0 ∧ fld low 16 12 = 0 ∧ fld low 12 12 = 0 := by
      simp only [fld]; omega
    clear hlow
    obtain ⟨pc, po, pv, p52, p53, p54, p55, psc, pl2, pg, pd_, ps1, ps2, pslo, pshi, plt, pl⟩ := P
    obtain ⟨F0, F1, F2, F3, F4, F5, F6, F7⟩ := F
    simp [decodeNat, Instr.canonical, decode4, decode4b, matClean, decMma, decFac, rmF, getOr, req, bitAt, fin8, fin16, fin64, Bind.bind, Except.bind, Pure.pure, Except.pure, pc, po, pv, p52, p53, p54, p55, psc, pl2, pg, pd_, ps1, ps2, pslo, pshi, pl, F0, F1, F2, F3, F4, F5, F6, F7]
  | a x0 =>
    have b0 := aSp_lt x0
    have b1 := pvSp_lt x0
    have b2 := Fin.isLt x0
    refine Encoding.of_parts rfl ?_ ?_ ?_ ?_ ?_ ?_ ?_ fun hwf W low hlow P => ?_
    any_goals first | (simp only [enc_zero_mul, enc_add_zero, enc_zero_add]; omega) | omega
    try simp only [enc_zero_mul, enc_add_zero, enc_zero_add] at hlow
    have F : fld low 24 4 = 0 ∧ fld low 25 3 = 0 ∧ fld low 24 1 = 0 ∧ fld low 16 8 = 0 ∧ fld low 12 4 = 0 ∧ fld low 0 12 = 0 ∧ fld low 16 12 = 0 ∧ fld low 12 12 = 0 := by
      simp only [fld]; omega
    clear hlow
    obtain ⟨pc, po, pv, p52, p53, p54, p55, psc, pl2, pg, pd_, ps1, ps2, pslo, pshi, plt, pl⟩ := P
    obtain ⟨F0, F1, F2, F3, F4, F5, F6, F7⟩ := F
    simp [decodeNat, Instr.canonical, decode4, decode4b, matClean, decMma, decFac, rmF, getOr, req, bitAt, fin8, fin16, fin64, Bind.bind, Except.bind, Pure.pure, Except.pure, pc, po, pv, p52, p53, p54, p55, psc, pl2, pg, pd_, ps1, ps2, pslo, pshi, pl, F0, F1, F2, F3, F4, F5, F6, F7]
  | pv x0 =>
    have b0 := aSp_lt x0
    have b1 := pvSp_lt x0
    have b2 := Fin.isLt x0
    refine Encoding.of_parts rfl ?_ ?_ ?_ ?_ ?_ ?_ ?_ fun hwf W low hlow P => ?_
    any_goals first | (simp only [enc_zero_mul, enc_add_zero, enc_zero_add]; omega) | omega
    try simp only [enc_zero_mul, enc_add_zero, enc_zero_add] at hlow
    have F : fld low 24 4 = 0 ∧ fld low 25 3 = 0 ∧ fld low 24 1 = 0 ∧ fld low 16 8 = 0 ∧ fld low 12 4 = 0 ∧ fld low 0 12 = 0 ∧ fld low 16 12 = 0 ∧ fld low 12 12 = 0 := by
      simp only [fld]; omega
    clear hlow
    obtain ⟨pc, po, pv, p52, p53, p54, p55, psc, pl2, pg, pd_, ps1, ps2, pslo, pshi, plt, pl⟩ := P
    obtain ⟨F0, F1, F2, F3, F4, F5, F6, F7⟩ := F
    simp [decodeNat, Instr.canonical, decode4, decode4b, matClean, decMma, decFac, rmF, getOr, req, bitAt, fin8, fin16, fin64, Bind.bind, Except.bind, Pure.pure, Except.pure, pc, po, pv, p52, p53, p54, p55, psc, pl2, pg, pd_, ps1, ps2, pslo, pshi, pl, F0, F1, F2, F3, F4, F5, F6, F7]

theorem Encoding.mma (fwd za : Bool) (f : Fmt) (d : Fin 4) (a b : MSrc) (gx : Fin 16) : Encoding.Statement (.mma fwd za f d a b gx) :=
  Encoding.of_decMma .mma 0x04 (by decide) fwd za f d a b gx rfl (fun _ => rfl) rfl rfl

theorem Encoding.mmat (fwd za : Bool) (f : Fmt) (d : Fin 4) (a b : MSrc) (gx : Fin 16) : Encoding.Statement (.mmat fwd za f d a b gx) :=
  Encoding.of_decMma .mmat 0x05 (by decide) fwd za f d a b gx rfl (fun _ => rfl) rfl rfl

theorem Encoding.macc (rm : Rm) (sat : Bool) (d s : Fin 4) : Encoding.Statement (.macc rm sat d s) := by
  have b0 := aSp_lt d
  have b1 := aSp_lt s
  have b2 := Rm.code_lt rm
  have b3 := Bool.toNat_lt sat
  have b4 := Fin.isLt d
  have b5 := Fin.isLt s
  refine Encoding.of_parts rfl ?_ ?_ ?_ ?_ ?_ ?_ ?_ fun hwf W low hlow P => ?_
  any_goals first | (simp only [enc_zero_mul, enc_add_zero, enc_zero_add]; omega) | omega
  try simp only [enc_zero_mul, enc_add_zero, enc_zero_add] at hlow
  have F : fld low 24 4 = rm.code * 2 + sat.toNat ∧ fld low 25 3 = rm.code ∧ fld low 24 1 = sat.toNat ∧ fld low 16 8 = 0 ∧ fld low 12 4 = 0 ∧ fld low 0 12 = 0 ∧ fld low 16 12 = rm.code * 512 + sat.toNat * 256 ∧ fld low 12 12 = 0 := by
    simp only [fld]; omega
  clear hlow
  obtain ⟨pc, po, pv, p52, p53, p54, p55, psc, pl2, pg, pd_, ps1, ps2, pslo, pshi, plt, pl⟩ := P
  obtain ⟨F0, F1, F2, F3, F4, F5, F6, F7⟩ := F
  simp [decodeNat, Instr.canonical, decode4, decode4b, matClean, decMma, decFac, rmF, getOr, req, bitAt, fin8, fin16, fin64, Bind.bind, Except.bind, Pure.pure, Except.pure, pc, po, pv, p52, p53, p54, p55, psc, pl2, pg, pd_, ps1, ps2, pslo, pshi, pl, F0, F1, F2, F3, F4, F5, F6, F7]

theorem Encoding.maccQueue (f : Fmt) (rm : Rm) (sat : Bool) (d : Fin 4) (q : Fin 8) (gx : Fin 16) : Encoding.Statement (.maccQueue f rm sat d q gx) := by
  have b0 := aSp_lt d
  have b1 := iqSp_lt q
  have b2 := Fmt.code_lt f
  have b3 := Rm.code_lt rm
  have b4 := Bool.toNat_lt sat
  have b5 := Fin.isLt d
  have b6 := Fin.isLt q
  have b7 := Fin.isLt gx
  refine Encoding.of_parts rfl ?_ ?_ ?_ ?_ ?_ ?_ ?_ fun hwf W low hlow P => ?_
  any_goals first | (simp only [enc_zero_mul, enc_add_zero, enc_zero_add]; omega) | omega
  try simp only [enc_zero_mul, enc_add_zero, enc_zero_add] at hlow
  simp [Instr.wellFormed, vecOk, noRound, VAmount.ok] at hwf
  have F : fld low 24 4 = rm.code * 2 + sat.toNat ∧ fld low 25 3 = rm.code ∧ fld low 24 1 = sat.toNat ∧ fld low 16 8 = f.code ∧ fld low 12 4 = gx.val ∧ fld low 0 12 = 0 ∧ fld low 16 12 = rm.code * 512 + sat.toNat * 256 + f.code ∧ fld low 12 12 = f.code * 16 + gx.val := by
    simp only [fld]; omega
  clear hlow
  obtain ⟨pc, po, pv, p52, p53, p54, p55, psc, pl2, pg, pd_, ps1, ps2, pslo, pshi, plt, pl⟩ := P
  obtain ⟨F0, F1, F2, F3, F4, F5, F6, F7⟩ := F
  simp [decodeNat, Instr.canonical, decode4, decode4b, matClean, decMma, decFac, rmF, getOr, req, bitAt, fin8, fin16, fin64, Bind.bind, Except.bind, Pure.pure, Except.pure, pc, po, pv, p52, p53, p54, p55, psc, pl2, pg, pd_, ps1, ps2, pslo, pshi, pl, F0, F1, F2, F3, F4, F5, F6, F7, hwf]

theorem Encoding.mdrain (f : Fmt) (rm : Rm) (sat : Bool) (oq : Fin 8) (a : Fin 4) (t : DrainT) (gx : Fin 16) : Encoding.Statement (.mdrain f rm sat oq a t gx) := by
  cases t with
  | reg x0 =>
    have b0 := iqSp_lt oq
    have b1 := oqSp_lt oq
    have b2 := aSp_lt a
    have b3 := Fmt.code_lt f
    have b4 := Rm.code_lt rm
    have b5 := Bool.toNat_lt sat
    have b6 := Fin.isLt oq
    have b7 := Fin.isLt a
    have b8 := Fin.isLt x0
    have b9 := Fin.isLt gx
    refine Encoding.of_parts rfl ?_ ?_ ?_ ?_ ?_ ?_ ?_ fun hwf W low hlow P => ?_
    any_goals first | (simp only [enc_zero_mul, enc_add_zero, enc_zero_add]; omega) | omega
    try simp only [enc_zero_mul, enc_add_zero, enc_zero_add] at hlow
    simp [Instr.wellFormed, vecOk, noRound, VAmount.ok] at hwf
    have F : fld low 24 4 = rm.code * 2 + sat.toNat ∧ fld low 25 3 = rm.code ∧ fld low 24 1 = sat.toNat ∧ fld low 16 8 = f.code ∧ fld low 12 4 = gx.val ∧ fld low 0 12 = 0 ∧ fld low 16 12 = rm.code * 512 + sat.toNat * 256 + f.code ∧ fld low 12 12 = f.code * 16 + gx.val := by
      simp only [fld]; omega
    clear hlow
    obtain ⟨pc, po, pv, p52, p53, p54, p55, psc, pl2, pg, pd_, ps1, ps2, pslo, pshi, plt, pl⟩ := P
    obtain ⟨F0, F1, F2, F3, F4, F5, F6, F7⟩ := F
    simp [decodeNat, Instr.canonical, decode4, decode4b, matClean, decMma, decFac, rmF, getOr, req, bitAt, fin8, fin16, fin64, Bind.bind, Except.bind, Pure.pure, Except.pure, pc, po, pv, p52, p53, p54, p55, psc, pl2, pg, pd_, ps1, ps2, pslo, pshi, pl, F0, F1, F2, F3, F4, F5, F6, F7, hwf]
  | queue x0 =>
    have b0 := iqSp_lt oq
    have b1 := oqSp_lt oq
    have b2 := aSp_lt a
    have b3 := iqSp_lt x0
    have b4 := oqSp_lt x0
    have b5 := Fmt.code_lt f
    have b6 := Rm.code_lt rm
    have b7 := Bool.toNat_lt sat
    have b8 := Fin.isLt oq
    have b9 := Fin.isLt a
    have b10 := Fin.isLt x0
    have b11 := Fin.isLt gx
    refine Encoding.of_parts rfl ?_ ?_ ?_ ?_ ?_ ?_ ?_ fun hwf W low hlow P => ?_
    any_goals first | (simp only [enc_zero_mul, enc_add_zero, enc_zero_add]; omega) | omega
    try simp only [enc_zero_mul, enc_add_zero, enc_zero_add] at hlow
    simp [Instr.wellFormed, vecOk, noRound, VAmount.ok] at hwf
    have F : fld low 24 4 = rm.code * 2 + sat.toNat ∧ fld low 25 3 = rm.code ∧ fld low 24 1 = sat.toNat ∧ fld low 16 8 = f.code ∧ fld low 12 4 = gx.val ∧ fld low 0 12 = 0 ∧ fld low 16 12 = rm.code * 512 + sat.toNat * 256 + f.code ∧ fld low 12 12 = f.code * 16 + gx.val := by
      simp only [fld]; omega
    clear hlow
    obtain ⟨pc, po, pv, p52, p53, p54, p55, psc, pl2, pg, pd_, ps1, ps2, pslo, pshi, plt, pl⟩ := P
    obtain ⟨F0, F1, F2, F3, F4, F5, F6, F7⟩ := F
    simp [decodeNat, Instr.canonical, decode4, decode4b, matClean, decMma, decFac, rmF, getOr, req, bitAt, fin8, fin16, fin64, Bind.bind, Except.bind, Pure.pure, Except.pure, pc, po, pv, p52, p53, p54, p55, psc, pl2, pg, pd_, ps1, ps2, pslo, pshi, pl, F0, F1, F2, F3, F4, F5, F6, F7, hwf]

theorem Encoding.mluF (d pv : Fin 4) (n gx : Fin 16) : Encoding.Statement (.mluF d pv n gx) := by
  have b0 := aSp_lt d
  have b1 := pvSp_lt d
  have b2 := aSp_lt pv
  have b3 := pvSp_lt pv
  have b4 := Fin.isLt d
  have b5 := Fin.isLt pv
  have b6 := Fin.isLt n
  have b7 := Fin.isLt gx
  refine Encoding.of_parts rfl ?_ ?_ ?_ ?_ ?_ ?_ ?_ fun hwf W low hlow P => ?_
  any_goals first | (simp only [enc_zero_mul, enc_add_zero, enc_zero_add]; omega) | omega
  try simp only [enc_zero_mul, enc_add_zero, enc_zero_add] at hlow
  have F : fld low 24 4 = 0 ∧ fld low 25 3 = 0 ∧ fld low 24 1 = 0 ∧ fld low 16 8 = 0 ∧ fld low 12 4 = gx.val ∧ fld low 0 12 = 0 ∧ fld low 16 12 = 0 ∧ fld low 12 12 = gx.val := by
    simp only [fld]; omega
  clear hlow
  obtain ⟨pc, po, pv, p52, p53, p54, p55, psc, pl2, pg, pd_, ps1, ps2, pslo, pshi, plt, pl⟩ := P
  obtain ⟨F0, F1, F2, F3, F4, F5, F6, F7⟩ := F
  simp [decodeNat, Instr.canonical, decode4, decode4b, matClean, decMma, decFac, rmF, getOr, req, bitAt, fin8, fin16, fin64, Bind.bind, Except.bind, Pure.pure, Except.pure, pc, po, pv, p52, p53, p54, p55, psc, pl2, pg, pd_, ps1, ps2, pslo, pshi, pl, F0, F1, F2, F3, F4, F5, F6, F7]

theorem Encoding.mluC (d pv : Fin 4) (n gx : Fin 16) : Encoding.Statement (.mluC d pv n gx) := by
  have b0 := aSp_lt d
  have b1 := pvSp_lt d
  have b2 := aSp_lt pv
  have b3 := pvSp_lt pv
  have b4 := Fin.isLt d
  have b5 := Fin.isLt pv
  have b6 := Fin.isLt n
  have b7 := Fin.isLt gx
  refine Encoding.of_parts rfl ?_ ?_ ?_ ?_ ?_ ?_ ?_ fun hwf W low hlow P => ?_
  any_goals first | (simp only [enc_zero_mul, enc_add_zero, enc_zero_add]; omega) | omega
  try simp only [enc_zero_mul, enc_add_zero, enc_zero_add] at hlow
  have F : fld low 24 4 = 0 ∧ fld low 25 3 = 0 ∧ fld low 24 1 = 0 ∧ fld low 16 8 = 0 ∧ fld low 12 4 = gx.val ∧ fld low 0 12 = 0 ∧ fld low 16 12 = 0 ∧ fld low 12 12 = gx.val := by
    simp only [fld]; omega
  clear hlow
  obtain ⟨pc, po, pv, p52, p53, p54, p55, psc, pl2, pg, pd_, ps1, ps2, pslo, pshi, plt, pl⟩ := P
  obtain ⟨F0, F1, F2, F3, F4, F5, F6, F7⟩ := F
  simp [decodeNat, Instr.canonical, decode4, decode4b, matClean, decMma, decFac, rmF, getOr, req, bitAt, fin8, fin16, fin64, Bind.bind, Except.bind, Pure.pure, Except.pure, pc, po, pv, p52, p53, p54, p55, psc, pl2, pg, pd_, ps1, ps2, pslo, pshi, pl, F0, F1, F2, F3, F4, F5, F6, F7]

theorem Encoding.mchol (d : Fin 4) (n gx : Fin 16) : Encoding.Statement (.mchol d n gx) := by
  have b0 := aSp_lt d
  have b1 := Fin.isLt d
  have b2 := Fin.isLt n
  have b3 := Fin.isLt gx
  refine Encoding.of_parts rfl ?_ ?_ ?_ ?_ ?_ ?_ ?_ fun hwf W low hlow P => ?_
  any_goals first | (simp only [enc_zero_mul, enc_add_zero, enc_zero_add]; omega) | omega
  try simp only [enc_zero_mul, enc_add_zero, enc_zero_add] at hlow
  have F : fld low 24 4 = 0 ∧ fld low 25 3 = 0 ∧ fld low 24 1 = 0 ∧ fld low 16 8 = 0 ∧ fld low 12 4 = gx.val ∧ fld low 0 12 = 0 ∧ fld low 16 12 = 0 ∧ fld low 12 12 = gx.val := by
    simp only [fld]; omega
  clear hlow
  obtain ⟨pc, po, pv, p52, p53, p54, p55, psc, pl2, pg, pd_, ps1, ps2, pslo, pshi, plt, pl⟩ := P
  obtain ⟨F0, F1, F2, F3, F4, F5, F6, F7⟩ := F
  simp [decodeNat, Instr.canonical, decode4, decode4b, matClean, decMma, decFac, rmF, getOr, req, bitAt, fin8, fin16, fin64, Bind.bind, Except.bind, Pure.pure, Except.pure, pc, po, pv, p52, p53, p54, p55, psc, pl2, pg, pd_, ps1, ps2, pslo, pshi, pl, F0, F1, F2, F3, F4, F5, F6, F7]

theorem Encoding.mqr (d pv : Fin 4) (n gx : Fin 16) : Encoding.Statement (.mqr d pv n gx) := by
  have b0 := aSp_lt d
  have b1 := pvSp_lt d
  have b2 := aSp_lt pv
  have b3 := pvSp_lt pv
  have b4 := Fin.isLt d
  have b5 := Fin.isLt pv
  have b6 := Fin.isLt n
  have b7 := Fin.isLt gx
  refine Encoding.of_parts rfl ?_ ?_ ?_ ?_ ?_ ?_ ?_ fun hwf W low hlow P => ?_
  any_goals first | (simp only [enc_zero_mul, enc_add_zero, enc_zero_add]; omega) | omega
  try simp only [enc_zero_mul, enc_add_zero, enc_zero_add] at hlow
  have F : fld low 24 4 = 0 ∧ fld low 25 3 = 0 ∧ fld low 24 1 = 0 ∧ fld low 16 8 = 0 ∧ fld low 12 4 = gx.val ∧ fld low 0 12 = 0 ∧ fld low 16 12 = 0 ∧ fld low 12 12 = gx.val := by
    simp only [fld]; omega
  clear hlow
  obtain ⟨pc, po, pv, p52, p53, p54, p55, psc, pl2, pg, pd_, ps1, ps2, pslo, pshi, plt, pl⟩ := P
  obtain ⟨F0, F1, F2, F3, F4, F5, F6, F7⟩ := F
  simp [decodeNat, Instr.canonical, decode4, decode4b, matClean, decMma, decFac, rmF, getOr, req, bitAt, fin8, fin16, fin64, Bind.bind, Except.bind, Pure.pure, Except.pure, pc, po, pv, p52, p53, p54, p55, psc, pl2, pg, pd_, ps1, ps2, pslo, pshi, pl, F0, F1, F2, F3, F4, F5, F6, F7]

theorem Encoding.mtrsm (up unit right tr : Bool) (d s : Fin 4) (n : Fin 16) : Encoding.Statement (.mtrsm up unit right tr d s n) := by
  have b0 := aSp_lt d
  have b1 := aSp_lt s
  have b2 := Bool.toNat_lt up
  have b3 := Bool.toNat_lt unit
  have b4 := Bool.toNat_lt right
  have b5 := Bool.toNat_lt tr
  have b6 := Fin.isLt d
  have b7 := Fin.isLt s
  have b8 := Fin.isLt n
  refine Encoding.of_parts rfl ?_ ?_ ?_ ?_ ?_ ?_ ?_ fun hwf W low hlow P => ?_
  any_goals first | (simp only [enc_zero_mul, enc_add_zero, enc_zero_add]; omega) | omega
  try simp only [enc_zero_mul, enc_add_zero, enc_zero_add] at hlow
  simp [Instr.wellFormed, vecOk, noRound, VAmount.ok] at hwf
  have F : fld low 24 4 = 0 ∧ fld low 25 3 = 0 ∧ fld low 24 1 = 0 ∧ fld low 16 8 = 0 ∧ fld low 12 4 = 0 ∧ fld low 0 12 = 0 ∧ fld low 16 12 = 0 ∧ fld low 12 12 = 0 := by
    simp only [fld]; omega
  clear hlow
  obtain ⟨pc, po, pv, p52, p53, p54, p55, psc, pl2, pg, pd_, ps1, ps2, pslo, pshi, plt, pl⟩ := P
  obtain ⟨F0, F1, F2, F3, F4, F5, F6, F7⟩ := F
  simp [decodeNat, Instr.canonical, decode4, decode4b, matClean, decMma, decFac, rmF, getOr, req, bitAt, fin8, fin16, fin64, Bind.bind, Except.bind, Pure.pure, Except.pure, pc, po, pv, p52, p53, p54, p55, psc, pl2, pg, pd_, ps1, ps2, pslo, pshi, pl, F0, F1, F2, F3, F4, F5, F6, F7, hwf]
  cases up <;> cases unit <;> cases right <;> cases tr <;> decide

theorem Encoding.mperm (cols inv : Bool) (d pv : Fin 4) (n : Fin 16) : Encoding.Statement (.mperm cols inv d pv n) := by
  have b0 := aSp_lt d
  have b1 := pvSp_lt d
  have b2 := aSp_lt pv
  have b3 := pvSp_lt pv
  have b4 := Bool.toNat_lt cols
  have b5 := Bool.toNat_lt inv
  have b6 := Fin.isLt d
  have b7 := Fin.isLt pv
  have b8 := Fin.isLt n
  refine Encoding.of_parts rfl ?_ ?_ ?_ ?_ ?_ ?_ ?_ fun hwf W low hlow P => ?_
  any_goals first | (simp only [enc_zero_mul, enc_add_zero, enc_zero_add]; omega) | omega
  try simp only [enc_zero_mul, enc_add_zero, enc_zero_add] at hlow
  have F : fld low 24 4 = 0 ∧ fld low 25 3 = 0 ∧ fld low 24 1 = 0 ∧ fld low 16 8 = 0 ∧ fld low 12 4 = 0 ∧ fld low 0 12 = 0 ∧ fld low 16 12 = 0 ∧ fld low 12 12 = 0 := by
    simp only [fld]; omega
  clear hlow
  obtain ⟨pc, po, pv, p52, p53, p54, p55, psc, pl2, pg, pd_, ps1, ps2, pslo, pshi, plt, pl⟩ := P
  obtain ⟨F0, F1, F2, F3, F4, F5, F6, F7⟩ := F
  simp [decodeNat, Instr.canonical, decode4, decode4b, matClean, decMma, decFac, rmF, getOr, req, bitAt, fin8, fin16, fin64, Bind.bind, Except.bind, Pure.pure, Except.pure, pc, po, pv, p52, p53, p54, p55, psc, pl2, pg, pd_, ps1, ps2, pslo, pshi, pl, F0, F1, F2, F3, F4, F5, F6, F7]

theorem Encoding.mqapp (right tr : Bool) (d s pv : Fin 4) (gx : Fin 16) : Encoding.Statement (.mqapp right tr d s pv gx) := by
  have b0 := aSp_lt d
  have b1 := pvSp_lt d
  have b2 := aSp_lt s
  have b3 := pvSp_lt s
  have b4 := aSp_lt pv
  have b5 := pvSp_lt pv
  have b6 := Bool.toNat_lt right
  have b7 := Bool.toNat_lt tr
  have b8 := Fin.isLt d
  have b9 := Fin.isLt s
  have b10 := Fin.isLt pv
  have b11 := Fin.isLt gx
  refine Encoding.of_parts rfl ?_ ?_ ?_ ?_ ?_ ?_ ?_ fun hwf W low hlow P => ?_
  any_goals first | (simp only [enc_zero_mul, enc_add_zero, enc_zero_add]; omega) | omega
  try simp only [enc_zero_mul, enc_add_zero, enc_zero_add] at hlow
  simp [Instr.wellFormed, vecOk, noRound, VAmount.ok] at hwf
  have F : fld low 24 4 = 0 ∧ fld low 25 3 = 0 ∧ fld low 24 1 = 0 ∧ fld low 16 8 = 0 ∧ fld low 12 4 = gx.val ∧ fld low 0 12 = 0 ∧ fld low 16 12 = 0 ∧ fld low 12 12 = gx.val := by
    simp only [fld]; omega
  clear hlow
  obtain ⟨pc, po, pv, p52, p53, p54, p55, psc, pl2, pg, pd_, ps1, ps2, pslo, pshi, plt, pl⟩ := P
  obtain ⟨F0, F1, F2, F3, F4, F5, F6, F7⟩ := F
  simp [decodeNat, Instr.canonical, decode4, decode4b, matClean, decMma, decFac, rmF, getOr, req, bitAt, fin8, fin16, fin64, Bind.bind, Except.bind, Pure.pure, Except.pure, pc, po, pv, p52, p53, p54, p55, psc, pl2, pg, pd_, ps1, ps2, pslo, pshi, pl, F0, F1, F2, F3, F4, F5, F6, F7, hwf]

theorem Encoding.mfst (d : Fin 16) : Encoding.Statement (.mfst d) := by
  have b0 := Fin.isLt d
  refine Encoding.of_parts rfl ?_ ?_ ?_ ?_ ?_ ?_ ?_ fun hwf W low hlow P => ?_
  any_goals first | (simp only [enc_zero_mul, enc_add_zero, enc_zero_add]; omega) | omega
  try simp only [enc_zero_mul, enc_add_zero, enc_zero_add] at hlow
  have F : fld low 24 4 = 0 ∧ fld low 25 3 = 0 ∧ fld low 24 1 = 0 ∧ fld low 16 8 = 0 ∧ fld low 12 4 = 0 ∧ fld low 0 12 = 0 ∧ fld low 16 12 = 0 ∧ fld low 12 12 = 0 := by
    simp only [fld]; omega
  clear hlow
  obtain ⟨pc, po, pv, p52, p53, p54, p55, psc, pl2, pg, pd_, ps1, ps2, pslo, pshi, plt, pl⟩ := P
  obtain ⟨F0, F1, F2, F3, F4, F5, F6, F7⟩ := F
  simp [decodeNat, Instr.canonical, decode4, decode4b, matClean, decMma, decFac, rmF, getOr, req, bitAt, fin8, fin16, fin64, Bind.bind, Except.bind, Pure.pure, Except.pure, pc, po, pv, p52, p53, p54, p55, psc, pl2, pg, pd_, ps1, ps2, pslo, pshi, pl, F0, F1, F2, F3, F4, F5, F6, F7]

theorem Encoding.mfstHi (d : Fin 16) : Encoding.Statement (.mfstHi d) := by
  have b0 := Fin.isLt d
  refine Encoding.of_parts rfl ?_ ?_ ?_ ?_ ?_ ?_ ?_ fun hwf W low hlow P => ?_
  any_goals first | (simp only [enc_zero_mul, enc_add_zero, enc_zero_add]; omega) | omega
  try simp only [enc_zero_mul, enc_add_zero, enc_zero_add] at hlow
  have F : fld low 24 4 = 0 ∧ fld low 25 3 = 0 ∧ fld low 24 1 = 0 ∧ fld low 16 8 = 0 ∧ fld low 12 4 = 0 ∧ fld low 0 12 = 0 ∧ fld low 16 12 = 0 ∧ fld low 12 12 = 0 := by
    simp only [fld]; omega
  clear hlow
  obtain ⟨pc, po, pv, p52, p53, p54, p55, psc, pl2, pg, pd_, ps1, ps2, pslo, pshi, plt, pl⟩ := P
  obtain ⟨F0, F1, F2, F3, F4, F5, F6, F7⟩ := F
  simp [decodeNat, Instr.canonical, decode4, decode4b, matClean, decMma, decFac, rmF, getOr, req, bitAt, fin8, fin16, fin64, Bind.bind, Except.bind, Pure.pure, Except.pure, pc, po, pv, p52, p53, p54, p55, psc, pl2, pg, pd_, ps1, ps2, pslo, pshi, pl, F0, F1, F2, F3, F4, F5, F6, F7]

theorem Encoding.mfstW (s : Fin 16) : Encoding.Statement (.mfstW s) := by
  have b0 := Fin.isLt s
  refine Encoding.of_parts rfl ?_ ?_ ?_ ?_ ?_ ?_ ?_ fun hwf W low hlow P => ?_
  any_goals first | (simp only [enc_zero_mul, enc_add_zero, enc_zero_add]; omega) | omega
  try simp only [enc_zero_mul, enc_add_zero, enc_zero_add] at hlow
  have F : fld low 24 4 = 0 ∧ fld low 25 3 = 0 ∧ fld low 24 1 = 0 ∧ fld low 16 8 = 0 ∧ fld low 12 4 = 0 ∧ fld low 0 12 = 0 ∧ fld low 16 12 = 0 ∧ fld low 12 12 = 0 := by
    simp only [fld]; omega
  clear hlow
  obtain ⟨pc, po, pv, p52, p53, p54, p55, psc, pl2, pg, pd_, ps1, ps2, pslo, pshi, plt, pl⟩ := P
  obtain ⟨F0, F1, F2, F3, F4, F5, F6, F7⟩ := F
  simp [decodeNat, Instr.canonical, decode4, decode4b, matClean, decMma, decFac, rmF, getOr, req, bitAt, fin8, fin16, fin64, Bind.bind, Except.bind, Pure.pure, Except.pure, pc, po, pv, p52, p53, p54, p55, psc, pl2, pg, pd_, ps1, ps2, pslo, pshi, pl, F0, F1, F2, F3, F4, F5, F6, F7]

theorem Encoding.mfstWhi (s : Fin 16) : Encoding.Statement (.mfstWhi s) := by
  have b0 := Fin.isLt s
  refine Encoding.of_parts rfl ?_ ?_ ?_ ?_ ?_ ?_ ?_ fun hwf W low hlow P => ?_
  any_goals first | (simp only [enc_zero_mul, enc_add_zero, enc_zero_add]; omega) | omega
  try simp only [enc_zero_mul, enc_add_zero, enc_zero_add] at hlow
  have F : fld low 24 4 = 0 ∧ fld low 25 3 = 0 ∧ fld low 24 1 = 0 ∧ fld low 16 8 = 0 ∧ fld low 12 4 = 0 ∧ fld low 0 12 = 0 ∧ fld low 16 12 = 0 ∧ fld low 12 12 = 0 := by
    simp only [fld]; omega
  clear hlow
  obtain ⟨pc, po, pv, p52, p53, p54, p55, psc, pl2, pg, pd_, ps1, ps2, pslo, pshi, plt, pl⟩ := P
  obtain ⟨F0, F1, F2, F3, F4, F5, F6, F7⟩ := F
  simp [decodeNat, Instr.canonical, decode4, decode4b, matClean, decMma, decFac, rmF, getOr, req, bitAt, fin8, fin16, fin64, Bind.bind, Except.bind, Pure.pure, Except.pure, pc, po, pv, p52, p53, p54, p55, psc, pl2, pg, pd_, ps1, ps2, pslo, pshi, pl, F0, F1, F2, F3, F4, F5, F6, F7]

theorem Encoding.mfstClr  : Encoding.Statement (.mfstClr) := by
  refine Encoding.of_parts rfl ?_ ?_ ?_ ?_ ?_ ?_ ?_ fun hwf W low hlow P => ?_
  any_goals first | (simp only [enc_zero_mul, enc_add_zero, enc_zero_add]; omega) | omega
  try simp only [enc_zero_mul, enc_add_zero, enc_zero_add] at hlow
  have F : fld low 24 4 = 0 ∧ fld low 25 3 = 0 ∧ fld low 24 1 = 0 ∧ fld low 16 8 = 0 ∧ fld low 12 4 = 0 ∧ fld low 0 12 = 0 ∧ fld low 16 12 = 0 ∧ fld low 12 12 = 0 := by
    simp only [fld]; omega
  clear hlow
  obtain ⟨pc, po, pv, p52, p53, p54, p55, psc, pl2, pg, pd_, ps1, ps2, pslo, pshi, plt, pl⟩ := P
  obtain ⟨F0, F1, F2, F3, F4, F5, F6, F7⟩ := F
  simp [decodeNat, Instr.canonical, decode4, decode4b, matClean, decMma, decFac, rmF, getOr, req, bitAt, fin8, fin16, fin64, Bind.bind, Except.bind, Pure.pure, Except.pure, pc, po, pv, p52, p53, p54, p55, psc, pl2, pg, pd_, ps1, ps2, pslo, pshi, pl, F0, F1, F2, F3, F4, F5, F6, F7]

theorem Encoding.sspec (d s1 : Fin 16) : Encoding.Statement (.sspec d s1) := by
  have b0 := Fin.isLt d
  have b1 := Fin.isLt s1
  refine Encoding.of_parts rfl ?_ ?_ ?_ ?_ ?_ ?_ ?_ fun hwf W low hlow P => ?_
  any_goals first | (simp only [enc_zero_mul, enc_add_zero, enc_zero_add]; omega) | omega
  try simp only [enc_zero_mul, enc_add_zero, enc_zero_add] at hlow
  have F : fld low 24 4 = 0 ∧ fld low 0 24 = 0 ∧ fld low 16 8 = 0 ∧ fld low 8 8 = 0 ∧ fld low 0 8 = 0 := by
    simp only [fld]; omega
  clear hlow
  obtain ⟨pc, po, pv, p52, p53, p54, p55, psc, pl2, pg, pd_, ps1, ps2, pslo, pshi, plt, pl⟩ := P
  obtain ⟨F0, F1, F2, F3, F4⟩ := F
  simp [decodeNat, Instr.canonical, decode5, decJob, subF, waveOf, getOr, req, bitAt, fin8, fin16, fin64, Bind.bind, Except.bind, Pure.pure, Except.pure, pc, po, pv, p52, p53, p54, p55, psc, pl2, pg, pd_, ps1, ps2, pslo, pshi, pl, F0, F1, F2, F3, F4]

theorem Encoding.sbarWait (d s1 : Fin 16) : Encoding.Statement (.sbarWait d s1) := by
  have b0 := Fin.isLt d
  have b1 := Fin.isLt s1
  refine Encoding.of_parts rfl ?_ ?_ ?_ ?_ ?_ ?_ ?_ fun hwf W low hlow P => ?_
  any_goals first | (simp only [enc_zero_mul, enc_add_zero, enc_zero_add]; omega) | omega
  try simp only [enc_zero_mul, enc_add_zero, enc_zero_add] at hlow
  have F : fld low 24 4 = 0 ∧ fld low 0 24 = 0 ∧ fld low 16 8 = 0 ∧ fld low 8 8 = 0 ∧ fld low 0 8 = 0 := by
    simp only [fld]; omega
  clear hlow
  obtain ⟨pc, po, pv, p52, p53, p54, p55, psc, pl2, pg, pd_, ps1, ps2, pslo, pshi, plt, pl⟩ := P
  obtain ⟨F0, F1, F2, F3, F4⟩ := F
  simp [decodeNat, Instr.canonical, decode5, decJob, subF, waveOf, getOr, req, bitAt, fin8, fin16, fin64, Bind.bind, Except.bind, Pure.pure, Except.pure, pc, po, pv, p52, p53, p54, p55, psc, pl2, pg, pd_, ps1, ps2, pslo, pshi, pl, F0, F1, F2, F3, F4]

theorem Encoding.sbarCommit (d s1 s2 : Fin 16) : Encoding.Statement (.sbarCommit d s1 s2) := by
  have b0 := Fin.isLt d
  have b1 := Fin.isLt s1
  have b2 := Fin.isLt s2
  refine Encoding.of_parts rfl ?_ ?_ ?_ ?_ ?_ ?_ ?_ fun hwf W low hlow P => ?_
  any_goals first | (simp only [enc_zero_mul, enc_add_zero, enc_zero_add]; omega) | omega
  try simp only [enc_zero_mul, enc_add_zero, enc_zero_add] at hlow
  have F : fld low 24 4 = 1 ∧ fld low 0 24 = 0 ∧ fld low 16 8 = 0 ∧ fld low 8 8 = 0 ∧ fld low 0 8 = 0 := by
    simp only [fld]; omega
  clear hlow
  obtain ⟨pc, po, pv, p52, p53, p54, p55, psc, pl2, pg, pd_, ps1, ps2, pslo, pshi, plt, pl⟩ := P
  obtain ⟨F0, F1, F2, F3, F4⟩ := F
  simp [decodeNat, Instr.canonical, decode5, decJob, subF, waveOf, getOr, req, bitAt, fin8, fin16, fin64, Bind.bind, Except.bind, Pure.pure, Except.pure, pc, po, pv, p52, p53, p54, p55, psc, pl2, pg, pd_, ps1, ps2, pslo, pshi, pl, F0, F1, F2, F3, F4]

theorem Encoding.sbarFlush (d s1 : Fin 16) : Encoding.Statement (.sbarFlush d s1) := by
  have b0 := Fin.isLt d
  have b1 := Fin.isLt s1
  refine Encoding.of_parts rfl ?_ ?_ ?_ ?_ ?_ ?_ ?_ fun hwf W low hlow P => ?_
  any_goals first | (simp only [enc_zero_mul, enc_add_zero, enc_zero_add]; omega) | omega
  try simp only [enc_zero_mul, enc_add_zero, enc_zero_add] at hlow
  have F : fld low 24 4 = 2 ∧ fld low 0 24 = 0 ∧ fld low 16 8 = 0 ∧ fld low 8 8 = 0 ∧ fld low 0 8 = 0 := by
    simp only [fld]; omega
  clear hlow
  obtain ⟨pc, po, pv, p52, p53, p54, p55, psc, pl2, pg, pd_, ps1, ps2, pslo, pshi, plt, pl⟩ := P
  obtain ⟨F0, F1, F2, F3, F4⟩ := F
  simp [decodeNat, Instr.canonical, decode5, decJob, subF, waveOf, getOr, req, bitAt, fin8, fin16, fin64, Bind.bind, Except.bind, Pure.pure, Except.pure, pc, po, pv, p52, p53, p54, p55, psc, pl2, pg, pd_, ps1, ps2, pslo, pshi, pl, F0, F1, F2, F3, F4]

theorem Encoding.sbarStop (d s1 : Fin 16) : Encoding.Statement (.sbarStop d s1) := by
  have b0 := Fin.isLt d
  have b1 := Fin.isLt s1
  refine Encoding.of_parts rfl ?_ ?_ ?_ ?_ ?_ ?_ ?_ fun hwf W low hlow P => ?_
  any_goals first | (simp only [enc_zero_mul, enc_add_zero, enc_zero_add]; omega) | omega
  try simp only [enc_zero_mul, enc_add_zero, enc_zero_add] at hlow
  have F : fld low 24 4 = 3 ∧ fld low 0 24 = 0 ∧ fld low 16 8 = 0 ∧ fld low 8 8 = 0 ∧ fld low 0 8 = 0 := by
    simp only [fld]; omega
  clear hlow
  obtain ⟨pc, po, pv, p52, p53, p54, p55, psc, pl2, pg, pd_, ps1, ps2, pslo, pshi, plt, pl⟩ := P
  obtain ⟨F0, F1, F2, F3, F4⟩ := F
  simp [decodeNat, Instr.canonical, decode5, decJob, subF, waveOf, getOr, req, bitAt, fin8, fin16, fin64, Bind.bind, Except.bind, Pure.pure, Except.pure, pc, po, pv, p52, p53, p54, p55, psc, pl2, pg, pd_, ps1, ps2, pslo, pshi, pl, F0, F1, F2, F3, F4]

theorem Encoding.sbarQuery (d s1 : Fin 16) : Encoding.Statement (.sbarQuery d s1) := by
  have b0 := Fin.isLt d
  have b1 := Fin.isLt s1
  refine Encoding.of_parts rfl ?_ ?_ ?_ ?_ ?_ ?_ ?_ fun hwf W low hlow P => ?_
  any_goals first | (simp only [enc_zero_mul, enc_add_zero, enc_zero_add]; omega) | omega
  try simp only [enc_zero_mul, enc_add_zero, enc_zero_add] at hlow
  have F : fld low 24 4 = 4 ∧ fld low 0 24 = 0 ∧ fld low 16 8 = 0 ∧ fld low 8 8 = 0 ∧ fld low 0 8 = 0 := by
    simp only [fld]; omega
  clear hlow
  obtain ⟨pc, po, pv, p52, p53, p54, p55, psc, pl2, pg, pd_, ps1, ps2, pslo, pshi, plt, pl⟩ := P
  obtain ⟨F0, F1, F2, F3, F4⟩ := F
  simp [decodeNat, Instr.canonical, decode5, decJob, subF, waveOf, getOr, req, bitAt, fin8, fin16, fin64, Bind.bind, Except.bind, Pure.pure, Except.pure, pc, po, pv, p52, p53, p54, p55, psc, pl2, pg, pd_, ps1, ps2, pslo, pshi, pl, F0, F1, F2, F3, F4]

theorem Encoding.jcopy (d s1 : Fin 16) (w : Wave) : Encoding.Statement (.jcopy d s1 w) := by
  have b0 := Fin.isLt d
  have b1 := Fin.isLt s1
  have b2 := BitVec.isLt w.s
  have b3 := BitVec.isLt w.p
  have b4 := BitVec.isLt w.n
  refine Encoding.of_parts rfl ?_ ?_ ?_ ?_ ?_ ?_ ?_ fun hwf W low hlow P => ?_
  any_goals first | (simp only [enc_zero_mul, enc_add_zero, enc_zero_add, Wave.code]; omega) | omega
  try simp only [enc_zero_mul, enc_add_zero, enc_zero_add, Wave.code] at hlow
  have F : fld low 24 4 = 0 ∧ fld low 0 24 = w.s.toNat * 65536 + w.p.toNat * 256 + w.n.toNat ∧ fld low 16 8 = w.s.toNat ∧ fld low 8 8 = w.p.toNat ∧ fld low 0 8 = w.n.toNat := by
    simp only [fld]; omega
  clear hlow
  obtain ⟨pc, po, pv, p52, p53, p54, p55, psc, pl2, pg, pd_, ps1, ps2, pslo, pshi, plt, pl⟩ := P
  obtain ⟨F0, F1, F2, F3, F4⟩ := F
  simp [decodeNat, Instr.canonical, decode5, decJob, subF, waveOf, getOr, req, bitAt, fin8, fin16, fin64, Bind.bind, Except.bind, Pure.pure, Except.pure, pc, po, pv, p52, p53, p54, p55, psc, pl2, pg, pd_, ps1, ps2, pslo, pshi, pl, F0, F1, F2, F3, F4]

theorem Encoding.jgath (d s1 : Fin 16) (w : Wave) : Encoding.Statement (.jgath d s1 w) := by
  have b0 := Fin.isLt d
  have b1 := Fin.isLt s1
  have b2 := BitVec.isLt w.s
  have b3 := BitVec.isLt w.p
  have b4 := BitVec.isLt w.n
  refine Encoding.of_parts rfl ?_ ?_ ?_ ?_ ?_ ?_ ?_ fun hwf W low hlow P => ?_
  any_goals first | (simp only [enc_zero_mul, enc_add_zero, enc_zero_add, Wave.code]; omega) | omega
  try simp only [enc_zero_mul, enc_add_zero, enc_zero_add, Wave.code] at hlow
  have F : fld low 24 4 = 0 ∧ fld low 0 24 = w.s.toNat * 65536 + w.p.toNat * 256 + w.n.toNat ∧ fld low 16 8 = w.s.toNat ∧ fld low 8 8 = w.p.toNat ∧ fld low 0 8 = w.n.toNat := by
    simp only [fld]; omega
  clear hlow
  obtain ⟨pc, po, pv, p52, p53, p54, p55, psc, pl2, pg, pd_, ps1, ps2, pslo, pshi, plt, pl⟩ := P
  obtain ⟨F0, F1, F2, F3, F4⟩ := F
  simp [decodeNat, Instr.canonical, decode5, decJob, subF, waveOf, getOr, req, bitAt, fin8, fin16, fin64, Bind.bind, Except.bind, Pure.pure, Except.pure, pc, po, pv, p52, p53, p54, p55, psc, pl2, pg, pd_, ps1, ps2, pslo, pshi, pl, F0, F1, F2, F3, F4]

theorem Encoding.jscat (d s1 : Fin 16) (w : Wave) : Encoding.Statement (.jscat d s1 w) := by
  have b0 := Fin.isLt d
  have b1 := Fin.isLt s1
  have b2 := BitVec.isLt w.s
  have b3 := BitVec.isLt w.p
  have b4 := BitVec.isLt w.n
  refine Encoding.of_parts rfl ?_ ?_ ?_ ?_ ?_ ?_ ?_ fun hwf W low hlow P => ?_
  any_goals first | (simp only [enc_zero_mul, enc_add_zero, enc_zero_add, Wave.code]; omega) | omega
  try simp only [enc_zero_mul, enc_add_zero, enc_zero_add, Wave.code] at hlow
  have F : fld low 24 4 = 0 ∧ fld low 0 24 = w.s.toNat * 65536 + w.p.toNat * 256 + w.n.toNat ∧ fld low 16 8 = w.s.toNat ∧ fld low 8 8 = w.p.toNat ∧ fld low 0 8 = w.n.toNat := by
    simp only [fld]; omega
  clear hlow
  obtain ⟨pc, po, pv, p52, p53, p54, p55, psc, pl2, pg, pd_, ps1, ps2, pslo, pshi, plt, pl⟩ := P
  obtain ⟨F0, F1, F2, F3, F4⟩ := F
  simp [decodeNat, Instr.canonical, decode5, decJob, subF, waveOf, getOr, req, bitAt, fin8, fin16, fin64, Bind.bind, Except.bind, Pure.pure, Except.pure, pc, po, pv, p52, p53, p54, p55, psc, pl2, pg, pd_, ps1, ps2, pslo, pshi, pl, F0, F1, F2, F3, F4]

theorem Encoding.jcoll (d s1 : Fin 16) (w : Wave) : Encoding.Statement (.jcoll d s1 w) := by
  have b0 := Fin.isLt d
  have b1 := Fin.isLt s1
  have b2 := BitVec.isLt w.s
  have b3 := BitVec.isLt w.p
  have b4 := BitVec.isLt w.n
  refine Encoding.of_parts rfl ?_ ?_ ?_ ?_ ?_ ?_ ?_ fun hwf W low hlow P => ?_
  any_goals first | (simp only [enc_zero_mul, enc_add_zero, enc_zero_add, Wave.code]; omega) | omega
  try simp only [enc_zero_mul, enc_add_zero, enc_zero_add, Wave.code] at hlow
  have F : fld low 24 4 = 0 ∧ fld low 0 24 = w.s.toNat * 65536 + w.p.toNat * 256 + w.n.toNat ∧ fld low 16 8 = w.s.toNat ∧ fld low 8 8 = w.p.toNat ∧ fld low 0 8 = w.n.toNat := by
    simp only [fld]; omega
  clear hlow
  obtain ⟨pc, po, pv, p52, p53, p54, p55, psc, pl2, pg, pd_, ps1, ps2, pslo, pshi, plt, pl⟩ := P
  obtain ⟨F0, F1, F2, F3, F4⟩ := F
  simp [decodeNat, Instr.canonical, decode5, decJob, subF, waveOf, getOr, req, bitAt, fin8, fin16, fin64, Bind.bind, Except.bind, Pure.pure, Except.pure, pc, po, pv, p52, p53, p54, p55, psc, pl2, pg, pd_, ps1, ps2, pslo, pshi, pl, F0, F1, F2, F3, F4]

theorem Encoding.prom (d s1 : Fin 16) : Encoding.Statement (.prom d s1) := by
  have b0 := Fin.isLt d
  have b1 := Fin.isLt s1
  refine Encoding.of_parts rfl ?_ ?_ ?_ ?_ ?_ ?_ ?_ fun hwf W low hlow P => ?_
  any_goals first | (simp only [enc_zero_mul, enc_add_zero, enc_zero_add]; omega) | omega
  try simp only [enc_zero_mul, enc_add_zero, enc_zero_add] at hlow
  have F : fld low 24 4 = 0 ∧ fld low 0 24 = 0 ∧ fld low 16 8 = 0 ∧ fld low 8 8 = 0 ∧ fld low 0 8 = 0 := by
    simp only [fld]; omega
  clear hlow
  obtain ⟨pc, po, pv, p52, p53, p54, p55, psc, pl2, pg, pd_, ps1, ps2, pslo, pshi, plt, pl⟩ := P
  obtain ⟨F0, F1, F2, F3, F4⟩ := F
  simp [decodeNat, Instr.canonical, decode5, decJob, subF, waveOf, getOr, req, bitAt, fin8, fin16, fin64, Bind.bind, Except.bind, Pure.pure, Except.pure, pc, po, pv, p52, p53, p54, p55, psc, pl2, pg, pd_, ps1, ps2, pslo, pshi, pl, F0, F1, F2, F3, F4]

theorem Encoding.waitb (s1 : Fin 16) : Encoding.Statement (.waitb s1) := by
  have b0 := Fin.isLt s1
  refine Encoding.of_parts rfl ?_ ?_ ?_ ?_ ?_ ?_ ?_ fun hwf W low hlow P => ?_
  any_goals first | (simp only [enc_zero_mul, enc_add_zero, enc_zero_add]; omega) | omega
  try simp only [enc_zero_mul, enc_add_zero, enc_zero_add] at hlow
  have F : fld low 24 4 = 0 ∧ fld low 0 24 = 0 ∧ fld low 16 8 = 0 ∧ fld low 8 8 = 0 ∧ fld low 0 8 = 0 := by
    simp only [fld]; omega
  clear hlow
  obtain ⟨pc, po, pv, p52, p53, p54, p55, psc, pl2, pg, pd_, ps1, ps2, pslo, pshi, plt, pl⟩ := P
  obtain ⟨F0, F1, F2, F3, F4⟩ := F
  simp [decodeNat, Instr.canonical, decode5, decJob, subF, waveOf, getOr, req, bitAt, fin8, fin16, fin64, Bind.bind, Except.bind, Pure.pure, Except.pure, pc, po, pv, p52, p53, p54, p55, psc, pl2, pg, pd_, ps1, ps2, pslo, pshi, pl, F0, F1, F2, F3, F4]

theorem Encoding.waitbJob (d s1 : Fin 16) : Encoding.Statement (.waitbJob d s1) := by
  have b0 := Fin.isLt d
  have b1 := Fin.isLt s1
  refine Encoding.of_parts rfl ?_ ?_ ?_ ?_ ?_ ?_ ?_ fun hwf W low hlow P => ?_
  any_goals first | (simp only [enc_zero_mul, enc_add_zero, enc_zero_add]; omega) | omega
  try simp only [enc_zero_mul, enc_add_zero, enc_zero_add] at hlow
  have F : fld low 24 4 = 1 ∧ fld low 0 24 = 0 ∧ fld low 16 8 = 0 ∧ fld low 8 8 = 0 ∧ fld low 0 8 = 0 := by
    simp only [fld]; omega
  clear hlow
  obtain ⟨pc, po, pv, p52, p53, p54, p55, psc, pl2, pg, pd_, ps1, ps2, pslo, pshi, plt, pl⟩ := P
  obtain ⟨F0, F1, F2, F3, F4⟩ := F
  simp [decodeNat, Instr.canonical, decode5, decJob, subF, waveOf, getOr, req, bitAt, fin8, fin16, fin64, Bind.bind, Except.bind, Pure.pure, Except.pure, pc, po, pv, p52, p53, p54, p55, psc, pl2, pg, pd_, ps1, ps2, pslo, pshi, pl, F0, F1, F2, F3, F4]

theorem Encoding.hist (d s1 s2 : Fin 16) (w : Wave) : Encoding.Statement (.hist d s1 s2 w) := by
  have b0 := Fin.isLt d
  have b1 := Fin.isLt s1
  have b2 := Fin.isLt s2
  have b3 := BitVec.isLt w.s
  have b4 := BitVec.isLt w.p
  have b5 := BitVec.isLt w.n
  refine Encoding.of_parts rfl ?_ ?_ ?_ ?_ ?_ ?_ ?_ fun hwf W low hlow P => ?_
  any_goals first | (simp only [enc_zero_mul, enc_add_zero, enc_zero_add, Wave.code]; omega) | omega
  try simp only [enc_zero_mul, enc_add_zero, enc_zero_add, Wave.code] at hlow
  have F : fld low 24 4 = 0 ∧ fld low 0 24 = w.s.toNat * 65536 + w.p.toNat * 256 + w.n.toNat ∧ fld low 16 8 = w.s.toNat ∧ fld low 8 8 = w.p.toNat ∧ fld low 0 8 = w.n.toNat := by
    simp only [fld]; omega
  clear hlow
  obtain ⟨pc, po, pv, p52, p53, p54, p55, psc, pl2, pg, pd_, ps1, ps2, pslo, pshi, plt, pl⟩ := P
  obtain ⟨F0, F1, F2, F3, F4⟩ := F
  simp [decodeNat, Instr.canonical, decode5, decJob, subF, waveOf, getOr, req, bitAt, fin8, fin16, fin64, Bind.bind, Except.bind, Pure.pure, Except.pure, pc, po, pv, p52, p53, p54, p55, psc, pl2, pg, pd_, ps1, ps2, pslo, pshi, pl, F0, F1, F2, F3, F4]

theorem Encoding.histRd (d s1 : Fin 16) (w : Wave) : Encoding.Statement (.histRd d s1 w) := by
  have b0 := Fin.isLt d
  have b1 := Fin.isLt s1
  have b2 := BitVec.isLt w.s
  have b3 := BitVec.isLt w.p
  have b4 := BitVec.isLt w.n
  refine Encoding.of_parts rfl ?_ ?_ ?_ ?_ ?_ ?_ ?_ fun hwf W low hlow P => ?_
  any_goals first | (simp only [enc_zero_mul, enc_add_zero, enc_zero_add, Wave.code]; omega) | omega
  try simp only [enc_zero_mul, enc_add_zero, enc_zero_add, Wave.code] at hlow
  have F : fld low 24 4 = 1 ∧ fld low 0 24 = w.s.toNat * 65536 + w.p.toNat * 256 + w.n.toNat ∧ fld low 16 8 = w.s.toNat ∧ fld low 8 8 = w.p.toNat ∧ fld low 0 8 = w.n.toNat := by
    simp only [fld]; omega
  clear hlow
  obtain ⟨pc, po, pv, p52, p53, p54, p55, psc, pl2, pg, pd_, ps1, ps2, pslo, pshi, plt, pl⟩ := P
  obtain ⟨F0, F1, F2, F3, F4⟩ := F
  simp [decodeNat, Instr.canonical, decode5, decJob, subF, waveOf, getOr, req, bitAt, fin8, fin16, fin64, Bind.bind, Except.bind, Pure.pure, Except.pure, pc, po, pv, p52, p53, p54, p55, psc, pl2, pg, pd_, ps1, ps2, pslo, pshi, pl, F0, F1, F2, F3, F4]

theorem Encoding.hoffer (d s1 s2 : Fin 16) (w : Wave) : Encoding.Statement (.hoffer d s1 s2 w) := by
  have b0 := Fin.isLt d
  have b1 := Fin.isLt s1
  have b2 := Fin.isLt s2
  have b3 := BitVec.isLt w.s
  have b4 := BitVec.isLt w.p
  have b5 := BitVec.isLt w.n
  refine Encoding.of_parts rfl ?_ ?_ ?_ ?_ ?_ ?_ ?_ fun hwf W low hlow P => ?_
  any_goals first | (simp only [enc_zero_mul, enc_add_zero, enc_zero_add, Wave.code]; omega) | omega
  try simp only [enc_zero_mul, enc_add_zero, enc_zero_add, Wave.code] at hlow
  have F : fld low 24 4 = 0 ∧ fld low 0 24 = w.s.toNat * 65536 + w.p.toNat * 256 + w.n.toNat ∧ fld low 16 8 = w.s.toNat ∧ fld low 8 8 = w.p.toNat ∧ fld low 0 8 = w.n.toNat := by
    simp only [fld]; omega
  clear hlow
  obtain ⟨pc, po, pv, p52, p53, p54, p55, psc, pl2, pg, pd_, ps1, ps2, pslo, pshi, plt, pl⟩ := P
  obtain ⟨F0, F1, F2, F3, F4⟩ := F
  simp [decodeNat, Instr.canonical, decode5, decJob, subF, waveOf, getOr, req, bitAt, fin8, fin16, fin64, Bind.bind, Except.bind, Pure.pure, Except.pure, pc, po, pv, p52, p53, p54, p55, psc, pl2, pg, pd_, ps1, ps2, pslo, pshi, pl, F0, F1, F2, F3, F4]

theorem Encoding.hdump (d s1 s2 : Fin 16) (w : Wave) : Encoding.Statement (.hdump d s1 s2 w) := by
  have b0 := Fin.isLt d
  have b1 := Fin.isLt s1
  have b2 := Fin.isLt s2
  have b3 := BitVec.isLt w.s
  have b4 := BitVec.isLt w.p
  have b5 := BitVec.isLt w.n
  refine Encoding.of_parts rfl ?_ ?_ ?_ ?_ ?_ ?_ ?_ fun hwf W low hlow P => ?_
  any_goals first | (simp only [enc_zero_mul, enc_add_zero, enc_zero_add, Wave.code]; omega) | omega
  try simp only [enc_zero_mul, enc_add_zero, enc_zero_add, Wave.code] at hlow
  have F : fld low 24 4 = 0 ∧ fld low 0 24 = w.s.toNat * 65536 + w.p.toNat * 256 + w.n.toNat ∧ fld low 16 8 = w.s.toNat ∧ fld low 8 8 = w.p.toNat ∧ fld low 0 8 = w.n.toNat := by
    simp only [fld]; omega
  clear hlow
  obtain ⟨pc, po, pv, p52, p53, p54, p55, psc, pl2, pg, pd_, ps1, ps2, pslo, pshi, plt, pl⟩ := P
  obtain ⟨F0, F1, F2, F3, F4⟩ := F
  simp [decodeNat, Instr.canonical, decode5, decJob, subF, waveOf, getOr, req, bitAt, fin8, fin16, fin64, Bind.bind, Except.bind, Pure.pure, Except.pure, pc, po, pv, p52, p53, p54, p55, psc, pl2, pg, pd_, ps1, ps2, pslo, pshi, pl, F0, F1, F2, F3, F4]

theorem Encoding.hdumpClr (d s1 s2 : Fin 16) (w : Wave) : Encoding.Statement (.hdumpClr d s1 s2 w) := by
  have b0 := Fin.isLt d
  have b1 := Fin.isLt s1
  have b2 := Fin.isLt s2
  have b3 := BitVec.isLt w.s
  have b4 := BitVec.isLt w.p
  have b5 := BitVec.isLt w.n
  refine Encoding.of_parts rfl ?_ ?_ ?_ ?_ ?_ ?_ ?_ fun hwf W low hlow P => ?_
  any_goals first | (simp only [enc_zero_mul, enc_add_zero, enc_zero_add, Wave.code]; omega) | omega
  try simp only [enc_zero_mul, enc_add_zero, enc_zero_add, Wave.code] at hlow
  have F : fld low 24 4 = 1 ∧ fld low 0 24 = w.s.toNat * 65536 + w.p.toNat * 256 + w.n.toNat ∧ fld low 16 8 = w.s.toNat ∧ fld low 8 8 = w.p.toNat ∧ fld low 0 8 = w.n.toNat := by
    simp only [fld]; omega
  clear hlow
  obtain ⟨pc, po, pv, p52, p53, p54, p55, psc, pl2, pg, pd_, ps1, ps2, pslo, pshi, plt, pl⟩ := P
  obtain ⟨F0, F1, F2, F3, F4⟩ := F
  simp [decodeNat, Instr.canonical, decode5, decJob, subF, waveOf, getOr, req, bitAt, fin8, fin16, fin64, Bind.bind, Except.bind, Pure.pure, Except.pure, pc, po, pv, p52, p53, p54, p55, psc, pl2, pg, pd_, ps1, ps2, pslo, pshi, pl, F0, F1, F2, F3, F4]

theorem Encoding.hdumpInit (d s1 s2 : Fin 16) (w : Wave) : Encoding.Statement (.hdumpInit d s1 s2 w) := by
  have b0 := Fin.isLt d
  have b1 := Fin.isLt s1
  have b2 := Fin.isLt s2
  have b3 := BitVec.isLt w.s
  have b4 := BitVec.isLt w.p
  have b5 := BitVec.isLt w.n
  refine Encoding.of_parts rfl ?_ ?_ ?_ ?_ ?_ ?_ ?_ fun hwf W low hlow P => ?_
  any_goals first | (simp only [enc_zero_mul, enc_add_zero, enc_zero_add, Wave.code]; omega) | omega
  try simp only [enc_zero_mul, enc_add_zero, enc_zero_add, Wave.code] at hlow
  have F : fld low 24 4 = 2 ∧ fld low 0 24 = w.s.toNat * 65536 + w.p.toNat * 256 + w.n.toNat ∧ fld low 16 8 = w.s.toNat ∧ fld low 8 8 = w.p.toNat ∧ fld low 0 8 = w.n.toNat := by
    simp only [fld]; omega
  clear hlow
  obtain ⟨pc, po, pv, p52, p53, p54, p55, psc, pl2, pg, pd_, ps1, ps2, pslo, pshi, plt, pl⟩ := P
  obtain ⟨F0, F1, F2, F3, F4⟩ := F
  simp [decodeNat, Instr.canonical, decode5, decJob, subF, waveOf, getOr, req, bitAt, fin8, fin16, fin64, Bind.bind, Except.bind, Pure.pure, Except.pure, pc, po, pv, p52, p53, p54, p55, psc, pl2, pg, pd_, ps1, ps2, pslo, pshi, pl, F0, F1, F2, F3, F4]

theorem Encoding.hand (ps : PSet) : Encoding.Statement (.hand ps) := by
  cases ps with
  | none =>
    refine Encoding.of_parts rfl ?_ ?_ ?_ ?_ ?_ ?_ ?_ fun hwf W low hlow P => ?_
    any_goals first | (simp only [enc_zero_mul, enc_add_zero, enc_zero_add, psEnc]; omega) | omega
    try simp only [enc_zero_mul, enc_add_zero, enc_zero_add, psEnc] at hlow
    have F : fld low 24 4 = 0 ∧ fld low 16 8 = 0 ∧ fld low 15 1 = 0 ∧ fld low 12 3 = 0 ∧ fld low 11 1 = 0 ∧ fld low 11 4 = 0 ∧ fld low 0 11 = 0 ∧ fld low 4 7 = 0 ∧ fld low 3 8 = 0 ∧ fld low 0 4 = 0 ∧ fld low 0 3 = 0 ∧ fld low 23 1 = 0 ∧ fld low 20 3 = 0 ∧ fld low 19 1 = 0 ∧ fld low 16 3 = 0 ∧ fld low 0 12 = 0 := by
      simp only [fld]; omega
    clear hlow
    obtain ⟨pc, po, pv, p52, p53, p54, p55, psc, pl2, pg, pd_, ps1, ps2, pslo, pshi, plt, pl⟩ := P
    obtain ⟨F0, F1, F2, F3, F4, F5, F6, F7, F8, F9, F10, F11, F12, F13, F14, F15⟩ := F
    simp [decodeNat, Instr.canonical, decode6, psOf, flowClean, subF, getOr, req, bitAt, fin8, fin16, fin64, Bind.bind, Except.bind, Pure.pure, Except.pure, pc, po, pv, p52, p53, p54, p55, psc, pl2, pg, pd_, ps1, ps2, pslo, pshi, pl, F0, F1, F2, F3, F4, F5, F6, F7, F8, F9, F10, F11, F12, F13, F14, F15]
  | some x =>
    obtain ⟨q0, y0⟩ := x
    have b0 := Fin.isLt q0
    have b1 := Bool.toNat_lt y0
    refine Encoding.of_parts rfl ?_ ?_ ?_ ?_ ?_ ?_ ?_ fun hwf W low hlow P => ?_
    any_goals first | (simp only [enc_zero_mul, enc_add_zero, enc_zero_add, psEnc]; omega) | omega
    try simp only [enc_zero_mul, enc_add_zero, enc_zero_add, psEnc] at hlow
    have F : fld low 24 4 = 0 ∧ fld low 16 8 = 0 ∧ fld low 15 1 = 1 ∧ fld low 12 3 = q0.val ∧ fld low 11 1 = y0.toNat ∧ fld low 11 4 = q0.val * 2 + y0.toNat ∧ fld low 0 11 = 0 ∧ fld low 4 7 = 0 ∧ fld low 3 8 = 0 ∧ fld low 0 4 = 0 ∧ fld low 0 3 = 0 ∧ fld low 23 1 = 0 ∧ fld low 20 3 = 0 ∧ fld low 19 1 = 0 ∧ fld low 16 3 = 0 ∧ fld low 0 12 = y0.toNat * 2048 := by
      simp only [fld]; omega
    clear hlow
    obtain ⟨pc, po, pv, p52, p53, p54, p55, psc, pl2, pg, pd_, ps1, ps2, pslo, pshi, plt, pl⟩ := P
    obtain ⟨F0, F1, F2, F3, F4, F5, F6, F7, F8, F9, F10, F11, F12, F13, F14, F15⟩ := F
    simp [decodeNat, Instr.canonical, decode6, psOf, flowClean, subF, getOr, req, bitAt, fin8, fin16, fin64, Bind.bind, Except.bind, Pure.pure, Except.pure, pc, po, pv, p52, p53, p54, p55, psc, pl2, pg, pd_, ps1, ps2, pslo, pshi, pl, F0, F1, F2, F3, F4, F5, F6, F7, F8, F9, F10, F11, F12, F13, F14, F15]

theorem Encoding.emit (oq : Fin 8) (src : EmitSrc) (ps : PSet) : Encoding.Statement (.emit oq src ps) := by
  cases src with
  | reg x0 =>
    cases ps with
    | none =>
      have b0 := iqSp_lt oq
      have b1 := oqSp_lt oq
      have b2 := vSp_lt x0
      have b3 := Fin.isLt oq
      have b4 := Fin.isLt x0
      refine Encoding.of_parts rfl ?_ ?_ ?_ ?_ ?_ ?_ ?_ fun hwf W low hlow P => ?_
      any_goals first | (simp only [enc_zero_mul, enc_add_zero, enc_zero_add, psEnc]; omega) | omega
      try simp only [enc_zero_mul, enc_add_zero, enc_zero_add, psEnc] at hlow
      have F : fld low 24 4 = 0 ∧ fld low 16 8 = 0 ∧ fld low 15 1 = 0 ∧ fld low 12 3 = 0 ∧ fld low 11 1 = 0 ∧ fld low 11 4 = 0 ∧ fld low 0 11 = 0 ∧ fld low 4 7 = 0 ∧ fld low 3 8 = 0 ∧ fld low 0 4 = 0 ∧ fld low 0 3 = 0 ∧ fld low 23 1 = 0 ∧ fld low 20 3 = 0 ∧ fld low 19 1 = 0 ∧ fld low 16 3 = 0 ∧ fld low 0 12 = 0 := by
        simp only [fld]; omega
      clear hlow
      obtain ⟨pc, po, pv, p52, p53, p54, p55, psc, pl2, pg, pd_, ps1, ps2, pslo, pshi, plt, pl⟩ := P
      obtain ⟨F0, F1, F2, F3, F4, F5, F6, F7, F8, F9, F10, F11, F12, F13, F14, F15⟩ := F
      simp [decodeNat, Instr.canonical, decode6, psOf, flowClean, subF, getOr, req, bitAt, fin8, fin16, fin64, Bind.bind, Except.bind, Pure.pure, Except.pure, pc, po, pv, p52, p53, p54, p55, psc, pl2, pg, pd_, ps1, ps2, pslo, pshi, pl, F0, F1, F2, F3, F4, F5, F6, F7, F8, F9, F10, F11, F12, F13, F14, F15]
    | some x =>
      obtain ⟨q0, y0⟩ := x
      have b0 := iqSp_lt oq
      have b1 := oqSp_lt oq
      have b2 := vSp_lt x0
      have b3 := iqSp_lt q0
      have b4 := oqSp_lt q0
      have b5 := Fin.isLt oq
      have b6 := Fin.isLt x0
      have b7 := Fin.isLt q0
      have b8 := Bool.toNat_lt y0
      refine Encoding.of_parts rfl ?_ ?_ ?_ ?_ ?_ ?_ ?_ fun hwf W low hlow P => ?_
      any_goals first | (simp only [enc_zero_mul, enc_add_zero, enc_zero_add, psEnc]; omega) | omega
      try simp only [enc_zero_mul, enc_add_zero, enc_zero_add, psEnc] at hlow
      have F : fld low 24 4 = 0 ∧ fld low 16 8 = 0 ∧ fld low 15 1 = 1 ∧ fld low 12 3 = q0.val ∧ fld low 11 1 = y0.toNat ∧ fld low 11 4 = q0.val * 2 + y0.toNat ∧ fld low 0 11 = 0 ∧ fld low 4 7 = 0 ∧ fld low 3 8 = 0 ∧ fld low 0 4 = 0 ∧ fld low 0 3 = 0 ∧ fld low 23 1 = 0 ∧ fld low 20 3 = 0 ∧ fld low 19 1 = 0 ∧ fld low 16 3 = 0 ∧ fld low 0 12 = y0.toNat * 2048 := by
        simp only [fld]; omega
      clear hlow
      obtain ⟨pc, po, pv, p52, p53, p54, p55, psc, pl2, pg, pd_, ps1, ps2, pslo, pshi, plt, pl⟩ := P
      obtain ⟨F0, F1, F2, F3, F4, F5, F6, F7, F8, F9, F10, F11, F12, F13, F14, F15⟩ := F
      simp [decodeNat, Instr.canonical, decode6, psOf, flowClean, subF, getOr, req, bitAt, fin8, fin16, fin64, Bind.bind, Except.bind, Pure.pure, Except.pure, pc, po, pv, p52, p53, p54, p55, psc, pl2, pg, pd_, ps1, ps2, pslo, pshi, pl, F0, F1, F2, F3, F4, F5, F6, F7, F8, F9, F10, F11, F12, F13, F14, F15]
  | queue x0 =>
    cases ps with
    | none =>
      have b0 := iqSp_lt oq
      have b1 := oqSp_lt oq
      have b2 := iqSp_lt x0
      have b3 := oqSp_lt x0
      have b4 := Fin.isLt oq
      have b5 := Fin.isLt x0
      refine Encoding.of_parts rfl ?_ ?_ ?_ ?_ ?_ ?_ ?_ fun hwf W low hlow P => ?_
      any_goals first | (simp only [enc_zero_mul, enc_add_zero, enc_zero_add, psEnc]; omega) | omega
      try simp only [enc_zero_mul, enc_add_zero, enc_zero_add, psEnc] at hlow
      have F : fld low 24 4 = 0 ∧ fld low 16 8 = 0 ∧ fld low 15 1 = 0 ∧ fld low 12 3 = 0 ∧ fld low 11 1 = 0 ∧ fld low 11 4 = 0 ∧ fld low 0 11 = 0 ∧ fld low 4 7 = 0 ∧ fld low 3 8 = 0 ∧ fld low 0 4 = 0 ∧ fld low 0 3 = 0 ∧ fld low 23 1 = 0 ∧ fld low 20 3 = 0 ∧ fld low 19 1 = 0 ∧ fld low 16 3 = 0 ∧ fld low 0 12 = 0 := by
        simp only [fld]; omega
      clear hlow
      obtain ⟨pc, po, pv, p52, p53, p54, p55, psc, pl2, pg, pd_, ps1, ps2, pslo, pshi, plt, pl⟩ := P
      obtain ⟨F0, F1, F2, F3, F4, F5, F6, F7, F8, F9, F10, F11, F12, F13, F14, F15⟩ := F
      simp [decodeNat, Instr.canonical, decode6, psOf, flowClean, subF, getOr, req, bitAt, fin8, fin16, fin64, Bind.bind, Except.bind, Pure.pure, Except.pure, pc, po, pv, p52, p53, p54, p55, psc, pl2, pg, pd_, ps1, ps2, pslo, pshi, pl, F0, F1, F2, F3, F4, F5, F6, F7, F8, F9, F10, F11, F12, F13, F14, F15]
    | some x =>
      obtain ⟨q0, y0⟩ := x
      have b0 := iqSp_lt oq
      have b1 := oqSp_lt oq
      have b2 := iqSp_lt x0
      have b3 := oqSp_lt x0
      have b4 := iqSp_lt q0
      have b5 := oqSp_lt q0
      have b6 := Fin.isLt oq
      have b7 := Fin.isLt x0
      have b8 := Fin.isLt q0
      have b9 := Bool.toNat_lt y0
      refine Encoding.of_parts rfl ?_ ?_ ?_ ?_ ?_ ?_ ?_ fun hwf W low hlow P => ?_
      any_goals first | (simp only [enc_zero_mul, enc_add_zero, enc_zero_add, psEnc]; omega) | omega
      try simp only [enc_zero_mul, enc_add_zero, enc_zero_add, psEnc] at hlow
      have F : fld low 24 4 = 0 ∧ fld low 16 8 = 0 ∧ fld low 15 1 = 1 ∧ fld low 12 3 = q0.val ∧ fld low 11 1 = y0.toNat ∧ fld low 11 4 = q0.val * 2 + y0.toNat ∧ fld low 0 11 = 0 ∧ fld low 4 7 = 0 ∧ fld low 3 8 = 0 ∧ fld low 0 4 = 0 ∧ fld low 0 3 = 0 ∧ fld low 23 1 = 0 ∧ fld low 20 3 = 0 ∧ fld low 19 1 = 0 ∧ fld low 16 3 = 0 ∧ fld low 0 12 = y0.toNat * 2048 := by
        simp only [fld]; omega
      clear hlow
      obtain ⟨pc, po, pv, p52, p53, p54, p55, psc, pl2, pg, pd_, ps1, ps2, pslo, pshi, plt, pl⟩ := P
      obtain ⟨F0, F1, F2, F3, F4, F5, F6, F7, F8, F9, F10, F11, F12, F13, F14, F15⟩ := F
      simp [decodeNat, Instr.canonical, decode6, psOf, flowClean, subF, getOr, req, bitAt, fin8, fin16, fin64, Bind.bind, Except.bind, Pure.pure, Except.pure, pc, po, pv, p52, p53, p54, p55, psc, pl2, pg, pd_, ps1, ps2, pslo, pshi, pl, F0, F1, F2, F3, F4, F5, F6, F7, F8, F9, F10, F11, F12, F13, F14, F15]

theorem Encoding.deq (d : Fin 16) (q : Fin 8) (ps : PSet) : Encoding.Statement (.deq d q ps) := by
  cases ps with
  | none =>
    have b0 := vSp_lt d
    have b1 := iqSp_lt q
    have b2 := Fin.isLt d
    have b3 := Fin.isLt q
    refine Encoding.of_parts rfl ?_ ?_ ?_ ?_ ?_ ?_ ?_ fun hwf W low hlow P => ?_
    any_goals first | (simp only [enc_zero_mul, enc_add_zero, enc_zero_add, psEnc]; omega) | omega
    try simp only [enc_zero_mul, enc_add_zero, enc_zero_add, psEnc] at hlow
    have F : fld low 24 4 = 0 ∧ fld low 16 8 = 0 ∧ fld low 15 1 = 0 ∧ fld low 12 3 = 0 ∧ fld low 11 1 = 0 ∧ fld low 11 4 = 0 ∧ fld low 0 11 = 0 ∧ fld low 4 7 = 0 ∧ fld low 3 8 = 0 ∧ fld low 0 4 = 0 ∧ fld low 0 3 = 0 ∧ fld low 23 1 = 0 ∧ fld low 20 3 = 0 ∧ fld low 19 1 = 0 ∧ fld low 16 3 = 0 ∧ fld low 0 12 = 0 := by
      simp only [fld]; omega
    clear hlow
    obtain ⟨pc, po, pv, p52, p53, p54, p55, psc, pl2, pg, pd_, ps1, ps2, pslo, pshi, plt, pl⟩ := P
    obtain ⟨F0, F1, F2, F3, F4, F5, F6, F7, F8, F9, F10, F11, F12, F13, F14, F15⟩ := F
    simp [decodeNat, Instr.canonical, decode6, psOf, flowClean, subF, getOr, req, bitAt, fin8, fin16, fin64, Bind.bind, Except.bind, Pure.pure, Except.pure, pc, po, pv, p52, p53, p54, p55, psc, pl2, pg, pd_, ps1, ps2, pslo, pshi, pl, F0, F1, F2, F3, F4, F5, F6, F7, F8, F9, F10, F11, F12, F13, F14, F15]
  | some x =>
    obtain ⟨q0, y0⟩ := x
    have b0 := vSp_lt d
    have b1 := iqSp_lt q
    have b2 := iqSp_lt q0
    have b3 := Fin.isLt d
    have b4 := Fin.isLt q
    have b5 := Fin.isLt q0
    have b6 := Bool.toNat_lt y0
    refine Encoding.of_parts rfl ?_ ?_ ?_ ?_ ?_ ?_ ?_ fun hwf W low hlow P => ?_
    any_goals first | (simp only [enc_zero_mul, enc_add_zero, enc_zero_add, psEnc]; omega) | omega
    try simp only [enc_zero_mul, enc_add_zero, enc_zero_add, psEnc] at hlow
    have F : fld low 24 4 = 0 ∧ fld low 16 8 = 0 ∧ fld low 15 1 = 1 ∧ fld low 12 3 = q0.val ∧ fld low 11 1 = y0.toNat ∧ fld low 11 4 = q0.val * 2 + y0.toNat ∧ fld low 0 11 = 0 ∧ fld low 4 7 = 0 ∧ fld low 3 8 = 0 ∧ fld low 0 4 = 0 ∧ fld low 0 3 = 0 ∧ fld low 23 1 = 0 ∧ fld low 20 3 = 0 ∧ fld low 19 1 = 0 ∧ fld low 16 3 = 0 ∧ fld low 0 12 = y0.toNat * 2048 := by
      simp only [fld]; omega
    clear hlow
    obtain ⟨pc, po, pv, p52, p53, p54, p55, psc, pl2, pg, pd_, ps1, ps2, pslo, pshi, plt, pl⟩ := P
    obtain ⟨F0, F1, F2, F3, F4, F5, F6, F7, F8, F9, F10, F11, F12, F13, F14, F15⟩ := F
    simp [decodeNat, Instr.canonical, decode6, psOf, flowClean, subF, getOr, req, bitAt, fin8, fin16, fin64, Bind.bind, Except.bind, Pure.pure, Except.pure, pc, po, pv, p52, p53, p54, p55, psc, pl2, pg, pd_, ps1, ps2, pslo, pshi, pl, F0, F1, F2, F3, F4, F5, F6, F7, F8, F9, F10, F11, F12, F13, F14, F15]

theorem Encoding.deqDiscard (q : Fin 8) (ps : PSet) : Encoding.Statement (.deqDiscard q ps) := by
  cases ps with
  | none =>
    have b0 := iqSp_lt q
    have b1 := Fin.isLt q
    refine Encoding.of_parts rfl ?_ ?_ ?_ ?_ ?_ ?_ ?_ fun hwf W low hlow P => ?_
    any_goals first | (simp only [enc_zero_mul, enc_add_zero, enc_zero_add, psEnc]; omega) | omega
    try simp only [enc_zero_mul, enc_add_zero, enc_zero_add, psEnc] at hlow
    have F : fld low 24 4 = 1 ∧ fld low 16 8 = 0 ∧ fld low 15 1 = 0 ∧ fld low 12 3 = 0 ∧ fld low 11 1 = 0 ∧ fld low 11 4 = 0 ∧ fld low 0 11 = 0 ∧ fld low 4 7 = 0 ∧ fld low 3 8 = 0 ∧ fld low 0 4 = 0 ∧ fld low 0 3 = 0 ∧ fld low 23 1 = 0 ∧ fld low 20 3 = 0 ∧ fld low 19 1 = 0 ∧ fld low 16 3 = 0 ∧ fld low 0 12 = 0 := by
      simp only [fld]; omega
    clear hlow
    obtain ⟨pc, po, pv, p52, p53, p54, p55, psc, pl2, pg, pd_, ps1, ps2, pslo, pshi, plt, pl⟩ := P
    obtain ⟨F0, F1, F2, F3, F4, F5, F6, F7, F8, F9, F10, F11, F12, F13, F14, F15⟩ := F
    simp [decodeNat, Instr.canonical, decode6, psOf, flowClean, subF, getOr, req, bitAt, fin8, fin16, fin64, Bind.bind, Except.bind, Pure.pure, Except.pure, pc, po, pv, p52, p53, p54, p55, psc, pl2, pg, pd_, ps1, ps2, pslo, pshi, pl, F0, F1, F2, F3, F4, F5, F6, F7, F8, F9, F10, F11, F12, F13, F14, F15]
  | some x =>
    obtain ⟨q0, y0⟩ := x
    have b0 := iqSp_lt q
    have b1 := iqSp_lt q0
    have b2 := Fin.isLt q
    have b3 := Fin.isLt q0
    have b4 := Bool.toNat_lt y0
    refine Encoding.of_parts rfl ?_ ?_ ?_ ?_ ?_ ?_ ?_ fun hwf W low hlow P => ?_
    any_goals first | (simp only [enc_zero_mul, enc_add_zero, enc_zero_add, psEnc]; omega) | omega
    try simp only [enc_zero_mul, enc_add_zero, enc_zero_add, psEnc] at hlow
    have F : fld low 24 4 = 1 ∧ fld low 16 8 = 0 ∧ fld low 15 1 = 1 ∧ fld low 12 3 = q0.val ∧ fld low 11 1 = y0.toNat ∧ fld low 11 4 = q0.val * 2 + y0.toNat ∧ fld low 0 11 = 0 ∧ fld low 4 7 = 0 ∧ fld low 3 8 = 0 ∧ fld low 0 4 = 0 ∧ fld low 0 3 = 0 ∧ fld low 23 1 = 0 ∧ fld low 20 3 = 0 ∧ fld low 19 1 = 0 ∧ fld low 16 3 = 0 ∧ fld low 0 12 = y0.toNat * 2048 := by
      simp only [fld]; omega
    clear hlow
    obtain ⟨pc, po, pv, p52, p53, p54, p55, psc, pl2, pg, pd_, ps1, ps2, pslo, pshi, plt, pl⟩ := P
    obtain ⟨F0, F1, F2, F3, F4, F5, F6, F7, F8, F9, F10, F11, F12, F13, F14, F15⟩ := F
    simp [decodeNat, Instr.canonical, decode6, psOf, flowClean, subF, getOr, req, bitAt, fin8, fin16, fin64, Bind.bind, Except.bind, Pure.pure, Except.pure, pc, po, pv, p52, p53, p54, p55, psc, pl2, pg, pd_, ps1, ps2, pslo, pshi, pl, F0, F1, F2, F3, F4, F5, F6, F7, F8, F9, F10, F11, F12, F13, F14, F15]

theorem Encoding.hdr (d : Fin 16) (q : Fin 8) (f : HField) (ps : PSet) : Encoding.Statement (.hdr d q f ps) := by
  cases ps with
  | none =>
    have b0 := iqSp_lt q
    have b1 := Fin.isLt d
    have b2 := Fin.isLt q
    have b3 := HField.code_lt f
    refine Encoding.of_parts rfl ?_ ?_ ?_ ?_ ?_ ?_ ?_ fun hwf W low hlow P => ?_
    any_goals first | (simp only [enc_zero_mul, enc_add_zero, enc_zero_add, psEnc]; omega) | omega
    try simp only [enc_zero_mul, enc_add_zero, enc_zero_add, psEnc] at hlow
    have F : fld low 24 4 = 0 ∧ fld low 16 8 = 0 ∧ fld low 15 1 = 0 ∧ fld low 12 3 = 0 ∧ fld low 11 1 = 0 ∧ fld low 11 4 = 0 ∧ fld low 0 11 = f.code ∧ fld low 4 7 = 0 ∧ fld low 0 4 = f.code ∧ fld low 23 1 = 0 ∧ fld low 20 3 = 0 ∧ fld low 19 1 = 0 ∧ fld low 16 3 = 0 ∧ fld low 0 12 = f.code := by
      simp only [fld]; omega
    clear hlow
    obtain ⟨pc, po, pv, p52, p53, p54, p55, psc, pl2, pg, pd_, ps1, ps2, pslo, pshi, plt, pl⟩ := P
    obtain ⟨F0, F1, F2, F3, F4, F5, F6, F7, F8, F9, F10, F11, F12, F13⟩ := F
    simp [decodeNat, Instr.canonical, decode6, psOf, flowClean, subF, getOr, req, bitAt, fin8, fin16, fin64, Bind.bind, Except.bind, Pure.pure, Except.pure, pc, po, pv, p52, p53, p54, p55, psc, pl2, pg, pd_, ps1, ps2, pslo, pshi, pl, F0, F1, F2, F3, F4, F5, F6, F7, F8, F9, F10, F11, F12, F13]
  | some x =>
    obtain ⟨q0, y0⟩ := x
    have b0 := iqSp_lt q
    have b1 := iqSp_lt q0
    have b2 := Fin.isLt d
    have b3 := Fin.isLt q
    have b4 := HField.code_lt f
    have b5 := Fin.isLt q0
    have b6 := Bool.toNat_lt y0
    refine Encoding.of_parts rfl ?_ ?_ ?_ ?_ ?_ ?_ ?_ fun hwf W low hlow P => ?_
    any_goals first | (simp only [enc_zero_mul, enc_add_zero, enc_zero_add, psEnc]; omega) | omega
    try simp only [enc_zero_mul, enc_add_zero, enc_zero_add, psEnc] at hlow
    have F : fld low 24 4 = 0 ∧ fld low 16 8 = 0 ∧ fld low 15 1 = 1 ∧ fld low 12 3 = q0.val ∧ fld low 11 1 = y0.toNat ∧ fld low 11 4 = q0.val * 2 + y0.toNat ∧ fld low 0 11 = f.code ∧ fld low 4 7 = 0 ∧ fld low 0 4 = f.code ∧ fld low 23 1 = 0 ∧ fld low 20 3 = 0 ∧ fld low 19 1 = 0 ∧ fld low 16 3 = 0 ∧ fld low 0 12 = y0.toNat * 2048 + f.code := by
      simp only [fld]; omega
    clear hlow
    obtain ⟨pc, po, pv, p52, p53, p54, p55, psc, pl2, pg, pd_, ps1, ps2, pslo, pshi, plt, pl⟩ := P
    obtain ⟨F0, F1, F2, F3, F4, F5, F6, F7, F8, F9, F10, F11, F12, F13⟩ := F
    simp [decodeNat, Instr.canonical, decode6, psOf, flowClean, subF, getOr, req, bitAt, fin8, fin16, fin64, Bind.bind, Except.bind, Pure.pure, Except.pure, pc, po, pv, p52, p53, p54, p55, psc, pl2, pg, pd_, ps1, ps2, pslo, pshi, pl, F0, F1, F2, F3, F4, F5, F6, F7, F8, F9, F10, F11, F12, F13]

theorem Encoding.hdrOwn (d : Fin 16) (f : HField) (ps : PSet) : Encoding.Statement (.hdrOwn d f ps) := by
  cases ps with
  | none =>
    have b0 := Fin.isLt d
    have b1 := HField.code_lt f
    refine Encoding.of_parts rfl ?_ ?_ ?_ ?_ ?_ ?_ ?_ fun hwf W low hlow P => ?_
    any_goals first | (simp only [enc_zero_mul, enc_add_zero, enc_zero_add, psEnc]; omega) | omega
    try simp only [enc_zero_mul, enc_add_zero, enc_zero_add, psEnc] at hlow
    have F : fld low 24 4 = 1 ∧ fld low 16 8 = 0 ∧ fld low 15 1 = 0 ∧ fld low 12 3 = 0 ∧ fld low 11 1 = 0 ∧ fld low 11 4 = 0 ∧ fld low 0 11 = f.code ∧ fld low 4 7 = 0 ∧ fld low 0 4 = f.code ∧ fld low 23 1 = 0 ∧ fld low 20 3 = 0 ∧ fld low 19 1 = 0 ∧ fld low 16 3 = 0 ∧ fld low 0 12 = f.code := by
      simp only [fld]; omega
    clear hlow
    obtain ⟨pc, po, pv, p52, p53, p54, p55, psc, pl2, pg, pd_, ps1, ps2, pslo, pshi, plt, pl⟩ := P
    obtain ⟨F0, F1, F2, F3, F4, F5, F6, F7, F8, F9, F10, F11, F12, F13⟩ := F
    simp [decodeNat, Instr.canonical, decode6, psOf, flowClean, subF, getOr, req, bitAt, fin8, fin16, fin64, Bind.bind, Except.bind, Pure.pure, Except.pure, pc, po, pv, p52, p53, p54, p55, psc, pl2, pg, pd_, ps1, ps2, pslo, pshi, pl, F0, F1, F2, F3, F4, F5, F6, F7, F8, F9, F10, F11, F12, F13]
  | some x =>
    obtain ⟨q0, y0⟩ := x
    have b0 := Fin.isLt d
    have b1 := HField.code_lt f
    have b2 := Fin.isLt q0
    have b3 := Bool.toNat_lt y0
    refine Encoding.of_parts rfl ?_ ?_ ?_ ?_ ?_ ?_ ?_ fun hwf W low hlow P => ?_
    any_goals first | (simp only [enc_zero_mul, enc_add_zero, enc_zero_add, psEnc]; omega) | omega
    try simp only [enc_zero_mul, enc_add_zero, enc_zero_add, psEnc] at hlow
    have F : fld low 24 4 = 1 ∧ fld low 16 8 = 0 ∧ fld low 15 1 = 1 ∧ fld low 12 3 = q0.val ∧ fld low 11 1 = y0.toNat ∧ fld low 11 4 = q0.val * 2 + y0.toNat ∧ fld low 0 11 = f.code ∧ fld low 4 7 = 0 ∧ fld low 0 4 = f.code ∧ fld low 23 1 = 0 ∧ fld low 20 3 = 0 ∧ fld low 19 1 = 0 ∧ fld low 16 3 = 0 ∧ fld low 0 12 = y0.toNat * 2048 + f.code := by
      simp only [fld]; omega
    clear hlow
    obtain ⟨pc, po, pv, p52, p53, p54, p55, psc, pl2, pg, pd_, ps1, ps2, pslo, pshi, plt, pl⟩ := P
    obtain ⟨F0, F1, F2, F3, F4, F5, F6, F7, F8, F9, F10, F11, F12, F13⟩ := F
    simp [decodeNat, Instr.canonical, decode6, psOf, flowClean, subF, getOr, req, bitAt, fin8, fin16, fin64, Bind.bind, Except.bind, Pure.pure, Except.pure, pc, po, pv, p52, p53, p54, p55, psc, pl2, pg, pd_, ps1, ps2, pslo, pshi, pl, F0, F1, F2, F3, F4, F5, F6, F7, F8, F9, F10, F11, F12, F13]

theorem Encoding.sethdr (f : HField) (s1 : Fin 16) (ps : PSet) : Encoding.Statement (.sethdr f s1 ps) := by
  cases ps with
  | none =>
    have b0 := HField.code_lt f
    have b1 := Fin.isLt s1
    refine Encoding.of_parts rfl ?_ ?_ ?_ ?_ ?_ ?_ ?_ fun hwf W low hlow P => ?_
    any_goals first | (simp only [enc_zero_mul, enc_add_zero, enc_zero_add, psEnc]; omega) | omega
    try simp only [enc_zero_mul, enc_add_zero, enc_zero_add, psEnc] at hlow
    simp [Instr.wellFormed, vecOk, noRound, VAmount.ok] at hwf
    have F : fld low 24 4 = 0 ∧ fld low 16 8 = 0 ∧ fld low 15 1 = 0 ∧ fld low 12 3 = 0 ∧ fld low 11 1 = 0 ∧ fld low 11 4 = 0 ∧ fld low 0 11 = f.code ∧ fld low 4 7 = 0 ∧ fld low 0 4 = f.code ∧ fld low 23 1 = 0 ∧ fld low 20 3 = 0 ∧ fld low 19 1 = 0 ∧ fld low 16 3 = 0 ∧ fld low 0 12 = f.code := by
      simp only [fld]; omega
    clear hlow
    obtain ⟨pc, po, pv, p52, p53, p54, p55, psc, pl2, pg, pd_, ps1, ps2, pslo, pshi, plt, pl⟩ := P
    obtain ⟨F0, F1, F2, F3, F4, F5, F6, F7, F8, F9, F10, F11, F12, F13⟩ := F
    simp [decodeNat, Instr.canonical, decode6, psOf, flowClean, subF, getOr, req, bitAt, fin8, fin16, fin64, Bind.bind, Except.bind, Pure.pure, Except.pure, pc, po, pv, p52, p53, p54, p55, psc, pl2, pg, pd_, ps1, ps2, pslo, pshi, pl, F0, F1, F2, F3, F4, F5, F6, F7, F8, F9, F10, F11, F12, F13, hwf]
    cases f <;> simp_all [setFieldOf, HField.code]
  | some x =>
    obtain ⟨q0, y0⟩ := x
    have b0 := HField.code_lt f
    have b1 := Fin.isLt s1
    have b2 := Fin.isLt q0
    have b3 := Bool.toNat_lt y0
    refine Encoding.of_parts rfl ?_ ?_ ?_ ?_ ?_ ?_ ?_ fun hwf W low hlow P => ?_
    any_goals first | (simp only [enc_zero_mul, enc_add_zero, enc_zero_add, psEnc]; omega) | omega
    try simp only [enc_zero_mul, enc_add_zero, enc_zero_add, psEnc] at hlow
    simp [Instr.wellFormed, vecOk, noRound, VAmount.ok] at hwf
    have F : fld low 24 4 = 0 ∧ fld low 16 8 = 0 ∧ fld low 15 1 = 1 ∧ fld low 12 3 = q0.val ∧ fld low 11 1 = y0.toNat ∧ fld low 11 4 = q0.val * 2 + y0.toNat ∧ fld low 0 11 = f.code ∧ fld low 4 7 = 0 ∧ fld low 0 4 = f.code ∧ fld low 23 1 = 0 ∧ fld low 20 3 = 0 ∧ fld low 19 1 = 0 ∧ fld low 16 3 = 0 ∧ fld low 0 12 = y0.toNat * 2048 + f.code := by
      simp only [fld]; omega
    clear hlow
    obtain ⟨pc, po, pv, p52, p53, p54, p55, psc, pl2, pg, pd_, ps1, ps2, pslo, pshi, plt, pl⟩ := P
    obtain ⟨F0, F1, F2, F3, F4, F5, F6, F7, F8, F9, F10, F11, F12, F13⟩ := F
    simp [decodeNat, Instr.canonical, decode6, psOf, flowClean, subF, getOr, req, bitAt, fin8, fin16, fin64, Bind.bind, Except.bind, Pure.pure, Except.pure, pc, po, pv, p52, p53, p54, p55, psc, pl2, pg, pd_, ps1, ps2, pslo, pshi, pl, F0, F1, F2, F3, F4, F5, F6, F7, F8, F9, F10, F11, F12, F13, hwf]
    cases f <;> simp_all [setFieldOf, HField.code]

theorem Encoding.route (oq : Fin 8) (e : ImmOrG) (ps : PSet) : Encoding.Statement (.route oq e ps) := by
  cases e with
  | imm x0 =>
    cases ps with
    | none =>
      have b0 := oqSp_lt oq
      have b1 := Fin.isLt oq
      have b2 := Fin.isLt x0
      refine Encoding.of_parts rfl ?_ ?_ ?_ ?_ ?_ ?_ ?_ fun hwf W low hlow P => ?_
      any_goals first | (simp only [enc_zero_mul, enc_add_zero, enc_zero_add, psEnc]; omega) | omega
      try simp only [enc_zero_mul, enc_add_zero, enc_zero_add, psEnc] at hlow
      have F : fld low 24 4 = 0 ∧ fld low 16 8 = 0 ∧ fld low 15 1 = 0 ∧ fld low 12 3 = 0 ∧ fld low 11 1 = 0 ∧ fld low 11 4 = 0 ∧ fld low 0 11 = x0.val ∧ fld low 4 7 = 0 ∧ fld low 0 4 = x0.val ∧ fld low 23 1 = 0 ∧ fld low 20 3 = 0 ∧ fld low 19 1 = 0 ∧ fld low 16 3 = 0 ∧ fld low 0 12 = x0.val := by
        simp only [fld]; omega
      clear hlow
      obtain ⟨pc, po, pv, p52, p53, p54, p55, psc, pl2, pg, pd_, ps1, ps2, pslo, pshi, plt, pl⟩ := P
      obtain ⟨F0, F1, F2, F3, F4, F5, F6, F7, F8, F9, F10, F11, F12, F13⟩ := F
      simp [decodeNat, Instr.canonical, decode6, psOf, flowClean, subF, getOr, req, bitAt, fin8, fin16, fin64, Bind.bind, Except.bind, Pure.pure, Except.pure, pc, po, pv, p52, p53, p54, p55, psc, pl2, pg, pd_, ps1, ps2, pslo, pshi, pl, F0, F1, F2, F3, F4, F5, F6, F7, F8, F9, F10, F11, F12, F13]
    | some x =>
      obtain ⟨q0, y0⟩ := x
      have b0 := oqSp_lt oq
      have b1 := oqSp_lt q0
      have b2 := Fin.isLt oq
      have b3 := Fin.isLt x0
      have b4 := Fin.isLt q0
      have b5 := Bool.toNat_lt y0
      refine Encoding.of_parts rfl ?_ ?_ ?_ ?_ ?_ ?_ ?_ fun hwf W low hlow P => ?_
      any_goals first | (simp only [enc_zero_mul, enc_add_zero, enc_zero_add, psEnc]; omega) | omega
      try simp only [enc_zero_mul, enc_add_zero, enc_zero_add, psEnc] at hlow
      have F : fld low 24 4 = 0 ∧ fld low 16 8 = 0 ∧ fld low 15 1 = 1 ∧ fld low 12 3 = q0.val ∧ fld low 11 1 = y0.toNat ∧ fld low 11 4 = q0.val * 2 + y0.toNat ∧ fld low 0 11 = x0.val ∧ fld low 4 7 = 0 ∧ fld low 0 4 = x0.val ∧ fld low 23 1 = 0 ∧ fld low 20 3 = 0 ∧ fld low 19 1 = 0 ∧ fld low 16 3 = 0 ∧ fld low 0 12 = y0.toNat * 2048 + x0.val := by
        simp only [fld]; omega
      clear hlow
      obtain ⟨pc, po, pv, p52, p53, p54, p55, psc, pl2, pg, pd_, ps1, ps2, pslo, pshi, plt, pl⟩ := P
      obtain ⟨F0, F1, F2, F3, F4, F5, F6, F7, F8, F9, F10, F11, F12, F13⟩ := F
      simp [decodeNat, Instr.canonical, decode6, psOf, flowClean, subF, getOr, req, bitAt, fin8, fin16, fin64, Bind.bind, Except.bind, Pure.pure, Except.pure, pc, po, pv, p52, p53, p54, p55, psc, pl2, pg, pd_, ps1, ps2, pslo, pshi, pl, F0, F1, F2, F3, F4, F5, F6, F7, F8, F9, F10, F11, F12, F13]
  | reg x0 =>
    cases ps with
    | none =>
      have b0 := oqSp_lt oq
      have b1 := Fin.isLt oq
      have b2 := Fin.isLt x0
      refine Encoding.of_parts rfl ?_ ?_ ?_ ?_ ?_ ?_ ?_ fun hwf W low hlow P => ?_
      any_goals first | (simp only [enc_zero_mul, enc_add_zero, enc_zero_add, psEnc]; omega) | omega
      try simp only [enc_zero_mul, enc_add_zero, enc_zero_add, psEnc] at hlow
      have F : fld low 24 4 = 1 ∧ fld low 16 8 = 0 ∧ fld low 15 1 = 0 ∧ fld low 12 3 = 0 ∧ fld low 11 1 = 0 ∧ fld low 11 4 = 0 ∧ fld low 0 11 = 0 ∧ fld low 4 7 = 0 ∧ fld low 3 8 = 0 ∧ fld low 0 4 = 0 ∧ fld low 0 3 = 0 ∧ fld low 23 1 = 0 ∧ fld low 20 3 = 0 ∧ fld low 19 1 = 0 ∧ fld low 16 3 = 0 ∧ fld low 0 12 = 0 := by
        simp only [fld]; omega
      clear hlow
      obtain ⟨pc, po, pv, p52, p53, p54, p55, psc, pl2, pg, pd_, ps1, ps2, pslo, pshi, plt, pl⟩ := P
      obtain ⟨F0, F1, F2, F3, F4, F5, F6, F7, F8, F9, F10, F11, F12, F13, F14, F15⟩ := F
      simp [decodeNat, Instr.canonical, decode6, psOf, flowClean, subF, getOr, req, bitAt, fin8, fin16, fin64, Bind.bind, Except.bind, Pure.pure, Except.pure, pc, po, pv, p52, p53, p54, p55, psc, pl2, pg, pd_, ps1, ps2, pslo, pshi, pl, F0, F1, F2, F3, F4, F5, F6, F7, F8, F9, F10, F11, F12, F13, F14, F15]
    | some x =>
      obtain ⟨q0, y0⟩ := x
      have b0 := oqSp_lt oq
      have b1 := oqSp_lt q0
      have b2 := Fin.isLt oq
      have b3 := Fin.isLt x0
      have b4 := Fin.isLt q0
      have b5 := Bool.toNat_lt y0
      refine Encoding.of_parts rfl ?_ ?_ ?_ ?_ ?_ ?_ ?_ fun hwf W low hlow P => ?_
      any_goals first | (simp only [enc_zero_mul, enc_add_zero, enc_zero_add, psEnc]; omega) | omega
      try simp only [enc_zero_mul, enc_add_zero, enc_zero_add, psEnc] at hlow
      have F : fld low 24 4 = 1 ∧ fld low 16 8 = 0 ∧ fld low 15 1 = 1 ∧ fld low 12 3 = q0.val ∧ fld low 11 1 = y0.toNat ∧ fld low 11 4 = q0.val * 2 + y0.toNat ∧ fld low 0 11 = 0 ∧ fld low 4 7 = 0 ∧ fld low 3 8 = 0 ∧ fld low 0 4 = 0 ∧ fld low 0 3 = 0 ∧ fld low 23 1 = 0 ∧ fld low 20 3 = 0 ∧ fld low 19 1 = 0 ∧ fld low 16 3 = 0 ∧ fld low 0 12 = y0.toNat * 2048 := by
        simp only [fld]; omega
      clear hlow
      obtain ⟨pc, po, pv, p52, p53, p54, p55, psc, pl2, pg, pd_, ps1, ps2, pslo, pshi, plt, pl⟩ := P
      obtain ⟨F0, F1, F2, F3, F4, F5, F6, F7, F8, F9, F10, F11, F12, F13, F14, F15⟩ := F
      simp [decodeNat, Instr.canonical, decode6, psOf, flowClean, subF, getOr, req, bitAt, fin8, fin16, fin64, Bind.bind, Except.bind, Pure.pure, Except.pure, pc, po, pv, p52, p53, p54, p55, psc, pl2, pg, pd_, ps1, ps2, pslo, pshi, pl, F0, F1, F2, F3, F4, F5, F6, F7, F8, F9, F10, F11, F12, F13, F14, F15]

theorem Encoding.steer (p a b : Fin 8) : Encoding.Statement (.steer p a b) := by
  have b0 := Fin.isLt p
  have b1 := Fin.isLt a
  have b2 := Fin.isLt b
  refine Encoding.of_parts rfl ?_ ?_ ?_ ?_ ?_ ?_ ?_ fun hwf W low hlow P => ?_
  any_goals first | (simp only [enc_zero_mul, enc_add_zero, enc_zero_add]; omega) | omega
  try simp only [enc_zero_mul, enc_add_zero, enc_zero_add] at hlow
  simp [Instr.wellFormed, vecOk, noRound, VAmount.ok] at hwf
  have F : fld low 24 4 = 0 ∧ fld low 16 8 = 1 * 128 + a.val * 16 + 1 * 8 + b.val ∧ fld low 15 1 = 1 ∧ fld low 12 3 = p.val ∧ fld low 11 1 = 0 ∧ fld low 11 4 = p.val * 2 ∧ fld low 0 11 = 0 ∧ fld low 4 7 = 0 ∧ fld low 3 8 = 0 ∧ fld low 0 4 = 0 ∧ fld low 0 3 = 0 ∧ fld low 23 1 = 1 ∧ fld low 20 3 = a.val ∧ fld low 19 1 = 1 ∧ fld low 16 3 = b.val ∧ fld low 0 12 = 0 := by
    simp only [fld]; omega
  clear hlow
  obtain ⟨pc, po, pv, p52, p53, p54, p55, psc, pl2, pg, pd_, ps1, ps2, pslo, pshi, plt, pl⟩ := P
  obtain ⟨F0, F1, F2, F3, F4, F5, F6, F7, F8, F9, F10, F11, F12, F13, F14, F15⟩ := F
  simp [decodeNat, Instr.canonical, decode6, psOf, flowClean, subF, getOr, req, bitAt, fin8, fin16, fin64, Bind.bind, Except.bind, Pure.pure, Except.pure, pc, po, pv, p52, p53, p54, p55, psc, pl2, pg, pd_, ps1, ps2, pslo, pshi, pl, F0, F1, F2, F3, F4, F5, F6, F7, F8, F9, F10, F11, F12, F13, F14, F15, hwf]
  simp [Fin.val_inj, hwf]

theorem Encoding.cancel (oq : Fin 8) (ps : PSet) : Encoding.Statement (.cancel oq ps) := by
  cases ps with
  | none =>
    have b0 := oqSp_lt oq
    have b1 := Fin.isLt oq
    refine Encoding.of_parts rfl ?_ ?_ ?_ ?_ ?_ ?_ ?_ fun hwf W low hlow P => ?_
    any_goals first | (simp only [enc_zero_mul, enc_add_zero, enc_zero_add, psEnc]; omega) | omega
    try simp only [enc_zero_mul, enc_add_zero, enc_zero_add, psEnc] at hlow
    have F : fld low 24 4 = 0 ∧ fld low 16 8 = 0 ∧ fld low 15 1 = 0 ∧ fld low 12 3 = 0 ∧ fld low 11 1 = 0 ∧ fld low 11 4 = 0 ∧ fld low 0 11 = 0 ∧ fld low 4 7 = 0 ∧ fld low 3 8 = 0 ∧ fld low 0 4 = 0 ∧ fld low 0 3 = 0 ∧ fld low 23 1 = 0 ∧ fld low 20 3 = 0 ∧ fld low 19 1 = 0 ∧ fld low 16 3 = 0 ∧ fld low 0 12 = 0 := by
      simp only [fld]; omega
    clear hlow
    obtain ⟨pc, po, pv, p52, p53, p54, p55, psc, pl2, pg, pd_, ps1, ps2, pslo, pshi, plt, pl⟩ := P
    obtain ⟨F0, F1, F2, F3, F4, F5, F6, F7, F8, F9, F10, F11, F12, F13, F14, F15⟩ := F
    simp [decodeNat, Instr.canonical, decode6, psOf, flowClean, subF, getOr, req, bitAt, fin8, fin16, fin64, Bind.bind, Except.bind, Pure.pure, Except.pure, pc, po, pv, p52, p53, p54, p55, psc, pl2, pg, pd_, ps1, ps2, pslo, pshi, pl, F0, F1, F2, F3, F4, F5, F6, F7, F8, F9, F10, F11, F12, F13, F14, F15]
  | some x =>
    obtain ⟨q0, y0⟩ := x
    have b0 := oqSp_lt oq
    have b1 := oqSp_lt q0
    have b2 := Fin.isLt oq
    have b3 := Fin.isLt q0
    have b4 := Bool.toNat_lt y0
    refine Encoding.of_parts rfl ?_ ?_ ?_ ?_ ?_ ?_ ?_ fun hwf W low hlow P => ?_
    any_goals first | (simp only [enc_zero_mul, enc_add_zero, enc_zero_add, psEnc]; omega) | omega
    try simp only [enc_zero_mul, enc_add_zero, enc_zero_add, psEnc] at hlow
    have F : fld low 24 4 = 0 ∧ fld low 16 8 = 0 ∧ fld low 15 1 = 1 ∧ fld low 12 3 = q0.val ∧ fld low 11 1 = y0.toNat ∧ fld low 11 4 = q0.val * 2 + y0.toNat ∧ fld low 0 11 = 0 ∧ fld low 4 7 = 0 ∧ fld low 3 8 = 0 ∧ fld low 0 4 = 0 ∧ fld low 0 3 = 0 ∧ fld low 23 1 = 0 ∧ fld low 20 3 = 0 ∧ fld low 19 1 = 0 ∧ fld low 16 3 = 0 ∧ fld low 0 12 = y0.toNat * 2048 := by
      simp only [fld]; omega
    clear hlow
    obtain ⟨pc, po, pv, p52, p53, p54, p55, psc, pl2, pg, pd_, ps1, ps2, pslo, pshi, plt, pl⟩ := P
    obtain ⟨F0, F1, F2, F3, F4, F5, F6, F7, F8, F9, F10, F11, F12, F13, F14, F15⟩ := F
    simp [decodeNat, Instr.canonical, decode6, psOf, flowClean, subF, getOr, req, bitAt, fin8, fin16, fin64, Bind.bind, Except.bind, Pure.pure, Except.pure, pc, po, pv, p52, p53, p54, p55, psc, pl2, pg, pd_, ps1, ps2, pslo, pshi, pl, F0, F1, F2, F3, F4, F5, F6, F7, F8, F9, F10, F11, F12, F13, F14, F15]

theorem Encoding.cancelSeq (oq : Fin 8) (s1 : Fin 16) (ps : PSet) : Encoding.Statement (.cancelSeq oq s1 ps) := by
  cases ps with
  | none =>
    have b0 := oqSp_lt oq
    have b1 := Fin.isLt oq
    have b2 := Fin.isLt s1
    refine Encoding.of_parts rfl ?_ ?_ ?_ ?_ ?_ ?_ ?_ fun hwf W low hlow P => ?_
    any_goals first | (simp only [enc_zero_mul, enc_add_zero, enc_zero_add, psEnc]; omega) | omega
    try simp only [enc_zero_mul, enc_add_zero, enc_zero_add, psEnc] at hlow
    have F : fld low 24 4 = 1 ∧ fld low 16 8 = 0 ∧ fld low 15 1 = 0 ∧ fld low 12 3 = 0 ∧ fld low 11 1 = 0 ∧ fld low 11 4 = 0 ∧ fld low 0 11 = 0 ∧ fld low 4 7 = 0 ∧ fld low 3 8 = 0 ∧ fld low 0 4 = 0 ∧ fld low 0 3 = 0 ∧ fld low 23 1 = 0 ∧ fld low 20 3 = 0 ∧ fld low 19 1 = 0 ∧ fld low 16 3 = 0 ∧ fld low 0 12 = 0 := by
      simp only [fld]; omega
    clear hlow
    obtain ⟨pc, po, pv, p52, p53, p54, p55, psc, pl2, pg, pd_, ps1, ps2, pslo, pshi, plt, pl⟩ := P
    obtain ⟨F0, F1, F2, F3, F4, F5, F6, F7, F8, F9, F10, F11, F12, F13, F14, F15⟩ := F
    simp [decodeNat, Instr.canonical, decode6, psOf, flowClean, subF, getOr, req, bitAt, fin8, fin16, fin64, Bind.bind, Except.bind, Pure.pure, Except.pure, pc, po, pv, p52, p53, p54, p55, psc, pl2, pg, pd_, ps1, ps2, pslo, pshi, pl, F0, F1, F2, F3, F4, F5, F6, F7, F8, F9, F10, F11, F12, F13, F14, F15]
  | some x =>
    obtain ⟨q0, y0⟩ := x
    have b0 := oqSp_lt oq
    have b1 := oqSp_lt q0
    have b2 := Fin.isLt oq
    have b3 := Fin.isLt s1
    have b4 := Fin.isLt q0
    have b5 := Bool.toNat_lt y0
    refine Encoding.of_parts rfl ?_ ?_ ?_ ?_ ?_ ?_ ?_ fun hwf W low hlow P => ?_
    any_goals first | (simp only [enc_zero_mul, enc_add_zero, enc_zero_add, psEnc]; omega) | omega
    try simp only [enc_zero_mul, enc_add_zero, enc_zero_add, psEnc] at hlow
    have F : fld low 24 4 = 1 ∧ fld low 16 8 = 0 ∧ fld low 15 1 = 1 ∧ fld low 12 3 = q0.val ∧ fld low 11 1 = y0.toNat ∧ fld low 11 4 = q0.val * 2 + y0.toNat ∧ fld low 0 11 = 0 ∧ fld low 4 7 = 0 ∧ fld low 3 8 = 0 ∧ fld low 0 4 = 0 ∧ fld low 0 3 = 0 ∧ fld low 23 1 = 0 ∧ fld low 20 3 = 0 ∧ fld low 19 1 = 0 ∧ fld low 16 3 = 0 ∧ fld low 0 12 = y0.toNat * 2048 := by
      simp only [fld]; omega
    clear hlow
    obtain ⟨pc, po, pv, p52, p53, p54, p55, psc, pl2, pg, pd_, ps1, ps2, pslo, pshi, plt, pl⟩ := P
    obtain ⟨F0, F1, F2, F3, F4, F5, F6, F7, F8, F9, F10, F11, F12, F13, F14, F15⟩ := F
    simp [decodeNat, Instr.canonical, decode6, psOf, flowClean, subF, getOr, req, bitAt, fin8, fin16, fin64, Bind.bind, Except.bind, Pure.pure, Except.pure, pc, po, pv, p52, p53, p54, p55, psc, pl2, pg, pd_, ps1, ps2, pslo, pshi, pl, F0, F1, F2, F3, F4, F5, F6, F7, F8, F9, F10, F11, F12, F13, F14, F15]

theorem Encoding.pull (q : Fin 8) (n : BitVec 11) (ps : PSet) : Encoding.Statement (.pull q n ps) := by
  cases ps with
  | none =>
    have b0 := iqSp_lt q
    have b1 := Fin.isLt q
    have b2 := BitVec.isLt n
    refine Encoding.of_parts rfl ?_ ?_ ?_ ?_ ?_ ?_ ?_ fun hwf W low hlow P => ?_
    any_goals first | (simp only [enc_zero_mul, enc_add_zero, enc_zero_add, psEnc]; omega) | omega
    try simp only [enc_zero_mul, enc_add_zero, enc_zero_add, psEnc] at hlow
    simp [Instr.wellFormed, vecOk, noRound, VAmount.ok] at hwf
    have F : fld low 24 4 = 0 ∧ fld low 16 8 = 0 ∧ fld low 15 1 = 0 ∧ fld low 12 3 = 0 ∧ fld low 11 1 = 0 ∧ fld low 11 4 = 0 ∧ fld low 0 11 = n.toNat ∧ fld low 23 1 = 0 ∧ fld low 20 3 = 0 ∧ fld low 19 1 = 0 ∧ fld low 16 3 = 0 ∧ fld low 0 12 = n.toNat := by
      simp only [fld]; omega
    clear hlow
    obtain ⟨pc, po, pv, p52, p53, p54, p55, psc, pl2, pg, pd_, ps1, ps2, pslo, pshi, plt, pl⟩ := P
    obtain ⟨F0, F1, F2, F3, F4, F5, F6, F7, F8, F9, F10, F11⟩ := F
    simp [decodeNat, Instr.canonical, decode6, psOf, flowClean, subF, getOr, req, bitAt, fin8, fin16, fin64, Bind.bind, Except.bind, Pure.pure, Except.pure, pc, po, pv, p52, p53, p54, p55, psc, pl2, pg, pd_, ps1, ps2, pslo, pshi, pl, F0, F1, F2, F3, F4, F5, F6, F7, F8, F9, F10, F11, hwf]
    have hn : n.toNat ≠ 0 := fun h => hwf (BitVec.eq_of_toNat_eq (by simpa using h))
    simp [hn]
  | some x =>
    obtain ⟨q0, y0⟩ := x
    have b0 := iqSp_lt q
    have b1 := iqSp_lt q0
    have b2 := Fin.isLt q
    have b3 := BitVec.isLt n
    have b4 := Fin.isLt q0
    have b5 := Bool.toNat_lt y0
    refine Encoding.of_parts rfl ?_ ?_ ?_ ?_ ?_ ?_ ?_ fun hwf W low hlow P => ?_
    any_goals first | (simp only [enc_zero_mul, enc_add_zero, enc_zero_add, psEnc]; omega) | omega
    try simp only [enc_zero_mul, enc_add_zero, enc_zero_add, psEnc] at hlow
    simp [Instr.wellFormed, vecOk, noRound, VAmount.ok] at hwf
    have F : fld low 24 4 = 0 ∧ fld low 16 8 = 0 ∧ fld low 15 1 = 1 ∧ fld low 12 3 = q0.val ∧ fld low 11 1 = y0.toNat ∧ fld low 11 4 = q0.val * 2 + y0.toNat ∧ fld low 0 11 = n.toNat ∧ fld low 23 1 = 0 ∧ fld low 20 3 = 0 ∧ fld low 19 1 = 0 ∧ fld low 16 3 = 0 ∧ fld low 0 12 = y0.toNat * 2048 + n.toNat := by
      simp only [fld]; omega
    clear hlow
    obtain ⟨pc, po, pv, p52, p53, p54, p55, psc, pl2, pg, pd_, ps1, ps2, pslo, pshi, plt, pl⟩ := P
    obtain ⟨F0, F1, F2, F3, F4, F5, F6, F7, F8, F9, F10, F11⟩ := F
    simp [decodeNat, Instr.canonical, decode6, psOf, flowClean, subF, getOr, req, bitAt, fin8, fin16, fin64, Bind.bind, Except.bind, Pure.pure, Except.pure, pc, po, pv, p52, p53, p54, p55, psc, pl2, pg, pd_, ps1, ps2, pslo, pshi, pl, F0, F1, F2, F3, F4, F5, F6, F7, F8, F9, F10, F11, hwf]
    have hn : n.toNat ≠ 0 := fun h => hwf (BitVec.eq_of_toNat_eq (by simpa using h))
    simp [hn]

theorem Encoding.switch (c : ImmOrG) (ps : PSet) : Encoding.Statement (.switch c ps) := by
  cases c with
  | imm x0 =>
    cases ps with
    | none =>
      have b0 := Fin.isLt x0
      refine Encoding.of_parts rfl ?_ ?_ ?_ ?_ ?_ ?_ ?_ fun hwf W low hlow P => ?_
      any_goals first | (simp only [enc_zero_mul, enc_add_zero, enc_zero_add, psEnc]; omega) | omega
      try simp only [enc_zero_mul, enc_add_zero, enc_zero_add, psEnc] at hlow
      simp [Instr.wellFormed, vecOk, noRound, VAmount.ok] at hwf
      have F : fld low 24 4 = 0 ∧ fld low 16 8 = 0 ∧ fld low 15 1 = 0 ∧ fld low 12 3 = 0 ∧ fld low 11 1 = 0 ∧ fld low 11 4 = 0 ∧ fld low 0 11 = x0.val ∧ fld low 4 7 = 0 ∧ fld low 3 8 = 0 ∧ fld low 0 4 = x0.val ∧ fld low 0 3 = x0.val ∧ fld low 23 1 = 0 ∧ fld low 20 3 = 0 ∧ fld low 19 1 = 0 ∧ fld low 16 3 = 0 ∧ fld low 0 12 = x0.val := by
        simp only [fld]; omega
      clear hlow
      obtain ⟨pc, po, pv, p52, p53, p54, p55, psc, pl2, pg, pd_, ps1, ps2, pslo, pshi, plt, pl⟩ := P
      obtain ⟨F0, F1, F2, F3, F4, F5, F6, F7, F8, F9, F10, F11, F12, F13, F14, F15⟩ := F
      simp [decodeNat, Instr.canonical, decode6, psOf, flowClean, subF, getOr, req, bitAt, fin8, fin16, fin64, Bind.bind, Except.bind, Pure.pure, Except.pure, pc, po, pv, p52, p53, p54, p55, psc, pl2, pg, pd_, ps1, ps2, pslo, pshi, pl, F0, F1, F2, F3, F4, F5, F6, F7, F8, F9, F10, F11, F12, F13, F14, F15, hwf]
    | some x =>
      obtain ⟨q0, y0⟩ := x
      have b0 := Fin.isLt x0
      have b1 := Fin.isLt q0
      have b2 := Bool.toNat_lt y0
      refine Encoding.of_parts rfl ?_ ?_ ?_ ?_ ?_ ?_ ?_ fun hwf W low hlow P => ?_
      any_goals first | (simp only [enc_zero_mul, enc_add_zero, enc_zero_add, psEnc]; omega) | omega
      try simp only [enc_zero_mul, enc_add_zero, enc_zero_add, psEnc] at hlow
      simp [Instr.wellFormed, vecOk, noRound, VAmount.ok] at hwf
      have F : fld low 24 4 = 0 ∧ fld low 16 8 = 0 ∧ fld low 15 1 = 1 ∧ fld low 12 3 = q0.val ∧ fld low 11 1 = y0.toNat ∧ fld low 11 4 = q0.val * 2 + y0.toNat ∧ fld low 0 11 = x0.val ∧ fld low 4 7 = 0 ∧ fld low 3 8 = 0 ∧ fld low 0 4 = x0.val ∧ fld low 0 3 = x0.val ∧ fld low 23 1 = 0 ∧ fld low 20 3 = 0 ∧ fld low 19 1 = 0 ∧ fld low 16 3 = 0 ∧ fld low 0 12 = y0.toNat * 2048 + x0.val := by
        simp only [fld]; omega
      clear hlow
      obtain ⟨pc, po, pv, p52, p53, p54, p55, psc, pl2, pg, pd_, ps1, ps2, pslo, pshi, plt, pl⟩ := P
      obtain ⟨F0, F1, F2, F3, F4, F5, F6, F7, F8, F9, F10, F11, F12, F13, F14, F15⟩ := F
      simp [decodeNat, Instr.canonical, decode6, psOf, flowClean, subF, getOr, req, bitAt, fin8, fin16, fin64, Bind.bind, Except.bind, Pure.pure, Except.pure, pc, po, pv, p52, p53, p54, p55, psc, pl2, pg, pd_, ps1, ps2, pslo, pshi, pl, F0, F1, F2, F3, F4, F5, F6, F7, F8, F9, F10, F11, F12, F13, F14, F15, hwf]
  | reg x0 =>
    cases ps with
    | none =>
      have b0 := Fin.isLt x0
      refine Encoding.of_parts rfl ?_ ?_ ?_ ?_ ?_ ?_ ?_ fun hwf W low hlow P => ?_
      any_goals first | (simp only [enc_zero_mul, enc_add_zero, enc_zero_add, psEnc]; omega) | omega
      try simp only [enc_zero_mul, enc_add_zero, enc_zero_add, psEnc] at hlow
      simp [Instr.wellFormed, vecOk, noRound, VAmount.ok] at hwf
      have F : fld low 24 4 = 1 ∧ fld low 16 8 = 0 ∧ fld low 15 1 = 0 ∧ fld low 12 3 = 0 ∧ fld low 11 1 = 0 ∧ fld low 11 4 = 0 ∧ fld low 0 11 = 0 ∧ fld low 4 7 = 0 ∧ fld low 3 8 = 0 ∧ fld low 0 4 = 0 ∧ fld low 0 3 = 0 ∧ fld low 23 1 = 0 ∧ fld low 20 3 = 0 ∧ fld low 19 1 = 0 ∧ fld low 16 3 = 0 ∧ fld low 0 12 = 0 := by
        simp only [fld]; omega
      clear hlow
      obtain ⟨pc, po, pv, p52, p53, p54, p55, psc, pl2, pg, pd_, ps1, ps2, pslo, pshi, plt, pl⟩ := P
      obtain ⟨F0, F1, F2, F3, F4, F5, F6, F7, F8, F9, F10, F11, F12, F13, F14, F15⟩ := F
      simp [decodeNat, Instr.canonical, decode6, psOf, flowClean, subF, getOr, req, bitAt, fin8, fin16, fin64, Bind.bind, Except.bind, Pure.pure, Except.pure, pc, po, pv, p52, p53, p54, p55, psc, pl2, pg, pd_, ps1, ps2, pslo, pshi, pl, F0, F1, F2, F3, F4, F5, F6, F7, F8, F9, F10, F11, F12, F13, F14, F15, hwf]
    | some x =>
      obtain ⟨q0, y0⟩ := x
      have b0 := Fin.isLt x0
      have b1 := Fin.isLt q0
      have b2 := Bool.toNat_lt y0
      refine Encoding.of_parts rfl ?_ ?_ ?_ ?_ ?_ ?_ ?_ fun hwf W low hlow P => ?_
      any_goals first | (simp only [enc_zero_mul, enc_add_zero, enc_zero_add, psEnc]; omega) | omega
      try simp only [enc_zero_mul, enc_add_zero, enc_zero_add, psEnc] at hlow
      simp [Instr.wellFormed, vecOk, noRound, VAmount.ok] at hwf
      have F : fld low 24 4 = 1 ∧ fld low 16 8 = 0 ∧ fld low 15 1 = 1 ∧ fld low 12 3 = q0.val ∧ fld low 11 1 = y0.toNat ∧ fld low 11 4 = q0.val * 2 + y0.toNat ∧ fld low 0 11 = 0 ∧ fld low 4 7 = 0 ∧ fld low 3 8 = 0 ∧ fld low 0 4 = 0 ∧ fld low 0 3 = 0 ∧ fld low 23 1 = 0 ∧ fld low 20 3 = 0 ∧ fld low 19 1 = 0 ∧ fld low 16 3 = 0 ∧ fld low 0 12 = y0.toNat * 2048 := by
        simp only [fld]; omega
      clear hlow
      obtain ⟨pc, po, pv, p52, p53, p54, p55, psc, pl2, pg, pd_, ps1, ps2, pslo, pshi, plt, pl⟩ := P
      obtain ⟨F0, F1, F2, F3, F4, F5, F6, F7, F8, F9, F10, F11, F12, F13, F14, F15⟩ := F
      simp [decodeNat, Instr.canonical, decode6, psOf, flowClean, subF, getOr, req, bitAt, fin8, fin16, fin64, Bind.bind, Except.bind, Pure.pure, Except.pure, pc, po, pv, p52, p53, p54, p55, psc, pl2, pg, pd_, ps1, ps2, pslo, pshi, pl, F0, F1, F2, F3, F4, F5, F6, F7, F8, F9, F10, F11, F12, F13, F14, F15, hwf]

theorem Encoding.splice (s1 : Fin 16) (ps : PSet) : Encoding.Statement (.splice s1 ps) := by
  cases ps with
  | none =>
    have b0 := Fin.isLt s1
    refine Encoding.of_parts rfl ?_ ?_ ?_ ?_ ?_ ?_ ?_ fun hwf W low hlow P => ?_
    any_goals first | (simp only [enc_zero_mul, enc_add_zero, enc_zero_add, psEnc]; omega) | omega
    try simp only [enc_zero_mul, enc_add_zero, enc_zero_add, psEnc] at hlow
    have F : fld low 24 4 = 0 ∧ fld low 16 8 = 0 ∧ fld low 15 1 = 0 ∧ fld low 12 3 = 0 ∧ fld low 11 1 = 0 ∧ fld low 11 4 = 0 ∧ fld low 0 11 = 0 ∧ fld low 4 7 = 0 ∧ fld low 3 8 = 0 ∧ fld low 0 4 = 0 ∧ fld low 0 3 = 0 ∧ fld low 23 1 = 0 ∧ fld low 20 3 = 0 ∧ fld low 19 1 = 0 ∧ fld low 16 3 = 0 ∧ fld low 0 12 = 0 := by
      simp only [fld]; omega
    clear hlow
    obtain ⟨pc, po, pv, p52, p53, p54, p55, psc, pl2, pg, pd_, ps1, ps2, pslo, pshi, plt, pl⟩ := P
    obtain ⟨F0, F1, F2, F3, F4, F5, F6, F7, F8, F9, F10, F11, F12, F13, F14, F15⟩ := F
    simp [decodeNat, Instr.canonical, decode6, psOf, flowClean, subF, getOr, req, bitAt, fin8, fin16, fin64, Bind.bind, Except.bind, Pure.pure, Except.pure, pc, po, pv, p52, p53, p54, p55, psc, pl2, pg, pd_, ps1, ps2, pslo, pshi, pl, F0, F1, F2, F3, F4, F5, F6, F7, F8, F9, F10, F11, F12, F13, F14, F15]
  | some x =>
    obtain ⟨q0, y0⟩ := x
    have b0 := Fin.isLt s1
    have b1 := Fin.isLt q0
    have b2 := Bool.toNat_lt y0
    refine Encoding.of_parts rfl ?_ ?_ ?_ ?_ ?_ ?_ ?_ fun hwf W low hlow P => ?_
    any_goals first | (simp only [enc_zero_mul, enc_add_zero, enc_zero_add, psEnc]; omega) | omega
    try simp only [enc_zero_mul, enc_add_zero, enc_zero_add, psEnc] at hlow
    have F : fld low 24 4 = 0 ∧ fld low 16 8 = 0 ∧ fld low 15 1 = 1 ∧ fld low 12 3 = q0.val ∧ fld low 11 1 = y0.toNat ∧ fld low 11 4 = q0.val * 2 + y0.toNat ∧ fld low 0 11 = 0 ∧ fld low 4 7 = 0 ∧ fld low 3 8 = 0 ∧ fld low 0 4 = 0 ∧ fld low 0 3 = 0 ∧ fld low 23 1 = 0 ∧ fld low 20 3 = 0 ∧ fld low 19 1 = 0 ∧ fld low 16 3 = 0 ∧ fld low 0 12 = y0.toNat * 2048 := by
      simp only [fld]; omega
    clear hlow
    obtain ⟨pc, po, pv, p52, p53, p54, p55, psc, pl2, pg, pd_, ps1, ps2, pslo, pshi, plt, pl⟩ := P
    obtain ⟨F0, F1, F2, F3, F4, F5, F6, F7, F8, F9, F10, F11, F12, F13, F14, F15⟩ := F
    simp [decodeNat, Instr.canonical, decode6, psOf, flowClean, subF, getOr, req, bitAt, fin8, fin16, fin64, Bind.bind, Except.bind, Pure.pure, Except.pure, pc, po, pv, p52, p53, p54, p55, psc, pl2, pg, pd_, ps1, ps2, pslo, pshi, pl, F0, F1, F2, F3, F4, F5, F6, F7, F8, F9, F10, F11, F12, F13, F14, F15]

theorem Encoding.nop (ps : PSet) : Encoding.Statement (.nop ps) := by
  cases ps with
  | none =>
    refine Encoding.of_parts rfl ?_ ?_ ?_ ?_ ?_ ?_ ?_ fun hwf W low hlow P => ?_
    any_goals first | (simp only [enc_zero_mul, enc_add_zero, enc_zero_add, psEnc]; omega) | omega
    try simp only [enc_zero_mul, enc_add_zero, enc_zero_add, psEnc] at hlow
    have F : fld low 24 4 = 0 ∧ fld low 16 8 = 0 ∧ fld low 15 1 = 0 ∧ fld low 12 3 = 0 ∧ fld low 11 1 = 0 ∧ fld low 11 4 = 0 ∧ fld low 0 11 = 0 ∧ fld low 4 7 = 0 ∧ fld low 3 8 = 0 ∧ fld low 0 4 = 0 ∧ fld low 0 3 = 0 ∧ fld low 23 1 = 0 ∧ fld low 20 3 = 0 ∧ fld low 19 1 = 0 ∧ fld low 16 3 = 0 ∧ fld low 0 12 = 0 := by
      simp only [fld]; omega
    clear hlow
    obtain ⟨pc, po, pv, p52, p53, p54, p55, psc, pl2, pg, pd_, ps1, ps2, pslo, pshi, plt, pl⟩ := P
    obtain ⟨F0, F1, F2, F3, F4, F5, F6, F7, F8, F9, F10, F11, F12, F13, F14, F15⟩ := F
    simp [decodeNat, Instr.canonical, decode6, psOf, flowClean, subF, getOr, req, bitAt, fin8, fin16, fin64, Bind.bind, Except.bind, Pure.pure, Except.pure, pc, po, pv, p52, p53, p54, p55, psc, pl2, pg, pd_, ps1, ps2, pslo, pshi, pl, F0, F1, F2, F3, F4, F5, F6, F7, F8, F9, F10, F11, F12, F13, F14, F15]
  | some x =>
    obtain ⟨q0, y0⟩ := x
    have b0 := Fin.isLt q0
    have b1 := Bool.toNat_lt y0
    refine Encoding.of_parts rfl ?_ ?_ ?_ ?_ ?_ ?_ ?_ fun hwf W low hlow P => ?_
    any_goals first | (simp only [enc_zero_mul, enc_add_zero, enc_zero_add, psEnc]; omega) | omega
    try simp only [enc_zero_mul, enc_add_zero, enc_zero_add, psEnc] at hlow
    have F : fld low 24 4 = 0 ∧ fld low 16 8 = 0 ∧ fld low 15 1 = 1 ∧ fld low 12 3 = q0.val ∧ fld low 11 1 = y0.toNat ∧ fld low 11 4 = q0.val * 2 + y0.toNat ∧ fld low 0 11 = 0 ∧ fld low 4 7 = 0 ∧ fld low 3 8 = 0 ∧ fld low 0 4 = 0 ∧ fld low 0 3 = 0 ∧ fld low 23 1 = 0 ∧ fld low 20 3 = 0 ∧ fld low 19 1 = 0 ∧ fld low 16 3 = 0 ∧ fld low 0 12 = y0.toNat * 2048 := by
      simp only [fld]; omega
    clear hlow
    obtain ⟨pc, po, pv, p52, p53, p54, p55, psc, pl2, pg, pd_, ps1, ps2, pslo, pshi, plt, pl⟩ := P
    obtain ⟨F0, F1, F2, F3, F4, F5, F6, F7, F8, F9, F10, F11, F12, F13, F14, F15⟩ := F
    simp [decodeNat, Instr.canonical, decode6, psOf, flowClean, subF, getOr, req, bitAt, fin8, fin16, fin64, Bind.bind, Except.bind, Pure.pure, Except.pure, pc, po, pv, p52, p53, p54, p55, psc, pl2, pg, pd_, ps1, ps2, pslo, pshi, pl, F0, F1, F2, F3, F4, F5, F6, F7, F8, F9, F10, F11, F12, F13, F14, F15]

theorem Encoding.feat (d : Fin 16) (n : ImmOrG) : Encoding.Statement (.feat d n) := by
  cases n with
  | imm x0 =>
    have b0 := Fin.isLt d
    have b1 := Fin.isLt x0
    refine Encoding.of_parts rfl ?_ ?_ ?_ ?_ ?_ ?_ ?_ fun hwf W low hlow P => ?_
    any_goals first | (simp only [enc_zero_mul, enc_add_zero, enc_zero_add]; omega) | omega
    try simp only [enc_zero_mul, enc_add_zero, enc_zero_add] at hlow
    have F : fld low 16 12 = 0 ∧ fld low 0 16 = x0.val ∧ fld low 18 10 = 0 ∧ fld low 17 1 = 0 ∧ fld low 16 1 = 0 ∧ fld low 20 8 = 0 ∧ fld low 16 2 = 0 ∧ fld low 18 1 = 0 ∧ fld low 19 1 = 0 ∧ fld low 0 4 = x0.val := by
      simp only [fld]; omega
    clear hlow
    obtain ⟨pc, po, pv, p52, p53, p54, p55, psc, pl2, pg, pd_, ps1, ps2, pslo, pshi, plt, pl⟩ := P
    obtain ⟨F0, F1, F2, F3, F4, F5, F6, F7, F8, F9⟩ := F
    simp [decodeNat, Instr.canonical, decode7, decode7b, selF, immF, rdctrImmOk, getOr, req, bitAt, fin8, fin16, fin64, Bind.bind, Except.bind, Pure.pure, Except.pure, pc, po, pv, p52, p53, p54, p55, psc, pl2, pg, pd_, ps1, ps2, pslo, pshi, pl, F0, F1, F2, F3, F4, F5, F6, F7, F8, F9]
  | reg x0 =>
    have b0 := Fin.isLt d
    have b1 := Fin.isLt x0
    refine Encoding.of_parts rfl ?_ ?_ ?_ ?_ ?_ ?_ ?_ fun hwf W low hlow P => ?_
    any_goals first | (simp only [enc_zero_mul, enc_add_zero, enc_zero_add]; omega) | omega
    try simp only [enc_zero_mul, enc_add_zero, enc_zero_add] at hlow
    have F : fld low 16 12 = 1 ∧ fld low 0 16 = 0 ∧ fld low 0 4 = 0 ∧ fld low 0 1 = 0 := by
      simp only [fld]; omega
    clear hlow
    obtain ⟨pc, po, pv, p52, p53, p54, p55, psc, pl2, pg, pd_, ps1, ps2, pslo, pshi, plt, pl⟩ := P
    obtain ⟨F0, F1, F2, F3⟩ := F
    simp [decodeNat, Instr.canonical, decode7, decode7b, selF, immF, rdctrImmOk, getOr, req, bitAt, fin8, fin16, fin64, Bind.bind, Except.bind, Pure.pure, Except.pure, pc, po, pv, p52, p53, p54, p55, psc, pl2, pg, pd_, ps1, ps2, pslo, pshi, pl, F0, F1, F2, F3]

theorem Encoding.beat (d s1 : Fin 16) : Encoding.Statement (.beat d s1) := by
  have b0 := Fin.isLt d
  have b1 := Fin.isLt s1
  refine Encoding.of_parts rfl ?_ ?_ ?_ ?_ ?_ ?_ ?_ fun hwf W low hlow P => ?_
  any_goals first | (simp only [enc_zero_mul, enc_add_zero, enc_zero_add]; omega) | omega
  try simp only [enc_zero_mul, enc_add_zero, enc_zero_add] at hlow
  have F : fld low 16 12 = 0 ∧ fld low 0 16 = 0 ∧ fld low 18 10 = 0 ∧ fld low 17 1 = 0 ∧ fld low 16 1 = 0 ∧ fld low 20 8 = 0 ∧ fld low 16 2 = 0 ∧ fld low 18 1 = 0 ∧ fld low 19 1 = 0 ∧ fld low 0 4 = 0 ∧ fld low 0 1 = 0 := by
    simp only [fld]; omega
  clear hlow
  obtain ⟨pc, po, pv, p52, p53, p54, p55, psc, pl2, pg, pd_, ps1, ps2, pslo, pshi, plt, pl⟩ := P
  obtain ⟨F0, F1, F2, F3, F4, F5, F6, F7, F8, F9, F10⟩ := F
  simp [decodeNat, Instr.canonical, decode7, decode7b, selF, immF, rdctrImmOk, getOr, req, bitAt, fin8, fin16, fin64, Bind.bind, Except.bind, Pure.pure, Except.pure, pc, po, pv, p52, p53, p54, p55, psc, pl2, pg, pd_, ps1, ps2, pslo, pshi, pl, F0, F1, F2, F3, F4, F5, F6, F7, F8, F9, F10]

theorem Encoding.beatB (d : Fin 16) (b : BitVec 16) : Encoding.Statement (.beatB d b) := by
  have b0 := Fin.isLt d
  have b1 := BitVec.isLt b
  refine Encoding.of_parts rfl ?_ ?_ ?_ ?_ ?_ ?_ ?_ fun hwf W low hlow P => ?_
  any_goals first | (simp only [enc_zero_mul, enc_add_zero, enc_zero_add]; omega) | omega
  try simp only [enc_zero_mul, enc_add_zero, enc_zero_add] at hlow
  simp [Instr.wellFormed, vecOk, noRound, VAmount.ok] at hwf
  have F : fld low 16 12 = 1 ∧ fld low 0 16 = b.toNat := by
    simp only [fld]; omega
  clear hlow
  obtain ⟨pc, po, pv, p52, p53, p54, p55, psc, pl2, pg, pd_, ps1, ps2, pslo, pshi, plt, pl⟩ := P
  obtain ⟨F0, F1⟩ := F
  simp [decodeNat, Instr.canonical, decode7, decode7b, selF, immF, rdctrImmOk, getOr, req, bitAt, fin8, fin16, fin64, Bind.bind, Except.bind, Pure.pure, Except.pure, pc, po, pv, p52, p53, p54, p55, psc, pl2, pg, pd_, ps1, ps2, pslo, pshi, pl, F0, F1, hwf]

theorem Encoding.govn (d : Fin 16) (s : Fin 8) : Encoding.Statement (.govn d s) := by
  have b0 := spSp_lt s
  have b1 := Fin.isLt d
  have b2 := Fin.isLt s
  refine Encoding.of_parts rfl ?_ ?_ ?_ ?_ ?_ ?_ ?_ fun hwf W low hlow P => ?_
  any_goals first | (simp only [enc_zero_mul, enc_add_zero, enc_zero_add]; omega) | omega
  try simp only [enc_zero_mul, enc_add_zero, enc_zero_add] at hlow
  have F : fld low 16 12 = 0 ∧ fld low 0 16 = 0 ∧ fld low 18 10 = 0 ∧ fld low 17 1 = 0 ∧ fld low 16 1 = 0 ∧ fld low 20 8 = 0 ∧ fld low 16 2 = 0 ∧ fld low 18 1 = 0 ∧ fld low 19 1 = 0 ∧ fld low 0 4 = 0 ∧ fld low 0 1 = 0 := by
    simp only [fld]; omega
  clear hlow
  obtain ⟨pc, po, pv, p52, p53, p54, p55, psc, pl2, pg, pd_, ps1, ps2, pslo, pshi, plt, pl⟩ := P
  obtain ⟨F0, F1, F2, F3, F4, F5, F6, F7, F8, F9, F10⟩ := F
  simp [decodeNat, Instr.canonical, decode7, decode7b, selF, immF, rdctrImmOk, getOr, req, bitAt, fin8, fin16, fin64, Bind.bind, Except.bind, Pure.pure, Except.pure, pc, po, pv, p52, p53, p54, p55, psc, pl2, pg, pd_, ps1, ps2, pslo, pshi, pl, F0, F1, F2, F3, F4, F5, F6, F7, F8, F9, F10]

theorem Encoding.cfg (d s1 s2 : Fin 16) : Encoding.Statement (.cfg d s1 s2) := by
  have b0 := Fin.isLt d
  have b1 := Fin.isLt s1
  have b2 := Fin.isLt s2
  refine Encoding.of_parts rfl ?_ ?_ ?_ ?_ ?_ ?_ ?_ fun hwf W low hlow P => ?_
  any_goals first | (simp only [enc_zero_mul, enc_add_zero, enc_zero_add]; omega) | omega
  try simp only [enc_zero_mul, enc_add_zero, enc_zero_add] at hlow
  have F : fld low 16 12 = 0 ∧ fld low 0 16 = 0 ∧ fld low 18 10 = 0 ∧ fld low 17 1 = 0 ∧ fld low 16 1 = 0 ∧ fld low 20 8 = 0 ∧ fld low 16 2 = 0 ∧ fld low 18 1 = 0 ∧ fld low 19 1 = 0 ∧ fld low 0 4 = 0 ∧ fld low 0 1 = 0 := by
    simp only [fld]; omega
  clear hlow
  obtain ⟨pc, po, pv, p52, p53, p54, p55, psc, pl2, pg, pd_, ps1, ps2, pslo, pshi, plt, pl⟩ := P
  obtain ⟨F0, F1, F2, F3, F4, F5, F6, F7, F8, F9, F10⟩ := F
  simp [decodeNat, Instr.canonical, decode7, decode7b, selF, immF, rdctrImmOk, getOr, req, bitAt, fin8, fin16, fin64, Bind.bind, Except.bind, Pure.pure, Except.pure, pc, po, pv, p52, p53, p54, p55, psc, pl2, pg, pd_, ps1, ps2, pslo, pshi, pl, F0, F1, F2, F3, F4, F5, F6, F7, F8, F9, F10]

theorem Encoding.yield  : Encoding.Statement (.yield) := by
  refine Encoding.of_parts rfl ?_ ?_ ?_ ?_ ?_ ?_ ?_ fun hwf W low hlow P => ?_
  any_goals first | (simp only [enc_zero_mul, enc_add_zero, enc_zero_add]; omega) | omega
  try simp only [enc_zero_mul, enc_add_zero, enc_zero_add] at hlow
  have F : fld low 16 12 = 0 ∧ fld low 0 16 = 0 ∧ fld low 18 10 = 0 ∧ fld low 17 1 = 0 ∧ fld low 16 1 = 0 ∧ fld low 20 8 = 0 ∧ fld low 16 2 = 0 ∧ fld low 18 1 = 0 ∧ fld low 19 1 = 0 ∧ fld low 0 4 = 0 ∧ fld low 0 1 = 0 := by
    simp only [fld]; omega
  clear hlow
  obtain ⟨pc, po, pv, p52, p53, p54, p55, psc, pl2, pg, pd_, ps1, ps2, pslo, pshi, plt, pl⟩ := P
  obtain ⟨F0, F1, F2, F3, F4, F5, F6, F7, F8, F9, F10⟩ := F
  simp [decodeNat, Instr.canonical, decode7, decode7b, selF, immF, rdctrImmOk, getOr, req, bitAt, fin8, fin16, fin64, Bind.bind, Except.bind, Pure.pure, Except.pure, pc, po, pv, p52, p53, p54, p55, psc, pl2, pg, pd_, ps1, ps2, pslo, pshi, pl, F0, F1, F2, F3, F4, F5, F6, F7, F8, F9, F10]

theorem Encoding.exitl  : Encoding.Statement (.exitl) := by
  refine Encoding.of_parts rfl ?_ ?_ ?_ ?_ ?_ ?_ ?_ fun hwf W low hlow P => ?_
  any_goals first | (simp only [enc_zero_mul, enc_add_zero, enc_zero_add]; omega) | omega
  try simp only [enc_zero_mul, enc_add_zero, enc_zero_add] at hlow
  have F : fld low 16 12 = 0 ∧ fld low 0 16 = 0 ∧ fld low 18 10 = 0 ∧ fld low 17 1 = 0 ∧ fld low 16 1 = 0 ∧ fld low 20 8 = 0 ∧ fld low 16 2 = 0 ∧ fld low 18 1 = 0 ∧ fld low 19 1 = 0 ∧ fld low 0 4 = 0 ∧ fld low 0 1 = 0 := by
    simp only [fld]; omega
  clear hlow
  obtain ⟨pc, po, pv, p52, p53, p54, p55, psc, pl2, pg, pd_, ps1, ps2, pslo, pshi, plt, pl⟩ := P
  obtain ⟨F0, F1, F2, F3, F4, F5, F6, F7, F8, F9, F10⟩ := F
  simp [decodeNat, Instr.canonical, decode7, decode7b, selF, immF, rdctrImmOk, getOr, req, bitAt, fin8, fin16, fin64, Bind.bind, Except.bind, Pure.pure, Except.pure, pc, po, pv, p52, p53, p54, p55, psc, pl2, pg, pd_, ps1, ps2, pslo, pshi, pl, F0, F1, F2, F3, F4, F5, F6, F7, F8, F9, F10]

theorem Encoding.exitlNow  : Encoding.Statement (.exitlNow) := by
  refine Encoding.of_parts rfl ?_ ?_ ?_ ?_ ?_ ?_ ?_ fun hwf W low hlow P => ?_
  any_goals first | (simp only [enc_zero_mul, enc_add_zero, enc_zero_add]; omega) | omega
  try simp only [enc_zero_mul, enc_add_zero, enc_zero_add] at hlow
  have F : fld low 16 12 = 1 ∧ fld low 0 16 = 0 ∧ fld low 0 4 = 0 ∧ fld low 0 1 = 0 := by
    simp only [fld]; omega
  clear hlow
  obtain ⟨pc, po, pv, p52, p53, p54, p55, psc, pl2, pg, pd_, ps1, ps2, pslo, pshi, plt, pl⟩ := P
  obtain ⟨F0, F1, F2, F3⟩ := F
  simp [decodeNat, Instr.canonical, decode7, decode7b, selF, immF, rdctrImmOk, getOr, req, bitAt, fin8, fin16, fin64, Bind.bind, Except.bind, Pure.pure, Except.pure, pc, po, pv, p52, p53, p54, p55, psc, pl2, pg, pd_, ps1, ps2, pslo, pshi, pl, F0, F1, F2, F3]

theorem Encoding.rdctr (d : Fin 16) (c : Fin 11) (i : Fin 8) : Encoding.Statement (.rdctr d c i) := by
  have b0 := Fin.isLt d
  have b1 := Fin.isLt c
  have b2 := Fin.isLt i
  refine Encoding.of_parts rfl ?_ ?_ ?_ ?_ ?_ ?_ ?_ fun hwf W low hlow P => ?_
  any_goals first | (simp only [enc_zero_mul, enc_add_zero, enc_zero_add]; omega) | omega
  try simp only [enc_zero_mul, enc_add_zero, enc_zero_add] at hlow
  simp [Instr.wellFormed, vecOk, noRound, VAmount.ok] at hwf
  have F : fld low 16 12 = c.val ∧ fld low 0 16 = i.val ∧ fld low 0 4 = i.val := by
    simp only [fld]; omega
  clear hlow
  obtain ⟨pc, po, pv, p52, p53, p54, p55, psc, pl2, pg, pd_, ps1, ps2, pslo, pshi, plt, pl⟩ := P
  obtain ⟨F0, F1, F2⟩ := F
  simp [decodeNat, Instr.canonical, decode7, decode7b, selF, immF, rdctrImmOk, getOr, req, bitAt, fin8, fin16, fin64, Bind.bind, Except.bind, Pure.pure, Except.pure, pc, po, pv, p52, p53, p54, p55, psc, pl2, pg, pd_, ps1, ps2, pslo, pshi, pl, F0, F1, F2, hwf]

theorem Encoding.watch (d s1 : Fin 16) (t : WatchTr) (once clr : Bool) (id : Fin 16) : Encoding.Statement (.watch d s1 t once clr id) := by
  have b0 := Fin.isLt d
  have b1 := Fin.isLt s1
  have b2 := WatchTr.code_lt t
  have b3 := Bool.toNat_lt once
  have b4 := Bool.toNat_lt clr
  have b5 := Fin.isLt id
  refine Encoding.of_parts rfl ?_ ?_ ?_ ?_ ?_ ?_ ?_ fun hwf W low hlow P => ?_
  any_goals first | (simp only [enc_zero_mul, enc_add_zero, enc_zero_add]; omega) | omega
  try simp only [enc_zero_mul, enc_add_zero, enc_zero_add] at hlow
  have F : fld low 16 12 = clr.toNat * 8 + once.toNat * 4 + t.code ∧ fld low 0 16 = id.val ∧ fld low 18 10 = clr.toNat * 2 + once.toNat ∧ fld low 20 8 = 0 ∧ fld low 16 2 = t.code ∧ fld low 18 1 = once.toNat ∧ fld low 19 1 = clr.toNat ∧ fld low 0 4 = id.val := by
    simp only [fld]; omega
  clear hlow
  obtain ⟨pc, po, pv, p52, p53, p54, p55, psc, pl2, pg, pd_, ps1, ps2, pslo, pshi, plt, pl⟩ := P
  obtain ⟨F0, F1, F2, F3, F4, F5, F6, F7⟩ := F
  simp [decodeNat, Instr.canonical, decode7, decode7b, selF, immF, rdctrImmOk, getOr, req, bitAt, fin8, fin16, fin64, Bind.bind, Except.bind, Pure.pure, Except.pure, pc, po, pv, p52, p53, p54, p55, psc, pl2, pg, pd_, ps1, ps2, pslo, pshi, pl, F0, F1, F2, F3, F4, F5, F6, F7]
  cases t <;> simp [WatchTr.code]

theorem Encoding.rdbeat (d : Fin 16) (c : Fin 5) : Encoding.Statement (.rdbeat d c) := by
  have b0 := Fin.isLt d
  have b1 := Fin.isLt c
  refine Encoding.of_parts rfl ?_ ?_ ?_ ?_ ?_ ?_ ?_ fun hwf W low hlow P => ?_
  any_goals first | (simp only [enc_zero_mul, enc_add_zero, enc_zero_add]; omega) | omega
  try simp only [enc_zero_mul, enc_add_zero, enc_zero_add] at hlow
  have F : fld low 16 12 = c.val ∧ fld low 0 16 = 0 ∧ fld low 0 4 = 0 ∧ fld low 0 1 = 0 := by
    simp only [fld]; omega
  clear hlow
  obtain ⟨pc, po, pv, p52, p53, p54, p55, psc, pl2, pg, pd_, ps1, ps2, pslo, pshi, plt, pl⟩ := P
  obtain ⟨F0, F1, F2, F3⟩ := F
  simp [decodeNat, Instr.canonical, decode7, decode7b, selF, immF, rdctrImmOk, getOr, req, bitAt, fin8, fin16, fin64, Bind.bind, Except.bind, Pure.pure, Except.pure, pc, po, pv, p52, p53, p54, p55, psc, pl2, pg, pd_, ps1, ps2, pslo, pshi, pl, F0, F1, F2, F3]

theorem Encoding.ldcb (cb s1 : Fin 16) : Encoding.Statement (.ldcb cb s1) := by
  have b0 := cbSp_lt cb
  have b1 := cbSp_lt s1
  have b2 := Fin.isLt cb
  have b3 := Fin.isLt s1
  refine Encoding.of_parts rfl ?_ ?_ ?_ ?_ ?_ ?_ ?_ fun hwf W low hlow P => ?_
  any_goals first | (simp only [enc_zero_mul, enc_add_zero, enc_zero_add]; omega) | omega
  try simp only [enc_zero_mul, enc_add_zero, enc_zero_add] at hlow
  have F : fld low 16 12 = 0 ∧ fld low 0 16 = 0 ∧ fld low 18 10 = 0 ∧ fld low 17 1 = 0 ∧ fld low 16 1 = 0 ∧ fld low 20 8 = 0 ∧ fld low 16 2 = 0 ∧ fld low 18 1 = 0 ∧ fld low 19 1 = 0 ∧ fld low 0 4 = 0 ∧ fld low 0 1 = 0 := by
    simp only [fld]; omega
  clear hlow
  obtain ⟨pc, po, pv, p52, p53, p54, p55, psc, pl2, pg, pd_, ps1, ps2, pslo, pshi, plt, pl⟩ := P
  obtain ⟨F0, F1, F2, F3, F4, F5, F6, F7, F8, F9, F10⟩ := F
  simp [decodeNat, Instr.canonical, decode7, decode7b, selF, immF, rdctrImmOk, getOr, req, bitAt, fin8, fin16, fin64, Bind.bind, Except.bind, Pure.pure, Except.pure, pc, po, pv, p52, p53, p54, p55, psc, pl2, pg, pd_, ps1, ps2, pslo, pshi, pl, F0, F1, F2, F3, F4, F5, F6, F7, F8, F9, F10]

theorem Encoding.ldcbV (cb v : Fin 16) (half : Bool) : Encoding.Statement (.ldcbV cb v half) := by
  have b0 := vSp_lt cb
  have b1 := cbSp_lt cb
  have b2 := vSp_lt v
  have b3 := cbSp_lt v
  have b4 := Fin.isLt cb
  have b5 := Fin.isLt v
  have b6 := Bool.toNat_lt half
  refine Encoding.of_parts rfl ?_ ?_ ?_ ?_ ?_ ?_ ?_ fun hwf W low hlow P => ?_
  any_goals first | (simp only [enc_zero_mul, enc_add_zero, enc_zero_add]; omega) | omega
  try simp only [enc_zero_mul, enc_add_zero, enc_zero_add] at hlow
  have F : fld low 16 12 = 1 ∧ fld low 0 16 = half.toNat ∧ fld low 0 4 = half.toNat ∧ fld low 0 1 = half.toNat := by
    simp only [fld]; omega
  clear hlow
  obtain ⟨pc, po, pv, p52, p53, p54, p55, psc, pl2, pg, pd_, ps1, ps2, pslo, pshi, plt, pl⟩ := P
  obtain ⟨F0, F1, F2, F3⟩ := F
  simp [decodeNat, Instr.canonical, decode7, decode7b, selF, immF, rdctrImmOk, getOr, req, bitAt, fin8, fin16, fin64, Bind.bind, Except.bind, Pure.pure, Except.pure, pc, po, pv, p52, p53, p54, p55, psc, pl2, pg, pd_, ps1, ps2, pslo, pshi, pl, F0, F1, F2, F3]
  cases half <;> rfl

theorem Encoding.rngseed (s1 : Fin 16) : Encoding.Statement (.rngseed s1) := by
  have b0 := Fin.isLt s1
  refine Encoding.of_parts rfl ?_ ?_ ?_ ?_ ?_ ?_ ?_ fun hwf W low hlow P => ?_
  any_goals first | (simp only [Rm.code_rn, enc_zero_mul, enc_add_zero, enc_zero_add]; omega) | omega
  try simp only [Rm.code_rn, enc_zero_mul, enc_add_zero, enc_zero_add] at hlow
  have F : fld low 16 12 = 0 ∧ fld low 0 16 = 0 ∧ fld low 18 10 = 0 ∧ fld low 17 1 = 0 ∧ fld low 16 1 = 0 ∧ fld low 20 8 = 0 ∧ fld low 16 2 = 0 ∧ fld low 18 1 = 0 ∧ fld low 19 1 = 0 ∧ fld low 0 4 = 0 ∧ fld low 0 1 = 0 := by
    simp only [fld]; omega
  clear hlow
  obtain ⟨pc, po, pv, p52, p53, p54, p55, psc, pl2, pg, pd_, ps1, ps2, pslo, pshi, plt, pl⟩ := P
  obtain ⟨F0, F1, F2, F3, F4, F5, F6, F7, F8, F9, F10⟩ := F
  simp [decodeNat, Instr.canonical, decode7, decode7b, selF, immF, rdctrImmOk, getOr, req, bitAt, fin8, fin16, fin64, Bind.bind, Except.bind, Pure.pure, Except.pure, pc, po, pv, p52, p53, p54, p55, psc, pl2, pg, pd_, ps1, ps2, pslo, pshi, pl, F0, F1, F2, F3, F4, F5, F6, F7, F8, F9, F10]

theorem Encoding.resultLatencyExpiry : Encoding.Statement (.resultLatencyExpiry) :=
  Encoding.of_event rfl

theorem Encoding.answerDelivery (id : Nat) : Encoding.Statement (.answerDelivery id) :=
  Encoding.of_event rfl

theorem Encoding.configSwitchEnd (actor : Nat) : Encoding.Statement (.configSwitchEnd actor) :=
  Encoding.of_event rfl

theorem Encoding.lineBoundary (line : Nat) : Encoding.Statement (.lineBoundary line) :=
  Encoding.of_event rfl

theorem Encoding.deferredBoundary (line : Nat) : Encoding.Statement (.deferredBoundary line) :=
  Encoding.of_event rfl

theorem Encoding.bayConfigFetch (tile : Nat) : Encoding.Statement (.bayConfigFetch tile) :=
  Encoding.of_event rfl

theorem Encoding.governorAdjustment (line : Nat) : Encoding.Statement (.governorAdjustment line) :=
  Encoding.of_event rfl

theorem Encoding.waitbWake (actor : Nat) : Encoding.Statement (.waitbWake actor) :=
  Encoding.of_event rfl

theorem Encoding.flitSend (tile : Nat) (port : Fin 4) : Encoding.Statement (.flitSend tile port) :=
  Encoding.of_event rfl

theorem Encoding.flitArrival (id : Nat) : Encoding.Statement (.flitArrival id) :=
  Encoding.of_event rfl

theorem Encoding.requestTokenArrival (id : Nat) : Encoding.Statement (.requestTokenArrival id) :=
  Encoding.of_event rfl

theorem Encoding.parkedDelivery (die dest : Nat) : Encoding.Statement (.parkedDelivery die dest) :=
  Encoding.of_event rfl

theorem Encoding.homeAccess (id : Nat) : Encoding.Statement (.homeAccess id) :=
  Encoding.of_event rfl

theorem Encoding.translationWalk (die : Nat) : Encoding.Statement (.translationWalk die) :=
  Encoding.of_event rfl

theorem Encoding.migrationRewalk (die : Nat) : Encoding.Statement (.migrationRewalk die) :=
  Encoding.of_event rfl

theorem Encoding.migrationTimeout (die : Nat) : Encoding.Statement (.migrationTimeout die) :=
  Encoding.of_event rfl

theorem Encoding.firstTouch (id : Nat) : Encoding.Statement (.firstTouch id) :=
  Encoding.of_event rfl

theorem Encoding.evaluationStart (die evid : Nat) : Encoding.Statement (.evaluationStart die evid) :=
  Encoding.of_event rfl

theorem Encoding.waiterJoin (id : Nat) : Encoding.Statement (.waiterJoin id) :=
  Encoding.of_event rfl

theorem Encoding.parking (die evid : Nat) : Encoding.Statement (.parking die evid) :=
  Encoding.of_event rfl

theorem Encoding.waking (die evid : Nat) : Encoding.Statement (.waking die evid) :=
  Encoding.of_event rfl

theorem Encoding.groupResolution (id : Nat) : Encoding.Statement (.groupResolution id) :=
  Encoding.of_event rfl

theorem Encoding.evaluationAbandon (die evid : Nat) (cause : BitVec 8) : Encoding.Statement (.evaluationAbandon die evid cause) :=
  Encoding.of_event rfl

theorem Encoding.barrierWithdrawal (pa i : Nat) : Encoding.Statement (.barrierWithdrawal pa i) :=
  Encoding.of_event rfl

theorem Encoding.launchRecordTake (die : Nat) : Encoding.Statement (.launchRecordTake die) :=
  Encoding.of_event rfl

theorem Encoding.dispatch (die : Nat) : Encoding.Statement (.dispatch die) :=
  Encoding.of_event rfl

theorem Encoding.streamLoad (line ctx : Nat) (va : Word) (len : Nat) : Encoding.Statement (.streamLoad line ctx va len) :=
  Encoding.of_event rfl

theorem Encoding.configWriteEffect (tile : Nat) : Encoding.Statement (.configWriteEffect tile) :=
  Encoding.of_event rfl

theorem Encoding.lineExit (line : Nat) : Encoding.Statement (.lineExit line) :=
  Encoding.of_event rfl

theorem Encoding.graphEnd (graph : Nat) : Encoding.Statement (.graphEnd graph) :=
  Encoding.of_event rfl

theorem Encoding.resizeWidths (line : Nat) : Encoding.Statement (.resizeWidths line) :=
  Encoding.of_event rfl

theorem Encoding.regulatorPeriod (die : Nat) : Encoding.Statement (.regulatorPeriod die) :=
  Encoding.of_event rfl

theorem Encoding.budgetFreeze (die : Nat) (kind : Fin 6) (index : Nat) : Encoding.Statement (.budgetFreeze die kind index) :=
  Encoding.of_event rfl

theorem Encoding.ctrlThaw (ctx : Nat) (kind : BitVec 8) (index : Nat) (die : Fin 4) : Encoding.Statement (.ctrlThaw ctx kind index die) :=
  Encoding.of_event rfl

theorem Encoding.ctrlTeardown (ctx : Nat) : Encoding.Statement (.ctrlTeardown ctx) :=
  Encoding.of_event rfl

theorem Encoding.ctrlInvalidate (ctx : Nat) : Encoding.Statement (.ctrlInvalidate ctx) :=
  Encoding.of_event rfl

theorem Encoding.trapRecordWrite : Encoding.Statement (.trapRecordWrite) :=
  Encoding.of_event rfl

theorem Encoding.ringStallTimeout : Encoding.Statement (.ringStallTimeout) :=
  Encoding.of_event rfl

theorem Encoding.watchdogExpiry (line : Nat) : Encoding.Statement (.watchdogExpiry line) :=
  Encoding.of_event rfl

theorem Encoding.remoteTimeout (id : Nat) : Encoding.Statement (.remoteTimeout id) :=
  Encoding.of_event rfl

theorem Encoding.streamElement (die engine : Nat) : Encoding.Statement (.streamElement die engine) :=
  Encoding.of_event rfl

theorem Encoding.jobStart (die engine : Nat) : Encoding.Statement (.jobStart die engine) :=
  Encoding.of_event rfl

theorem Encoding.jobElement (die engine : Nat) : Encoding.Statement (.jobElement die engine) :=
  Encoding.of_event rfl

theorem Encoding.jobCompletion (die engine : Nat) : Encoding.Statement (.jobCompletion die engine) :=
  Encoding.of_event rfl

theorem Encoding.collectiveTimeout (coll : Word) : Encoding.Statement (.collectiveTimeout coll) :=
  Encoding.of_event rfl

theorem Encoding.linkResend (port : Nat) : Encoding.Statement (.linkResend port) :=
  Encoding.of_event rfl

theorem Encoding.routeEntryEffect (dev : Nat) : Encoding.Statement (.routeEntryEffect dev) :=
  Encoding.of_event rfl

theorem Encoding.preemptDrainEnd (ctx : Nat) : Encoding.Statement (.preemptDrainEnd ctx) :=
  Encoding.of_event rfl

theorem Encoding.debugStop (line : Nat) : Encoding.Statement (.debugStop line) :=
  Encoding.of_event rfl

theorem Encoding.intervalRecord (tile : Nat) : Encoding.Statement (.intervalRecord tile) :=
  Encoding.of_event rfl

theorem Encoding.boot : Encoding.Statement (.boot) :=
  Encoding.of_event rfl

theorem Encoding.healthUpdate (die : Nat) : Encoding.Statement (.healthUpdate die) :=
  Encoding.of_event rfl

theorem Encoding.thermalFreeze (die : Nat) : Encoding.Statement (.thermalFreeze die) :=
  Encoding.of_event rfl

theorem Encoding.registerWrite (off : Nat) (v : Word) : Encoding.Statement (.registerWrite off v) :=
  Encoding.of_event rfl

theorem Encoding.devnumWrite (v : Word) : Encoding.Statement (.devnumWrite v) :=
  Encoding.of_event rfl

theorem Encoding.launchQueueEnable (die q : Nat) (w0 w1 : Word) : Encoding.Statement (.launchQueueEnable die q w0 w1) :=
  Encoding.of_event rfl

theorem Encoding.launchQueueDisable (die q : Nat) (w0 : Word) : Encoding.Statement (.launchQueueDisable die q w0) :=
  Encoding.of_event rfl

theorem Encoding.invRange (w0 : Word) : Encoding.Statement (.invRange w0) :=
  Encoding.of_event rfl

theorem Encoding.invContext (w0 : Word) : Encoding.Statement (.invContext w0) :=
  Encoding.of_event rfl

theorem Encoding.invKeyId (w0 : Word) : Encoding.Statement (.invKeyId w0) :=
  Encoding.of_event rfl

theorem Encoding.preCmdPreempt (w0 : Word) : Encoding.Statement (.preCmdPreempt w0) :=
  Encoding.of_event rfl

theorem Encoding.preCmdRestore (w0 : Word) : Encoding.Statement (.preCmdRestore w0) :=
  Encoding.of_event rfl

theorem Encoding.stopRequest (v : Word) : Encoding.Statement (.stopRequest v) :=
  Encoding.of_event rfl

theorem Encoding.stopResume (v : Word) : Encoding.Statement (.stopResume v) :=
  Encoding.of_event rfl

theorem Encoding.hsyncRelSet (ctx : BitVec 8) : Encoding.Statement (.hsyncRelSet ctx) :=
  Encoding.of_event rfl

theorem Encoding.hsyncRelAdd (ctx : BitVec 8) : Encoding.Statement (.hsyncRelAdd ctx) :=
  Encoding.of_event rfl

theorem Encoding.hsyncAcqEq (ctx : BitVec 8) : Encoding.Statement (.hsyncAcqEq ctx) :=
  Encoding.of_event rfl

theorem Encoding.hsyncAcqNe (ctx : BitVec 8) : Encoding.Statement (.hsyncAcqNe ctx) :=
  Encoding.of_event rfl

theorem Encoding.hsyncAcqGe (ctx : BitVec 8) : Encoding.Statement (.hsyncAcqGe ctx) :=
  Encoding.of_event rfl

theorem Encoding.hsyncAcqAny (ctx : BitVec 8) : Encoding.Statement (.hsyncAcqAny ctx) :=
  Encoding.of_event rfl

theorem Encoding.hsyncLockWait (ctx : BitVec 8) : Encoding.Statement (.hsyncLockWait ctx) :=
  Encoding.of_event rfl

theorem Encoding.hsyncLockTry (ctx : BitVec 8) : Encoding.Statement (.hsyncLockTry ctx) :=
  Encoding.of_event rfl

theorem Encoding.hsyncLockRel (ctx : BitVec 8) : Encoding.Statement (.hsyncLockRel ctx) :=
  Encoding.of_event rfl

theorem Encoding.replicaTableWrite (ctx ch : Nat) (v : BitVec 128) : Encoding.Statement (.replicaTableWrite ctx ch v) :=
  Encoding.of_event rfl

theorem Encoding.routeTableWrite (word : Nat) (v : Word) : Encoding.Statement (.routeTableWrite word v) :=
  Encoding.of_event rfl

theorem Encoding.kemNew (ctx : BitVec 8) : Encoding.Statement (.kemNew ctx) :=
  Encoding.of_event rfl

theorem Encoding.kemSet (ctx : BitVec 8) (ct : Nat) : Encoding.Statement (.kemSet ctx ct) :=
  Encoding.of_event rfl

theorem Encoding.keyNew (ctx : BitVec 8) : Encoding.Statement (.keyNew ctx) :=
  Encoding.of_event rfl

theorem Encoding.attestationReport (nonce : BitVec 512) (ctx : BitVec 8) : Encoding.Statement (.attestationReport nonce ctx) :=
  Encoding.of_event rfl

theorem Encoding.measExtend (k : Nat) (digest : BitVec 512) : Encoding.Statement (.measExtend k digest) :=
  Encoding.of_event rfl

theorem Encoding.signerRegister (key : BitVec 512) : Encoding.Statement (.signerRegister key) :=
  Encoding.of_event rfl

theorem Encoding.managementThaw (kind : BitVec 8) (index : Nat) (die : Fin 4) (ctx : Nat) : Encoding.Statement (.managementThaw kind index die ctx) :=
  Encoding.of_event rfl

theorem Encoding.managementTeardown (ctx : Nat) : Encoding.Statement (.managementTeardown ctx) :=
  Encoding.of_event rfl

theorem Encoding.cacheLineEviction (rdc : Bool) (owner block : Nat) : Encoding.Statement (.cacheLineEviction rdc owner block) :=
  Encoding.of_event rfl

theorem Encoding.storedByteError (block byte : Nat) (v : BitVec 8) : Encoding.Statement (.storedByteError block byte v) :=
  Encoding.of_event rfl

theorem Encoding.backgroundCorrection (block : Nat) : Encoding.Statement (.backgroundCorrection block) :=
  Encoding.of_event rfl

theorem Encoding.frameScrub (frame key : Nat) : Encoding.Statement (.frameScrub frame key) :=
  Encoding.of_event rfl

theorem Encoding.scratchpadScrub (tile : Nat) : Encoding.Statement (.scratchpadScrub tile) :=
  Encoding.of_event rfl

theorem Encoding.dirtyWriteback (tile block : Nat) : Encoding.Statement (.dirtyWriteback tile block) :=
  Encoding.of_event rfl

theorem Encoding.rdcWriteback (die block : Nat) : Encoding.Statement (.rdcWriteback die block) :=
  Encoding.of_event rfl

theorem Encoding.hostWindowRead (off n : Nat) : Encoding.Statement (.hostWindowRead off n) :=
  Encoding.of_event rfl

theorem Encoding.hostWindowWrite (off n : Nat) (data : Blk) : Encoding.Statement (.hostWindowWrite off n data) :=
  Encoding.of_event rfl

theorem Encoding.strayWindowAccess (off : Nat) (isWrite : Bool) : Encoding.Statement (.strayWindowAccess off isWrite) :=
  Encoding.of_event rfl

theorem Encoding.linkFrameReceive (port : Nat) (seq ack : BitVec 12) (crcOk : Bool) (flit : Blk) : Encoding.Statement (.linkFrameReceive port seq ack crcOk flit) :=
  Encoding.of_event rfl

theorem Encoding.portDown (port : Nat) : Encoding.Statement (.portDown port) :=
  Encoding.of_event rfl

theorem Encoding.linkRetrain (port : Nat) : Encoding.Statement (.linkRetrain port) :=
  Encoding.of_event rfl

end Sys2Proof.Laws
end

