-- ==== Sys2Proof/Tests/Slice0.lean ====
section
/-! SUPPORT. The model's own tests: ill-formed terms that WellFormed refuses, words written out from the spec's encodings,
single steps, and for every statement with hypotheses a state and operands that meet them. -/

section
set_option Elab.async false

namespace Sys2Proof.Tests
open Sys2Proof Sys2Proof.Machine Sys2Proof.Spec

-- WELL-FORMED TERMS: ONE ILL-FORMED TERM FOR EACH CHECK

theorem test_wf_bfx : (Instr.bfx false 60 4 none 1 2).wellFormed = false := by decide
theorem test_wf_bfi : (Instr.bfi 63 1 none 1 2).wellFormed = false := by decide
theorem test_wf_cmp : (Instr.cmp .i64 .un 1 2 3).wellFormed = false := by decide
theorem test_wf_cmpi : (Instr.cmpi false .un 1 2 0).wellFormed = false := by decide
theorem test_wf_fcvt_sat : (Instr.fcvt .fromFp16 .rn true none 1 2).wellFormed = false := by decide
theorem test_wf_fcvt_rm : (Instr.fcvt .fromBf16 .rz false none 1 2).wellFormed = false := by decide
theorem test_wf_vadd_format : (Instr.vadd .one .rn false (.cb 0) 127 1 2 3).wellFormed = false := by decide
theorem test_wf_vadd_rm : (Instr.vadd .one .rz false .int32 127 1 2 3).wellFormed = false := by decide
theorem test_wf_vadd_scale : (Instr.vadd .one .rn false .fp32 126 1 2 3).wellFormed = false := by decide
theorem test_wf_vadd_group : (Instr.vadd .two .rn false .fp32 127 1 2 4).wellFormed = false := by decide
theorem test_wf_vmin : (Instr.vmin .one .rn false .raw 127 1 2 3).wellFormed = false := by decide
theorem test_wf_vabs : (Instr.vabs .four .rn false .fp32 127 4 2).wellFormed = false := by decide
theorem test_wf_vand : (Instr.vand .four 4 8 2).wellFormed = false := by decide
theorem test_wf_vshl_format : (Instr.vshl .one .fp32 (.imm 1) 1 2).wellFormed = false := by decide
theorem test_wf_vshl_amount : (Instr.vshl .two .int32 (.lanes 3) 2 4).wellFormed = false := by decide
theorem test_wf_vcmp_un : (Instr.vcmp .one .un false .int32 none 1 2 3).wellFormed = false := by decide
theorem test_wf_vcmp_uns : (Instr.vcmp .one .lt true .fp32 none 1 2 3).wellFormed = false := by decide
theorem test_wf_vsel : (Instr.vsel .one (.cb 1) 1 2 3).wellFormed = false := by decide
theorem test_wf_vrcp : (Instr.vrcp .one .rn false .e4m3 127 1 2).wellFormed = false := by decide
theorem test_wf_vcvt : (Instr.vcvt .one .rn false .raw 127 0 1 2).wellFormed = false := by decide
theorem test_wf_vqnt : (Instr.vqnt .one .rn false .fp32 1 2).wellFormed = false := by decide
theorem test_wf_vred : (Instr.vred .sum .two .rn false .fp32 127 none 1 3).wellFormed = false := by decide
theorem test_wf_vscan : (Instr.vscan .sum .two .rn false .fp32 127 1 2).wellFormed = false := by decide
theorem test_wf_vperm : (Instr.vperm .two .fp32 1 2 4).wellFormed = false := by decide
theorem test_wf_vbcast : (Instr.vbcast .one .bf16 0xFF 1 2).wellFormed = false := by decide
theorem test_wf_vbcastLane : (Instr.vbcastLane .one .int64 8 1 2).wellFormed = false := by decide
theorem test_wf_viota : (Instr.viota .one .fp32 1 1 2).wellFormed = false := by decide
theorem test_wf_vmovgCp : (Instr.vmovgCp .four 4 6).wellFormed = false := by decide
theorem test_wf_mldt : (Instr.mldt .raw 1 2 3).wellFormed = false := by decide
theorem test_wf_mst : (Instr.mst .fp32 .rn false 1 (.m 2) 3).wellFormed = false := by decide
theorem test_wf_mst_target : (Instr.mst .int64 .rn false 1 (.a 2) 3).wellFormed = false := by decide
theorem test_wf_mma_queue : (Instr.mma false false .bf16 1 (.queue 1) (.sp 2) 3).wellFormed = false := by decide
theorem test_wf_mma_fwd : (Instr.mma true false .bf16 1 (.m 1) (.m 2) 3).wellFormed = false := by decide
theorem test_wf_maccQueue : (Instr.maccQueue .int8 .rn false 1 2 3).wellFormed = false := by decide
theorem test_wf_mdrain : (Instr.mdrain (.cb 0) .rn false 1 2 (.reg 3) 4).wellFormed = false := by decide
theorem test_wf_mtrsm : (Instr.mtrsm false false false false 1 1 3).wellFormed = false := by decide
theorem test_wf_mqapp : (Instr.mqapp false 0 2 2 1 3).wellFormed = false := by decide
theorem test_wf_steer : (Instr.steer 1 2 2).wellFormed = false := by decide
theorem test_wf_sethdr : (Instr.sethdr .fmt 1 none).wellFormed = false := by decide
theorem test_wf_switch : (Instr.switch (.imm 8) none).wellFormed = false := by decide
theorem test_wf_pull : (Instr.pull 1 0 none).wellFormed = false := by decide
theorem test_wf_beatB : (Instr.beatB 1 7).wellFormed = false := by decide
theorem test_wf_rdctr : (Instr.rdctr 1 5 1).wellFormed = false := by decide

-- WORDS WRITTEN OUT FROM THE ENCODINGS

/-- The word of the worked example under R208's class 000: ADD.i64 g3, g4, g5. -/
theorem test_decode_add : decode 0x0030304050000000 = .ok (.add .i64 false none 3 4 5) := by decide
/-- Class 000, FADD 0x16, D 01, S1 02, S2 04, PDE 1, PD 3, RM 001, SAT 1 (R198, R243). -/
theorem test_decode_fadd : decode 0x160010204B300000 = .ok (.fadd .rz true (some 3) 1 2 4) := by decide
/-- Class 001, ADDI 0x00, variant 5 (n16), D 05, S1 06, IMM all ones (R199, R246). -/
theorem test_decode_addi : decode 0x2050506000FFFFFF = .ok (.addi .n16 none 5 6 0xFFFFFF) := by decide
/-- The word that the spec writes out for LD (R265). -/
theorem test_decode_ld : decode 0x4020502020030204 = .ok (.ld .i32 (.plain 2) .cached 5 2 ⟨3, 2, 4⟩) := by decide
/-- The word that the spec writes out for ACAS (R274). -/
theorem test_decode_acas : decode 0x4A7060207E050406 = .ok (.acas 3 true .acqRel true 6 2 7 ⟨5, 4, 6⟩) := by decide
/-- Class 010, ACQ 0x12, SCOPE 4, D 01, S1 02, S2 03, SUB 0010 (R200, R276). -/
theorem test_decode_acq : decode 0x5280102032010203 = .ok (.acqFlagWait .ge 4 1 2 3 ⟨1, 2, 3⟩) := by decide
/-- Class 010, SLD 0x04, variant 1 (i16), D 04, S1 03 (R200, R272). -/
theorem test_decode_sld : decode 0x4410403000000000 = .ok (.sld .i16 (.index 3) 4) := by decide
/-- The word that the spec writes out for VQNT (R301). -/
theorem test_decode_vqnt : decode 0x7442824000040000 = .ok (.vqnt .two .rn false .e4m3 8 4) := by decide
/-- Class 100, MMA 0x04, D a1, S1 m2, S2 m3, FMT 0x02, GX 5 (R195, R202, R323). -/
theorem test_decode_mma : decode 0x8406142430025000 = .ok (.mma false false .bf16 1 (.m 2) (.m 3) 5) := by decide
/-- The word that the spec writes out for JCOPY (R351). -/
theorem test_decode_jcopy : decode 0xA20040200001FEFE = .ok (.jcopy 4 2 ⟨1, 0xFE, 0xFE⟩) := by decide
/-- The operation word of the worked slot of chapter 8: EMIT oq1, iq0 -> p5. -/
theorem test_decode_emit : decode 0xC10C1A000000D800 = .ok (.emit 1 (.queue 0) (some (5, true))) := by decide
/-- Class 111, TRAP 0x00, S1 09, SEL 3, IMM 0x1234 (R205, R359). -/
theorem test_decode_trap : decode 0xE000009000031234 = .ok (.trap true (some 9) 0x1234) := by decide
/-- An unassigned opcode, a reserved bit and a vacant slot's word do not decode (R209, R210). -/
theorem test_decode_unassigned : decode 0x2C00000000000000 = .error .opcodeUnassigned := by decide
theorem test_decode_reserved : decode 0x0030304050000001 = .error .reservedBits := by decide
theorem test_decode_vacant : decode 0xFFFFFFFFFFFFFFFF = .error .opcodeUnassigned := by decide

-- SMALL STATES

/-- A g register holding a number. -/
def num (x : Nat) : GReg := ⟨BitVec.ofNat 64 x, Pair.int64⟩
/-- A g register holding an error token. -/
def tokReg : GReg := ⟨0x0D, ⟨0xFF, 0xFF⟩⟩
/-- A v register holding an error token. -/
def tokVec : VReg := ⟨0x0D, ⟨0xFF, 0xFF⟩⟩
/-- A unit about to fire: station 0 of line 0 on tile 0, with bank 0 as given. -/
def unitOf (g : Sparse GReg) (v : Sparse VReg) (p : BitVec 8) (a : Actor) : State :=
  { State.reset with
    agenda := [], cur := firstFiring 0, tiles := [(0, { Tile.reset with banks := [(0, ⟨g, v, p⟩)] })], actors := [(stationKey 0 0, a)] }
/-- A station of context 1. -/
def stationOne : Actor := { Actor.idle with ctx := 1 }
/-- Registers of numbers: g1 = 7, g2 = −2, g3 = 0, g4 = 64; a token in g5 and v5. -/
def unit : State :=
  unitOf [(1, num 7), (2, num 0xFFFFFFFFFFFFFFFE), (4, num 64), (5, tokReg)] [(1, ⟨1, Pair.raw⟩), (5, tokVec)] 1 stationOne
/-- An item that a unit holds. -/
def itemOne : Item := ⟨⟨HState.zero, none, false, false, 0, [], 0, false⟩, none, false, none, false, false, 0, []⟩
/-- The same unit with an item. -/
def unitItem : State := unitOf [(1, num 7)] [] 1 { stationOne with item := some itemOne, levels := 3 }
/-- FP32 numbers: g1 = 1.0, g2 = −0.5, g3 = +infinity, g4 = −infinity, g5 = a NaN, g6 = +0. -/
def unitFp : State :=
  unitOf [(1, num 0x3F800000), (2, num 0xBF000000), (3, num 0x7F800000), (4, num 0xFF800000), (5, num 0x7FC00001)] [] 0 stationOne

-- EACH STATEMENT'S HYPOTHESES ARE MET: ENCODING, STEPPING AND SCALAR INTEGER

theorem test_meets_encodeThenDecode : (Instr.add .i64 false none 3 4 5).wellFormed = true ∧
    encode (.add .i64 false none 3 4 5) = some 0x0030304050000000 := by decide
theorem test_meets_decodeThenEncode : decode 0x0030304050000000 = .ok (.add .i64 false none 3 4 5) := by decide
theorem test_meets_stepRunsDecoded :
    ∃ (s : State) (f : Firing) (r : List Act) (i : Instr), s.agenda = .fire f :: r ∧
      decode (slotOp (((s.tile f.tile).cfg f.cfg).slot f.slot)) = .ok i ∧ (s.actor f.actor).reissue = none :=
  ⟨{ unit with
      agenda := [.fire (firstFiring 0)]
      tiles := [(0, { Tile.reset with cfgs := [(0, { Cfg.empty with slots := [(0, 0x0030304050000000)] })] })] },
    firstFiring 0, [], .add .i64 false none 3 4 5, by decide, by decide, by decide⟩
theorem test_meets_stepRunsDecoded_event :
    ∃ (s : State) (i : Instr) (r : List Act), s.agenda = .event i :: r ∧ s.heldBack i = false :=
  ⟨State.reset, .boot, [], by decide, by decide⟩
theorem test_meets_stopsOnlyAtIllegalSlot : step { unit with agenda := [.fire (firstFiring 0)] } = .fault .illegalSlot := by rfl
theorem test_meets_integerArithmetic : plain unit [1, 2] := by unfold plain; decide
theorem test_meets_division : plain unit [1, 2] ∧ operand .i64 (unit.g 3).val = 0 ∧ operand .i64 (unit.g 2).val ≠ 0 := by
  unfold plain; decide
theorem test_meets_logicShiftsBitFields : plain unit [1, 4] ∧ operand .i64 (unit.g 1).val ≠ 0 ∧ (63 : Fin 64).val + (0 : Fin 64).val ≤ 63 := by
  unfold plain; decide
theorem test_meets_selectCompareWidx : plain unit [1, 2] ∧ unitItem.me.holds = true ∧ unit.me.holds = false := by
  unfold plain; decide

-- SCALAR FP32

theorem test_meets_fpFinite : plain unitFp [1, 2, 6] ∧ finite fFP32 (low unitFp 1) ∧ finite fFP32 (low unitFp 2) ∧
    finite fFP32 (low unitFp 6) := by unfold plain finite mag; decide
theorem test_meets_fpSpecial : plain unitFp [3, 4, 5] ∧ infinite fFP32 (low unitFp 3) ∧ infinite fFP32 (low unitFp 4) ∧
    isNan fFP32 (low unitFp 5) ∧ neg fFP32 (low unitFp 3) ≠ neg fFP32 (low unitFp 4) ∧ mag fFP32 (low unitFp 6) = 0 := by
  unfold plain isNan infinite finite mag neg; decide
theorem test_meets_fpSpecial_infinity : nanOps [low unitFp 3, low unitFp 1] = [] := by
  have h1 : ¬ isNan fFP32 (low unitFp 3) := by unfold isNan infinite finite mag; decide
  have h2 : ¬ isNan fFP32 (low unitFp 1) := by unfold isNan infinite finite mag; decide
  simp [nanOps, h1, h2]
theorem test_meets_fpMinMaxCompare : plain unitFp [1, 5] ∧ nanOps [low unitFp 1, low unitFp 5] ≠ [] := by
  have h : isNan fFP32 (low unitFp 5) := by unfold isNan infinite finite mag; decide
  refine ⟨by unfold plain; decide, ?_⟩
  simp [nanOps, List.filter_cons, h]
  split <;> simp
theorem test_meets_fpConvert : plain unitFp [1] ∧ finite fFP32 (low unitFp 1) ∧ infinite fFP32 (low unitFp 4) ∧
    isNan fFP32 (low unitFp 5) ∧ finite fBF16 0x3F80 ∧ infinite fBF16 0x7F80 ∧ isNan fBF16 0x7FC0 := by
  unfold plain isNan infinite finite mag; decide

-- IMMEDIATES, TOKENS AND RESULTS

theorem test_meets_immediates : plain unit [1] := by unfold plain; decide
theorem test_meets_movesAndPredicates : plain unit [1] ∧ (5#8).getLsbD 2 = true := by unfold plain; decide
theorem test_meets_scalarTokens : scalarShape (.add .i64 false none 3 1 5) = some (1, [1] ++ 5 :: [], some 3, [], .rn) ∧
    plain unit [1] ∧ (unit.g 5).isTok = true := ⟨by rfl, by unfold plain; decide, by decide⟩
theorem test_meets_resultDelivery : (∀ x, Wr.g 0 2 x ∉ [Wr.g 0 1 (num 7)]) ∧
    (∃ r ∈ ({ unit with results := [⟨0, firstFiring 0, [], none⟩] } : State).results, r.due ≤ 0) ∧
    (∃ r ∈ ({ unit with results := [⟨3, firstFiring 0, [], none⟩] } : State).results, 0 < r.due) := by
  refine ⟨?_, ⟨_, List.mem_singleton.2 rfl, by decide⟩, ⟨_, List.mem_singleton.2 rfl, by decide⟩⟩
  intro x; simp
theorem test_meets_resultDelivery_token :
    let r : Result := ⟨0, firstFiring 0, [.g 0 1 (num 7)], none⟩
    let s : State := { unitItem with results := [r] }
    let q : Result := { r with tok := some ⟨5, true⟩ }
    let t : State := { unit with results := [q] }
    (∀ x ∈ s.tiles, x.2.run = none) ∧ [r] = s.results.filter (fun r => decide (r.due ≤ s.cycle)) ∧ r.tok = none ∧
    (∀ x ∈ t.tiles, x.2.run = none) ∧ q.due ≤ t.cycle ∧ (t.actor q.fire.actor).item = none ∧
    (unitItem.actor q.fire.actor).item = some itemOne ∧ itemOne.record = none := by decide +kernel

-- MEMORY, SYNC AND CELL INSTRUCTIONS AT ISSUE

/-- A FLAG descriptor in v1 and its object's owner fields zero. -/
def unitObj : State := unitOf [(1, num 0x1000)] [(1, ⟨2, Pair.raw⟩), (2, ⟨9, Pair.raw⟩), (5, tokVec)] 0 stationOne
theorem test_meets_objectIssue : refusal unitObj [1] (place (reg unitObj 1) (.plain 0) 64) 64 = none ∧
    (unitObj.v 1).isTok = false ∧ goodObject (unitObj.v 1).val ∧ (unitObj.v 5).isTok = true := by
  unfold goodObject; decide +kernel
theorem test_meets_objectIssue_bad : (unitObj.v 2).isTok = false ∧ ¬ goodObject (unitObj.v 2).val ∧
    (refusal unitObj [1] 0x1001 64).isSome = true := by unfold goodObject; decide +kernel
theorem test_meets_cellIssue : refusal unitObj [1, 2, 4, 5] 0 1 = none ∧ (reg unitObj 1).toNat % 64 = 0 ∧
    (fmtOf ((reg unitObj 5).toNat / 256)).isSome = true := by decide
/-- An access that waits in the memory interface of the unit. -/
def accOf (i : Instr) (st : Stage) : Access where
  id := 3
  actor := 0
  ctx := 1
  fire := firstFiring 0
  org := ⟨0, 0, 0, 0, 0, 0, 0, 0, 0, 0⟩
  op := i
  va := 0x1000
  a := 1
  b := 0
  c := 0
  data := VReg.zero
  bulk := []
  wave := some ⟨1, 0xFF, 0xFE⟩
  order := 0
  stage := st
  failed := false
  leaf := none
  pa := 0x1000
  sentAt := 0
  aux := 0
  discard := false
  noAcq := false
  binds := []
  ans := ⟨none, none, none, none⟩
theorem test_meets_waveOrder :
    let s := { unit with accs := [accOf (.ld .i64 (.plain 0) .cached 1 2 ⟨5, 4, 6⟩) .buffered] }
    s.waveCount 0 ≤ 1 ∧ ∃ a ∈ (s.acceptWave 0 1).accs, a.actor = 0 ∧ a.stage = .buffered := by
  refine ⟨by decide, ?_⟩
  exact ⟨_, List.mem_cons_self, by decide, by decide⟩

-- WHAT ACCESSES FIND AT HOME

/-- A context with nothing set but its key id, 0. -/
def ctxOne : Ctx :=
  ⟨0, 0, false, 0, 0, 0, 0, [], [], 0, 0, 0, [], [], 1, false, [], [], [], [], [], 0, 0, 0, 0⟩
/-- The block at 0x1000 with the given bytes and tag, context 1, and one access that has been sent to it. -/
def homeOf (mem : List Host.Cell) (tag : BitVec 4) (a : Access) : State :=
  { unit with
    mem := mem, sides := [(0x40, ⟨0, 127, tag⟩)], keyed := [(0x40, 0)], ctxs := [(1, ctxOne)]
    accs := [a] }
def w0 : Wave := ⟨1, 0xFF, 0xFE⟩
def lockFree : List Host.Cell := [(0x1000, 1), (0x1002, 1)]
def lockHeld : List Host.Cell := [(0x1000, 1), (0x1002, 1), (0x1008, 1)]
def lockAcc : Access := accOf (.acqLockWait 0 1 2 3 w0) .sent
def tryAcc : Access := accOf (.acqLockTry 0 1 2 3 w0) .sent
def relAcc : Access := accOf (.relLock 0 2 3 w0) .sent
/-- A waiter at the object. -/
def waiter (i : Instr) : Access := { accOf i .waiting with id := 4, actor := 1, order := 1 }

-- WHAT MAKES THE BLOCK OF AN ACCESS READABLE, OUT OF THE CACHES, AND A LIVE OBJECT OF ITS CONTEXT

theorem sound_of {s : State} {a : Access} (he : Sparse.get s.errs [] (paOf a.pa / 64) = [] := by decide +kernel)
    (h2 : s.l2 = [] := by rfl) (hk : Sparse.find? s.keyed (paOf a.pa / 64) = some (s.keyTag a.key) := by decide +kernel) :
    sound s a := ⟨⟨he, by simp [h2, Sparse.find?]⟩, hk⟩
theorem left_of {s : State} {a : Access} {n : Nat} (h1 : ∀ k, s.l1Of a k = none := by intro _; rfl)
    (hr : (s.die a.die).rdc = [] := by rfl) : left s a n :=
  fun _ _ k _ => ⟨h1 k, by simp [hr, Sparse.find?]⟩
theorem object_of {s : State} {a : Access} {k : Nat} (hs : sound s a) (hl : left s a 0)
    (h : (s.side (paOf a.pa)).tag = 4 ∧ s.launchObj (paOf a.pa) = false ∧ Spec.fld s a 16 8 = a.ctx ∧ Spec.fld s a 0 8 = k :=
      by decide +kernel) : object s a k := ⟨hs, hl, h⟩

theorem test_meets_locks_acquire : atHome (homeOf lockFree 4 lockAcc) lockAcc ∧ byUnit lockAcc ∧
    object (homeOf lockFree 4 lockAcc) lockAcc 1 ∧ Spec.fld (homeOf lockFree 4 lockAcc) lockAcc 64 1 = 0 :=
  ⟨by unfold atHome State.memWf; decide +kernel, by unfold byUnit; decide, object_of sound_of left_of, by decide +kernel⟩
theorem test_meets_locks_wait : object (homeOf lockHeld 4 lockAcc) lockAcc 1 ∧
    Spec.fld (homeOf lockHeld 4 lockAcc) lockAcc 64 1 = 1 ∧ (homeOf lockHeld 4 lockAcc).syncWaiting 0 < 16384 :=
  ⟨object_of sound_of left_of, by decide +kernel⟩
theorem test_meets_locks_release : atHome (homeOf lockHeld 4 relAcc) relAcc ∧ Spec.fld (homeOf lockHeld 4 relAcc) relAcc 64 1 = 1 ∧
    (homeOf lockHeld 4 relAcc).objWaiters 0x1000 = [] ∧
    ({ homeOf lockHeld 4 relAcc with accs := [relAcc, waiter (.acqLockWait 0 1 2 3 w0)] } : State).objWaiters 0x1000 =
      [waiter (.acqLockWait 0 1 2 3 w0)] := by
  unfold atHome State.memWf; decide +kernel
def flagAcc : Access := accOf (.acqFlagWait .ge 0 1 2 3 w0) .sent
def setAcc : Access := accOf (.relSet 0 2 3 w0) .sent
def flagMem (v : BitVec 8) : List Host.Cell := [(0x1000, 2), (0x1002, 1), (0x1008, v)]
theorem test_meets_flags : atHome (homeOf (flagMem 1) 4 flagAcc) flagAcc ∧ object (homeOf (flagMem 1) 4 flagAcc) flagAcc 2 ∧
    flagReady 1 flagAcc = true ∧ flagReady 0 flagAcc = false ∧
    (waiter (.acqFlagWait .ge 0 1 2 3 w0)) ∈ ({ homeOf (flagMem 1) 4 setAcc with
      accs := [setAcc, waiter (.acqFlagWait .ge 0 1 2 3 w0)] } : State).objWaiters 0x1000 :=
  ⟨by unfold atHome State.memWf; decide +kernel, object_of sound_of left_of, by decide +kernel⟩

def barrAcc : Access := accOf (.barr 0 1 2 3 w0) .sent
def barrMem (arrived : BitVec 8) : List Host.Cell := [(0x1000, 4), (0x1002, 1), (0x1008, 2), (0x1010, arrived)]
theorem test_meets_barrier : atHome (homeOf (barrMem 1) 4 barrAcc) barrAcc ∧ object (homeOf (barrMem 1) 4 barrAcc) barrAcc 4 ∧
    barrAcc.b = 0 ∧ barrAcc.a.toNat < Spec.fld (homeOf (barrMem 1) 4 barrAcc) barrAcc 64 8 ∧
    (Spec.fld (homeOf (barrMem 1) 4 barrAcc) barrAcc 128 128).testBit 1 = false ∧
    (Spec.fld (homeOf (barrMem 1) 4 barrAcc) barrAcc 128 128).testBit 0 = true ∧
    (Spec.fld (homeOf (barrMem 1) 4 barrAcc) barrAcc 256 128).testBit 1 = false :=
  ⟨by unfold atHome State.memWf; decide +kernel, object_of sound_of left_of, by decide +kernel⟩
theorem test_meets_barrier_over : (Spec.fld (homeOf (barrMem 2) 4 barrAcc) barrAcc 128 128).testBit 1 = true := by decide +kernel
/-- A barrier's request with n waiters of its die. -/
def barrFull (n : Nat) : State :=
  { homeOf (barrMem 1) 4 barrAcc with accs := barrAcc :: List.replicate n (waiter (.barr 0 1 2 3 w0)) }
theorem barrFull_waits (n : Nat) : (barrFull n).syncWaiting 0 = n := by
  have h : ((waiter (.barr 0 1 2 3 w0)).stage = .waiting ∧ (devOf (waiter (.barr 0 1 2 3 w0)).pa == 0) = true ∧
      (homeDie (paOf (waiter (.barr 0 1 2 3 w0)).pa) == 0) = true) ∧ (waiter (.barr 0 1 2 3 w0)).awaitsCell = false ∧
      isMemory (waiter (.barr 0 1 2 3 w0)).op = true := by decide +kernel
  obtain ⟨⟨h1, h2, h3⟩, h4, h5⟩ := h
  have hd : (barrFull n).dev = 0 := rfl
  have hf : (barrAcc.stage = .waiting) = False := by simp [barrAcc, accOf]
  simp only [State.syncWaiting, hd]
  simp [barrFull, hf, h1, h2, h3, h4, h5]
theorem test_meets_barrier_room : ¬ (barrFull 16384).syncWaiting 0 < 16384 ∧
    ∀ y ∈ (barrFull 16384).accs, y.id = barrAcc.id → y = barrAcc := by
  refine ⟨by rw [barrFull_waits]; exact Nat.lt_irrefl _, fun y hy h => ?_⟩
  rcases List.mem_cons.1 hy with rfl | hy
  · rfl
  · rw [(List.mem_replicate.1 hy).2] at h
    exact absurd h (by decide)
def decAcc : Access := accOf (.sdec 0 1 2 3 w0) .sent
def counterMem (c : BitVec 8) : List Host.Cell := [(0x1000, 3), (0x1002, 1), (0x1008, c)]
theorem test_meets_counter : atHome (homeOf (counterMem 1) 4 decAcc) decAcc ∧ object (homeOf (counterMem 1) 4 decAcc) decAcc 3 ∧
    decAcc.a.toNat = Spec.fld (homeOf (counterMem 1) 4 decAcc) decAcc 64 32 ∧ (homeOf (counterMem 1) 4 decAcc).readyRoom 0 = true ∧
    Spec.fld (homeOf (counterMem 0) 4 decAcc) decAcc 64 32 < decAcc.a.toNat ∧
    decAcc.a.toNat < Spec.fld (homeOf (counterMem 2) 4 decAcc) decAcc 64 32 :=
  ⟨by unfold atHome State.memWf; decide +kernel, object_of sound_of left_of, by decide +kernel⟩

def pushAcc : Access := accOf (.rpush 0 true 1 2 3 w0) .sent
def popAcc : Access := accOf (.rpop 0 true 1 2 3 w0) .sent
/-- A ring of two slots whose base is 0x12000, with its two counts. -/
def ringMem (prod cons : BitVec 8) : List Host.Cell :=
  [(0x1000, 5), (0x1002, 1), (0x1009, 0x20), (0x100A, 1), (0x100E, 0x10), (0x1010, prod), (0x1014, cons)].filter (·.2 ≠ 0)
/-- The page 1 of context 1, readable and writable, at device-physical page 1. -/
def pageOne : Leaf := ⟨1, false, 1, 0xF, 0x10000⟩
def ringOf (prod cons : BitVec 8) (a : Access) : State :=
  { homeOf (ringMem prod cons) 4 a with
    keyed := [(0x40, 0), (0x480, 0)], dies := [(0, { Die.reset with tlb := [pageOne] })] }
theorem test_meets_rings_push : atHome (ringOf 0 0 pushAcc) pushAcc ∧ object (ringOf 0 0 pushAcc) pushAcc 5 ∧ pushAcc.aux = 0 ∧
    Spec.fld (ringOf 0 0 pushAcc) pushAcc 64 52 = 0x12000 ∧ Spec.fld (ringOf 0 0 pushAcc) pushAcc 116 5 = 1 ∧
    Spec.fld (ringOf 2 0 pushAcc) pushAcc 128 32 = 2 :=
  ⟨by unfold atHome State.memWf; decide +kernel, object_of sound_of left_of, by decide +kernel⟩
theorem test_meets_rings_reached :
    let s := ringOf 0 0 pushAcc
    tlbFind (s.die 0).tlb 1 0x12000 = some pageOne ∧ s.leafCheck 1 pageOne 0x12000 .store = none ∧
    s.leafCheck 1 pageOne 0x12000 .load = none ∧ paOf (pageOne.addr 0x12000) / 64 ≠ 0x1000 / 64 ∧
    homeDie (paOf (pageOne.addr 0x12000)) = 0 ∧ devOf (pageOne.addr 0x12000) = 0 ∧ pushAcc.aux = 0 := by decide +kernel
theorem test_meets_rings_pop : atHome (ringOf 1 0 popAcc) popAcc ∧ object (ringOf 1 0 popAcc) popAcc 5 ∧
    Spec.fld (ringOf 1 0 popAcc) popAcc 128 32 ≠ Spec.fld (ringOf 1 0 popAcc) popAcc 160 32 ∧
    Sparse.find? (ringOf 1 0 popAcc).keyed 0x480 = some ((ringOf 1 0 popAcc).keyTag pageOne.key) ∧
    ((ringOf 1 0 popAcc).side 0x12000).tag.toNat < 6 ∧ (ringOf 1 0 popAcc).l2 = [] ∧
    Sparse.get (ringOf 1 0 popAcc).errs [] 0x480 = [] :=
  ⟨by unfold atHome State.memWf; decide +kernel, object_of sound_of left_of, by decide +kernel⟩

theorem test_meets_atomics : ∃ o, let a := accOf (.afadd 0 true o 1 2 3 w0) .sent
    atHome (homeOf [(0x1000, 5)] 0 a) a ∧ sound (homeOf [(0x1000, 5)] 0 a) a ∧ left (homeOf [(0x1000, 5)] 0 a) a 0 ∧ turn (homeOf [(0x1000, 5)] 0 a) a ∧ paOf a.pa % 8 = 0 ∧
    ((homeOf [(0x1000, 5)] 0 a).side 0x1000).tag = 0 ∧ ((homeOf [(0x1000, 5)] 4 a).side 0x1000).tag ∈ [1#4, 2#4, 4#4, 5#4] :=
  ⟨.acqRel, by unfold atHome State.memWf; decide +kernel, sound_of, left_of, by unfold turn; decide +kernel, by decide +kernel⟩
def ldbAcc : Access := { accOf (.ldb (.plain 0) .cached 1 2 w0) .sent with leaf := some ⟨1, false, 0, 0x10F, 0⟩ }
theorem test_meets_valueReads : atHome (homeOf [(0x1000, 5)] 0 ldbAcc) ldbAcc ∧ byUnit ldbAcc ∧ sound (homeOf [(0x1000, 5)] 0 ldbAcc) ldbAcc ∧
    (homeOf [(0x1000, 5)] 0 ldbAcc).l1Of ldbAcc (lineKey ldbAcc.key ldbAcc.pa) = none ∧
    ((homeOf [(0x1000, 5)] 3 ldbAcc).side 0x1000).tag = 3 ∧ ((homeOf [(0x1000, 5)] 1 ldbAcc).side 0x1000).tag = 1 ∧
    blk ldbAcc = 0x1000 :=
  ⟨by unfold atHome State.memWf; decide +kernel, by unfold byUnit; decide, sound_of, by decide +kernel⟩
theorem test_meets_valueReads_cells : ∃ l, ldbAcc.leaf = some l ∧ l.cells = true ∧
    ldbAcc.ctx = Blk.fld ((homeOf [(0x101A, 1)] 1 ldbAcc).stored 0x1000) 208 8 := ⟨_, rfl, by decide +kernel, by decide +kernel⟩

/-- A head in evaluation of context 1 with no waiter, and its record. -/
def recOne : EvRec := ⟨7, 0x1000, 1, .ready, none, false, [], 0, Bank.zero, none, [], 0⟩
def evalHome (a : Access) : State := { homeOf [(0x101A, 1)] 2 a with dies := [(0, { Die.reset with recs := [recOne] })] }
theorem test_meets_valueReads_evaluating : ((evalHome ldbAcc).side 0x1000).tag = 2 ∧ ((evalHome ldbAcc).evalOf 0x1000).isSome = true := by
  decide +kernel
def suspAcc : Access := accOf (.csusp 1 2 3 w0) .sent
theorem test_meets_cellGroups_csusp : atHome (homeOf [] 0 suspAcc) suspAcc ∧ left (homeOf [] 0 suspAcc) suspAcc 0 ∧ suspAcc.ctx < 256 ∧
    (∀ i ≤ suspAcc.c.toNat % 64, ((homeOf [] 0 suspAcc).side (blk suspAcc + 64 * i)).tag = 0) ∧ (homeOf [] 0 suspAcc).errs = [] ∧
    (homeOf [] 0 suspAcc).l2 = [] ∧ ((homeOf [] 1 suspAcc).side (blk suspAcc)).tag = 1 :=
  ⟨by unfold atHome State.memWf; decide +kernel, left_of, by decide +kernel⟩
theorem test_meets_cellGroups_touch :
    let s := homeOf [(0x101A, 1)] 1 ldbAcc
    s.acc? ldbAcc.id = some ldbAcc ∧ (s.side 0x1000).tag = 1 ∧ Sparse.find? s.ctxs (Blk.fld (s.stored 0x1000) 208 8) = some ctxOne ∧
    ctxOne.status ≠ 3 ∧ ctxOne.status ≠ 5 ∧ ctxOne.tearing = false ∧ (s.die 0).recs.length < 4096 ∧ (s.die 0).poolSize ≠ 0 ∧
    isEvalKey ldbAcc.actor = false ∧ ldbAcc.actor < 200000 ∧ Blk.fld (s.stored 0x1000) 232 24 = 0 ∧ Blk.fld (s.stored 0x1000) 256 64 = 0 := by
  decide +kernel
theorem test_meets_cellGroups_join : (evalHome ldbAcc).acc? 3 = some ldbAcc ∧ (evalHome ldbAcc).entryFree ldbAcc 0x1000 = true ∧
    Blk.fld ((evalHome ldbAcc).stored 0x1000) 232 3 < 4 ∧ ∃ i < 4, Blk.fld ((evalHome ldbAcc).stored 0x1000) (256 + 64 * i) 64 = 0 := by
  decide +kernel
def cresAcc : Access := accOf (.cres 1 2 3 w0) .sent
theorem test_meets_cellGroups_resolve :
    let s := homeOf [(0x101A, 1)] 1 cresAcc
    s.acc? 3 = some cresAcc ∧ Blk.fld (s.stored 0x1000) 208 8 = cresAcc.ctx ∧ Blk.fld (s.stored 0x1000) 200 6 = 0 ∧
    cresAcc.data.isTok = false ∧ s.errs = [] ∧ s.l2 = [] := by decide +kernel
theorem test_meets_cellGroups_abandon : ((evalHome ldbAcc).die 0).recs.find? (fun x => x.evid == 7) = some recOne ∧
    (evalHome ldbAcc).evalOf 0x1000 = some recOne := by decide +kernel

-- ENGINES, FLOW AND SYSTEM

/-- A line of context 1 with station 0 on tile 0 and BEAT as at creation. -/
def lineOne : Line where
  ctx := 1
  graph := 0
  die := 0
  region := 0
  x0 := 0
  y0 := 0
  w := 1
  h := 1
  bay := []
  stns := [(0, 0)]
  running := true
  counter := 5
  b := 16
  last := 0
  deferred := false
  beat := 0x100000010
  gov := 0
  beatReq := []
  govReq := none
  winBeats := 0
  winOver := 0
  winSlack := []
  fifo := []
  sinks := []
  seqNext := 0
  seqBase := 0
  cycles := []
  watchLimit := 0
  watchCount := 0
  cver := 0
  exiting := false
  exitNow := false
  exited := false
  frozen := false
  frozenAt := 0
  freezeNext := false
  stopReq := false
  stopped := false
  draining := none
  tearing := false
  reserved := []
  splice := none
  sucBeat := 0
  switched := []
  sucPend := []
  sucCfgs := []
  issueBudget := 0
  byteBudget := 0
  issued := 0
  moved := 0
  widw := []
  layer := 0
  chan := none
  expert := none
  kmax := 0
  total := 0
  partials := 0
  slotCtr := none
  code := 0
  variant := 0
  stream := 0
  slen := 0
  reconf := false
  resizing := false
  resized := false
  resize := none
  lokOut := []
  beats := 0
  sunk := 0
  reworked := 0
/-- The unit with its line placed. -/
def unitLine : State := { unit with lines := [(0, lineOne)], ctxs := [(1, ctxOne)] }
theorem test_meets_engineIssue : (unit.v 1).isTok = false ∧ plain unit [1] ∧ (unit.g 5).isTok = true ∧
    unitLine.cur.actor < 32768 ∧ unitLine.line? unitLine.me.line = some lineOne := by unfold plain; decide +kernel
def promAcc : Access := accOf (.prom 1 2) .sent
def jobOne : Job := ⟨0, 0, 1, none, 0, 0, 0, 0, 1, 1, false, 0, none, 0, 1, 0, none, none, 0⟩
def jobHome : State := { homeOf [] 0 promAcc with dies := [(0, { Die.reset with copiers := [(0, ⟨[jobOne], 1⟩)] })] }
theorem test_meets_promStatus : jobHome.acc? 3 = some promAcc ∧ promAcc.stage = .sent ∧ jobHome.jobOf promAcc.a = some (0, 0, jobOne) ∧
    (homeOf [] 0 promAcc).jobOf promAcc.a = none := by decide +kernel

/-- A header of zeros. -/
def hdrOne : Hdr := ⟨0, 0, 0, 0, 0, 0, 0, false, false, false, false, false, false, 0, 127, 0, 0⟩
/-- The unit with an item and one entry in iq0. -/
def queueOf (e : Entry) : State :=
  { unitItem with tiles := [(0, { Tile.reset with iq := [(0, [e])], cfgs := [(1, { Cfg.empty with stn := 1 })] })] }
theorem test_meets_flowQueues : (queueOf ⟨hdrOne, 5, false, true, false⟩).head 0 = some ⟨hdrOne, 5, false, true, false⟩ ∧
    dataFlit ⟨hdrOne, 5, false, true, false⟩ ∧ (queueOf ⟨hdrOne, 0, true, true, false⟩).head 0 = some ⟨hdrOne, 0, true, true, false⟩ ∧
    (queueOf ⟨{ hdrOne with poi := true }, 0, true, true, false⟩).head 0 = some ⟨{ hdrOne with poi := true }, 0, true, true, false⟩ := by
  unfold dataFlit; decide +kernel
theorem test_meets_flowHeaders : (queueOf ⟨hdrOne, 5, false, true, false⟩).head 0 = some ⟨hdrOne, 5, false, true, false⟩ := by
  decide +kernel
theorem test_meets_flowSteering : unitItem.me.item = some itemOne ∧ unit.me.item = none ∧
    ({ Cfg.empty with routes := 0x800 } : Cfg).routes.getLsbD (12 * 0 + 11) = true ∧ neighbour 0 1 = some 1 ∧
    ((queueOf ⟨hdrOne, 5, false, true, false⟩).tile 0).cfg 1 = { Cfg.empty with stn := 1 } ∧
    unitItem.me.kind = .station := by decide +kernel
theorem test_meets_systemInstructions : plain unitLine [1] ∧ unitLine.line? unitLine.me.line = some lineOne ∧
    lineOne.beatReq = [] ∧ unitItem.me.item = some itemOne ∧ (0x100000010 : Word).toNat < 2 ^ 41 ∧
    (0x100000010 : Word).toNat / 2 ^ 32 % 256 ≠ 0 ∧ 8 ≤ (0x100000010 : Word).toNat % 2 ^ 16 := by unfold plain; decide +kernel
/-- The unit of an evaluation: pool slot 0 of die 0. -/
def evalUnit : State :=
  { evalHome ldbAcc with
    cur := { firstFiring 0 with actor := evalKey 0 0 }
    dies := [(0, { Die.reset with recs := [{ recOne with place := .slot 0 }] })] }
theorem test_meets_systemInstructions_eval : isEvalKey evalUnit.cur.actor = true ∧
    (evalUnit.recOf evalUnit.cur.actor) = some (0, { recOne with place := .slot 0 }) ∧ isEvalKey unit.cur.actor = false := by
  decide +kernel
theorem test_meets_rdbeatValues : unitLine.cur.actor < 32768 ∧ unitLine.line? unitLine.me.line = some lineOne := by decide +kernel

-- SCRATCHPAD, VECTORS AND THE MATRIX UNIT

/-- A configuration whose scratchpad window is the first 64 KiB. -/
def wideCfg : Cfg := { Cfg.empty with stn := 0x10000000000000, routes := 0x800 }
/-- The unit under that configuration: g1 a row word with COUNT 1, g2 one with COUNT 64, g3 an n word with n = 2, g5 a
token; the descriptor pair (g8, g9) names rows of 256 bytes from 0. -/
def unitMat (tile : Tile) : State :=
  { State.reset with
    agenda := [], cur := firstFiring 0
    tiles := [(0, { tile with
      cfgs := [(0, wideCfg)]
      banks := [(0, ⟨[(1, num 0x7F00000001), (2, num 0x40), (3, num 2), (4, num 0x7F00000101), (5, tokReg), (8, num 0x10000000000)], [(1, ⟨1, ⟨1, 127⟩⟩), (5, tokVec)], 0⟩)] })]
    actors := [(stationKey 0 0, { stationOne with item := some itemOne })] }
def unitM : State := unitMat Tile.reset
theorem test_meets_scratchpadByIndex : plain unitM [6, 1] ∧ vPlain unitM [1] ∧ (reg unitM 6).toNat = 0 ∧
    (unitM.here.cfg unitM.cur.cfg).stn.toNat / 2 ^ 40 % 256 * 4096 = 0 ∧ (unitM.here.cfg unitM.cur.cfg).stn.toNat / 2 ^ 48 % 256 = 16 ∧
    (reg unitM 1).toNat ≥ 2 ^ 20 := by unfold plain vPlain; decide +kernel
theorem test_meets_vectorBits : vPlain unitM (regsOf .one 1 ++ regsOf .one 2 ++ regsOf .one 3) ∧ Fmt.int32.isInt = true ∧
    Fmt.int32.lanewise = true ∧ plain unitM [6] ∧ (reg unitM 6).toNat < 2 ^ 16 ∧ (fmtOf ((reg unitM 6).toNat % 256)).isSome = true := by
  unfold vPlain plain; decide +kernel
theorem test_meets_vectorInteger : Fmt.int32.isInt = true ∧ readable unitM .int32 (regsOf .one 2 ++ regsOf .one 3 ++ regsOf .one 4) := by
  unfold readable; decide +kernel
theorem test_meets_vectorFloat : Fmt.fp32.arith = true ∧ Fmt.fp32.isInt = false ∧
    readable unitM .fp32 (regsOf .one 1 ++ regsOf .one 2 ++ regsOf .one 3) ∧ (finElt unitM .fp32 (vr unitM 1 0) 1).isSome = true := by
  unfold readable; decide +kernel
theorem test_meets_vectorFunctions : (Fmt.fp32, fFP32) ∈ [(Fmt.fp32, fFP32), (.bf16, fBF16), (.fp16, fFP16)] ∧
    readable unitM .fp32 (regsOf .one 1) ∧ (finElt unitM .fp32 (vr unitM 1 0) 0).isSome = true :=
  ⟨List.mem_cons_self, by unfold readable; decide +kernel, by decide +kernel⟩
theorem test_meets_vectorConversions : (0 : Fin 16).val = 0 ∧ Fmt.fp32 ≠ .raw ∧ (∀ q ∈ regsOf .one 1, (unitM.vn q).isTok = false) ∧
    (∀ q ∈ regsOf .one 1, (unitM.vn q).pair.fmt = Fmt.fp32.code8) ∧ (1 : Fin 16).val % Grp.size .one = 0 ∧
    (∀ q ∈ regsOf .one 1, Fmt.fp32.bits < Fmt.fp32.bits → (unitM.vn q).isTok = false) := by decide +kernel
theorem test_meets_vectorConversions_slices : Grp.size .two ≤ 4 ∧ (1 : Fin 16).val < 4 / Grp.size .two ∧ (4 : Fin 16).val % Grp.size .two = 0 ∧
    (∀ q ∈ [1], Fmt.e4m3.bits < Fmt.fp32.bits → (unitM.vn q).isTok = false) := by decide +kernel

theorem test_meets_matrixMoves : plain unitM [1, 2] ∧ rowGood (rowWord (reg unitM 1)) true true [(unitM.dsc 4).tilePitch] ∧
    spGood unitM 4 4 (rowSpans (unitM.dsc 4) 0 0 1 128) ∧ rowGood (rowWord (reg unitM 2)) false false [(unitM.dsc 4).tilePitch] ∧
    (rowWord (reg unitM 2)).count = 64 ∧ spGood unitM 4 4 (rowSpans (unitM.dsc 4) 0 0 64 128) := by
  unfold plain rowGood spGood; decide +kernel
theorem test_meets_matrixMoves_store : spGood unitM 4 1 (rowSpans (unitM.dsc 4) 0 0 1 128) ∧
    spGood unitM 4 2 (rowSpans (unitM.dsc 4) 0 0 1 128) ∧ Fmt.bf16 ∈ targets ∧ (rowWord (reg unitM 1)).scale = 127 := by
  unfold spGood; decide +kernel
/-- An entry that ends its item. -/
def entryOne : Entry := ⟨hdrOne, 5, false, true, false⟩
def unitQ : State := unitMat { Tile.reset with iq := [(0, [entryOne])] }
theorem test_meets_matrixMoves_queue : rowAt unitQ 0 2 [entryOne] ∧ (rowWord (reg unitQ 1)).clean = true ∧
    (rowWord (reg unitQ 1)).drow + Sparse.get unitQ.me.rc 0 0 < 64 :=
  ⟨⟨⟨entryOne, by decide +kernel, by unfold dataFlit; decide⟩, by decide +kernel, by decide +kernel⟩, by decide +kernel, by decide +kernel⟩
theorem test_meets_matrixMoves_perm : plain unitM [3] ∧ (nWord false (reg unitM 3)).clean = true ∧
    ∀ k < (nWord false (reg unitM 3)).n, unitM.here.pvel 0 k ≤ 63 := by unfold plain; decide +kernel
theorem test_meets_matrixMoves_fst : plain unitM [6] ∧ (reg unitM 6).toNat / 2 ^ 28 % 16 ≤ 6 ∧ (reg unitM 6).toNat % 2 = 0 := by
  unfold plain; decide +kernel
theorem test_meets_matrixProducts : plain unitM [1] ∧ Fmt.bf16 ≠ .raw ∧
    bGood unitM false .bf16 (.m 2) 0 (fun k j => mElt unitM .bf16 2 (k * 64 + j)) ∧
    rowGood (rowWord (reg unitM 1)) true true (pitchOf unitM (.m 2)) ∧
    (∀ k < 2 * (rowWord (reg unitM 1)).count, (matPair .bf16 (unitM.here.mblk 1 (2 * (rowWord (reg unitM 1)).srow + k)).pair).isSome = true) :=
  ⟨by unfold plain; decide +kernel, by decide, ⟨by decide +kernel, fun _ _ => rfl⟩, by unfold rowGood; decide +kernel, by decide +kernel⟩
theorem test_meets_matrixProducts_sp : rowGood (rowWord (reg unitM 1)) true true (pitchOf unitM (.sp 4) ++ pitchOf unitM (.m 2)) ∧
    spGood unitM 4 2 (rowSpans (unitM.dsc 4) 0 0 1 128) := by unfold rowGood spGood; decide +kernel
theorem test_meets_matrixProducts_queue : rowAt unitQ 0 2 [entryOne] ∧ (matPair .bf16 ⟨hdrOne.fmt, hdrOne.scale⟩).isSome = true ∧
    rowAt unitQ 0 (Fmt.fp32.bits / 8) [entryOne] :=
  ⟨⟨⟨entryOne, by decide +kernel, by unfold dataFlit; decide⟩, by decide +kernel, by decide +kernel⟩, by decide +kernel,
    ⟨⟨entryOne, by decide +kernel, by unfold dataFlit; decide⟩, by decide +kernel, by decide +kernel⟩⟩
theorem test_meets_matrixProducts_drain : plain unitM [1, 6] ∧ Fmt.fp32 ∈ targets ∧ rowGood (rowWord (reg unitM 1)) true false [] ∧
    (rowWord (reg unitM 1)).scale = 127 ∧ ((unitM.here.cfg unitM.cur.cfg).route (reg unitM 6).toNat).1 = true ∧
    (reg unitM 6).toNat ≤ 15 ∧ unitM.me.item ≠ none := by unfold plain rowGood; decide +kernel
theorem test_meets_matrixProducts_refused :
    [unitM.gn 8, unitM.gn 9, unitM.g 5].find? (fun x => x.isTok) = some tokReg ∧
    [unitM.gn 8, unitM.gn 9, unitM.g 6].find? (fun x => x.isTok) = none ∧ (rowWord (reg unitM 6)).count = 0 ∧
    (rowWord (reg unitM 1)).count ≠ 64 ∧ (nWord false (reg unitM 6)).clean = false := by decide +kernel
/-- A poisoned entry, and a queue whose row it ends. -/
def entryPoi : Entry := { entryOne with hdr := { hdrOne with poi := true, err := 5 } }
def unitPoi : State := unitMat { Tile.reset with iq := [(0, [{ entryOne with last := false }, entryPoi])] }
theorem test_meets_matrixProducts_poisoned : plain unitPoi [1] ∧ (rowWord (reg unitPoi 1)).clean = true ∧
    unitPoi.head 0 = some { entryOne with last := false } ∧
    (rowEntries (unitPoi.here.queue 0) 2).find? (fun e => e.hdr.poi) = some entryPoi ∧ unitPoi.me.item = some itemOne := by
  unfold plain; decide +kernel
def unitPv : State := unitMat { Tile.reset with pv := [(0, 64)] }
theorem test_meets_matrixProducts_index : ∃ k < (nWord false (reg unitPv 3)).n, 63 < unitPv.here.pvel 0 k :=
  ⟨0, by decide +kernel, by decide +kernel⟩

theorem test_meets_factorIssue : factorArgs (.mluF 1 0 3 4) = some (3, some 4, false, 1) ∧ plain unitM [3] ∧
    (reg unitM 3).toNat = 2 ∧ (unitM.g 5).isTok = true ∧ (reg unitM 6).toNat = 0 ∧ unitM.here.fs.toNat / 2 ^ 27 % 2 = 0 := by
  unfold plain; decide +kernel
/-- A tile with the matrix (2, 1; 1, 3) in accumulator 0. -/
def tileLu : Tile := { Tile.reset with a := [(0, 0x40000000), (1, 0x3F800000), (64, 0x3F800000), (65, 0x40400000)] }
theorem test_meets_factorSteps : (∀ i < 2, ∀ j < 2, finite fFP32 (tileLu.ael 0 i j)) ∧ finite fFP32 (fsOf 0).tol := by
  unfold finite mag; decide +kernel
theorem test_meets_factorResume : opCode (.mchol 0 3 4) ≠ 0 ∧ (factRun (.mchol 0 3 4) 1 1 1 tileLu).fault = none := by
  refine ⟨by decide, ?_⟩
  decide +kernel

-- THE FABRIC, LINES AND BOUNDARIES

/-- A flit that waits at port 1 of tile 0. -/
def outOne : OutFlit := ⟨0, 1, 0, entryOne, 0, 0, false⟩
def unitOut : State := { unit with tiles := [(0, { Tile.reset with out := [outOne] })] }
/-- A flit in flight to port 3 of tile 0, which hosts station 0 or passes it on from port 3 to port 1. -/
def flightOne : Flight := ⟨9, 0, 3, 0, { entryOne with unseq := true }, 0, false⟩
def unitFlight (stn : BitVec 64) : State :=
  { unit with
    flights := [flightOne]
    tiles := [(0, { Tile.reset with iqmap := 0x38, oqmap := 0x28, cfgs := [(0, { Cfg.empty with stn := stn })] })] }
theorem test_meets_fabricEvents : (unitOut.tile 0).out = [] ++ outOne :: [] ∧ outOne.vis ≤ unitOut.cycle ∧
    neighbour 0 outOne.port = some 1 ∧ unitOut.roomAt 1 (facing outOne.port) outOne.tag = true ∧ (unit.tile 0).out = [] := by
  decide +kernel
theorem test_meets_fabricEvents_arrival : (unitFlight 0).flights.find? (fun x => x.id == 9) = some flightOne ∧
    queueAt ((unitFlight 0).tile 0) 3 0 = some 0 ∧ ((unitFlight 0).tile 0).hasStation = false ∧
    mapEntry ((unitFlight 0).tile 0).oqmap 0 = some (1, 0) ∧ queueAt (unit.tile 0) 3 0 = none ∧
    ((unitFlight 1).tile 0).hasStation = true ∧ ((unitFlight 1).tile 0).feeder 0 = some (0, 0) ∧
    outAt ((unitFlight 1).tile 0) 1 0 = some 0 ∧ flightOne.entry.hdr.blen.toNat ≤ 64 := by decide +kernel
theorem test_meets_fabricEvents_held :
    let s : State := { unitFlight 1 with dies := [(0, { Die.reset with held := [(streamSlot 0, 5)] })] }
    s.flights.find? (fun x => x.id == 9) = some flightOne ∧ (s.tile 0).feeder 0 = some (0, 0) ∧ s.loading 0 = true ∧
    (unitFlight 1).loading 0 = false := by decide +kernel
/-- The same flit with its SEQ, and an item that takes no flit of queue 0. -/
def flightSeq : Flight := { flightOne with entry := entryOne }
theorem test_meets_fabricEvents_limits :
    let i : Item := { itemOne with limits := [(0, 0)] }
    let s : State := { unitFlight 1 with flights := [flightSeq], actors := [(stationKey 0 0, { stationOne with item := some i })] }
    s.flights.find? (fun x => x.id == 9) = some flightSeq ∧ (s.actor (stationKey 0 0)).item = some i ∧
    i.desc.h.seq = flightSeq.entry.hdr.seq ∧ flightSeq.entry.unseq = false ∧ (0, 0) ∈ i.limits ∧ i.drop = false := by decide +kernel
theorem test_meets_fabricEvents_request :
    let t : Tile := { Tile.reset with iqmap := 0x38, oqmap := 0x28 }
    let f : Flight := { flightOne with tile := 1, port := 1 }
    let s : State := { unit with flights := [f], tiles := [(1, t)] }
    outAt (s.tile 1) f.port f.tag = some 0 ∧ (s.tile 1).hasStation = false ∧ mapEntry (s.tile 1).iqmap 0 = some (3, 0) ∧
    neighbour 1 3 = some 0 := by decide +kernel
/-- A parked token for queue 0 of station 0 of line 0. -/
def parkedOne : Parked := ⟨0, itemOne.desc, 0⟩
def unitParked (ls : Sparse Line) : State := { unitLine with lines := ls, dies := [(0, { Die.reset with parked := [parkedOne] })] }
theorem test_meets_fabricEvents_parked : (unitParked []).line? 0 = none ∧
    (unitParked [(0, lineOne)]).line? 0 = some lineOne ∧ lineOne.exited = false ∧ lineOne.running = true ∧ lineOne.resize = none ∧
    lineOne.tileOf 0 = some 0 := by decide +kernel

/-- A line with the window of its governor full, a watchdog at its limit, a debug stop and an exit asked for. -/
def lineDue : Line :=
  { lineOne with gov := 1, winBeats := 1, watchLimit := 2, watchCount := 2, stopReq := true, exiting := true }
def unitDue : State := { unitLine with lines := [(0, lineDue)] }
theorem test_meets_lineEvents : unitDue.line? 0 = some lineDue ∧ lineDue.gov.toNat % 2 ^ 16 ≤ lineDue.winBeats ∧
    lineDue.watchLimit ≠ 0 ∧ lineDue.watchLimit ≤ lineDue.watchCount ∧ unitDue.lineEmpty 0 lineDue = true ∧
    lineDue.exited = false ∧ lineDue.exiting = true ∧ unitDue.lineDrained 0 lineDue = true ∧
    unitLine.line? 0 = some lineOne ∧ lineOne.exiting = false ∧ lineOne.tearing = false ∧ lineOne.resizing = false := by decide +kernel
theorem test_meets_lineEvents_resize :
    let l := { lineOne with resizing := true }
    let s : State := { unitLine with lines := [(0, l)] }
    s.lineDrained 0 l = true ∧ l.resize = none ∧ (s.experts 0 l).length = 0 := by decide +kernel
theorem test_meets_lineEvents_switch :
    let s := unitOf [] [] 0 { stationOne with switchTo := some (2, 0) }
    (s.actor 0).switchTo = some (2, 0) ∧ (0 : Nat) ≤ s.cycle := by decide +kernel
theorem test_meets_lineEvents_bay :
    let s : State := { unit with actors := [(bayKey 0, { stationOne with kind := .bay, switchTo := some (2, 0) })] }
    (s.actor (bayKey 0)).switchTo = some (2, 0) ∧ (s.actor (bayKey 0)).kind = .bay := by decide +kernel
theorem test_meets_lineEvents_sleep :
    let s : State := { unitLine with actors := [(0, { stationOne with sleep := some (.beat 6) })] }
    (s.actor 0).sleep = some (.beat 6) ∧ s.beatNow 0 = some 5 := by decide +kernel
/-- A graph of line 0. -/
def graphOne : Graph := ⟨1, 0, 0, [0], 0, false, 0, false⟩
theorem test_meets_lineEvents_graph :
    let s : State := { unitLine with graphs := [(0, graphOne)], lines := [(0, { lineOne with exited := true })] }
    Sparse.find? s.graphs 0 = some graphOne ∧ graphOne.ended = false ∧ ∀ l, s.line? 0 = some l → l.exited = true := by
  refine ⟨by decide +kernel, by decide, ?_⟩
  intro l h
  cases h
  rfl
theorem test_meets_lineEvents_writes :
    let t : Tile := { Tile.reset with pend := [⟨8, 24, 5, []⟩] }
    t.phase = 0 ∧ t.pend = [⟨8, 24, 5, []⟩] ∧ unit.isConf ((unit.tile 0).ctx.getD 0) = false ∧ unit.line? 0 = none := by decide +kernel

/-- A station that has not handed its item when the first boundary of its line is due, with a free bay tile, or none. -/
def lineLate (bay : List Nat) : Line := { lineOne with beats := 1, bay := bay }
def unitLate (bay : List Nat) : State :=
  { unitItem with lines := [(0, lineLate bay)], ctxs := [(1, ctxOne)], cycle := 20 }
theorem test_meets_boundaryFalls : (unitLate [5]).line? 0 = some (lineLate [5]) ∧ (lineLate [5]).last + (lineLate [5]).b ≤ (unitLate [5]).cycle ∧
    (lineLate [5]).running = true ∧ (lineLate [5]).freezeNext = false ∧ (lineLate [5]).exitNow = false ∧ (lineLate [5]).fifo = [] := by
  decide +kernel
theorem test_meets_boundaryFalls_late :
    let s1 := (unitLate [5]).beforeFall 0 (lineLate [5])
    (s1.line? 0).isSome = true ∧ 0 ∉ s1.closedOf 0 (lineLate [5]) [] ∧ (s1.actor (stationKey 0 0)).item = some itemOne ∧
    (s1.actor (stationKey 0 0)).lokItem = false ∧
    ((lineLate [5]).bay.filter fun t => (Sparse.find? s1.actors (bayKey t)).isNone).length = 1 ∧
    ((lineLate []).bay.filter fun t => (Sparse.find? ((unitLate []).beforeFall 0 (lineLate [])).actors (bayKey t)).isNone).length < 1 := by
  decide +kernel
theorem test_meets_boundaryFalls_stations : ∀ n : Nat,
    let s1 := (unitLate [5]).beforeFall 0 (lineLate [5])
    n ∈ [0] ↔ n ∉ s1.closedOf 0 (lineLate [5]) [] ∧ n < 64 ∧ (∃ st ∈ (lineLate [5]).stns, st.1 = n) ∧
      ∃ j, (s1.actor (stationKey 0 n)).item = some j ∧ j.handed = false ∧ j.record = none := by
  intro n
  constructor
  · intro h
    obtain rfl := List.mem_singleton.1 h
    exact ⟨by decide +kernel, by decide, ⟨(0, 0), by decide +kernel, rfl⟩, ⟨itemOne, by decide +kernel, rfl, rfl⟩⟩
  · rintro ⟨-, -, ⟨st, h, rfl⟩, -⟩
    have h1 : st = (0, 0) := by simpa [lineLate, lineOne] using h
    simp [h1]

-- LAUNCHES, CONTEXTS AND BUDGETS

/-- An enabled launch queue of die 0 with one record of zeros in a ring of one, and the boot done. -/
def unitQueue (rec_ : List Host.Cell) (c : Ctx) : State :=
  { unit with
    ctxs := [(1, c)], accs := [], mem := (0x1000, 2) :: (0x1002, 1) :: (0x1008, 1) :: rec_, sides := [(0x40, ⟨0, 127, 4⟩)]
    mgmt := { Mgmt.reset with booted := true, queues := [(0, ⟨true, 0, 0x2000, 0, 0x1000⟩)] } }
theorem test_meets_launchEvents : (unitQueue [] ctxOne).nextQueue 0 = some 0 ∧ (unitQueue [] ctxOne).readyRoom 0 = true ∧
    (unitQueue [] ctxOne).mgmt.booted = true ∧ recordBad ((unitQueue [] ctxOne).readRecord 0x2000).2 none = true ∧
    unit.nextQueue 0 = none := by decide +kernel
theorem test_meets_launchEvents_tearing :
    let s := unitQueue [(0x2000, 2), (0x2001, 1)] { ctxOne with tearing := true }
    (s.readRecord 0x2000).2 % 2 ^ 8 = 2 ∧ recCtx (s.readRecord 0x2000).2 = 1 ∧ s.nextQueue 0 = some 0 := by decide +kernel
def readyOne : Ready := ⟨0, 1, 0, 32, 0, none, true, false⟩
theorem test_meets_launchEvents_dispatch :
    let s : State := { unitLine with dies := [(0, { Die.reset with ready := [readyOne] })] }
    let r : State := { unitLine with dies := [(0, { Die.reset with ready := [{ readyOne with cancelled := false, restore := true }] })], ctxs := [(1, { ctxOne with status := 3 })] }
    s.readyFirst 0 = some readyOne ∧ readyOne.cancelled = true ∧
    r.readyFirst 0 = some { readyOne with cancelled := false, restore := true } ∧ r.saved = [] := by decide +kernel
/-- A table whose entry for page 1 is a leaf of its third level, reached through two pointers; the leaf may have MIG. -/
def tables (mig : BitVec 8) : List Host.Cell :=
  [(0x100000, 1), (0x10000A, 0x20), (0x200000, 1), (0x20000A, 0x30), (0x300010, 0xF), (0x300011, mig), (0x30001A, 1)]
/-- A code object at 0x10000 of one variant and one line of one tile, whose stream, at 0x10180, writes its REWORK as it is. -/
def codeOne : List Host.Cell :=
  [(0x10000, 0x47), (0x10001, 0x58), (0x10002, 0x43), (0x10003, 0x4F), (0x10004, 1), (0x10005, 1), (0x10009, 2), (0x10080, 4),
   (0x10089, 1), (0x10091, 1), (0x10100, 1), (0x10101, 1), (0x10110, 16), (0x10114, 1), (0x10118, 64), (0x1011A, 8), (0x1011C, 64),
   (0x10128, 0x80), (0x10129, 1), (0x10130, 1), (0x10181, 0x20), (0x10182, 1)]
/-- Its page, readable and with CR. -/
def pageCr : Leaf := ⟨1, false, 1, 0x1F, 0x10000⟩
/-- An entry of the ready queue whose record launches it. -/
def readyCode : Ready := { readyOne with cancelled := false, record := 0x102 + 0x10000 * 2 ^ 128 }
def unitCode : State :=
  { unit with
    mem := codeOne, ctxs := [(1, ctxOne)], actors := [], tiles := []
    keyed := [(0x400, 0), (0x401, 0), (0x402, 0), (0x403, 0), (0x404, 0), (0x405, 0), (0x406, 0)]
    dies := [(0, { Die.reset with tlb := [pageCr], ready := [readyCode] })] }
theorem test_meets_launchEvents_placed : unitCode.readyFirst 0 = some readyCode ∧
    (match unitCode.readCode 0 1 (unitCode.isConf 1) false (BitVec.ofNat 64 (readyCode.record / 2 ^ 128 % 2 ^ 64))
        (readyCode.record / 2 ^ 24 % 2 ^ 4) with
      | (s1, .ok code) =>
        let s2 := s1.unhold 0 1
        code.wid.isNone && (match s2.findPlaces 0 false code.lines with
          | some sps => match s2.loadLines 0 (recCtx readyCode.record) code s2.nextGraph 0 0 (widths (readyCode.record / 2 ^ 32 % 2 ^ 42)) 0
              (((List.range code.lines.length).zip (code.lines.zip sps)).map fun t => (t.1, t.2.1, t.2.2)) with
            | (_, .ok ks) => ks == [0]
            | _ => false
          | none => false)
      | _ => false) = true := by decide +kernel
theorem test_meets_launchEvents_full :
    let s : State := { unitCode with lines := [(0, { lineOne with w := 16, h := 12 })] }
    (match s.readCode 0 1 (s.isConf 1) false (BitVec.ofNat 64 (readyCode.record / 2 ^ 128 % 2 ^ 64))
        (readyCode.record / 2 ^ 24 % 2 ^ 4) with
      | (s1, .ok code) => ((s1.unhold 0 1).findPlaces 0 false code.lines).isNone && ((s1.unhold 0 1).findPlaces 0 true code.lines).isSome
      | _ => false) = true := by decide +kernel
theorem test_meets_launchEvents_task :
    let r : Ready := { readyOne with task := some 0x10000 }
    let s : State := { unit with ctxs := [(1, ctxOne)], dies := [(0, { Die.reset with ready := [r] })] }
    let t : State := { s with mem := tables 4, ctxs := [(1, { ctxOne with root := 0x100000 })] }
    s.readyFirst 0 = some r ∧ r.cancelled = true ∧ t.readyFirst 0 = some r ∧
    (match s.fetchBytes 0 1 .load 2 0x10048 8 with | (_, .error a) => !a.waits | _ => false) = true ∧
    (match t.fetchBytes 0 1 .load 2 0x10048 8 with
      | (s1, .error a) => a.waits && (Sparse.find? (s1.die 0).held 1).isNone
      | _ => false) = true := by decide +kernel
/-- The line with a stream of its code in the configuration cache. -/
def unitLoad : State :=
  { unitLine with
    mem := [(0x10001, 0x20), (0x10002, 1)], keyed := [(0x400, 0)]
    dies := [(0, { Die.reset with cfgCache := [⟨1, 0, 0, 0x8000, [0x12000]⟩], tlb := [pageCr] })] }
theorem test_meets_lineEvents_stream : unitLoad.line? 0 = some lineOne ∧ unitLoad.line? 1 = none ∧
    (unitLoad.die lineOne.die).cfgCache.find? (fun e => (e.ctx == 1 && e.code == lineOne.code.toNat && e.variant == lineOne.variant &&
        e.va == (0x8000 : Word).toNat) && decide (1 ≤ e.cmds.length)) =
      some ⟨1, 0, 0, (0x8000 : Word).toNat, [0x12000]⟩ ∧
    (match unitLoad.checkStream lineOne [0x12000] with | .ok ts => ts == [⟨0, 0, 0, 18, 0⟩] | _ => false) = true ∧
    (match unitLoad.fetchStream 0 1 0 0 0x10000 1 with
      | (s1, .ok cmds) => decide (s1.line? 0 = some lineOne) && cmds == [0x12000] &&
        (match s1.checkStream lineOne cmds with | .ok _ => true | _ => false)
      | _ => false) = true := by decide +kernel
theorem test_meets_lineEvents_absent :
    let t : State := { unitLoad with mem := tables 4, ctxs := [(1, { ctxOne with root := 0x100000 })], dies := [(0, Die.reset)] }
    (match unitLoad.fetchStream 0 1 0 0 0x20000 1 with | (_, .error a) => !(a.code == 3 && a.cause == Cause.migrationTimeout) | _ => false) = true ∧
    (match t.fetchStream 0 1 0 0 0x10000 1 with
      | (s1, .error a) => a.code == 3 && a.cause == Cause.migrationTimeout && !s1.loading 0
      | _ => false) = true := by decide +kernel
theorem test_meets_lineEvents_held :
    let s : State := { unitFlight 1 with flights := [{ flightOne with held := true }] }
    (s.flights.map (·.id)).Nodup ∧ queueAt (s.tile 0) 3 0 = some 0 ∧ (s.tile 0).feeder 0 = some (0, 0) ∧
    flightOne.entry.hdr.req = false := by decide +kernel
theorem test_meets_launchEvents_preempt :
    let s : State := { unit with ctxs := [(1, { ctxOne with status := 2 })], accs := [] }
    let d : State := { unitItem with ctxs := [(1, { ctxOne with status := 2 })], lines := [(0, { lineOne with draining := some 9 })] }
    s.ctx? 1 = some { ctxOne with status := 2 } ∧ s.quiet 1 = true ∧ s.lines = [] ∧
    d.drainOver 0 { lineOne with draining := some 9 } = false ∧ lineOne.ctx = 1 ∧ lineOne.running = true ∧
    { d with accs := [accOf (.prom 1 2) .sent] }.quiet 1 = false ∧ unitLine.ctx? 1 = some ctxOne ∧ ctxOne.tearing = false := by decide +kernel
theorem test_meets_launchEvents_boot : State.reset.mgmt.bootStage = 0 := rfl
theorem test_meets_budgetEvents : unitLine.line? (48 * 0 + 0) = some lineOne ∧ lineOne.freezeNext = false ∧ lineOne.frozen = false ∧
    unitLine.ctx? (16 / 16) = some ctxOne ∧ 0 ∉ ctxOne.frozenCopy ∧ 0 ∉ ctxOne.frozenEval ∧ unitLine.mgmt.hostFrozen = false ∧
    3 ∉ unitLine.mgmt.linkFrozen ∧ unitLine.mgmt.hot = false ∧ lineOne.ctx = 1 ∧ lineOne.tearing = false := by decide +kernel
theorem test_meets_budgetEvents_evaluation :
    let s : State := { unitLine with dies := [(0, { Die.reset with recs := [{ recOne with place := .parked }] })] }
    { recOne with place := .parked } ∈ (s.die 0).recs ∧ recOne.ctx = 1 ∧ s.ctx? 1 = some ctxOne ∧
    ({ unit.mgmt with hot := true } : Mgmt).hot = true := by decide +kernel

-- TRANSLATION, CACHES, STORED BLOCKS AND LINKS

/-- The unit with one access, at cycle 300,000. -/
def withAcc (a : Access) : State := { homeOf [] 0 a with cycle := 300000 }
theorem test_meets_memoryEvents : (withAcc { lockAcc with stage := .answering }).acc? 3 = some { lockAcc with stage := .answering } ∧
    lockAcc.actor < 65536 ∧ (withAcc lockAcc).acc? 3 = some lockAcc ∧ lockAcc.stage = .sent ∧ lockAcc.discard = false ∧
    devOf lockAcc.pa = (withAcc lockAcc).dev ∧ lockAcc.sentAt + (withAcc lockAcc).mgmt.ringTimeout.toNat ≤ (withAcc lockAcc).cycle := by
  decide +kernel
theorem test_meets_memoryEvents_moving :
    let a : Access := { lockAcc with actor := bayKey 0, stage := .answering }
    let s : State := { withAcc a with actors := [(bayKey 0, { stationOne with kind := .bay, switchTo := some (0, 300001) })] }
    s.acc? 3 = some a ∧ bayKey 0 ≤ a.actor ∧ a.actor < 32768 ∧ (s.actor a.actor).switchTo.isSome = true ∧ a.discard = false ∧
    ((withAcc { lockAcc with stage := .answering, discard := true }).acc? 3).isSome = true := by decide +kernel
/-- A page walk that an access shares. -/
def missOne : Miss := ⟨1, 1, [3], true, none, false, 0, 0⟩
def unitMiss (m : Miss) (mem : List Host.Cell) : State :=
  { withAcc lockAcc with mem := mem, dies := [(0, { Die.reset with misses := [m] })], ctxs := [(1, { ctxOne with root := 0x100000 })] }
theorem test_meets_memoryEvents_walk : ((unitMiss missOne []).die 0).misses.find? (·.walking) = some missOne ∧
    ((unitMiss missOne (tables 0)).walk 0 1 (pageVa 1)).2 = .leaf ⟨1, false, 1, 0xF, 0x10000⟩ ∧
    ((unitMiss missOne (tables 4)).walk 0 1 (pageVa 1)).2 = .mig false ∧
    ((unitMiss missOne []).walk 0 1 (pageVa 1)).2 = .fail .translation 0x02 (vaDetail 0x10000 1) := by decide +kernel
theorem test_meets_memoryEvents_migration :
    let s := unitMiss { missOne with walking := false, mig := some 299 } (tables 4)
    let t := unitMiss { missOne with walking := false, mig := some 295904 } (tables 4)
    299 + 131072 ≤ s.cycle ∧ s.acc? 3 = some lockAcc ∧ (t.cycle - 295904) % 4096 = 0 ∧
    ((t.die 0).misses.filter fun x => match x.mig with | some c => (t.cycle - c) % 4096 == 0 | none => false) =
      [{ missOne with walking := false, mig := some 295904 }] := by decide +kernel
/-- A dirty line of the block at 0x1000, in the L1 of tile 0 and in the RDC of die 0. -/
def dirtyLine : CLine := ⟨5, 1, 1, Pair.raw, true, 0, 1, false, 0⟩
def unitDirty : State :=
  { unit with tiles := [(0, { Tile.reset with l1 := [(0x40, dirtyLine)] })], dies := [(0, { Die.reset with rdc := [(0x40, dirtyLine)] })] }
theorem test_meets_memoryEvents_writeback : Sparse.find? (unitDirty.tile 0).l1 0x40 = some dirtyLine ∧ dirtyLine.dirty ≠ 0 ∧
    Sparse.find? (unitDirty.die 0).rdc 0x40 = some dirtyLine ∧ devOf (0x40 % 2 ^ 56 * 64) = unitDirty.dev ∧
    homeDie (0x40 % 2 ^ 56 * 64 % 2 ^ 46) = dieOf 0 ∧ Sparse.find? unitDirty.errs 0x40 = none ∧ (unitDirty.side 0x1000).tag = 0 := by
  decide +kernel
theorem test_meets_memoryEvents_writeback_wf : unitDirty.memWf := by unfold State.memWf; decide +kernel
theorem test_meets_memoryEvents_errors :
    let s : State := { unit with errs := [(0x40, [(0, 1), (1, 1)])] }
    let t : State := { unit with errs := [(0x40, [(0, 1), (1, 1), (2, 1)])] }
    (Sparse.get s.errs [] 0x40).length ≤ 2 ∧ Sparse.get s.errs [] 0x40 ≠ [] ∧ 2 < (Sparse.get t.errs [] 0x40).length ∧
    (∀ e ∈ Sparse.get s.errs [] 0x40, e.1 ≠ 5) := by decide +kernel
theorem test_meets_memoryEvents_l2 :
    let s : State := { unit with l2 := [(0x40, ⟨true, false, false⟩)] }
    let t : State := { unit with errs := [(0x40, [(0, 1), (1, 1), (2, 1)])], fresh := 0 }
    Sparse.find? s.l2 0x40 = some ⟨true, false, false⟩ ∧ Sparse.find? t.l2 0x40 = none ∧ unit.memWf ∧
    ((homeOf [] 7 lockAcc).side 0x1000).tag.toNat = 7 ∧ Sparse.get (homeOf [] 7 lockAcc).errs [] 0x40 = [] := by
  unfold State.memWf; decide +kernel
theorem test_meets_memoryEvents_ordered : (∀ k, Sparse.ordered (State.reset.tile k).l1 = true) ∧ (∀ d, Sparse.ordered (State.reset.die d).rdc = true) :=
  ⟨fun _ => rfl, fun _ => rfl⟩
theorem test_meets_memoryEvents_links :
    let s : State := { unit with mgmt := { Mgmt.reset with ports := [(1, { Port.reset with up := false }), (2, { Port.reset with replay := [(0, 0)], fails := 7 })] } }
    (s.port 0).up = true ∧ (0 : BitVec 12) = (s.port 0).recvSeq ∧ s.mgmt.linkFrozen.contains 1 = false ∧ (s.port 1).up = false ∧
    (s.port 2).replay ≠ [] ∧ (s.port 2).up = true ∧ 7 ≤ (s.port 2).fails ∧ (s.port 0).replay = [] := by decide +kernel
def farAcc : Access := { lockAcc with pa := 5 * 2 ^ 48 + 0x1000 }
theorem test_meets_memoryEvents_routes :
    let s : State := { withAcc farAcc with mgmt := { Mgmt.reset with routePend := [(5, 0x8000), (6, 0x8000)] } }
    Sparse.find? s.mgmt.routePend 5 = some 0x8000 ∧ (∃ a ∈ s.accs, a.stage = .sent ∧ devOf a.pa = 5 ∧ a.pa ≠ noAddress ∧ 5 ≠ s.dev) ∧
    (∀ a ∈ s.accs, devOf a.pa ≠ 6) ∧ s.onPort 0 farAcc = true ∧ Sparse.find? s.tiles 0 ≠ none := by
  refine ⟨by decide +kernel, ⟨farAcc, by decide +kernel, by decide +kernel⟩, by decide +kernel, by decide +kernel, by decide +kernel⟩

-- ENGINES, EVALUATIONS, BARRIERS AND TRAP RINGS

/-- A stream of two items of one row of one flit, for station 0 of line 0. -/
def streamOne : Stream where
  desc := 2#512 <<< 256 ||| 1#512 <<< 32
  descVa := 0
  ctx := 1
  line := 0
  tile := 0
  ticket := 0
  item := 0
  row := 0
  resumed := false
  stopReq := false
  committed := false
  seq := none
  rowBuf := []
  likely := []
  state := 0
  code := 0
def unitStream (t : Stream) : State := { unitLine with dies := [(0, { Die.reset with edges := [(0, ⟨some t, 1, none⟩)] })] }
theorem test_meets_engineEvents_stream : (unitStream streamOne).edgeStream 0 0 = some streamOne ∧ streamOne.state = 0 ∧
    (unitStream streamOne).engineBusy (engineKey 0 0) = false ∧ (unitStream streamOne).stalls (engineKey 0 0) = false ∧
    streamOne.item < streamOne.nitems ∧ streamOne.drain = false ∧ 0 < streamOne.fl ∧ streamOne.row < streamOne.rows ∧
    (unitStream streamOne).acc? (unitStream streamOne).nextAcc = none ∧ (unitStream streamOne).line? streamOne.line = some lineOne ∧
    lineOne.running = true ∧ lineOne.draining = none ∧ lineOne.tileOf streamOne.stn = some 0 := by decide +kernel
theorem test_meets_engineEvents_stream_end : ({ streamOne with item := 2 } : Stream).nitems ≤ 2 ∧
    ({ unitStream streamOne with traps := [⟨1, engineKey 0 0, 0, 0, 0⟩], cycle := 1 } : State).stalls (engineKey 0 0) = true := by
  decide +kernel
/-- A copy job of one element from scratchpad tile 0 to itself, in a phase. -/
def copyJob (phase status : Nat) : Job :=
  ⟨1#2048 ||| 1#2048 <<< 127 ||| 1#2048 <<< 191 ||| 64#2048 <<< 192, 0, 1, none, 0, 0, 0, 0, 1, status, false, 0, none, 0, phase, 0, none, none, 0⟩
def unitJob (j : Job) : State :=
  { unitLine with
    dies := [(0, { Die.reset with copiers := [(0, ⟨[j], 1⟩)] })], tiles := [(0, { Tile.reset with ctx := some 1 })] }
theorem test_meets_engineEvents_job : (unitJob (copyJob 1 1)).runningJob 0 0 = some (copyJob 1 1) ∧
    (unitJob (copyJob 0 0)).runningJob 0 0 = none ∧ (unitJob (copyJob 0 0)).copyRuns 1 0 0 = true ∧ (unitJob (copyJob 0 0)).ctxRuns 1 = true ∧
    cKind (copyJob 1 1).card = 1 ∧ (copyJob 1 1).element < cElems (copyJob 1 1).card ∧ cObj (copyJob 1 1).card 1024 = none ∧
    cardFld (copyJob 1 1).card 64 64 / 2 ^ 63 = 1 ∧ cardFld (copyJob 1 1).card 128 64 / 2 ^ 63 = 1 ∧
    (unitJob (copyJob 1 1)).spTarget 1 (0, 0) = none ∧ cElen (copyJob 1 1).card ≤ 0 + 1 ∧
    (unitJob (copyJob 1 1)).engineBusy (engineKey 0 32) = false ∧ (unitJob (copyJob 1 1)).stalls (engineKey 0 32) = false := by decide +kernel
theorem test_meets_engineEvents_job_end : (unitJob (copyJob 6 1)).runningJob 0 0 = some (copyJob 6 1) ∧
    ((unitJob (copyJob 6 1)).copier 0 0).jobs = [] ++ copyJob 6 1 :: [] := by decide +kernel
/-- A collective that waits, past its time. -/
def collJob : Job := { copyJob 1 1 with card := 4#2048, idx := some 0, sub := 1 }
def unitColl : State := { unitJob collJob with cycle := 5 }
theorem test_meets_engineEvents_collective : unitColl.collLate 1 0 = [collJob] ∧ unitColl.ctxs = [(1, ctxOne)] ∧
    (unitColl.copier 0 0).jobs = [] ++ collJob :: [] := by decide +kernel
def unitEval (r : EvRec) : State := { unit with ctxs := [(1, ctxOne)], dies := [(0, { Die.reset with recs := [r] })] }
theorem test_meets_engineEvents_evaluation : (unitEval recOne).nextEval 0 = some recOne ∧ (unitEval recOne).freeSlot 0 = some 0 ∧
    recOne.woken = false ∧ (unitEval recOne).evalHeld 0 7 = false ∧
    (unitEval { recOne with woken := true, unit := some stationOne }).nextEval 0 = some { recOne with woken := true, unit := some stationOne } ∧
    ((unitEval { recOne with place := .slot 0, queued := some 0x2000 }).die 0).recs.find? (fun r => r.evid == 7) =
      some { recOne with place := .slot 0, queued := some 0x2000 } ∧
    (unitEval recOne).evalPending (evalKey 0 0) 0 = false ∧ (unitEval { recOne with place := .parked }).nextEval 0 = none := by decide +kernel
theorem test_meets_engineEvents_barrier :
    let s := homeOf (barrMem 1) 4 barrAcc
    (s.side 0x1000).tag = 4 ∧ Blk.fld (s.stored 0x1000) 0 8 = 4 ∧ 1 < Blk.fld (s.stored 0x1000) 64 8 ∧
    (Blk.fld (s.stored 0x1000) 128 128).testBit 0 = true ∧ (Blk.fld (s.stored 0x1000) 128 128).testBit 1 = false := by decide +kernel
theorem test_meets_engineEvents_barrier_wf : (homeOf (barrMem 1) 4 barrAcc).memWf := by unfold State.memWf; decide +kernel
/-- A trap record of context 1 whose ring of one slot, at 0x11040, is full or has room. -/
def trapOne : Trap := ⟨1, 0, 5, 0, 0⟩
def unitTrap (full : BitVec 8) : State :=
  { homeOf (if full = 0 then [] else [(0x11000, full)]) 0 lockAcc with
    sides := [], traps := [trapOne], cycle := 65536, ctxs := [(1, { ctxOne with ringBase := 0x11040 })]
    dies := [(0, { Die.reset with tlb := [pageOne] })] }
theorem test_meets_engineEvents_traps : ((unitTrap 0).writeTrap trapOne).isSome = true ∧ ((unitTrap 1).writeTrap trapOne).isSome = false ∧
    trapOne.since + 65536 ≤ (unitTrap 1).cycle ∧ (unitTrap 1).ctx? 1 = some { ctxOne with ringBase := 0x11040 } ∧
    (((unitTrap 1).place 1 0x11000).2.map fun x => x.1) = some 0x11000 := by decide +kernel
theorem test_meets_engineEvents_traps_two : ({ unitTrap 1 with traps := [trapOne, { trapOne with ctx := 2 }] } : State).writeTrap { trapOne with ctx := 2 } =
    some { unitTrap 1 with traps := [trapOne, { trapOne with ctx := 2 }] } := by rfl

-- THE HOST WINDOW AND MANAGEMENT

theorem test_meets_hostWindow : 8 ≤ 8 ∧ (2 ^ 46 + 0x1000) % 64 + 8 ≤ 64 ∧ unbacked 0x1000 = false ∧ unbacked (2 ^ 43 - 64) = true ∧
    Sparse.find? unit.errs 0x40 = none ∧ (unit.side 0x1000).tag = 0 ∧ ((homeOf [] 4 lockAcc).side 0x1000).tag = 4 := by decide +kernel
theorem test_meets_hostWindow_registers : State.reset.ctxs = [] ∧ unitLine.ctxs ≠ [] ∧ (4 : Word).toNat ≤ 32 := by decide +kernel
theorem test_meets_hostWindow_memory : unit.memWf := by unfold State.memWf; decide +kernel
def unitMgmt (m : Mgmt) : State := { unitLine with mgmt := m }
theorem test_meets_managementCommands_queues :
    let w0 : Word := 0x8000000000001000
    let s := unitMgmt { Mgmt.reset with devnumSet := true }
    w0.getLsbD 63 = true ∧ w0.toNat / 2 ^ 53 % 2 ^ 10 = 0 ∧ w0.toNat / 2 ^ 48 % 32 ≤ 16 ∧ homeDie (w0.toNat % 2 ^ 46) = 0 ∧
    homeDie (0x2000 + 256 * 2 ^ 0 - 1) = 0 ∧ unbacked 0x1000 = false ∧ s.mgmt.devnumSet = true ∧ (s.launchQ 0 0).en = false ∧
    (s.side 0x1000).tag = 0 := by decide +kernel
theorem test_meets_managementCommands_queues_off :
    let s := unitMgmt { Mgmt.reset with queues := [(0, ⟨true, 0, 0x2000, 0, 0x1000⟩)] }
    (s.launchQ 0 0).en = true ∧ s.objWaiters 0x1000 = [] ∧ (0x1000 : Word).getLsbD 63 = false := by decide +kernel
theorem test_meets_managementCommands_inv :
    let s := unitMgmt { Mgmt.reset with inv1 := 0x10000, inv2 := 0x20000 }
    let w0 : Word := 0x101
    s.mgmt.inv0.getLsbD 63 = false ∧ w0.toNat % 4 = 1 ∧ w0.toNat % 2 ^ 63 / 2 ^ 26 = 0 ∧ w0.toNat / 2 ^ 2 % 2 ^ 6 = 0 ∧
    s.mgmt.inv1.toNat % 2 ^ 16 = 0 ∧ 2 ^ 16 ≤ s.mgmt.inv2.toNat ∧
    (unitMgmt { Mgmt.reset with inv0 := 0x8000000000000000 }).mgmt.inv0.getLsbD 63 = true := by decide +kernel
/-- A save area of context 1. -/
def savedOne : Saved := ⟨1, 0, 1, 0, [], [], [], [], [], [], [], [], 0⟩
theorem test_meets_managementCommands_preempt :
    let w : Word := 0x101
    let v : Word := 0x102
    unitLine.mgmt.pre0.getLsbD 63 = false ∧ unitLine.ctx? (w.toNat / 2 ^ 8 % 2 ^ 8) = some ctxOne ∧ ctxOne.status = 1 ∧
    w.toNat / 4 % 2 ^ 6 = 0 ∧ w.toNat / 2 ^ 32 % 2 ^ 31 = 0 ∧ w.toNat % 4 = 1 ∧ unitLine.mgmt.pre1.toNat % 4096 = 0 ∧
    savedOne ∈ ({ unitLine with saved := [savedOne] } : State).saved ∧ v.toNat % 4 = 2 := by decide +kernel
theorem test_meets_managementCommands_stop : unitLine.line? (48 * 0 + 0) = some lineOne ∧ unitLine.isConf lineOne.ctx = false ∧
    ({ unitLine with ctxs := [(1, { ctxOne with conf := true })] } : State).isConf lineOne.ctx = true := by decide +kernel
theorem test_meets_managementCommands_hsync : unitLine.mgmt.hs0.getLsbD 63 = false ∧ unitLine.mgmt.hs1.toNat < 2 ^ 46 ∧
    unitLine.mgmt.hs1.toNat % 64 = 0 ∧ unbacked unitLine.mgmt.hs1.toNat = false ∧ unbacked (2 ^ 43 - 64) = true := by decide +kernel
theorem test_meets_managementCommands_tables : unitLine.ctx? 1 ≠ none ∧ (0x8000000000000000 / 2 ^ 35 % 2 ^ 28 = 0) ∧
    (∀ k < 4, (0x8011 : Word).toNat / 2 ^ (16 * k) % 2 ^ 16 / 32 % 2 ^ 10 = 0 ∧ (0x8011 : Word).toNat / 2 ^ (16 * k) % 2 ^ 16 % 32 < 18) := by
  decide +kernel
theorem test_meets_managementCommands_keys : unitLine.ctx? 2 = none ∧ unitLine.freeKey = some 1 ∧
    Sparse.find? ({ Mgmt.reset with kems := [(2, 0)] } : Mgmt).kems 2 = some 0 := by decide +kernel

-- ADDRESSES AND THE INVARIANT

def highAcc : Access := { accOf (.ld .i64 (.plain 0) .cached 1 2 w0) .accepted with va := 0x10000000000000 }
theorem test_meets_noncanonicalAddress : (withAcc highAcc).acc? highAcc.id = some highAcc ∧ isMemory highAcc.op = true ∧
    highAcc.failed = false ∧ 2 ^ 52 ≤ highAcc.va.toNat := by decide +kernel
theorem test_meets_memoryFormKept : State.reset.memWf ∧ ∃ t, step State.reset = .next t := ⟨by unfold State.memWf; decide, _, rfl⟩

-- VALUES THAT THE SPEC WORKS OUT

/-- The error record of the token's journey of chapter 14 (R399, R407). -/
theorem test_record_journey :
    record 5 ⟨0, 1, 54, 0, 4, 1, 3, 2, 12, 0x0000000100020003⟩ .translation 0x02 (vaDetail 0x4001234000 3) =
      0x0030004001234000000000010002000300000000000C00050002304406C80203 := by decide +kernel
/-- Its trap record: CLASS, INDEX and AUX (R404, R407). -/
theorem test_record_trap : (clearRecord 0x0002304406C80203 0x3A 41).toNat % 2 ^ 64 = 0x0000002900000003 := by decide +kernel
/-- Elements (3, 10) and (2, 10) of the rotated tile of chapter 16: bank 36 and bank 4 of bank row 257 (R43). -/
theorem test_rotation : spPlace 9 3 0x4065 = 257 * 64 + 36 ∧ spPlace 9 2 0x4045 = 257 * 64 + 4 := by decide
/-- The descriptor of chapter 16 passes its checks (R45). -/
theorem test_descriptor_rotated : dscCheck (0, 2 ^ 20) (dscOf 0x0000008000010000 0x09000000) 2 [(0x10000, 128)] = none := by decide
/-- An E4M3 element of 448 decoded under scale 0xFE is 448 × 2^127 (chapter 3). -/
theorem test_decode_scaled : number fE4M3 0x7E = 448 := by decide +kernel
/-- One step of a firing: ADD of 7 and −2 gives 5, seen in the next cycle (R234, R238). -/
theorem test_step_add :
    step { unit with
      agenda := [.fire (firstFiring 0)]
      tiles := [(0, { Tile.reset with
        cfgs := [(0, { Cfg.empty with slots := [(0, 0x0030301020000000)] })]
        banks := [(0, ⟨[(1, num 7), (2, num 0xFFFFFFFFFFFFFFFE)], [], 0⟩)] })] } =
    .next { unit with
      tiles := [(0, { Tile.reset with
        cfgs := [(0, { Cfg.empty with slots := [(0, 0x0030301020000000)] })]
        banks := [(0, ⟨[(1, num 7), (2, num 0xFFFFFFFFFFFFFFFE)], [], 0⟩)] })]
      results := [⟨1, firstFiring 0, [.g 0 3 (num 5)], none⟩] } := by rfl
/-- A lock that is free is taken at home: D will receive 1 (R276). -/
theorem test_lock : ∃ t, exec (.homeAccess 3) (homeOf lockFree 4 lockAcc) = .next t ∧
    (t.acc? 3).map (fun x => x.ans.g) = some (some (num 1)) ∧ Memory.get t.mem 0x1008 = 1 := ⟨_, rfl, by decide +kernel, by decide +kernel⟩

-- MORE OF THE HYPOTHESES

theorem test_meets_stepRunsDecoded_reissue :
    let x : Reissue := ⟨firstFiring 0, .mluF 1 0 3 4⟩
    let s : State := { unit with agenda := [.fire (firstFiring 0)], actors := [(0, { stationOne with reissue := some x })] }
    (s.actor (firstFiring 0).actor).reissue = some x ∧ (unit.actor (firstFiring 0).actor).reissue = none ∧
    needsCarry (.add .i64 false none 3 4 5) = false := by decide +kernel
theorem test_meets_atomics_clauses :
    let a := { accOf (.afadd 0 true .acqRel 1 2 3 w0) .sent with leaf := some ⟨1, false, 0, 0x8F, 0⟩ }
    a.typed ≠ (accOf (.afadd 0 true .acqRel 1 2 3 w0) .sent).typed ∧ ({ a with leaf := some pageOne } : Access).typed = false := by
  decide +kernel
theorem test_meets_valueReads_typed : (fmtOf 0).isSome = true ∧ ldbAcc.pol = .cached ∧ ldbAcc.leaf.isSome = true ∧
    l1Victim 0 ((homeOf [(0x1000, 5)] 0 ldbAcc).tile 0) (lineKey ldbAcc.key ldbAcc.pa) = none ∧
    rdcVictim 0 ((homeOf [(0x1000, 5)] 0 ldbAcc).die 0) (lineKey ldbAcc.key ldbAcc.pa) = none := by decide +kernel
theorem test_meets_counter_zero :
    let a : Access := { decAcc with a := 0 }
    a.a.toNat % 2 ^ 32 = 0 ∧ object (homeOf (counterMem 1) 4 a) a 3 ∧
    ({ Die.reset with cancels := [0x1000] } : Die).cancels.contains 0x1000 = true :=
  ⟨by decide, object_of sound_of left_of, by decide⟩
theorem test_meets_noneDue : noneDue unitM ∧ unitM.here.spRead - unitM.cycle = 0 ∧
    noneDue (unitMat { Tile.reset with
      spRead := 3, spWrite := 2, moves := [⟨firstFiring 0, .sld .i64 (.index 1) 2, 7, Bank.zero, [], [(3, [5])], [], [20], []⟩] }) := by
  unfold noneDue; decide +kernel
/-- A load of one register in the middle of its groups, and a store whose group is due. -/
def moveLoad : SpMove := ⟨firstFiring 0, .sld .i32 (.index 1) 2, 7, Bank.zero, [], [(3, [5]), (4, [6])], [], [20, 21, 22, 23], []⟩
def moveStore : SpMove := ⟨firstFiring 0, .sst .i32 (.index 1) 2, 7, Bank.zero, [], [], [], [], [(2, [(20, 1), (20, 7)])]⟩
theorem test_meets_groups : moveLoad.reads.filter (fun g => 3 < g.1) ≠ moveLoad.reads ∧ moveLoad.reads ≠ [] ∧
    (moveStore.writes.filter fun g => g.1 ≤ 2).flatMap (·.2) = [(20, 1), (20, 7)] ∧ moveLoad.instr = .sld .i32 (.index 1) 2 ∧
    { unit with results := [⟨7, firstFiring 0, [.g 0 2 (num 0)], none⟩] }.results =
      [] ++ ⟨moveLoad.due, moveLoad.fire, [.g 0 (2 : Fin 16).val (num 0)], none⟩ :: [] := by decide +kernel
theorem test_meets_groups_spans : (unitM.dsc 4).rot / 8 % 2 = 0 ∧ (rowSpans (unitM.dsc 4) 0 0 64 128).length ≤ 2 * 33 ∧
    (rowSpans (unitM.dsc 4) 0 0 1 128) ≠ [] := by decide +kernel
theorem test_meets_groups_block : ({ moveLoad with instr := .sldb (.index 1) 2, bytes := List.range 64 } : SpMove).bytes.length = 64 ∧
    { unit with results := [⟨7, firstFiring 0, [.v 0 2 ⟨0, Pair.raw⟩], none⟩] }.results =
      [] ++ ⟨moveLoad.due, moveLoad.fire, [.v 0 (2 : Fin 16).val ⟨0, Pair.raw⟩], none⟩ :: [] ∧
    (∀ ty a d, Instr.mld .fp32 1 2 3 ≠ .sld ty a d) ∧ (∀ a d, Instr.mld .fp32 1 2 3 ≠ .sldb a d) :=
  ⟨by decide, by decide +kernel, (by intros; simp), (by intros; simp)⟩

theorem test_meets_fabricEvents_cancel : ({ flightSeq with entry := { entryOne with hdr := { hdrOne with can := true } } } : Flight).entry.hdr.can = true ∧
    (∃ r n, ({ flightOne.entry with hdr := { hdrOne with blen := 65 } } : Entry).hdr.blen.toNat = n ∧ 64 < n ∧ r = n) :=
  ⟨rfl, 65, 65, by decide, by decide, rfl⟩
theorem test_meets_fabricEvents_stays : ∀ c x ch, (unitParked [(0, lineOne)]).ctx? lineOne.ctx = some x →
    Sparse.find? x.chans c = some ch → ch.next = none := by
  intro c x ch h h1
  have h2 : (unitParked [(0, lineOne)]).ctx? lineOne.ctx = some ctxOne := by decide +kernel
  obtain rfl := Option.some.inj (h2.symm.trans h)
  simp [ctxOne, Sparse.find?] at h1
theorem test_meets_lineEvents_governor :
    let l := { lineDue with beatReq := [(0, false, 9), (1, true, 0x100000020)] }
    let m := { lineDue with beatReq := [(1, false, 9)] }
    l.gov.toNat % 2 ^ 16 ≤ l.winBeats ∧ l.beatReq = [(0, false, 9)] ++ [(1, true, 0x100000020)] ∧ l.splice = none ∧
    m.beatReq = [(1, false, 9)] ∧ m.splice = none ∧ ({ l with splice := some (0, 1, 1) } : Line).splice ≠ none := by decide +kernel
/-- A bay tile that switches, whose line's stream is in the configuration cache or its page cannot be read. -/
def unitBay (va : Word) : State :=
  { unitLoad with
    lines := [(0, { lineOne with stream := va, slen := 1 })]
    actors := [(bayKey 0, { stationOne with kind := .bay, switchTo := some (2, 0), item := some itemOne })] }
theorem test_meets_lineEvents_bayFetch :
    let l := { lineOne with stream := 0x10000, slen := 1 }
    let m := { lineOne with stream := 0x20000, slen := 1 }
    (unitBay 0x10000).line? 0 = some l ∧ (unitBay 0x20000).line? 0 = some m ∧
    ((unitBay 0x10000).actor (bayKey 0)).switchTo = some (2, 0) ∧ ((unitBay 0x10000).actor (bayKey 0)).kind = .bay ∧
    (match (unitBay 0x10000).fetchStream l.die l.ctx l.code l.variant l.stream l.slen with | (_, .ok _) => true | _ => false) = true ∧
    (match (unitBay 0x20000).fetchStream m.die m.ctx m.code m.variant m.stream m.slen with
      | (s1, .error e) => !(e.code == 3 && e.cause == Cause.migrationTimeout) && (s1.actor (bayKey 0)).kind != .eval &&
        (s1.actor (bayKey 0)).item.isSome
      | _ => false) = true := by decide +kernel
theorem test_meets_lineEvents_maps :
    let t : Tile := { Tile.reset with pend := [⟨8, 26, 0x28, [1]⟩], cver := 3, phase := 15 }
    let u : State := { unit with tiles := [(0, t)] }
    t.pend = [⟨8, 26, 0x28, [1]⟩] ∧ (0 ∉ [1] ∧ u.queueEmpty 0 26 0 = true) ∧ ¬ (1 ∉ [1] ∧ u.queueEmpty 0 26 1 = true) ∧
    (u.tile 0).cver ≠ 0 ∧ u.isConf ((u.tile 0).ctx.getD 0) = false ∧ t.phase % 16 = 15 ∧
    ({ Tile.reset with pend := [⟨8, 25, 0x28, []⟩] } : Tile).queue 0 = [] := by decide +kernel
/-- The record passes its own checks and names the code that test_meets_launchEvents_placed places; whether its signature is a
registered signer's is Config.slhVerify's to say. -/
theorem test_meets_launchEvents_taken :
    unitCode.recordCause readyCode.record none = none ∧
    recCtx readyCode.record = 1 ∧ unitCode.ctx? 1 = some ctxOne ∧ ctxOne.tearing = false := by decide +kernel
theorem test_meets_memoryEvents_ring :
    let a : Access := { pushAcc with look := some 0x12000 }
    a.look.isSome = true ∧ (∃ c nb p x y w, a.op = .rpush c nb p x y w) ∧ lockAcc.look = none := ⟨rfl, ⟨0, true, 1, 2, 3, w0, rfl⟩, rfl⟩
theorem test_meets_memoryEvents_nodup : (((unitMiss missOne []).die 0).misses.flatMap (·.accs)).Nodup ∧
    (withAcc farAcc).acc? 3 = some farAcc ∧ devOf farAcc.pa ≠ (withAcc farAcc).dev := by decide +kernel
theorem test_meets_memoryEvents_queue :
    let q : Port := { Port.reset with replay := [(4095, 0)], queue := [0, 0] }
    (q.replay.filter fun x => !(0 < ((0 : BitVec 12) - x.1).toNat && ((0 : BitVec 12) - x.1).toNat ≤ 1024)) = [] ∧ q.up = true ∧
    (0 : BitVec 12) = q.recvSeq := by decide +kernel
theorem test_meets_engineEvents_walks :
    let r : EvRec := { recOne with place := .slot 0, queued := some 0x2000, walks := [0x2000] }
    let s1 := (unitEval r).walkCells 0 7 r.walks
    ((s1.die 0).recs.find? fun r => r.evid == 7) = some { r with walks := [] } ∧ s1.evalPending (evalKey 0 0) (s1.actor (evalKey 0 0)).tile = false := by
  decide +kernel
/-- An evaluator of one command, at 0x10000, in the page of code. -/
def unitEvaluator : State :=
  { unitEval recOne with
    mem := [(0x1002, 1), (0x10000, 1), (0x10041, 0x20), (0x10042, 1)], keyed := [(0x400, 0), (0x401, 0)]
    dies := [(0, { Die.reset with tlb := [pageCr], recs := [recOne] })] }
theorem test_meets_engineEvents_start : unitEvaluator.nextEval 0 = some recOne ∧ unitEvaluator.freeSlot 0 = some 0 ∧
    unitEvaluator.evalHeld 0 7 = false ∧
    (match unitEvaluator.loadEval 0 1 (unitEvaluator.hEval recOne.head) with | (_, .ok _) => true | _ => false) = true := by decide +kernel
theorem test_meets_engineEvents_traps_lost : (unitTrap 1).ringMigrates 1 = false ∧ (unitTrap 1).memWf ∧
    (match (unitTrap 1).ringCtl 1 0x11040 with | (s1, some (ctl, _, _)) => ctl == 0x11000 && Memory.wf s1.mem | _ => false) = true := by
  unfold State.memWf; decide +kernel
theorem test_meets_engineEvents_traps_migrating :
    let s : State := { unitTrap 1 with mem := tables 4, ctxs := [(1, { ctxOne with ringBase := 0x11040, root := 0x100000 })], dies := [] }
    s.ringMigrates 1 = true ∧ s.cycle < trapOne.since + 131072 ∧ s.traps = [trapOne] := by decide +kernel
theorem test_meets_hostWindow_busy : ({ unitLine with mgmt := { Mgmt.reset with pre0 := 0x8000000000000000 } } : State).mgmt.pre0.getLsbD 63 = true ∧
    State.reset.mgmt.pre0.getLsbD 63 = false := by decide
theorem test_meets_managementCommands_dirty : (∀ k b l, Sparse.find? (State.reset.tile k).l1 b = some l → l.ctx = 1 → l.isDirty = false) ∧
    (∀ d b l, Sparse.find? (State.reset.die d).rdc b = some l → l.isDirty = false) :=
  ⟨fun _ _ _ h => by simp [State.tile, State.reset, Sparse.get, Sparse.find?, Tile.reset] at h,
    fun _ _ _ h => by simp [State.die, State.reset, Sparse.get, Sparse.find?, Die.reset] at h⟩

end Sys2Proof.Tests

end
end

section
/-! SUPPORT. Fields of blocks, blocks of memory, and sparse maps without a key: what is read back after a write. -/

namespace Sys2Proof

variable {α : Type}

@[simp] theorem Sparse.find_del (m : Sparse α) (k j : Nat) :
    Sparse.find? (Sparse.del m k) j = if j = k then none else Sparse.find? m j := by
  induction m with
  | nil => simp [Sparse.del, Sparse.find?]
  | cons a r ih =>
    obtain ⟨i, w⟩ := a
    by_cases hi : i = k <;> by_cases hj : j = k <;> simp_all [Sparse.del, Sparse.find?]
    exact fun h => absurd h (Ne.symm hj)

theorem Sparse.get_eq_find (m : Sparse α) (d : α) (k : Nat) : Sparse.get m d k = (Sparse.find? m k).getD d := by
  induction m with
  | nil => rfl
  | cons a r ih =>
    obtain ⟨i, w⟩ := a
    by_cases hi : i = k <;> simp [Sparse.get, Sparse.find?, hi, ih]

@[simp] theorem Sparse.get_del (m : Sparse α) (d : α) (k j : Nat) :
    Sparse.get (Sparse.del m k) d j = if j = k then d else Sparse.get m d j := by
  simp only [Sparse.get_eq_find, Sparse.find_del]
  split <;> rfl

end Sys2Proof

namespace Sys2Proof.Machine

-- FIELDS OF NUMBERS AND BLOCKS

/-- The bits of a number below a place, at a field of `w` bits, and above it. -/
theorem field_split (n pos w : Nat) :
    n = n % 2 ^ pos + 2 ^ pos * (n / 2 ^ pos % 2 ^ w) + 2 ^ (pos + w) * (n / 2 ^ (pos + w)) := by
  have h1 := Nat.mod_add_div n (2 ^ pos)
  have h2 := Nat.mod_add_div (n / 2 ^ pos) (2 ^ w)
  rw [Nat.div_div_eq_div_mul, ← pow_add] at h2
  calc n = n % 2 ^ pos + 2 ^ pos * (n / 2 ^ pos) := h1.symm
    _ = n % 2 ^ pos + 2 ^ pos * (n / 2 ^ pos % 2 ^ w + 2 ^ w * (n / 2 ^ (pos + w))) := by rw [h2]
    _ = _ := by rw [pow_add]; ring

/-- A block with a field replaced, as a number. -/
theorem Blk.put_toNat (b : Blk) (pos w x : Nat) (h : pos + w ≤ 512) :
    (Blk.put b pos w x).toNat =
      b.toNat % 2 ^ pos + 2 ^ pos * (x % 2 ^ w) + 2 ^ (pos + w) * (b.toNat / 2 ^ (pos + w)) := by
  have hs := field_split b.toNat pos w
  have hx : x % 2 ^ w < 2 ^ w := Nat.mod_lt _ (by positivity)
  have hm : b.toNat % 2 ^ pos < 2 ^ pos := Nat.mod_lt _ (by positivity)
  have hd : b.toNat / 2 ^ (pos + w) < 2 ^ (512 - (pos + w)) := by
    exact (Nat.div_lt_iff_lt_mul (by positivity)).mpr (by simpa only [← pow_add, Nat.sub_add_cancel h] using b.isLt)
  have hlt : b.toNat % 2 ^ pos + 2 ^ pos * (x % 2 ^ w) + 2 ^ (pos + w) * (b.toNat / 2 ^ (pos + w)) < 2 ^ 512 := by
    have h1 : 2 ^ pos * (x % 2 ^ w) + 2 ^ pos ≤ 2 ^ (pos + w) := by rw [pow_add]; nlinarith [Nat.two_pow_pos pos]
    have h2 : 2 ^ (pos + w) * (b.toNat / 2 ^ (pos + w)) + 2 ^ (pos + w) ≤ 2 ^ 512 := by
      calc _ = 2 ^ (pos + w) * (b.toNat / 2 ^ (pos + w) + 1) := by ring
        _ ≤ 2 ^ (pos + w) * 2 ^ (512 - (pos + w)) := Nat.mul_le_mul_left _ hd
        _ = 2 ^ 512 := by rw [← pow_add, Nat.add_sub_cancel' h]
    omega
  rw [Blk.put, BitVec.toNat_ofNat, Nat.mod_eq_of_lt] <;> unfold at_
  · rw [Nat.mul_comm (b.toNat / 2 ^ pos % 2 ^ w), Nat.mul_comm (x % 2 ^ w)]; omega
  · rw [Nat.mul_comm (b.toNat / 2 ^ pos % 2 ^ w), Nat.mul_comm (x % 2 ^ w)]; omega

/-- A field reads as it was last written. -/
theorem Blk.fld_put_same (b : Blk) (pos w x : Nat) (h : pos + w ≤ 512) : Blk.fld (Blk.put b pos w x) pos w = x % 2 ^ w := by
  have hx : x % 2 ^ w < 2 ^ w := Nat.mod_lt _ (by positivity)
  have hm : b.toNat % 2 ^ pos < 2 ^ pos := Nat.mod_lt _ (by positivity)
  rw [Blk.fld, Blk.put_toNat b pos w x h, pow_add, Nat.mul_assoc, Nat.add_assoc, ← Nat.mul_add,
    Nat.add_mul_div_left _ _ (by positivity), Nat.div_eq_of_lt hm, Nat.zero_add, Nat.add_mul_mod_self_left,
    Nat.mod_eq_of_lt hx]

/-- A field of a number that lies below a place depends on what is below the place. -/
theorem field_below (n p w pos : Nat) (h : p + w ≤ pos) : n / 2 ^ p % 2 ^ w = n % 2 ^ pos / 2 ^ p % 2 ^ w := by
  obtain ⟨k, rfl⟩ := Nat.exists_eq_add_of_le h
  conv_lhs => rw [← Nat.mod_add_div n (2 ^ (p + w + k))]
  rw [show 2 ^ (p + w + k) * (n / 2 ^ (p + w + k)) = 2 ^ p * (2 ^ w * (2 ^ k * (n / 2 ^ (p + w + k)))) by
    rw [pow_add, pow_add]; ring, Nat.add_mul_div_left _ _ (by positivity), Nat.add_mul_mod_self_left]

/-- Every other field of a block reads as before a write. -/
theorem Blk.fld_put_other (b : Blk) (pos w x p v : Nat) (h : pos + w ≤ 512) (hd : p + v ≤ pos ∨ pos + w ≤ p) :
    Blk.fld (Blk.put b pos w x) p v = Blk.fld b p v := by
  have hput := Blk.put_toNat b pos w x h
  have hx : x % 2 ^ w < 2 ^ w := Nat.mod_lt _ (by positivity)
  have hm : b.toNat % 2 ^ pos < 2 ^ pos := Nat.mod_lt _ (by positivity)
  unfold Blk.fld
  rcases hd with hd | hd
  · have low : (Blk.put b pos w x).toNat % 2 ^ pos = b.toNat % 2 ^ pos := by
      rw [hput, pow_add, Nat.mul_assoc, Nat.add_assoc, ← Nat.mul_add, Nat.add_mul_mod_self_left, Nat.mod_mod]
    rw [field_below _ p v pos hd, low, ← field_below _ p v pos hd]
  · obtain ⟨k, rfl⟩ := Nat.exists_eq_add_of_le hd
    have high : (Blk.put b pos w x).toNat / 2 ^ (pos + w) = b.toNat / 2 ^ (pos + w) := by
      rw [hput, Nat.add_mul_div_left _ _ (by positivity), Nat.div_eq_of_lt, Nat.zero_add]
      rw [pow_add]; nlinarith [Nat.two_pow_pos pos]
    rw [pow_add, ← Nat.div_div_eq_div_mul, high, Nat.div_div_eq_div_mul, ← pow_add]

-- BLOCKS OF MEMORY

namespace Memory

/-- Bytes that agree one by one agree as a number. -/
theorem getN_congr {m m' : List Host.Cell} {a n : Nat} (h : ∀ x, a ≤ x → x < a + n → get m x = get m' x) :
    getN m a n = getN m' a n := by
  induction n generalizing a with
  | zero => rfl
  | succ n ih =>
    rw [getN, getN, h a (Nat.le_refl a) (by omega), ih fun x h1 h2 => h x (by omega) (by omega)]

/-- Bytes read back as they were written. -/
theorem getN_setN (m : List Host.Cell) (a x n : Nat) (h : wf m = true) : getN (setN m a x n) a n = x % 256 ^ n := by
  induction n generalizing m a x with
  | zero => simp [getN, Nat.mod_one]
  | succ n ih =>
    rw [getN, setN, ih _ _ _ (wf_set m a _ h), get_setN_outside _ _ _ _ _ (wf_set m a _ h) (by omega), get_set m a a _ h,
      if_pos rfl, BitVec.toNat_ofNat, pow_succ' 256 n]
    exact Nat.mod_mul.symm

end Memory

/-- The bytes of a block make it up. -/
theorem State.stored_congr {s t : State} {pa : Nat} (h : ∀ x, x / 64 = pa / 64 → Memory.get t.mem x = Memory.get s.mem x) :
    t.stored pa = s.stored pa := by
  unfold State.stored
  rw [Memory.getN_congr fun x h1 h2 => h x (by omega)]

theorem State.stored_of_mem {s t : State} (h : t.mem = s.mem) (pa : Nat) : t.stored pa = s.stored pa := by
  unfold State.stored; rw [h]

theorem State.side_of_sides {s t : State} (h : t.sides = s.sides) (pa : Nat) : t.side pa = s.side pa := by
  unfold State.side; rw [h]

@[simp] theorem get_setSide (m : Sparse Side) (b : Nat) (x : Side) (j : Nat) :
    Sparse.get (setSide m b x) Side.plain j = if j = b then x else Sparse.get m Side.plain j := by
  unfold setSide
  split
  · rename_i h; subst h; simp
  · simp

/-- A block that has been stored reads back. -/
theorem State.storeMem_stored (s : State) (key pa : Nat) (b : Block) (h : s.memWf) :
    (s.storeMem key pa b).stored pa = b.data := by
  have hw : 256 ^ 64 = 2 ^ 512 := by rw [show (256 : ℕ) = 2 ^ 8 from rfl, ← pow_mul]
  unfold State.stored State.storeMem
  rw [Memory.getN_setN _ _ _ _ h, hw, Nat.mod_eq_of_lt b.data.isLt, BitVec.ofNat_toNat, BitVec.setWidth_eq]

theorem State.storeMem_side (s : State) (key pa qa : Nat) (b : Block) :
    (s.storeMem key pa b).side qa = if qa / 64 = pa / 64 then b.side else s.side qa := by
  unfold State.side State.storeMem
  simp

end Sys2Proof.Machine
end

section
/-! SUPPORT. Reading a part of the state after another part, or that part, has been changed; and what the work of the caches and of
the homes leaves as it is: `State.CacheWork`. -/

namespace Sys2Proof.Machine

-- PARTS READ AFTER UPDATES

theorem State.tile_congr {s t : State} (h : t.tiles = s.tiles) (k : Nat) : t.tile k = s.tile k := by unfold State.tile; rw [h]
theorem State.die_congr {s t : State} (h : t.dies = s.dies) (k : Nat) : t.die k = s.die k := by unfold State.die; rw [h]
theorem State.actor_congr {s t : State} (h : t.actors = s.actors) (k : Nat) : t.actor k = s.actor k := by
  unfold State.actor; rw [h]
theorem State.line?_congr {s t : State} (h : t.lines = s.lines) (k : Nat) : t.line? k = s.line? k := by unfold State.line?; rw [h]
theorem State.ctx?_congr {s t : State} (h : t.ctxs = s.ctxs) (k : Nat) : t.ctx? k = s.ctx? k := by unfold State.ctx?; rw [h]
theorem State.acc?_congr {s t : State} (h : t.accs = s.accs) (k : Nat) : t.acc? k = s.acc? k := by unfold State.acc?; rw [h]
theorem State.dev_congr {s t : State} (h : t.mgmt.devnum = s.mgmt.devnum) : t.dev = s.dev := by unfold State.dev; rw [h]

theorem State.tile_modTile (s : State) (k j : Nat) (f : Tile → Tile) :
    (s.modTile k f).tile j = if j = k then f (s.tile k) else s.tile j := Sparse.get_set ..
theorem State.die_modDie (s : State) (k j : Nat) (f : Die → Die) :
    (s.modDie k f).die j = if j = k then f (s.die k) else s.die j := Sparse.get_set ..
theorem State.actor_modActor (s : State) (k j : Nat) (f : Actor → Actor) :
    (s.modActor k f).actor j = if j = k then f (s.actor k) else s.actor j := Sparse.get_set ..
theorem State.actor_setActor (s : State) (k j : Nat) (x : Actor) :
    (s.setActor k x).actor j = if j = k then x else s.actor j := Sparse.get_set ..
theorem State.line?_modLine (s : State) (k j : Nat) (f : Line → Line) :
    (s.modLine k f).line? j = if j = k then (s.line? k).map f else s.line? j := by
  unfold State.modLine
  cases h : s.line? k with
  | none => dsimp only; split <;> simp_all
  | some x => exact (Sparse.find_set ..).trans rfl
theorem State.ctx?_modCtx (s : State) (k j : Nat) (f : Ctx → Ctx) :
    (s.modCtx k f).ctx? j = if j = k then (s.ctx? k).map f else s.ctx? j := by
  unfold State.modCtx
  cases h : s.ctx? k with
  | none => dsimp only; split <;> simp_all
  | some x => exact (Sparse.find_set ..).trans rfl

-- WHAT CACHES AND HOMES LEAVE AS IT IS

/-- A tile but for its L1. -/
def Tile.withoutL1 (t : Tile) : Tile := { t with l1 := [] }
/-- A die but for its RDC and its count of corrected errors. -/
def Die.withoutRdc (d : Die) : Die := { d with rdc := [], trend := 0 }
/-- A line but for its counts of the regulator's period. -/
def Line.uncounted (l : Line) : Line := { l with issued := 0, moved := 0 }
/-- A context but for its counts of the regulator's period. -/
def Ctx.uncounted (c : Ctx) : Ctx := { c with evalIssued := [], evalMoved := [], copyMoved := [] }
/-- The management registers but for the ports and the counts of blocks and flits moved. -/
def Mgmt.uncounted (m : Mgmt) : Mgmt := { m with ports := [], linkMoved := [], hostMoved := 0 }

/-- What the work of the caches, of the homes and of the regulator's counts (R57 to R66, R385) leaves as it is: all but memory with its
sidecars, the L2s, the L1s, the RDCs, the ports, the counts, and the freezes that the counts cause. -/
structure State.CacheWork (s t : State) : Prop where
  cycle : t.cycle = s.cycle
  timers : t.timers = s.timers
  inputs : t.inputs = s.inputs
  cur : t.cur = s.cur
  actors : t.actors = s.actors
  results : t.results = s.results
  accs : t.accs = s.accs
  nextAcc : t.nextAcc = s.nextAcc
  flights : t.flights = s.flights
  nextFlight : t.nextFlight = s.nextFlight
  graphs : t.graphs = s.graphs
  nextGraph : t.nextGraph = s.nextGraph
  metas : t.metas = s.metas
  traps : t.traps = s.traps
  saved : t.saved = s.saved
  tile : ∀ k, (t.tile k).withoutL1 = (s.tile k).withoutL1
  die : ∀ d, (t.die d).withoutRdc = (s.die d).withoutRdc
  line : ∀ k, (t.line? k).map Line.uncounted = (s.line? k).map Line.uncounted
  ctx : ∀ c, (t.ctx? c).map Ctx.uncounted = (s.ctx? c).map Ctx.uncounted
  mgmt : t.mgmt.uncounted = s.mgmt.uncounted
  wf : s.memWf → t.memWf

namespace State.CacheWork

theorem refl (s : State) : s.CacheWork s := by constructor <;> first | exact fun _ => rfl | exact id | rfl

theorem trans {s t u : State} (h : s.CacheWork t) (k : t.CacheWork u) : s.CacheWork u where
  cycle := k.cycle.trans h.cycle
  timers := k.timers.trans h.timers
  inputs := k.inputs.trans h.inputs
  cur := k.cur.trans h.cur
  actors := k.actors.trans h.actors
  results := k.results.trans h.results
  accs := k.accs.trans h.accs
  nextAcc := k.nextAcc.trans h.nextAcc
  flights := k.flights.trans h.flights
  nextFlight := k.nextFlight.trans h.nextFlight
  graphs := k.graphs.trans h.graphs
  nextGraph := k.nextGraph.trans h.nextGraph
  metas := k.metas.trans h.metas
  traps := k.traps.trans h.traps
  saved := k.saved.trans h.saved
  tile j := (k.tile j).trans (h.tile j)
  die j := (k.die j).trans (h.die j)
  line j := (k.line j).trans (h.line j)
  ctx j := (k.ctx j).trans (h.ctx j)
  mgmt := k.mgmt.trans h.mgmt
  wf w := k.wf (h.wf w)

/-- Work of the caches done over a list. -/
theorem foldl {α : Type} {f : State → α → State} (h : ∀ (s : State) x, s.CacheWork (f s x)) (xs : List α) (s : State) :
    s.CacheWork (xs.foldl f s) := by
  induction xs generalizing s with
  | nil => exact refl s
  | cons x xs ih => exact (h s x).trans (ih (f s x))

/-- A state of which only the fields that caches and homes work on have changed. -/
theorem ofMemory (s : State) (mem : List Host.Cell) (sides : Sparse Side) (keyed : Sparse Nat)
    (errs : Sparse (List (Nat × BitVec 8))) (l2 : Sparse L2Line) (fresh : Nat) (h : Memory.wf s.mem = true → Memory.wf mem = true) :
    s.CacheWork { s with mem := mem, sides := sides, keyed := keyed, errs := errs, l2 := l2, fresh := fresh } := by
  constructor <;> first | exact fun _ => rfl | exact h | rfl

theorem ofL2 (s : State) (l2 : Sparse L2Line) : s.CacheWork { s with l2 := l2 } :=
  .ofMemory s s.mem s.sides s.keyed s.errs l2 s.fresh id

theorem ofErrs (s : State) (e : Sparse (List (Nat × BitVec 8))) : s.CacheWork { s with errs := e } :=
  .ofMemory s s.mem s.sides s.keyed e s.l2 s.fresh id

theorem modTile (s : State) (k : Nat) (f : Tile → Tile) (h : (f (s.tile k)).withoutL1 = (s.tile k).withoutL1) :
    s.CacheWork (s.modTile k f) where
  tile j := by rw [State.tile_modTile]; split <;> simp_all
  __ := refl s

theorem modDie (s : State) (k : Nat) (f : Die → Die) (h : (f (s.die k)).withoutRdc = (s.die k).withoutRdc) :
    s.CacheWork (s.modDie k f) where
  die j := by rw [State.die_modDie]; split <;> simp_all
  __ := refl s

theorem modLine (s : State) (k : Nat) (f : Line → Line) (h : ∀ l, (f l).uncounted = l.uncounted) :
    s.CacheWork (s.modLine k f) := by
  have hl : ∀ j, ((s.modLine k f).line? j).map Line.uncounted = (s.line? j).map Line.uncounted := fun j => by
    rw [State.line?_modLine]
    split
    · rename_i e; subst e; cases s.line? j <;> simp [h]
    · rfl
  exact { refl s with
    line := hl
    cycle := by simp, timers := by simp, inputs := by simp, cur := by simp, actors := by simp, results := by simp, accs := by simp
    nextAcc := by simp, flights := by simp, nextFlight := by simp, graphs := by simp, nextGraph := by simp, metas := by simp
    traps := by simp, saved := by simp, mgmt := by simp
    tile := fun j => by rw [State.tile_congr (s := s) (by simp)]
    die := fun j => by rw [State.die_congr (s := s) (by simp)]
    ctx := fun j => by rw [State.ctx?_congr (s := s) (by simp)]
    wf := fun w => by simpa [State.memWf] using w }

theorem modCtx (s : State) (k : Nat) (f : Ctx → Ctx) (h : ∀ l, (f l).uncounted = l.uncounted) :
    s.CacheWork (s.modCtx k f) := by
  have hl : ∀ j, ((s.modCtx k f).ctx? j).map Ctx.uncounted = (s.ctx? j).map Ctx.uncounted := fun j => by
    rw [State.ctx?_modCtx]
    split
    · rename_i e; subst e; cases s.ctx? j <;> simp [h]
    · rfl
  exact { refl s with
    ctx := hl
    cycle := by simp, timers := by simp, inputs := by simp, cur := by simp, actors := by simp, results := by simp, accs := by simp
    nextAcc := by simp, flights := by simp, nextFlight := by simp, graphs := by simp, nextGraph := by simp, metas := by simp
    traps := by simp, saved := by simp, mgmt := by simp
    tile := fun j => by rw [State.tile_congr (s := s) (by simp)]
    die := fun j => by rw [State.die_congr (s := s) (by simp)]
    line := fun j => by rw [State.line?_congr (s := s) (by simp)]
    wf := fun w => by simpa [State.memWf] using w }

theorem modMgmt (s : State) (f : Mgmt → Mgmt) (h : (f s.mgmt).uncounted = s.mgmt.uncounted) : s.CacheWork (s.modMgmt f) where
  mgmt := h
  __ := refl s

/-- An event that is to come next changes the agenda alone. -/
theorem now (s : State) (e : Instr) : s.CacheWork (s.now e) where
  __ := refl s

theorem drew (s : State) : s.CacheWork s.drew where
  __ := refl s

end State.CacheWork

-- THE REGULATOR'S COUNTS

/-- The freeze that a count asks for, when it asks for one. -/
theorem State.CacheWork.nowIf {s t : State} {c : Bool} {e : Instr} (h : s.CacheWork t) :
    s.CacheWork (if c then t.now e else t) := by
  cases c
  · exact h
  · exact h.trans (.now t e)

theorem State.lineMoved_work (s : State) (l n : Nat) : s.CacheWork (s.lineMoved l n) := by
  unfold State.lineMoved
  split
  · exact .refl s
  · refine .nowIf (.modLine s l _ ?_)
    exact fun _ => rfl

theorem State.evalMoved_work (s : State) (die ctx n : Nat) : s.CacheWork (s.evalMoved die ctx n) := by
  unfold State.evalMoved
  split
  · exact .refl s
  · refine .nowIf (.modCtx s ctx _ ?_)
    exact fun _ => rfl

theorem State.copyMoved_work (s : State) (die engine ctx n : Nat) : s.CacheWork (s.copyMoved die engine ctx n) := by
  unfold State.copyMoved
  split
  · exact .refl s
  · refine .nowIf (.modCtx s ctx _ ?_)
    exact fun _ => rfl

theorem State.hostMoved_work (s : State) (n : Nat) : s.CacheWork (s.hostMoved n) :=
  .nowIf (.modMgmt s _ rfl)

theorem State.linkMoved_work (s : State) (d n : Nat) : s.CacheWork (s.linkMoved d n) :=
  .nowIf (.modMgmt s _ rfl)

theorem State.moved_work (s : State) (key n : Nat) : s.CacheWork (s.moved key n) := by
  unfold State.moved
  dsimp only
  repeat' split
  all_goals first
    | exact State.lineMoved_work ..
    | exact State.evalMoved_work ..
    | exact State.copyMoved_work ..
    | exact State.hostMoved_work ..
    | exact .refl s

theorem State.tileMoved_work (s : State) (tile owner ctx n : Nat) : s.CacheWork (s.tileMoved tile owner ctx n) := by
  unfold State.tileMoved
  repeat' split
  all_goals first
    | exact State.lineMoved_work ..
    | exact State.evalMoved_work ..
    | exact .refl s

theorem State.sendFrame_work (s : State) (p : Nat) (x : Blk) : s.CacheWork (s.sendFrame p x) := by
  unfold State.sendFrame
  split
  · exact (State.CacheWork.modMgmt s _ rfl).trans (State.linkMoved_work _ _ _)
  · exact .modMgmt s _ rfl

-- HOMES

theorem State.l2Touch_work (s : State) (pol : Pol) (b : Nat) (w : Bool) : s.CacheWork (s.l2Touch pol b w) := by
  obtain ⟨e, l, h⟩ := State.l2Touch_eq s pol b w
  rw [h]
  exact .ofMemory s s.mem s.sides s.keyed e l s.fresh id

theorem State.storeMem_work (s : State) (key pa : Nat) (b : Block) : s.CacheWork (s.storeMem key pa b) :=
  .ofMemory s _ _ _ _ s.l2 s.fresh (Memory.wf_setN _ _ _ _)

theorem State.putAt_work (s : State) (pol : Pol) (key pa : Nat) (b : Block) : s.CacheWork (s.putAt pol key pa b) :=
  (State.storeMem_work ..).trans (State.l2Touch_work ..)

theorem State.rewrite_work (s : State) (key pa : Nat) (b : Block) : s.CacheWork (s.rewrite key pa b) :=
  (State.storeMem_work s key pa b).trans (.ofL2 ..)

theorem State.readMem_work (s : State) (key pa : Nat) : s.CacheWork (s.readMem key pa).1 := by
  unfold State.readMem
  dsimp only
  split
  · exact .drew s
  · split
    · have h : s.CacheWork { s.drew with errs := Sparse.del s.errs (pa / 64) } :=
        (State.CacheWork.drew s).trans (.ofErrs ..)
      exact State.CacheWork.trans h (.modDie _ (homeDie pa) (fun d => { d with trend := d.trend + 1 }) rfl)
    · split
      · exact .drew s
      · exact ((State.CacheWork.drew s).trans (.drew _)).trans (State.storeMem_work ..)

/-- What the home finds of a block: its L2's line, or memory's (R61). -/
def State.found (s : State) (key pa : Nat) : State × Option Block :=
  match Sparse.find? s.l2 (pa / 64) with
  | some l => (s.drew, if l.bad then none else some (s.peek key pa))
  | none => s.readMem key pa

/-- What the home makes of a block that it has found (R28, R61, R101). -/
def State.settled (s : State) (pol : Pol) (key pa : Nat) (s1 : State) (b : Option Block) : State × Option Block :=
  match b with
  | some b =>
    if b.side.tag.toNat < 6 then (s1.l2Touch pol (pa / 64) false, some b)
    else (s1.putAt pol (s.keyOf key pa) pa (poisoned 0), none)
  | none => (s1.putAt pol (s.keyOf key pa) pa (poisoned 0), none)

theorem State.readAt_eq (s : State) (pol : Pol) (key pa : Nat) :
    s.readAt pol key pa = s.settled pol key pa (s.found key pa).1 (s.found key pa).2 := rfl

theorem State.found_work (s : State) (key pa : Nat) : s.CacheWork (s.found key pa).1 := by
  unfold State.found
  split
  · exact .drew s
  · exact State.readMem_work ..

theorem State.readAt_work (s : State) (pol : Pol) (key pa : Nat) : s.CacheWork (s.readAt pol key pa).1 := by
  rw [State.readAt_eq]
  have h := State.found_work s key pa
  unfold State.settled
  split
  · split
    · exact h.trans (State.l2Touch_work ..)
    · exact h.trans (State.putAt_work ..)
  · exact h.trans (State.putAt_work ..)

theorem State.homeWrite_work (s : State) (pol : Pol) (key pa : Nat) (x : Blk) (mask : BitVec 64) (pair : Option Pair) :
    s.CacheWork (s.homeWrite pol key pa x mask pair).1 := by
  have h := State.readAt_work s pol key pa
  unfold State.homeWrite
  dsimp only
  split
  · rename_i heq; rw [heq] at h; exact h
  · rename_i heq
    rw [heq] at h
    split
    · exact h.trans (State.putAt_work ..)
    · split
      · split
        · exact h.trans (State.putAt_work ..)
        · exact h.trans (State.putAt_work ..)
      · exact h

-- CACHES

theorem State.wbHome_work (s : State) (ga : Nat) (l : CLine) : s.CacheWork (s.wbHome ga l) := by
  unfold State.wbHome
  split
  · exact State.homeWrite_work ..
  · split
    · exact State.sendFrame_work ..
    · exact .refl s

theorem State.wbRdc_work (s : State) (die k : Nat) : s.CacheWork (s.wbRdc die k) := by
  unfold State.wbRdc
  split
  · exact .refl s
  · split
    · exact (State.wbHome_work ..).trans (.modDie _ _ _ rfl)
    · exact .refl s

theorem State.dropRdc_work (s : State) (die k : Nat) : s.CacheWork (s.dropRdc die k) :=
  (State.wbRdc_work ..).trans (.modDie _ _ _ rfl)

theorem State.setRdc_work (s : State) (die k : Nat) (l : CLine) : s.CacheWork (s.setRdc die k l) := by
  unfold State.setRdc
  split
  · exact (State.dropRdc_work ..).trans (.modDie _ _ _ rfl)
  · exact .modDie _ _ _ rfl

theorem State.wbL1_work (s : State) (tile k : Nat) : s.CacheWork (s.wbL1 tile k) := by
  unfold State.wbL1
  split
  · exact .refl s
  · split
    · exact .refl s
    · dsimp only
      rename_i l _ _
      have h := (State.CacheWork.modTile s tile (fun t => { t with l1 := Sparse.set t.l1 k l.clean }) rfl).trans
        (State.tileMoved_work _ tile l.owner l.ctx 1)
      split
      · exact h.trans (State.wbHome_work ..)
      · exact h.trans (State.setRdc_work ..)

theorem State.dropL1_work (s : State) (tile k : Nat) : s.CacheWork (s.dropL1 tile k) :=
  (State.wbL1_work ..).trans (.modTile _ _ _ rfl)

theorem State.setL1_work (s : State) (tile k : Nat) (l : CLine) : s.CacheWork (s.setL1 tile k l) := by
  unfold State.setL1
  split
  · exact (State.dropL1_work ..).trans (.modTile _ _ _ rfl)
  · exact .modTile _ _ _ rfl

theorem State.cleanL1_work (s : State) (tile : Nat) (p : Nat → CLine → Bool) : s.CacheWork (s.cleanL1 tile p) :=
  .foldl (fun s k => s.wbL1_work tile k) _ s
theorem State.cleanRdc_work (s : State) (die : Nat) (p : Nat → CLine → Bool) : s.CacheWork (s.cleanRdc die p) :=
  .foldl (fun s k => s.wbRdc_work die k) _ s
theorem State.invL1_work (s : State) (tile : Nat) (p : Nat → CLine → Bool) : s.CacheWork (s.invL1 tile p) :=
  .foldl (fun s k => s.dropL1_work tile k) _ s
theorem State.invRdc_work (s : State) (die : Nat) (p : Nat → CLine → Bool) : s.CacheWork (s.invRdc die p) :=
  .foldl (fun s k => s.dropRdc_work die k) _ s

end Sys2Proof.Machine
end

section
/-! SUPPORT. A block at its home: what reading it gives, what leaves it as it is, and why the write-backs of caches that hold no line of
it do. -/

namespace Sys2Proof.Machine

-- COUNTS

/-- Only counts, the freezes that they ask for and the ports differ. -/
def State.Counts (s t : State) : Prop :=
  ∃ ls cs ag hm lm ps, t = { s with
    lines := ls, ctxs := cs, agenda := ag, mgmt := { s.mgmt with hostMoved := hm, linkMoved := lm, ports := ps } }

namespace State.Counts

theorem refl (s : State) : s.Counts s := ⟨_, _, _, _, _, _, rfl⟩

theorem trans {s t u : State} (h : s.Counts t) (k : t.Counts u) : s.Counts u := by
  obtain ⟨_, _, _, _, _, _, rfl⟩ := h
  obtain ⟨_, _, _, _, _, _, rfl⟩ := k
  exact ⟨_, _, _, _, _, _, rfl⟩

theorem modLine (s : State) (k : Nat) (f : Line → Line) : s.Counts (s.modLine k f) := by
  unfold State.modLine
  split
  · exact ⟨_, _, _, _, _, _, rfl⟩
  · exact refl s

theorem modCtx (s : State) (k : Nat) (f : Ctx → Ctx) : s.Counts (s.modCtx k f) := by
  unfold State.modCtx
  split
  · exact ⟨_, _, _, _, _, _, rfl⟩
  · exact refl s

theorem nowIf {s t : State} {c : Bool} {e : Instr} (h : s.Counts t) : s.Counts (if c then t.now e else t) := by
  cases c
  · exact h
  · exact h.trans ⟨_, _, _, _, _, _, rfl⟩

end State.Counts

theorem State.lineMoved_counts (s : State) (l n : Nat) : s.Counts (s.lineMoved l n) := by
  unfold State.lineMoved
  split
  · exact .refl s
  · exact .nowIf (.modLine ..)

theorem State.evalMoved_counts (s : State) (die ctx n : Nat) : s.Counts (s.evalMoved die ctx n) := by
  unfold State.evalMoved
  split
  · exact .refl s
  · exact .nowIf (.modCtx ..)

theorem State.copyMoved_counts (s : State) (die engine ctx n : Nat) : s.Counts (s.copyMoved die engine ctx n) := by
  unfold State.copyMoved
  split
  · exact .refl s
  · exact .nowIf (.modCtx ..)

theorem State.hostMoved_counts (s : State) (n : Nat) : s.Counts (s.hostMoved n) := .nowIf ⟨_, _, _, _, _, _, rfl⟩
theorem State.linkMoved_counts (s : State) (d n : Nat) : s.Counts (s.linkMoved d n) := .nowIf ⟨_, _, _, _, _, _, rfl⟩

theorem State.moved_counts (s : State) (key n : Nat) : s.Counts (s.moved key n) := by
  unfold State.moved
  dsimp only
  repeat' split
  all_goals first
    | exact State.lineMoved_counts ..
    | exact State.evalMoved_counts ..
    | exact State.copyMoved_counts ..
    | exact State.hostMoved_counts ..
    | exact .refl s

theorem State.tileMoved_counts (s : State) (tile owner ctx n : Nat) : s.Counts (s.tileMoved tile owner ctx n) := by
  unfold State.tileMoved
  repeat' split
  all_goals first
    | exact State.lineMoved_counts ..
    | exact State.evalMoved_counts ..
    | exact .refl s

theorem State.sendFrame_counts (s : State) (p : Nat) (x : Blk) : s.Counts (s.sendFrame p x) := by
  unfold State.sendFrame
  split
  · exact State.Counts.trans ⟨_, _, _, _, _, _, rfl⟩ (State.linkMoved_counts ..)
  · exact ⟨_, _, _, _, _, _, rfl⟩

-- WHAT LEAVES A BLOCK AS IT IS

/-- A block reads as before: its bytes, its sidecar and its key; and it can still be read when it could. -/
structure State.KeepsBlock (s t : State) (pa : Nat) : Prop where
  bytes : ∀ x, x / 64 = pa / 64 → Memory.get t.mem x = Memory.get s.mem x
  side : t.side pa = s.side pa
  keyed : Sparse.find? t.keyed (pa / 64) = Sparse.find? s.keyed (pa / 64)
  intact : Spec.intact s pa → Spec.intact t pa

namespace State.KeepsBlock

theorem refl (s : State) (pa : Nat) : s.KeepsBlock s pa := ⟨fun _ _ => rfl, rfl, rfl, id⟩

theorem trans {s t u : State} {pa : Nat} (h : s.KeepsBlock t pa) (k : t.KeepsBlock u pa) : s.KeepsBlock u pa :=
  ⟨fun x e => (k.bytes x e).trans (h.bytes x e), k.side.trans h.side, k.keyed.trans h.keyed, fun i => k.intact (h.intact i)⟩

theorem stored {s t : State} {pa : Nat} (h : s.KeepsBlock t pa) : t.stored pa = s.stored pa := State.stored_congr h.bytes

theorem counts {s t : State} (h : s.Counts t) (pa : Nat) : s.KeepsBlock t pa := by
  obtain ⟨_, _, _, _, _, _, rfl⟩ := h
  exact ⟨fun _ _ => rfl, rfl, rfl, id⟩

/-- Changes outside memory, its sidecars and the L2s. -/
theorem ofMem {s t : State} (pa : Nat) (hm : t.mem = s.mem) (hs : t.sides = s.sides) (hk : t.keyed = s.keyed)
    (he : t.errs = s.errs) (hl : t.l2 = s.l2) : s.KeepsBlock t pa :=
  ⟨fun _ _ => by rw [hm], by rw [State.side_of_sides hs], by rw [hk], fun i => by unfold Spec.intact at *; rwa [he, hl]⟩

/-- A block that can be read under a key still can. -/
theorem readable {s t : State} {key pa : Nat} (h : s.KeepsBlock t pa) (hg : t.mgmt.keyGen = s.mgmt.keyGen)
    (r : Spec.readableAt s key pa) : Spec.readableAt t key pa :=
  ⟨h.intact r.1, by rw [h.keyed, r.2]; unfold State.keyTag; rw [hg]⟩

end State.KeepsBlock

/-- A line of the L2 leaves, and no stored error comes in. -/
theorem intact_dropL2 (s : State) (b pa : Nat) (h : Spec.intact s pa) : Spec.intact (s.dropL2 b) pa := by
  obtain ⟨he, hl⟩ := h
  refine ⟨?_, fun l hf => ?_⟩
  · unfold State.dropL2
    dsimp only
    split
    · rw [Sparse.get_del]; split <;> simp [he]
    · exact he
  · unfold State.dropL2 at hf
    rw [Sparse.find_del] at hf
    split at hf
    · exact absurd hf (by simp)
    · exact hl l hf

/-- Touching the L2 brings no error into any block. -/
theorem intact_l2Touch (s : State) (pol : Pol) (b pa : Nat) (w : Bool) (h : Spec.intact s pa) :
    Spec.intact (s.l2Touch pol b w) pa := by
  have put (t : State) (x : L2Line) (ht : Spec.intact t pa) (hx : pa / 64 = b → x.bad = false) :
      Spec.intact { t with l2 := Sparse.set t.l2 b x } pa := by
    refine ⟨ht.1, fun l hf => ?_⟩
    rw [Sparse.find_set] at hf
    split at hf
    · obtain rfl := Option.some.inj hf; exact hx ‹_›
    · exact ht.2 l hf
  unfold State.l2Touch
  split
  · rename_i l hl
    refine put s _ h fun e => ?_
    split
    · rfl
    · exact h.2 l (e ▸ hl)
  · split
    · exact h
    · dsimp only
      split
      · exact put _ _ (intact_dropL2 _ _ _ h) fun _ => rfl
      · exact put _ _ h fun _ => rfl

theorem State.KeepsBlock.l2Touch (s : State) (pol : Pol) (b pa : Nat) (w : Bool) : s.KeepsBlock (s.l2Touch pol b w) pa :=
  ⟨fun _ _ => by simp, State.side_of_sides (by simp) pa, by simp, intact_l2Touch s pol b pa w⟩

theorem State.storeMem_get (s : State) (key qa x : Nat) (b : Block) (h : s.memWf) (hx : x / 64 ≠ qa / 64) :
    Memory.get (s.storeMem key qa b).mem x = Memory.get s.mem x := by
  have ho : x < qa / 64 * 64 ∨ qa / 64 * 64 + 64 ≤ x := by omega
  unfold State.storeMem
  rw [Memory.get_setN_outside _ _ _ _ _ h ho]

theorem State.storeMem_keyed (s : State) (key qa j : Nat) (b : Block) :
    Sparse.find? (s.storeMem key qa b).keyed j = if j = qa / 64 then some (s.keyTag key) else Sparse.find? s.keyed j := by
  unfold State.storeMem
  exact Sparse.find_set ..

theorem State.storeMem_errs (s : State) (key qa j : Nat) (b : Block) :
    Sparse.get (s.storeMem key qa b).errs [] j = if j = qa / 64 then [] else Sparse.get s.errs [] j := by
  unfold State.storeMem
  exact Sparse.get_del ..

/-- A whole block that is stored elsewhere leaves a block as it is. -/
theorem State.KeepsBlock.storeMem (s : State) (key qa pa : Nat) (b : Block) (h : s.memWf) (hne : qa / 64 ≠ pa / 64) :
    s.KeepsBlock (s.storeMem key qa b) pa :=
  ⟨fun x hx => s.storeMem_get key qa x b h (by omega),
    by rw [State.storeMem_side, if_neg (Ne.symm hne)],
    by rw [State.storeMem_keyed, if_neg (Ne.symm hne)],
    fun i => ⟨by rw [State.storeMem_errs, if_neg (Ne.symm hne)]; exact i.1, by rw [State.storeMem_l2]; exact i.2⟩⟩

theorem State.KeepsBlock.putAt (s : State) (pol : Pol) (key qa pa : Nat) (b : Block) (h : s.memWf) (hne : qa / 64 ≠ pa / 64) :
    s.KeepsBlock (s.putAt pol key qa b) pa :=
  (State.KeepsBlock.storeMem s key qa pa b h hne).trans (.l2Touch ..)

theorem State.KeepsBlock.readMem (s : State) (key qa pa : Nat) (h : s.memWf) (hne : qa / 64 ≠ pa / 64) :
    s.KeepsBlock (s.readMem key qa).1 pa := by
  unfold State.readMem
  dsimp only
  split
  · exact ofMem pa rfl rfl rfl rfl rfl
  · split
    · exact ⟨fun _ _ => rfl, rfl, rfl, fun i =>
        ⟨(Sparse.get_del ..).trans (by rw [if_neg (Ne.symm hne)]; exact i.1), i.2⟩⟩
    · split
      · exact ofMem pa rfl rfl rfl rfl rfl
      · refine State.KeepsBlock.trans (t := s.drew.drew) (ofMem pa rfl rfl rfl rfl rfl) ?_
        dsimp only
        exact storeMem s.drew.drew _ qa pa _ h hne

theorem State.KeepsBlock.readAt (s : State) (pol : Pol) (key qa pa : Nat) (h : s.memWf) (hne : qa / 64 ≠ pa / 64) :
    s.KeepsBlock (s.readAt pol key qa).1 pa := by
  rw [State.readAt_eq]
  have hf : s.KeepsBlock (s.found key qa).1 pa := by
    unfold State.found
    split
    · exact ofMem pa rfl rfl rfl rfl rfl
    · exact State.KeepsBlock.readMem s key qa pa h hne
  have hw := (State.found_work s key qa).wf h
  unfold State.settled
  split
  · split
    · exact hf.trans (.l2Touch ..)
    · exact hf.trans (putAt _ _ _ qa pa _ hw hne)
  · exact hf.trans (putAt _ _ _ qa pa _ hw hne)

theorem State.KeepsBlock.homeWrite (s : State) (pol : Pol) (key qa pa : Nat) (x : Blk) (mask : BitVec 64) (pair : Option Pair)
    (h : s.memWf) (hne : qa / 64 ≠ pa / 64) : s.KeepsBlock (s.homeWrite pol key qa x mask pair).1 pa := by
  have hr := State.KeepsBlock.readAt s pol key qa pa h hne
  have hw := (State.readAt_work s pol key qa).wf h
  unfold State.homeWrite
  dsimp only
  split
  · rename_i heq; rw [heq] at hr; exact hr
  · rename_i heq
    rw [heq] at hr hw
    split
    · exact hr.trans (putAt _ _ _ qa pa _ hw hne)
    · split
      · split
        · exact hr.trans (putAt _ _ _ qa pa _ hw hne)
        · exact hr.trans (putAt _ _ _ qa pa _ hw hne)
      · exact hr

-- READING A BLOCK

/-- Only what has been drawn, stored errors and the L2s differ, and no block has come to be in error. -/
structure State.Reads (s t : State) : Prop where
  only : ∃ f e l, t = { s with fresh := f, errs := e, l2 := l }
  intact : ∀ pa, Spec.intact s pa → Spec.intact t pa

theorem State.Reads.keeps {s t : State} (h : s.Reads t) (pa : Nat) : s.KeepsBlock t pa := by
  obtain ⟨⟨_, _, _, rfl⟩, hi⟩ := h
  exact ⟨fun _ _ => rfl, rfl, rfl, hi pa⟩

theorem State.Reads.mem {s t : State} (h : s.Reads t) : t.mem = s.mem := by
  obtain ⟨⟨_, _, _, rfl⟩, _⟩ := h; rfl

theorem State.Reads.refl (s : State) : s.Reads s := ⟨⟨_, _, _, rfl⟩, fun _ => id⟩

theorem State.Reads.trans {s t u : State} (h : s.Reads t) (k : t.Reads u) : s.Reads u := by
  obtain ⟨⟨_, _, _, rfl⟩, hi⟩ := h
  obtain ⟨⟨_, _, _, rfl⟩, ki⟩ := k
  exact ⟨⟨_, _, _, rfl⟩, fun pa i => ki pa (hi pa i)⟩

theorem State.Reads.drewTouch (s : State) (pol : Pol) (b : Nat) (w : Bool) : s.Reads (s.drew.l2Touch pol b w) := by
  obtain ⟨e, l, h⟩ := State.l2Touch_eq s.drew pol b w
  exact ⟨⟨_, e, l, h⟩, fun pa i => intact_l2Touch s.drew pol b pa w i⟩

/-- A block without an error and with a tag that is not reserved is delivered as it stands (R61). -/
theorem State.readAt_intact (s : State) (pol : Pol) (key pa : Nat) (h : Spec.intact s pa) (htag : (s.side pa).tag.toNat < 6) :
    ∃ t, s.readAt pol key pa = (t, some (s.peek key pa)) ∧ s.Reads t := by
  have hf : s.found key pa = (s.drew, some (s.peek key pa)) := by
    unfold State.found
    split
    · rename_i l hl
      simp [h.2 l hl]
    · simp [State.readMem, h.1]
  refine ⟨_, ?_, State.Reads.drewTouch s pol (pa / 64) false⟩
  rw [State.readAt_eq, hf]
  exact if_pos htag

/-- What a block that can be read under a key reads as. -/
theorem State.peek_readable (s : State) (key pa : Nat) (h : Spec.readableAt s key pa) :
    s.peek key pa = ⟨s.stored pa, s.side pa⟩ := by
  simp [State.peek, State.inArea, h.2, Sparse.get_eq_find]

theorem State.readAt_readable (s : State) (pol : Pol) (key pa : Nat) (h : Spec.readableAt s key pa)
    (htag : (s.side pa).tag.toNat < 6) :
    ∃ t, s.readAt pol key pa = (t, some ⟨s.stored pa, s.side pa⟩) ∧ s.Reads t := by
  rw [← State.peek_readable s key pa h]
  exact State.readAt_intact s pol key pa h.1 htag

-- A BLOCK THAT HAS BEEN STORED

/-- A block that has been stored at its home reads as it was stored. -/
structure State.Holds (s : State) (pa : Nat) (b : Block) : Prop where
  stored : s.stored pa = b.data
  side : s.side pa = b.side

theorem State.KeepsBlock.holds {s t : State} {pa : Nat} {b : Block} (k : s.KeepsBlock t pa) (h : s.Holds pa b) : t.Holds pa b :=
  ⟨k.stored.trans h.stored, k.side.trans h.side⟩

theorem State.storeMem_holds (s : State) (key pa : Nat) (b : Block) (h : s.memWf) : (s.storeMem key pa b).Holds pa b :=
  ⟨State.storeMem_stored s key pa b h, by rw [State.storeMem_side, if_pos rfl]⟩

theorem State.putAt_holds (s : State) (pol : Pol) (key pa : Nat) (b : Block) (h : s.memWf) : (s.putAt pol key pa b).Holds pa b :=
  (State.KeepsBlock.l2Touch (s.storeMem key pa b) pol (pa / 64) pa true).holds (State.storeMem_holds s key pa b h)

/-- Only the L2s differ. -/
theorem State.rewrite_eq (s : State) (key pa : Nat) (b : Block) : ∃ l, s.rewrite key pa b = { s.storeMem key pa b with l2 := l } :=
  ⟨_, rfl⟩

theorem State.rewrite_holds (s : State) (key pa : Nat) (b : Block) (h : s.memWf) : (s.rewrite key pa b).Holds pa b := by
  obtain ⟨l, e⟩ := s.rewrite_eq key pa b
  have hs := State.storeMem_holds s key pa b h
  rw [e]
  generalize s.storeMem key pa b = t at *
  exact ⟨hs.stored, hs.side⟩

theorem State.KeepsBlock.rewrite (s : State) (key qa pa : Nat) (b : Block) (h : s.memWf) (hne : qa / 64 ≠ pa / 64) :
    s.KeepsBlock (s.rewrite key qa b) pa := by
  refine (State.KeepsBlock.storeMem s key qa pa b h hne).trans ?_
  have hl (l : L2Line) (hf : Sparse.find? (s.rewrite key qa b).l2 (pa / 64) = some l) : Sparse.find? s.l2 (pa / 64) = some l := by
    unfold State.rewrite at hf
    dsimp only at hf
    split at hf
    · rwa [Sparse.find_set, if_neg (Ne.symm hne)] at hf
    · exact hf
  obtain ⟨l, e⟩ := s.rewrite_eq key qa b
  have h2 := State.storeMem_l2 s key qa b
  rw [e] at hl ⊢
  generalize s.storeMem key qa b = t at *
  exact ⟨fun _ _ => rfl, rfl, rfl, fun i => ⟨i.1, fun x hx => i.2 x (by rw [h2]; exact hl x hx)⟩⟩

-- CACHES THAT HOLD NO LINE OF A BLOCK

/-- A line's key names a block of this device. -/
def State.names? (s : State) (k pa : Nat) : Prop := devOf (lineAddr k) = s.dev ∧ paOf (lineAddr k) / 64 = pa / 64

/-- The caches of a party hold no line of a block. -/
def State.Lacks (s : State) (a : Access) (pa : Nat) : Prop :=
  ∀ k, s.names? k pa → s.l1Of a k = none ∧ Sparse.find? (s.die a.die).rdc k = none

theorem State.CacheWork.dev {s t : State} (h : s.CacheWork t) : t.dev = s.dev :=
  State.dev_congr (show t.mgmt.uncounted.devnum = s.mgmt.uncounted.devnum by rw [h.mgmt])

theorem State.Lacks.congr {s t : State} {a : Access} {pa : Nat} (h : s.Lacks a pa) (hd : t.dev = s.dev)
    (hl : ∀ k, s.names? k pa → t.l1Of a k = s.l1Of a k)
    (hr : ∀ k, s.names? k pa → Sparse.find? (t.die a.die).rdc k = Sparse.find? (s.die a.die).rdc k) : t.Lacks a pa := by
  intro k hk
  have hk' : s.names? k pa := by unfold State.names? at *; rwa [hd] at hk
  rw [hl k hk', hr k hk']
  exact h k hk'

/-- What write-backs of a party's caches do: they are work of the caches, and where these hold no line of a block they leave the block as
it is, and bring no line of it in. -/
def State.Aside (a : Access) (pa : Nat) (s t : State) : Prop :=
  s.CacheWork t ∧ (s.memWf → s.Lacks a pa → s.KeepsBlock t pa ∧ t.Lacks a pa)

namespace State.Aside
variable {a : Access} {pa : Nat}

theorem refl (s : State) : State.Aside a pa s s := ⟨.refl s, fun _ h => ⟨.refl s pa, h⟩⟩

theorem trans {s t u : State} (h : State.Aside a pa s t) (k : State.Aside a pa t u) : State.Aside a pa s u :=
  ⟨h.1.trans k.1, fun w l =>
    have ⟨hb, hl⟩ := h.2 w l
    have ⟨kb, kl⟩ := k.2 (h.1.wf w) hl
    ⟨hb.trans kb, kl⟩⟩

theorem foldl {α : Type} {f : State → α → State} (h : ∀ (s : State) x, State.Aside a pa s (f s x)) (xs : List α) (s : State) :
    State.Aside a pa s (xs.foldl f s) := by
  induction xs generalizing s with
  | nil => exact refl s
  | cons x xs ih => exact (h s x).trans (ih (f s x))

theorem counts {s t : State} (h : s.Counts t) (w : s.CacheWork t) : State.Aside a pa s t :=
  ⟨w, fun _ l => ⟨.counts h pa, by
    refine l.congr w.dev (fun k _ => ?_) fun k _ => ?_ <;> obtain ⟨_, _, _, _, _, _, rfl⟩ := h <;> rfl⟩⟩

end State.Aside

theorem State.readMem_tiles (s : State) (key pa : Nat) : (s.readMem key pa).1.tiles = s.tiles := by
  unfold State.readMem; dsimp only; repeat' split
  all_goals simp

theorem State.readMem_rdc (s : State) (key pa d : Nat) : ((s.readMem key pa).1.die d).rdc = (s.die d).rdc := by
  unfold State.readMem; dsimp only; repeat' split
  · rfl
  · rw [State.die_modDie]; split
    · rename_i e; subst e; rfl
    · rfl
  · rfl
  · exact congrArg Die.rdc (State.die_congr (by simp) d)

theorem State.found_tiles (s : State) (key pa : Nat) : (s.found key pa).1.tiles = s.tiles := by
  unfold State.found; split
  · rfl
  · exact State.readMem_tiles ..

theorem State.found_rdc (s : State) (key pa d : Nat) : ((s.found key pa).1.die d).rdc = (s.die d).rdc := by
  unfold State.found; split
  · rfl
  · exact State.readMem_rdc ..

theorem State.readAt_tiles (s : State) (pol : Pol) (key pa : Nat) : (s.readAt pol key pa).1.tiles = s.tiles := by
  rw [State.readAt_eq, ← State.found_tiles s key pa]
  unfold State.settled; repeat' split
  all_goals simp

theorem State.readAt_rdc (s : State) (pol : Pol) (key pa d : Nat) : ((s.readAt pol key pa).1.die d).rdc = (s.die d).rdc := by
  rw [State.readAt_eq, ← State.found_rdc s key pa]
  unfold State.settled; repeat' split
  all_goals exact congrArg Die.rdc (State.die_congr (by simp) d)

theorem State.homeWrite_tiles (s : State) (pol : Pol) (key pa : Nat) (x : Blk) (mask : BitVec 64) (pair : Option Pair) :
    (s.homeWrite pol key pa x mask pair).1.tiles = s.tiles := by
  have h := State.readAt_tiles s pol key pa
  unfold State.homeWrite; dsimp only
  split <;> rename_i heq <;> rw [heq] at h
  · exact h
  · repeat' split
    all_goals simpa using h

theorem State.homeWrite_rdc (s : State) (pol : Pol) (key pa : Nat) (x : Blk) (mask : BitVec 64) (pair : Option Pair) (d : Nat) :
    ((s.homeWrite pol key pa x mask pair).1.die d).rdc = (s.die d).rdc := by
  have h := State.readAt_rdc s pol key pa d
  unfold State.homeWrite; dsimp only
  split <;> rename_i heq <;> rw [heq] at h
  · exact h
  · repeat' split
    all_goals exact (congrArg Die.rdc (State.die_congr (by simp) d)).trans h

theorem State.wbHome_tiles (s : State) (ga : Nat) (l : CLine) : (s.wbHome ga l).tiles = s.tiles := by
  unfold State.wbHome
  split
  · exact State.homeWrite_tiles ..
  · split
    · rename_i p _
      obtain ⟨_, _, _, _, _, _, h⟩ := State.sendFrame_counts s p l.data
      rw [h]
    · rfl

theorem State.wbHome_rdc (s : State) (ga : Nat) (l : CLine) (d : Nat) : ((s.wbHome ga l).die d).rdc = (s.die d).rdc := by
  unfold State.wbHome
  split
  · exact State.homeWrite_rdc ..
  · split
    · rename_i p _
      obtain ⟨_, _, _, _, _, _, h⟩ := State.sendFrame_counts s p l.data
      rw [h]
      rfl
    · rfl

/-- A write-back of a line of another block. -/
theorem State.wbHome_aside (s : State) (a : Access) (k pa : Nat) (l : CLine) (hk : ¬ s.names? k pa) :
    State.Aside a pa s (s.wbHome (lineAddr k) l) := by
  refine ⟨State.wbHome_work .., fun w h => ⟨?_, h.congr (State.wbHome_work ..).dev (fun j _ => ?_) fun j _ => ?_⟩⟩
  · unfold State.wbHome
    split
    · rename_i hd
      exact .homeWrite s _ _ _ pa _ _ _ w fun e => hk ⟨hd, e⟩
    · split
      · exact .counts (State.sendFrame_counts ..) pa
      · exact .refl s pa
  · unfold State.l1Of; rw [State.tile_congr (State.wbHome_tiles ..)]
  · rw [State.wbHome_rdc]

/-- A line that stands in a cache that lacks a block is no line of the block. -/
theorem State.Lacks.not_names_of_rdc {s : State} {a : Access} {k pa : Nat} {l : CLine} (h : s.Lacks a pa)
    (hf : Sparse.find? (s.die a.die).rdc k = some l) : ¬ s.names? k pa := fun hk => by simp [(h k hk).2] at hf

theorem State.Lacks.not_names_of_l1 {s : State} {a : Access} {k pa : Nat} {l : CLine} (h : s.Lacks a pa) (ha : a.hasL1 = true)
    (hf : Sparse.find? (s.tile a.tile).l1 k = some l) : ¬ s.names? k pa := fun hk => by
  have := (h k hk).1
  simp [State.l1Of, ha, hf] at this

/-- The RDC with a line of another block put in. -/
theorem State.Lacks.setRdc {s : State} {a : Access} {k pa : Nat} (l : CLine) (h : s.Lacks a pa) (hk : ¬ s.names? k pa) :
    (s.modDie a.die fun d => { d with rdc := Sparse.set d.rdc k l }).Lacks a pa := by
  refine h.congr rfl (fun j _ => rfl) fun j hj => ?_
  rw [State.die_modDie, if_pos rfl, Sparse.find_set, if_neg fun e => hk (by rw [← e]; exact hj)]

/-- The RDC with a line taken out. -/
theorem State.Lacks.delRdc {s : State} {a : Access} {pa : Nat} (k : Nat) (h : s.Lacks a pa) :
    (s.modDie a.die fun d => { d with rdc := Sparse.del d.rdc k }).Lacks a pa := by
  intro j hj
  refine ⟨(h j hj).1, ?_⟩
  rw [State.die_modDie, if_pos rfl, Sparse.find_del]
  split
  · rfl
  · exact (h j hj).2

/-- The L1 with a line of another block put in. -/
theorem State.Lacks.setL1 {s : State} {a : Access} {k pa : Nat} (l : CLine) (h : s.Lacks a pa) (hk : ¬ s.names? k pa) :
    (s.modTile a.tile fun t => { t with l1 := Sparse.set t.l1 k l }).Lacks a pa := by
  refine h.congr rfl (fun j hj => ?_) fun j _ => rfl
  have hne : j ≠ k := fun e => hk (by rw [← e]; exact hj)
  unfold State.l1Of
  rw [State.tile_modTile, if_pos rfl, Sparse.find_set, if_neg hne]

/-- The L1 with a line taken out. -/
theorem State.Lacks.delL1 {s : State} {a : Access} {pa : Nat} (k : Nat) (h : s.Lacks a pa) :
    (s.modTile a.tile fun t => { t with l1 := Sparse.del t.l1 k }).Lacks a pa := by
  intro j hj
  refine ⟨?_, (h j hj).2⟩
  have := (h j hj).1
  unfold State.l1Of at *
  rw [State.tile_modTile, if_pos rfl, Sparse.find_del]
  split
  · rename_i ha; rw [if_pos ha] at this; split <;> simp [this]
  · rfl

theorem State.wbRdc_aside (s : State) (a : Access) (k pa : Nat) : State.Aside a pa s (s.wbRdc a.die k) := by
  refine ⟨State.wbRdc_work .., fun w h => ?_⟩
  unfold State.wbRdc
  split
  · exact ⟨.refl s pa, h⟩
  · rename_i l hl
    split
    · have hk := h.not_names_of_rdc hl
      have hw := State.wbHome_aside s a k pa l hk
      obtain ⟨hb, hl⟩ := hw.2 w h
      refine ⟨hb.trans (.ofMem pa rfl rfl rfl rfl rfl), hl.setRdc _ ?_⟩
      unfold State.names?; rw [hw.1.dev]; exact hk
    · exact ⟨.refl s pa, h⟩

theorem State.dropRdc_aside (s : State) (a : Access) (k pa : Nat) : State.Aside a pa s (s.dropRdc a.die k) := by
  have hw := State.wbRdc_aside s a k pa
  refine ⟨State.dropRdc_work .., fun w h => ?_⟩
  obtain ⟨hb, hl⟩ := hw.2 w h
  exact ⟨hb.trans (.ofMem pa rfl rfl rfl rfl rfl), hl.delRdc k⟩

theorem State.setRdc_aside (s : State) (a : Access) (k pa : Nat) (l : CLine) (hk : ¬ s.names? k pa) :
    State.Aside a pa s (s.setRdc a.die k l) := by
  refine ⟨State.setRdc_work .., fun w h => ?_⟩
  unfold State.setRdc
  split
  · rename_i v _
    have hw := State.dropRdc_aside s a v pa
    obtain ⟨hb, hl⟩ := hw.2 w h
    refine ⟨hb.trans (.ofMem pa rfl rfl rfl rfl rfl), hl.setRdc l ?_⟩
    unfold State.names?; rw [hw.1.dev]; exact hk
  · exact ⟨.ofMem pa rfl rfl rfl rfl rfl, h.setRdc l hk⟩

theorem Access.die_of_hasL1 {a : Access} (h : a.hasL1 = true) : a.die = dieOf a.tile := by unfold Access.die; rw [if_pos h]

theorem State.wbL1_aside (s : State) (a : Access) (k pa : Nat) (ha : a.hasL1 = true) :
    State.Aside a pa s (s.wbL1 a.tile k) := by
  refine ⟨State.wbL1_work .., fun w h => ?_⟩
  unfold State.wbL1
  split
  · exact ⟨.refl s pa, h⟩
  · rename_i l hl
    split
    · exact ⟨.refl s pa, h⟩
    · have hk := h.not_names_of_l1 ha hl
      dsimp only
      rw [← Access.die_of_hasL1 ha]
      have h1 : State.Aside a pa s (s.modTile a.tile fun t => { t with l1 := Sparse.set t.l1 k l.clean }) :=
        ⟨.modTile _ _ _ rfl, fun _ h => ⟨.ofMem pa rfl rfl rfl rfl rfl, h.setL1 _ hk⟩⟩
      have h2 := h1.trans (.counts (State.tileMoved_counts _ a.tile l.owner l.ctx 1) (State.tileMoved_work ..))
      have hk' := hk
      unfold State.names? at hk'
      rw [← h2.1.dev] at hk'
      split
      · exact (h2.trans (State.wbHome_aside _ a k pa l hk')).2 w h
      · exact (h2.trans (State.setRdc_aside _ a k pa _ hk')).2 w h

theorem State.dropL1_aside (s : State) (a : Access) (k pa : Nat) (ha : a.hasL1 = true) :
    State.Aside a pa s (s.dropL1 a.tile k) := by
  have hw := State.wbL1_aside s a k pa ha
  refine ⟨State.dropL1_work .., fun w h => ?_⟩
  obtain ⟨hb, hl⟩ := hw.2 w h
  exact ⟨hb.trans (.ofMem pa rfl rfl rfl rfl rfl), hl.delL1 k⟩

theorem State.cleanL1_aside (s : State) (a : Access) (pa : Nat) (p : Nat → CLine → Bool) (ha : a.hasL1 = true) :
    State.Aside a pa s (s.cleanL1 a.tile p) := .foldl (fun s k => s.wbL1_aside a k pa ha) _ s
theorem State.cleanRdc_aside (s : State) (a : Access) (pa : Nat) (p : Nat → CLine → Bool) :
    State.Aside a pa s (s.cleanRdc a.die p) := .foldl (fun s k => s.wbRdc_aside a k pa) _ s

/-- The release side of a party's FENCE (R68, R142). -/
theorem State.partyRel_aside (s : State) (a : Access) (sc pa : Nat) : State.Aside a pa s (s.partyRel a sc) := by
  unfold State.partyRel State.fenceRel
  split
  · rename_i ha
    dsimp only
    rw [← Access.die_of_hasL1 ha]
    split
    · exact .refl s
    · split
      · exact (State.cleanL1_aside s a pa _ ha).trans (State.cleanRdc_aside ..)
      · exact State.cleanL1_aside s a pa _ ha
  · split
    · exact State.cleanRdc_aside ..
    · exact .refl s

/-- The actions of a release on its object's regions, and the release side of FENCE (R68, R269). -/
theorem State.relActs_aside (s : State) (a : Access) (sc pa : Nat) : State.Aside a pa s (s.relActs a sc) := by
  unfold State.relActs State.objRel
  dsimp only
  split
  · exact .refl s
  · split
    · rename_i ha
      rw [← Access.die_of_hasL1 ha]
      exact ((State.cleanL1_aside s a pa _ ha).trans (State.cleanRdc_aside ..)).trans (State.partyRel_aside ..)
    · split
      · exact (State.cleanRdc_aside ..).trans (State.partyRel_aside ..)
      · exact .refl s

end Sys2Proof.Machine
end

section
/-! SUPPORT. Accesses after updates of the list of accesses, and what an access has when it is answered or fails. -/

namespace Sys2Proof.Machine

theorem State.acc?_id {s : State} {id : Nat} {x : Access} (h : s.acc? id = some x) : x.id = id := by
  simpa using List.find?_some h

theorem State.acc?_modAcc (s : State) (id j : Nat) (f : Access → Access) (hf : ∀ x, (f x).id = x.id) :
    (s.modAcc id f).acc? j = (s.acc? j).map fun x => if x.id = id then f x else x := by
  unfold State.acc? State.modAcc
  rw [List.find?_map]
  congr 2
  funext x
  simp only [Function.comp_apply]
  split <;> simp [hf]

/-- The access itself after it has been changed. -/
theorem State.acc?_modAcc_same {s : State} {id : Nat} {x : Access} (f : Access → Access) (hf : ∀ x, (f x).id = x.id)
    (h : s.acc? id = some x) : (s.modAcc id f).acc? id = some (f x) := by
  rw [State.acc?_modAcc _ _ _ _ hf, h, Option.map_some, if_pos (State.acc?_id h)]

/-- Another access after one has been changed. -/
theorem State.acc?_modAcc_other {s : State} {id j : Nat} (f : Access → Access) (hf : ∀ x, (f x).id = x.id) (hne : j ≠ id) :
    (s.modAcc id f).acc? j = s.acc? j := by
  rw [State.acc?_modAcc _ _ _ _ hf]
  cases h : s.acc? j with
  | none => rfl
  | some x => rw [Option.map_some, if_neg (by rw [State.acc?_id h]; exact hne)]

/-- An access that is answered has its answer. -/
theorem State.answer_answered {s : State} {id : Nat} {x : Access} (ans : Answer) (h : s.acc? id = some x) :
    Spec.answered (s.answer id ans) id ans :=
  ⟨_, State.acc?_modAcc_same (s := s) _ (fun _ => rfl) h, rfl, rfl⟩

theorem State.failAcc_mem (s : State) (a : Access) (e : Err) (cause : BitVec 8) (detail : Nat) :
    (s.failAcc a e cause detail).mem = s.mem := State.answer_mem ..

/-- An access that fails has the token of its record. -/
theorem State.failAcc_failed {s0 s : State} {a x : Access} (e : Err) (cause : BitVec 8) (detail : Nat) (h : s.acc? a.id = some x)
    (hd : s.dev = s0.dev) : Spec.failed s0 (s.failAcc a e cause detail) a e cause detail := by
  unfold Spec.failed
  rw [← hd]
  exact State.answer_answered _ h

theorem State.failAcc_refused {s : State} {a x : Access} (e : Err) (cause : BitVec 8) (detail : Nat) (h : s.acc? a.id = some x) :
    Spec.refused (s.failAcc a e cause detail) a a.id e cause detail := by
  have hd : (s.failAcc a e cause detail).dev = s.dev := State.dev_congr (by simp [State.failAcc])
  unfold Spec.refused
  rw [hd]
  exact State.answer_answered _ h

theorem State.refuse_failed {s0 s : State} {a x : Access} (cause : BitVec 8) (h : s.acc? a.id = some x) (hd : s.dev = s0.dev) :
    Spec.failed s0 (s.refuse a cause) a .permission cause (vaDetail a.va 0) := State.failAcc_failed _ _ _ h hd

/-- Answering and changing accesses leave every block as it is. -/
theorem State.answer_keeps (s : State) (id : Nat) (ans : Answer) (pa : Nat) : s.KeepsBlock (s.answer id ans) pa :=
  .ofMem pa rfl rfl rfl rfl rfl

theorem State.modAcc_keeps (s : State) (id : Nat) (f : Access → Access) (pa : Nat) : s.KeepsBlock (s.modAcc id f) pa :=
  .ofMem pa rfl rfl rfl rfl rfl

end Sys2Proof.Machine
end

section
/-! SUPPORT. An access that arrives at its home: it takes its turn, leaves the caches and is counted; and how the block that it finds
then reads. -/

namespace Sys2Proof.Machine

-- PARTS AFTER COUNTS AND AFTER READING

theorem State.Counts.stray {s t : State} (h : s.Counts t) : t.mgmt.stray = s.mgmt.stray := by
  obtain ⟨_, _, _, _, _, _, rfl⟩ := h; rfl

theorem State.Counts.completion {s t : State} (h : s.Counts t) : t.mgmt.completion = s.mgmt.completion := by
  obtain ⟨_, _, _, _, _, _, rfl⟩ := h; rfl

theorem State.Counts.mem {s t : State} (h : s.Counts t) : t.mem = s.mem := by
  obtain ⟨_, _, _, _, _, _, rfl⟩ := h; rfl

theorem State.Counts.sides {s t : State} (h : s.Counts t) : t.sides = s.sides := by
  obtain ⟨_, _, _, _, _, _, rfl⟩ := h; rfl

theorem State.Reads.sides {s t : State} (h : s.Reads t) : t.sides = s.sides := by
  obtain ⟨⟨_, _, _, rfl⟩, _⟩ := h; rfl

theorem State.Reads.mgmt {s t : State} (h : s.Reads t) : t.mgmt = s.mgmt := by
  obtain ⟨⟨_, _, _, rfl⟩, _⟩ := h; rfl

theorem State.Counts.acc? {s t : State} (h : s.Counts t) (id : Nat) : t.acc? id = s.acc? id := by
  obtain ⟨_, _, _, _, _, _, rfl⟩ := h; rfl
theorem State.Counts.dev {s t : State} (h : s.Counts t) : t.dev = s.dev := by
  obtain ⟨_, _, _, _, _, _, rfl⟩ := h; rfl
theorem State.Counts.cycle {s t : State} (h : s.Counts t) : t.cycle = s.cycle := by
  obtain ⟨_, _, _, _, _, _, rfl⟩ := h; rfl
theorem State.Counts.keyGen {s t : State} (h : s.Counts t) : t.mgmt.keyGen = s.mgmt.keyGen := by
  obtain ⟨_, _, _, _, _, _, rfl⟩ := h; rfl
theorem State.Counts.tile {s t : State} (h : s.Counts t) (k : Nat) : t.tile k = s.tile k := by
  obtain ⟨_, _, _, _, _, _, rfl⟩ := h; rfl
theorem State.Counts.die {s t : State} (h : s.Counts t) (k : Nat) : t.die k = s.die k := by
  obtain ⟨_, _, _, _, _, _, rfl⟩ := h; rfl

theorem State.Reads.acc? {s t : State} (h : s.Reads t) (id : Nat) : t.acc? id = s.acc? id := by
  obtain ⟨⟨_, _, _, rfl⟩, _⟩ := h; rfl
theorem State.Reads.dev {s t : State} (h : s.Reads t) : t.dev = s.dev := by
  obtain ⟨⟨_, _, _, rfl⟩, _⟩ := h; rfl
theorem State.Reads.cycle {s t : State} (h : s.Reads t) : t.cycle = s.cycle := by
  obtain ⟨⟨_, _, _, rfl⟩, _⟩ := h; rfl
theorem State.Reads.tile {s t : State} (h : s.Reads t) (k : Nat) : t.tile k = s.tile k := by
  obtain ⟨⟨_, _, _, rfl⟩, _⟩ := h; rfl
theorem State.Reads.die {s t : State} (h : s.Reads t) (k : Nat) : t.die k = s.die k := by
  obtain ⟨⟨_, _, _, rfl⟩, _⟩ := h; rfl
theorem State.Reads.isConf {s t : State} (h : s.Reads t) (c : Nat) : t.isConf c = s.isConf c := by
  obtain ⟨⟨_, _, _, rfl⟩, _⟩ := h; rfl

theorem State.isConf_work {s t : State} (h : s.CacheWork t) (c : Nat) : t.isConf c = s.isConf c := by
  have hc := h.ctx c
  unfold State.isConf
  cases e : t.ctx? c <;> cases e' : s.ctx? c <;> simp [e, e'] at hc ⊢
  have hx := congrArg Ctx.conf hc
  exact hx

theorem State.putAt_get (s : State) (pol : Pol) (key pa x : Nat) (b : Block) (h : s.memWf) (hx : x / 64 ≠ pa / 64) :
    Memory.get (s.putAt pol key pa b).mem x = Memory.get s.mem x := by
  unfold State.putAt
  rw [State.l2Touch_mem]
  exact State.storeMem_get s key pa x b h hx

theorem State.Reads.memWf {s t : State} (h : s.Reads t) (w : s.memWf) : t.memWf := by
  unfold State.memWf; rw [h.mem]; exact w

-- ARRIVING WITHOUT A LINE

theorem State.lacks_of_left {s : State} {a : Access} {n : Nat} (h : Spec.left s a n) : s.Lacks a (paOf a.pa) :=
  fun k hk => h 0 (Nat.zero_le n) k (Or.inr hk)

-- LEAVING THE CACHES

/-- The last block of those that an access leaves: a CSUSP has a group of them. -/
def Access.lastBlock (a : Access) : Nat := match a.op with | .csusp .. => a.c.toNat % 64 | _ => 0

/-- One of the blocks of an access leaves the L1. -/
def State.leaveOwn (s : State) (a : Access) (ga : Nat) : State := if a.hasL1 then s.leaveL1 a.tile a.key ga else s
/-- And then the RDC, where its home is elsewhere. -/
def State.leaveDie (s : State) (a : Access) (ga : Nat) : State :=
  if s.localTo a.die ga then s else s.dropRdc a.die (lineKey a.key ga)

theorem State.leaveCaches_eq (s : State) (a : Access) : s.leaveCaches a = (List.range (a.lastBlock + 1)).foldl
    (fun s i => (s.leaveOwn a (a.pa / 64 * 64 + 64 * i)).leaveDie a (a.pa / 64 * 64 + 64 * i)) s := rfl

theorem State.leaveCaches_aside (s : State) (a : Access) (pa : Nat) : State.Aside a pa s (s.leaveCaches a) := by
  rw [State.leaveCaches_eq]
  refine .foldl (fun s i => State.Aside.trans (t := s.leaveOwn a (a.pa / 64 * 64 + 64 * i)) ?_ ?_) _ s
  · unfold State.leaveOwn
    split
    · exact s.dropL1_aside a _ pa ‹_›
    · exact .refl s
  · unfold State.leaveDie
    split
    · exact .refl _
    · exact State.dropRdc_aside ..

theorem State.dropL1_absent {s : State} {tile k : Nat} (h : Sparse.find? (s.tile tile).l1 k = none) :
    ∃ ts, s.dropL1 tile k = { s with tiles := ts } := by
  unfold State.dropL1 State.wbL1
  rw [h]
  exact ⟨_, rfl⟩

theorem State.dropRdc_absent {s : State} {die k : Nat} (h : Sparse.find? (s.die die).rdc k = none) :
    ∃ ds, s.dropRdc die k = { s with dies := ds } := by
  unfold State.dropRdc State.wbRdc
  rw [h]
  exact ⟨_, rfl⟩

/-- An access whose block its caches do not hold leaves them without a write-back. -/
theorem State.leaveCaches_absent {s : State} {a : Access} (hop : ∀ d s1 s2 w, a.op ≠ .csusp d s1 s2 w) (h : Spec.left s a 0) :
    ∃ ts ds, s.leaveCaches a = { s with tiles := ts, dies := ds } := by
  obtain ⟨hl, hr⟩ := h 0 (Nat.le_refl 0) _ (Or.inl rfl)
  have hown : ∃ ts, s.leaveOwn a (a.pa / 64 * 64 + 64 * 0) = { s with tiles := ts } := by
    unfold State.leaveOwn
    split
    · refine State.dropL1_absent ?_
      simpa [State.l1Of, ‹a.hasL1 = true›] using hl
    · exact ⟨_, rfl⟩
  have hn : a.lastBlock = 0 := by
    unfold Access.lastBlock
    split
    · rename_i e; exact absurd e (hop _ _ _ _)
    · rfl
  rw [State.leaveCaches_eq, hn]
  obtain ⟨ts, hown⟩ := hown
  have hdie : ∃ ds, ({ s with tiles := ts } : State).leaveDie a (a.pa / 64 * 64 + 64 * 0) = { s with tiles := ts, dies := ds } := by
    unfold State.leaveDie
    split
    · exact ⟨_, rfl⟩
    · exact State.dropRdc_absent hr
  obtain ⟨ds, hdie⟩ := hdie
  exact ⟨ts, ds, (congrArg (State.leaveDie · a _) hown).trans hdie⟩

-- ARRIVAL

/-- The state in which an access is performed at its home. -/
def State.arrived (s : State) (a : Access) : State := ((s.takeTurn a).leftCaches a).moved a.actor 1

/-- An access at its home whose turn it is is performed there. -/
theorem exec_homeAccess {s : State} {a : Access} (h : Spec.atHome s a) (hm : isMemory a.op = true)
    (ht : isAtomic a.op = true → Spec.turn s a) : exec (.homeAccess a.id) s = .next ((s.arrived a).homeLocal a) := by
  obtain ⟨hacc, -, hstage, hdev, hheld, -⟩ := h
  have hw : s.waitsTurn a = none := by
    unfold State.waitsTurn
    rw [if_neg (by simp [hheld])]
    refine if_neg fun hc => ?_
    rw [Bool.and_eq_true, beq_iff_eq] at hc
    exact ht hc.1 hc.2
  refine congrArg Host.Outcome.next ?_
  rw [hacc]
  dsimp only
  rw [if_neg (by simp [hstage]), hm, if_neg (by simp), if_neg (by simp [hdev]), hw]
  rfl

theorem State.takeTurn_eq (s : State) (a : Access) : ∃ ds, s.takeTurn a = { s with dies := ds } := by
  unfold State.takeTurn
  split <;> exact ⟨_, rfl⟩

theorem State.takeTurn_rdc (s : State) (a : Access) (d : Nat) : ((s.takeTurn a).die d).rdc = (s.die d).rdc := by
  unfold State.takeTurn
  split
  · rw [State.die_modDie]
    split
    · rename_i e; subst e; rfl
    · rfl
  · rfl

theorem State.takeTurn_left {s : State} {a : Access} {n : Nat} (h : Spec.left s a n) : Spec.left (s.takeTurn a) a n := by
  intro i hi k hk
  obtain ⟨ds, e⟩ := s.takeTurn_eq a
  have hd : (s.takeTurn a).dev = s.dev := by rw [e]; rfl
  have hl : (s.takeTurn a).l1Of a k = s.l1Of a k := by rw [e]; rfl
  rw [State.takeTurn_rdc, hl]
  rw [hd] at hk
  exact h i hi k hk

theorem State.leftCaches_or (s : State) (a : Access) : s.leftCaches a = s ∨ s.leftCaches a = s.leaveCaches a := by
  unfold State.leftCaches
  split <;> simp

/-- What is as it was when an access that left the caches arrives: all but the tiles, the dies and the counts. -/
theorem State.arrived_counts {s : State} {a : Access} (hop : ∀ d s1 s2 w, a.op ≠ .csusp d s1 s2 w) (h : Spec.left s a 0) :
    ∃ ts ds, ({ s with tiles := ts, dies := ds } : State).Counts (s.arrived a) := by
  obtain ⟨d0, e0⟩ := s.takeTurn_eq a
  rcases (s.takeTurn a).leftCaches_or a with e | e
  · exact ⟨s.tiles, d0, by unfold State.arrived; rw [e, e0]; exact State.moved_counts ..⟩
  · obtain ⟨ts, ds, e1⟩ := State.leaveCaches_absent hop (s.takeTurn_left h)
    exact ⟨ts, ds, by unfold State.arrived; rw [e, e1, e0]; exact State.moved_counts ..⟩

theorem State.moved_aside (s : State) (a : Access) (pa key n : Nat) : State.Aside a pa s (s.moved key n) :=
  .counts (State.moved_counts ..) (State.moved_work ..)

/-- Arriving is work of the caches, after the turn has been taken. -/
theorem State.arrived_aside (s : State) (a : Access) (pa : Nat) : State.Aside a pa (s.takeTurn a) (s.arrived a) := by
  refine State.Aside.trans (t := (s.takeTurn a).leftCaches a) ?_ (State.moved_aside ..)
  rcases (s.takeTurn a).leftCaches_or a with e | e <;> rw [e]
  · exact .refl _
  · exact State.leaveCaches_aside ..

-- WHAT AN OPERATION ON AN OBJECT LOOKS AT BESIDES ITS BLOCK

/-- What the operations at a home look at besides blocks is as it was: accesses, units, TLBs, the checks of a leaf, and which objects are
FLAGs of launch queues. -/
structure State.Alike (s t : State) : Prop where
  accs : t.accs = s.accs
  actors : t.actors = s.actors
  dev : t.dev = s.dev
  keyGen : t.mgmt.keyGen = s.mgmt.keyGen
  queues : t.mgmt.queues = s.mgmt.queues
  tlb : ∀ d, (t.die d).tlb = (s.die d).tlb
  key : ∀ c k, t.mayUseKey c k = s.mayUseKey c k
  wf : s.memWf → t.memWf

namespace State.Alike

theorem trans {s t u : State} (h : s.Alike t) (k : t.Alike u) : s.Alike u where
  accs := k.accs.trans h.accs
  actors := k.actors.trans h.actors
  dev := k.dev.trans h.dev
  keyGen := k.keyGen.trans h.keyGen
  queues := k.queues.trans h.queues
  tlb d := (k.tlb d).trans (h.tlb d)
  key c x := (k.key c x).trans (h.key c x)
  wf w := k.wf (h.wf w)

theorem work {s t : State} (h : s.CacheWork t) : s.Alike t where
  accs := h.accs
  actors := h.actors
  dev := h.dev
  keyGen := by have e := congrArg Mgmt.keyGen h.mgmt; exact e
  queues := by have e := congrArg Mgmt.queues h.mgmt; exact e
  tlb d := by have e := congrArg Die.tlb (h.die d); exact e
  key c k := by
    have e := h.ctx c
    unfold State.mayUseKey
    cases h1 : t.ctx? c <;> cases h2 : s.ctx? c <;> simp only [h1, h2, Option.map_some, Option.map_none, Option.some.injEq,
      reduceCtorEq] at e ⊢
    rename_i x y
    have ek : x.key = y.key := by have e := congrArg Ctx.key e; exact e
    have ec : x.conf = y.conf := by have e := congrArg Ctx.conf e; exact e
    rw [ek, ec]
  wf := h.wf

theorem takeTurn (s : State) (a : Access) : s.Alike (s.takeTurn a) := by
  have ht (d : Nat) : ((s.takeTurn a).die d).tlb = (s.die d).tlb := by
    unfold State.takeTurn
    split
    · rw [State.die_modDie]
      split
      · rename_i e; subst e; rfl
      · rfl
    · rfl
  obtain ⟨ds, e⟩ := s.takeTurn_eq a
  rw [e] at ht ⊢
  exact ⟨rfl, rfl, rfl, rfl, rfl, ht, fun _ _ => rfl, id⟩

theorem reads {s t : State} (h : s.Reads t) : s.Alike t := by
  obtain ⟨⟨_, _, _, rfl⟩, -⟩ := h
  exact ⟨rfl, rfl, rfl, rfl, rfl, fun _ => rfl, fun _ _ => rfl, id⟩

theorem leafCheck {s t : State} (h : s.Alike t) (c : Nat) (l : Leaf) (va : Word) (p : Perm) :
    t.leafCheck c l va p = s.leafCheck c l va p := by
  unfold State.leafCheck
  rw [h.dev, h.key]

theorem launchObj {s t : State} (h : s.Alike t) (pa : Nat) : t.launchObj pa = s.launchObj pa := by
  unfold State.launchObj
  rw [h.queues]

theorem acc? {s t : State} (h : s.Alike t) (id : Nat) : t.acc? id = s.acc? id := State.acc?_congr h.accs id

end State.Alike

/-- What holds of a block when an access that has left the caches arrives at its home. -/
structure State.Ready (s u : State) (a : Access) : Prop where
  alike : s.Alike u
  mem : u.mem = s.mem
  keeps : ∀ pa, s.KeepsBlock u pa
  lacks : u.Lacks a (paOf a.pa)

theorem State.arrived_ready {s : State} {a : Access} (hop : ∀ d s1 s2 w, a.op ≠ .csusp d s1 s2 w) (h : Spec.left s a 0) (hw : s.memWf) :
    s.Ready (s.arrived a) a := by
  obtain ⟨ts, ds, hc⟩ := State.arrived_counts hop h
  have ha := State.arrived_aside s a (paOf a.pa)
  exact ⟨(State.Alike.takeTurn s a).trans (.work ha.1), hc.mem,
    fun pa => State.KeepsBlock.trans (t := { s with tiles := ts, dies := ds }) (.ofMem _ rfl rfl rfl rfl rfl) (.counts hc pa),
    (ha.2 ((State.Alike.takeTurn s a).wf hw) (State.lacks_of_left (State.takeTurn_left h))).2⟩

/-- A block that could be read still can when an access arrives. -/
theorem State.Ready.readable {s u : State} {a : Access} {key pa : Nat} (h : s.Ready u a) (r : Spec.readableAt s key pa) :
    Spec.readableAt u key pa := (h.keeps pa).readable h.alike.keyGen r

end Sys2Proof.Machine
end

section
/-! SUPPORT. Addresses that are not canonical. -/

namespace Sys2Proof.Machine

theorem noncanonical_div {n : Nat} (h : 2 ^ 52 ≤ n) : n / 2 ^ 52 ≠ 0 :=
  Nat.ne_of_gt (Nat.div_pos h (Nat.two_pow_pos 52))

theorem vaDetail_zero (va : Word) : vaDetail va 0 = va.toNat % 2 ^ 52 := by simp [vaDetail]

/-- An access of memory at such an address fails before any TLB is looked at. -/
theorem State.startAcc_noncanonical {s : State} {a : Access} (hm : isMemory a.op = true) (hf : a.failed = false)
    (hv : 2 ^ 52 ≤ a.va.toNat) : s.startAcc a = s.failAcc a .translation Cause.noncanonical (a.va.toNat % 2 ^ 52) := by
  unfold State.startAcc State.translateAcc
  rw [if_neg (by simp [hf]), if_pos hm, if_pos (noncanonical_div hv), vaDetail_zero]

theorem State.walk_noncanonical (s : State) (die ctx : Nat) {va : Word} (hv : 2 ^ 52 ≤ va.toNat) :
    s.walk die ctx va = (s, .fail .translation Cause.noncanonical (va.toNat % 2 ^ 52)) := by
  unfold State.walk
  rw [if_pos (noncanonical_div hv), vaDetail_zero]

theorem State.translate_noncanonical (s : State) (die ctx : Nat) {va : Word} (p : Perm) (hv : 2 ^ 52 ≤ va.toNat) :
    s.translate die ctx va p = (s, .fail .translation Cause.noncanonical (va.toNat % 2 ^ 52)) := by
  have hd := noncanonical_div hv
  unfold State.translate
  rw [if_pos hd, if_neg fun h => hd h.2, s.walk_noncanonical die ctx hv]

end Sys2Proof.Machine
end

section
open Sys2Proof Sys2Proof.Machine Sys2Proof.Spec

/-- Settles O57: both the start of an access and a walk look at bits 63:52 before they look at a TLB or a table. -/
theorem noncanonicalAddress : Obligations.NoncanonicalAddress := by
  refine ⟨fun s a ha hm hf hv => ?_, fun s die ctx va p hv =>
    ⟨s.translate_noncanonical die ctx p hv, s.walk_noncanonical die ctx hv⟩⟩
  rw [State.startAcc_noncanonical hm hf hv]
  refine ⟨State.failAcc_refused _ _ _ ha, ?_⟩
  simp [State.failAcc]

end

section
/-! SUPPORT. A state whose map of graphs lists a key twice, on which GRAPH_END with the end of its context is evaluated. -/

namespace Sys2Proof.Machine

/-- A graph of a context, without lines, that has not ended. -/
def graphOf (ctx : Nat) : Graph := ⟨ctx, 0, 0, [], 0, false, 0, false⟩

/-- A context that is being torn down and has nothing left. -/
def leavingCtx : Ctx where
  root := 0
  key := 0
  conf := false
  supv := 0
  ctrl := 0
  ringBase := 0
  ringLog2 := 0
  binds := []
  cbs := []
  evalIssue := 0
  evalBytes := 0
  copyBytes := 0
  watch := []
  chans := []
  status := 6
  tearing := true
  frozenEval := []
  frozenCopy := []
  evalIssued := []
  evalMoved := []
  copyMoved := []
  codeHash := 0
  sealN := 0
  beats := 0
  sunk := 0

/-- Graph 0 is listed for context 1, which is leaving, and again for context 2. -/
def twoGraphs : State := { State.reset with graphs := [(0, graphOf 1), (0, graphOf 2)], ctxs := [(1, leavingCtx)] }

/-- What GRAPH_END leaves of the graphs: context 1 takes its entry with it, and the other one comes to be found. -/
theorem twoGraphs_end : ∃ t, exec (.graphEnd 0) twoGraphs = .next t ∧ Sparse.find? t.graphs 0 = some (graphOf 2) := ⟨_, rfl, rfl⟩

end Sys2Proof.Machine
end

section
open Sys2Proof Sys2Proof.Machine Sys2Proof.Spec

/-- Refutes O49: its clause on GRAPH_END claims that whatever is found under the graph's key afterwards has ended. The graph's
context may end with it and take the entry away, and then a second entry of that key, which has not ended, comes to be found. No
operation of the model makes a map that lists a key twice; the clause lacks the hypothesis that the map of graphs is `Sparse.ordered`. -/
theorem not_lineEvents : ¬ Obligations.LineEvents := by
  intro h
  obtain ⟨-, -, -, -, hgraph, -⟩ := h
  obtain ⟨-, hend⟩ := hgraph twoGraphs 0 (graphOf 1) rfl
  obtain ⟨t, ht, -, -, hy⟩ := hend rfl (fun _ hk => by simp [graphOf] at hk)
  obtain ⟨u, hu, hf⟩ := twoGraphs_end
  obtain rfl : u = t := Host.Outcome.next.inj (hu.symm.trans ht)
  exact absurd (hy _ hf).1 (by decide)

end

section
/-! SUPPORT. A state with an L1 that lists a line twice, on which an invalidation is evaluated. -/

namespace Sys2Proof.Machine

/-- A line of a context, with a byte 1 at its lowest place, dirty or not. -/
def oneLine (ctx : Nat) (dirty : BitVec 64) : CLine := ⟨1, BitVec.allOnes 64, dirty, Pair.raw, false, 0, ctx, false, 0⟩

/-- The L1 of tile 0 lists line 0 as a dirty one of context 2 and again as a clean one of context 1. -/
def twoLines : State := { State.reset with tiles := [(0, { Tile.reset with l1 := [(0, oneLine 2 1), (0, oneLine 1 0)] })] }

/-- An invalidation of context 1 writes the dirty line of context 2 back, under the key of the clean one. -/
theorem twoLines_invalidate : (twoLines.invalidateCtx 1).mem ≠ twoLines.mem := by decide +kernel

theorem twoLines_l1 {k b : Nat} {l : CLine} (h : Sparse.find? (twoLines.tile k).l1 b = some l) : l = oneLine 2 1 := by
  have hk : k = 0 := by
    by_contra hk
    have : twoLines.tile k = Tile.reset := by simp [State.tile, twoLines, Sparse.get, Ne.symm hk]
    simp [this, Tile.reset, Sparse.find?] at h
  obtain rfl := hk
  have hl : (twoLines.tile 0).l1 = [(0, oneLine 2 1), (0, oneLine 1 0)] := rfl
  rw [hl] at h
  by_cases hb : b = 0
  · subst hb
    exact (Option.some.inj h).symm
  · simp [Sparse.find?, Ne.symm hb] at h

theorem twoLines_rdc (d b : Nat) : Sparse.find? (twoLines.die d).rdc b = none := rfl

end Sys2Proof.Machine
end

section
open Sys2Proof Sys2Proof.Machine Sys2Proof.Spec

/-- Refutes O53: its clause on a context's invalidation claims that memory stays where no line that is found for the context is dirty.
A line that is written back is chosen by the entries of the L1 and read by its key: where a key is listed twice, a clean entry of the
context has a dirty entry of another context written back. No operation of the model makes a map that lists a key twice; this part of
the clause lacks the hypothesis, which its next part has, that the maps are `Sparse.ordered`. -/
theorem not_memoryEvents : ¬ Obligations.MemoryEvents := by
  intro h
  obtain ⟨-, -, -, -, -, -, -, -, -, -, -, -, -, -, -, hinv⟩ := h
  obtain ⟨t, ht, -, hmem, -⟩ := hinv twoLines 1
  obtain rfl : twoLines.invalidateCtx 1 = t := Host.Outcome.next.inj ht
  refine twoLines_invalidate (hmem (fun k b l hl hc => ?_) fun d b l hl => ?_)
  · obtain rfl := twoLines_l1 hl
    exact absurd hc (by decide)
  · rw [twoLines_rdc] at hl
    exact absurd hl (by simp)

end

section
/-! SUPPORT. The same L1, on which the host's invalidation of a context is evaluated. -/

namespace Sys2Proof.Machine

/-- The registers of INV_CMD name a range of one page (R426). -/
def twoLinesInv : State := { twoLines with mgmt := { twoLines.mgmt with inv2 := 2 ^ 16 } }

/-- INV_CMD of KIND 2 for context 1 writes the dirty line of context 2 back. -/
theorem twoLinesInv_start : (twoLinesInv.startInv 0x102).mem ≠ twoLinesInv.mem := by decide +kernel

end Sys2Proof.Machine
end

section
open Sys2Proof Sys2Proof.Machine Sys2Proof.Spec

/-- Refutes O56: its clause on INV_CMD claims, as O53 does of the invalidation that the commands share, that memory stays where no line
that is found for the context is dirty; an L1 that lists a key twice has another context's line written back. No operation of the model
makes such a map; this part of the clause lacks the hypothesis, which its next part has, that the maps are `Sparse.ordered`. -/
theorem not_managementCommands : ¬ Obligations.ManagementCommands := by
  intro h
  obtain ⟨-, hinv, -⟩ := h
  obtain ⟨-, hgo⟩ := hinv twoLinesInv 0x102 (.invContext 0x102) 2 (Or.inr (Or.inl ⟨rfl, rfl⟩))
  obtain ⟨t, ht, hmem, -⟩ := hgo (by decide) (by decide)
  obtain rfl : twoLinesInv.startInv 0x102 = t := Host.Outcome.next.inj ht
  refine twoLinesInv_start (hmem (fun k b l hl hc => ?_) fun d b l hl => ?_)
  · obtain rfl := twoLines_l1 hl
    exact absurd hc (by decide)
  · have hn : Sparse.find? (twoLinesInv.die d).rdc b = none := rfl
    rw [hn] at hl
    exact absurd hl (by simp)

end

section
/-! SUPPORT. The host window: what maps, what is counted, and the registers read after a write. -/

namespace Sys2Proof.Machine

theorem hostShape_iff (off n : Nat) : hostShape off n = true ↔ 8 ≤ n ∧ n ≤ 64 ∧ off % 64 + n ≤ 64 := by
  simp [hostShape, and_assoc]

theorem windowPa_memory {off : Nat} (h : 2 ^ 46 ≤ off ∧ off < 2 ^ 47) : windowPa off = some (off - 2 ^ 46) := if_pos h
theorem windowPa_none {off : Nat} (h : ¬ (2 ^ 46 ≤ off ∧ off < 2 ^ 47)) : windowPa off = none := if_neg h

theorem State.hostWindowRead_stray {s : State} {off n : Nat}
    (h : ¬ (8 ≤ n ∧ n ≤ 64 ∧ off % 64 + n ≤ 64) ∨ (¬ (2 ^ 46 ≤ off ∧ off < 2 ^ 47) ∧ 2 ^ 32 ≤ off) ∨
      ((2 ^ 46 ≤ off ∧ off < 2 ^ 47) ∧ unbacked (off - 2 ^ 46) = true)) :
    exec (.hostWindowRead off n) s = .next (s.strayRead n) := by
  refine congrArg Host.Outcome.next ?_
  split
  · rfl
  · rename_i hs
    rcases h with h | ⟨hm, hb⟩ | ⟨hm, hu⟩
    · exact absurd ((hostShape_iff off n).mp (by simpa using hs)) h
    · rw [windowPa_none hm]
      exact if_pos (Or.inl hb)
    · rw [windowPa_memory hm]
      exact if_pos hu

theorem State.hostWindowWrite_stray {s : State} {off n : Nat} (data : Blk)
    (h : ¬ (8 ≤ n ∧ n ≤ 64 ∧ off % 64 + n ≤ 64) ∨ (¬ (2 ^ 46 ≤ off ∧ off < 2 ^ 47) ∧ 2 ^ 32 ≤ off) ∨
      ((2 ^ 46 ≤ off ∧ off < 2 ^ 47) ∧ unbacked (off - 2 ^ 46) = true)) :
    exec (.hostWindowWrite off n data) s = .next s.strayed := by
  refine congrArg Host.Outcome.next ?_
  split
  · rfl
  · rename_i hs
    rcases h with h | ⟨hm, hb⟩ | ⟨hm, hu⟩
    · exact absurd ((hostShape_iff off n).mp (by simpa using hs)) h
    · rw [windowPa_none hm]
      exact if_pos (Or.inl hb)
    · rw [windowPa_memory hm]
      exact if_pos (Or.inl hu)

theorem execHostWindowRead_memory {s : State} {off n pa : Nat} (h : hostShape off n = true) (hm : windowPa off = some pa) :
    execHostWindowRead off n s = .next (s.hostRead pa n) := by
  unfold execHostWindowRead
  rw [h, hm]
  rfl

theorem execHostWindowWrite_memory {s : State} {off n pa : Nat} (data : Blk) (h : hostShape off n = true)
    (hm : windowPa off = some pa) : execHostWindowWrite off n data s = .next (s.hostWrite pa n data) := by
  unfold execHostWindowWrite
  rw [h, hm]
  rfl

/-- A write of 8 bytes below the memory's part of the window is one of a register. -/
theorem execHostWindowWrite_reg {s : State} {off : Nat} (data : Blk) (hb : off < 2 ^ 32) (hf : off % 64 + 8 ≤ 64) :
    execHostWindowWrite off 8 data s = .next (s.writeReg off (data.setWidth 64)) := by
  have hn : ¬ (2 ^ 32 ≤ off ∨ 8 ≠ 8) := fun h => h.elim (Nat.not_le_of_lt hb) fun e => e rfl
  unfold execHostWindowWrite
  rw [(hostShape_iff off 8).mpr ⟨by omega, by omega, hf⟩, windowPa_none (by omega)]
  exact congrArg Host.Outcome.next (if_neg hn)

/-- A read of a block without an error gives its bytes and moves one block. -/
theorem State.hostRead_intact {s : State} {pa n : Nat} (hu : unbacked pa = false) (hi : Spec.intact s pa)
    (ht : (s.side pa).tag.toNat < 6) : ∃ t u, s.Reads t ∧ s.hostRead pa n = u ∧
      (t.drew.complete ((s.peek 0 pa).data.toNat / 2 ^ (8 * (pa % 64))) n).Counts u := by
  obtain ⟨t, hr, ho⟩ := State.readAt_intact s .homeOnly 0 pa hi ht
  refine ⟨t, _, ho, rfl, ?_⟩
  unfold State.hostRead State.readHome
  rw [if_neg (by simp [hu]), hr]
  exact State.hostMoved_counts ..

/-- A write of memory is refused by the tag alone. -/
theorem State.hostWrite_tag {s : State} {pa n : Nat} (x : Blk) (ht : (s.side pa).tag ≠ 0 ∧ (s.side pa).tag ≠ 3) :
    s.hostWrite pa n x = s.strayed := by
  have hn : ¬ ((s.side pa).tag = tagPlain ∨ (s.side pa).tag = tagPoisoned) := fun h => h.elim ht.1 ht.2
  unfold State.hostWrite
  exact if_pos (Or.inr (by rw [decide_eq_false hn]; rfl))

/-- What a write of `n` bytes leaves in a block. -/
def hostWritten (s : State) (pa n : Nat) (x : Blk) : Block :=
  if n = 64 then ⟨x, Side.plain⟩
  else ⟨mergeBytes (s.peek 0 pa).data (x <<< (8 * (pa % 64))) (maskAt (pa % 64) n), s.side pa⟩

/-- A write of a whole block or of some of its bytes, of a block that is PLAIN or POISONED, stores one block and moves one. -/
theorem State.hostWrite_intact {s : State} {pa n : Nat} (x : Blk) (hu : unbacked pa = false) (hi : Spec.intact s pa)
    (ht : (s.side pa).tag = 0 ∨ (s.side pa).tag = 3) :
    ∃ t, s.Reads t ∧ (t.putAt .homeOnly 0 pa (hostWritten s pa n x)).Counts (s.hostWrite pa n x) := by
  have hg : ¬ (unbacked pa = true ∨ (!(decide ((s.side pa).tag = tagPlain ∨ (s.side pa).tag = tagPoisoned))) = true) := by
    rw [hu, decide_eq_true (p := (s.side pa).tag = tagPlain ∨ (s.side pa).tag = tagPoisoned) ht]
    decide
  unfold hostWritten
  by_cases hn : n = 64
  · refine ⟨s, .refl s, ?_⟩
    unfold State.hostWrite State.putBlock
    rw [if_neg hg, if_pos hn, if_pos hn]
    exact State.hostMoved_counts ..
  · have ht6 : (s.side pa).tag.toNat < 6 := by rcases ht with ht | ht <;> rw [ht] <;> decide
    obtain ⟨t, hr, ho⟩ := State.readAt_intact s .homeOnly 0 pa hi ht6
    refine ⟨t, ho, ?_⟩
    unfold State.hostWrite State.mergeHome
    rw [if_neg hg, if_neg hn, if_neg hn, hr]
    exact State.hostMoved_counts ..

/-- A read of memory that finds no error and no reserved tag. -/
theorem hostWindowRead_intact {s : State} {off n pa : Nat} (hs : hostShape off n = true) (hp : windowPa off = some pa)
    (hu : unbacked pa = false) (hi : Spec.intact s pa) (ht : (s.side pa).tag.toNat < 6) :
    ∃ t, exec (.hostWindowRead off n) s = .next t ∧ t.mem = s.mem ∧ t.sides = s.sides ∧
      t.mgmt.completion = BitVec.ofNat 512 ((s.peek 0 pa).data.toNat / 2 ^ (8 * (pa % 64)) % 2 ^ (8 * n)) ∧
      t.mgmt.stray = s.mgmt.stray := by
  obtain ⟨t, u, hr, he, hc⟩ := State.hostRead_intact (n := n) hu hi ht
  have hst : t.mgmt.stray = s.mgmt.stray := by rw [hr.mgmt]
  exact ⟨u, (execHostWindowRead_memory hs hp).trans (by rw [he]), hc.mem.trans hr.mem, hc.sides.trans hr.sides,
    hc.completion, hc.stray.trans hst⟩

/-- A write of memory that may be made. -/
theorem hostWindowWrite_intact {s : State} {off n pa : Nat} (data : Blk) (hs : hostShape off n = true) (hp : windowPa off = some pa)
    (hu : unbacked pa = false) (ht : (s.side pa).tag = 0 ∨ (s.side pa).tag = 3) (hw : s.memWf) (hi : Spec.intact s pa) :
    ∃ t, exec (.hostWindowWrite off n data) s = .next t ∧ t.mgmt.stray = s.mgmt.stray ∧ t.Holds pa (hostWritten s pa n data) ∧
      ∀ x, x / 64 ≠ pa / 64 → Memory.get t.mem x = Memory.get s.mem x := by
  obtain ⟨t, hr, hc⟩ := State.hostWrite_intact (n := n) data hu hi ht
  refine ⟨_, execHostWindowWrite_memory data hs hp, ?_,
    (State.KeepsBlock.counts hc pa).holds (State.putAt_holds t .homeOnly 0 _ _ (hr.memWf hw)), fun x hx => ?_⟩
  · rw [hc.stray, State.putAt, State.l2Touch_mgmt, State.storeMem_mgmt, hr.mgmt]
  · rw [hc.mem, State.putAt_get _ _ _ _ _ _ (hr.memWf hw) hx, hr.mem]

-- REGISTERS

/-- The timers of requests go onto the agenda, and nothing else changes. -/
theorem State.rearm_eq (s : State) : ∃ g, s.rearm = { s with agenda := g } := by
  unfold State.rearm
  generalize s.accs.filter s.timed = xs
  induction xs generalizing s with
  | nil => exact ⟨_, rfl⟩
  | cons a xs ih =>
    obtain ⟨g, h⟩ := ih (s.now (.remoteTimeout a.id))
    exact ⟨g, h⟩

theorem timeoutOk_iff (v : Word) : timeoutOk v = true ↔ 1 ≤ v.toNat ∧ v.toNat ≤ 2 ^ 40 := by simp [timeoutOk]

/-- What registers hold that are read as they stand. -/
theorem State.readReg_held (s : State) : s.readReg 0x100 = some s.mgmt.devnum ∧ s.readReg 0x200 = some s.mgmt.ringTimeout ∧
    s.readReg 0x208 = some s.mgmt.linkTimeout ∧ s.readReg 0x2008 = some s.mgmt.inv1 ∧ s.readReg 0x2010 = some s.mgmt.inv2 ∧
    s.readReg 0x3008 = some s.mgmt.pre1 ∧ s.readReg 0x3208 = some s.mgmt.hs1 ∧ s.readReg 0x3210 = some s.mgmt.hs2 ∧
    s.readReg 0x3218 = some s.mgmt.hs3 := ⟨rfl, rfl, rfl, rfl, rfl, rfl, rfl, rfl, rfl⟩

/-- The data registers of the commands, which a write of theirs sets and nothing else. -/
theorem State.writeReg_data {s : State} {off : Nat} (v : Word) (h : off ∈ [0x2008, 0x2010, 0x3008, 0x3208, 0x3210, 0x3218])
    (hp : off = 0x3008 → s.mgmt.pre0.getLsbD 63 = false) :
    (s.writeReg off v).readReg off = some v ∧ s.writeReg off v = { s with mgmt := (s.writeReg off v).mgmt } ∧
      ∀ o ∈ [0x100, 0x200, 0x208, 0x2008, 0x2010, 0x3008, 0x3208, 0x3210, 0x3218], o ≠ off →
        (s.writeReg off v).readReg o = s.readReg o := by
  have hw (m : Mgmt) : s.writeReg off v = { s with mgmt := m } →
      s.writeReg off v = { s with mgmt := (s.writeReg off v).mgmt } := fun e => by rw [e]
  simp only [List.mem_cons, List.not_mem_nil, or_false] at h
  rcases h with rfl | rfl | rfl | rfl | rfl | rfl
  · exact ⟨rfl, hw { s.mgmt with inv1 := v } rfl, by simp [State.readReg_held]; simp [State.writeReg, State.modMgmt]⟩
  · exact ⟨rfl, hw { s.mgmt with inv2 := v } rfl, by simp [State.readReg_held]; simp [State.writeReg, State.modMgmt]⟩
  · have hb : ¬ s.mgmt.pre0.getLsbD 63 = true := by rw [hp rfl]; decide
    have e0 : s.writeReg 0x3008 v = if s.mgmt.pre0.getLsbD 63 then s else s.modMgmt fun m => { m with pre1 := v } := rfl
    have e : s.writeReg 0x3008 v = { s with mgmt := { s.mgmt with pre1 := v } } := e0.trans (if_neg hb)
    exact ⟨by rw [e]; rfl, hw _ e, by rw [e]; simp [State.readReg]⟩
  · exact ⟨rfl, hw { s.mgmt with hs1 := v } rfl, by simp [State.readReg_held]; simp [State.writeReg, State.modMgmt]⟩
  · exact ⟨rfl, hw { s.mgmt with hs2 := v } rfl, by simp [State.readReg_held]; simp [State.writeReg, State.modMgmt]⟩
  · exact ⟨rfl, hw { s.mgmt with hs3 := v } rfl, by simp [State.readReg_held]; simp [State.writeReg, State.modMgmt]⟩

/-- A timeout in its range is set, and the timers follow; another value is counted. -/
theorem State.writeReg_timeout {s : State} {off : Nat} (v : Word) (h : off = 0x200 ∨ off = 0x208) :
    (1 ≤ v.toNat ∧ v.toNat ≤ 2 ^ 40 → ∃ t, s.writeReg off v = t ∧ t.readReg off = some v ∧
      t = { s with mgmt := t.mgmt, agenda := t.agenda }) ∧
    (v = 0 ∨ 2 ^ 40 < v.toNat → s.writeReg off v = s.strayed) := by
  have hbad : v = 0 ∨ 2 ^ 40 < v.toNat → ¬ timeoutOk v = true := by
    rw [timeoutOk_iff]
    rintro (rfl | h) ⟨h1, h2⟩
    · simp at h1
    · omega
  rcases h with rfl | rfl
  · refine ⟨fun hv => ?_, fun hv => if_neg (hbad hv)⟩
    obtain ⟨g, hg⟩ := State.rearm_eq (s.modMgmt fun m => { m with ringTimeout := v })
    have e : s.writeReg 0x200 v = _ := (if_pos ((timeoutOk_iff v).mpr hv)).trans hg
    exact ⟨_, e, rfl, rfl⟩
  · refine ⟨fun hv => ?_, fun hv => if_neg (hbad hv)⟩
    obtain ⟨g, hg⟩ := State.rearm_eq (s.modMgmt fun m => { m with linkTimeout := v })
    have e : s.writeReg 0x208 v = _ := (if_pos ((timeoutOk_iff v).mpr hv)).trans hg
    exact ⟨_, e, rfl, rfl⟩

/-- The bits of DEVNUM that are kept. -/
theorem devnum_bits (v : Word) : BitVec.ofNat 64 (v.toNat % 2 ^ 14) = v &&& 0x3FFF := by
  refine BitVec.eq_of_toNat_eq ?_
  have hm : v.toNat &&& (2 ^ 14 - 1) = v.toNat % 2 ^ 14 := Nat.and_two_pow_sub_one_eq_mod ..
  have ha : (v &&& 0x3FFF).toNat = v.toNat &&& (2 ^ 14 - 1) := BitVec.toNat_and ..
  rw [BitVec.toNat_ofNat, ha, hm]
  omega

theorem State.anyCtx_iff (s : State) : s.anyCtx = true ↔ s.ctxs ≠ [] := by simp [State.anyCtx]

/-- A pool's size, before any context is. -/
theorem State.writeReg_pool {s : State} {die : Nat} (v : Word) (hd : die < 4) :
    s.writeReg (0x300 + 8 * die) v = s.writePool die v := by
  have h : die = 0 ∨ die = 1 ∨ die = 2 ∨ die = 3 := by omega
  rcases h with rfl | rfl | rfl | rfl <;> rfl

theorem State.readReg_pool {s : State} {die : Nat} (hd : die < 4) :
    s.readReg (0x300 + 8 * die) = some (BitVec.ofNat 64 (s.die die).poolSize) := by
  have h : die = 0 ∨ die = 1 ∨ die = 2 ∨ die = 3 := by omega
  rcases h with rfl | rfl | rfl | rfl <;> rfl

theorem State.writeReg_feature {s : State} {off : Nat} (v : Word) (h : off < 0x30) (h8 : off % 8 = 0) : s.writeReg off v = s := by
  have hr : s.readReg off = some (s.feature 0 0 (off / 8)) := by
    unfold State.readReg
    rw [if_neg (by omega), if_pos h]
  unfold State.writeReg
  repeat rw [if_neg (by omega)]
  rw [hr]

end Sys2Proof.Machine
end

section
open Sys2Proof Sys2Proof.Machine Sys2Proof.Spec

/-- Settles O55, clause by clause: the shape and the map of an access, a block at its home, and the registers. -/
theorem hostWindow : Obligations.HostWindow := by
  refine ⟨fun s off n data => ⟨fun h => ?_, fun hs hm hu hi ht => ?_, fun hs hm hu => ⟨fun ht => ?_, fun ht hw hi => ?_⟩⟩,
    fun s off => ⟨rfl, _, rfl, ?_, rfl, rfl⟩,
    fun s off v => ⟨fun d hb hf => ?_, fun h => congrArg Host.Outcome.next (if_pos h),
      fun h h8 => congrArg Host.Outcome.next (State.writeReg_feature v h h8), fun h => by subst h; rfl, fun h hp => ?_,
      fun h hp => ⟨_, rfl, State.writeReg_data v h hp⟩, fun h => ⟨fun hv => ?_, fun hv => ?_⟩, fun die hd h => ?_⟩,
    fun s v => ⟨fun h => ?_, fun h => ?_⟩⟩
  · exact ⟨⟨_, State.hostWindowRead_stray h, ⟨rfl, rfl⟩, rfl⟩, State.hostWindowWrite_stray data h⟩
  · exact hostWindowRead_intact ((hostShape_iff off n).mpr hs) (windowPa_memory hm) hu hi ht
  · exact (execHostWindowWrite_memory data ((hostShape_iff off n).mpr hs) (windowPa_memory hm)).trans (by
      rw [State.hostWrite_tag data ht]; rfl)
  · obtain ⟨t, he, hst, hh, hx⟩ :=
      hostWindowWrite_intact data ((hostShape_iff off n).mpr hs) (windowPa_memory hm) hu ht hw hi
    refine ⟨t, he, hst, fun hn => ?_, fun hn => ?_, hx⟩
    · rw [hostWritten, if_pos hn] at hh
      exact ⟨hh.stored, hh.side⟩
    · rw [hostWritten, if_neg (by omega)] at hh
      exact ⟨hh.side, hh.stored⟩
  · show BitVec.ofNat 512 ((2 ^ 512 - 1) % 2 ^ (8 * 64)) = BitVec.allOnes 512
    decide +kernel
  · exact execHostWindowWrite_reg d hb hf
  · subst h
    exact congrArg Host.Outcome.next (if_pos hp)
  · obtain ⟨t, ht, h1, h2⟩ := (State.writeReg_timeout v h).1 hv
    exact ⟨t, congrArg Host.Outcome.next ht, h1, h2⟩
  · exact congrArg Host.Outcome.next ((State.writeReg_timeout v h).2 hv)
  · subst h
    refine ⟨fun hc hv => ⟨_, rfl, ?_⟩, fun hv => congrArg Host.Outcome.next ?_⟩
    · have hn : ¬ (s.anyCtx = true ∨ 32 < v.toNat) := by rw [State.anyCtx_iff]; simp [hc, hv]
      rw [State.writeReg_pool v hd, State.readReg_pool hd, State.writePool, if_neg hn, State.die_modDie, if_pos rfl]
      exact ⟨rfl, by simp⟩
    · rw [State.writeReg_pool v hd, State.writePool, if_pos (by rwa [State.anyCtx_iff])]
      rfl
  · exact congrArg Host.Outcome.next (if_pos ((State.anyCtx_iff s).mpr h))
  · have hn : ¬ s.anyCtx = true := by rw [State.anyCtx_iff]; simp [h]
    have e : s.writeDevnum v = _ := if_neg hn
    refine ⟨_, congrArg Host.Outcome.next e, ?_, ?_, rfl⟩
    · show some (BitVec.ofNat 64 (v.toNat % 2 ^ 14)) = some (v &&& 0x3FFF)
      rw [devnum_bits]
    · show (BitVec.ofNat 64 (v.toNat % 2 ^ 14)).toNat % 2 ^ 14 = v.toNat % 2 ^ 14
      rw [BitVec.toNat_ofNat]
      omega

end

section
/-! SUPPORT. A value read at home: what it finds by the tag, what it answers, and the line that it brings into the caches. -/

namespace Sys2Proof.Machine
open Sys2Proof.Spec

-- WRAPPED NUMBERS

/-- A number below half of the range reads back from a word as it is, with either sign. -/
theorem toInt_ofInt_small {x : Int} (h1 : -2 ^ 63 ≤ x) (h2 : x < 2 ^ 63) : (BitVec.ofInt 64 x).toInt = x :=
  BitVec.toInt_ofInt_eq_self (by decide) h1 h2

theorem IntTy.width_cases (ty : IntTy) : ty.width = 8 ∨ ty.width = 16 ∨ ty.width = 32 ∨ ty.width = 64 := by
  cases ty <;> decide

/-- A wrapped number is a register that holds it wrapped (R238). -/
theorem IntTy.wrapped (ty : IntTy) (x : Int) : Wrapped ty (ty.wrap x) x := by
  have hw := IntTy.width_cases ty
  unfold Wrapped regInt IntTy.wrap IntTy.lo IntTy.hi
  generalize ty.width = w at hw
  have hlt : ∀ v : Nat, v < 2 ^ 64 → (BitVec.ofNat 64 v).toNat = v := fun v hv => by
    rw [BitVec.toNat_ofNat, Nat.mod_eq_of_lt hv]
  have hnat : ∀ v : Nat, v < 2 ^ 63 → (BitVec.ofNat 64 v).toInt = v := fun v hv => by
    rw [← BitVec.ofInt_natCast, toInt_ofInt_small] <;> omega
  cases ty.signed with
  | false =>
    rcases hw with rfl | rfl | rfl | rfl <;> dsimp only <;> simp only [Bool.false_eq_true, if_false, false_and] <;>
      rw [hlt _ (by omega)] <;> omega
  | true =>
    rcases hw with rfl | rfl | rfl | rfl <;> dsimp only <;> simp only [if_true, true_and] <;> split <;>
      first | (rw [toInt_ofInt_small] <;> omega) | (rw [hnat _ (by omega)]; omega)

-- VALUE READS

/-- The check of a read at a cell: the leaf permits cells, and no other context's is confidential (R109). -/
def Access.mayRead (s : State) (a : Access) (head : Nat) : Prop := ∃ l, a.leaf = some l ∧ l.cells = true ∧
  (a.ctx = Blk.fld (s.stored head) 208 8 ∨ (s.isConf a.ctx = false ∧ s.isConf (Blk.fld (s.stored head) 208 8) = false))

theorem State.cellCheck_iff (s : State) (a : Access) (head : Nat) : s.cellCheck a.ctx a.leaf head = true ↔ a.mayRead s head := by
  unfold State.cellCheck Access.mayRead State.hCtx State.headFld
  cases a.leaf <;> simp

/-- The token of a refusal of a read. -/
def Access.noRead (a : Access) (cause : BitVec 8) : ReadRes := .token .permission cause (vaDetail a.va 0)

/-- Whether the leaf of an access permits cells. -/
def Access.leafCells (a : Access) : Bool := match a.leaf with | some l => l.cells | none => false

/-- What a read of a block `b` makes of a head, which is the block itself where that is no link. -/
def State.byTag (s : State) (a : Access) (b : Block) (head : Nat) (h : Block) : State × ReadRes :=
  if h.side.tag = tagPlain then (s, .block b)
  else if h.side.tag = tagPoisoned then (s, .token .cellPoisoned 0 (poisonDetail h.data))
  else if h.side.tag = tagSuspended then (s, if s.cellCheck a.ctx a.leaf head then .touch else a.noRead Cause.cells)
  else if h.side.tag = tagEvaluating then
    if !s.cellCheck a.ctx a.leaf head then (s, a.noRead Cause.cells)
    else (s, if (s.evalOf head).isNone then .touch else .join)
  else (s, a.noRead Cause.cellTag)

/-- What a read makes of what its home has found. -/
def State.readFound (s : State) (a : Access) (pa : Nat) : Option Block → State × ReadRes
  | none => (s, .token .uncorrectable 0 0)
  | some b =>
    if b.side.tag = tagGrouplink then
      if !a.leafCells then (s, a.noRead Cause.cells)
      else
        match s.readAt a.pol a.key (s.groupOf pa).1 with
        | (s2, some h) => s2.byTag a b (s.groupOf pa).1 h
        | (s2, none) => (s2, .token .uncorrectable 0 0)
    else s.byTag a b (pa / 64 * 64) b

/-- A read takes its key id, and the permission for cells, from the leaf of its access. -/
theorem State.valueRead_eq {s t : State} {a : Access} {pa : Nat} {b : Option Block} (hr : s.readAt a.pol a.key pa = (t, b)) :
    s.valueRead a.pol a.ctx a.leaf a.va pa = t.readFound a pa b := by
  unfold State.valueRead State.readFound State.byTag Access.noRead Access.leafCells
  unfold Access.key at hr ⊢
  cases h : a.leaf <;> rw [h] at hr <;> dsimp only at hr ⊢ <;> rw [hr] <;> cases b <;> rfl

/-- A block that is no link is read by its own tag. -/
theorem State.valueRead_unlinked {s : State} {a : Access} {pa : Nat} (h : readableAt s a.key pa) (ht : (s.side pa).tag.toNat < 6)
    (hl : (s.side pa).tag ≠ tagGrouplink) : ∃ t, s.Reads t ∧ s.valueRead a.pol a.ctx a.leaf a.va pa =
      t.byTag a ⟨s.stored pa, s.side pa⟩ (pa / 64 * 64) ⟨s.stored pa, s.side pa⟩ := by
  obtain ⟨t, hr, ho⟩ := State.readAt_readable s a.pol a.key pa h ht
  exact ⟨t, ho, (State.valueRead_eq hr).trans (if_neg hl)⟩

/-- A link is read as its head, where its leaf permits cells. -/
theorem State.valueRead_link {s : State} {a : Access} {pa : Nat} (h : readableAt s a.key pa) (hl : (s.side pa).tag = tagGrouplink)
    (hh : readableAt s a.key (s.groupOf pa).1) (ht : (s.side (s.groupOf pa).1).tag.toNat < 6) : ∃ t, s.Reads t ∧
      s.valueRead a.pol a.ctx a.leaf a.va pa = if a.leafCells then t.byTag a ⟨s.stored pa, s.side pa⟩ (s.groupOf pa).1
        ⟨s.stored (s.groupOf pa).1, s.side (s.groupOf pa).1⟩ else (t, a.noRead Cause.cells) := by
  obtain ⟨t, hr, ho⟩ := State.readAt_readable s a.pol a.key pa h (by rw [hl]; decide)
  have hg : t.groupOf pa = s.groupOf pa := by
    unfold State.groupOf
    rw [(ho.keeps pa).side, (ho.keeps pa).stored]
  have hk := ho.keeps (s.groupOf pa).1
  have hmg : t.mgmt.keyGen = s.mgmt.keyGen := by rw [ho.mgmt]
  obtain ⟨u, hr2, ho2⟩ := State.readAt_readable t a.pol a.key (s.groupOf pa).1 (hk.readable hmg hh) (by rw [hk.side]; exact ht)
  rw [State.valueRead_eq hr, State.readFound]
  dsimp only
  rw [if_pos hl]
  cases hc : a.leafCells with
  | false => exact ⟨t, ho, rfl⟩
  | true =>
    refine ⟨u, ho.trans ho2, ?_⟩
    rw [hg, hr2, hk.side, hk.stored]
    rfl

-- THE FOUR ANSWERS

/-- What becomes of a load by the outcome of its read. -/
def State.loadGives (s : State) (a : Access) : ReadRes → State
  | .block b =>
    if b.side.tag = tagPlain then (s.install a b).1.loadAnswer a (s.install a b).2.1 (s.install a b).2.2
    else s.loadAnswer a b.data ⟨b.side.fmt, b.side.scale⟩
  | .token e c d => s.failAcc a e c d
  | .given r => s.answer a.id (failAns a.op ⟨r, true⟩)
  | .touch => s.now (.firstTouch a.id)
  | .join => s.now (.waiterJoin a.id)

/-- A unit's load neither speculates nor keeps the sidecar: it is a value read. -/
theorem State.homeLoad_byUnit {s : State} {a : Access} (h : byUnit a) : s.homeLoad a =
    (s.valueRead a.pol a.ctx a.leaf a.va (paOf a.pa)).1.loadGives a (s.valueRead a.pol a.ctx a.leaf a.va (paOf a.pa)).2 := by
  have hn : decide (65536 ≤ a.actor) = false := decide_eq_false (Nat.not_le.mpr h)
  unfold State.homeLoad State.speculates Access.preserves
  simp only [hn, Bool.false_and, Bool.false_eq_true, false_and, if_false]
  generalize s.valueRead a.pol a.ctx a.leaf a.va (paOf a.pa) = r
  obtain ⟨t, r⟩ := r
  cases r <;> rfl

theorem State.loadAnswer_byUnit {s : State} {a : Access} {b : Blk} {p : Pair} (h : byUnit a)
    (hf : a.typed = false ∨ (fmtOf p.fmt.toNat).isSome = true) :
    (∀ off pol d s1 w, a.op = .ldb off pol d s1 w →
      s.loadAnswer a b p = s.answer a.id ⟨none, some ⟨b, if a.typed then p else Pair.raw⟩, none, none⟩) ∧
    (∀ ty off pol d s1 w, a.op = .ld ty off pol d s1 w → s.loadAnswer a b p = s.answer a.id
      ⟨some ⟨ty.wrap (Blk.fld b (8 * (a.va.toNat % 64)) ty.width), if a.typed then p else Pair.raw⟩, none, none, none⟩) := by
  have hp : ¬ a.preserves = true := by
    unfold Access.preserves
    simp [decide_eq_false (Nat.not_le.mpr h)]
  have hn : ¬ (a.typed = true ∧ (!a.byCopier) = true ∧ (Fmt.of p.fmt).isNone = true) := by
    rintro ⟨ht, -, hi⟩
    rcases hf with hf | hf
    · simp [hf] at ht
    · unfold Fmt.of at hi
      rw [Option.isNone_iff_eq_none] at hi
      simp [hi] at hf
  constructor
  · intro off pol d s1 w hop
    unfold State.loadAnswer
    rw [if_neg hp, hop]
    dsimp only
    rw [if_neg (by simpa using hn)]
  · intro ty off pol d s1 w hop
    unfold State.loadAnswer
    rw [if_neg hp, hop]
    dsimp only
    rw [if_neg (by simpa using hn)]
    rfl

-- WHAT A LOAD BRINGS INTO THE CACHES

theorem State.setRdc_tiles (s : State) (die k : Nat) (l : CLine) : (s.setRdc die k l).tiles = s.tiles := by
  unfold State.setRdc
  split
  · unfold State.dropRdc State.wbRdc
    repeat' split
    · rfl
    · exact State.wbHome_tiles ..
    · rfl
  · rfl

theorem State.setRdc_mem {s : State} {die k : Nat} (l : CLine) (h : rdcVictim s.cycle (s.die die) k = none) :
    (s.setRdc die k l).mem = s.mem := by
  unfold State.setRdc
  rw [h]
  rfl

theorem State.setL1_mem {s : State} {tile k : Nat} (l : CLine) (h : l1Victim s.cycle (s.tile tile) k = none) :
    (s.setL1 tile k l).mem = s.mem := by
  unfold State.setL1
  rw [h]
  rfl

/-- The first half of `State.install` where the RDC does not hold the block. -/
def State.installRdc (s : State) (a : Access) (b : Block) : State :=
  if s.localTo a.die a.pa then s
  else if a.cached then s.setRdc a.die (lineKey a.key a.pa) ((CLine.fresh a.key a.ctx a.imm).fill b.data ⟨b.side.fmt, b.side.scale⟩)
  else s

/-- The second half where the L1 does not hold it. -/
def State.installL1 (s : State) (a : Access) (b : Block) : State :=
  if a.cached && a.hasL1 then
    s.setL1 a.tile (lineKey a.key a.pa) ((CLine.fresh a.key a.ctx a.imm).fill b.data ⟨b.side.fmt, b.side.scale⟩)
  else s

theorem State.installRdc_tiles (s : State) (a : Access) (b : Block) : (s.installRdc a b).tiles = s.tiles := by
  unfold State.installRdc
  repeat' split
  · rfl
  · exact State.setRdc_tiles ..
  · rfl

theorem State.installRdc_work (s : State) (a : Access) (b : Block) : s.CacheWork (s.installRdc a b) := by
  unfold State.installRdc
  repeat' split
  · exact .refl s
  · exact State.setRdc_work ..
  · exact .refl s

theorem State.installL1_work (s : State) (a : Access) (b : Block) : s.CacheWork (s.installL1 a b) := by
  unfold State.installL1
  split
  · exact State.setL1_work ..
  · exact .refl s

/-- A block that neither the L1 nor the RDC holds comes to the requester as its home gave it. -/
theorem State.install_absent {s : State} {a : Access} (b : Block) (hl : s.l1Of a (lineKey a.key a.pa) = none)
    (hr : Sparse.find? (s.die a.die).rdc (lineKey a.key a.pa) = none) :
    s.install a b = ((s.installRdc a b).installL1 a b, b.data, ⟨b.side.fmt, b.side.scale⟩) := by
  have h1 : (s.installRdc a b).l1Of a (lineKey a.key a.pa) = none := by
    unfold State.l1Of
    rw [State.tile_congr (State.installRdc_tiles ..)]
    exact hl
  unfold State.install
  dsimp only
  rw [hr]
  dsimp only
  by_cases hloc : s.localTo a.die a.pa = true
  · have e : s.installRdc a b = s := if_pos hloc
    rw [if_pos hloc, hl, e]
    rfl
  · by_cases hc : a.cached = true
    · have e : s.installRdc a b = s.setRdc a.die (lineKey a.key a.pa)
          ((CLine.fresh a.key a.ctx a.imm).fill b.data ⟨b.side.fmt, b.side.scale⟩) := (if_neg hloc).trans (if_pos hc)
      rw [e] at h1
      rw [if_neg hloc, if_pos hc, h1, e]
      rfl
    · have e : s.installRdc a b = s := (if_neg hloc).trans (if_neg hc)
      rw [if_neg hloc, if_neg hc, hl, e]
      rfl

/-- Memory stays unless a line has to make room. -/
theorem State.installed_mem {s : State} {a : Access} (b : Block) (h : a.pol ≠ .cached ∨
    (l1Victim s.cycle (s.tile a.tile) (lineKey a.key a.pa) = none ∧ rdcVictim s.cycle (s.die a.die) (lineKey a.key a.pa) = none)) :
    ((s.installRdc a b).installL1 a b).mem = s.mem := by
  rcases h with h | ⟨hv, hw⟩
  · have hc : ¬ a.cached = true := by simp [Access.cached, h]
    have e1 : s.installRdc a b = s := by
      unfold State.installRdc
      rw [if_neg hc, ite_self]
    have e2 : s.installL1 a b = s := by unfold State.installL1; simp [hc]
    rw [e1, e2]
  · have h1 : (s.installRdc a b).mem = s.mem := by
      unfold State.installRdc
      repeat' split
      · rfl
      · exact State.setRdc_mem _ hw
      · rfl
    rw [← h1]
    unfold State.installL1
    split
    · refine State.setL1_mem _ ?_
      rw [(State.installRdc_work s a b).cycle, State.tile_congr (State.installRdc_tiles ..)]
      exact hv
    · rfl

-- CELLS

/-- The head that a read of an access's block acts on. -/
def Access.headOf (s : State) (a : Access) : Nat := (s.groupOf (paOf a.pa)).1

theorem Access.headOf_eq (s : State) (a : Access) : a.headOf s =
    if (s.side (paOf a.pa)).tag = 5 then blk a - 64 * Spec.fld s a 0 6 else blk a := by
  unfold Access.headOf State.groupOf
  split <;> rename_i h
  · exact (if_pos h).symm
  · exact (if_neg h).symm

theorem State.Reads.cellCheck {s t : State} (h : s.Reads t) (a : Access) (head : Nat) :
    t.cellCheck a.ctx a.leaf head = s.cellCheck a.ctx a.leaf head := by
  obtain ⟨⟨_, _, _, rfl⟩, _⟩ := h; rfl

theorem State.Reads.evalOf {s t : State} (h : s.Reads t) (head : Nat) : t.evalOf head = s.evalOf head := by
  obtain ⟨⟨_, _, _, rfl⟩, _⟩ := h; rfl

/-- A suspended head, or one in evaluation whose record is there. -/
def State.cellAt (s : State) (head : Nat) : ReadRes → Prop
  | .touch => (s.side head).tag = tagSuspended
  | .join => (s.side head).tag = tagEvaluating ∧ (s.evalOf head).isSome = true
  | _ => False

theorem State.byTag_cell {s : State} {a : Access} {head : Nat} {r : ReadRes} (b : Block) (h : s.cellAt head r) (x : Blk) :
    s.byTag a b head ⟨x, s.side head⟩ = (s, if s.cellCheck a.ctx a.leaf head then r else a.noRead Cause.cells) := by
  unfold State.byTag
  cases r with
  | touch =>
    rw [State.cellAt] at h
    simp only [h, tagPlain, tagPoisoned, tagSuspended]
    rfl
  | join =>
    obtain ⟨h, he⟩ := h
    simp only [h, tagPlain, tagPoisoned, tagSuspended, tagEvaluating, Option.isNone_eq_false_iff.mpr he]
    cases s.cellCheck a.ctx a.leaf head <;> rfl
  | block | token | given => exact h.elim

/-- A cell that is read starts or joins its evaluation where the read may, itself or as its head. -/
theorem State.valueRead_cell {s : State} {a : Access} {r : ReadRes} (h : sound s a) (hh : readableAt s a.key (a.headOf s))
    (hc : s.cellAt (a.headOf s) r)
    (hl : (s.side (paOf a.pa)).tag = tagGrouplink ∨ s.side (paOf a.pa) = s.side (a.headOf s)) :
    ∃ t, s.Reads t ∧ s.valueRead a.pol a.ctx a.leaf a.va (paOf a.pa) =
      (t, if s.cellCheck a.ctx a.leaf (a.headOf s) then r else a.noRead Cause.cells) := by
  have hcell (t : State) (ho : s.Reads t) (b : Block) (x : Blk) : t.byTag a b (a.headOf s) ⟨x, s.side (a.headOf s)⟩ =
      (t, if s.cellCheck a.ctx a.leaf (a.headOf s) then r else a.noRead Cause.cells) := by
    have hs := (ho.keeps (a.headOf s)).side
    rw [← ho.cellCheck, ← hs]
    refine State.byTag_cell b ?_ x
    cases r with
    | touch => exact (congrArg Side.tag hs).trans hc
    | join => exact ⟨(congrArg Side.tag hs).trans hc.1, by rw [ho.evalOf]; exact hc.2⟩
    | block | token | given => exact hc.elim
  have htag : (s.side (a.headOf s)).tag = tagSuspended ∨ (s.side (a.headOf s)).tag = tagEvaluating := by
    cases r with
    | touch => exact Or.inl hc
    | join => exact Or.inr hc.1
    | block | token | given => exact hc.elim
  have h6 : (s.side (a.headOf s)).tag.toNat < 6 := by rcases htag with e | e <;> rw [e] <;> decide
  by_cases hg : (s.side (paOf a.pa)).tag = tagGrouplink
  · obtain ⟨t, ho, hv⟩ := State.valueRead_link h hg hh h6
    refine ⟨t, ho, ?_⟩
    rw [hv]
    cases hk : a.leafCells with
    | false =>
      have hcc : s.cellCheck a.ctx a.leaf (a.headOf s) = false := by
        unfold Access.leafCells at hk
        unfold State.cellCheck
        cases hlf : a.leaf <;> simp_all
      rw [hcc]
      rfl
    | true => exact hcell t ho _ _
  · have hs := hl.resolve_left hg
    have hb : a.headOf s = paOf a.pa / 64 * 64 := (Access.headOf_eq s a).trans (if_neg hg)
    obtain ⟨t, ho, hv⟩ := State.valueRead_unlinked h (by rw [hs]; exact h6) hg
    exact ⟨t, ho, hv.trans (by rw [hs, ← hb]; exact hcell t ho _ _)⟩

-- A UNIT'S LOAD AT HOME

/-- A unit's load at its home is a value read, after it has been counted. -/
theorem exec_load {s : State} {a : Access} {off : Off} {pol : Pol} {ty : IntTy} {d s1 : Fin 16} {w : Wave} (h : atHome s a)
    (hu : byUnit a) (hop : a.op = .ldb off pol d s1 w ∨ a.op = .ld ty off pol d s1 w) : ∃ u, s.Counts u ∧ s.CacheWork u ∧
      exec (.homeAccess a.id) s = .next ((u.valueRead a.pol a.ctx a.leaf a.va (paOf a.pa)).1.loadGives a
        (u.valueRead a.pol a.ctx a.leaf a.va (paOf a.pa)).2) := by
  refine ⟨s.moved a.actor 1, State.moved_counts .., State.moved_work .., ?_⟩
  have hm : isMemory a.op = true := by rcases hop with e | e <;> rw [e] <;> rfl
  have ha : isAtomic a.op = false := by rcases hop with e | e <;> rw [e] <;> rfl
  have hr : s.arrived a = s.moved a.actor 1 := by
    unfold State.arrived State.takeTurn State.leftCaches
    rw [ha]
    rcases hop with e | e <;> rw [e] <;> rfl
  rw [exec_homeAccess h hm (by simp [ha]), hr, ← State.homeLoad_byUnit hu]
  refine congrArg Host.Outcome.next ?_
  unfold State.homeLocal
  rcases hop with e | e <;> rw [e]

/-- A unit's load at its home is, once it has been counted, a value read there. -/
structure State.Loads (s u : State) (a : Access) : Prop where
  counts : s.Counts u
  work : s.CacheWork u
  run : exec (.homeAccess a.id) s = .next ((u.valueRead a.pol a.ctx a.leaf a.va (paOf a.pa)).1.loadGives a
    (u.valueRead a.pol a.ctx a.leaf a.va (paOf a.pa)).2)
  acc : s.acc? a.id = some a
  sound : sound s a
  unit : byUnit a

namespace State.Loads

variable {s u : State} {a : Access}

theorem keeps (h : s.Loads u a) (pa : Nat) : s.KeepsBlock u pa := .counts h.counts pa

theorem soundThere (h : s.Loads u a) : Spec.sound u a := (h.keeps _).readable h.counts.keyGen h.sound

theorem accThere (h : s.Loads u a) {t : State} (ho : u.Reads t) : t.acc? a.id = some a :=
  ((ho.acc? a.id).trans (h.counts.acc? a.id)).trans h.acc

/-- A read that is refused leaves memory as it is. -/
theorem refused (h : s.Loads u a) {t : State} (ho : u.Reads t) (e : Err) (c : BitVec 8) (x : Nat) :
    (t.failAcc a e c x).mem = s.mem ∧ failed s (t.failAcc a e c x) a e c x :=
  ⟨(State.failAcc_mem ..).trans (ho.mem.trans h.counts.mem), State.failAcc_failed e c x (h.accThere ho) (ho.dev.trans h.counts.dev)⟩

theorem poisoned (h : s.Loads u a) (ht : (s.side (paOf a.pa)).tag = tagPoisoned) :
    HomeDoes s a fun t => t.mem = s.mem ∧ failed s t a .cellPoisoned 0 (poisonDetail (s.stored (paOf a.pa))) := by
  have hp : (u.side (paOf a.pa)).tag = tagPoisoned := (congrArg Side.tag (h.keeps _).side).trans ht
  obtain ⟨t, ho, hv⟩ := State.valueRead_unlinked h.soundThere (by rw [hp]; decide) (by rw [hp]; decide)
  rw [State.byTag, if_neg (by rw [hp]; decide), if_pos hp, (h.keeps _).stored] at hv
  exact ⟨_, by rw [h.run, hv]; rfl, h.refused ho .cellPoisoned 0 _⟩

theorem object (h : s.Loads u a) (ht : (s.side (paOf a.pa)).tag = tagSync) :
    HomeDoes s a fun t => t.mem = s.mem ∧ failed s t a .permission Cause.cellTag (vaDetail a.va 0) := by
  have hp : (u.side (paOf a.pa)).tag = tagSync := (congrArg Side.tag (h.keeps _).side).trans ht
  obtain ⟨t, ho, hv⟩ := State.valueRead_unlinked h.soundThere (by rw [hp]; decide) (by rw [hp]; decide)
  rw [State.byTag, if_neg (by rw [hp]; decide), if_neg (by rw [hp]; decide), if_neg (by rw [hp]; decide),
    if_neg (by rw [hp]; decide)] at hv
  exact ⟨_, by rw [h.run, hv]; rfl, h.refused ho .permission Cause.cellTag _⟩

/-- A PLAIN block that the caches do not hold is answered as it is stored; memory stays unless a line has to make room. -/
theorem plain (h : s.Loads u a) (ht : (s.side (paOf a.pa)).tag = tagPlain) (hl : s.l1Of a (lineKey a.key a.pa) = none)
    (hr : Sparse.find? (s.die a.die).rdc (lineKey a.key a.pa) = none) :
    ∃ v : State, v.acc? a.id = some a ∧ exec (.homeAccess a.id) s =
      .next (v.loadAnswer a (s.stored (paOf a.pa)) ⟨(s.side (paOf a.pa)).fmt, (s.side (paOf a.pa)).scale⟩) ∧
      (a.pol ≠ .cached ∨ (l1Victim s.cycle (s.tile a.tile) (lineKey a.key a.pa) = none ∧
        rdcVictim s.cycle (s.die a.die) (lineKey a.key a.pa) = none) → v.mem = s.mem) := by
  have hp : (u.side (paOf a.pa)).tag = tagPlain := (congrArg Side.tag (h.keeps _).side).trans ht
  obtain ⟨t, ho, hv⟩ := State.valueRead_unlinked h.soundThere (by rw [hp]; decide) (by rw [hp]; decide)
  rw [State.byTag, if_pos hp, (h.keeps _).stored, (h.keeps _).side] at hv
  have htl : t.l1Of a (lineKey a.key a.pa) = none := by
    unfold State.l1Of at hl ⊢
    rw [ho.tile, h.counts.tile]
    exact hl
  have htr : Sparse.find? (t.die a.die).rdc (lineKey a.key a.pa) = none := by rw [ho.die, h.counts.die]; exact hr
  have hwork : t.CacheWork ((t.installRdc a ⟨s.stored (paOf a.pa), s.side (paOf a.pa)⟩).installL1 a
      ⟨s.stored (paOf a.pa), s.side (paOf a.pa)⟩) := (State.installRdc_work ..).trans (State.installL1_work ..)
  refine ⟨_, (State.acc?_congr hwork.accs _).trans (h.accThere ho), ?_, fun e => ?_⟩
  · rw [h.run, hv, State.loadGives, State.install_absent _ htl htr]
    exact congrArg Host.Outcome.next (if_pos ht)
  · refine (State.installed_mem _ ?_).trans (ho.mem.trans h.counts.mem)
    rw [ho.cycle, h.counts.cycle, ho.tile, h.counts.tile, ho.die, h.counts.die]
    exact e

theorem headThere (h : s.Loads u a) : a.headOf u = a.headOf s := by
  rw [Access.headOf_eq, Access.headOf_eq]
  unfold Spec.fld
  rw [(h.keeps _).side, (h.keeps _).stored]

theorem cellThere (h : s.Loads u a) {r : ReadRes} (hc : s.cellAt (a.headOf s) r) : u.cellAt (a.headOf s) r := by
  have hs := congrArg Side.tag (h.keeps (a.headOf s)).side
  have he : u.evalOf (a.headOf s) = s.evalOf (a.headOf s) := by unfold State.evalOf; rw [h.counts.die]
  cases r with
  | touch => exact hs.trans hc
  | join => exact ⟨hs.trans hc.1, by rw [he]; exact hc.2⟩
  | block | token | given => exact hc.elim

theorem mayRead_iff (h : s.Loads u a) (head : Nat) : u.cellCheck a.ctx a.leaf head = true ↔ a.mayRead s head := by
  rw [State.cellCheck_iff]
  unfold Access.mayRead
  rw [(h.keeps head).stored, State.isConf_work h.work, State.isConf_work h.work]

/-- A cell that is read starts or joins its evaluation, or refuses the read; memory stays. -/
theorem cell (h : s.Loads u a) {r : ReadRes} (hh : readableAt s a.key (a.headOf s)) (hc : s.cellAt (a.headOf s) r)
    (hl : (s.side (paOf a.pa)).tag = tagGrouplink ∨ s.side (paOf a.pa) = s.side (a.headOf s)) :
    (a.mayRead s (a.headOf s) → ∃ t : State, t.mem = s.mem ∧ exec (.homeAccess a.id) s = .next (t.loadGives a r)) ∧
    (¬ a.mayRead s (a.headOf s) →
      HomeDoes s a fun t => t.mem = s.mem ∧ failed s t a .permission Cause.cells (vaDetail a.va 0)) := by
  obtain ⟨t, ho, hv⟩ := State.valueRead_cell (r := r) h.soundThere
    (by rw [h.headThere]; exact (h.keeps _).readable h.counts.keyGen hh) (by rw [h.headThere]; exact h.cellThere hc)
    (by rw [h.headThere, (h.keeps _).side, (h.keeps _).side]; exact hl)
  rw [h.headThere] at hv
  refine ⟨fun hm => ⟨t, ho.mem.trans h.counts.mem, ?_⟩, fun hm => ⟨_, ?_, h.refused ho .permission Cause.cells (vaDetail a.va 0)⟩⟩
  · rw [h.run, hv, if_pos ((h.mayRead_iff _).mpr hm)]
  · rw [h.run, hv, if_neg fun hx => hm ((h.mayRead_iff _).mp hx)]
    rfl

end State.Loads

/-- A head has the tag of a cell that is read, through a link or not. -/
theorem Access.head_tag {s : State} {a : Access} {x : BitVec 4} (hx : x ≠ 5) (h : (s.side (paOf a.pa)).tag = x ∨
    ((s.side (paOf a.pa)).tag = 5 ∧ (s.side (a.headOf s)).tag = x)) : (s.side (a.headOf s)).tag = x ∧
      ((s.side (paOf a.pa)).tag = tagGrouplink ∨ s.side (paOf a.pa) = s.side (a.headOf s)) := by
  rcases h with h | ⟨h5, h⟩
  · have hb : a.headOf s = paOf a.pa / 64 * 64 := (Access.headOf_eq s a).trans (if_neg (by rw [h]; exact hx))
    have hs : s.side (paOf a.pa) = s.side (a.headOf s) := by
      unfold State.side
      rw [hb, Nat.mul_div_cancel _ (by decide)]
    exact ⟨by rw [← hs]; exact h, Or.inr hs⟩
  · exact ⟨h, Or.inl h5⟩

end Sys2Proof.Machine
end

section
open Sys2Proof Sys2Proof.Machine Sys2Proof.Spec

/-- Settles O27: a unit's load is a value read, whose outcome the tag decides, of the block itself or of its head. -/
theorem valueReads : Obligations.ValueReads := by
  intro s a off pol ty d s1 w hat hu hs hop pa head hhead cells
  obtain ⟨u, hcounts, hwork, hrun⟩ := exec_load hat hu hop
  have h : s.Loads u a := ⟨hcounts, hwork, hrun, hat.1, hs, hu⟩
  have hh : head = a.headOf s := (Access.headOf_eq s a).symm
  clear_value head
  subst hh
  refine ⟨fun ht hl hr hf => ?_, fun ht => ?_, fun ht => ?_, fun ht => ?_, fun ht he => ?_⟩
  · obtain ⟨v, hv, hex, hmem⟩ := h.plain ht hl hr
    obtain ⟨hldb, hld⟩ := State.loadAnswer_byUnit (s := v) (b := s.stored pa) (p := ⟨(s.side pa).fmt, (s.side pa).scale⟩) hu hf
    refine ⟨_, hex, fun e => ?_, fun e => ⟨_, ?_, IntTy.wrapped ..⟩, fun e => ?_⟩
    · rw [hldb _ _ _ _ _ e]
      exact State.answer_answered _ hv
    · rw [hld _ _ _ _ _ _ e]
      exact State.answer_answered _ hv
    · rw [← hmem e]
      rcases hop with e | e
      · rw [hldb _ _ _ _ _ e, State.answer_mem]
      · rw [hld _ _ _ _ _ _ e, State.answer_mem]
  · have hd : poisonDetail (s.stored pa) =
        if (s.stored pa).toNat % 2 ^ 256 = 0 then 5 else Blk.fld (s.stored pa) 0 64 := by simp [poisonDetail, Blk.fld]
    rw [← hd]
    exact h.poisoned ht
  · rw [← vaDetail_zero]
    exact h.object ht
  · obtain ⟨htag, hl⟩ := Access.head_tag (by decide) ht
    obtain ⟨hmay, hno⟩ := h.cell (r := .touch) hhead htag hl
    rw [← vaDetail_zero]
    refine ⟨fun hk => ?_, hno⟩
    obtain ⟨t, hm, hx⟩ := hmay hk
    exact ⟨_, hx, hm, _, rfl⟩
  · obtain ⟨htag, hl⟩ := Access.head_tag (by decide) ht
    obtain ⟨hmay, hno⟩ := h.cell (r := .join) hhead ⟨htag, he⟩ hl
    rw [← vaDetail_zero]
    refine ⟨fun hk => ?_, hno⟩
    obtain ⟨t, hm, hx⟩ := hmay hk
    exact ⟨_, hx, hm, _, rfl⟩

end

section
/-! SUPPORT. An atomic at its home: the value that it finds, what it writes and what D takes. -/

namespace Sys2Proof.Machine
open Sys2Proof.Spec

-- THE OPERATION

/-- The value that an atomic finds. -/
def Access.atomFinds (s : State) (a : Access) : Nat := Spec.fld s a (paOf a.pa % 64 * 8) (atomicShape a.op).1

/-- The block that an atomic leaves. -/
def Access.atomLeaves (s : State) (a : Access) : Block :=
  if atomicWrites a.op (a.atomFinds s) a.a.toNat a.b.toNat then
    ⟨Blk.put (s.stored (paOf a.pa)) (paOf a.pa % 64 * 8) (atomicShape a.op).1
      (atomicResult a.op (a.atomFinds s) a.a.toNat a.b.toNat).1, a.kept (s.side (paOf a.pa))⟩
  else ⟨s.stored (paOf a.pa), s.side (paOf a.pa)⟩

/-- An atomic of a PLAIN block leaves its result there and answers what it found. -/
theorem State.atomic_plain {u : State} {a : Access} (hacc : u.acc? a.id = some a) (hs : sound u a) (hl : u.Lacks a (paOf a.pa))
    (hw : u.memWf) (ht : (u.side (paOf a.pa)).tag = 0) :
    answered (u.atomic a) a.id (ansG (atomicResult a.op (a.atomFinds u) a.a.toNat a.b.toNat).2.1) ∧
      (u.atomic a).Holds (paOf a.pa) (a.atomLeaves u) := by
  have h6 : (u.side (paOf a.pa)).tag.toNat < 6 := by rw [ht]; decide
  unfold State.atomic Access.atomLeaves Access.atomFinds Spec.fld
  generalize atomicShape a.op = sh
  obtain ⟨w, sc, rel⟩ := sh
  dsimp only
  obtain ⟨v, hv⟩ : ∃ v, v = if rel = true ∧ (u.side (paOf a.pa)).tag = tagPlain then u.partyRel a sc else u := ⟨_, rfl⟩
  have ha : State.Aside a (paOf a.pa) u v := by
    rw [hv]
    split
    · exact State.partyRel_aside ..
    · exact .refl u
  obtain ⟨hk, -⟩ := ha.2 hw hl
  have hkg : v.mgmt.keyGen = u.mgmt.keyGen := by
    have := congrArg Mgmt.keyGen ha.1.mgmt
    exact this
  obtain ⟨t, hr, ho⟩ := State.readAt_readable v a.pol a.key (paOf a.pa) (hk.readable hkg hs) (by rw [hk.side]; exact h6)
  have hta : t.acc? a.id = some a := (ho.acc? _).trans ((State.acc?_congr ha.1.accs _).trans hacc)
  rw [← hv, hr]
  dsimp only
  rw [hk.side, hk.stored, if_neg (by rw [ht]; decide), if_neg (by rw [ht]; decide)]
  generalize atomicResult a.op (Blk.fld (u.stored (paOf a.pa)) (paOf a.pa % 64 * 8) w) a.a.toNat a.b.toNat = res
  obtain ⟨m, d, acq⟩ := res
  dsimp only
  have hheld : ∀ (c : Bool) (b : Block),
      (if c then t.putAt a.pol a.key (paOf a.pa) b else t).acc? a.id = some a ∧
        (if c then t.putAt a.pol a.key (paOf a.pa) b else t).Holds (paOf a.pa)
          (if c then b else ⟨u.stored (paOf a.pa), u.side (paOf a.pa)⟩) := by
    intro c b
    split
    · exact ⟨(State.acc?_congr (State.putAt_work ..).accs _).trans hta,
        State.putAt_holds _ _ _ _ _ (ho.memWf (ha.1.wf hw))⟩
    · have hk' := hk.trans (ho.keeps _)
      exact ⟨hta, hk'.stored, hk'.side⟩
  exact ⟨State.answer_answered _ (State.acc?_modAcc_same (fun x => { x with noAcq := !acq }) (fun _ => rfl) (hheld _ _).1),
    ((State.modAcc_keeps ..).trans (State.answer_keeps ..)).holds (hheld _ _).2⟩

/-- An atomic of a cell or of an object is refused, and nothing is written. -/
theorem State.atomic_refused {u : State} {a : Access} (hs : sound u a) (ht : (u.side (paOf a.pa)).tag ∈ [1#4, 2#4, 4#4, 5#4]) :
    ∃ t, u.Reads t ∧ u.atomic a = t.refuse a Cause.cellTag := by
  have h0 : (u.side (paOf a.pa)).tag ≠ tagPlain := by intro e; rw [e] at ht; revert ht; decide
  have h3 : (u.side (paOf a.pa)).tag ≠ tagPoisoned := by intro e; rw [e] at ht; revert ht; decide
  have h6 : (u.side (paOf a.pa)).tag.toNat < 6 := by
    generalize (u.side (paOf a.pa)).tag = t at ht
    revert t
    decide
  obtain ⟨t, hr, ho⟩ := State.readAt_readable u a.pol a.key (paOf a.pa) hs h6
  refine ⟨t, ho, ?_⟩
  unfold State.atomic
  generalize atomicShape a.op = sh
  obtain ⟨w, sc, rel⟩ := sh
  dsimp only
  rw [if_neg (fun h => h0 h.2), hr]
  dsimp only
  rw [if_neg h3, if_pos h0]

theorem State.homeLocal_atomic {s : State} {a : Access} (h : isAtomic a.op = true) : s.homeLocal a = s.atomic a := by
  unfold State.homeLocal
  unfold isAtomic at h
  split at h
  · rename_i e; rw [e]
  · rename_i e; rw [e]
  · rename_i e; rw [e]
  · rename_i e; rw [e]
  · rename_i e; rw [e]
  · rename_i e; rw [e]
  · rename_i e; rw [e]
  · simp at h

theorem isMemory_of_isAtomic {i : Instr} (h : isAtomic i = true) : isMemory i = true := by
  cases i <;> simp [isAtomic] at h <;> rfl

theorem not_csusp_of_isAtomic {i : Instr} (h : isAtomic i = true) (d : Fin 8) (s1 s2 : Fin 16) (w : Wave) : i ≠ .csusp d s1 s2 w := by
  rintro rfl
  simp [isAtomic] at h

/-- What an atomic has done when it has been performed, of a PLAIN block. -/
structure Access.Gives (s : State) (a : Access) (n new : Nat) (r : Word) (t : State) : Prop where
  answer : answered t a.id ⟨some ⟨r, Pair.int64⟩, none, none, none⟩
  field : Spec.fld t a (paOf a.pa % 64 * 8) n = new
  other : ∀ k, (k + 32 ≤ paOf a.pa % 64 * 8 ∨ paOf a.pa % 64 * 8 + n ≤ k) → Spec.fld t a k 32 = Spec.fld s a k 32
  typed : a.typed = true → t.side (paOf a.pa) = s.side (paOf a.pa)
  untyped : a.typed = false → new ≠ Spec.fld s a (paOf a.pa % 64 * 8) n → t.side (paOf a.pa) = ⟨0, 127, 0⟩
  kept : atomicWrites a.op (Spec.fld s a (paOf a.pa % 64 * 8) n) a.a.toNat a.b.toNat = false →
    t.stored (paOf a.pa) = s.stored (paOf a.pa) ∧ t.side (paOf a.pa) = s.side (paOf a.pa)

/-- An atomic gives what its operation computes, where it computes a number of its width and writes unless that is what it found. -/
theorem atomic_gives {s : State} {a : Access} {n new : Nat} {r : Word} {acq : Bool} (hat : atHome s a) (hturn : turn s a)
    (hs : sound s a) (hl : left s a 0) (hop : isAtomic a.op = true) (hn : (atomicShape a.op).1 = n)
    (hpos : paOf a.pa % 64 * 8 + n ≤ 512) (ht : (s.side (paOf a.pa)).tag = 0)
    (hres : atomicResult a.op (Spec.fld s a (paOf a.pa % 64 * 8) n) a.a.toNat a.b.toNat = (new, r, acq)) (hnew : new < 2 ^ n)
    (hwr : atomicWrites a.op (Spec.fld s a (paOf a.pa % 64 * 8) n) a.a.toNat a.b.toNat = false →
      new = Spec.fld s a (paOf a.pa % 64 * 8) n) : HomeDoes s a (a.Gives s n new r) := by
  subst hn
  have hx : exec (.homeAccess a.id) s = .next ((s.arrived a).atomic a) := by
    rw [exec_homeAccess hat (isMemory_of_isAtomic hop) fun _ => hturn, State.homeLocal_atomic hop]
  obtain ⟨hacc, -, -, -, -, hw⟩ := hat
  have hr := State.arrived_ready (not_csusp_of_isAtomic hop) hl hw
  have hf : a.atomFinds (s.arrived a) = a.atomFinds s := by
    unfold Access.atomFinds Spec.fld
    rw [(hr.keeps (paOf a.pa)).stored]
  have hleaves : a.atomLeaves (s.arrived a) = a.atomLeaves s := by
    unfold Access.atomLeaves
    rw [hf, (hr.keeps (paOf a.pa)).stored, (hr.keeps (paOf a.pa)).side]
  obtain ⟨hans, hholds⟩ := State.atomic_plain ((hr.alike.acc? _).trans hacc) (hr.readable hs) hr.lacks
    (by unfold State.memWf; rw [hr.mem]; exact hw) (by rw [(hr.keeps (paOf a.pa)).side]; exact ht)
  refine ⟨_, hx, ?_⟩
  generalize (s.arrived a).atomic a = t at hans hholds
  rw [hf] at hans
  rw [hleaves] at hholds
  have hres' : atomicResult a.op (a.atomFinds s) a.a.toNat a.b.toNat = (new, r, acq) := hres
  unfold Access.atomLeaves at hholds
  rw [hres'] at hans hholds
  dsimp only at hholds
  cases hc : atomicWrites a.op (a.atomFinds s) a.a.toNat a.b.toNat with
  | false =>
    obtain ⟨hst, hsd⟩ := hholds
    rw [hc] at hst hsd
    have hm := hwr hc
    exact {
      answer := hans
      field := by unfold Spec.fld; rw [hst]; exact hm.symm
      other := fun k _ => by unfold Spec.fld; rw [hst]; rfl
      typed := fun _ => hsd
      untyped := fun _ hne => absurd hm hne
      kept := fun _ => ⟨hst, hsd⟩ }
  | true =>
    obtain ⟨hst, hsd⟩ := hholds
    rw [hc] at hst hsd
    have hst' : t.stored (paOf a.pa) =
      Blk.put (s.stored (paOf a.pa)) (paOf a.pa % 64 * 8) (atomicShape a.op).1 new := hst
    have hsd' : t.side (paOf a.pa) = a.kept (s.side (paOf a.pa)) := hsd
    exact {
      answer := hans
      field := by unfold Spec.fld; rw [hst', Blk.fld_put_same _ _ _ _ hpos, Nat.mod_eq_of_lt hnew]
      other := fun k hk => by unfold Spec.fld; rw [hst', Blk.fld_put_other _ _ _ _ _ _ hpos hk]
      typed := fun hty => by rw [hsd', Access.kept, if_pos hty]
      untyped := fun hty _ => by rw [hsd', Access.kept, if_neg (by simp [hty]), ht]
      kept := fun h => Bool.noConfusion (hc.symm.trans h) }

/-- An atomic of a cell or of an object is refused. -/
theorem atomic_fails {s : State} {a : Access} (hat : atHome s a) (hturn : turn s a) (hs : sound s a) (hl : left s a 0)
    (hop : isAtomic a.op = true) (ht : (s.side (paOf a.pa)).tag ∈ [1#4, 2#4, 4#4, 5#4]) :
    HomeDoes s a fun t => failed s t a .permission 0x07 (a.va.toNat % 2 ^ 52) ∧ t.mem = s.mem := by
  have hx := exec_homeAccess hat (isMemory_of_isAtomic hop) fun _ => hturn
  obtain ⟨hacc, -, -, -, -, hw⟩ := hat
  have hr := State.arrived_ready (not_csusp_of_isAtomic hop) hl hw
  obtain ⟨t, ho, he⟩ := State.atomic_refused (hr.readable hs) (by rw [(hr.keeps (paOf a.pa)).side]; exact ht)
  refine ⟨_, by rw [hx, State.homeLocal_atomic hop, he], ?_, ?_⟩
  · rw [← vaDetail_zero]
    exact State.refuse_failed _ ((ho.acc? _).trans ((hr.alike.acc? _).trans hacc)) (ho.dev.trans hr.alike.dev)
  · exact (State.failAcc_mem ..).trans (ho.mem.trans hr.mem)

end Sys2Proof.Machine
end

section
open Sys2Proof Sys2Proof.Machine Sys2Proof.Spec

/-- Settles O26: what an atomic gives is what its operation computes of the field that it finds and of its operands. -/
theorem atomicsAtHome : Obligations.AtomicsAtHome := by
  intro s a sc w64 sgn ford o d s1 s2 w hat hturn hs hl halign n pos m x l int gives
  have hn : n = 64 ∨ n = 32 := by cases w64 <;> simp [n]
  have hpos : pos + n ≤ 512 := by
    rcases hn with e | e <;> cases w64 <;> simp [n] at e halign ⊢ <;> omega
  have hm : m < 2 ^ n := Nat.mod_lt _ (Nat.two_pow_pos n)
  have hx : x < 2 ^ n := Nat.mod_lt _ (Nat.two_pow_pos n)
  have hlt : l < 2 ^ n := Nat.mod_lt _ (Nat.two_pow_pos n)
  have give (i : Instr) (new : Nat) (r : Word) (acq : Bool) (hi : isAtomic i = true) (hsh : (atomicShape i).1 = n)
      (hres : atomicResult i m a.a.toNat a.b.toNat = (new, r, acq)) (hnew : new < 2 ^ n)
      (hwr : atomicWrites i m a.a.toNat a.b.toNat = false → new = m)
      (hno : ((∃ o' f', i = .acas sc w64 o' f' d s1 s2 w ∧ m ≠ l) ∨ (∃ o', i = .afadd sc w64 o' d s1 s2 w ∧ l < m + x)) →
        atomicWrites i m a.a.toNat a.b.toNat = false) : gives i new r := by
    rintro rfl ht
    obtain ⟨t, hx, hg⟩ := atomic_gives hat hturn hs hl hi hsh hpos ht hres hnew hwr
    exact ⟨t, hx, hg.answer, hg.field, fun k _ _ hk => hg.other k hk, hg.typed, hg.untyped, fun _ hc => hg.kept (hno hc)⟩
  refine ⟨?_, ?_, ?_, ?_, ?_, ?_, ?_, ?_⟩
  · by_cases hle : m + x ≤ l
    · rw [if_pos hle, if_pos hle]
      refine give _ _ _ (ordAcq o) rfl rfl (if_pos hle) (hle.trans_lt hlt) (fun h => absurd hle (of_decide_eq_false h)) ?_
      rintro (⟨_, _, h, -⟩ | ⟨_, -, h⟩)
      · simp at h
      · omega
    · rw [if_neg hle, if_neg hle]
      exact give _ _ _ (ordAcq o) rfl rfl (if_neg hle) hm (fun _ => rfl) fun _ => decide_eq_false hle
  · by_cases he : m = l
    · rw [if_pos he]
      refine give _ _ _ (ordAcq o) rfl rfl (if_pos he) hx (fun h => absurd he (ne_of_beq_false (show (m == l) = false from h))) ?_
      rintro (⟨_, _, -, h⟩ | ⟨_, h, -⟩)
      · exact absurd he h
      · simp at h
    · rw [if_neg he]
      exact give _ _ _ ford rfl rfl (if_neg he) hm (fun _ => rfl) fun _ => beq_false_of_ne he
  · exact give _ _ _ (ordAcq o) rfl rfl rfl hx (fun h => Bool.noConfusion h) (by simp)
  · cases sgn with
    | true =>
      have hnew : (if int x < int m then x else m) < 2 ^ n := by split <;> assumption
      exact give _ _ _ (ordAcq o) rfl rfl rfl hnew (fun h => Bool.noConfusion h) (by simp)
    | false =>
      have hd : BitVec.ofInt 64 (m : ℤ) = BitVec.ofNat 64 m := BitVec.ofInt_natCast ..
      show gives _ (min m x) (BitVec.ofInt 64 (m : ℤ))
      rw [hd]
      exact give _ _ _ (ordAcq o) rfl rfl rfl (min_lt_of_left_lt hm) (fun h => Bool.noConfusion h) (by simp)
  · cases sgn with
    | true =>
      have hnew : (if int m < int x then x else m) < 2 ^ n := by split <;> assumption
      exact give _ _ _ (ordAcq o) rfl rfl rfl hnew (fun h => Bool.noConfusion h) (by simp)
    | false =>
      have hd : BitVec.ofInt 64 (m : ℤ) = BitVec.ofNat 64 m := BitVec.ofInt_natCast ..
      show gives _ (max m x) (BitVec.ofInt 64 (m : ℤ))
      rw [hd]
      exact give _ _ _ (ordAcq o) rfl rfl rfl (max_lt hm hx) (fun h => Bool.noConfusion h) (by simp)
  · exact give _ _ _ (ordAcq o) rfl rfl rfl (Nat.and_le_left.trans_lt hm) (fun h => Bool.noConfusion h) (by simp)
  · exact give _ _ _ (ordAcq o) rfl rfl rfl (Nat.or_lt_two_pow hm hx) (fun h => Bool.noConfusion h) (by simp)
  · intro i hi hop ht
    refine atomic_fails hat hturn hs hl ?_ ht
    rw [hop]
    simp only [List.mem_cons, List.not_mem_nil, or_false] at hi
    rcases hi with rfl | rfl | rfl | rfl | rfl | rfl | rfl <;> rfl

end

section
/-! SUPPORT. A RING at its home: its object is opened, its slot translated, and the slot and the object written; and the accesses that
wait at it. -/

namespace Sys2Proof.Machine
open Sys2Proof.Spec

-- ONE ACCESS OF AN ID

/-- An access is the only one of its id. -/
def State.Only (s : State) (id : Nat) (x : Access) : Prop := s.acc? id = some x ∧ ∀ y ∈ s.accs, y.id = id → y = x

theorem State.Only.congr {s t : State} {id : Nat} {x : Access} (h : s.Only id x) (e : t.accs = s.accs) : t.Only id x :=
  ⟨(State.acc?_congr e id).trans h.1, by rw [e]; exact h.2⟩

theorem State.Only.modAcc {s : State} {id : Nat} {x : Access} (h : s.Only id x) (f : Access → Access) (hf : ∀ y, (f y).id = y.id) :
    (s.modAcc id f).Only id (f x) := by
  refine ⟨State.acc?_modAcc_same f hf h.1, fun y hy hid => ?_⟩
  obtain ⟨z, hz, rfl⟩ := List.mem_map.mp hy
  by_cases hzi : z.id = id
  · rw [if_pos hzi, h.2 z hz hzi]
  · rw [if_neg hzi] at hid
    exact absurd hid hzi

theorem State.Only.answer {s : State} {id : Nat} {x : Access} (h : s.Only id x) (ans : Answer) :
    ∃ y, (s.answer id ans).Only id y ∧ y.stage = .answering ∧ y.ans = ans :=
  ⟨_, State.Only.congr (h.modAcc (fun x => { x with
    stage := .answering, ans := ans, binds := if isAcquire x.op then s.bindsOf x.ctx x.va else [] }) fun _ => rfl) rfl, rfl, rfl⟩

/-- An access that is answered stays so when the next waiter of a RING is performed. -/
theorem State.Only.ringKick {s : State} {id : Nat} {y : Access} {ans : Answer} (h : s.Only id y) (hs : y.stage = .answering)
    (ha : y.ans = ans) (pa : Nat) (pops : Bool) : answered (s.ringKick pa pops) id ans := by
  unfold State.ringKick
  split
  · rename_i w hw
    have hm := List.mem_of_find?_eq_some hw
    obtain ⟨hmem, hc⟩ := List.mem_filter.mp hm
    have hst : w.stage = .waiting := by
      simp only [Bool.and_eq_true, decide_eq_true_eq] at hc
      exact hc.1.1.1
    have hne : id ≠ w.id := by
      intro e
      rw [h.2 w hmem e.symm, hs] at hst
      simp at hst
    exact ⟨y, (State.acc?_modAcc_other (s := s) (fun x => { x with stage := .sent }) (fun _ => rfl) hne).trans h.1, hs, ha⟩
  · exact ⟨y, h.1, hs, ha⟩

theorem State.ringKick_keeps (s : State) (pa : Nat) (pops : Bool) (qa : Nat) : s.KeepsBlock (s.ringKick pa pops) qa := by
  unfold State.ringKick
  split
  · exact .ofMem qa rfl rfl rfl rfl rfl
  · exact .refl s qa

-- WAITING AT AN OBJECT

theorem State.Only.joinWait {s : State} {id : Nat} {x : Access} (h : s.Only id x) : waits (s.joinWait id) id := by
  have hx : x ∈ s.accs := List.mem_of_find?_eq_some h.1
  have hid : x.id = id := State.acc?_id h.1
  cases hy : (s.joinWait id).acc? id with
  | none =>
    have hn := List.find?_eq_none.mp hy { x with stage := .waiting, heldAt := 0, holds := false }
      (List.mem_append_right _ (List.mem_map.mpr ⟨x, List.mem_filter.mpr ⟨hx, by simp [hid]⟩, rfl⟩))
    simp [hid] at hn
  | some y =>
    refine ⟨y, hy, ?_⟩
    have hyid := State.acc?_id hy
    rcases List.mem_append.mp (List.mem_of_find?_eq_some hy) with hm | hm
    · have := (List.mem_filter.mp hm).2
      simp [hyid] at this
    · obtain ⟨z, -, rfl⟩ := List.mem_map.mp hm
      rfl

/-- Whether an access stands in the sync wait table of a die. -/
def Access.tabled (dev die : Nat) (a : Access) : Bool :=
  decide (a.stage = .waiting) && devOf a.pa == dev && homeDie (paOf a.pa) == die && !a.awaitsCell && isMemory a.op

theorem State.syncWaiting_eq (s : State) (die : Nat) : s.syncWaiting die = (s.accs.filter (Access.tabled s.dev die)).length := rfl

/-- A change of an access that leaves its place in the wait table alone leaves the count of the table. -/
theorem State.syncWaiting_modAcc (s : State) (id die : Nat) (f : Access → Access)
    (hf : ∀ y, (f y).stage = y.stage ∧ (f y).pa = y.pa ∧ (f y).op = y.op) : (s.modAcc id f).syncWaiting die = s.syncWaiting die := by
  have hd : (s.modAcc id f).dev = s.dev := rfl
  rw [State.syncWaiting_eq, State.syncWaiting_eq, hd]
  unfold State.modAcc
  rw [List.filter_map, List.length_map]
  congr 1
  refine List.filter_congr fun y _ => ?_
  obtain ⟨h1, h2, h3⟩ := hf y
  rw [Function.comp_apply]
  split
  · unfold Access.tabled Access.awaitsCell
    rw [h1, h2, h3]
  · rfl

/-- An operation whose table has room waits there. -/
theorem State.syncWait_waits {s : State} {a x : Access} (h : s.Only a.id x) (hr : s.syncWaiting (homeDie (paOf a.pa)) < 16384) :
    s.syncWait a = s.joinWait a.id ∧ waits (s.syncWait a) a.id := by
  have e : s.syncWait a = s.joinWait a.id := if_pos hr
  exact ⟨e, by rw [e]; exact h.joinWait⟩

-- THE OBJECT AND THE SLOT

/-- A live object of the access's context and kind opens, and what follows acts on it as it is stored. -/
theorem State.openObj_live {s : State} {a : Access} {ok : State → Blk → State} (kinds : Blk → List Nat) (hs : sound s a)
    (ht : (s.side (paOf a.pa)).tag = 4) (hq : s.launchObj (paOf a.pa) = false) (hc : Spec.fld s a 16 8 = a.ctx)
    (hk : (kinds (s.stored (paOf a.pa))).contains (Spec.fld s a 0 8) = true) :
    ∃ t, s.Reads t ∧ s.openObj a kinds ok = ok t (s.stored (paOf a.pa)) := by
  obtain ⟨t, hr, ho⟩ := State.readAt_readable s a.pol a.key (paOf a.pa) hs (by rw [ht]; decide)
  refine ⟨t, ho, ?_⟩
  have hchk : t.objCheck a ⟨s.stored (paOf a.pa), s.side (paOf a.pa)⟩ (kinds (s.stored (paOf a.pa))) = none := by
    unfold State.objCheck
    rw [if_neg (by simpa [tagSync] using ht), (State.Alike.reads ho).launchObj, hq]
    have hctx : Blk.fld (s.stored (paOf a.pa)) 16 8 = a.ctx := hc
    rw [if_neg (by simp [hctx])]
    exact if_pos hk
  unfold State.openObj
  rw [hr]
  dsimp only
  rw [hchk]

theorem State.lookUp_found {s : State} {a : Access} {die : Nat} {va : Word} {l : Leaf} (ok : State → Leaf → State)
    (h : tlbFind (s.die die).tlb a.ctx va = some l) : s.lookUp a die va ok = ok (s.modDie die fun d => d.addLeaf l) l := by
  unfold State.lookUp
  rw [h]

/-- The operation of a RING stays where it stands, before what comes to its object later. -/
def Access.held (cycle : Nat) (a : Access) : Access :=
  { a with heldAt := if a.heldAt = 0 then cycle else a.heldAt, holds := true }

/-- The slot of a RING has been translated: its operation is marked as one that may hold others, and its leaf is the latest. -/
def State.slotFound (s : State) (a : Access) (l : Leaf) : State :=
  (s.modAcc a.id (Access.held s.cycle)).modDie (homeDie (paOf a.pa)) fun d => d.addLeaf l

theorem State.slotFound_only {s : State} {a x : Access} (l : Leaf) (h : s.Only a.id x) :
    (s.slotFound a l).Only a.id (x.held s.cycle) := State.Only.congr (h.modAcc (Access.held s.cycle) fun _ => rfl) rfl

theorem State.slotFound_keeps (s : State) (a : Access) (l : Leaf) (pa : Nat) : s.KeepsBlock (s.slotFound a l) pa :=
  .ofMem pa rfl rfl rfl rfl rfl

theorem State.slotFound_syncWaiting (s : State) (a : Access) (l : Leaf) (die : Nat) :
    (s.slotFound a l).syncWaiting die = s.syncWaiting die :=
  State.syncWaiting_modAcc s a.id die (Access.held s.cycle) fun _ => ⟨rfl, rfl, rfl⟩

/-- The address of a slot. -/
def slotVa (obj : Blk) (idx : Nat) : Word := BitVec.ofNat 64 (Blk.fld obj 64 52 + 64 * (idx % 2 ^ Blk.fld obj 116 5))

/-- A slot whose leaf the die TLB holds, that may be used and lies on the object's die, is used. -/
theorem State.ringSlot_reached {s : State} {a : Access} {obj : Blk} {idx : Nat} {p : Perm} {l : Leaf}
    (ok : State → Nat → Leaf → State) (haux : a.aux = 0)
    (hf : tlbFind (s.die (homeDie (paOf a.pa))).tlb a.ctx (slotVa obj idx) = some l)
    (hc : s.leafCheck a.ctx l (slotVa obj idx) p = none) (hd : devOf (l.addr (slotVa obj idx)) = s.dev)
    (hh : homeDie (paOf (l.addr (slotVa obj idx))) = homeDie (paOf a.pa)) :
    s.ringSlot a obj idx p ok = ok (s.slotFound a l) (paOf (l.addr (slotVa obj idx))) l := by
  have hc' : ((s.modAcc a.id (Access.held s.cycle)).modDie (homeDie (paOf a.pa)) fun d => d.addLeaf l).leafCheck a.ctx l
      (slotVa obj idx) p = none := hc
  unfold slotVa at hc' hd hh
  unfold State.ringSlot
  rw [if_neg (by rw [haux]; decide)]
  refine (State.lookUp_found (s := s.modAcc a.id (Access.held s.cycle)) (a := a.held s.cycle) _ hf).trans ?_
  dsimp only
  rw [hc']
  exact if_neg (by simp [hd, hh])

-- RELEASING AND WRITING THE OBJECT

theorem State.relActs_work (s : State) (a : Access) (sc : Nat) : s.CacheWork (s.relActs a sc) := (State.relActs_aside s a sc 0).1

theorem State.objPut_holds (s : State) (pa pos w x : Nat) (h : s.memWf) :
    (s.objPut pa pos w x).Holds pa ⟨Blk.put (s.stored pa) pos w x, ⟨0x00, 127, tagSync⟩⟩ := State.rewrite_holds _ _ _ _ h

theorem State.objPut_work (s : State) (pa pos w x : Nat) : s.CacheWork (s.objPut pa pos w x) := State.rewrite_work ..

theorem State.objWrite_holds (s : State) (a : Access) (b : Blk) (h : s.memWf) :
    (s.objWrite a b).Holds (paOf a.pa) ⟨b, ⟨0x00, 127, tagSync⟩⟩ := State.putAt_holds _ _ _ _ _ h

theorem State.released_work (s : State) (a : Access) (b : Blk) : s.CacheWork (s.released a b) :=
  (State.relActs_work ..).trans (State.putAt_work ..)

theorem State.released_holds (s : State) (a : Access) (b : Blk) (h : s.memWf) :
    (s.released a b).Holds (paOf a.pa) ⟨Blk.put b 32 32 (Blk.fld b 32 32 + 1), ⟨0x00, 127, tagSync⟩⟩ :=
  State.objWrite_holds _ _ _ ((State.relActs_work ..).wf h)

-- PUSHING

/-- What a store writes of a pair: a scale of 127 with an unscaled format. -/
theorem written_eq (p : Pair) (u : Bool) (h : ∀ f, fmtOf p.fmt.toNat = some f → u = !f.scaled) (h0 : fmtOf p.fmt.toNat = none → u = false) :
    written p = ⟨p.fmt, if u then 127 else p.scale⟩ := by
  unfold written Fmt.of
  cases hf : fmtOf p.fmt.toNat with
  | none => rw [h0 hf]; rfl
  | some f => rw [h f hf]; cases hs : f.scaled <;> simp [hs]

/-- What an RPUSH does with its slot. -/
def State.pushAt (s : State) (a : Access) (nb : Bool) (obj : Blk) (slot : Nat) (l : Leaf) : State :=
  if (Blk.fld obj 128 32 + 2 ^ 32 - Blk.fld obj 160 32) % 2 ^ 32 = 2 ^ Blk.fld obj 116 5 then
    if nb then s.answer a.id ⟨none, none, some false, none⟩ else s.syncWait a
  else
    let s1 := s.released a obj
    let q := l.pair (written a.data.pair)
    let b : Block := match (s.actor a.actor).item.bind (·.record) with
      | some r => poisoned r
      | none => ⟨a.data.val, ⟨q.fmt, q.scale, tagPlain⟩⟩
    let s2 := ((s1.putAt l.objPol l.key slot b).objPut (paOf a.pa) 128 32 (Blk.fld obj 128 32 + 1)).answer a.id
      ⟨none, none, some true, none⟩
    s2.ringKick (paOf a.pa) true

theorem State.push_eq (s : State) (a : Access) (nb : Bool) : s.push a nb =
    s.openObj a (fun _ => [kRing]) fun s obj => s.ringSlot a obj (Blk.fld obj 128 32) .store fun s slot l => s.pushAt a nb obj slot l :=
  rfl

/-- The block that an RPUSH leaves in its slot: the item's record when it is poisoned. -/
def Access.pushes (a : Access) (l : Leaf) (item : Option Item) : Block :=
  match item.bind (·.record) with
  | some r => poisoned r
  | none => ⟨a.data.val, ⟨(l.pair (written a.data.pair)).fmt, (l.pair (written a.data.pair)).scale, tagPlain⟩⟩

theorem Access.pushes_whole {a : Access} (l : Leaf) {item : Option Item} (h : ∀ i, item = some i → i.record = none) :
    a.pushes l item = ⟨a.data.val, ⟨(l.pair (written a.data.pair)).fmt, (l.pair (written a.data.pair)).scale, tagPlain⟩⟩ := by
  have hrec : item.bind (·.record) = none := by
    cases item with
    | none => rfl
    | some i => exact h i rfl
  unfold Access.pushes
  rw [hrec]

theorem Access.pushes_poisoned {a : Access} (l : Leaf) {item : Option Item} {i : Item} {r : BitVec 256} (h : item = some i)
    (hr : i.record = some r) : a.pushes l item = poisoned r := by
  unfold Access.pushes
  rw [h, Option.bind_some, hr]

/-- The object after an RPUSH. -/
def pushedObj (obj : Blk) : Blk := Blk.put (Blk.put obj 32 32 (Blk.fld obj 32 32 + 1)) 128 32 (Blk.fld obj 128 32 + 1)

theorem State.pushAt_room {s : State} {a x : Access} {obj : Blk} {slot : Nat} {l : Leaf} (nb : Bool) (hx : s.Only a.id x)
    (hw : s.memWf) (hne : slot / 64 ≠ paOf a.pa / 64)
    (hr : (Blk.fld obj 128 32 + 2 ^ 32 - Blk.fld obj 160 32) % 2 ^ 32 ≠ 2 ^ Blk.fld obj 116 5) :
    answered (s.pushAt a nb obj slot l) a.id (flag true) ∧
      (s.pushAt a nb obj slot l).stored (paOf a.pa) = pushedObj obj ∧
      (s.pushAt a nb obj slot l).Holds slot (a.pushes l (s.actor a.actor).item) := by
  obtain ⟨b, hb⟩ : ∃ b, b = a.pushes l (s.actor a.actor).item := ⟨_, rfl⟩
  obtain ⟨t, ht⟩ : ∃ t, t = (s.released a obj).putAt l.objPol l.key slot b := ⟨_, rfl⟩
  have he : s.pushAt a nb obj slot l = ((t.objPut (paOf a.pa) 128 32 (Blk.fld obj 128 32 + 1)).answer a.id
      ⟨none, none, some true, none⟩).ringKick (paOf a.pa) true := by
    rw [ht, hb]
    exact if_neg hr
  have hrw := (State.released_work s a obj).wf hw
  have hwork : s.CacheWork t := by rw [ht]; exact (State.released_work ..).trans (State.putAt_work ..)
  have hslot : t.Holds slot b := by rw [ht]; exact State.putAt_holds _ _ _ _ _ hrw
  have hobj : t.stored (paOf a.pa) = Blk.put obj 32 32 (Blk.fld obj 32 32 + 1) := by
    rw [ht]
    exact ((State.KeepsBlock.putAt _ _ _ slot (paOf a.pa) b hrw hne).holds (State.released_holds s a obj hw)).stored
  have hput := State.objPut_holds t (paOf a.pa) 128 32 (Blk.fld obj 128 32 + 1) (hwork.wf hw)
  rw [hobj] at hput
  have hpk : t.KeepsBlock (t.objPut (paOf a.pa) 128 32 (Blk.fld obj 128 32 + 1)) slot :=
    State.KeepsBlock.rewrite _ _ _ _ _ (hwork.wf hw) (Ne.symm hne)
  have hend (pa : Nat) : (t.objPut (paOf a.pa) 128 32 (Blk.fld obj 128 32 + 1)).KeepsBlock (s.pushAt a nb obj slot l) pa := by
    rw [he]
    exact (State.answer_keeps ..).trans (State.ringKick_keeps ..)
  obtain ⟨y, hy, hst, hans⟩ := (State.Only.congr hx (hwork.trans (State.objPut_work t (paOf a.pa) 128 32 _)).accs).answer
    (flag true)
  refine ⟨?_, ((hend _).holds hput).stored, ?_⟩
  · rw [he]
    exact hy.ringKick hst hans _ _
  · rw [← hb]
    exact (hend slot).holds (hpk.holds hslot)

theorem State.pushAt_full_nb {s : State} {a x : Access} {obj : Blk} (slot : Nat) (l : Leaf) (hx : s.Only a.id x)
    (hr : (Blk.fld obj 128 32 + 2 ^ 32 - Blk.fld obj 160 32) % 2 ^ 32 = 2 ^ Blk.fld obj 116 5) :
    answered (s.pushAt a true obj slot l) a.id (flag false) ∧ (s.pushAt a true obj slot l).mem = s.mem := by
  have e : s.pushAt a true obj slot l = s.answer a.id (flag false) := (if_pos hr).trans (if_pos rfl)
  rw [e]
  exact ⟨State.answer_answered _ hx.1, State.answer_mem ..⟩

theorem State.pushAt_full {s : State} {a x : Access} {obj : Blk} (slot : Nat) (l : Leaf) (hx : s.Only a.id x)
    (hroom : s.syncWaiting (homeDie (paOf a.pa)) < 16384)
    (hr : (Blk.fld obj 128 32 + 2 ^ 32 - Blk.fld obj 160 32) % 2 ^ 32 = 2 ^ Blk.fld obj 116 5) :
    waits (s.pushAt a false obj slot l) a.id ∧ (s.pushAt a false obj slot l).mem = s.mem := by
  obtain ⟨e1, hw⟩ := State.syncWait_waits hx hroom
  have e : s.pushAt a false obj slot l = s.syncWait a := (if_pos hr).trans (if_neg (by decide))
  rw [e]
  exact ⟨hw, by rw [e1]; rfl⟩

/-- The fields of the object after an RPUSH. -/
theorem pushedObj_fields (obj : Blk) : Blk.fld (pushedObj obj) 128 32 = (Blk.fld obj 128 32 + 1) % 2 ^ 32 ∧
    Blk.fld (pushedObj obj) 160 32 = Blk.fld obj 160 32 ∧ Blk.fld (pushedObj obj) 32 32 = (Blk.fld obj 32 32 + 1) % 2 ^ 32 := by
  unfold pushedObj
  refine ⟨Blk.fld_put_same _ _ _ _ (by decide), ?_, ?_⟩
  · rw [Blk.fld_put_other _ _ _ _ _ _ (by decide) (Or.inr (by decide)),
      Blk.fld_put_other _ _ _ _ _ _ (by decide) (Or.inr (by decide))]
  · rw [Blk.fld_put_other _ _ _ _ _ _ (by decide) (Or.inl (by decide)), Blk.fld_put_same _ _ _ _ (by decide)]

-- POPPING

/-- What an RPOP does with its slot. -/
def State.popAt (s : State) (a : Access) (obj : Blk) (slot : Nat) (l : Leaf) : State :=
  let (s1, b) := s.readAt l.objPol l.key slot
  let s2 := s1.objWrite a (Blk.put obj 160 32 (Blk.fld obj 160 32 + 1))
  let ans : Answer := match b with
    | none => ⟨none, some ⟨0x05, Pair.raw⟩, some false, none⟩
    | some b => ⟨none, some ⟨b.data, l.pair ⟨b.side.fmt, b.side.scale⟩⟩, some (decide (b.side.tag ≠ tagPoisoned)), none⟩
  (s2.answer a.id ans).ringKick (paOf a.pa) false

/-- What an RPOP does with its object. -/
def State.popOn (s : State) (a : Access) (nb : Bool) (obj : Blk) : State :=
  if Blk.fld obj 128 32 = Blk.fld obj 160 32 then
    if nb then (s.modAcc a.id fun x => { x with noAcq := true }).answer a.id ⟨none, some VReg.zero, some false, none⟩
    else s.syncWait a
  else s.ringSlot a obj (Blk.fld obj 160 32) .load fun s slot l => s.popAt a obj slot l

theorem State.pop_eq (s : State) (a : Access) (nb : Bool) :
    s.pop a nb = s.openObj a (fun _ => [kRing]) fun s obj => s.popOn a nb obj := rfl

theorem State.popOn_empty_nb {s : State} {a x : Access} {obj : Blk} (hx : s.Only a.id x)
    (hr : Blk.fld obj 128 32 = Blk.fld obj 160 32) :
    answered (s.popOn a true obj) a.id ⟨none, some nil, some false, none⟩ ∧ (s.popOn a true obj).mem = s.mem := by
  have e : s.popOn a true obj = (s.modAcc a.id fun x => { x with noAcq := true }).answer a.id ⟨none, some nil, some false, none⟩ :=
    (if_pos hr).trans (if_pos rfl)
  rw [e]
  exact ⟨State.answer_answered _ (hx.modAcc (fun x => { x with noAcq := true }) fun _ => rfl).1, State.answer_mem ..⟩

theorem State.popOn_empty {s : State} {a x : Access} {obj : Blk} (hx : s.Only a.id x)
    (hroom : s.syncWaiting (homeDie (paOf a.pa)) < 16384) (hr : Blk.fld obj 128 32 = Blk.fld obj 160 32) :
    waits (s.popOn a false obj) a.id ∧ (s.popOn a false obj).mem = s.mem := by
  obtain ⟨e1, hw⟩ := State.syncWait_waits hx hroom
  have e : s.popOn a false obj = s.syncWait a := (if_pos hr).trans (if_neg (by decide))
  rw [e]
  exact ⟨hw, by rw [e1]; rfl⟩

theorem State.popAt_reads {s : State} {a x : Access} {obj : Blk} {slot : Nat} {l : Leaf} (hx : s.Only a.id x) (hw : s.memWf)
    (hr : readableAt s l.key slot) (ht : (s.side slot).tag.toNat < 6) :
    answered (s.popAt a obj slot l) a.id ⟨none, some ⟨s.stored slot, l.pair ⟨(s.side slot).fmt, (s.side slot).scale⟩⟩,
        some (decide ((s.side slot).tag ≠ tagPoisoned)), none⟩ ∧
      (s.popAt a obj slot l).stored (paOf a.pa) = Blk.put obj 160 32 (Blk.fld obj 160 32 + 1) := by
  obtain ⟨t, hread, ho⟩ := State.readAt_readable s l.objPol l.key slot hr ht
  obtain ⟨ans, hans⟩ : ∃ ans : Answer, ans = ⟨none, some ⟨s.stored slot, l.pair ⟨(s.side slot).fmt, (s.side slot).scale⟩⟩,
        some (decide ((s.side slot).tag ≠ tagPoisoned)), none⟩ := ⟨_, rfl⟩
  have he : s.popAt a obj slot l = ((t.objWrite a (Blk.put obj 160 32 (Blk.fld obj 160 32 + 1))).answer a.id ans).ringKick
      (paOf a.pa) false := by
    unfold State.popAt
    rw [hread, hans]
  obtain ⟨y, hy, hst, ha⟩ := (State.Only.congr hx
    ((State.Alike.reads ho).trans (.work (State.putAt_work t a.pol a.key (paOf a.pa) ⟨Blk.put obj 160 32 (Blk.fld obj 160 32 + 1),
      ⟨0x00, 127, tagSync⟩⟩))).accs).answer ans
  have hh := State.objWrite_holds t a (Blk.put obj 160 32 (Blk.fld obj 160 32 + 1)) (ho.memWf hw)
  rw [← hans, he]
  exact ⟨hy.ringKick hst ha _ _, (((State.answer_keeps ..).trans (State.ringKick_keeps ..)).holds hh).stored⟩

-- A RING AT ITS HOME

/-- The RING of an access at home: the state in which its operation goes on, with the object as it is stored. -/
theorem exec_ring {s : State} {a : Access} {go : State → Blk → State} (hat : atHome s a) (hobj : object s a 5)
    (hop : ∀ d s1 s2 w, a.op ≠ .csusp d s1 s2 w) (hm : isMemory a.op = true) (ha : isAtomic a.op = false)
    (hgo : ∀ u : State, u.homeLocal a = u.openObj a (fun _ => [kRing]) go) :
    ∃ t, s.Alike t ∧ t.mem = s.mem ∧ (∀ pa, s.KeepsBlock t pa) ∧ t.Only a.id a ∧
      exec (.homeAccess a.id) s = .next (go t (s.stored (paOf a.pa))) := by
  obtain ⟨hs, hl, ht, hq, hc, hk⟩ := hobj
  have hr := State.arrived_ready hop hl hat.2.2.2.2.2
  have hkp := hr.keeps (paOf a.pa)
  obtain ⟨t, ho, he⟩ := State.openObj_live (s := s.arrived a) (ok := go) (fun _ => [kRing]) (hr.readable hs) (by rw [hkp.side]; exact ht)
    (by rw [hr.alike.launchObj]; exact hq) (by unfold Spec.fld; rw [hkp.stored]; exact hc)
    (by unfold Spec.fld at hk ⊢; rw [hkp.stored, hk]; decide)
  refine ⟨t, hr.alike.trans (.reads ho), ho.mem.trans hr.mem, fun pa => (hr.keeps pa).trans (ho.keeps pa), ?_, ?_⟩
  · exact State.Only.congr ⟨hat.1, hat.2.1⟩ ((State.Alike.reads ho).accs.trans hr.alike.accs)
  · rw [exec_homeAccess hat hm (by simp [ha]), hgo, he, hkp.stored]

end Sys2Proof.Machine
end

section
open Sys2Proof Sys2Proof.Machine Sys2Proof.Spec

/-- Settles O25: the object is opened, then its slot translated, and then the two blocks are written. -/
theorem rings : Obligations.Rings := by
  intro s a l sc nb pn d s1 s2 w hat hu hobj haux size prod cons held va slot reached room kept unscaled pair
  have hreach (t : State) (k : Nat) (p : Perm) (hk : s.Alike t) (h : reached k p) (ok : State → Nat → Leaf → State) :
      t.ringSlot a (s.stored (paOf a.pa)) k p ok = ok (t.slotFound a l) (slot k) l := by
    obtain ⟨h1, h2, h3, h4, -⟩ := h
    exact State.ringSlot_reached ok haux (by rw [hk.tlb]; exact h1) (by rw [hk.leafCheck]; exact h2) (by rw [hk.dev]; exact h3) h4
  have hsync (t : State) (hk : s.Alike t) : t.syncWaiting (homeDie (paOf a.pa)) = s.syncWaiting (homeDie (paOf a.pa)) := by
    rw [State.syncWaiting_eq, State.syncWaiting_eq, hk.accs, hk.dev]
  refine ⟨fun hop hre => ?_, fun hop => ?_⟩
  · obtain ⟨t, hk, hmem, hkeep, honly, hx⟩ := exec_ring (go := fun u obj => u.ringSlot a obj (Blk.fld obj 128 32) .store
      fun u slot l => u.pushAt a nb obj slot l) hat hobj (by simp [hop]) (by rw [hop]; rfl) (by rw [hop]; rfl)
      fun u => by unfold State.homeLocal; rw [hop]; exact State.push_eq u a nb
    have hex := hx.trans (congrArg Host.Outcome.next (hreach t prod .store hk hre _))
    have hv := State.slotFound_only l honly
    have hvm : (t.slotFound a l).mem = s.mem := hmem
    have hvw : (t.slotFound a l).memWf := hk.wf hat.2.2.2.2.2
    have hva : (t.slotFound a l).actor a.actor = s.actor a.actor := (State.actor_congr hk.actors a.actor)
    have hvs := (State.slotFound_syncWaiting t a l (homeDie (paOf a.pa))).trans (hsync t hk)
    generalize t.slotFound a l = v at hex hv hvm hvw hva hvs
    obtain ⟨f1, f2, f3⟩ := pushedObj_fields (s.stored (paOf a.pa))
    refine ⟨fun hf hnb => ?_, fun hf hnb hroom => ?_, fun hf hi => ?_, fun i r hf hi hr => ?_⟩
    · subst hnb
      obtain ⟨h1, h2⟩ := State.pushAt_full_nb (slot prod) l hv hf
      exact ⟨_, hex, h1, by unfold Spec.fld; rw [State.stored_of_mem (h2.trans hvm)]; rfl⟩
    · subst hnb
      obtain ⟨h1, h2⟩ := State.pushAt_full (slot prod) l hv (by rw [hvs]; exact hroom) hf
      exact ⟨_, hex, h1, by unfold Spec.fld; rw [State.stored_of_mem (h2.trans hvm)]; rfl⟩
    · obtain ⟨h1, h2, h3⟩ := State.pushAt_room (l := l) nb hv hvw hre.2.2.2.2 hf
      have hwr : written a.data.pair = ⟨a.data.pair.fmt, if unscaled then 127 else a.data.pair.scale⟩ := by
        refine written_eq _ _ (fun f hf => ?_) fun hf => ?_ <;> dsimp only [unscaled] <;> rw [hf]
      rw [hva, Access.pushes_whole l hi, hwr] at h3
      unfold HomeDoes Spec.fld
      exact ⟨_, hex, h1, by rw [h2, f1]; rfl, by rw [h2, f2]; rfl, by rw [h2, f3], h3.stored, h3.side⟩
    · obtain ⟨h1, h2, h3⟩ := State.pushAt_room (l := l) nb hv hvw hre.2.2.2.2 hf
      rw [hva, Access.pushes_poisoned l hi hr] at h3
      unfold HomeDoes Spec.fld
      exact ⟨_, hex, h1, by rw [h2, f1]; rfl, h3.stored, h3.side⟩
  · obtain ⟨t, hk, hmem, hkeep, honly, hx⟩ := exec_ring (go := fun u obj => u.popOn a nb obj) hat hobj (by simp [hop])
      (by rw [hop]; rfl) (by rw [hop]; rfl) fun u => by unfold State.homeLocal; rw [hop]; exact State.pop_eq u a nb
    refine ⟨fun hf hnb => ?_, fun hf hnb hroom => ?_, fun hf hre hr ht => ?_⟩
    · subst hnb
      obtain ⟨h1, h2⟩ := State.popOn_empty_nb honly hf
      exact ⟨_, hx, h1, h2.trans hmem⟩
    · subst hnb
      obtain ⟨h1, h2⟩ := State.popOn_empty honly (by rw [hsync t hk]; exact hroom) hf
      exact ⟨_, hx, h1, h2.trans hmem⟩
    · have hex := hx.trans (congrArg Host.Outcome.next ((if_neg hf).trans (hreach t cons .load hk hre _)))
      have hks := (hkeep (slot cons)).trans (State.slotFound_keeps t a l (slot cons))
      obtain ⟨h1, h2⟩ := State.popAt_reads (s := t.slotFound a l) (a := a) (obj := s.stored (paOf a.pa)) (State.slotFound_only l honly)
        (hk.wf hat.2.2.2.2.2) (hks.readable hk.keyGen hr) (by rw [hks.side]; exact ht)
      rw [hks.stored, hks.side] at h1
      unfold HomeDoes Spec.fld
      refine ⟨_, hex, ?_, ?_, ?_⟩
      · rw [h2, Blk.fld_put_same _ _ _ _ (by decide)]
        rfl
      · rw [h2, Blk.fld_put_other _ _ _ _ _ _ (by decide) (Or.inl (by decide))]
        rfl
      · have hb : ((s.side (slot cons)).tag != 3) = decide ((s.side (slot cons)).tag ≠ tagPoisoned) :=
          Bool.eq_iff_iff.mpr (bne_iff_ne.trans decide_eq_true_iff.symm)
        rw [hb]
        exact h1

end

section
/-! SUPPORT. Trap records: the first that finds room is written, and one that waits too long is lost. -/

namespace Sys2Proof.Machine

theorem State.firstTrap_head {s s1 : State} {x : Trap} (r kept : List Trap) (hk : (kept.any fun k => k.ctx == x.ctx) = false)
    (h : s.writeTrap x = some s1) : s.firstTrap (x :: r) kept = some (s1, kept ++ r) := by
  rw [State.firstTrap, if_neg (by simp [hk]), h]

theorem State.firstTrap_skip {s : State} {x : Trap} (r kept : List Trap) (h : s.writeTrap x = none) :
    s.firstTrap (x :: r) kept = s.firstTrap r (kept ++ [x]) := by
  rw [State.firstTrap]
  split
  · rfl
  · rw [h]

/-- The test of a record that is dropped: its ring has had no room for long, and does not wait for a page (R406). -/
def State.overdue (s : State) (t : Trap) : Bool :=
  decide (t.since + Config.ringStall ≤ s.cycle) && (decide (t.since + Config.migrationCycles ≤ s.cycle) || !s.ringMigrates t.ctx)

theorem exec_ringStall_none {s : State} (h : ∀ t ∈ s.traps, s.overdue t = false) : exec .ringStallTimeout s = .next s := by
  have hf : s.traps.find? s.overdue = none := List.find?_eq_none.mpr fun t ht => by simp [h t ht]
  unfold State.overdue at hf
  refine congrArg Host.Outcome.next ?_
  rw [hf]

theorem exec_ringStall_head {s : State} {x : Trap} {r : List Trap} (hs : s.traps = x :: r) (h : s.overdue x = true) :
    exec .ringStallTimeout s = .next { s.loseTrap x with traps := r } := by
  have hf : s.traps.find? s.overdue = some x := by rw [hs]; exact List.find?_cons_of_pos h
  unfold State.overdue at hf
  refine congrArg Host.Outcome.next ?_
  rw [hf]
  dsimp only
  rw [hs, List.erase_cons_head]

/-- The control block of a ring that has lost a record. -/
def lostBlk (b : Blk) : Blk :=
  Blk.put (Blk.put b 128 31 (if Blk.fld b 128 31 = 2 ^ 31 - 1 then Blk.fld b 128 31 else Blk.fld b 128 31 + 1)) 159 1 1

theorem lostBlk_fields (b : Blk) :
    Blk.fld (lostBlk b) 128 31 = (if Blk.fld b 128 31 = 2 ^ 31 - 1 then Blk.fld b 128 31 else Blk.fld b 128 31 + 1) ∧
      Blk.fld (lostBlk b) 159 1 = 1 ∧ Blk.fld (lostBlk b) 0 128 = Blk.fld b 0 128 := by
  have hn : Blk.fld b 128 31 < 2 ^ 31 := Nat.mod_lt _ (by decide)
  refine ⟨?_, ?_, ?_⟩
  · rw [lostBlk, Blk.fld_put_other _ _ _ _ _ _ (by decide) (Or.inl (by decide)), Blk.fld_put_same _ _ _ _ (by decide),
      Nat.mod_eq_of_lt (by split <;> omega)]
  · exact Blk.fld_put_same _ _ _ _ (by decide)
  · rw [lostBlk, Blk.fld_put_other _ _ _ _ _ _ (by decide) (Or.inl (by decide)),
      Blk.fld_put_other _ _ _ _ _ _ (by decide) (Or.inl (by decide))]

theorem State.loseTrap_ctl {s s1 : State} {x : Trap} {c : Ctx} {ctl : Nat} {l : Leaf} {b : Block} (hc : s.ctx? x.ctx = some c)
    (hr : s.ringCtl x.ctx c.ringBase = (s1, some (ctl, l, b))) (hw : s1.memWf) :
    (s.loseTrap x).Holds ctl { b with data := lostBlk b.data } := by
  have e : s.loseTrap x = s1.putAt l.objPol l.key ctl { b with data := lostBlk b.data } := by
    unfold State.loseTrap
    rw [hc]
    dsimp only
    rw [hr]
    rfl
  rw [e]
  exact State.putAt_holds _ _ _ _ _ hw

theorem exec_trapRecordWrite_some {s s1 : State} {ts : List Trap} (h : s.firstTrap s.traps [] = some (s1, ts)) :
    exec .trapRecordWrite s = .next { s1 with traps := ts } := by
  refine congrArg Host.Outcome.next ?_
  rw [h]

theorem exec_trapRecordWrite_none {s : State} (h : s.firstTrap s.traps [] = none) : exec .trapRecordWrite s = .next s := by
  refine congrArg Host.Outcome.next ?_
  rw [h]

/-- The last clause of O54. -/
theorem trapRings (s : State) : (s.traps = [] → exec .trapRecordWrite s = .next s ∧ exec .ringStallTimeout s = .next s) ∧
    (∀ x r s1, s.traps = x :: r → s.writeTrap x = some s1 → exec .trapRecordWrite s = .next { s1 with traps := r }) ∧
    (∀ x, s.traps = [x] → s.writeTrap x = none → exec .trapRecordWrite s = .next s) ∧
    (∀ x y r s1, s.traps = x :: y :: r → s.writeTrap x = none → s.writeTrap y = some s1 → x.ctx ≠ y.ctx →
      exec .trapRecordWrite s = .next { s1 with traps := x :: r }) ∧
    ((∀ x ∈ s.traps, s.cycle < x.since + 65536) → exec .ringStallTimeout s = .next s) ∧
    (∀ x r, s.traps = x :: r → x.since + 65536 ≤ s.cycle → s.ringMigrates x.ctx = false ∨ x.since + 131072 ≤ s.cycle →
      ∃ t, exec .ringStallTimeout s = .next t ∧ t.traps = r ∧
      ∀ c s1 ctl l b, s.ctx? x.ctx = some c → s.ringCtl x.ctx c.ringBase = (s1, some (ctl, l, b)) → s1.memWf →
        let n := Blk.fld b.data 128 31
        Blk.fld (t.stored ctl) 128 31 = (if n = 2 ^ 31 - 1 then n else n + 1) ∧ Blk.fld (t.stored ctl) 159 1 = 1 ∧
        Blk.fld (t.stored ctl) 0 128 = Blk.fld b.data 0 128) ∧
    (∀ x, s.traps = [x] → s.cycle < x.since + 131072 → s.ringMigrates x.ctx = true → exec .ringStallTimeout s = .next s) := by
  have hstall : Config.ringStall = 65536 := rfl
  have hmig : Config.migrationCycles = 131072 := rfl
  refine ⟨fun h => ⟨?_, ?_⟩, fun x r s1 h hw => ?_, fun x h hw => ?_, fun x y r s1 h hx hy hne => ?_, fun h => ?_,
    fun x r h h1 h2 => ?_, fun x h h1 h2 => ?_⟩
  · exact exec_trapRecordWrite_none (by rw [h]; rfl)
  · exact exec_ringStall_none (by simp [h])
  · exact exec_trapRecordWrite_some (by rw [h]; exact State.firstTrap_head r [] rfl hw)
  · exact exec_trapRecordWrite_none (by rw [h]; exact State.firstTrap_skip [] [] hw)
  · exact exec_trapRecordWrite_some (by rw [h, State.firstTrap_skip _ _ hx]; exact State.firstTrap_head r [x] (by simp [hne]) hy)
  · exact exec_ringStall_none fun t ht => by
      unfold State.overdue
      rw [hstall, decide_eq_false (by have := h t ht; omega), Bool.false_and]
  · have ho : s.overdue x = true := by
      unfold State.overdue
      rw [hstall, hmig, decide_eq_true h1, Bool.true_and, Bool.or_eq_true]
      rcases h2 with h2 | h2
      · exact Or.inr (by rw [h2]; rfl)
      · exact Or.inl (decide_eq_true h2)
    refine ⟨_, exec_ringStall_head h ho, rfl, fun c s1 ctl l b hc hr hw => ?_⟩
    have hh := (State.loseTrap_ctl hc hr hw).stored
    have ht : ({ s.loseTrap x with traps := r } : State).stored ctl = lostBlk b.data := hh
    rw [ht]
    exact lostBlk_fields b.data
  · refine exec_ringStall_none fun t ht => ?_
    rw [h, List.mem_singleton] at ht
    subst ht
    unfold State.overdue
    have hc : ¬ t.since + Config.migrationCycles ≤ s.cycle := by omega
    rw [h2, decide_eq_false hc]
    exact Bool.and_false _

end Sys2Proof.Machine
end

section
/-! SUPPORT. The withdrawal of a retired participant from its barrier. -/

namespace Sys2Proof.Machine

theorem State.rewrite_get (s : State) (key pa x : Nat) (b : Block) (h : s.memWf) (hx : x / 64 ≠ pa / 64) :
    Memory.get (s.rewrite key pa b).mem x = Memory.get s.mem x := by
  obtain ⟨l, e⟩ := s.rewrite_eq key pa b
  have hs := State.storeMem_get s key pa x b h hx
  rw [e]
  generalize s.storeMem key pa b = t at *
  exact hs

/-- From one state to another only the block at an address has changed, which is now an object. -/
structure State.Rewritten (s t : State) (pa : Nat) (b : Blk) : Prop where
  stored : t.stored pa = b
  tag : (t.side pa).tag = 4
  others : ∀ x, x / 64 ≠ pa / 64 → Memory.get t.mem x = Memory.get s.mem x
  wf : t.memWf

namespace State.Rewritten

theorem objPut {s t : State} {pa : Nat} {b : Blk} (h : s.Rewritten t pa b) (pos w x : Nat) :
    s.Rewritten (t.objPut pa pos w x) pa (Blk.put b pos w x) := by
  have hh := State.objPut_holds t pa pos w x h.wf
  rw [h.stored] at hh
  exact ⟨hh.stored, by rw [hh.side]; rfl,
    fun y hy => (State.rewrite_get t _ pa y _ h.wf hy).trans (h.others y hy), (State.objPut_work t pa pos w x).wf h.wf⟩

theorem congr {s t u : State} {pa : Nat} {b : Blk} (h : s.Rewritten t pa b) (hm : u.mem = t.mem) (hs : u.sides = t.sides) :
    s.Rewritten u pa b :=
  ⟨(State.stored_of_mem hm pa).trans h.stored, by rw [State.side_of_sides hs]; exact h.tag,
    fun x hx => by rw [hm]; exact h.others x hx, by have := h.wf; unfold State.memWf at *; rwa [hm]⟩

end State.Rewritten

-- WHAT ANSWERS AND WATCHPOINTS LEAVE

/-- Steps that leave memory and its sidecars do so one after another. -/
theorem foldl_memory {α : Type} {f : State → α → State} (h : ∀ (s : State) x, (f s x).mem = s.mem ∧ (f s x).sides = s.sides)
    (xs : List α) (s : State) : (xs.foldl f s).mem = s.mem ∧ (xs.foldl f s).sides = s.sides := by
  induction xs generalizing s with
  | nil => exact ⟨rfl, rfl⟩
  | cons x xs ih =>
    obtain ⟨h1, h2⟩ := ih (f s x)
    exact ⟨h1.trans (h s x).1, h2.trans (h s x).2⟩

theorem State.modCtx_memory (s : State) (c : Nat) (f : Ctx → Ctx) : (s.modCtx c f).mem = s.mem ∧ (s.modCtx c f).sides = s.sides := by
  unfold State.modCtx
  split <;> exact ⟨rfl, rfl⟩

theorem State.watchHit_memory (s : State) (ctx pa : Nat) (o : Origin) (t : WatchTr) (x : Nat) :
    (s.watchHit ctx pa o t x).mem = s.mem ∧ (s.watchHit ctx pa o t x).sides = s.sides := by
  unfold State.watchHit
  split
  · exact ⟨rfl, rfl⟩
  · refine foldl_memory (fun s w => ?_) _ s
    split
    · dsimp only
      split
      · exact State.modCtx_memory ..
      · exact ⟨rfl, rfl⟩
    · exact ⟨rfl, rfl⟩

-- THE TEST OF A BARRIER

/-- A set covers the participants when it has a bit for each of them. -/
theorem covers_iff (x n : Nat) : Nat.land x (fullMask n) = fullMask n ↔ ∀ k < n, x.testBit k = true := by
  have hm (k : Nat) : (fullMask n).testBit k = decide (k < n) := Nat.testBit_two_pow_sub_one n k
  have hl (k : Nat) : (Nat.land x (fullMask n)).testBit k = (x.testBit k && decide (k < n)) := by
    rw [← hm]; exact Nat.testBit_and x (fullMask n) k
  constructor
  · intro h k hk
    have e := hl k
    rw [h, hm] at e
    simpa [hk] using e.symm
  · intro h
    refine Nat.eq_of_testBit_eq fun k => ?_
    rw [hl, hm]
    by_cases hk : k < n
    · simp [hk, h k hk]
    · simp [hk]

theorem covers_or_iff (a b n : Nat) :
    Nat.land (Nat.lor a b) (fullMask n) = fullMask n ↔ ∀ k < n, a.testBit k = true ∨ b.testBit k = true := by
  rw [covers_iff]
  refine forall₂_congr fun k _ => ?_
  rw [show (Nat.lor a b).testBit k = (a.testBit k || b.testBit k) from Nat.testBit_or a b k, Bool.or_eq_true]

/-- The object of a barrier whose phase completes. -/
def nextPhase (b : Blk) : Blk :=
  Blk.put (Blk.put (Blk.put (Blk.put b 96 32 (Blk.fld b 96 32 + 1)) 128 128 0) 256 128
    (Nat.lor (Blk.fld b 256 128) (Blk.fld b 384 128))) 384 128 0

theorem nextPhase_fields (b : Blk) : Blk.fld (nextPhase b) 96 32 = (Blk.fld b 96 32 + 1) % 2 ^ 32 ∧ Blk.fld (nextPhase b) 128 128 = 0 ∧
    Blk.fld (nextPhase b) 256 128 = Nat.lor (Blk.fld b 256 128) (Blk.fld b 384 128) ∧ Blk.fld (nextPhase b) 384 128 = 0 := by
  have hlt (p : Nat) : Blk.fld b p 128 < 2 ^ 128 := Nat.mod_lt _ (by decide)
  refine ⟨?_, ?_, ?_, Blk.fld_put_same _ _ _ _ (by decide)⟩
  · rw [nextPhase, Blk.fld_put_other _ _ _ _ _ _ (by decide) (Or.inl (by decide)),
      Blk.fld_put_other _ _ _ _ _ _ (by decide) (Or.inl (by decide)), Blk.fld_put_other _ _ _ _ _ _ (by decide) (Or.inl (by decide)),
      Blk.fld_put_same _ _ _ _ (by decide)]
  · rw [nextPhase, Blk.fld_put_other _ _ _ _ _ _ (by decide) (Or.inl (by decide)),
      Blk.fld_put_other _ _ _ _ _ _ (by decide) (Or.inl (by decide)), Blk.fld_put_same _ _ _ _ (by decide), Nat.zero_mod]
  · rw [nextPhase, Blk.fld_put_other _ _ _ _ _ _ (by decide) (Or.inl (by decide)), Blk.fld_put_same _ _ _ _ (by decide)]
    exact Nat.mod_eq_of_lt (Nat.or_lt_two_pow (hlt 256) (hlt 384))

/-- Every participant has arrived or is withdrawn. -/
def barrierDone (b : Blk) : Prop :=
  ∀ k < Blk.fld b 64 8, (Blk.fld b 128 128).testBit k = true ∨ (Blk.fld b 256 128).testBit k = true

theorem State.barrierTest_complete {s t : State} {pa : Nat} {b : Blk} (h : s.Rewritten t pa b) (hc : barrierDone b) :
    s.Rewritten (t.barrierTest pa).1 pa (nextPhase b) ∧ (t.barrierTest pa).2 = true := by
  have hb := h.stored
  have hif : Nat.land (Nat.lor (t.objFld pa 128 128) (t.objFld pa 256 128)) (fullMask (t.objFld pa 64 8)) = fullMask (t.objFld pa 64 8) :=
    (covers_or_iff _ _ _).mpr (by unfold State.objFld; rw [hb]; exact hc)
  unfold State.barrierTest
  dsimp only
  rw [if_pos hif]
  have h4 := (((h.objPut 96 32 (t.objFld pa 96 32 + 1)).objPut 128 128 0).objPut 256 128
    (Nat.lor (t.objFld pa 256 128) (t.objFld pa 384 128))).objPut 384 128 0
  have he : nextPhase b = Blk.put (Blk.put (Blk.put (Blk.put b 96 32 (t.objFld pa 96 32 + 1)) 128 128 0) 256 128
      (Nat.lor (t.objFld pa 256 128) (t.objFld pa 384 128))) 384 128 0 := by
    unfold State.objFld; rw [hb]; rfl
  rw [← he] at h4
  obtain ⟨hm, hs⟩ := foldl_memory (f := fun s (w : Access) => s.answer w.id (ansG (BitVec.ofNat 64 (t.objFld pa 96 32))))
    (fun _ _ => ⟨rfl, rfl⟩) _ _
  exact ⟨h4.congr hm hs, rfl⟩

theorem State.barrierTest_incomplete {t : State} {pa : Nat} {b : Blk} (hb : t.stored pa = b) (hc : ¬ barrierDone b) :
    t.barrierTest pa = (t, false) := by
  refine if_neg fun hif => hc ?_
  have hx := (covers_or_iff _ _ _).mp hif
  unfold State.objFld at hx
  rw [hb] at hx
  exact hx

-- THE WITHDRAWAL

/-- A head without an error opens, and nothing that is stored changes. -/
theorem State.openHead_intact (s : State) (pol : Pol) (pa : Nat) (h : Spec.intact s pa) (htag : (s.side pa).tag.toNat < 6) :
    ∃ t, s.openHead pol pa = (t, true) ∧ s.Reads t := by
  obtain ⟨t, ht, hr⟩ := State.readAt_intact s pol (s.keyOf 0 pa) pa h htag
  refine ⟨t, ?_, hr⟩
  unfold State.openHead
  rw [ht]
  rfl

/-- The barrier has the participant. -/
def State.hasParty (s : State) (pa i : Nat) : Prop :=
  (s.side pa).tag = 4 ∧ Blk.fld (s.stored pa) 0 8 = 4 ∧ i < Blk.fld (s.stored pa) 64 8

theorem State.Reads.hasParty {s t : State} (h : s.Reads t) (pa i : Nat) : t.hasParty pa i ↔ s.hasParty pa i := by
  unfold State.hasParty
  rw [State.stored_of_mem h.mem, State.side_of_sides h.sides]

theorem State.hasParty_guard {t : State} {pa i : Nat} :
    ((!true) = true ∨ (t.side pa).tag ≠ tagSync ∨ t.objFld pa 0 8 ≠ kBarrier ∨ t.objFld pa 64 8 ≤ i) ↔ ¬ t.hasParty pa i := by
  unfold State.hasParty State.objFld
  rw [show tagSync = 4 from rfl, show kBarrier = 4 from rfl]
  simp only [Bool.not_true, Bool.false_eq_true, false_or, not_and_or, not_lt, ne_eq]

theorem exec_withdrawal_refused {s t : State} {pa i : Nat} (h : s.openHead .uncached pa = (t, true)) (hc : ¬ t.hasParty pa i) :
    exec (.barrierWithdrawal pa i) s = .next t := by
  change execBarrierWithdrawal pa i s = _
  unfold execBarrierWithdrawal
  rw [h]
  refine congrArg Host.Outcome.next ?_
  exact if_pos (State.hasParty_guard.mpr hc)

theorem exec_withdrawal_pending {s t : State} {pa i : Nat} (h : s.openHead .uncached pa = (t, true)) (hc : t.hasParty pa i)
    (hb : (t.objFld pa 128 128).testBit i = true) :
    exec (.barrierWithdrawal pa i) s = .next (t.objPut pa 384 128 (Nat.lor (t.objFld pa 384 128) (2 ^ i))) := by
  change execBarrierWithdrawal pa i s = _
  unfold execBarrierWithdrawal
  rw [h]
  refine congrArg Host.Outcome.next ?_
  exact (if_neg fun hg => State.hasParty_guard.mp hg hc).trans (if_pos hb)

/-- The barrier with the participant withdrawn. -/
def State.without (t : State) (pa i : Nat) : State := t.objPut pa 256 128 (Nat.lor (t.objFld pa 256 128) (2 ^ i))

/-- What follows the withdrawal: the watchpoints of a phase that has completed. -/
def State.withdrew (s : State × Bool) (pa : Nat) : State :=
  if s.2 then s.1.watchHit (s.1.objFld pa 16 8) pa ⟨5, homeDie pa, 0, 0, 0, 0, 0, 0, 0, 0⟩ .flip (s.1.objFld pa 96 32) else s.1

theorem exec_withdrawal {s t : State} {pa i : Nat} (h : s.openHead .uncached pa = (t, true)) (hc : t.hasParty pa i)
    (hb : (t.objFld pa 128 128).testBit i = false) :
    exec (.barrierWithdrawal pa i) s = .next (State.withdrew ((t.without pa i).barrierTest pa) pa) := by
  change execBarrierWithdrawal pa i s = _
  unfold execBarrierWithdrawal
  rw [h]
  refine congrArg Host.Outcome.next ?_
  exact (if_neg fun hg => State.hasParty_guard.mp hg hc).trans (if_neg (by rw [hb]; decide))

/-- The object with a participant's withdrawal. -/
def withoutBlk (b : Blk) (i : Nat) : Blk := Blk.put b 256 128 (Nat.lor (Blk.fld b 256 128) (2 ^ i))

theorem withoutBlk_fields (b : Blk) (i : Nat) (hi : i < 128) :
    Blk.fld (withoutBlk b i) 64 8 = Blk.fld b 64 8 ∧ Blk.fld (withoutBlk b i) 96 32 = Blk.fld b 96 32 ∧
    Blk.fld (withoutBlk b i) 128 128 = Blk.fld b 128 128 ∧
    Blk.fld (withoutBlk b i) 256 128 = Nat.lor (Blk.fld b 256 128) (2 ^ i) ∧
    Blk.fld (withoutBlk b i) 384 128 = Blk.fld b 384 128 := by
  have hlt : Blk.fld b 256 128 < 2 ^ 128 := Nat.mod_lt _ (by decide)
  refine ⟨Blk.fld_put_other _ _ _ _ _ _ (by decide) (Or.inl (by decide)), Blk.fld_put_other _ _ _ _ _ _ (by decide) (Or.inl (by decide)),
    Blk.fld_put_other _ _ _ _ _ _ (by decide) (Or.inl (by decide)), ?_,
    Blk.fld_put_other _ _ _ _ _ _ (by decide) (Or.inr (by decide))⟩
  rw [withoutBlk, Blk.fld_put_same _ _ _ _ (by decide)]
  exact Nat.mod_eq_of_lt (Nat.or_lt_two_pow hlt (Nat.pow_lt_pow_right (by decide) hi))

/-- The object with a participant's withdrawal pending, which has arrived. -/
theorem pendingBlk_fields (b : Blk) (i : Nat) (hi : i < 128) :
    let p := Blk.put b 384 128 (Nat.lor (Blk.fld b 384 128) (2 ^ i))
    Blk.fld p 384 128 = Nat.lor (Blk.fld b 384 128) (2 ^ i) ∧ Blk.fld p 256 128 = Blk.fld b 256 128 ∧
    Blk.fld p 128 128 = Blk.fld b 128 128 ∧ Blk.fld p 96 32 = Blk.fld b 96 32 := by
  have hlt : Blk.fld b 384 128 < 2 ^ 128 := Nat.mod_lt _ (by decide)
  refine ⟨?_, Blk.fld_put_other _ _ _ _ _ _ (by decide) (Or.inl (by decide)), Blk.fld_put_other _ _ _ _ _ _ (by decide) (Or.inl (by decide)),
    Blk.fld_put_other _ _ _ _ _ _ (by decide) (Or.inl (by decide))⟩
  rw [Blk.fld_put_same _ _ _ _ (by decide)]
  exact Nat.mod_eq_of_lt (Nat.or_lt_two_pow hlt (Nat.pow_lt_pow_right (by decide) hi))

theorem State.Rewritten.withdrew_complete {s t : State} {pa : Nat} {b : Blk} (h : s.Rewritten t pa b) (hc : barrierDone b) :
    s.Rewritten (State.withdrew (t.barrierTest pa) pa) pa (nextPhase b) := by
  obtain ⟨h1, h2⟩ := State.barrierTest_complete h hc
  unfold State.withdrew
  rw [if_pos h2]
  obtain ⟨hm, hs⟩ := State.watchHit_memory (t.barrierTest pa).1 ((t.barrierTest pa).1.objFld pa 16 8) pa
    ⟨5, homeDie pa, 0, 0, 0, 0, 0, 0, 0, 0⟩ .flip ((t.barrierTest pa).1.objFld pa 96 32)
  exact h1.congr hm hs

/-- The clause of O54 on the withdrawal of a participant. -/
theorem barrierWithdrawal_spec (s : State) (pa i : Nat) (hw : s.memWf) :
    let f (t : State) (pos w : Nat) : Nat := Blk.fld (t.stored pa) pos w
    let is : Prop := Spec.intact s pa ∧ (s.side pa).tag = 4 ∧ f s 0 8 = 4 ∧ i < f s 64 8 ∧ i < 128
    let arrived := f s 128 128
    let gone := Nat.lor (f s 256 128) (2 ^ i)
    (Spec.intact s pa → (s.side pa).tag.toNat < 6 → (s.side pa).tag ≠ 4 ∨ f s 0 8 ≠ 4 ∨ f s 64 8 ≤ i →
      ∃ t, exec (.barrierWithdrawal pa i) s = .next t ∧ t.mem = s.mem ∧ t.sides = s.sides ∧ t.accs = s.accs) ∧
    (is → ∃ t, exec (.barrierWithdrawal pa i) s = .next t ∧ (t.side pa).tag = 4 ∧
      (∀ x, x / 64 ≠ pa / 64 → Memory.get t.mem x = Memory.get s.mem x) ∧
      (arrived.testBit i = true → f t 384 128 = Nat.lor (f s 384 128) (2 ^ i) ∧ f t 256 128 = f s 256 128 ∧
        f t 128 128 = arrived ∧ f t 96 32 = f s 96 32) ∧
      (arrived.testBit i = false → (∀ k < f s 64 8, arrived.testBit k = true ∨ gone.testBit k = true) →
        f t 96 32 = (f s 96 32 + 1) % 2 ^ 32 ∧ f t 128 128 = 0 ∧ f t 256 128 = Nat.lor gone (f s 384 128) ∧ f t 384 128 = 0) ∧
      (arrived.testBit i = false → (∃ k < f s 64 8, arrived.testBit k = false ∧ gone.testBit k = false) →
        f t 96 32 = f s 96 32 ∧ f t 128 128 = arrived ∧ f t 256 128 = gone ∧ f t 384 128 = f s 384 128)) := by
  intro f is arrived gone
  refine ⟨fun hi ht hc => ?_, fun ⟨hi, htag, hk, hn, hlt⟩ => ?_⟩
  · obtain ⟨t, ho, hr⟩ := s.openHead_intact .uncached pa hi ht
    have hp : ¬ t.hasParty pa i := by
      rw [hr.hasParty]
      rintro ⟨h1, h2, h3⟩
      rcases hc with h | h | h
      · exact h h1
      · exact h h2
      · exact absurd h3 (Nat.not_lt.mpr h)
    refine ⟨t, exec_withdrawal_refused ho hp, hr.mem, hr.sides, ?_⟩
    obtain ⟨⟨_, _, _, rfl⟩, -⟩ := hr
    rfl
  · obtain ⟨t, ho, hr⟩ := s.openHead_intact .uncached pa hi (by rw [htag]; decide)
    have hst : t.stored pa = s.stored pa := State.stored_of_mem hr.mem pa
    have hp : t.hasParty pa i := (hr.hasParty pa i).mpr ⟨htag, hk, hn⟩
    have h0 : s.Rewritten t pa (s.stored pa) :=
      ⟨hst, by rw [State.side_of_sides hr.sides]; exact htag, fun x _ => by rw [hr.mem], hr.memWf hw⟩
    have hfld (pos w : Nat) : t.objFld pa pos w = f s pos w := congrArg (Blk.fld · pos w) hst
    by_cases hb : arrived.testBit i = true
    · have h1 := h0.objPut 384 128 (Nat.lor (t.objFld pa 384 128) (2 ^ i))
      refine ⟨_, exec_withdrawal_pending ho hp (by rw [hfld]; exact hb), h1.tag, h1.others, fun _ => ?_, fun h => ?_, fun h => ?_⟩
      · have hs := h1.stored
        rw [hfld] at hs ⊢
        have hfin := pendingBlk_fields (s.stored pa) i hlt
        rw [← hs] at hfin
        exact hfin
      · exact absurd hb (by rw [h]; decide)
      · exact absurd hb (by rw [h]; decide)
    · have hb' : arrived.testBit i = false := by simpa using hb
      have h1 : s.Rewritten (t.without pa i) pa (withoutBlk (s.stored pa) i) := by
        have h := h0.objPut 256 128 (Nat.lor (t.objFld pa 256 128) (2 ^ i))
        rw [hfld] at h
        unfold State.without
        rw [hfld]
        exact h
      obtain ⟨w1, w2, w3, w4, w5⟩ := withoutBlk_fields (s.stored pa) i hlt
      have he := exec_withdrawal ho hp (by rw [hfld]; exact hb')
      by_cases hc : barrierDone (withoutBlk (s.stored pa) i)
      · have h2 := h1.withdrew_complete hc
        refine ⟨_, he, h2.tag, h2.others, fun h => absurd h hb, fun _ _ => ?_, fun _ ⟨k, hk, h3, h4⟩ => ?_⟩
        · have hfin := nextPhase_fields (withoutBlk (s.stored pa) i)
          rw [← h2.stored, w2, w4, w5] at hfin
          exact hfin
        · unfold barrierDone at hc
          rw [w1, w3, w4] at hc
          rcases hc k hk with h | h
          · exact absurd h (by rw [h3]; decide)
          · exact absurd h (by rw [h4]; decide)
      · have h2 : State.withdrew ((t.without pa i).barrierTest pa) pa = t.without pa i := by
          rw [State.barrierTest_incomplete h1.stored hc]; rfl
        rw [h2] at he
        refine ⟨_, he, h1.tag, h1.others, fun h => absurd h hb, fun _ h => absurd ?_ hc, fun _ _ => ?_⟩
        · unfold barrierDone
          rw [w1, w3, w4]
          exact h
        · rw [← h1.stored] at w2 w3 w4 w5
          exact ⟨w2, w3, w4, w5⟩

end Sys2Proof.Machine
end

section
/-! SUPPORT. What stays as it is when an access begins, and when the interface of a unit moves on: the registers of the tiles, the
evaluations, the streams and the jobs. -/

namespace Sys2Proof.Machine

/-- A tile but for its L1 and its TLB. -/
def Tile.withoutCaches (t : Tile) : Tile := { t with l1 := [], tlb := [] }
/-- The evaluations, the streams and the jobs of a die. -/
def Die.work (d : Die) : List EvRec × Sparse Edge × Sparse Copier := (d.recs, d.edges, d.copiers)
/-- Who made an access, for which context, at which address. -/
def Access.maker (a : Access) : Nat × Nat × Nat × Word := (a.id, a.actor, a.ctx, a.va)

-- AN ACCESS BEGINS

/-- What the beginning of an access leaves as it is. -/
structure State.Begins (s t : State) : Prop where
  maker : ∀ id, (t.acc? id).map Access.maker = (s.acc? id).map Access.maker
  nextAcc : t.nextAcc = s.nextAcc
  actors : t.actors = s.actors
  tile : ∀ k, (t.tile k).withoutCaches = (s.tile k).withoutCaches
  die : ∀ d, (t.die d).work = (s.die d).work

namespace State.Begins

theorem refl (s : State) : s.Begins s := ⟨fun _ => rfl, rfl, rfl, fun _ => rfl, fun _ => rfl⟩

theorem trans {s t u : State} (h : s.Begins t) (k : t.Begins u) : s.Begins u :=
  ⟨fun i => (k.maker i).trans (h.maker i), k.nextAcc.trans h.nextAcc, k.actors.trans h.actors, fun i => (k.tile i).trans (h.tile i),
    fun i => (k.die i).trans (h.die i)⟩

theorem work {s t : State} (h : s.CacheWork t) : s.Begins t where
  maker id := by rw [State.acc?_congr h.accs]
  nextAcc := h.nextAcc
  actors := h.actors
  tile k := by have e := congrArg Tile.withoutCaches (h.tile k); exact e
  die d := by have e := congrArg Die.work (h.die d); exact e

theorem modTile (s : State) (k : Nat) (f : Tile → Tile) (h : (f (s.tile k)).withoutCaches = (s.tile k).withoutCaches) :
    s.Begins (s.modTile k f) where
  tile j := by rw [State.tile_modTile]; split <;> simp_all
  __ := refl s

theorem modDie (s : State) (k : Nat) (f : Die → Die) (h : (f (s.die k)).work = (s.die k).work) : s.Begins (s.modDie k f) where
  die j := by rw [State.die_modDie]; split <;> simp_all
  __ := refl s

/-- A change of an access that leaves its maker. -/
theorem modAcc (s : State) (id : Nat) (f : Access → Access) (hid : ∀ x, x.id = id → (f x).id = id)
    (h : ∀ x, s.acc? id = some x → (f x).maker = x.maker) : s.Begins (s.modAcc id f) where
  maker j := by
    have hm : (s.modAcc id f).acc? j = (s.acc? j).map fun x => if x.id = id then f x else x := by
      unfold State.acc? State.modAcc
      rw [List.find?_map]
      congr 2
      funext x
      simp only [Function.comp_apply]
      split
      · rename_i e; rw [hid x e, e]
      · rfl
    rw [hm]
    cases hx : s.acc? j with
    | none => rfl
    | some x =>
      rw [Option.map_some, Option.map_some, Option.map_some]
      split
      · rename_i e
        rw [h x (by rw [← e, State.acc?_id hx]; exact hx)]
      · rfl
  __ := refl s

/-- A change of fields of an access that do not say who made it. -/
theorem update (s : State) (id : Nat) (f : Access → Access) (h : ∀ x, (f x).maker = x.maker) : s.Begins (s.modAcc id f) :=
  modAcc s id f (fun x e => (congrArg (·.1) (h x)).trans e) fun x _ => h x

theorem later (s : State) (e : Instr) : s.Begins (s.later e) := ⟨fun _ => rfl, rfl, rfl, fun _ => rfl, fun _ => rfl⟩
theorem after (s : State) (n : Nat) (e : Instr) : s.Begins (s.after n e) := ⟨fun _ => rfl, rfl, rfl, fun _ => rfl, fun _ => rfl⟩
theorem now (s : State) (e : Instr) : s.Begins (s.now e) := ⟨fun _ => rfl, rfl, rfl, fun _ => rfl, fun _ => rfl⟩

/-- An access is changed and has its event. -/
theorem updateLater (s : State) (id : Nat) (f : Access → Access) (e : Instr) (h : ∀ x, (f x).maker = x.maker) :
    s.Begins ((s.modAcc id f).later e) := (update s id f h).trans (later _ _)
theorem updateNow (s : State) (id : Nat) (f : Access → Access) (e : Instr) (h : ∀ x, (f x).maker = x.maker) :
    s.Begins ((s.modAcc id f).now e) := (update s id f h).trans (now _ _)

theorem answer (s : State) (id : Nat) (a : Answer) : s.Begins (s.answer id a) :=
  updateLater s id _ _ fun _ => rfl

theorem failAcc (s : State) (a : Access) (e : Err) (cause : BitVec 8) (detail : Nat) : s.Begins (s.failAcc a e cause detail) := answer ..

theorem keepLeaf (s : State) (a : Access) (l : Leaf) : s.Begins (s.keepLeaf a l) := by
  unfold State.keepLeaf
  split
  · exact modTile _ _ _ rfl
  · exact refl s

theorem sendAcc (s : State) (a : Access) : s.Begins (s.sendAcc a) := by
  have h : s.Begins ((s.modAcc a.id fun x => { x with stage := .sent, sentAt := s.cycle }).later (.homeAccess a.id)) :=
    updateLater _ _ _ _ fun _ => rfl
  unfold State.sendAcc
  dsimp only
  repeat' split
  · exact h
  · exact h.trans (after ..)
  · exact h.trans (after ..)
  · exact h

end State.Begins

-- WHAT THE CACHES SERVE

/-- A block that comes back to the requester, in the RDC. -/
def State.broughtRdc (s : State) (a : Access) (b : Blk) (p : Pair) : State × Blk × Pair :=
  if s.localTo a.die a.pa then (s, b, p)
  else
    match Sparse.find? (s.die a.die).rdc (lineKey a.key a.pa) with
    | some r => (s.modDie a.die fun d => { d with rdc := Sparse.set d.rdc (lineKey a.key a.pa) (r.fill b p) }, (r.fill b p).data,
        (r.fill b p).pair)
    | none => if a.cached then (s.setRdc a.die (lineKey a.key a.pa) ((CLine.fresh a.key a.ctx a.imm).fill b p), b, p) else (s, b, p)

/-- And then in the L1. -/
def broughtL1 (a : Access) (x : State × Blk × Pair) : State × Blk × Pair :=
  match x.1.l1Of a (lineKey a.key a.pa) with
  | some r => (x.1.modTile a.tile fun t => { t with l1 := Sparse.set t.l1 (lineKey a.key a.pa) (r.fill x.2.1 x.2.2) },
      (r.fill x.2.1 x.2.2).data, (r.fill x.2.1 x.2.2).pair)
  | none => (if a.cached && a.hasL1 then x.1.setL1 a.tile (lineKey a.key a.pa) ((CLine.fresh a.key a.ctx a.imm).fill x.2.1 x.2.2) else x.1,
      x.2.1, x.2.2)

theorem State.install_eq (s : State) (a : Access) (b : Block) :
    s.install a b = broughtL1 a (s.broughtRdc a b.data ⟨b.side.fmt, b.side.scale⟩) := rfl

theorem State.install_work (s : State) (a : Access) (b : Block) : s.CacheWork (s.install a b).1 := by
  have h : s.CacheWork (s.broughtRdc a b.data ⟨b.side.fmt, b.side.scale⟩).1 := by
    unfold State.broughtRdc
    split
    · exact .refl s
    · split
      · dsimp only
        exact .modDie _ _ _ rfl
      · split
        · exact State.setRdc_work ..
        · exact .refl s
  rw [State.install_eq]
  unfold broughtL1
  split
  · dsimp only
    exact h.trans (.modTile _ _ _ rfl)
  · dsimp only
    split
    · exact h.trans (State.setL1_work ..)
    · exact h

theorem State.loadAnswer_begins (s : State) (a : Access) (b : Blk) (p : Pair) : s.Begins (s.loadAnswer a b p) := by
  unfold State.loadAnswer
  split
  · exact .answer ..
  · split
    · exact .updateLater _ _ _ _ fun _ => rfl
    · split
      · exact .failAcc ..
      · dsimp only
        split <;> exact .answer ..

theorem State.performLoad_begins (s : State) (a : Access) : s.Begins (s.performLoad a) := by
  have done (t : State) (x : Blk) (p : Pair) : t.Begins
      (match a.op with | .pref .. => t.answer a.id Answer.none | _ => t.loadAnswer a x p) := by
    split
    · exact .answer ..
    · exact State.loadAnswer_begins ..
  have below (k : Nat) : s.Begins (State.performLoad.fromBelow s a
      (fun t x p => match a.op with | .pref .. => t.answer a.id Answer.none | _ => t.loadAnswer a x p) k) := by
    unfold State.performLoad.fromBelow
    split
    · exact .sendAcc ..
    · split
      · split
        · exact (State.Begins.work ((State.moved_work ..).trans (State.install_work ..))).trans (done ..)
        · exact .sendAcc ..
      · exact .sendAcc ..
  unfold State.performLoad
  dsimp only
  split
  · split
    · exact done ..
    · exact below _
  · exact below _

theorem State.wbOlder_work (s : State) (a : Access) (k : Nat) (m : BitVec 64) : s.CacheWork (s.wbOlder a k m) := by
  have h1 : s.CacheWork (match s.l1Of a k with
      | some l => if l.overlaps m a.newPair then s.wbL1 a.tile k else s
      | none => s) := by
    split
    · split
      · exact State.wbL1_work ..
      · exact .refl s
    · exact .refl s
  unfold State.wbOlder
  dsimp only
  split
  · split
    · exact h1.trans (State.wbRdc_work ..)
    · exact h1
  · exact h1

theorem State.performStore_begins (s : State) (a : Access) : s.Begins (s.performStore a) := by
  unfold State.performStore
  dsimp only
  split
  · split
    · exact (State.Begins.work (State.dropL1_work ..)).trans (.sendAcc ..)
    · exact .sendAcc ..
  · split
    · split
      · exact (State.Begins.modTile _ _ _ rfl).trans (.answer ..)
      · exact (State.Begins.work (State.wbOlder_work ..)).trans (.sendAcc ..)
    · split
      · exact .sendAcc ..
      · exact (State.Begins.work (State.wbOlder_work ..)).trans (.sendAcc ..)

theorem State.fenceRel_work (s : State) (tile ctx sc : Nat) : s.CacheWork (s.fenceRel tile ctx sc) := by
  unfold State.fenceRel
  split
  · exact .refl s
  · dsimp only
    split
    · exact (State.cleanL1_work ..).trans (State.cleanRdc_work ..)
    · exact State.cleanL1_work ..

theorem State.fenceAcq_work (s : State) (tile ctx sc : Nat) : s.CacheWork (s.fenceAcq tile ctx sc) := by
  unfold State.fenceAcq
  split
  · exact .refl s
  · dsimp only
    split
    · exact (State.invL1_work ..).trans (State.invRdc_work ..)
    · exact State.invL1_work ..

theorem State.perform_begins (s : State) (a : Access) : s.Begins (s.perform a) := by
  have store (o : Off) : s.Begins ((if offOrd o && a.hasL1 then s.fenceRel a.tile a.ctx (offScope o) else s).performStore a) := by
    split
    · exact (State.Begins.work (State.fenceRel_work ..)).trans (State.performStore_begins ..)
    · exact State.performStore_begins ..
  unfold State.perform
  split
  · exact State.performLoad_begins ..
  · exact State.performLoad_begins ..
  · exact State.performLoad_begins ..
  · exact State.performLoad_begins ..
  · exact store _
  · exact store _
  · exact (State.Begins.work (State.leaveCaches_aside s a 0).1).trans (.sendAcc ..)

-- TRANSLATION

theorem State.translated_begins (s : State) (id : Nat) (l : Leaf) : s.Begins (s.translated id l) := by
  unfold State.translated
  split
  · exact .refl s
  · rename_i a ha
    have hid := State.acc?_id ha
    split
    · exact .failAcc ..
    · dsimp only
      split
      · exact .update _ _ _ fun _ => rfl
      · refine State.Begins.trans (t := s.modAcc id fun _ => { a with leaf := some l, pa := l.addr a.va }) (.modAcc _ _ _ (fun _ _ => hid) fun x hx => ?_)
          (State.perform_begins ..)
        obtain rfl := Option.some.inj (ha.symm.trans hx)
        rfl

theorem State.admitMisses_begins (s : State) (die : Nat) : s.Begins (s.admitMisses die) := by
  unfold State.admitMisses
  dsimp only
  repeat' split
  · exact (State.Begins.modDie _ _ _ rfl).trans (.later ..)
  · exact .refl s
  · exact .refl s

theorem State.miss_begins (s : State) (a : Access) : s.Begins (s.miss a) := by
  have h : s.Begins (if a.stage = .walking then s else s.modAcc a.id fun x => { x with stage := .walking, sentAt := s.cycle }) := by
    split
    · exact .refl s
    · exact .update _ _ _ fun _ => rfl
  unfold State.miss
  dsimp only
  split
  · exact h
  · split
    · exact h.trans (.modDie _ _ _ rfl)
    · exact (h.trans (.modDie _ _ _ rfl)).trans (State.admitMisses_begins ..)

theorem State.translateAcc_begins (s : State) (a : Access) : s.Begins (s.translateAcc a) := by
  unfold State.translateAcc
  split
  · exact .failAcc ..
  · split
    · exact (State.Begins.keepLeaf ..).trans (State.translated_begins ..)
    · split
      · exact ((State.Begins.keepLeaf ..).trans (.modDie _ _ _ rfl)).trans (State.translated_begins ..)
      · exact State.miss_begins ..

theorem State.startAcc_begins (s : State) (a : Access) : s.Begins (s.startAcc a) := by
  unfold State.startAcc
  split
  · exact .answer ..
  · split
    · exact State.translateAcc_begins ..
    · exact .updateLater _ _ _ _ fun _ => rfl

theorem walkGo_begins (die ctx : Nat) (va : Word) (n level table : Nat) (s : State) :
    s.Begins (walkGo die ctx va n level table s).1 := by
  induction n generalizing level table s with
  | zero => exact .refl s
  | succ n ih =>
    have hr : s.Begins (s.readHome 0 (table + levelIndex va level * 16)).1 := .work (State.readAt_work ..)
    unfold walkGo
    dsimp only
    split
    · exact .refl s
    · split
      · exact hr
      · repeat' split
        all_goals first
          | exact hr
          | exact (hr.trans (.modDie _ _ _ rfl)).trans (ih ..)

theorem State.walk_begins (s : State) (die ctx : Nat) (va : Word) : s.Begins (s.walk die ctx va).1 := by
  unfold State.walk
  dsimp only
  split
  · exact .refl s
  · repeat' split
    all_goals exact walkGo_begins ..

theorem State.translate_begins (s : State) (die ctx : Nat) (va : Word) (p : Perm) : s.Begins (s.translate die ctx va p).1 := by
  have h (x : State × Walked) (hx : s.Begins x.1) : s.Begins (match x.2 with
      | .leaf l =>
        match x.1.leafCheck ctx l va p with
        | some (e, c) => (x.1, Walked.fail e c (vaDetail va 0))
        | none => (x.1, x.2)
      | _ => (x.1, x.2)).1 := by
    split
    · split <;> exact hx
    · exact hx
  have leaf (x : State × Walked) (hx : s.Begins x.1) :
      s.Begins (match x.2 with | .leaf l => x.1.modDie die fun d => d.addLeaf l | _ => x.1) := by
    split
    · exact hx.trans (.modDie _ _ _ rfl)
    · exact hx
  unfold State.translate
  refine h _ ?_
  split
  · exact .refl s
  · refine leaf _ ?_
    split
    · exact .refl s
    · exact State.walk_begins ..

-- THE INTERFACE OF A UNIT MOVES ON

/-- What the interfaces of units and engines leave as it is when they move on. -/
structure State.Runs (s t : State) : Prop where
  place : ∀ k, (t.actor k).tile = (s.actor k).tile ∧ (t.actor k).bank = (s.actor k).bank
  tile : ∀ k, (t.tile k).withoutCaches = (s.tile k).withoutCaches
  die : ∀ d, (t.die d).work = (s.die d).work

namespace State.Runs

theorem refl (s : State) : s.Runs s := ⟨fun _ => ⟨rfl, rfl⟩, fun _ => rfl, fun _ => rfl⟩

theorem trans {s t u : State} (h : s.Runs t) (k : t.Runs u) : s.Runs u :=
  ⟨fun i => ⟨(k.place i).1.trans (h.place i).1, (k.place i).2.trans (h.place i).2⟩, fun i => (k.tile i).trans (h.tile i),
    fun i => (k.die i).trans (h.die i)⟩

theorem begins {s t : State} (h : s.Begins t) : s.Runs t :=
  ⟨fun k => by rw [State.actor_congr h.actors]; exact ⟨rfl, rfl⟩, h.tile, h.die⟩

theorem work {s t : State} (h : s.CacheWork t) : s.Runs t := begins (.work h)

/-- The list of accesses and the counter of their order are not among what stays. -/
theorem ofAccs (s : State) (n : Nat) (l : List Access) : s.Runs { s with nextAcc := n, accs := l } :=
  ⟨fun _ => ⟨rfl, rfl⟩, fun _ => rfl, fun _ => rfl⟩

theorem modActor (s : State) (k : Nat) (f : Actor → Actor) (h : ∀ u, (f u).tile = u.tile ∧ (f u).bank = u.bank) :
    s.Runs (s.modActor k f) where
  place j := by
    rw [State.actor_modActor]
    split
    · rename_i e; rw [e]; exact h _
    · exact ⟨rfl, rfl⟩
  tile _ := rfl
  die _ := rfl

theorem foldl {α : Type} {f : State → α → State} (h : ∀ (s : State) x, s.Runs (f s x)) (xs : List α) (s : State) :
    s.Runs (xs.foldl f s) := by
  induction xs generalizing s with
  | nil => exact refl s
  | cons x xs ih => exact (h s x).trans (ih (f s x))

end State.Runs

theorem State.acceptWave_runs (s : State) (key n : Nat) : s.Runs (s.acceptWave key n) := by
  induction n generalizing s with
  | zero => exact .refl s
  | succ n ih =>
    unfold State.acceptWave
    dsimp only
    split
    · exact .refl s
    · rename_i a _
      have h : s.Runs ({ s with nextAcc := s.nextAcc + 1 }.modAcc a.id fun x => { x with stage := .accepted, order := s.nextAcc }) :=
        .ofAccs s _ _
      refine State.Runs.trans ?_ (ih _)
      split
      · exact h.trans (.modActor _ _ _ fun _ => ⟨rfl, rfl⟩)
      · exact h

theorem State.shuntFence_runs (s : State) (key : Nat) : s.Runs (s.shuntFence key) := by
  unfold State.shuntFence
  dsimp only
  split
  · exact (State.Runs.work ((State.fenceRel_work ..).trans (State.fenceAcq_work ..))).trans (.modActor _ _ _ fun _ => ⟨rfl, rfl⟩)
  · exact .refl s

theorem State.pump_runs (s : State) (key : Nat) : s.Runs (s.pump key) := by
  unfold State.pump
  split
  · exact .refl s
  · refine ((State.shuntFence_runs ..).trans (State.acceptWave_runs ..)).trans (.foldl (fun s id => ?_) _ _)
    split
    · split
      · exact .begins (State.startAcc_begins ..)
      · exact .refl s
    · exact .refl s

/-- The access that an engine makes is the newest, and begins at once. -/
theorem State.engineAccess_eq (s : State) (key ctx : Nat) (op : Instr) (va a : Word) (data : VReg) :
    ∃ x, x.maker = (s.nextAcc, key, ctx, va) ∧
      s.engineAccess key ctx op va a data = { s with nextAcc := s.nextAcc + 1, accs := s.accs ++ [x] }.startAcc x :=
  ⟨_, rfl, rfl⟩

theorem State.engineAccess_runs (s : State) (key ctx : Nat) (op : Instr) (va a : Word) (data : VReg) :
    s.Runs (s.engineAccess key ctx op va a data) := by
  obtain ⟨x, -, e⟩ := s.engineAccess_eq key ctx op va a data
  rw [e]
  exact (State.Runs.ofAccs s _ _).trans (.begins (State.startAcc_begins ..))

theorem State.unitStore_runs (s : State) (die ctx : Nat) (pol : Pol) (va : Word) (x : Blk) (mask : BitVec 64) :
    s.Runs (s.unitStore die ctx pol va x mask).1 := by
  have ht := State.translate_begins s die ctx va .store
  unfold State.unitStore
  generalize s.translate die ctx va .store = w at *
  obtain ⟨s1, w⟩ := w
  cases w with
  | leaf l =>
    have h : s.Runs (s1.dropRdc die (lineKey l.key (l.addr va))) := (State.Runs.begins ht).trans (.work (State.dropRdc_work ..))
    dsimp only
    split
    · exact h.trans (.work (State.homeWrite_work ..))
    · split
      · exact h.trans (.work (State.sendFrame_work ..))
      · exact h
  | mig b =>
    generalize maskStore x mask = m
    exact (State.Runs.begins ht).trans (State.engineAccess_runs ..)
  | fail e c d => exact .begins ht

theorem State.kickWaiting_runs (s : State) (die : Nat) (p : Access → Bool) : s.Runs (s.kickWaiting die p) := by
  unfold State.kickWaiting
  refine .foldl (fun s a => .begins (.updateNow _ _ _ _ ?_)) _ s
  exact fun _ => rfl

end Sys2Proof.Machine
end

section
/-! SUPPORT. The jobs of a copy engine: the one that runs, and how the engine's events change it. -/

namespace Sys2Proof.Machine

-- LISTS OF JOBS

/-- The list with the jobs of an order replaced. -/
def replaceJob (l : List Job) (j : Job) : List Job := l.map fun x => if x.order = j.order then j else x

theorem replaceJob_unique {pre post : List Job} {j j' : Job} (ho : j'.order = j.order) (h : ∀ x ∈ pre ++ post, x.order ≠ j.order) :
    replaceJob (pre ++ j :: post) j' = pre ++ j' :: post := by
  have keep (l : List Job) (hl : ∀ x ∈ l, x.order ≠ j.order) : replaceJob l j' = l :=
    (List.map_congr_left fun x hx => if_neg (by rw [ho]; exact hl x hx)).trans (List.map_id l)
  have hs : replaceJob (pre ++ j :: post) j' = replaceJob pre j' ++ (if j.order = j'.order then j' else j) :: replaceJob post j' :=
    List.map_append
  rw [hs, keep pre fun x hx => h x (List.mem_append_left _ hx), keep post fun x hx => h x (List.mem_append_right _ hx), if_pos ho.symm]

theorem find_replaceJob {l : List Job} {j j' : Job} (p : Job → Bool) (ho : j'.order = j.order) (hp : p j' = true)
    (hf : l.find? p = some j) (hu : ∀ x ∈ l, x.order = j.order → x = j) : (replaceJob l j').find? p = some j' := by
  induction l with
  | nil => cases hf
  | cons x l ih =>
    have hc : replaceJob (x :: l) j' = (if x.order = j'.order then j' else x) :: replaceJob l j' := rfl
    rw [hc]
    by_cases hx : x.order = j'.order
    · rw [if_pos hx, List.find?_cons_of_pos hp]
    · rw [if_neg hx]
      by_cases hpx : p x = true
      · rw [List.find?_cons_of_pos hpx] at hf
        obtain rfl := Option.some.inj hf
        exact absurd ho.symm hx
      · rw [List.find?_cons_of_neg hpx] at hf ⊢
        exact ih hf fun y hy => hu y (List.mem_cons_of_mem _ hy)

-- COPY ENGINES

theorem State.runningJob_eq (s : State) (die n : Nat) : s.runningJob die n = (s.copier die n).jobs.find? fun j => j.status == 1 := by
  unfold State.runningJob State.copier
  rw [Sparse.get_eq_find]
  cases Sparse.find? (s.die die).copiers n <;> rfl

theorem State.copier_congr {s t : State} (h : ∀ d, (t.die d).work = (s.die d).work) (die n : Nat) : t.copier die n = s.copier die n := by
  unfold State.copier
  have hc : (t.die die).copiers = (s.die die).copiers := congrArg (·.2.2) (h die)
  rw [hc]

theorem State.jobs_setJob (s : State) {die n : Nat} {j : Job} (hd : j.die = die) (he : j.engine = n) :
    ((s.setJob j).copier die n).jobs = replaceJob (s.copier die n).jobs j := by
  subst hd he
  unfold State.setJob State.modJob State.modCopier
  rw [show ∀ t : State, t.copier j.die j.engine = Sparse.get (t.die j.die).copiers ⟨[], 0⟩ j.engine from fun _ => rfl,
    State.die_modDie, if_pos rfl, Sparse.get_set, if_pos rfl]
  rfl

/-- An engine runs a job, and no other of its jobs has its order. -/
structure State.JobRuns (s : State) (die n : Nat) (j : Job) : Prop where
  run : s.runningJob die n = some j
  onDie : j.die = die
  engine : j.engine = n
  only : ∀ x ∈ (s.copier die n).jobs, x.order = j.order → x = j

theorem State.JobRuns.congr {s t : State} {die n : Nat} {j : Job} (h : s.JobRuns die n j) (hd : t.dies = s.dies) : t.JobRuns die n j := by
  have hc : t.copier die n = s.copier die n := State.copier_congr (fun d => by rw [State.die_congr hd]) die n
  exact ⟨by rw [State.runningJob_eq, hc, ← State.runningJob_eq]; exact h.run, h.onDie, h.engine, by rw [hc]; exact h.only⟩

/-- The job that is put in its place runs. -/
theorem State.JobRuns.setJob {s : State} {die n : Nat} {j j' : Job} (h : s.JobRuns die n j) (hd : j'.die = j.die) (he : j'.engine = j.engine)
    (ho : j'.order = j.order) (hs : j'.status = j.status) : (s.setJob j').runningJob die n = some j' := by
  have hrun := h.run
  rw [State.runningJob_eq] at hrun
  have h1 : j.status = 1 := by simpa using List.find?_some hrun
  rw [State.runningJob_eq, State.jobs_setJob s (hd.trans h.onDie) (he.trans h.engine)]
  exact find_replaceJob _ ho (by rw [hs, h1]; rfl) hrun h.only

-- JOB_START

theorem exec_jobStart_running {s : State} {die n : Nat} {j : Job} (h : s.runningJob die n = some j) :
    exec (.jobStart die n) s = .next { s with agenda := .event (.jobElement die n) :: s.agenda } := by
  change execJobStart die n s = _
  unfold execJobStart
  rw [h]
  rfl

/-- Whether a card that is queued may start. -/
def State.mayRun (s : State) (die n : Nat) (j : Job) : Bool := j.status == 0 && s.copyRuns j.ctx die n && s.ctxActive j.ctx

theorem exec_jobStart_idle {s : State} {die n : Nat} (h : s.runningJob die n = none)
    (hf : (s.copier die n).jobs.find? (s.mayRun die n) = none) : exec (.jobStart die n) s = .next s := by
  change execJobStart die n s = _
  unfold execJobStart
  rw [h]
  unfold State.mayRun at hf
  dsimp only
  rw [hf]

theorem exec_jobStart {s : State} {die n : Nat} {j : Job} (h : s.runningJob die n = none)
    (hf : (s.copier die n).jobs.find? (s.mayRun die n) = some j) :
    exec (.jobStart die n) s = .next ((s.setJob { j with status := 1 }).later (.jobElement die n)) := by
  change execJobStart die n s = _
  unfold execJobStart
  rw [h]
  unfold State.mayRun at hf
  dsimp only
  rw [hf]

theorem State.ctxActive_iff (s : State) (c : Nat) : s.ctxActive c = true ↔ ∃ y, s.ctx? c = some y ∧ y.status = 1 := by
  unfold State.ctxActive
  cases s.ctx? c <;> simp

theorem State.mayRun_false {s : State} {die n : Nat} {j : Job}
    (h : j.status = 0 → s.copyRuns j.ctx die n = false ∨ ¬ ∃ y, s.ctx? j.ctx = some y ∧ y.status = 1) : s.mayRun die n j = false := by
  unfold State.mayRun
  by_cases h0 : j.status = 0
  · rcases h h0 with h | h
    · rw [h, Bool.and_false, Bool.false_and]
    · rw [← State.ctxActive_iff, Bool.not_eq_true] at h
      rw [h, Bool.and_false]
  · rw [beq_eq_false_iff_ne.mpr h0, Bool.false_and, Bool.false_and]

/-- The clause of O54 on the start of a job. -/
theorem jobStart_spec (s : State) (die n : Nat) : let jobs := (s.copier die n).jobs
    let active (c : Nat) : Prop := ∃ y, s.ctx? c = some y ∧ y.status = 1
    (∀ j, s.runningJob die n = some j → exec (.jobStart die n) s = .next { s with agenda := .event (.jobElement die n) :: s.agenda }) ∧
    (s.runningJob die n = none → (∀ j ∈ jobs, j.status = 0 → s.copyRuns j.ctx die n = false ∨ ¬ active j.ctx) →
      exec (.jobStart die n) s = .next s) ∧
    (∀ pre j post, jobs = pre ++ j :: post → s.runningJob die n = none → j.status = 0 → j.die = die → j.engine = n →
      s.copyRuns j.ctx die n = true → active j.ctx → (∀ x ∈ pre ++ post, x.order ≠ j.order) →
      (∀ x ∈ pre, x.status = 0 → s.copyRuns x.ctx die n = false ∨ ¬ active x.ctx) →
      ∃ t, exec (.jobStart die n) s = .next t ∧ (t.copier die n).jobs = pre ++ { j with status := 1 } :: post ∧
        t.traps = s.traps ∧ t.mem = s.mem) := by
  intro jobs active
  refine ⟨fun j h => exec_jobStart_running h, fun h hn => exec_jobStart_idle h ?_, fun pre j post hj h h0 hd he hr ha hu hp => ?_⟩
  · exact List.find?_eq_none.mpr fun x hx => by rw [State.mayRun_false (hn x hx)]; decide
  · have hmay : s.mayRun die n j = true := by
      unfold State.mayRun
      rw [h0, hr, (s.ctxActive_iff _).mpr ha]
      rfl
    have hf : (s.copier die n).jobs.find? (s.mayRun die n) = some j := by
      have hnone : pre.find? (s.mayRun die n) = none :=
        List.find?_eq_none.mpr fun x hx => by rw [State.mayRun_false (hp x hx)]; decide
      change jobs.find? _ = _
      rw [hj, List.find?_append, hnone, List.find?_cons_of_pos hmay]
      rfl
    refine ⟨_, exec_jobStart h hf, ?_, rfl, rfl⟩
    change ((s.setJob { j with status := 1 }).copier die n).jobs = _
    rw [State.jobs_setJob s (j := { j with status := 1 }) hd he]
    change replaceJob jobs _ = _
    rw [hj]
    exact replaceJob_unique rfl hu

-- JOB_ELEMENT

/-- What an engine that is free does with the job that runs (R351). -/
def State.jobStep (s : State) (die engine : Nat) (j : Job) : State :=
  match j.phase with
  | 0 =>
    match cObj j.card 1024 with
    | some va => s.jobObject j (.acqLockWait 4 0 0 0 noWave) va 0
    | none => s.jobPhase j 1
  | 1 =>
    if cKind j.card = 4 then s.collGo j
    else if cElems j.card ≤ j.element then s.jobPhase j 2
    else if !s.copyRuns j.ctx die engine then s
    else if (cKind j.card = 2 ∨ cKind j.card = 3) ∧ j.idx.isNone then
      let va := BitVec.ofNat 64 (cardFld j.card 256 64 + 4 * j.element / 64 * 64)
      if inRegions (cReads j.card) va then
        s.engineAccess (engineKey die (32 + engine)) j.ctx (engineLoad (cPol j.card)) va 1 VReg.zero
      else s.jobFault j (s.jobRecord j .bounds Cause.footprint (va.toNat % 2 ^ 52)) va
    else
      match j.hold with
      | none => s.jobRead j (cSrc j.card) (jobOffsets j).1
      | some x => s.jobWrite j (cDst j.card) (jobOffsets j).2 x
  | 2 => (s.jobClean j).jobPhase j 3
  | 3 => (s.writeCard j j.cardState).jobPhase j 4
  | 4 =>
    match cObj j.card 1088 with
    | some va => s.jobObject j (.relLock 4 0 0 noWave) va (BitVec.ofNat 64 j.cardState)
    | none => s.jobPhase j 5
  | 5 =>
    match cObj j.card 1152 with
    | some va => s.jobObject j (.relSet 4 0 0 noWave) va (BitVec.ofNat 64 j.cardState)
    | none => s.jobPhase j 6
  | _ => s.now (.jobCompletion die engine)

theorem exec_jobElement {s : State} {die n : Nat} {j : Job} (h : s.runningJob die n = some j)
    (hb : s.engineBusy (engineKey die (32 + n)) = false) (hs : s.stalls (engineKey die (32 + n)) = false) :
    exec (.jobElement die n) s = .next (s.jobStep die n j) := by
  change execJobElement die n s = _
  unfold execJobElement
  rw [h]
  dsimp only
  rw [if_neg (by rw [hb]; decide), if_neg (by rw [hs]; decide)]
  rfl

theorem exec_jobElement_idle {s : State} {die n : Nat}
    (h : s.runningJob die n = none ∨ s.engineBusy (engineKey die (32 + n)) = true) : exec (.jobElement die n) s = .next s := by
  change execJobElement die n s = _
  unfold execJobElement
  cases hr : s.runningJob die n with
  | none => rfl
  | some j =>
    dsimp only
    rw [if_pos (h.resolve_left (by rw [hr]; simp))]

section
variable {s : State} {die n : Nat} {j : Job}

theorem State.jobStep_acquire (hp : j.phase = 0) (ho : cObj j.card 1024 = none) : s.jobStep die n j = s.jobPhase j 1 := by
  unfold State.jobStep
  rw [hp, ho]
  rfl

theorem State.jobStep_elements (hp : j.phase = 1) (hk : cKind j.card ≠ 4) (he : cElems j.card ≤ j.element) :
    s.jobStep die n j = s.jobPhase j 2 := by
  unfold State.jobStep
  rw [hp]
  exact (if_neg hk).trans (if_pos he)

/-- A JCOPY with elements left reads or writes one. -/
theorem State.jobStep_copy (hp : j.phase = 1) (hk : cKind j.card = 1) (he : j.element < cElems j.card) (hr : s.copyRuns j.ctx die n = true) :
    s.jobStep die n j = match j.hold with
      | none => s.jobRead j (cSrc j.card) (64 * j.element)
      | some x => s.jobWrite j (cDst j.card) (64 * j.element) x := by
  have hoff : jobOffsets j = (64 * j.element, 64 * j.element) := by
    unfold jobOffsets
    rw [hk]
    rfl
  unfold State.jobStep
  rw [hp, hk, hr, hoff]
  exact (if_neg (by decide)).trans ((if_neg (Nat.not_le.mpr he)).trans ((if_neg (by decide)).trans (if_neg (by simp))))

theorem State.jobStep_release (hp : j.phase = 4) (ho : cObj j.card 1088 = none) : s.jobStep die n j = s.jobPhase j 5 := by
  unfold State.jobStep
  rw [hp, ho]
  rfl

theorem State.jobStep_completion (hp : j.phase = 5) (ho : cObj j.card 1152 = none) : s.jobStep die n j = s.jobPhase j 6 := by
  unfold State.jobStep
  rw [hp, ho]
  rfl

theorem State.jobStep_end (hp : 6 ≤ j.phase) : s.jobStep die n j = s.now (.jobCompletion die n) := by
  unfold State.jobStep
  split <;> first | omega | rfl

/-- A block of a scratchpad that may be read is held at once. -/
theorem State.jobRead_held {x off tile p : Nat} (hx : x / 2 ^ 63 = 1) (ht : tile = x / 2 ^ 20 % 2 ^ 10) (hp : p = x % 2 ^ 20 + off)
    (h : s.spTarget j.ctx (tile, p) = none) :
    s.jobRead j x off = (s.setJob { j with hold := some ⟨s.spBlock (tile, p), Pair.raw⟩ }).kickJob
      { j with hold := some ⟨s.spBlock (tile, p), Pair.raw⟩ } := by
  subst ht hp
  unfold State.jobRead endpoint
  rw [if_pos hx]
  dsimp only
  rw [h]

theorem State.jobRead_refused {x off tile p : Nat} {e : Err} {c : BitVec 8} (hx : x / 2 ^ 63 = 1) (ht : tile = x / 2 ^ 20 % 2 ^ 10)
    (hp : p = x % 2 ^ 20 + off) (h : s.spTarget j.ctx (tile, p) = some (e, c)) :
    s.jobRead j x off = s.jobFault j (s.jobRecord j e c p) 0 := by
  subst ht hp
  unfold State.jobRead endpoint
  rw [if_pos hx]
  dsimp only
  rw [h]

theorem State.jobRead_outside {x off : Nat} {va : Word} (hx : x / 2 ^ 63 = 0) (hv : va = BitVec.ofNat 64 (x + off))
    (h : inRegions (cReads j.card) va = false) :
    s.jobRead j x off = s.jobFault j (s.jobRecord j .bounds Cause.footprint (va.toNat % 2 ^ 52)) va := by
  subst hv
  unfold State.jobRead endpoint
  rw [if_neg (by rw [hx]; decide)]
  dsimp only
  rw [if_neg (by rw [h]; decide)]

theorem State.jobWrite_stored {x off tile p : Nat} {d : VReg} (hx : x / 2 ^ 63 = 1) (ht : tile = x / 2 ^ 20 % 2 ^ 10)
    (hp : p = x % 2 ^ 20 + off) (h : s.spTarget j.ctx (tile, p) = none) :
    s.jobWrite j x off d = ((s.setSpBlock (tile, p) d.val).setJob j.wrote).kickJob j := by
  subst ht hp
  unfold State.jobWrite endpoint
  rw [if_pos hx]
  dsimp only
  rw [h]

theorem Job.wrote_last (h : cElen j.card ≤ j.sub + 1) :
    j.wrote = { j with sub := 0, idx := none, hold := none, element := j.element + 1 } := if_neg (Nat.not_lt.mpr h)

theorem State.JobRuns.phase (h : s.JobRuns die n j) (p : Nat) :
    (s.jobPhase j p).runningJob die n = some { j with phase := p } :=
  h.setJob (j' := { j with phase := p }) rfl rfl rfl rfl

theorem State.JobRuns.fault (h : s.JobRuns die n j) (r : BitVec 256) (va : Word) :
    (s.jobFault j r va).runningJob die n = some { j with err := some r, faultVa := va, phase := 2, hold := none } :=
  (h.congr (t := s.jobTrap j r) rfl).setJob (j' := { j with err := some r, faultVa := va, phase := 2, hold := none }) rfl rfl rfl rfl

end

/-- The clause of O54 on the phases of a job. -/
theorem jobElement_spec (s : State) (die n : Nat) :
    (s.runningJob die n = none ∨ s.engineBusy (engineKey die (32 + n)) = true → exec (.jobElement die n) s = .next s) ∧
    (∀ j, s.runningJob die n = some j → j.die = die → j.engine = n →
      (∀ x ∈ (s.copier die n).jobs, x.order = j.order → x = j) → s.engineBusy (engineKey die (32 + n)) = false →
      s.stalls (engineKey die (32 + n)) = false →
      let becomes (j' : Job) : Prop := ∃ t, exec (.jobElement die n) s = .next t ∧ t.runningJob die n = some j' ∧ t.mem = s.mem
      (j.phase = 0 → cObj j.card 1024 = none → becomes { j with phase := 1 }) ∧
      (j.phase = 1 → cKind j.card ≠ 4 → cElems j.card ≤ j.element → becomes { j with phase := 2 }) ∧
      (j.phase = 1 → cKind j.card = 1 → j.element < cElems j.card → s.copyRuns j.ctx die n = true → j.hold = none →
        let src := cardFld j.card 64 64
        (∀ tile off, src / 2 ^ 63 = 1 → tile = src / 2 ^ 20 % 2 ^ 10 → off = src % 2 ^ 20 + 64 * j.element →
          (s.spTarget j.ctx (tile, off) = none → becomes { j with hold := some ⟨s.spBlock (tile, off), Pair.raw⟩ }) ∧
          (∀ e c, s.spTarget j.ctx (tile, off) = some (e, c) →
            becomes { j with err := some (s.jobRecord j e c off), faultVa := 0, phase := 2, hold := none })) ∧
        (∀ va : Word, src / 2 ^ 63 = 0 → va = BitVec.ofNat 64 (src + 64 * j.element) → inRegions (cReads j.card) va = false →
          becomes { j with err := some (s.jobRecord j .bounds 0x06 (va.toNat % 2 ^ 52)), faultVa := va, phase := 2, hold := none })) ∧
      (j.phase = 1 → cKind j.card = 1 → j.element < cElems j.card → s.copyRuns j.ctx die n = true → ∀ x, j.hold = some x →
        let dst := cardFld j.card 128 64
        ∀ tile off, dst / 2 ^ 63 = 1 → tile = dst / 2 ^ 20 % 2 ^ 10 → off = dst % 2 ^ 20 + 64 * j.element →
          s.spTarget j.ctx (tile, off) = none → cElen j.card ≤ j.sub + 1 →
          ∃ t, exec (.jobElement die n) s = .next t ∧ t.tile tile = (s.setSpBlock (tile, off) x.val).tile tile ∧
            t.runningJob die n = some { j with sub := 0, idx := none, hold := none, element := j.element + 1 }) ∧
      (j.phase = 4 → cObj j.card 1088 = none → becomes { j with phase := 5 }) ∧
      (j.phase = 5 → cObj j.card 1152 = none → becomes { j with phase := 6 }) ∧
      (6 ≤ j.phase → exec (.jobElement die n) s = .next { s with agenda := .event (.jobCompletion die n) :: s.agenda })) := by
  refine ⟨exec_jobElement_idle, fun j hrun hd he hu hb hs => ?_⟩
  intro becomes
  have hr : s.JobRuns die n j := ⟨hrun, hd, he, hu⟩
  have hex := exec_jobElement hrun hb hs
  have step {t : State} {j' : Job} (e : s.jobStep die n j = t) (h : t.runningJob die n = some j') (hm : t.mem = s.mem) : becomes j' :=
    ⟨t, by rw [hex, e], h, hm⟩
  refine ⟨fun hp ho => step (State.jobStep_acquire hp ho) (hr.phase 1) rfl,
    fun hp hk hl => step (State.jobStep_elements hp hk hl) (hr.phase 2) rfl,
    fun hp hk hl hc hh => ?_, fun hp hk hl hc x hh => ?_,
    fun hp ho => step (State.jobStep_release hp ho) (hr.phase 5) rfl,
    fun hp ho => step (State.jobStep_completion hp ho) (hr.phase 6) rfl,
    fun hp => by rw [hex, State.jobStep_end hp]; rfl⟩
  · have hstep := State.jobStep_copy hp hk hl hc
    rw [hh] at hstep
    dsimp only at hstep
    intro src
    refine ⟨fun tile off hx ht ho => ⟨fun h => ?_, fun e c h => ?_⟩, fun va hx hv h => ?_⟩
    · exact step (hstep.trans (State.jobRead_held hx ht ho h))
        (hr.setJob (j' := { j with hold := some ⟨s.spBlock (tile, off), Pair.raw⟩ }) rfl rfl rfl rfl) rfl
    · exact step (hstep.trans (State.jobRead_refused hx ht ho h)) (hr.fault _ _) rfl
    · exact step (hstep.trans (State.jobRead_outside hx hv h)) (hr.fault _ _) rfl
  · have hstep := State.jobStep_copy hp hk hl hc
    rw [hh] at hstep
    dsimp only at hstep
    intro dst tile off hx ht ho htar hlen
    have hw : s.jobWrite j (cDst j.card) (64 * j.element) x = ((s.setSpBlock (tile, off) x.val).setJob j.wrote).kickJob j :=
      State.jobWrite_stored hx ht ho htar
    refine ⟨((s.setSpBlock (tile, off) x.val).setJob j.wrote).kickJob j, by rw [hex, hstep, hw], rfl, ?_⟩
    change ((s.setSpBlock (tile, off) x.val).setJob j.wrote).runningJob die n = _
    rw [Job.wrote_last hlen]
    exact (hr.congr (t := s.setSpBlock (tile, off) x.val) rfl).setJob
      (j' := { j with sub := 0, idx := none, hold := none, element := j.element + 1 }) rfl rfl rfl rfl

-- JOB_COMPLETION

theorem exec_jobCompletion_none {s : State} {die n : Nat} (h : s.runningJob die n = none) : exec (.jobCompletion die n) s = .next s := by
  change execJobCompletion die n s = _
  unfold execJobCompletion
  rw [h]

theorem exec_jobCompletion_early {s : State} {die n : Nat} {j : Job} (h : s.runningJob die n = some j) (hp : j.phase < 6) :
    exec (.jobCompletion die n) s = .next s := by
  change execJobCompletion die n s = _
  unfold execJobCompletion
  rw [h]
  exact congrArg Host.Outcome.next (if_pos hp)

/-- An access that waits for an engine's job. -/
def jobWait (a : Access) : Bool := jKind a.op != 0 || (match a.op with | .waitbJob .. => true | _ => false)

theorem exec_jobCompletion {s : State} {die n : Nat} {j : Job} (h : s.runningJob die n = some j) (hp : 6 ≤ j.phase) :
    exec (.jobCompletion die n) s =
      .next (((s.setJob { j with status := if j.err.isSome then 3 else 2 }).kickWaiting die jobWait).now (.jobStart die n)) := by
  change execJobCompletion die n s = _
  unfold execJobCompletion
  rw [h]
  exact congrArg Host.Outcome.next (if_neg (Nat.not_lt.mpr hp))

theorem State.kickWaiting_mem (s : State) (die : Nat) (p : Access → Bool) : (s.kickWaiting die p).mem = s.mem := by
  unfold State.kickWaiting
  refine (foldl_memory (fun s a => ?_) _ s).1
  exact ⟨rfl, rfl⟩

/-- The clause of O54 on the end of a job. -/
theorem jobCompletion_spec (s : State) (die n : Nat) :
    (s.runningJob die n = none → exec (.jobCompletion die n) s = .next s) ∧
    (∀ pre j post, (s.copier die n).jobs = pre ++ j :: post → s.runningJob die n = some j → j.die = die → j.engine = n →
      (∀ x ∈ pre ++ post, x.order ≠ j.order) →
      (j.phase < 6 → exec (.jobCompletion die n) s = .next s) ∧
      (6 ≤ j.phase → ∃ t, exec (.jobCompletion die n) s = .next t ∧ t.mem = s.mem ∧
        (t.copier die n).jobs = pre ++ { j with status := if j.err.isSome then 3 else 2 } :: post)) := by
  refine ⟨exec_jobCompletion_none, fun pre j post hj hr hd he hu => ⟨exec_jobCompletion_early hr, fun hp => ?_⟩⟩
  refine ⟨_, exec_jobCompletion hr hp, State.kickWaiting_mem .., ?_⟩
  have hc : (((s.setJob { j with status := if j.err.isSome then 3 else 2 }).kickWaiting die jobWait).now (.jobStart die n)).copier die n =
      (s.setJob { j with status := if j.err.isSome then 3 else 2 }).copier die n :=
    State.copier_congr (State.kickWaiting_runs ..).die die n
  rw [hc, State.jobs_setJob s (j := { j with status := if j.err.isSome then 3 else 2 }) hd he, hj]
  exact replaceJob_unique rfl hu

-- COLLECTIVE_TIMEOUT

/-- The clause of O54 on the timeout of a collective. -/
theorem collectiveTimeout_spec (s : State) (coll : Word) :
    ((∀ c ∈ s.ctxs, s.collLate c.1 coll.toNat = []) → exec (.collectiveTimeout coll) s = .next s) ∧
    (∀ c x j pre post, s.ctxs = [(c, x)] → s.collLate c coll.toNat = [j] → (s.copier j.die j.engine).jobs = pre ++ j :: post →
      (∀ x ∈ pre ++ post, x.order ≠ j.order) → ∃ t r p q, exec (.collectiveTimeout coll) s = .next t ∧
        r = s.jobRecord j .remoteTimeout 0x02 0 ∧ s.traps = p ++ q ∧
        t.traps = p ++ ⟨j.ctx, engineKey j.die (32 + j.engine), r, j.cardVa, s.cycle⟩ :: q ∧
        (t.copier j.die j.engine).jobs = pre ++ { j with err := some r, faultVa := 0, phase := 2, hold := none } :: post) := by
  have hex : exec (.collectiveTimeout coll) s =
      .next (s.ctxs.foldl (fun t c => t.collFail (t.collLate c.1 coll.toNat) .remoteTimeout 0x02) s) := rfl
  refine ⟨fun h => ?_, fun c x j pre post hc hl hj hu => ?_⟩
  · rw [hex]
    have go (l : Sparse Ctx) (hl : ∀ c ∈ l, s.collLate c.1 coll.toNat = []) :
        l.foldl (fun t c => t.collFail (t.collLate c.1 coll.toNat) .remoteTimeout 0x02) s = s := by
      induction l with
      | nil => rfl
      | cons c l ih =>
        rw [List.foldl_cons, hl c List.mem_cons_self]
        exact ih fun c' hc' => hl c' (List.mem_cons_of_mem _ hc')
    rw [go s.ctxs h]
  · have hone : exec (.collectiveTimeout coll) s = .next (s.jobFault j (s.jobRecord j .remoteTimeout 0x02 0) 0) := by
      rw [hex, hc, List.foldl_cons, List.foldl_nil, hl]
      rfl
    refine ⟨_, _, s.traps.takeWhile (s.trapBefore (engineKey j.die (32 + j.engine))),
      s.traps.dropWhile (s.trapBefore (engineKey j.die (32 + j.engine))), hone, rfl, List.takeWhile_append_dropWhile.symm, rfl, ?_⟩
    have hsame : (s.jobTrap j (s.jobRecord j .remoteTimeout 0x02 0)).copier j.die j.engine = s.copier j.die j.engine := rfl
    refine (State.jobs_setJob (s.jobTrap j (s.jobRecord j .remoteTimeout 0x02 0))
      (j := { j with err := some (s.jobRecord j .remoteTimeout 0x02 0), faultVa := 0, phase := 2, hold := none }) rfl rfl).trans ?_
    dsimp only
    rw [hsame, hj]
    exact replaceJob_unique rfl hu

end Sys2Proof.Machine
end

section
/-! SUPPORT. The streams of an edge engine: they end, and a feed loads its next flit. -/

namespace Sys2Proof.Machine

-- THE STREAM OF AN ENGINE

theorem State.edgeStream_congr {s t : State} (h : ∀ d, (t.die d).work = (s.die d).work) (die n : Nat) :
    t.edgeStream die n = s.edgeStream die n := by
  have he : (t.die die).edges = (s.die die).edges := congrArg (·.2.1) (h die)
  unfold State.edgeStream
  rw [he]

theorem State.edgeStream_setStream (s : State) (die n : Nat) (t : Stream) : (s.setStream die n t).edgeStream die n = some t := by
  unfold State.edgeStream State.setStream State.setEdge
  rw [State.die_modDie, if_pos rfl, Sparse.find_set, if_pos rfl]

/-- A stream that has ended keeps its place, and has nothing buffered. -/
theorem State.edgeStream_endStream (s : State) (die n : Nat) (t : Stream) (st code : BitVec 8) :
    (s.endStream die n t st code).edgeStream die n = some { t with state := st, code := code, likely := [], rowBuf := [] } := by
  have hw : (s.setStream die n { t with state := st, code := code, likely := [], rowBuf := [] }).Runs
      (((s.setStream die n { t with state := st, code := code, likely := [], rowBuf := [] }).writeCommit die
        { t with state := st, code := code, likely := [], rowBuf := [] }).kickWaiting die edgeWait) :=
    (State.unitStore_runs ..).trans (State.kickWaiting_runs ..)
  exact (State.edgeStream_congr hw.die die n).trans (State.edgeStream_setStream ..)

-- STREAM_ELEMENT

section
variable {s : State} {die n : Nat} {t : Stream}

/-- A stop drops nothing of a stream that is not stopped, or has nothing buffered. -/
theorem Stream.cut_eq (h : t.stopReq = false ∨ t.likely = []) :
    (if t.stopReq && !t.drain && !t.speculative then { t with likely := t.likely.take t.fl } else t) = t := by
  rcases h with h | h
  · rw [if_neg (by rw [h]; simp)]
  · split
    · rw [h, List.take_nil, ← h]
    · rfl

theorem exec_streamElement_idle (h : s.edgeStream die n = none ∨ (∃ t, s.edgeStream die n = some t ∧ t.state ≠ 0) ∨
    s.engineBusy (engineKey die n) = true) : exec (.streamElement die n) s = .next s := by
  change execStreamElement die n s = _
  unfold execStreamElement
  cases ht : s.edgeStream die n with
  | none => rfl
  | some t =>
    refine congrArg Host.Outcome.next (if_pos ?_)
    rcases h with h | ⟨t', h, hs⟩ | h
    · rw [ht] at h; cases h
    · rw [ht] at h
      obtain rfl := Option.some.inj h
      exact Or.inl hs
    · exact Or.inr h

theorem exec_streamElement_stalled (ht : s.edgeStream die n = some t) (h0 : t.state = 0) (hb : s.engineBusy (engineKey die n) = false)
    (hs : s.stalls (engineKey die n) = true) : exec (.streamElement die n) s = .next (s.kickStream die n) := by
  change execStreamElement die n s = _
  unfold execStreamElement
  rw [ht]
  exact congrArg Host.Outcome.next ((if_neg (by rw [h0, hb]; simp)).trans (if_pos hs))

theorem exec_streamElement_done (ht : s.edgeStream die n = some t) (h0 : t.state = 0) (hb : s.engineBusy (engineKey die n) = false)
    (hs : s.stalls (engineKey die n) = false) (hq : t.stopReq = false) (hi : t.nitems ≤ t.item) :
    exec (.streamElement die n) s = .next (s.endStream die n t 1 0) := by
  change execStreamElement die n s = _
  unfold execStreamElement
  rw [ht]
  refine congrArg Host.Outcome.next ((if_neg (by rw [h0, hb]; simp)).trans ((if_neg (by rw [hs]; decide)).trans ?_))
  rw [Stream.cut_eq (.inl hq)]
  exact (if_neg (by rw [hq]; simp)).trans (if_pos hi)

theorem exec_streamElement_stopped (ht : s.edgeStream die n = some t) (h0 : t.state = 0) (hb : s.engineBusy (engineKey die n) = false)
    (hs : s.stalls (engineKey die n) = false) (hq : t.stopReq = true) (hd : t.drain = false) (hl : t.likely = []) :
    exec (.streamElement die n) s = .next (s.endStream die n t 3 0) := by
  change execStreamElement die n s = _
  unfold execStreamElement
  rw [ht]
  refine congrArg Host.Outcome.next ((if_neg (by rw [h0, hb]; simp)).trans ((if_neg (by rw [hs]; decide)).trans ?_))
  rw [Stream.cut_eq (.inr hl)]
  exact if_pos ⟨hq, by rw [hd, hl]; simp⟩

/-- A feed that has nothing buffered and whose line runs loads its next flit. -/
theorem exec_streamElement_load {l : Line} {tile : Nat} (ht : s.edgeStream die n = some t) (h0 : t.state = 0)
    (hb : s.engineBusy (engineKey die n) = false) (hs : s.stalls (engineKey die n) = false) (hq : t.stopReq = false)
    (hi : t.item < t.nitems) (hd : t.drain = false) (hl : t.likely = []) (hfl : 0 < t.fl) (hline : s.line? t.line = some l)
    (hrun : l.running = true) (hdr : l.draining = none) (htile : l.tileOf t.stn = some tile) :
    exec (.streamElement die n) s = .next (s.loadFlit die n t) := by
  change execStreamElement die n s = _
  unfold execStreamElement
  rw [ht]
  refine congrArg Host.Outcome.next ((if_neg (by rw [h0, hb]; simp)).trans ((if_neg (by rw [hs]; decide)).trans ?_))
  rw [Stream.cut_eq (.inl hq)]
  refine (if_neg (by rw [hq]; simp)).trans ((if_neg (Nat.not_le.mpr hi)).trans ?_)
  rw [hline]
  refine (if_neg (by rw [hrun, hdr]; simp)).trans ((if_neg (by rw [hd]; decide)).trans ?_)
  rw [htile]
  refine if_neg ?_
  rw [hl]
  simp only [List.length_nil, List.any_nil, Bool.false_eq_true, or_false, not_and, Nat.le_zero]
  exact fun _ => Nat.ne_of_gt hfl

/-- The first flit of a row. -/
theorem State.loadFlit_first (hi : t.item < t.nitems) (hl : t.likely = []) (hfl : 0 < t.fl) (hrow : t.row < t.rows) :
    s.loadFlit die n t = s.engineAccess (engineKey die n) t.ctx (engineLoad (polCode (Blk.fld t.desc 3 2))) (t.addr t.item t.row 0) 0
      VReg.zero := by
  have hpos : t.loadPos = (t.item, t.row, 0) := by
    unfold Stream.loadPos
    rw [hl]
    simp only [List.length_nil, Nat.zero_div, Nat.zero_mod, Nat.add_zero, Nat.mul_add_mod_self_right, Nat.mod_eq_of_lt hrow]
    rw [Nat.mul_comm, Nat.mul_add_div (by omega), Nat.div_eq_of_lt hrow, Nat.add_zero]
  unfold State.loadFlit
  rw [hpos, hl]
  refine if_neg ?_
  simp only [List.length_nil, List.any_nil, Bool.false_eq_true, or_false, Nat.le_zero, not_or, Nat.not_le]
  exact ⟨by split <;> omega, hi⟩

end

/-- The access that an engine makes, when it has begun. -/
theorem State.engineAccess_made (s : State) (key ctx : Nat) (op : Instr) (va a : Word) (data : VReg) (h : s.acc? s.nextAcc = none) :
    ∃ x, (s.engineAccess key ctx op va a data).acc? s.nextAcc = some x ∧ x.actor = key ∧ x.ctx = ctx ∧ x.va = va ∧
      (s.engineAccess key ctx op va a data).nextAcc = s.nextAcc + 1 := by
  obtain ⟨x, hx, e⟩ := s.engineAccess_eq key ctx op va a data
  rw [e]
  have hb := State.startAcc_begins ({ s with nextAcc := s.nextAcc + 1, accs := s.accs ++ [x] } : State) x
  have hm := hb.maker s.nextAcc
  have hid : x.id = s.nextAcc := congrArg (·.1) hx
  have hfirst : ({ s with nextAcc := s.nextAcc + 1, accs := s.accs ++ [x] } : State).acc? s.nextAcc = some x := by
    unfold State.acc? at h ⊢
    rw [List.find?_append, h, List.find?_cons_of_pos (by simp [hid])]
    rfl
  rw [hfirst] at hm
  obtain ⟨y, hy, hmy⟩ := Option.map_eq_some_iff.mp hm
  rw [hx] at hmy
  exact ⟨y, hy, congrArg (·.2.1) hmy, congrArg (·.2.2.1) hmy, congrArg (·.2.2.2) hmy, hb.nextAcc⟩

/-- The clause of O54 on the streams of an edge engine. -/
theorem streamElement_spec (s : State) (die n : Nat) : let key := engineKey die n
    (s.edgeStream die n = none ∨ (∃ t, s.edgeStream die n = some t ∧ t.state ≠ 0) ∨ s.engineBusy key = true →
      exec (.streamElement die n) s = .next s) ∧
    (∀ t, s.edgeStream die n = some t → t.state = 0 → s.engineBusy key = false →
      (s.stalls key = true → exec (.streamElement die n) s =
        .next { s with timers := s.timers ++ [(s.cycle + 1, .streamElement die n)] }) ∧
      (s.stalls key = false → t.stopReq = false → t.nitems ≤ t.item → ∃ u, exec (.streamElement die n) s = .next u ∧
        ∃ t', u.edgeStream die n = some t' ∧ t'.state = 1 ∧ t'.code = 0 ∧ t'.likely = [] ∧ t'.item = t.item) ∧
      (s.stalls key = false → t.stopReq = true → t.drain = false → t.likely = [] → ∃ u, exec (.streamElement die n) s = .next u ∧
        ∃ t', u.edgeStream die n = some t' ∧ t'.state = 3 ∧ t'.item = t.item) ∧
      (s.stalls key = false → t.stopReq = false → t.item < t.nitems → t.drain = false → t.likely = [] → 0 < t.fl → 0 < t.rows →
        t.row < t.rows → s.acc? s.nextAcc = none → ∀ l tile, s.line? t.line = some l → l.running = true → l.draining = none →
        l.tileOf t.stn = some tile → ∃ u a, exec (.streamElement die n) s = .next u ∧ u.acc? s.nextAcc = some a ∧
          a.actor = key ∧ a.ctx = t.ctx ∧ a.va = t.addr t.item t.row 0 ∧ u.nextAcc = s.nextAcc + 1)) := by
  intro key
  refine ⟨exec_streamElement_idle, fun t ht h0 hb => ⟨fun hs => exec_streamElement_stalled ht h0 hb hs, fun hs hq hi => ?_,
    fun hs hq hd hl => ?_, fun hs hq hi hd hl hfl _ hrow hn l tile hline hrun hdr htile => ?_⟩⟩
  · exact ⟨_, exec_streamElement_done ht h0 hb hs hq hi, _, State.edgeStream_endStream .., rfl, rfl, rfl, rfl⟩
  · exact ⟨_, exec_streamElement_stopped ht h0 hb hs hq hd hl, _, State.edgeStream_endStream .., rfl, rfl⟩
  · obtain ⟨a, ha, h1, h2, h3, h4⟩ := s.engineAccess_made key t.ctx (engineLoad (polCode (Blk.fld t.desc 3 2))) (t.addr t.item t.row 0)
      0 VReg.zero hn
    refine ⟨_, a, ?_, ha, h1, h2, h3, h4⟩
    rw [exec_streamElement_load ht h0 hb hs hq hi hd hl hfl hline hrun hdr htile, State.loadFlit_first hi hl hfl hrow]

end Sys2Proof.Machine
end

section
/-! SUPPORT. Evaluations: the start, the waking and the parking of one, and the tile that its slot takes. -/

namespace Sys2Proof.Machine

-- RECORDS OF EVALUATIONS

theorem State.modRec_recs (s : State) (die evid : Nat) (f : EvRec → EvRec) :
    ((s.modRec die evid f).die die).recs = (s.die die).recs.map fun r => if r.evid = evid then f r else r := by
  unfold State.modRec
  rw [State.die_modDie, if_pos rfl]

/-- The records of an evaluation after a change are changed ones. -/
theorem State.modRec_changed {s : State} {die evid : Nat} {f : EvRec → EvRec} {r' : EvRec} (h : r' ∈ ((s.modRec die evid f).die die).recs)
    (he : r'.evid = evid) : ∃ r, r' = f r := by
  rw [State.modRec_recs] at h
  obtain ⟨r, -, rfl⟩ := List.mem_map.mp h
  by_cases hr : r.evid = evid
  · exact ⟨r, if_pos hr⟩
  · rw [if_neg hr] at he
    exact absurd he hr

theorem State.modRec_find {s : State} {die evid : Nat} {f : EvRec → EvRec} {r : EvRec} (hf : ∀ r, (f r).evid = r.evid)
    (h : (s.die die).recs.find? (fun r => r.evid == evid) = some r) :
    ((s.modRec die evid f).die die).recs.find? (fun r => r.evid == evid) = some (f r) := by
  have hr : r.evid = evid := by simpa using List.find?_some h
  have hp : ((fun r : EvRec => r.evid == evid) ∘ fun r => if r.evid = evid then f r else r) = fun r => r.evid == evid := by
    funext x
    simp only [Function.comp_apply]
    split <;> simp [hf]
  rw [State.modRec_recs, List.find?_map, hp, h, Option.map_some, if_pos hr]

-- THE TILE OF A SLOT

theorem State.poolTile_same {s : State} {tile ctx : Nat} (h : (s.tile tile).ctx = some ctx) : s.poolTile tile ctx = s := if_pos h

/-- A tile that passes to another context has its scratchpad, its matrix registers and fs cleared. -/
theorem State.poolTile_other {s : State} {tile ctx : Nat} (h : (s.tile tile).ctx ≠ some ctx) :
    (s.poolTile tile ctx).tile tile =
      { (s.flushL1 tile).tile tile with sp := [], m := [], a := [], pv := [], fs := 0, ctx := some ctx } := by
  unfold State.poolTile
  rw [if_neg h, State.tile_modTile, if_pos rfl]

theorem State.poolTile_ctx (s : State) (tile ctx : Nat) : ((s.poolTile tile ctx).tile tile).ctx = some ctx := by
  by_cases h : (s.tile tile).ctx = some ctx
  · rw [State.poolTile_same h, h]
  · rw [State.poolTile_other h]

/-- A bank of a tile that has just been set. -/
theorem Tile.bank_set (t : Tile) (b : Nat) (x : Bank) {u : Tile} (h : u.banks = Sparse.set t.banks b x) : u.bank b = x := by
  unfold Tile.bank
  rw [h, Sparse.get_set, if_pos rfl]

/-- Tiles that differ in their caches alone have the same registers. -/
theorem Tile.of_withoutCaches {x y : Tile} (h : x.withoutCaches = y.withoutCaches) :
    x.ctx = y.ctx ∧ x.banks = y.banks ∧ x.m = y.m ∧ x.a = y.a ∧ x.pv = y.pv ∧ x.fs = y.fs := by
  have hctx := congrArg Tile.ctx h
  have hbanks := congrArg Tile.banks h
  have hm := congrArg Tile.m h
  have ha := congrArg Tile.a h
  have hpv := congrArg Tile.pv h
  have hfs := congrArg Tile.fs h
  exact ⟨hctx, hbanks, hm, ha, hpv, hfs⟩

-- EVALUATION_START

/-- Nothing starts without an evaluation that is ready and a slot that is free. -/
theorem exec_evaluation_none {s : State} {die : Nat} (evid : Nat) (h : s.nextEval die = none ∨ s.freeSlot die = none) :
    exec (.evaluationStart die evid) s = .next s ∧ exec (.waking die evid) s = .next s := by
  change execEvaluationStart die evid s = _ ∧ execWaking die evid s = _
  unfold execEvaluationStart execWaking
  cases hn : s.nextEval die with
  | none => exact ⟨rfl, rfl⟩
  | some r =>
    rw [h.resolve_left (by rw [hn]; simp)]
    exact ⟨rfl, rfl⟩

theorem State.nextEval_none {s : State} {die : Nat}
    (h : ((s.die die).recs.filter fun r => r.place == .ready && s.evalRuns die r) = []) : s.nextEval die = none := by
  unfold State.nextEval
  rw [h]
  rfl

/-- The slot's tile with an evaluation's bank and configurations. -/
def slotLoaded (x : Tile) (b : Nat) (cs : Sparse Cfg) (y : Bank) : Tile := { bankCfgs x b cs with banks := Sparse.set x.banks b y }

/-- The unit of an evaluation that starts. -/
def evalUnit (s : State) (die : Nat) (r : EvRec) (n : Nat) : Actor :=
  { Actor.idle with
    kind := .eval, ctx := r.ctx, tile := slotTile die n, bank := n % 4, active := 8 * (n % 4), start := s.cycle }

/-- An evaluation stands in its slot. -/
def State.startIn (s s0 : State) (die : Nat) (r : EvRec) (n : Nat) (cs : Sparse Cfg) : State :=
  ((((s0.unhold die (16 + r.evid)).poolTile (slotTile die n) r.ctx).modTile (slotTile die n) fun x =>
    slotLoaded x (n % 4) cs (startBank (s0.unhold die (16 + r.evid)) die r)).setActor (evalKey die n) (evalUnit s die r n)).modRec die r.evid
      fun r => { r with place := .slot n, cfgs := cs }

theorem exec_evaluationStart {s s0 : State} {die n : Nat} {r : EvRec} {x : Tile} (hr : s.nextEval die = some r)
    (hn : s.freeSlot die = some n) (hw : r.woken = false) (hh : s.evalHeld die r.evid = false)
    (hl : s.loadEval die r.ctx (s.hEval r.head) = (s0, .ok x)) :
    exec (.evaluationStart die r.evid) s = .next (s.startIn s0 die r n x.cfgs) := by
  change execEvaluationStart die r.evid s = _
  unfold execEvaluationStart
  rw [hr, hn]
  dsimp only
  rw [if_neg (by rw [hw, hh]; simp), hl]
  rfl

theorem State.startIn_tile (s s0 : State) (die : Nat) (r : EvRec) (n : Nat) (cs : Sparse Cfg) :
    (s.startIn s0 die r n cs).tile (slotTile die n) =
      slotLoaded (((s0.unhold die (16 + r.evid)).poolTile (slotTile die n) r.ctx).tile (slotTile die n)) (n % 4) cs
        (startBank (s0.unhold die (16 + r.evid)) die r) := by
  have h : (s.startIn s0 die r n cs).tile (slotTile die n) =
      (((s0.unhold die (16 + r.evid)).poolTile (slotTile die n) r.ctx).modTile (slotTile die n) fun x =>
        slotLoaded x (n % 4) cs (startBank (s0.unhold die (16 + r.evid)) die r)).tile (slotTile die n) := rfl
  rw [h, State.tile_modTile, if_pos rfl]

theorem State.startIn_actor (s s0 : State) (die : Nat) (r : EvRec) (n : Nat) (cs : Sparse Cfg) :
    (s.startIn s0 die r n cs).actor (evalKey die n) = evalUnit s die r n := by
  have h : (s.startIn s0 die r n cs).actor (evalKey die n) =
      ((((s0.unhold die (16 + r.evid)).poolTile (slotTile die n) r.ctx).modTile (slotTile die n) fun x =>
        slotLoaded x (n % 4) cs (startBank (s0.unhold die (16 + r.evid)) die r)).setActor (evalKey die n)
          (evalUnit s die r n)).actor (evalKey die n) := rfl
  rw [h, State.actor_setActor, if_pos rfl]

/-- What stands in the slot when an evaluation has started. -/
theorem State.startIn_spec (s s0 : State) (die : Nat) (r : EvRec) (n : Nat) (cs : Sparse Cfg) :
    let t := s.startIn s0 die r n cs
    let k := t.tile (slotTile die n)
    let u := t.actor (evalKey die n)
    k.ctx = some r.ctx ∧ u.ctx = r.ctx ∧ u.kind = .eval ∧ u.tile = slotTile die n ∧ u.bank = n % 4 ∧ u.active = 8 * (n % 4) ∧
    (k.bank (n % 4)).g = (startBank s0 die r).g ∧ (k.bank (n % 4)).v = [] ∧
    ((s0.tile (slotTile die n)).ctx = some r.ctx →
      k = { s0.tile (slotTile die n) with banks := k.banks, cfgs := k.cfgs }) ∧
    ((s0.tile (slotTile die n)).ctx ≠ some r.ctx → k.m = [] ∧ k.a = [] ∧ k.pv = [] ∧ k.fs = 0 ∧ k.sp = []) ∧
    (∀ r' ∈ (t.die die).recs, r'.evid = r.evid → r'.place = .slot n) := by
  intro t k u
  have hk : k = slotLoaded (((s0.unhold die (16 + r.evid)).poolTile (slotTile die n) r.ctx).tile (slotTile die n)) (n % 4) cs
      (startBank (s0.unhold die (16 + r.evid)) die r) := s.startIn_tile s0 die r n cs
  have hu : u = evalUnit s die r n := s.startIn_actor s0 die r n cs
  have hctx := (s0.unhold die (16 + r.evid)).poolTile_ctx (slotTile die n) r.ctx
  have hb : k.bank (n % 4) = startBank (s0.unhold die (16 + r.evid)) die r := by rw [hk]; exact Tile.bank_set _ _ _ rfl
  refine ⟨by rw [hk]; exact hctx, by rw [hu]; rfl, by rw [hu]; rfl, by rw [hu]; rfl, by rw [hu]; rfl, by rw [hu]; rfl, by rw [hb]; rfl,
    by rw [hb]; rfl, fun h => ?_, fun h => ?_, fun r' hr' he => ?_⟩
  · rw [State.poolTile_same (s := s0.unhold die (16 + r.evid)) h] at hk
    rw [hk]
    rfl
  · rw [State.poolTile_other (s := s0.unhold die (16 + r.evid)) h] at hk
    rw [hk]
    exact ⟨rfl, rfl, rfl, rfl, rfl⟩
  · obtain ⟨r0, rfl⟩ := State.modRec_changed hr' he
    rfl

-- WAKING

/-- The unit of an evaluation that returns to a slot. -/
def wokenUnit (u : Actor) (key tile b : Nat) : Actor :=
  { u with
    tile := tile, bank := b, active := 8 * b + u.active % 8
    reissue := u.reissue.map fun x => { x with fire := { x.fire with actor := key, tile := tile, bank := b, cfg := 8 * b + x.fire.cfg % 8 } }
    sleep := match u.sleep with
      | some (.job h f d t) => some (.job h { f with actor := key, tile := tile, bank := b, cfg := 8 * b + f.cfg % 8 } d t)
      | x => x }

/-- The slot and its tile when an evaluation returns to it. -/
def State.wokenTile (s : State) (die : Nat) (r : EvRec) (n : Nat) (u : Actor) : State :=
  ((s.poolTile (slotTile die n) r.ctx).modTile (slotTile die n) fun x =>
    { bankCfgs x (n % 4) r.cfgs with banks := Sparse.set x.banks (n % 4) r.bank, fs := r.factor }).setActor (evalKey die n)
      (wokenUnit u (evalKey die n) (slotTile die n) (n % 4))

/-- And its record. -/
def State.wokenRec (s : State) (die : Nat) (r : EvRec) (n : Nat) (u : Actor) : State :=
  let s3 := { s.wokenTile die r n u with
    accs := rekey (parkedKey die r.evid) (evalKey die n) (slotTile die n) (n % 4) (s.wokenTile die r n u).accs }
  s3.modRec die r.evid fun r => { r with
    place := .slot n, woken := false, unit := none, queued := s3.otherCell (evalKey die n) s3.nextAcc }

/-- What follows is the delivery of what its loads have answered, and its interface. -/
theorem State.unpark_runs (s : State) (die : Nat) (r : EvRec) (n : Nat) (u : Actor) :
    (s.wokenRec die r n u).Runs (s.unpark die r n u) := by
  have h5 (t : State) (c : Prop) [Decidable c] : t.Runs (if c then t.after 1 (.parking die r.evid) else t) := by
    split
    · exact .begins (.after ..)
    · exact .refl t
  exact ((h5 _ _).trans (.foldl (fun s id => .begins (.now s (.answerDelivery id))) _ _)).trans (State.pump_runs ..)

theorem exec_waking {s : State} {die n : Nat} {r : EvRec} {u : Actor} (hr : s.nextEval die = some r) (hn : s.freeSlot die = some n)
    (hw : r.woken = true) (hu : r.unit = some u) : exec (.waking die r.evid) s = .next (s.unpark die r n u) := by
  change execWaking die r.evid s = _
  unfold execWaking
  rw [hr, hn]
  dsimp only
  rw [hu]
  exact congrArg Host.Outcome.next (if_pos ⟨rfl, hw⟩)

/-- What stands in the slot when an evaluation has returned to it. -/
theorem State.unpark_spec (s : State) (die : Nat) (r : EvRec) (n : Nat) (u : Actor) :
    let t := s.unpark die r n u
    let k := t.tile (slotTile die n)
    k.ctx = some r.ctx ∧ k.bank (n % 4) = r.bank ∧ k.fs = r.factor ∧
    ((s.tile (slotTile die n)).ctx = some r.ctx → k.m = (s.tile (slotTile die n)).m ∧ k.a = (s.tile (slotTile die n)).a ∧
      k.pv = (s.tile (slotTile die n)).pv) ∧
    (t.actor (evalKey die n)).tile = slotTile die n ∧ (t.actor (evalKey die n)).bank = n % 4 ∧
    (∀ r' ∈ (t.die die).recs, r'.evid = r.evid → r'.place = .slot n ∧ r'.woken = false) := by
  intro t k
  have hruns := s.unpark_runs die r n u
  have h1 : (s.wokenRec die r n u).tile (slotTile die n) = { bankCfgs ((s.poolTile (slotTile die n) r.ctx).tile (slotTile die n)) (n % 4) r.cfgs with
      banks := Sparse.set ((s.poolTile (slotTile die n) r.ctx).tile (slotTile die n)).banks (n % 4) r.bank, fs := r.factor } := by
    have h : (s.wokenRec die r n u).tile (slotTile die n) = ((s.poolTile (slotTile die n) r.ctx).modTile (slotTile die n) fun x =>
      { bankCfgs x (n % 4) r.cfgs with banks := Sparse.set x.banks (n % 4) r.bank, fs := r.factor }).tile (slotTile die n) := rfl
    rw [h, State.tile_modTile, if_pos rfl]
  have hk := hruns.tile (slotTile die n)
  rw [h1] at hk
  obtain ⟨hctx, hbanks, hm, ha, hpv, hfs⟩ := Tile.of_withoutCaches hk
  have hact : (s.wokenRec die r n u).actor (evalKey die n) = wokenUnit u (evalKey die n) (slotTile die n) (n % 4) := by
    have h : (s.wokenRec die r n u).actor (evalKey die n) = (s.wokenTile die r n u).actor (evalKey die n) := rfl
    rw [h]
    unfold State.wokenTile
    rw [State.actor_setActor, if_pos rfl]
  obtain ⟨hp1, hp2⟩ := hruns.place (evalKey die n)
  rw [hact] at hp1 hp2
  refine ⟨hctx.trans (s.poolTile_ctx _ _), Tile.bank_set _ _ _ hbanks, hfs, fun h => ?_, hp1, hp2, fun r' hr' he => ?_⟩
  · rw [State.poolTile_same h] at hm ha hpv
    exact ⟨hm, ha, hpv⟩
  · have hrecs : (t.die die).recs = ((s.wokenRec die r n u).die die).recs := congrArg (·.1) (hruns.die die)
    rw [hrecs] at hr'
    obtain ⟨r0, rfl⟩ := State.modRec_changed hr' he
    exact ⟨rfl, rfl⟩

-- PARKING

theorem exec_parking_none {s : State} {die evid : Nat} (h : (s.die die).recs.find? (fun r => r.evid == evid) = none) :
    exec (.parking die evid) s = .next s := by
  change execParking die evid s = _
  unfold execParking
  rw [h]

theorem exec_parking {s : State} {die evid : Nat} {r : EvRec} (h : (s.die die).recs.find? (fun r => r.evid == evid) = some r) :
    exec (.parking die evid) s = .next ((s.walkCells die evid r.walks).park die evid) := by
  change execParking die evid s = _
  unfold execParking
  rw [h]

section
variable {s : State} {die evid n : Nat} {r : EvRec}

theorem State.park_stays (h : (s.die die).recs.find? (fun r => r.evid == evid) = some r)
    (hc : (∀ n, r.place ≠ .slot n) ∨ r.queued = none) : s.park die evid = s := by
  unfold State.park
  rw [h]
  dsimp only
  split
  · rename_i n hp
    exact if_pos (by rw [hc.resolve_left fun hall => hall n hp]; rfl)
  · rfl

theorem State.park_pending (h : (s.die die).recs.find? (fun r => r.evid == evid) = some r) (hp : r.place = .slot n)
    (hq : r.queued ≠ none) (he : s.evalPending (evalKey die n) (s.actor (evalKey die n)).tile = true) :
    s.park die evid = s.after 1 (.parking die evid) := by
  unfold State.park
  rw [h]
  dsimp only
  rw [hp]
  exact (if_neg (by simpa using hq)).trans (if_pos he)

theorem State.park_parks (h : (s.die die).recs.find? (fun r => r.evid == evid) = some r) (hp : r.place = .slot n)
    (hq : r.queued ≠ none) (he : s.evalPending (evalKey die n) (s.actor (evalKey die n)).tile = false) :
    s.park die evid = s.parkUnit die r n .parked := by
  unfold State.park
  rw [h]
  dsimp only
  rw [hp]
  exact (if_neg (by simpa using hq)).trans (if_neg (by rw [he]; decide))

/-- The key of an evaluation off its slot is none of a slot's of its die. -/
theorem parkedKey_ne (die evid n : Nat) (hn : n < 128) : parkedKey die evid ≠ evalKey die n := by
  unfold parkedKey evalKey
  omega

theorem rekey_none {old new tile bank : Nat} {accs : List Access} (hne : new ≠ old) : ∀ a ∈ rekey old new tile bank accs, a.actor ≠ old := by
  intro a ha
  obtain ⟨x, -, rfl⟩ := List.mem_map.mp ha
  split
  · exact hne
  · assumption

/-- An evaluation that parks frees its slot, and its record keeps its bank, its unit and fs. -/
theorem State.parkUnit_spec (h : (s.die die).recs.find? (fun r => r.evid == evid) = some r) (hn : n < 128) :
    let t := s.parkUnit die r n .parked
    let key := evalKey die n
    let u := s.actor key
    Sparse.find? t.actors key = none ∧ t.mem = s.mem ∧ t.tiles = s.tiles ∧ (∀ a ∈ t.accs, a.actor ≠ key) ∧
      ∃ r', (t.die die).recs.find? (fun r => r.evid == evid) = some r' ∧ r'.place = .parked ∧
        r'.bank = (s.tile u.tile).bank u.bank ∧ r'.unit = some u ∧ r'.factor = (s.tile u.tile).fs := by
  intro t key u
  have hev : r.evid = evid := by simpa using List.find?_some h
  have hdel : Sparse.find? (Sparse.del s.actors key) key = none := by rw [Sparse.find_del, if_pos rfl]
  refine ⟨hdel, rfl, rfl, rekey_none (parkedKey_ne die r.evid n hn), { r with
    place := .parked, bank := (s.tile u.tile).bank u.bank, unit := some u, factor := (s.tile u.tile).fs }, ?_, rfl, rfl, rfl, rfl⟩
  have hfind := State.modRec_find (s := { s with
      accs := rekey key (parkedKey die r.evid) u.tile u.bank s.accs, actors := Sparse.del s.actors key })
    (f := fun r => { r with place := .parked, bank := (s.tile u.tile).bank u.bank, unit := some u, factor := (s.tile u.tile).fs })
    (fun _ => rfl) h
  rw [← hev] at hfind ⊢
  exact hfind

end

/-- The clause of O54 on evaluations. -/
theorem evaluations_spec (s : State) (die evid : Nat) :
    let rs := (s.die die).recs.filter fun r => r.place == .ready && s.evalRuns die r
    (rs = [] ∨ s.freeSlot die = none →
      exec (.evaluationStart die evid) s = .next s ∧ exec (.waking die evid) s = .next s) ∧
    (∀ r n, s.nextEval die = some r → s.freeSlot die = some n → r.evid = evid → r.woken = false → s.evalHeld die evid = false →
      ∀ s0 x, s.loadEval die r.ctx (s.hEval r.head) = (s0, .ok x) →
        ∃ t, exec (.evaluationStart die evid) s = .next t ∧
          let k := t.tile (slotTile die n)
          let u := t.actor (evalKey die n)
          k.ctx = some r.ctx ∧ u.ctx = r.ctx ∧ u.kind = .eval ∧ u.tile = slotTile die n ∧ u.bank = n % 4 ∧ u.active = 8 * (n % 4) ∧
          (k.bank (n % 4)).g = (startBank s0 die r).g ∧ (k.bank (n % 4)).v = [] ∧
          ((s0.tile (slotTile die n)).ctx = some r.ctx →
            k = { s0.tile (slotTile die n) with banks := k.banks, cfgs := k.cfgs }) ∧
          ((s0.tile (slotTile die n)).ctx ≠ some r.ctx → k.m = [] ∧ k.a = [] ∧ k.pv = [] ∧ k.fs = 0 ∧ k.sp = []) ∧
          (∀ r' ∈ (t.die die).recs, r'.evid = evid → r'.place = .slot n)) ∧
    (∀ r n u, s.nextEval die = some r → s.freeSlot die = some n → r.evid = evid → r.woken = true → r.unit = some u →
      ∃ t, exec (.waking die evid) s = .next t ∧
        let k := t.tile (slotTile die n)
        k.ctx = some r.ctx ∧ k.bank (n % 4) = r.bank ∧ k.fs = r.factor ∧
        ((s.tile (slotTile die n)).ctx = some r.ctx → k.m = (s.tile (slotTile die n)).m ∧ k.a = (s.tile (slotTile die n)).a ∧
          k.pv = (s.tile (slotTile die n)).pv) ∧
        (t.actor (evalKey die n)).tile = slotTile die n ∧ (t.actor (evalKey die n)).bank = n % 4 ∧
        (∀ r' ∈ (t.die die).recs, r'.evid = evid → r'.place = .slot n ∧ r'.woken = false)) ∧
    ((s.die die).recs.find? (fun r => r.evid == evid) = none → exec (.parking die evid) s = .next s) ∧
    (∀ r r1, (s.die die).recs.find? (fun r => r.evid == evid) = some r →
      let s1 := s.walkCells die evid r.walks
      (s1.die die).recs.find? (fun r => r.evid == evid) = some r1 →
      ((∀ n, r1.place ≠ .slot n) ∨ r1.queued = none → exec (.parking die evid) s = .next s1) ∧
      (∀ n, r1.place = .slot n → n < 128 → r1.queued ≠ none →
        let key := evalKey die n
        let u := s1.actor key
        (s1.evalPending key u.tile = true → exec (.parking die evid) s =
          .next { s1 with timers := s1.timers ++ [(s1.cycle + 1, .parking die evid)] }) ∧
        (s1.evalPending key u.tile = false → ∃ t, exec (.parking die evid) s = .next t ∧
          Sparse.find? t.actors key = none ∧ t.mem = s1.mem ∧ t.tiles = s1.tiles ∧ (∀ a ∈ t.accs, a.actor ≠ key) ∧
          ∃ r', (t.die die).recs.find? (fun r => r.evid == evid) = some r' ∧ r'.place = .parked ∧
            r'.bank = (s1.tile u.tile).bank u.bank ∧ r'.unit = some u ∧ r'.factor = (s1.tile u.tile).fs))) := by
  intro rs
  refine ⟨fun h => exec_evaluation_none evid (h.imp_left State.nextEval_none), fun r n hr hn he hw hh s0 x hl => ?_,
    fun r n u hr hn he hw hu => ?_, exec_parking_none, fun r r1 hf => ?_⟩
  · subst he
    exact ⟨_, exec_evaluationStart hr hn hw hh hl, s.startIn_spec s0 die r n x.cfgs⟩
  · subst he
    exact ⟨_, exec_waking hr hn hw hu, s.unpark_spec die r n u⟩
  · intro s1 hf1
    have hex := exec_parking hf
    refine ⟨fun hc => hex.trans (congrArg Host.Outcome.next (State.park_stays hf1 hc)), fun n hp hn hq => ?_⟩
    intro key u
    refine ⟨fun he => hex.trans (congrArg Host.Outcome.next (State.park_pending hf1 hp hq he)), fun he => ?_⟩
    exact ⟨_, hex.trans (congrArg Host.Outcome.next (State.park_parks hf1 hp hq he)), State.parkUnit_spec hf1 hn⟩

end Sys2Proof.Machine
end

section
open Sys2Proof Sys2Proof.Machine Sys2Proof.Spec

/-- Settles O54: each clause is the specification of an event above. -/
theorem engineEvents : Obligations.EngineEvents :=
  ⟨streamElement_spec, jobStart_spec, jobElement_spec, jobCompletion_spec, collectiveTimeout_spec, evaluations_spec,
    fun s pa i hw => barrierWithdrawal_spec s pa i hw, trapRings⟩

end

section
/-! SUPPORT. Number formats as rationals: the number that a decoded element, an encoding and an exact result stand for, and the
arithmetic of chapter 3 on them. -/

namespace Sys2Proof.Machine
open Sys2Proof.Spec

-- SIGNED NUMBERS

/-- A magnitude under a sign. -/
def signed (s : Bool) (v : ℚ) : ℚ := if s then -v else v

@[simp] theorem signed_true (v : ℚ) : signed true v = -v := rfl
@[simp] theorem signed_false (v : ℚ) : signed false v = v := rfl
theorem signed_mul (s t : Bool) (u v : ℚ) : signed (xor s t) (u * v) = signed s u * signed t v := by
  cases s <;> cases t <;> simp
theorem signed_not (s : Bool) (v : ℚ) : signed (!s) v = -signed s v := by cases s <;> simp
theorem signed_scale (s : Bool) (u v : ℚ) : signed s u * v = signed s (u * v) := by cases s <;> simp
@[simp] theorem signed_zero (s : Bool) : signed s 0 = 0 := by cases s <;> simp
@[simp] theorem signed_eq_zero {s : Bool} {v : ℚ} : signed s v = 0 ↔ v = 0 := by cases s <;> simp
@[simp] theorem abs_signed (s : Bool) (v : ℚ) : |signed s v| = |v| := by cases s <;> simp
theorem signed_neg_iff {s : Bool} {v : ℚ} (h : 0 < v) : signed s v < 0 ↔ s = true := by
  cases s
  · simpa using h.le
  · simpa using h
theorem signed_pos_iff {s : Bool} {v : ℚ} (h : 0 < v) : 0 < signed s v ↔ s = false := by
  cases s
  · simpa using h
  · simpa using h.le

-- FINITE NUMBERS

/-- A decoded element is finite, with sign `s` and value `v`. -/
def Num.Holds (x : Num) (s : Bool) (v : ℚ) : Prop := ∃ m e, x = .fin s m e ∧ v = signed s (m * 2 ^ e)

/-- An exact result is finite and of value `v`; a zero has sign `z`. -/
def Exact.Denotes : Exact → Bool → ℚ → Prop
  | .zero s, z, v => s = z ∧ v = 0
  | .rat s p q e, _, v => 0 < p ∧ 0 < q ∧ v = signed s (p / q * 2 ^ e)
  | _, _, _ => False

theorem Num.holds_fin (s : Bool) (m : Nat) (e : Int) : (Num.fin s m e).Holds s (signed s (m * 2 ^ e)) := ⟨m, e, rfl, rfl⟩
theorem Num.Holds.sign {x : Num} {s : Bool} {v : ℚ} (h : x.Holds s v) : x.sign = s := by
  obtain ⟨m, e, rfl, -⟩ := h
  rfl
theorem Num.Holds.isNaN {x : Num} {s : Bool} {v : ℚ} (h : x.Holds s v) : x.isNaN = false := by
  obtain ⟨m, e, rfl, -⟩ := h
  rfl
theorem Num.Holds.neg {x : Num} {s : Bool} {v : ℚ} (h : x.Holds s v) : x.neg.Holds (!s) (-v) := by
  obtain ⟨m, e, rfl, rfl⟩ := h
  exact ⟨m, e, rfl, (signed_not s _).symm⟩
theorem Num.Holds.abs {x : Num} {s : Bool} {v : ℚ} (h : x.Holds s v) : x.abs.Holds false |v| := by
  obtain ⟨m, e, rfl, rfl⟩ := h
  exact ⟨m, e, rfl, by rw [abs_signed, signed_false, abs_of_nonneg (by positivity)]⟩
theorem Num.Holds.scale2 {x : Num} {s : Bool} {v : ℚ} (h : x.Holds s v) (k : Int) : (x.scale2 k).Holds s (v * 2 ^ k) := by
  obtain ⟨m, e, rfl, rfl⟩ := h
  exact ⟨m, e + k, rfl, by rw [signed_scale, mul_assoc, zpow_add₀ two_ne_zero]⟩
/-- The sign of a number that is not zero is that of its value. -/
theorem Num.Holds.sign_iff {x : Num} {s : Bool} {v : ℚ} (h : x.Holds s v) : (v < 0 → s = true) ∧ (0 < v → s = false) := by
  obtain ⟨m, e, rfl, rfl⟩ := h
  have hm : (0 : ℚ) ≤ m * 2 ^ e := by positivity
  cases s
  · exact ⟨fun h => absurd h (by simpa using hm), fun _ => rfl⟩
  · exact ⟨fun _ => rfl, fun h => absurd h (by simpa using hm)⟩

/-- Whether a decoded element is a zero. -/
def Num.isZero : Num → Bool
  | .fin _ 0 _ => true
  | _ => false

theorem Num.Holds.isZero {x : Num} {s : Bool} {v : ℚ} (h : x.Holds s v) : x.isZero = (v == 0) := by
  obtain ⟨m, e, rfl, rfl⟩ := h
  have h2 : (2 : ℚ) ^ e ≠ 0 := by positivity
  cases m with
  | zero => simp [Num.isZero]
  | succ m =>
    have h1 : ((m + 1 : Nat) : ℚ) ≠ 0 := by positivity
    rw [beq_eq_false_iff_ne.mpr (signed_eq_zero.not.mpr (mul_ne_zero h1 h2))]
    rfl

theorem Exact.Denotes.congr {x : Exact} {z z' : Bool} {v : ℚ} (h : x.Denotes z v) (hz : v = 0 → z = z') : x.Denotes z' v := by
  match x, h with
  | .zero s, ⟨hs, hv⟩ => exact ⟨hs.trans (hz hv), hv⟩
  | .rat .., h => exact h

theorem Exact.Denotes.scale2 {x : Exact} {z : Bool} {v : ℚ} (h : x.Denotes z v) (k : Int) : (x.scale2 k).Denotes z (v * 2 ^ k) := by
  match x, h with
  | .zero s, ⟨hs, hv⟩ => exact ⟨hs, by simp [hv]⟩
  | .rat s p q e, ⟨hp, hq, hv⟩ => exact ⟨hp, hq, by rw [hv, signed_scale, mul_assoc, zpow_add₀ two_ne_zero]⟩

theorem Num.Holds.exact {x : Num} {s : Bool} {v : ℚ} (h : x.Holds s v) : x.exact.Denotes s v := by
  obtain ⟨m, e, rfl, rfl⟩ := h
  change (if m = 0 then Exact.zero s else .rat s m 1 e).Denotes _ _
  by_cases h0 : m = 0
  · rw [if_pos h0]
    exact ⟨rfl, by simp [h0]⟩
  · rw [if_neg h0]
    exact ⟨Nat.pos_of_ne_zero h0, one_pos, by simp⟩

theorem Exact.denotes_ofInt (z : Bool) (m e : Int) : (Exact.ofInt z m e).Denotes z (m * 2 ^ e) := by
  unfold Exact.ofInt
  split
  · next h => exact ⟨rfl, by simp [h]⟩
  · next h =>
    refine ⟨Int.natAbs_pos.mpr h, one_pos, ?_⟩
    rw [Nat.cast_one, div_one, Nat.cast_natAbs, Int.cast_abs]
    rcases lt_or_gt_of_ne h with hm | hm
    · have : (m : ℚ) < 0 := by exact_mod_cast hm
      simp [hm, abs_of_neg this]
    · have : (0 : ℚ) < m := by exact_mod_cast hm
      simp [hm.not_gt, abs_of_pos this]

-- ENCODINGS

/-- What the proofs need of a floating-point format (R79): its fields fit its width, and an infinity stands next to the largest
finite magnitude. -/
structure FloatFmt.Regular (f : FloatFmt) : Prop where
  mb_pos : 1 ≤ f.mb
  width_pos : 1 ≤ f.width
  max_lt : f.maxEnc + 1 < 2 ^ (f.width - 1)
  inf : f.infEnc = none ∨ f.infEnc = some (f.maxEnc + 1)
  nan_lt : f.nanEnc < 2 ^ (f.width - 1)
  pay_lt : f.payMask < 2 ^ (f.width - 1)

/-- The layouts of R79 are regular. -/
theorem floatOf_regular {f : Fmt} {ff : FloatFmt} (h : floatOf f = some ff) : ff.Regular := by
  cases f <;> cases h <;> constructor <;> decide

theorem regular_fp32 : fFP32.Regular := floatOf_regular (f := .fp32) rfl
theorem regular_bf16 : fBF16.Regular := floatOf_regular (f := .bf16) rfl
theorem regular_fp16 : fFP16.Regular := floatOf_regular (f := .fp16) rfl

theorem neg_eq (f : FloatFmt) (b : Nat) : neg f b = (b / 2 ^ (f.width - 1) % 2 == 1) := by
  unfold neg
  rw [Nat.testBit_eq_decide_div_mod_eq]
  rfl

/-- A finite encoding decodes to its number (R79, R84). -/
theorem floatValue_finite {f : FloatFmt} (hf : f.Regular) {b : Nat} (h : finite f b) :
    (floatValue f b).Holds (neg f b) (number f b) := by
  have hi : f.infEnc ≠ some (mag f b) := by
    rcases hf.inf with h1 | h1 <;> rw [h1]
    · simp
    · unfold finite at h
      simp
      omega
  have hn : ¬ mag f b > f.maxEnc := by
    unfold finite at h
    omega
  unfold floatValue
  rw [← neg_eq]
  change (if f.infEnc = some (mag f b) then _ else if mag f b > f.maxEnc then _ else _ : Num).Holds _ _
  rw [if_neg hi, if_neg hn]
  change (if mag f b / 2 ^ f.mb = 0 then Num.fin (neg f b) (mag f b % 2 ^ f.mb) _ else _).Holds _ _
  have hp : 0 < 2 ^ f.mb := by positivity
  split
  · next h0 =>
    have hlt : mag f b < 2 ^ f.mb := (Nat.div_eq_zero_iff.mp h0).resolve_left (by omega)
    refine ⟨_, _, rfl, ?_⟩
    rw [number, gridMag, if_pos hlt, Nat.mod_eq_of_lt hlt]
    rfl
  · next h0 =>
    have hge : ¬ mag f b < 2 ^ f.mb := fun hlt => h0 (Nat.div_eq_of_lt hlt)
    refine ⟨_, _, rfl, ?_⟩
    rw [number, gridMag, if_neg hge]
    rfl

/-- An infinity decodes to itself. -/
theorem floatValue_infinite {f : FloatFmt} {b : Nat} (h : infinite f b) : floatValue f b = .inf (neg f b) := by
  unfold floatValue
  rw [← neg_eq]
  exact if_pos h

/-- A NaN decodes to its sign and payload; those of a format without payload are GenNaN(0x1) (R84). -/
theorem floatValue_nan {f : FloatFmt} {b : Nat} (h : isNan f b) :
    floatValue f b = .nan (neg f b) (if f.payMask = 0 then 1 else mag f b % (f.payMask + 1)) := by
  obtain ⟨hf, hi⟩ := h
  unfold floatValue
  rw [← neg_eq]
  exact (if_neg hi).trans (if_pos (Nat.lt_of_not_le hf))

/-- Every encoding is of a finite number, an infinity or a NaN. -/
theorem encoding_cases (f : FloatFmt) (b : Nat) : finite f b ∨ infinite f b ∨ isNan f b := by
  unfold isNan
  tauto

theorem not_infinite_of_finite {f : FloatFmt} (hf : f.Regular) {b : Nat} (h : finite f b) : ¬ infinite f b := by
  unfold finite at h
  unfold infinite
  rcases hf.inf with h1 | h1 <;> rw [h1]
  · simp
  · simp
    omega

-- SUMS

/-- Whether a list of decoded elements holds a list of signs and values. -/
def HoldAll (xs : List Num) (ps : List (Bool × ℚ)) : Prop := List.Forall₂ (fun x p => Num.Holds x p.1 p.2) xs ps

/-- The sign of an exact zero sum of numbers (R96). -/
def zeroSign (rm : Rm) (ps : List (Bool × ℚ)) : Bool :=
  if ps.all (fun p => p.2 == 0 && p.1) && !ps.isEmpty then true
  else if ps.all (fun p => p.2 == 0 && !p.1) then false else rm == .rd

theorem nans_of_holdAll {xs : List Num} {ps : List (Bool × ℚ)} (h : HoldAll xs ps) : nans xs = [] := by
  induction h with
  | nil => rfl
  | cons hx _ ih =>
    obtain ⟨m, e, rfl, -⟩ := hx
    exact ih

theorem HoldAll.all_zero {xs : List Num} {ps : List (Bool × ℚ)} (h : HoldAll xs ps) :
    xs.all Num.isZero = ps.all fun p => p.2 == 0 := by
  induction h with
  | nil => rfl
  | cons hx _ ih => rw [List.all_cons, List.all_cons, ih, hx.isZero]

theorem HoldAll.all_sign {xs : List Num} {ps : List (Bool × ℚ)} (h : HoldAll xs ps) (g : Bool → Bool) :
    (xs.all fun x => g x.sign) = ps.all fun p => g p.1 := by
  induction h with
  | nil => rfl
  | cons hx _ ih => rw [List.all_cons, List.all_cons, ih, hx.sign]

theorem HoldAll.any_inf {xs : List Num} {ps : List (Bool × ℚ)} (h : HoldAll xs ps) (s : Bool) :
    (xs.any fun x => x = .inf s) = false := by
  induction h with
  | nil => rfl
  | cons hx _ ih =>
    obtain ⟨m, e, rfl, -⟩ := hx
    rw [List.any_cons, ih]
    rfl

theorem HoldAll.isEmpty {xs : List Num} {ps : List (Bool × ℚ)} (h : HoldAll xs ps) : xs = [] ↔ ps = [] := by
  cases h <;> simp

theorem all_and {α : Type} (l : List α) (p q : α → Bool) : l.all (fun x => p x && q x) = (l.all p && l.all q) := by
  rw [Bool.eq_iff_iff]
  simp only [List.all_eq_true, Bool.and_eq_true]
  exact forall₂_and

theorem zeroSumSign_eq {xs : List Num} {ps : List (Bool × ℚ)} (h : HoldAll xs ps) (rm : Rm) :
    zeroSumSign rm xs = zeroSign rm ps := by
  have hs := h.all_sign id
  have hn := h.all_sign not
  have hz := h.all_zero
  simp only [id] at hs
  change (if xs.all Num.isZero = true ∧ xs.all (fun x => x.sign) = true ∧ xs ≠ [] then true
    else if xs.all Num.isZero = true ∧ xs.all (fun x => !x.sign) = true then false else decide (rm = .rd)) = _
  unfold zeroSign
  rw [hs, hn, hz, all_and, all_and]
  simp only [ne_eq, h.isEmpty, Bool.and_eq_true, Bool.not_eq_true', List.isEmpty_eq_false_iff, and_assoc]
  rfl

/-- The least exponent of a list and of `d` is below both. -/
theorem minExp_le (xs : List Num) (d : Int) :
    minExp xs d ≤ d ∧ ∀ s m e, Num.fin s m e ∈ xs → minExp xs d ≤ e := by
  induction xs generalizing d with
  | nil => exact ⟨le_rfl, by simp⟩
  | cons x xs ih =>
    cases x with
    | fin s m e =>
      obtain ⟨h1, h2⟩ := ih (if e < d then e else d)
      refine ⟨by unfold minExp; split at h1 <;> split <;> omega, fun s' m' e' h => ?_⟩
      rcases List.mem_cons.mp h with h | h
      · cases h
        unfold minExp
        split at h1 <;> split <;> omega
      · exact h2 s' m' e' h
    | inf s | nan s p =>
      obtain ⟨h1, h2⟩ := ih d
      exact ⟨h1, fun s' m' e' h => h2 s' m' e' (by simpa using h)⟩

theorem alignTo_val {e0 e : Int} (h : e0 ≤ e) (s : Bool) (m : Nat) :
    (alignTo e0 s m e : ℚ) * 2 ^ e0 = signed s (m * 2 ^ e) := by
  have hp : (2 : ℚ) ^ (e - e0).toNat * 2 ^ e0 = 2 ^ e := by
    rw [← zpow_natCast, ← zpow_add₀ two_ne_zero, Int.toNat_of_nonneg (by omega), sub_add_cancel]
  unfold alignTo
  cases s <;> simp [mul_assoc, hp]

theorem sumFin_val {xs : List Num} {ps : List (Bool × ℚ)} (h : HoldAll xs ps) {e0 : Int}
    (he : ∀ s m e, Num.fin s m e ∈ xs → e0 ≤ e) : (sumFin e0 xs : ℚ) * 2 ^ e0 = (ps.map (·.2)).sum := by
  induction h with
  | nil => simp [sumFin]
  | cons hx _ ih =>
    obtain ⟨m, e, rfl, hv⟩ := hx
    have ih := ih fun s m e h => he s m e (List.mem_cons_of_mem _ h)
    rw [sumFin, Int.cast_add, add_mul, alignTo_val (he _ _ _ (List.mem_cons_self ..)), ih, List.map_cons, List.sum_cons, hv]

/-- An exact sum of finite numbers (R96, R97). -/
theorem sumExact_denotes {xs : List Num} {ps : List (Bool × ℚ)} (h : HoldAll xs ps) (rm : Rm) :
    (sumExact rm [] xs).Denotes (zeroSign rm ps) (ps.map (·.2)).sum := by
  unfold sumExact
  simp only [h.any_inf, Bool.false_eq_true, false_and, if_false, List.append_nil, pickNaN]
  rw [zeroSumSign_eq h, ← sumFin_val h (minExp_le xs 0).2]
  exact Exact.denotes_ofInt ..

/-- Two numbers sum to zero with the sign of both, or the one of the rounding mode (R96). -/
theorem zeroSign_two (rm : Rm) {s t : Bool} {u v : ℚ} (hu : (u < 0 → s = true) ∧ (0 < u → s = false))
    (hv : (v < 0 → t = true) ∧ (0 < v → t = false)) (h : u + v = 0) :
    zeroSign rm [(s, u), (t, v)] = if s = t then s else rm == .rd := by
  unfold zeroSign
  rcases lt_trichotomy u 0 with h0 | h0 | h0
  · obtain rfl := hu.1 h0
    obtain rfl := hv.2 (by linarith)
    simp
  · subst h0
    obtain rfl : v = 0 := by linarith
    cases s <;> cases t <;> simp
  · obtain rfl := hu.2 h0
    obtain rfl := hv.1 (by linarith)
    simp

theorem sumExact_two {a b : Num} {s t : Bool} {u v : ℚ} (ha : a.Holds s u) (hb : b.Holds t v) (rm : Rm) :
    (sumExact rm [] [a, b]).Denotes (if s = t then s else rm == .rd) (u + v) := by
  have h := sumExact_denotes (xs := [a, b]) (ps := [(s, u), (t, v)]) (.cons ha (.cons hb .nil)) rm
  simp only [List.map_cons, List.map_nil, List.sum_cons, List.sum_nil, add_zero] at h
  exact h.congr (zeroSign_two rm ha.sign_iff hb.sign_iff)

theorem nans_two {a b : Num} {s t : Bool} {u v : ℚ} (ha : a.Holds s u) (hb : b.Holds t v) : nans [a, b] = [] :=
  nans_of_holdAll (ps := [(s, u), (t, v)]) (.cons ha (.cons hb .nil))

theorem addExact_denotes {a b : Num} {s t : Bool} {u v : ℚ} (ha : a.Holds s u) (hb : b.Holds t v) (rm : Rm) :
    (addExact rm a b).Denotes (if s = t then s else rm == .rd) (u + v) := by
  unfold addExact
  rw [nans_two ha hb]
  exact sumExact_two ha hb rm

theorem subExact_denotes {a b : Num} {s t : Bool} {u v : ℚ} (ha : a.Holds s u) (hb : b.Holds t v) (rm : Rm) :
    (subExact rm a b).Denotes (if s = !t then s else rm == .rd) (u - v) := by
  unfold subExact
  rw [nans_two ha hb, sub_eq_add_neg]
  exact sumExact_two ha hb.neg rm

-- PRODUCTS

theorem mulNum_holds {a b : Num} {s t : Bool} {u v : ℚ} (ha : a.Holds s u) (hb : b.Holds t v) :
    (mulNum a b).Holds (xor s t) (u * v) := by
  obtain ⟨m, e, rfl, rfl⟩ := ha
  obtain ⟨n, f, rfl, rfl⟩ := hb
  refine ⟨m * n, e + f, rfl, ?_⟩
  rw [← signed_mul, Nat.cast_mul, zpow_add₀ two_ne_zero]
  ring_nf

theorem nans_mulNum {a b : Num} {s t : Bool} {u v : ℚ} (ha : a.Holds s u) (hb : b.Holds t v) : nans [mulNum a b] = [] :=
  nans_of_holdAll (ps := [(xor s t, u * v)]) (.cons (mulNum_holds ha hb) .nil)

theorem mulCands_nil {a b : Num} {s t : Bool} {u v : ℚ} (ha : a.Holds s u) (hb : b.Holds t v) : mulCands a b = [] := by
  unfold mulCands
  rw [nans_two ha hb, nans_mulNum ha hb]
  split <;> rfl

theorem mulExact_denotes {a b : Num} {s t : Bool} {u v : ℚ} (ha : a.Holds s u) (hb : b.Holds t v) :
    (mulExact a b).Denotes (xor s t) (u * v) := by
  unfold mulExact
  rw [mulCands_nil ha hb]
  exact (mulNum_holds ha hb).exact

theorem fmaExact_denotes {a b c : Num} {s t r : Bool} {u v w : ℚ} (ha : a.Holds s u) (hb : b.Holds t v) (hc : c.Holds r w)
    (rm : Rm) : (fmaExact rm a b c).Denotes (if xor s t = r then r else rm == .rd) (u * v + w) := by
  have hab := mulNum_holds ha hb
  have hn : nans [a, b, c] = [] := nans_of_holdAll (ps := [(s, u), (t, v), (r, w)]) (.cons ha (.cons hb (.cons hc .nil)))
  unfold fmaExact
  simp only [hn, nans_mulNum ha hb, hab.isNaN, ite_self, List.append_nil, Bool.false_eq_true, if_false]
  refine (sumExact_two hab hc rm).congr fun _ => ?_
  split
  · next h => exact h
  · rfl

/-- A reciprocal (R298). -/
theorem rcpExact_denotes {a : Num} {s : Bool} {u : ℚ} (ha : a.Holds s u) (h : u ≠ 0) : (rcpExact a).Denotes false u⁻¹ := by
  obtain ⟨m, e, rfl, rfl⟩ := ha
  have hm : m ≠ 0 := by
    rintro rfl
    simp at h
  rw [rcpExact, if_neg hm]
  refine ⟨one_pos, Nat.pos_of_ne_zero hm, ?_⟩
  cases s <;> simp [mul_comm]

-- COMPARISON

/-- Comparison of finite numbers is that of their values. -/
theorem cmpNum_eq {a b : Num} {s t : Bool} {u v : ℚ} (ha : a.Holds s u) (hb : b.Holds t v) : cmpNum a b = compare u v := by
  obtain ⟨m, e, rfl, rfl⟩ := ha
  obtain ⟨n, f, rfl, rfl⟩ := hb
  set e0 := if e < f then e else f with he0
  have h1 : e0 ≤ e := by rw [he0]; split <;> omega
  have h2 : e0 ≤ f := by rw [he0]; split <;> omega
  have hp : (0 : ℚ) < 2 ^ e0 := by positivity
  rw [← alignTo_val h1, ← alignTo_val h2]
  change compare (alignTo e0 s m e) (alignTo e0 t n f) = _
  rcases lt_trichotomy (alignTo e0 s m e) (alignTo e0 t n f) with h | h | h
  · rw [compare_lt_iff_lt.mpr h, compare_lt_iff_lt.mpr]
    exact mul_lt_mul_of_pos_right (by exact_mod_cast h) hp
  · rw [h]
    simp
  · rw [compare_gt_iff_gt.mpr h, compare_gt_iff_gt.mpr]
    exact mul_lt_mul_of_pos_right (by exact_mod_cast h) hp

theorem ltZ_iff {a b : Num} {s t : Bool} {u v : ℚ} (ha : a.Holds s u) (hb : b.Holds t v) :
    ltZ a b = true ↔ u < v ∨ (u = v ∧ s = true ∧ t = false) := by
  unfold ltZ
  rw [cmpNum_eq ha hb, ha.sign, hb.sign]
  rcases lt_trichotomy u v with h | h | h
  · simp [compare_lt_iff_lt.mpr h, h]
  · simp [h]
  · simp [compare_gt_iff_gt.mpr h, h.not_gt, h.ne']

/-- The greater of two finite numbers, a zero of the greater sign (R96). -/
theorem minMax_true_holds {a b : Num} {s t : Bool} {u v : ℚ} (ha : a.Holds s u) (hb : b.Holds t v) :
    ∃ r, (minMax true a b).Holds r (max u v) ∧ (max u v = 0 → r = ((u != 0 || s) && (v != 0 || t))) := by
  unfold minMax
  rw [nans_two ha hb]
  change ∃ r, (if true = true then (if ltZ a b then b else a) else _ : Num).Holds r _ ∧ _
  rw [if_pos rfl]
  by_cases h : ltZ a b = true
  · rw [if_pos h]
    rcases (ltZ_iff ha hb).mp h with h | ⟨rfl, rfl, rfl⟩
    · rw [max_eq_right h.le]
      exact ⟨t, hb, fun h0 => by simp [h0, (h0 ▸ h).ne]⟩
    · rw [max_self]
      exact ⟨false, hb, fun h0 => by simp [h0]⟩
  · rw [if_neg h]
    rw [ltZ_iff ha hb, not_or, not_lt] at h
    obtain ⟨h1, h2⟩ := h
    rw [max_eq_left h1]
    refine ⟨s, ha, fun h0 => ?_⟩
    subst h0
    rcases h1.lt_or_eq with h1 | rfl
    · simp [h1.ne]
    · cases s <;> cases t <;> simp at h2 ⊢

/-- The lesser of two finite numbers, a zero of the lesser sign (R96). -/
theorem minMax_false_holds {a b : Num} {s t : Bool} {u v : ℚ} (ha : a.Holds s u) (hb : b.Holds t v) :
    ∃ r, (minMax false a b).Holds r (min u v) ∧ (min u v = 0 → r = (u == 0 && s || v == 0 && t)) := by
  unfold minMax
  rw [nans_two ha hb]
  change ∃ r, (if false = true then _ else (if ltZ b a then b else a) : Num).Holds r _ ∧ _
  rw [if_neg Bool.false_ne_true]
  by_cases h : ltZ b a = true
  · rw [if_pos h]
    rcases (ltZ_iff hb ha).mp h with h | ⟨rfl, rfl, rfl⟩
    · rw [min_eq_right h.le]
      exact ⟨t, hb, fun h0 => by simp [h0, (h0 ▸ h).ne']⟩
    · rw [min_self]
      exact ⟨true, hb, fun h0 => by simp [h0]⟩
  · rw [if_neg h]
    rw [ltZ_iff hb ha, not_or, not_lt] at h
    obtain ⟨h1, h2⟩ := h
    rw [min_eq_left h1]
    refine ⟨s, ha, fun h0 => ?_⟩
    subst h0
    rcases h1.lt_or_eq with h1 | rfl
    · simp [h1.ne']
    · cases s <;> cases t <;> simp at h2 ⊢

end Sys2Proof.Machine
end

section
/-! SUPPORT. Rounding (R86 to R91): the grid of a floating-point format, the one rounding of an exact number onto it, and the rounding
to an integer. -/

namespace Sys2Proof.Machine
open Sys2Proof.Spec

-- THE GRID

/-- A magnitude of the grid by its binade `c` and its significand `lo`, one past the binade included. -/
theorem gridMag_eq (f : FloatFmt) {c lo : Nat} (hlo : c = 0 ∨ 2 ^ f.mb ≤ lo) (hhi : lo ≤ 2 ^ (f.mb + 1)) :
    gridMag f (c * 2 ^ f.mb + lo) = lo * 2 ^ (f.emin - f.mb + c) := by
  have hp : 0 < 2 ^ f.mb := by positivity
  rw [pow_succ] at hhi
  rcases Nat.lt_or_ge lo (2 ^ f.mb) with h | h
  · obtain rfl : c = 0 := hlo.resolve_right (by omega)
    rw [Nat.zero_mul, Nat.zero_add, gridMag, if_pos h, Nat.cast_zero, add_zero]
  · rcases hhi.lt_or_eq with h' | rfl
    · have hd : (c * 2 ^ f.mb + lo) / 2 ^ f.mb = c + 1 := by
        rw [Nat.div_eq_iff hp]
        constructor <;> [rw [Nat.add_mul]; rw [Nat.add_mul]] <;> omega
      have hm : 2 ^ f.mb + (c * 2 ^ f.mb + lo) % 2 ^ f.mb = lo := by
        have := Nat.div_add_mod (c * 2 ^ f.mb + lo) (2 ^ f.mb)
        rw [hd, Nat.mul_add, Nat.mul_comm] at this
        omega
      rw [gridMag, if_neg (by have := Nat.zero_le (c * 2 ^ f.mb); omega), hd, hm]
      congr 2
      push_cast
      ring
    · have hk : c * 2 ^ f.mb + 2 ^ f.mb * 2 = (c + 2) * 2 ^ f.mb := by ring
      rw [hk, gridMag, if_neg (by nlinarith), Nat.mul_mod_left, Nat.mul_div_cancel _ hp]
      rw [show f.emin - f.mb + ((c + 2 : Nat) : ℤ) - 1 = f.emin - f.mb + c + 1 by push_cast; ring, zpow_add_one₀ two_ne_zero]
      push_cast
      ring

/-- Every index has a binade and a significand in it. -/
theorem grid_index (f : FloatFmt) (k : Nat) :
    ∃ c lo, k = c * 2 ^ f.mb + lo ∧ (c = 0 ∨ 2 ^ f.mb ≤ lo) ∧ lo < 2 ^ (f.mb + 1) := by
  have hp : 0 < 2 ^ f.mb := by positivity
  have hk := Nat.div_add_mod k (2 ^ f.mb)
  have hm := Nat.mod_lt k hp
  rw [pow_succ]
  rcases Nat.eq_zero_or_pos (k / 2 ^ f.mb) with h | h
  · rw [h] at hk
    exact ⟨0, k, by omega, .inl rfl, by omega⟩
  · obtain ⟨c, hc⟩ := Nat.exists_eq_add_of_le h
    rw [hc, Nat.mul_add, Nat.mul_comm _ c] at hk
    exact ⟨c, 2 ^ f.mb + k % 2 ^ f.mb, by omega, .inr (by omega), by omega⟩

theorem gridMag_lt_succ (f : FloatFmt) (k : Nat) : gridMag f k < gridMag f (k + 1) := by
  obtain ⟨c, lo, rfl, hlo, hhi⟩ := grid_index f k
  rw [gridMag_eq f hlo hhi.le, Nat.add_assoc, gridMag_eq f (hlo.imp_right (by omega)) hhi]
  exact mul_lt_mul_of_pos_right (by push_cast; linarith) (by positivity)

theorem gridMag_strictMono (f : FloatFmt) : StrictMono (gridMag f) := strictMono_nat_of_lt_succ (gridMag_lt_succ f)

@[simp] theorem gridMag_zero (f : FloatFmt) : gridMag f 0 = 0 := by simp [gridMag]

theorem gridMag_nonneg (f : FloatFmt) (k : Nat) : 0 ≤ gridMag f k :=
  (gridMag_zero f).symm.trans_le ((gridMag_strictMono f).monotone (Nat.zero_le k))

/-- The index of the grid below a magnitude is unique. -/
theorem gridMag_unique {f : FloatFmt} {k k' : Nat} {v : ℚ} (h1 : gridMag f k ≤ v) (h2 : v < gridMag f (k + 1))
    (h1' : gridMag f k' ≤ v) (h2' : v < gridMag f (k' + 1)) : k = k' := by
  have h := (gridMag_strictMono f).lt_iff_lt.mp (h1.trans_lt h2')
  have h' := (gridMag_strictMono f).lt_iff_lt.mp (h1'.trans_lt h2)
  omega

-- WHETHER A MAGNITUDE GOES UP

/-- A mode's choice between the neighbours of n / d units is that of R86 and R88. -/
theorem roundUp_iff (rm : Rm) (s odd : Bool) {n d : Nat} (hn : 0 < n) (hd : 0 < d) (q : Nat) {u : ℚ} (hu : 0 < u) :
    roundUp rm s odd (n % d) d q = true ↔
      goesUp rm (signed s (n / d * u)) ((n / d : Nat) * u) (((n / d : Nat) + 1) * u) odd q := by
  have hdq : (0 : ℚ) < d := by exact_mod_cast hd
  have hv : (0 : ℚ) < n / d * u := by positivity
  have habs : |signed s ((n : ℚ) / d * u)| = ((n / d : Nat) + (n % d : Nat) / d) * u := by
    rw [abs_signed, abs_of_pos hv]
    congr 1
    rw [eq_comm, ← sub_eq_zero]
    have h : ((n / d : Nat) : ℚ) * d + (n % d : Nat) = n := by exact_mod_cast Nat.div_add_mod' n d
    field_simp
    linarith
  have hpos := signed_pos_iff (s := s) hv
  have hneg := signed_neg_iff (s := s) hv
  unfold roundUp goesUp
  rw [habs, hpos, hneg]
  generalize n % d = r
  generalize (n / d : Nat) = lo
  have hne : ((lo : ℚ) * u ≠ (lo + r / d) * u) ↔ r ≠ 0 := by
    rw [not_iff_not, mul_left_inj' hu.ne']
    simp [hdq.ne']
  rw [hne]
  by_cases hr : r = 0
  · simp [hr]
  rw [if_neg hr]
  simp only [ne_eq, hr, not_false_eq_true, true_and]
  cases rm with
  | rn =>
    have h1 : (lo : ℚ) * u + (lo + 1) * u < 2 * ((lo + r / d) * u) ↔ 2 * r > d := by
      rw [show (lo : ℚ) * u + (lo + 1) * u = (2 * lo + 1) * u by ring, show 2 * (((lo : ℚ) + r / d) * u) = (2 * lo + 2 * r / d) * u by ring,
        mul_lt_mul_iff_left₀ hu, add_lt_add_iff_left, one_lt_div hdq]
      norm_cast
    have h2 : (lo : ℚ) * u + (lo + 1) * u = 2 * ((lo + r / d) * u) ↔ 2 * r = d := by
      rw [show (lo : ℚ) * u + (lo + 1) * u = (2 * lo + 1) * u by ring, show 2 * (((lo : ℚ) + r / d) * u) = (2 * lo + 2 * r / d) * u by ring,
        mul_left_inj' hu.ne', add_right_inj, eq_comm, div_eq_one_iff_eq hdq.ne']
      norm_cast
    simp [h1, h2]
  | rz => simp
  | ru => simp
  | rd => simp
  | rs =>
    have h : (((lo : ℚ) + r / d) * u - lo * u) / ((lo + 1) * u - lo * u) * 2 ^ 32 = ((r * 2 ^ 32 : Nat) : ℚ) / (d : Nat) := by
      push_cast
      field_simp
      ring
    simp only [h, decide_eq_true_eq]
    rw [← Int.natCast_floor_eq_floor (by positivity), Nat.floor_div_eq_div]
    norm_cast

/-- The random bits matter under .rs alone. -/
theorem goesUp_congr {rm : Rm} {q q' : Nat} (h : rm = .rs → q = q') (x lo hi : ℚ) (odd : Bool) :
    goesUp rm x lo hi odd q ↔ goesUp rm x lo hi odd q' := by
  unfold goesUp
  cases rm with
  | rs => rw [h rfl]
  | _ => exact Iff.rfl

-- FRACTIONS AND BINADES

theorem frac2_pos (p : Nat) {q : Nat} (hq : 0 < q) (k : Int) : 0 < (frac2 p q k).2 := by
  unfold frac2
  split
  · exact hq
  · exact Nat.mul_pos hq (by positivity)

theorem frac2_num_pos {p : Nat} (hp : 0 < p) (q : Nat) (k : Int) : 0 < (frac2 p q k).1 := by
  unfold frac2
  split
  · exact Nat.mul_pos hp (by positivity)
  · exact hp

theorem frac2_val (p : Nat) (q : Nat) (k : Int) :
    ((frac2 p q k).1 : ℚ) / (frac2 p q k).2 = p / q * 2 ^ k := by
  unfold frac2
  split
  · next h =>
    have : (2 : ℚ) ^ k = 2 ^ k.toNat := by rw [← zpow_natCast, Int.toNat_of_nonneg h]
    rw [this]
    push_cast
    ring
  · next h =>
    have : (2 : ℚ) ^ k = (2 ^ (-k).toNat)⁻¹ := by
      rw [← zpow_natCast, Int.toNat_of_nonneg (by omega), ← zpow_neg, neg_neg]
    rw [this]
    push_cast
    rw [div_mul_eq_div_div, div_eq_mul_inv (_ / _)]

theorem log2_bounds {p : Nat} (hp : 0 < p) : (2 : ℚ) ^ (p.log2 : ℤ) ≤ p ∧ (p : ℚ) < 2 ^ ((p.log2 : ℤ) + 1) := by
  constructor
  · rw [zpow_natCast]
    exact_mod_cast Nat.log2_self_le hp.ne'
  · rw [← Nat.cast_succ, zpow_natCast]
    exact_mod_cast Nat.lt_log2_self

/-- The binade of an exact number. -/
theorem log2Rat_bounds {p q : Nat} (hp : 0 < p) (hq : 0 < q) (e : Int) :
    (2 : ℚ) ^ log2Rat p q e ≤ p / q * 2 ^ e ∧ (p : ℚ) / q * 2 ^ e < 2 ^ (log2Rat p q e + 1) := by
  obtain ⟨hp1, hp2⟩ := log2_bounds hp
  obtain ⟨hq1, hq2⟩ := log2_bounds hq
  have hqq : (0 : ℚ) < q := by exact_mod_cast hq
  have hpq : (0 : ℚ) < p := by exact_mod_cast hp
  set l : ℤ := p.log2 - q.log2 with hl
  have hlow : (2 : ℚ) ^ (l - 1) ≤ p / q := by
    rw [le_div_iff₀ hqq]
    calc (2 : ℚ) ^ (l - 1) * q ≤ 2 ^ (l - 1) * 2 ^ ((q.log2 : ℤ) + 1) := by gcongr
      _ = 2 ^ (p.log2 : ℤ) := by rw [← zpow_add₀ two_ne_zero]; congr 1; omega
      _ ≤ p := hp1
  have hhigh : (p : ℚ) / q < 2 ^ (l + 1) := by
    rw [div_lt_iff₀ hqq]
    calc (p : ℚ) < 2 ^ ((p.log2 : ℤ) + 1) := hp2
      _ = 2 ^ (l + 1) * 2 ^ (q.log2 : ℤ) := by rw [← zpow_add₀ two_ne_zero]; congr 1; omega
      _ ≤ 2 ^ (l + 1) * q := by gcongr
  have hcmp : (frac2 p q (-l)).2 ≤ (frac2 p q (-l)).1 ↔ (2 : ℚ) ^ l ≤ p / q := by
    have h := frac2_val p q (-l)
    have hd : (0 : ℚ) < (frac2 p q (-l)).2 := by exact_mod_cast frac2_pos p hq (-l)
    rw [← Nat.cast_le (α := ℚ), ← one_le_div hd, h, zpow_neg, ← div_eq_mul_inv, one_le_div (by positivity)]
  have key : ∀ m : ℤ, (2 : ℚ) ^ m ≤ p / q → (p : ℚ) / q < 2 ^ (m + 1) →
      (2 : ℚ) ^ (m + e) ≤ p / q * 2 ^ e ∧ (p : ℚ) / q * 2 ^ e < 2 ^ (m + e + 1) := by
    intro m h1 h2
    rw [zpow_add₀ two_ne_zero, add_right_comm, zpow_add₀ two_ne_zero (m + 1)]
    exact ⟨by gcongr, by gcongr⟩
  change (2 : ℚ) ^ (if (frac2 p q (-l)).2 ≤ (frac2 p q (-l)).1 then l + e else l - 1 + e) ≤ _ ∧
    _ < (2 : ℚ) ^ ((if (frac2 p q (-l)).2 ≤ (frac2 p q (-l)).1 then l + e else l - 1 + e) + 1)
  by_cases h : (frac2 p q (-l)).2 ≤ (frac2 p q (-l)).1
  · rw [if_pos h]
    exact key l (hcmp.mp h) hhigh
  · rw [if_neg h]
    exact key (l - 1) hlow (by rw [sub_add_cancel]; exact not_le.mp (hcmp.not.mp h))

-- ONE ROUNDING

/-- The index of the grid below a positive exact number, and the choice made there (R86, R88). -/
theorem roundMag_spec {f : FloatFmt} (hf : f.Regular) (rm : Rm) (s : Bool) {p q : Nat} (hp : 0 < p) (hq : 0 < q) (e : Int) (rnd : Nat) :
    ∃ k, gridMag f k ≤ p / q * 2 ^ e ∧ (p : ℚ) / q * 2 ^ e < gridMag f (k + 1) ∧
      (goesUp rm (signed s (p / q * 2 ^ e)) (gridMag f k) (gridMag f (k + 1)) (k % 2 == 1) rnd → roundMag f rm s p q e rnd = k + 1) ∧
      (¬ goesUp rm (signed s (p / q * 2 ^ e)) (gridMag f k) (gridMag f (k + 1)) (k % 2 == 1) rnd → roundMag f rm s p q e rnd = k) := by
  obtain ⟨hlow, hhigh⟩ := log2Rat_bounds hp hq e
  obtain ⟨ex, hex⟩ : ∃ ex, ex = if log2Rat p q e < f.emin then f.emin else log2Rat p q e := ⟨_, rfl⟩
  obtain ⟨n, d, hnd⟩ : ∃ n d, frac2 p q (e - (ex - f.mb)) = (n, d) := ⟨_, _, rfl⟩
  obtain ⟨c, hc⟩ : ∃ c : ℕ, ex - f.emin = c := Int.eq_ofNat_of_zero_le (by rw [hex]; split <;> omega)
  have hn : 0 < n := by simpa [hnd] using frac2_num_pos hp q (e - (ex - f.mb))
  have hd : 0 < d := by simpa [hnd] using frac2_pos p hq (e - (ex - f.mb))
  have hdq : (0 : ℚ) < d := by exact_mod_cast hd
  have hu : (0 : ℚ) < 2 ^ (f.emin - f.mb + c) := by positivity
  have hval : (p : ℚ) / q * 2 ^ e = n / d * 2 ^ (f.emin - f.mb + c) := by
    have h := frac2_val p q (e - (ex - f.mb))
    rw [hnd] at h
    rw [h, mul_assoc, ← zpow_add₀ two_ne_zero]
    congr 2
    omega
  have hlo1 : ((n / d : Nat) : ℚ) ≤ n / d := Nat.cast_div_le
  have hlo2 : (n : ℚ) / d < (n / d : Nat) + 1 := by
    rw [div_lt_iff₀ hdq]
    exact_mod_cast (Nat.lt_mul_div_succ n hd).trans_eq (Nat.mul_comm ..)
  have hmax : n / d < 2 ^ (f.mb + 1) := by
    have h : (n : ℚ) / d * 2 ^ (f.emin - f.mb + c) < 2 ^ (f.mb + 1) * 2 ^ (f.emin - f.mb + c) := by
      rw [← hval, ← zpow_natCast, ← zpow_add₀ two_ne_zero]
      refine hhigh.trans_le (zpow_le_zpow_right₀ one_le_two ?_)
      push_cast
      split at hex <;> omega
    exact_mod_cast hlo1.trans_lt (lt_of_mul_lt_mul_right h hu.le)
  have hmin : c = 0 ∨ 2 ^ f.mb ≤ n / d := by
    refine (Nat.eq_zero_or_pos c).imp_right fun h0 => ?_
    have h : (2 : ℚ) ^ f.mb * 2 ^ (f.emin - f.mb + c) ≤ n / d * 2 ^ (f.emin - f.mb + c) := by
      rw [← hval, ← zpow_natCast, ← zpow_add₀ two_ne_zero]
      refine le_trans (zpow_le_zpow_right₀ one_le_two ?_) hlow
      split at hex <;> omega
    rw [Nat.le_div_iff_mul_le hd]
    have h := le_of_mul_le_mul_right h hu
    rw [le_div_iff₀ hdq] at h
    exact_mod_cast h
  have hodd : (c * 2 ^ f.mb + n / d) % 2 = n / d % 2 := by
    obtain ⟨m, hm⟩ := Nat.exists_eq_add_of_le hf.mb_pos
    rw [hm, pow_add, pow_one, Nat.mul_left_comm]
    omega
  have hround : roundMag f rm s p q e rnd = c * 2 ^ f.mb + if roundUp rm s (n / d % 2 == 1) (n % d) d rnd then n / d + 1 else n / d := by
    unfold roundMag
    simp only [← hex, hnd, hc, Int.toNat_natCast]
  have hup := roundUp_iff rm s (n / d % 2 == 1) hn hd rnd hu
  have g1 : gridMag f (c * 2 ^ f.mb + n / d) = (n / d : Nat) * 2 ^ (f.emin - f.mb + c) := gridMag_eq f hmin hmax.le
  have g2 : gridMag f (c * 2 ^ f.mb + n / d + 1) = ((n / d : Nat) + 1) * 2 ^ (f.emin - f.mb + c) := by
    rw [Nat.add_assoc, gridMag_eq f (hmin.imp_right (by omega)) hmax]
    push_cast
    rfl
  refine ⟨c * 2 ^ f.mb + n / d, by rw [hval, g1]; gcongr, by rw [hval, g2]; gcongr, ?_, ?_⟩ <;>
    rw [hval, g1, g2, hodd, hround, ← hup] <;> intro h
  · rw [if_pos h, Nat.add_assoc]
  · rw [if_neg h]

-- SIGNED ENCODINGS

theorem signBit_add (f : FloatFmt) (s : Bool) (m : Nat) : signBit f s + m = withSign f s m := rfl

theorem withSign_lt {f : FloatFmt} (hf : f.Regular) (s : Bool) {m : Nat} (h : m < 2 ^ (f.width - 1)) : withSign f s m < 2 ^ f.width := by
  have hw : 2 ^ f.width = 2 ^ (f.width - 1) * 2 := by rw [← pow_succ, Nat.sub_add_cancel hf.width_pos]
  unfold withSign
  split <;> omega

theorem neg_withSign (f : FloatFmt) (s : Bool) {m : Nat} (h : m < 2 ^ (f.width - 1)) : neg f (withSign f s m) = s := by
  rw [neg_eq]
  unfold withSign
  cases s
  · simp [Nat.div_eq_of_lt h]
  · simp [Nat.add_div_left m (by positivity : 0 < 2 ^ (f.width - 1)), Nat.div_eq_of_lt h]

theorem mag_withSign (f : FloatFmt) (s : Bool) {m : Nat} (h : m < 2 ^ (f.width - 1)) : mag f (withSign f s m) = m := by
  unfold mag withSign
  cases s <;> simp [Nat.mod_eq_of_lt h]

/-- An encoding is its sign and its magnitude. -/
theorem withSign_neg_mag {f : FloatFmt} (hf : f.Regular) {b : Nat} (h : b < 2 ^ f.width) : withSign f (neg f b) (mag f b) = b := by
  have hw : 2 ^ f.width = 2 * 2 ^ (f.width - 1) := by rw [← pow_succ', Nat.sub_add_cancel hf.width_pos]
  have hp : 0 < 2 ^ (f.width - 1) := by positivity
  have hd : b / 2 ^ (f.width - 1) < 2 := by rwa [Nat.div_lt_iff_lt_mul hp, ← hw]
  have hb := Nat.div_add_mod b (2 ^ (f.width - 1))
  rw [neg_eq, withSign, mag]
  rcases Nat.le_one_iff_eq_zero_or_eq_one.mp (Nat.lt_succ_iff.mp hd) with h | h <;> rw [h] at hb ⊢
  · simp at hb ⊢
    exact hb
  · simp at hb ⊢
    exact hb

theorem overflow_eq {f : FloatFmt} (hf : f.Regular) (rm : Rm) (sat s i : Bool) : overflow f rm sat s i = beyond f rm sat s i := by
  unfold overflow beyond
  rcases hf.inf with h | h <;> rw [h]
  · simp
  · cases sat <;> rfl

theorem beyond_lt {f : FloatFmt} (hf : f.Regular) (rm : Rm) (sat s i : Bool) : beyond f rm sat s i < 2 ^ (f.width - 1) := by
  have h := hf.max_lt
  unfold beyond
  dsimp only
  split
  · omega
  · split
    · omega
    · cases rm <;> dsimp only <;> (try split) <;> omega

-- ROUNDTO

/-- RoundTo of a finite exact number is one rounding of it (R86, R87, R88, R96). -/
theorem roundTo_rounded {f : FloatFmt} (hf : f.Regular) {x : Exact} {z : Bool} {v : ℚ} (h : x.Denotes z v) {rm : Rm} {rnd q : Nat}
    (hq : rm = .rs → rnd = q) (sat : Bool) : Rounded f rm sat q z v (roundTo f rm sat rnd x) := by
  match x, h with
  | .zero s, ⟨hs, hv⟩ =>
    subst hs
    rw [Rounded, if_pos hv]
    rfl
  | .rat s p d e, ⟨hp, hd, hv⟩ =>
    have hpos : (0 : ℚ) < p / d * 2 ^ e := by
      have : (0 : ℚ) < p := by exact_mod_cast hp
      have : (0 : ℚ) < d := by exact_mod_cast hd
      positivity
    have hs : decide (v < 0) = s := by rw [Bool.eq_iff_iff, decide_eq_true_iff, hv, signed_neg_iff hpos]
    have habs : |v| = p / d * 2 ^ e := by rw [hv, abs_signed, abs_of_pos hpos]
    obtain ⟨k, hk1, hk2, hup, hdown⟩ := roundMag_spec hf rm s hp hd e rnd
    rw [Rounded, if_neg (by rw [hv, signed_eq_zero]; exact hpos.ne')]
    refine ⟨k, roundMag f rm s p d e rnd, habs ▸ hk1, habs ▸ hk2, ?_, ?_, ?_⟩
    · rw [← goesUp_congr hq, hv]
      exact hup
    · rw [← goesUp_congr hq, hv]
      exact hdown
    · rw [hs, ← overflow_eq hf, ← signBit_add]
      change signBit f s + (if roundMag f rm s p d e rnd > f.maxEnc then _ else _) = _
      split <;> split <;> first | rfl | omega

/-- RoundTo gives an encoding of the format. -/
theorem roundTo_lt {f : FloatFmt} (hf : f.Regular) (rm : Rm) (sat : Bool) (rnd : Nat) (x : Exact) : roundTo f rm sat rnd x < 2 ^ f.width := by
  have h := hf.max_lt
  cases x with
  | zero s => exact withSign_lt hf s (m := 0) (by omega)
  | inf s =>
    rw [roundTo, overflow_eq hf]
    exact withSign_lt hf s (beyond_lt hf ..)
  | nan s p =>
    exact withSign_lt hf s (Nat.or_lt_two_pow hf.nan_lt (Nat.and_le_right.trans_lt hf.pay_lt))
  | rat s p q e =>
    rw [roundTo, overflow_eq hf]
    refine withSign_lt hf s ?_
    split
    · exact beyond_lt hf ..
    · omega

/-- A number of the grid rounds to itself. -/
theorem eq_of_roundsTo {f : FloatFmt} {rm : Rm} {sat : Bool} {q : Nat} {v : ℚ} {r k : Nat} (h : RoundsTo f rm sat q v r)
    (hk : gridMag f k = |v|) (hm : k ≤ f.maxEnc) : r = withSign f (v < 0) k := by
  obtain ⟨k', n, h1, h2, -, hdown, hr⟩ := h
  obtain rfl : k = k' := gridMag_unique hk.le (hk ▸ gridMag_lt_succ f k) h1 h2
  rw [hr, hdown (fun hu => hu.1 hk), if_pos hm]

/-- A number that another format's grid holds rounds to its encoding there. -/
theorem eq_of_rounded {f : FloatFmt} {rm : Rm} {sat : Bool} {q : Nat} {z : Bool} {u : ℚ} {r k : Nat}
    (h : Rounded f rm sat q z (signed z u) r) (hu : 0 ≤ u) (hk : gridMag f k = u) (hm : k ≤ f.maxEnc) : r = withSign f z k := by
  unfold Rounded at h
  rcases hu.eq_or_lt with h0 | h0
  · obtain rfl : k = 0 := (gridMag_strictMono f).injective (hk.trans (h0.symm.trans (gridMag_zero f).symm))
    rwa [if_pos (by simp [← h0])] at h
  · rw [if_neg (by simp [h0.ne'])] at h
    rw [eq_of_roundsTo h (hk.trans (by rw [abs_signed, abs_of_pos h0])) hm]
    congr 1
    rw [Bool.eq_iff_iff, decide_eq_true_iff, signed_neg_iff h0]

theorem number_eq (f : FloatFmt) (b : Nat) : number f b = signed (neg f b) (gridMag f (mag f b)) := rfl

/-- A finite encoding's number rounds to the encoding. -/
theorem eq_of_rounded_number {f : FloatFmt} (hf : f.Regular) {rm : Rm} {sat : Bool} {q b r : Nat} (hb : finite f b) (hlt : b < 2 ^ f.width)
    (h : Rounded f rm sat q (neg f b) (number f b) r) : r = b := by
  rw [number_eq] at h
  rw [eq_of_rounded h (gridMag_nonneg ..) rfl hb, withSign_neg_mag hf hlt]

-- ROUNDING TO AN INTEGER

/-- Rounding to an integer and saturation (R89). -/
theorem roundInt_spec {x : Exact} {z : Bool} {v : ℚ} (h : x.Denotes z v) {rm : Rm} {rnd q : Nat} (hq : rm = .rs → rnd = q) {lo hi : Int}
    (hlo : lo ≤ 0) (hhi : 0 ≤ hi) : ∃ n : ℕ, (n = ⌊|v|⌋₊ ∨ n = ⌊|v|⌋₊ + 1) ∧
      (goesUp rm v (⌊|v|⌋₊ : ℚ) ((⌊|v|⌋₊ : ℚ) + 1) (⌊|v|⌋₊ % 2 == 1) q ↔ n = ⌊|v|⌋₊ + 1) ∧
      roundInt lo hi rm rnd x = max lo (min hi (if v < 0 then -(n : ℤ) else n)) := by
  match x, h with
  | .zero s, ⟨_, hv⟩ =>
    subst hv
    refine ⟨0, by simp, ?_, ?_⟩
    · simp [goesUp]
    · change (0 : ℤ) = _
      simp
      omega
  | .rat s p d e, ⟨hp, hd, hv⟩ =>
    obtain ⟨n, m, hnm⟩ : ∃ n m, frac2 p d e = (n, m) := ⟨_, _, rfl⟩
    have hn : 0 < n := by simpa [hnm] using frac2_num_pos hp d e
    have hm : 0 < m := by simpa [hnm] using frac2_pos p hd e
    have hval : (p : ℚ) / d * 2 ^ e = n / m * 1 := by
      have h := frac2_val p d e
      rw [hnm] at h
      rw [← h, mul_one]
    have hpos : (0 : ℚ) < n / m * 1 := by
      have : (0 : ℚ) < n := by exact_mod_cast hn
      have : (0 : ℚ) < m := by exact_mod_cast hm
      positivity
    rw [hval] at hv
    have hfl : ⌊|v|⌋₊ = n / m := by rw [hv, abs_signed, abs_of_pos hpos, mul_one, Nat.floor_div_eq_div]
    have hup := roundUp_iff rm s (n / m % 2 == 1) hn hm rnd one_pos
    rw [← hv, mul_one, mul_one, goesUp_congr hq] at hup
    rw [hfl, ← hup]
    refine ⟨if roundUp rm s (n / m % 2 == 1) (n % m) m rnd then n / m + 1 else n / m, ?_, ?_, ?_⟩
    · split <;> simp
    · split <;> simp_all
    · have hs : (v < 0) = (s = true) := by rw [hv, signed_neg_iff hpos]
      unfold roundInt
      simp only [hnm, hs]
      split <;> cases s <;> simp <;> split <;> (try split) <;> omega

end Sys2Proof.Machine
end

section
/-! SUPPORT. NaNs, infinities and the order of FP32 encodings (R94 to R96, R241), and what a scalar FP32 firing gives. -/

namespace Sys2Proof.Machine
open Sys2Proof.Spec

-- NANS

/-- Sign and payload of an FP32 NaN. -/
def nanPair (c : Nat) : Bool × Nat := (neg fFP32 c, mag fFP32 c % 2 ^ 22)

/-- An FP32 encoding of a NaN. -/
def IsNanWord (c : Nat) : Prop := isNan fFP32 c ∧ c < 2 ^ 32

theorem nanPair_low (c : Nat) : (nanPair c).2 % 16 = c % 16 := by
  change c % 2 ^ 31 % 2 ^ 22 % 16 = _
  omega

/-- R95's choice among candidates given by their encodings. -/
theorem pickNaN_map {cs : List Nat} (h : cs ≠ []) : ∃ pre c post, cs = pre ++ c :: post ∧ (∀ x ∈ pre, c % 16 < x % 16) ∧
    (∀ x ∈ post, c % 16 ≤ x % 16) ∧ pickNaN (cs.map nanPair) = some (nanPair c) := by
  induction cs with
  | nil => exact absurd rfl h
  | cons c cs ih =>
    rcases eq_or_ne cs [] with rfl | hcs
    · exact ⟨[], c, [], rfl, by simp, by simp, rfl⟩
    · obtain ⟨pre, d, post, rfl, hpre, hpost, hpick⟩ := ih hcs
      have hcons : pickNaN ((c :: (pre ++ d :: post)).map nanPair) =
          if (nanPair d).2 % 16 < (nanPair c).2 % 16 then some (nanPair d) else some (nanPair c) := by
        rw [List.map_cons, pickNaN, hpick]
      rw [nanPair_low, nanPair_low] at hcons
      by_cases hlt : d % 16 < c % 16
      · refine ⟨c :: pre, d, post, rfl, ?_, hpost, hcons.trans (if_pos hlt)⟩
        exact List.forall_mem_cons.mpr ⟨hlt, hpre⟩
      · refine ⟨[], c, pre ++ d :: post, rfl, by simp, ?_, hcons.trans (if_neg hlt)⟩
        intro x hx
        rcases List.mem_append.mp hx with hx | hx
        · have := hpre x hx
          omega
        · rcases List.mem_cons.mp hx with rfl | hx
          · omega
          · have := hpost x hx
            omega

/-- The bits below a format's quiet NaN are free for its payload. -/
theorem or_payload (a n y : Nat) : 2 ^ n * a ||| (y &&& 2 ^ n - 1) = 2 ^ n * a + y % 2 ^ n := by
  rw [Nat.and_two_pow_sub_one_eq_mod, Nat.two_pow_add_eq_or_of_lt (Nat.mod_lt _ (by positivity))]

/-- RoundTo of an FP32 NaN is the NaN made quiet (R94). -/
theorem roundTo_nanPair {c : Nat} (h : IsNanWord c) (rm : Rm) (sat : Bool) (rnd : Nat) :
    roundTo fFP32 rm sat rnd (.nan (nanPair c).1 (nanPair c).2) = c ||| 0x400000 := by
  obtain ⟨⟨hf, hi⟩, hlt⟩ := h
  have hmag : mag fFP32 c = c % 2 ^ 31 := rfl
  have hmax : ¬ mag fFP32 c ≤ 0x7F7FFFFF := hf
  have hsign := withSign_neg_mag regular_fp32 hlt
  have hor := (or_payload 511 22 (mag fFP32 c % 2 ^ 22)).trans (by rw [Nat.mod_mod])
  have hdiv : (c ||| 0x400000) / 2 ^ 22 = c / 2 ^ 22 ||| 1 := Nat.or_div_two_pow
  have hmod : (c ||| 0x400000) % 2 ^ 22 = c % 2 ^ 22 ||| 0 := Nat.or_mod_two_pow
  have hdm := Nat.div_add_mod (c ||| 0x400000) (2 ^ 22)
  change signBit fFP32 (neg fFP32 c) + (2 ^ 22 * 511 ||| (mag fFP32 c % 2 ^ 22 &&& 2 ^ 22 - 1)) = _
  rw [hor, signBit_add, ← hdm, hdiv, hmod, Nat.or_zero]
  unfold withSign at hsign ⊢
  rw [hmag] at hmax hsign ⊢
  change (if neg fFP32 c = true then 2 ^ 31 else 0) + _ = _ at hsign
  change (if neg fFP32 c = true then 2 ^ 31 else 0) + _ = _
  have hcases : c / 2 ^ 22 = 510 ∨ c / 2 ^ 22 = 511 ∨ c / 2 ^ 22 = 1022 ∨ c / 2 ^ 22 = 1023 := by omega
  have hquiet : c / 2 ^ 22 ||| 1 = c / 2 ^ 22 / 2 * 2 + 1 := by rcases hcases with h | h | h | h <;> rw [h] <;> decide
  rw [hquiet]
  generalize neg fFP32 c = s at hsign ⊢
  cases s <;> simp only [Bool.false_eq_true, if_false, if_true] at hsign ⊢ <;> omega

/-- The operands' candidates by their encodings. -/
theorem nans_floatValue (xs : List Nat) : nans (xs.map (floatValue fFP32)) = (nanOps xs).map nanPair := by
  induction xs with
  | nil => rfl
  | cons x xs ih =>
    unfold nanOps
    rw [List.map_cons, List.filter_cons]
    rcases encoding_cases fFP32 x with h | h | h
    · obtain ⟨m, e, hx, -⟩ := floatValue_finite regular_fp32 h
      rw [hx, if_neg (by simp [isNan, h])]
      exact ih
    · rw [floatValue_infinite h, if_neg (by simp [isNan, h])]
      exact ih
    · rw [floatValue_nan h]
      refine Eq.trans ?_ (congrArg (List.map nanPair) (if_pos (by simpa using h)).symm)
      exact congrArg (nanPair x :: ·) ih

theorem nanOps_words {xs : List Nat} (h : ∀ x ∈ xs, x < 2 ^ 32) : ∀ c ∈ nanOps xs, IsNanWord c := fun c hc => by
  obtain ⟨hx, hn⟩ := List.mem_filter.mp hc
  exact ⟨by simpa using hn, h c hx⟩

theorem isNanWord_generated {c : Nat} (h : c = 0x7FC00003 ∨ c = 0x7FC00004) : IsNanWord c := by
  rcases h with rfl | rfl <;> exact ⟨⟨by unfold finite; decide, by unfold infinite; decide⟩, by decide⟩

theorem words_append {cs : List Nat} (hw : ∀ c ∈ cs, IsNanWord c) {g : Nat} (hg : IsNanWord g) : ∀ c ∈ cs ++ [g], IsNanWord c :=
  fun c hc => (List.mem_append.mp hc).elim (hw c) fun h => List.mem_singleton.mp h ▸ hg

/-- A NaN result is the choice of R95 among its candidates, made quiet. -/
theorem chosen_of_pick {cs : List Nat} (h : cs ≠ []) (hw : ∀ c ∈ cs, IsNanWord c) : ∃ s p, pickNaN (cs.map nanPair) = some (s, p) ∧
    ∀ rm sat rnd, Chosen cs (roundTo fFP32 rm sat rnd (.nan s p)) := by
  obtain ⟨pre, c, post, rfl, hpre, hpost, hpick⟩ := pickNaN_map h
  exact ⟨_, _, hpick, fun rm sat rnd => ⟨pre, c, post, rfl, hpre, hpost, roundTo_nanPair (hw c (by simp)) rm sat rnd⟩⟩

-- INFINITIES

theorem floatValue_eq_inf {f : FloatFmt} (hf : f.Regular) (b : Nat) (s : Bool) : floatValue f b = .inf s ↔ infinite f b ∧ neg f b = s := by
  rcases encoding_cases f b with h | h | h
  · obtain ⟨m, e, hx, -⟩ := floatValue_finite hf h
    simp [hx, not_infinite_of_finite hf h]
  · simp [floatValue_infinite h, h]
  · simp [floatValue_nan h, h.2]

theorem roundTo_inf (rm : Rm) (sat : Bool) (rnd : Nat) (s : Bool) : roundTo fFP32 rm sat rnd (.inf s) = infOr sat s := by
  cases sat <;> rfl

/-- Two terms hold infinities of both signs where each is one and they differ. -/
theorem any_inf_two {x y : Num} {ia ib : Prop} {na nb : Bool} (hx : ∀ s, x = .inf s ↔ ia ∧ na = s) (hy : ∀ s, y = .inf s ↔ ib ∧ nb = s) :
    (([x, y].any fun z => z = .inf false) = true ∧ ([x, y].any fun z => z = .inf true) = true) ↔ ia ∧ ib ∧ na ≠ nb := by
  simp only [List.any_cons, List.any_nil, Bool.or_false, Bool.or_eq_true, decide_eq_true_eq, hx, hy]
  cases na <;> cases nb <;> simp
  all_goals tauto

/-- A sum of two terms with candidates `cs0`, where a term may be an infinity: the NaN that is chosen, or an infinity (R94, R95). -/
theorem sumExact_special {x y : Num} {ia ib : Prop} {na nb : Bool} (hx : ∀ s, x = .inf s ↔ ia ∧ na = s)
    (hy : ∀ s, y = .inf s ↔ ib ∧ nb = s) {cs0 : List Nat} (hw : ∀ c ∈ cs0, IsNanWord c) {cs : List Nat}
    (hclash : ia ∧ ib ∧ na ≠ nb → cs = cs0 ++ [0x7FC00003]) (hno : ¬ (ia ∧ ib ∧ na ≠ nb) → cs = cs0) (rm rm' : Rm) (sat : Bool)
    (rnd : Nat) : (cs ≠ [] → Chosen cs (roundTo fFP32 rm sat rnd (sumExact rm' (cs0.map nanPair) [x, y]))) ∧
    (cs = [] → ia → roundTo fFP32 rm sat rnd (sumExact rm' (cs0.map nanPair) [x, y]) = infOr sat na) ∧
    (cs = [] → ib → roundTo fFP32 rm sat rnd (sumExact rm' (cs0.map nanPair) [x, y]) = infOr sat nb) := by
  have hpick : cs0.map nanPair ++ (if ([x, y].any fun z => z = .inf false) = true ∧ ([x, y].any fun z => z = .inf true) = true
      then [(false, 3)] else []) = cs.map nanPair := by
    by_cases h : ia ∧ ib ∧ na ≠ nb
    · rw [hclash h, if_pos ((any_inf_two hx hy).mpr h), List.map_append]
      rfl
    · rw [hno h, if_neg (fun h' => h ((any_inf_two hx hy).mp h')), List.append_nil]
  have hinf : cs = [] → ∀ s, x = .inf s ∨ y = .inf s → sumExact rm' (cs0.map nanPair) [x, y] = .inf s := by
    intro h s hs
    have hboth : ¬ (([x, y].any fun z => z = .inf false) = true ∧ ([x, y].any fun z => z = .inf true) = true) := by
      rw [any_inf_two hx hy]
      intro hc
      rw [hclash hc] at h
      simp at h
    have hany : ([x, y].any fun z => z = .inf s) = true := by simpa using hs
    unfold sumExact
    simp only [hpick, h, List.map_nil, pickNaN]
    cases s
    · rw [if_pos hany]
    · rw [if_neg (fun h' => hboth ⟨h', hany⟩), if_pos hany]
  refine ⟨fun h => ?_, fun h hi => ?_, fun h hi => ?_⟩
  · have hwords : ∀ c ∈ cs, IsNanWord c := by
      by_cases hc : ia ∧ ib ∧ na ≠ nb
      · rw [hclash hc]
        exact words_append hw (isNanWord_generated (.inl rfl))
      · rwa [hno hc]
    obtain ⟨s, p, hp, hch⟩ := chosen_of_pick h hwords
    unfold sumExact
    simp only [hpick, hp]
    exact hch rm sat rnd
  · rw [hinf h na (.inl ((hx na).mpr ⟨hi, rfl⟩)), roundTo_inf]
  · rw [hinf h nb (.inr ((hy nb).mpr ⟨hi, rfl⟩)), roundTo_inf]

/-- A sum with candidates is the NaN that is chosen among them, where its terms generate none. -/
theorem sumExact_chosen {cs : List Nat} (h : cs ≠ []) (hw : ∀ c ∈ cs, IsNanWord c) (x : Num) (rm rm' : Rm) (sat : Bool) (rnd : Nat) :
    Chosen cs (roundTo fFP32 rm sat rnd (sumExact rm' (cs.map nanPair) [x])) := by
  obtain ⟨s, p, hp, hch⟩ := chosen_of_pick h hw
  have hboth : ¬ (([x].any fun z => z = .inf false) = true ∧ ([x].any fun z => z = .inf true) = true) := by
    simp
    rintro rfl
    simp
  unfold sumExact
  simp only [if_neg hboth, List.append_nil, hp]
  exact hch rm sat rnd

-- PRODUCTS OF ENCODINGS

/-- A finite encoding decodes to a zero exactly where its magnitude is zero. -/
theorem floatValue_fin {f : FloatFmt} (hf : f.Regular) {b : Nat} (h : finite f b) :
    ∃ m e, floatValue f b = .fin (neg f b) m e ∧ (m = 0 ↔ mag f b = 0) := by
  obtain ⟨m, e, hx, hv⟩ := floatValue_finite hf h
  refine ⟨m, e, hx, ?_⟩
  have h2 : (2 : ℚ) ^ e ≠ 0 := by positivity
  have hz : number f b = 0 ↔ mag f b = 0 := by
    rw [number_eq, signed_eq_zero, ← gridMag_zero f, (gridMag_strictMono f).injective.eq_iff]
  rw [← hz, hv, signed_eq_zero]
  simp [h2]

/-- Zero times infinity (R95). -/
abbrev ZeroTimesInf (a b : Nat) : Prop := (mag fFP32 a = 0 ∧ infinite fFP32 b) ∨ (infinite fFP32 a ∧ mag fFP32 b = 0)

theorem not_mag_zero_of_infinite {b : Nat} (h : infinite fFP32 b) : mag fFP32 b ≠ 0 := by
  have h : some 0x7F800000 = some (mag fFP32 b) := h
  intro h0
  rw [h0] at h
  exact absurd h (by decide)

/-- The product of two encodings that are no NaNs: the NaN of zero times infinity, an infinity, or a finite number. -/
theorem mulNum_encodings {a b : Nat} (ha : ¬ isNan fFP32 a) (hb : ¬ isNan fFP32 b) :
    (ZeroTimesInf a b → mulNum (floatValue fFP32 a) (floatValue fFP32 b) = .nan false 4) ∧
    (¬ ZeroTimesInf a b → (mulNum (floatValue fFP32 a) (floatValue fFP32 b)).isNaN = false ∧
      ∀ s, mulNum (floatValue fFP32 a) (floatValue fFP32 b) = .inf s ↔
        (infinite fFP32 a ∨ infinite fFP32 b) ∧ xor (neg fFP32 a) (neg fFP32 b) = s) := by
  unfold ZeroTimesInf
  rcases encoding_cases fFP32 a with h | h | h
  · obtain ⟨m, e, hx, hm⟩ := floatValue_fin regular_fp32 h
    have hni := not_infinite_of_finite regular_fp32 h
    rcases encoding_cases fFP32 b with k | k | k
    · obtain ⟨n, e', hy, -⟩ := floatValue_fin regular_fp32 k
      have hnk := not_infinite_of_finite regular_fp32 k
      simp [hx, hy, mulNum, Num.isNaN, hni, hnk]
    · rw [hx, floatValue_infinite k, mulNum]
      by_cases h0 : m = 0
      · simp [h0, hm.mp h0, k]
      · simp [h0, hm.not.mp h0, k, hni, Num.isNaN]
    · exact absurd k hb
  · have hma := not_mag_zero_of_infinite h
    rcases encoding_cases fFP32 b with k | k | k
    · obtain ⟨n, e', hy, hn⟩ := floatValue_fin regular_fp32 k
      rw [hy, floatValue_infinite h, mulNum]
      by_cases h0 : n = 0
      · simp [h0, hn.mp h0, h]
      · simp [h0, hn.not.mp h0, h, hma, Num.isNaN]
    · rw [floatValue_infinite h, floatValue_infinite k, mulNum]
      simp [h, k, hma, not_mag_zero_of_infinite k, Num.isNaN]
    · exact absurd k hb
  · exact absurd h ha

theorem isNaN_floatValue {f : FloatFmt} (hf : f.Regular) (b : Nat) : (floatValue f b).isNaN = true ↔ isNan f b := by
  rcases encoding_cases f b with h | h | h
  · simp [(floatValue_finite hf h).isNaN, isNan, h]
  · simp [floatValue_infinite h, Num.isNaN, isNan, h]
  · simp [floatValue_nan h, Num.isNaN, h]

theorem not_zeroTimesInf {a b : Nat} (h : isNan fFP32 a ∨ isNan fFP32 b) : ¬ ZeroTimesInf a b := by
  have hz : ∀ {x}, mag fFP32 x = 0 → finite fFP32 x := fun h => by
    unfold finite
    omega
  rintro (⟨h1, h2⟩ | ⟨h1, h2⟩)
  · exact h.elim (fun h => h.1 (hz h1)) (fun h => h.2 h2)
  · exact h.elim (fun h => h.2 h1) (fun h => h.1 (hz h2))

open Classical in
/-- The candidate that a product generates (R95). -/
theorem nans_product (a b : Nat) : (if (floatValue fFP32 a).isNaN = true ∨ (floatValue fFP32 b).isNaN = true then []
    else nans [mulNum (floatValue fFP32 a) (floatValue fFP32 b)]) = (if ZeroTimesInf a b then [0x7FC00004] else []).map nanPair := by
  simp only [isNaN_floatValue regular_fp32]
  by_cases h : isNan fFP32 a ∨ isNan fFP32 b
  · rw [if_pos h, if_neg (not_zeroTimesInf h)]
    rfl
  · obtain ⟨ha, hb⟩ := not_or.mp h
    rw [if_neg h]
    by_cases hz : ZeroTimesInf a b
    · rw [if_pos hz, (mulNum_encodings ha hb).1 hz]
      rfl
    · rw [if_neg hz]
      have hn := ((mulNum_encodings ha hb).2 hz).1
      cases hm : mulNum (floatValue fFP32 a) (floatValue fFP32 b)
      case nan => rw [hm] at hn; exact absurd hn (by simp [Num.isNaN])
      all_goals rfl

theorem nanOps_nil {xs : List Nat} : nanOps xs = [] ↔ ∀ x ∈ xs, ¬ isNan fFP32 x := by
  unfold nanOps
  rw [List.filter_eq_nil_iff]
  simp

theorem nanOps_append (xs ys : List Nat) : nanOps (xs ++ ys) = nanOps xs ++ nanOps ys := List.filter_append ..

open Classical in
/-- A product of encodings: the NaN that is chosen, or an infinity (R94, R95). -/
theorem mulExact_special {a b : Nat} (hw : ∀ c ∈ nanOps [a, b], IsNanWord c) {cs : List Nat}
    (hcs : cs = nanOps [a, b] ++ if ZeroTimesInf a b then [0x7FC00004] else []) (rm : Rm) (sat : Bool) (rnd : Nat) :
    (cs ≠ [] → Chosen cs (roundTo fFP32 rm sat rnd (mulExact (floatValue fFP32 a) (floatValue fFP32 b)))) ∧
    (cs = [] → infinite fFP32 a ∨ infinite fFP32 b → roundTo fFP32 rm sat rnd (mulExact (floatValue fFP32 a) (floatValue fFP32 b)) =
      infOr sat (xor (neg fFP32 a) (neg fFP32 b))) := by
  have hc : mulCands (floatValue fFP32 a) (floatValue fFP32 b) = cs.map nanPair := by
    rw [mulCands, nans_product, hcs, List.map_append]
    exact congrArg (· ++ _) (nans_floatValue [a, b])
  unfold mulExact
  rw [hc]
  constructor
  · intro h
    have hwords : ∀ c ∈ cs, IsNanWord c := by
      rw [hcs]
      split
      · exact words_append hw (isNanWord_generated (.inr rfl))
      · rwa [List.append_nil]
    obtain ⟨s, p, hp, hch⟩ := chosen_of_pick h hwords
    rw [hp]
    exact hch rm sat rnd
  · intro h hi
    have hnil : nanOps [a, b] = [] ∧ ¬ ZeroTimesInf a b := by
      rw [hcs] at h
      obtain ⟨h1, h2⟩ := List.append_eq_nil_iff.mp h
      exact ⟨h1, fun hz => by simp [hz] at h2⟩
    have hn := nanOps_nil.mp hnil.1
    have hm := (((mulNum_encodings (hn a (by simp)) (hn b (by simp))).2 hnil.2).2 _).mpr ⟨hi, rfl⟩
    rw [h, hm]
    exact roundTo_inf ..

open Classical in
/-- A product and a third encoding, summed: the NaN that is chosen, or an infinity (R91, R94, R95). -/
theorem fmaExact_special {a b c : Nat} (hw : ∀ x ∈ nanOps [a, b, c], IsNanWord x) {cs : List Nat}
    (hcs : cs = nanOps [a, b, c] ++ if ZeroTimesInf a b then [0x7FC00004]
      else if (((infinite fFP32 a ∨ infinite fFP32 b) ∧ ¬ ZeroTimesInf a b) ∧ nanOps [a, b] = []) ∧ infinite fFP32 c ∧
        xor (neg fFP32 a) (neg fFP32 b) ≠ neg fFP32 c then [0x7FC00003] else []) (rm : Rm) (sat : Bool) (rnd : Nat) :
    (cs ≠ [] → Chosen cs (roundTo fFP32 rm sat rnd (fmaExact rm (floatValue fFP32 a) (floatValue fFP32 b) (floatValue fFP32 c)))) ∧
    (cs = [] → (infinite fFP32 a ∨ infinite fFP32 b) ∧ ¬ ZeroTimesInf a b → roundTo fFP32 rm sat rnd
      (fmaExact rm (floatValue fFP32 a) (floatValue fFP32 b) (floatValue fFP32 c)) = infOr sat (xor (neg fFP32 a) (neg fFP32 b))) ∧
    (cs = [] → infinite fFP32 c → roundTo fFP32 rm sat rnd
      (fmaExact rm (floatValue fFP32 a) (floatValue fFP32 b) (floatValue fFP32 c)) = infOr sat (neg fFP32 c)) := by
  have hops : nans [floatValue fFP32 a, floatValue fFP32 b, floatValue fFP32 c] = (nanOps [a, b, c]).map nanPair :=
    nans_floatValue [a, b, c]
  have hsplit : nanOps [a, b, c] = nanOps [a, b] ++ nanOps [c] := nanOps_append [a, b] [c]
  unfold fmaExact
  simp only [nans_product, hops]
  by_cases hz : ZeroTimesInf a b
  · have hnan : ¬ (isNan fFP32 a ∨ isNan fFP32 b) := fun h => not_zeroTimesInf h hz
    rw [if_pos hz] at hcs
    rw [if_pos hz, (mulNum_encodings (not_or.mp hnan).1 (not_or.mp hnan).2).1 hz, ← List.map_append, ← hcs]
    have hne : cs ≠ [] := by simp [hcs]
    refine ⟨fun h => sumExact_chosen h ?_ _ rm rm sat rnd, fun h => absurd h hne, fun h => absurd h hne⟩
    rw [hcs]
    exact words_append hw (isNanWord_generated (.inr rfl))
  · rw [if_neg hz] at hcs
    rw [if_neg hz, List.map_nil, List.append_nil]
    by_cases hnan : nanOps [a, b] = []
    · have hn := nanOps_nil.mp hnan
      obtain ⟨hnot, hinf⟩ := (mulNum_encodings (hn a (by simp)) (hn b (by simp))).2 hz
      rw [if_neg (by simp [hnot])]
      have hx : ∀ s, mulNum (floatValue fFP32 a) (floatValue fFP32 b) = .inf s ↔
          (((infinite fFP32 a ∨ infinite fFP32 b) ∧ ¬ ZeroTimesInf a b) ∧ nanOps [a, b] = []) ∧ xor (neg fFP32 a) (neg fFP32 b) = s := by
        intro s
        rw [hinf s]
        simp [hz, hnan]
      obtain ⟨h1, h2, h3⟩ := sumExact_special hx (floatValue_eq_inf regular_fp32 c) hw
        (fun h => hcs.trans (by rw [if_pos h])) (fun h => hcs.trans (by rw [if_neg h, List.append_nil])) rm rm sat rnd
      exact ⟨h1, fun h hi => h2 h ⟨hi, hnan⟩, h3⟩
    · have hne : nanOps [a, b, c] ≠ [] := by simp [hsplit, hnan]
      have hcs' : cs = nanOps [a, b, c] := by rw [hcs, if_neg (by simp [hnan]), List.append_nil]
      have hprod : (mulNum (floatValue fFP32 a) (floatValue fFP32 b)).isNaN = true := by
        rw [nanOps_nil] at hnan
        simp only [List.mem_cons, List.not_mem_nil, or_false, forall_eq_or_imp, forall_eq, not_and_or, not_not] at hnan
        by_cases ha : isNan fFP32 a
        · rw [floatValue_nan ha]
          cases floatValue fFP32 b <;> rfl
        · rw [floatValue_nan (hnan.resolve_left ha)]
          cases floatValue fFP32 a <;> rfl
      rw [if_pos hprod, hcs']
      exact ⟨fun h => sumExact_chosen h hw _ rm rm sat rnd, fun h => absurd h hne, fun h => absurd h hne⟩

-- THE ORDER OF ENCODINGS

/-- An encoding's magnitude under its sign. -/
def signedMag (b : Nat) : ℤ := if neg fFP32 b then -(mag fFP32 b : ℤ) else mag fFP32 b

/-- The order of numbers is that of their encodings' magnitudes. -/
theorem number_lt_iff (a b : Nat) : number fFP32 a < number fFP32 b ↔ signedMag a < signedMag b := by
  have hm := gridMag_strictMono fFP32
  have h0 := gridMag_nonneg fFP32
  have hle : ∀ m, gridMag fFP32 m ≤ 0 ↔ m = 0 := fun m => by rw [← gridMag_zero fFP32, hm.le_iff_le, Nat.le_zero]
  unfold number signedMag
  generalize mag fFP32 a = m
  generalize mag fFP32 b = n
  have h1 := h0 m
  have h2 := h0 n
  split <;> split
  · rw [neg_lt_neg_iff, hm.lt_iff_lt]
    omega
  · rw [← not_le]
    have : gridMag fFP32 n ≤ -gridMag fFP32 m ↔ m = 0 ∧ n = 0 := by
      rw [← hle, ← hle]
      constructor
      · exact fun h => ⟨by linarith, by linarith⟩
      · exact fun h => by linarith [h.1, h.2]
    rw [this]
    omega
  · constructor
    · intro h
      linarith
    · omega
  · rw [hm.lt_iff_lt]
    omega

theorem cmpNum_encodings {a b : Nat} (ha : ¬ isNan fFP32 a) (hb : ¬ isNan fFP32 b) :
    cmpNum (floatValue fFP32 a) (floatValue fFP32 b) = compare (signedMag a) (signedMag b) := by
  have hfin : ∀ {x}, finite fFP32 x → -0x7F7FFFFF ≤ signedMag x ∧ signedMag x ≤ 0x7F7FFFFF := fun {x} h => by
    have h : mag fFP32 x ≤ 0x7F7FFFFF := h
    unfold signedMag
    split <;> omega
  have hinf : ∀ {x}, infinite fFP32 x → signedMag x = if neg fFP32 x then -0x7F800000 else 0x7F800000 := fun {x} h => by
    have h : mag fFP32 x = 0x7F800000 := (Option.some.inj h).symm
    unfold signedMag
    rw [h]
    rfl
  rcases encoding_cases fFP32 a with h | h | h
  · rcases encoding_cases fFP32 b with k | k | k
    · rw [cmpNum_eq (floatValue_finite regular_fp32 h) (floatValue_finite regular_fp32 k)]
      rcases lt_trichotomy (signedMag a) (signedMag b) with hlt | heq | hgt
      · rw [compare_lt_iff_lt.mpr hlt, compare_lt_iff_lt.mpr ((number_lt_iff a b).mpr hlt)]
      · rw [compare_eq_iff_eq.mpr heq, compare_eq_iff_eq.mpr]
        exact le_antisymm (not_lt.mp ((number_lt_iff b a).not.mpr heq.not_gt))
          (not_lt.mp ((number_lt_iff a b).not.mpr heq.not_lt))
      · rw [compare_gt_iff_gt.mpr hgt, compare_gt_iff_gt.mpr ((number_lt_iff b a).mpr hgt)]
    · obtain ⟨m, e, hx, -⟩ := floatValue_finite regular_fp32 h
      rw [hx, floatValue_infinite k, hinf k]
      have := hfin h
      change (if neg fFP32 b = true then Ordering.gt else .lt) = _
      split
      · exact (compare_gt_iff_gt.mpr (by omega)).symm
      · exact (compare_lt_iff_lt.mpr (by omega)).symm
    · exact absurd k hb
  · rw [floatValue_infinite h, hinf h]
    rcases encoding_cases fFP32 b with k | k | k
    · obtain ⟨m, e, hx, -⟩ := floatValue_finite regular_fp32 k
      have := hfin k
      rw [hx]
      change (if neg fFP32 a = true then Ordering.lt else .gt) = _
      split
      · exact (compare_lt_iff_lt.mpr (by omega)).symm
      · exact (compare_gt_iff_gt.mpr (by omega)).symm
    · rw [floatValue_infinite k, hinf k]
      cases neg fFP32 a <;> cases neg fFP32 b <;> decide
    · exact absurd k hb
  · exact absurd h ha

-- MINIMUM, MAXIMUM AND CONDITIONS

/-- The order of a minimum: that of the numbers, −0 below +0 (R96). -/
def zeroOrder (b : Nat) : ℤ := if neg fFP32 b then -(mag fFP32 b : ℤ) - 1 else mag fFP32 b

theorem zeroOrder_injective {a b : Nat} (ha : a < 2 ^ 32) (hb : b < 2 ^ 32) (h : zeroOrder a = zeroOrder b) : a = b := by
  rw [← withSign_neg_mag regular_fp32 ha, ← withSign_neg_mag regular_fp32 hb]
  unfold zeroOrder at h
  split at h <;> split at h <;> first | omega | (congr 1 <;> [simp_all; omega])

theorem sign_floatValue {f : FloatFmt} (hf : f.Regular) (b : Nat) : (floatValue f b).sign = neg f b := by
  rcases encoding_cases f b with h | h | h
  · exact (floatValue_finite hf h).sign
  · rw [floatValue_infinite h]
    rfl
  · rw [floatValue_nan h]
    rfl

theorem ltZ_encodings {a b : Nat} (ha : ¬ isNan fFP32 a) (hb : ¬ isNan fFP32 b) :
    ltZ (floatValue fFP32 a) (floatValue fFP32 b) = true ↔ zeroOrder a < zeroOrder b := by
  have hval : zeroOrder a < zeroOrder b ↔ signedMag a < signedMag b ∨ (signedMag a = signedMag b ∧ neg fFP32 a = true ∧ neg fFP32 b = false) := by
    unfold zeroOrder signedMag
    cases neg fFP32 a <;> cases neg fFP32 b <;> simp <;> omega
  unfold ltZ
  rw [cmpNum_encodings ha hb, sign_floatValue regular_fp32, sign_floatValue regular_fp32, hval]
  rcases lt_trichotomy (signedMag a) (signedMag b) with h | h | h
  · simp [compare_lt_iff_lt.mpr h, h]
  · simp [h]
  · simp [compare_gt_iff_gt.mpr h, h.not_gt, h.ne']

/-- An encoding that is no NaN is the rounding of its value. -/
theorem roundFP32_floatValue {a : Nat} (ha : ¬ isNan fFP32 a) (hlt : a < 2 ^ 32) : roundFP32 .rn (floatValue fFP32 a).exact = a := by
  rcases encoding_cases fFP32 a with h | h | h
  · exact eq_of_rounded_number (rm := .rn) (sat := false) (q := 0) regular_fp32 h hlt
      (roundTo_rounded regular_fp32 (floatValue_finite regular_fp32 h).exact (by simp) false)
  · have hm : mag fFP32 a = 0x7F800000 := (Option.some.inj h).symm
    rw [floatValue_infinite h]
    exact (roundTo_inf .rn false 0 _).trans (by rw [← withSign_neg_mag regular_fp32 hlt, hm, neg_withSign _ _ (by decide)]; rfl)
  · exact absurd h ha

/-- A minimum or maximum with a NaN among its operands is the NaN that is chosen (R95). -/
theorem minMax_chosen (greater : Bool) {a b : Nat} (hw : ∀ c ∈ nanOps [a, b], IsNanWord c) (h : nanOps [a, b] ≠ []) :
    Chosen (nanOps [a, b]) (roundFP32 .rn (minMax greater (floatValue fFP32 a) (floatValue fFP32 b)).exact) := by
  obtain ⟨s, p, hp, hch⟩ := chosen_of_pick h hw
  have hn : nans [floatValue fFP32 a, floatValue fFP32 b] = (nanOps [a, b]).map nanPair := nans_floatValue [a, b]
  unfold minMax
  rw [hn, hp]
  exact hch .rn false 0

/-- A minimum of encodings that are no NaNs is the lesser one. -/
theorem minMax_lesser {a b : Nat} (hn : nanOps [a, b] = []) (ha : a < 2 ^ 32) (hb : b < 2 ^ 32) :
    roundFP32 .rn (minMax false (floatValue fFP32 a) (floatValue fFP32 b)).exact = if zeroOrder a ≤ zeroOrder b then a else b := by
  have hops : nans [floatValue fFP32 a, floatValue fFP32 b] = (nanOps [a, b]).map nanPair := nans_floatValue [a, b]
  obtain ⟨hna, hnb⟩ : ¬ isNan fFP32 a ∧ ¬ isNan fFP32 b := by simpa using nanOps_nil.mp hn
  unfold minMax
  rw [hops, hn]
  change roundFP32 .rn (if ltZ (floatValue fFP32 b) (floatValue fFP32 a) = true then floatValue fFP32 b else floatValue fFP32 a).exact = _
  have hlt := ltZ_encodings hnb hna
  split
  · next h => rw [if_neg (not_le.mpr (hlt.mp h)), roundFP32_floatValue hnb hb]
  · next h => rw [if_pos (not_lt.mp (hlt.not.mp h)), roundFP32_floatValue hna ha]

/-- A maximum of encodings that are no NaNs is the greater one. -/
theorem minMax_greater {a b : Nat} (hn : nanOps [a, b] = []) (ha : a < 2 ^ 32) (hb : b < 2 ^ 32) :
    roundFP32 .rn (minMax true (floatValue fFP32 a) (floatValue fFP32 b)).exact = if zeroOrder a ≤ zeroOrder b then b else a := by
  have hops : nans [floatValue fFP32 a, floatValue fFP32 b] = (nanOps [a, b]).map nanPair := nans_floatValue [a, b]
  obtain ⟨hna, hnb⟩ : ¬ isNan fFP32 a ∧ ¬ isNan fFP32 b := by simpa using nanOps_nil.mp hn
  unfold minMax
  rw [hops, hn]
  change roundFP32 .rn (if ltZ (floatValue fFP32 a) (floatValue fFP32 b) = true then floatValue fFP32 b else floatValue fFP32 a).exact = _
  have hlt := ltZ_encodings hna hnb
  split
  · next h => rw [if_pos (hlt.mp h).le, roundFP32_floatValue hnb hb]
  · next h =>
    rw [roundFP32_floatValue hna ha]
    rcases (not_lt.mp (hlt.not.mp h)).lt_or_eq with hgt | heq
    · rw [if_neg (not_le.mpr hgt)]
    · rw [if_pos heq.ge, zeroOrder_injective hb ha heq]

theorem condNum_nan {a b : Nat} (h : nanOps [a, b] ≠ []) (c : Cond) :
    condNum c (floatValue fFP32 a) (floatValue fFP32 b) = (c == .ne || c == .un) := by
  have hun : ((floatValue fFP32 a).isNaN || (floatValue fFP32 b).isNaN) = true := by
    rw [Bool.or_eq_true, isNaN_floatValue regular_fp32, isNaN_floatValue regular_fp32]
    by_contra hno
    exact h (nanOps_nil.mpr (by simpa [not_or] using hno))
  unfold condNum
  rw [hun]
  cases c <;> rfl

/-- A condition on values in a linear order (R241). -/
def condOn {α : Type} [LinearOrder α] (c : Cond) (u v : α) : Prop :=
  match c with
  | .eq => u = v | .ne => u ≠ v | .lt => u < v | .le => u ≤ v | .gt => v < u | .ge => v ≤ u | .un => False

/-- The condition of two values that are no NaNs is that of what they compare as. -/
theorem condNum_iff {α : Type} [LinearOrder α] {a b : Num} {u v : α} (hun : (a.isNaN || b.isNaN) = false)
    (hcmp : cmpNum a b = compare u v) (c : Cond) : condNum c a b = true ↔ condOn c u v := by
  unfold condNum condOn
  rw [hun, hcmp]
  rcases lt_trichotomy u v with h | h | h
  · rw [compare_lt_iff_lt.mpr h]
    cases c <;> simp [h, h.le, h.ne, h.not_gt, h.not_ge]
  · rw [compare_eq_iff_eq.mpr h]
    cases c <;> simp [h]
  · rw [compare_gt_iff_gt.mpr h]
    cases c <;> simp [h, h.le, h.ne', h.not_gt, h.not_ge]

theorem condNum_encodings {a b : Nat} (h : nanOps [a, b] = []) (c : Cond) :
    condNum c (floatValue fFP32 a) (floatValue fFP32 b) = true ↔ Cond.onInt c (signedMag a) (signedMag b) := by
  obtain ⟨hna, hnb⟩ : ¬ isNan fFP32 a ∧ ¬ isNan fFP32 b := by simpa using nanOps_nil.mp h
  have hun : ((floatValue fFP32 a).isNaN || (floatValue fFP32 b).isNaN) = false := by
    rw [Bool.or_eq_false_iff, ← Bool.not_eq_true, ← Bool.not_eq_true, isNaN_floatValue regular_fp32, isNaN_floatValue regular_fp32]
    exact ⟨hna, hnb⟩
  rw [condNum_iff hun (cmpNum_encodings hna hnb)]
  cases c <;> exact Iff.rfl

end Sys2Proof.Machine
end

section
/-! SUPPORT. Scalar FP32 firings (R243, R244): what they issue when no operand is a token, and their conversions. -/

namespace Sys2Proof.Machine
open Sys2Proof.Spec

-- OPERANDS AND RESULTS

theorem firstTok_plain {s : State} {rs : List (Fin 16)} (h : plain s rs) : firstTok (rs.map s.g) = none := by
  rw [firstTok, List.find?_eq_none]
  intro x hx
  obtain ⟨r, hr, rfl⟩ := List.mem_map.mp hx
  simp [h r hr]

theorem plain_append {s : State} {rs rs' : List (Fin 16)} (h : plain s rs) (h' : plain s rs') : plain s (rs ++ rs') := fun r hr =>
  (List.mem_append.mp hr).elim (h r) (h' r)

/-- Under .rs the random bits are those of the firing's random word (R88). -/
theorem State.rnd_rs (s : State) {rm : Rm} (e : Nat) (h : rm = .rs) : s.rnd rm e = pickWord s e := by
  unfold State.rnd
  rw [if_pos h]
  rfl

theorem low_lt (s : State) (r : Fin 16) : low s r < 2 ^ 32 := Nat.mod_lt _ (by decide)

/-- A finite register holds its number. -/
theorem fp32_holds {s : State} {r : Fin 16} (h : finite fFP32 (low s r)) : (fp32 (s.g r)).Holds (neg fFP32 (low s r)) (number fFP32 (low s r)) :=
  floatValue_finite regular_fp32 h

/-- A rounding FP32 instruction without tokens gives its result rounded. -/
theorem fpResult_of_round {i : Instr} {s : State} {rm : Rm} {sat : Bool} {pd : PDst} {d : Fin 16} {rs : List (Fin 16)} {x : Exact}
    {P : Nat → Prop} (hx : exec i s = .next (fpRound s rm sat pd d (rs.map s.g) fun _ => x)) (hp : plain s rs)
    (h : P (roundTo fFP32 rm sat (s.rnd rm 0) x)) : FpResult i s 4 rm pd d P := by
  refine ⟨_, roundTo_lt regular_fp32 rm sat (s.rnd rm 0) x, h, ?_⟩
  rw [hx, fpRound, firstTok_plain hp]
  rfl

/-- The same, where the result is finite: one rounding of it. -/
theorem fpResult_rounded {i : Instr} {s : State} {rm : Rm} {sat : Bool} {pd : PDst} {d : Fin 16} {rs : List (Fin 16)} {x : Exact}
    {z : Bool} {v : ℚ} (hx : exec i s = .next (fpRound s rm sat pd d (rs.map s.g) fun _ => x)) (hp : plain s rs)
    (h : x.Denotes z v) : FpResult i s 4 rm pd d (Rounded fFP32 rm sat (pickWord s 0) z v) :=
  fpResult_of_round hx hp (roundTo_rounded regular_fp32 h (s.rnd_rs 0) sat)

/-- FMIN and FMAX without tokens. -/
theorem fpResult_of_minMax {i : Instr} {s : State} {greater : Bool} {pd : PDst} {d s1 s2 : Fin 16} {P : Nat → Prop}
    (hx : exec i s = .next (fpMinMax s greater pd d s1 s2)) (hp : plain s [s1, s2])
    (h : P (roundFP32 .rn (minMax greater (floatValue fFP32 (low s s1)) (floatValue fFP32 (low s s2))).exact)) :
    FpResult i s 2 .rn pd d P := by
  refine ⟨_, roundTo_lt regular_fp32 .rn false 0 _, h, ?_⟩
  rw [hx, fpMinMax, show firstTok [s.g s1, s.g s2] = none from firstTok_plain hp]
  rfl

theorem exec_fcmp {s : State} {s1 s2 : Fin 16} (hp : plain s [s1, s2]) (c : Cond) (n : Fin 8) : exec (.fcmp c n s1 s2) s =
    issued s 2 [toP s n (condNum c (floatValue fFP32 (low s s1)) (floatValue fFP32 (low s s2)))] none := by
  change execFcmp c n s1 s2 s = _
  rw [execFcmp, show firstTok [s.g s1, s.g s2] = none from firstTok_plain hp]
  rfl

theorem nans_low (s : State) (rs : List (Fin 16)) : nans (rs.map fun r => fp32 (s.g r)) = (nanOps (rs.map (low s))).map nanPair := by
  rw [← nans_floatValue, List.map_map]
  rfl

theorem nanOps_low (s : State) (rs : List (Fin 16)) : ∀ c ∈ nanOps (rs.map (low s)), IsNanWord c :=
  nanOps_words fun x hx => by
    obtain ⟨r, -, rfl⟩ := List.mem_map.mp hx
    exact low_lt s r

theorem neg_eq_inf {x : Num} {i : Prop} {n : Bool} (h : ∀ s, x = .inf s ↔ i ∧ n = s) (s : Bool) : x.neg = .inf s ↔ i ∧ (!n) = s := by
  have hx : x.neg = .inf s ↔ x = .inf (!s) := by cases x <;> cases s <;> simp [Num.neg]
  rw [hx, h]
  cases n <;> cases s <;> simp

-- CONVERSIONS (R244)

/-- The number that a word stands for by its type is the same for a word that holds it wrapped, when it lies in the type's range. -/
theorem regInt_wrap (ty : IntTy) {x : Int} (hlo : ty.lo ≤ x) (hhi : x ≤ ty.hi) : regInt ty (ty.wrap x) = x := by
  obtain ⟨h1, h2, h3⟩ := IntTy.wrapped ty x
  have hw : ty.hi - ty.lo < 2 ^ ty.width := by cases ty <;> decide
  obtain ⟨k, hk⟩ := Int.dvd_of_emod_eq_zero h3
  have hp : (0 : ℤ) < 2 ^ ty.width := by positivity
  have hk0 : k = 0 := by
    by_contra hne
    rcases (by omega : 1 ≤ k ∨ k ≤ -1) with h | h <;> nlinarith
  rw [hk0, mul_zero] at hk
  omega

theorem IntTy.lo_nonpos (ty : IntTy) : ty.lo ≤ 0 := by cases ty <;> decide
theorem IntTy.hi_nonneg (ty : IntTy) : 0 ≤ ty.hi := by cases ty <;> decide

theorem i64_val (x : Word) : IntTy.i64.val x = x.toInt := by
  have h := x.isLt
  rw [BitVec.toInt_eq_toNat_cond]
  simp only [IntTy.val, IntTy.width, IntTy.signed, true_and]
  split <;> split <;> omega

theorem n64_val (x : Word) : IntTy.n64.val x = x.toNat := by
  simp only [IntTy.val, IntTy.width, IntTy.signed, Bool.false_eq_true, false_and, if_false, Nat.mod_eq_of_lt x.isLt]

theorem exec_fcvt {s : State} {s1 : Fin 16} (hp : plain s [s1]) (op : FcvtOp) (rm : Rm) (sat : Bool) (pd : PDst) (d : Fin 16) :
    exec (.fcvt op rm sat pd d s1) s = .next (counted { s with results := s.results ++ [⟨s.cycle + 4, s.cur,
      .g s.cur.bank d.val (fcvtResult op rm sat (s.rnd rm 0) (s.g s1).val).1 ::
        toPd s pd (fcvtResult op rm sat (s.rnd rm 0) (s.g s1).val).2, none⟩] } rm 1) := by
  change execFcvt op rm sat pd d s1 s = _
  rw [execFcvt, show firstTok [s.g s1] = none from firstTok_plain hp]
  rfl

/-- A format with a payload below its quiet bit (R94). -/
structure FloatFmt.Paid (f : FloatFmt) : Prop where
  pay_pos : f.payMask ≠ 0
  pay : f.payMask = 2 ^ (f.mb - 1) - 1
  nan : f.nanEnc = f.maxEnc + 1 + 2 ^ (f.mb - 1)
  quiet : 2 ^ (f.mb - 1) ∣ f.nanEnc
  width : f.mb - 1 ≤ f.width - 1

theorem paid_fp32 : fFP32.Paid := by constructor <;> decide
theorem paid_bf16 : fBF16.Paid := by constructor <;> decide
theorem paid_fp16 : fFP16.Paid := by constructor <;> decide

/-- RoundTo of a NaN keeps as much of the payload as the format holds (R94). -/
theorem roundTo_nan {f : FloatFmt} (hf : f.Paid) (rm : Rm) (sat : Bool) (rnd : Nat) (s : Bool) (p : Nat) :
    roundTo f rm sat rnd (.nan s p) = withSign f s (f.maxEnc + 1 + 2 ^ (f.mb - 1) + p % 2 ^ (f.mb - 1)) := by
  obtain ⟨a, ha⟩ := hf.quiet
  rw [roundTo, signBit_add, hf.pay, ha, or_payload, ← ha, hf.nan]

theorem floatValue_paid {f : FloatFmt} (hf : f.Paid) {b : Nat} (h : isNan f b) : floatValue f b = .nan (neg f b) (b % 2 ^ (f.mb - 1)) := by
  rw [floatValue_nan h, if_neg hf.pay_pos, hf.pay, Nat.sub_add_cancel Nat.one_le_two_pow]
  congr 1
  exact Nat.mod_mod_of_dvd _ (pow_dvd_pow 2 hf.width)

theorem cast_mul_zpow (n d : Nat) {x y : ℤ} (h : y = d + x) : ((n * 2 ^ d : Nat) : ℚ) * 2 ^ x = n * 2 ^ y := by
  rw [h, zpow_add₀ two_ne_zero, zpow_natCast]
  push_cast
  ring

/-- Every BF16 magnitude is one of FP32. -/
theorem gridMag_bf16 {j : Nat} (h : j ≤ fBF16.maxEnc) : ∃ k ≤ fFP32.maxEnc, gridMag fFP32 k = gridMag fBF16 j := by
  obtain ⟨c, lo, rfl, hlo, hhi⟩ := grid_index fBF16 j
  have h : c * 2 ^ 7 + lo ≤ 0x7F7F := h
  have hlo : c = 0 ∨ 2 ^ 7 ≤ lo := hlo
  have hhi : lo < 2 ^ 8 := hhi
  refine ⟨c * 2 ^ 23 + lo * 2 ^ 16, show _ ≤ 0x7F7FFFFF by omega, ?_⟩
  rw [gridMag_eq fBF16 hlo hhi.le]
  refine (gridMag_eq fFP32 (c := c) (lo := lo * 2 ^ 16) (hlo.imp_right fun h => show 2 ^ 23 ≤ _ by omega)
    (show _ ≤ 2 ^ 24 by omega)).trans ?_
  exact cast_mul_zpow lo 16 (show (-126 : ℤ) - (7 : ℕ) + c = (16 : ℕ) + ((-126 : ℤ) - (23 : ℕ) + c) by omega)

/-- Every FP16 magnitude is one of FP32. -/
theorem gridMag_fp16 {j : Nat} (h : j ≤ fFP16.maxEnc) : ∃ k ≤ fFP32.maxEnc, gridMag fFP32 k = gridMag fFP16 j := by
  rcases Nat.eq_zero_or_pos j with rfl | hj
  · exact ⟨0, Nat.zero_le _, by simp⟩
  obtain ⟨c, lo, rfl, hlo, hhi⟩ := grid_index fFP16 j
  have h : c * 2 ^ 10 + lo ≤ 0x7BFF := h
  have hlo : c = 0 ∨ 2 ^ 10 ≤ lo := hlo
  have hhi : lo < 2 ^ 11 := hhi
  have hj : 0 < c * 2 ^ 10 + lo := hj
  have h0 : lo ≠ 0 := by omega
  have hl1 := Nat.log2_self_le h0
  have hl2 : lo < 2 ^ (lo.log2 + 1) := Nat.lt_log2_self
  have hl : lo.log2 ≤ 10 := Nat.lt_succ_iff.mp ((Nat.log2_lt h0).mpr hhi)
  obtain ⟨e, he⟩ := Nat.exists_eq_add_of_le (show lo.log2 ≤ 23 by omega)
  have hpow : 2 ^ lo.log2 * 2 ^ e = 2 ^ 23 := by rw [← pow_add, he]
  have hmin : 2 ^ 23 ≤ lo * 2 ^ e := hpow ▸ Nat.mul_le_mul_right _ hl1
  have hmax : lo * 2 ^ e < 2 ^ 24 := by
    rw [pow_succ 2 23, ← hpow, Nat.mul_right_comm, ← pow_succ]
    exact Nat.mul_lt_mul_of_pos_right hl2 (by positivity)
  have hc : c ≤ 30 := by omega
  have hbound : ∀ l x : Nat, l ≤ 10 → x < 2 ^ 24 → (c + l + 102) * 2 ^ 23 + x ≤ 0x7F7FFFFF := fun l x h1 h2 => by
    clear h0 hl1 hl2 hl he hpow hmin hmax hj h
    omega
  refine ⟨(c + lo.log2 + 102) * 2 ^ 23 + lo * 2 ^ e, hbound _ _ hl hmax, ?_⟩
  rw [gridMag_eq fFP16 hlo hhi.le]
  refine (gridMag_eq fFP32 (c := c + lo.log2 + 102) (.inr (show 2 ^ 23 ≤ lo * 2 ^ e from hmin)) (show lo * 2 ^ e ≤ 2 ^ 24 from hmax.le)).trans ?_
  exact cast_mul_zpow lo e
    (show (-14 : ℤ) - (10 : ℕ) + c = e + ((-126 : ℤ) - (23 : ℕ) + (c + lo.log2 + 102 : Nat)) by omega)

/-- A finite encoding of a format whose magnitudes FP32 has converts to FP32 without rounding. -/
theorem roundFP32_finite {f : FloatFmt} (hf : f.Regular) {h : Nat} (hfin : finite f h)
    (hgrid : ∃ k ≤ fFP32.maxEnc, gridMag fFP32 k = gridMag f (mag f h)) :
    finite fFP32 (roundFP32 .rn (floatValue f h).exact) ∧ neg fFP32 (roundFP32 .rn (floatValue f h).exact) = neg f h ∧
      number fFP32 (roundFP32 .rn (floatValue f h).exact) = number f h := by
  obtain ⟨k, hk, hgk⟩ := hgrid
  have hr := roundTo_rounded (rm := .rn) (rnd := 0) (q := 0) regular_fp32 (floatValue_finite hf hfin).exact (fun _ => rfl) false
  rw [number_eq] at hr
  have hx : roundFP32 .rn (floatValue f h).exact = withSign fFP32 (neg f h) k := eq_of_rounded hr (gridMag_nonneg ..) hgk hk
  have hlt : k < 2 ^ (fFP32.width - 1) := hk.trans_lt (by decide)
  have hm := mag_withSign fFP32 (neg f h) hlt
  have hn := neg_withSign fFP32 (neg f h) hlt
  rw [hx]
  exact ⟨by rwa [finite, hm], hn, by rw [number_eq, number_eq, hm, hn, hgk]⟩

/-- FCVT to an integer type: the rounded number, saturated (R89, R244). -/
theorem roundInt_finite {a : Nat} (ha : finite fFP32 a) (ty : IntTy) {rm : Rm} {rnd q : Nat} (hq : rm = .rs → rnd = q) :
    ∃ n : ℕ, (n = ⌊|number fFP32 a|⌋₊ ∨ n = ⌊|number fFP32 a|⌋₊ + 1) ∧
      (goesUp rm (number fFP32 a) (⌊|number fFP32 a|⌋₊ : ℚ) ((⌊|number fFP32 a|⌋₊ : ℚ) + 1) (⌊|number fFP32 a|⌋₊ % 2 == 1) q ↔
        n = ⌊|number fFP32 a|⌋₊ + 1) ∧
      Saturated ty (ty.wrap (roundInt ty.lo ty.hi rm rnd (floatValue fFP32 a).exact)) (if neg fFP32 a then -n else n) := by
  have hval := floatValue_finite regular_fp32 ha
  obtain ⟨n, hn, hup, hr⟩ := roundInt_spec hval.exact hq (IntTy.lo_nonpos ty) (IntTy.hi_nonneg ty)
  have hlo := IntTy.lo_nonpos ty
  have hhi := IntTy.hi_nonneg ty
  refine ⟨n, hn, hup, ?_⟩
  have hsign : (if number fFP32 a < 0 then -(n : ℤ) else n) = if neg fFP32 a then -(n : ℤ) else n := by
    rcases lt_trichotomy (number fFP32 a) 0 with h | h | h
    · rw [if_pos h, if_pos (hval.sign_iff.1 h)]
    · have hn0 : n = 0 := by
        have hno : n ≠ 0 + 1 := fun h1 => by
          rw [h] at hup
          simp [goesUp] at hup
          exact hup h1
        rw [h] at hn
        simpa using hn.resolve_right (by simpa [h] using hno)
      simp [hn0]
    · rw [if_neg h.not_gt, if_neg (by simp [hval.sign_iff.2 h])]
  rw [hsign] at hr
  unfold Saturated
  rw [hr, regInt_wrap ty (le_max_left ..) (max_le (hlo.trans hhi) (min_le_left ..))]

end Sys2Proof.Machine
end

section
open Sys2Proof Sys2Proof.Machine Sys2Proof.Spec

/-- Settles O10: the exact result denotes the sum or product of the operands' numbers, and RoundTo rounds it once. -/
theorem fpFinite : Obligations.FpFinite := by
  intro s rm sat pd d s1 s2 hp ha hb a b na nb q
  refine ⟨fpResult_rounded (rs := [s1, s2]) rfl hp (addExact_denotes (fp32_holds ha) (fp32_holds hb) rm),
    fpResult_rounded (rs := [s1, s2]) rfl hp (subExact_denotes (fp32_holds ha) (fp32_holds hb) rm),
    fpResult_rounded (rs := [s1, s2]) rfl hp (mulExact_denotes (fp32_holds ha) (fp32_holds hb)), fun hpd hd => ?_⟩
  exact fpResult_rounded (rs := [s1, s2, d]) rfl (plain_append hp hpd) (fmaExact_denotes (fp32_holds ha) (fp32_holds hb) (fp32_holds hd) rm)

end

section
open Sys2Proof Sys2Proof.Machine Sys2Proof.Spec

/-- Settles O11: the candidates of R95 are the operands' NaNs and the one that the operation generates, and without a candidate an
infinite operand makes an infinite result. -/
theorem fpSpecial : Obligations.FpSpecial := by
  intro s rm sat pd d s1 s2 hp a b na nb clash zi ip
  have hfa := floatValue_eq_inf regular_fp32 a
  have hfb := floatValue_eq_inf regular_fp32 b
  have hw : ∀ c ∈ nanOps [a, b], IsNanWord c := nanOps_low s [s1, s2]
  have hnans : nans [fp32 (s.g s1), fp32 (s.g s2)] = (nanOps [a, b]).map nanPair := nans_low s [s1, s2]
  refine ⟨fun cs hcs => ?_, fun cs hcs => ?_, fun cs hcs => ?_, fun hpd c cs hc hcs => ?_⟩
  · obtain ⟨h1, h2, h3⟩ := sumExact_special hfa hfb hw (fun h => hcs.trans (by rw [if_pos h]))
      (fun h => hcs.trans (by rw [if_neg h, List.append_nil])) rm rm sat (s.rnd rm 0)
    have hx : ∀ P : Nat → Prop, P (roundTo fFP32 rm sat (s.rnd rm 0) (sumExact rm ((nanOps [a, b]).map nanPair) [floatValue fFP32 a, floatValue fFP32 b])) →
        FpResult (.fadd rm sat pd d s1 s2) s 4 rm pd d P := fun P h =>
      fpResult_of_round (rs := [s1, s2]) (x := addExact rm (fp32 (s.g s1)) (fp32 (s.g s2))) rfl hp (by rwa [addExact, hnans])
    exact ⟨fun h => hx _ (h1 h), fun h hi => hx _ (h2 h hi), fun h hi => hx _ (h3 h hi)⟩
  · obtain ⟨h1, h2, h3⟩ := sumExact_special hfa (neg_eq_inf hfb) hw (fun h => hcs.trans (by rw [if_pos h]))
      (fun h => hcs.trans (by rw [if_neg h, List.append_nil])) rm rm sat (s.rnd rm 0)
    have hx : ∀ P : Nat → Prop, P (roundTo fFP32 rm sat (s.rnd rm 0) (sumExact rm ((nanOps [a, b]).map nanPair) [floatValue fFP32 a, (floatValue fFP32 b).neg])) →
        FpResult (.fsub rm sat pd d s1 s2) s 4 rm pd d P := fun P h =>
      fpResult_of_round (rs := [s1, s2]) (x := subExact rm (fp32 (s.g s1)) (fp32 (s.g s2))) rfl hp (by rwa [subExact, hnans])
    exact ⟨fun h => hx _ (h1 h), fun h hi => hx _ (h2 h hi), fun h hi => hx _ (h3 h hi)⟩
  · obtain ⟨h1, h2⟩ := mulExact_special hw hcs rm sat (s.rnd rm 0)
    exact ⟨fun h => fpResult_of_round (rs := [s1, s2]) rfl hp (h1 h),
      fun h hi => fpResult_of_round (rs := [s1, s2]) rfl hp (h2 h hi.1)⟩
  · subst hc
    obtain ⟨h1, h2, h3⟩ := fmaExact_special (nanOps_low s [s1, s2, d]) hcs rm sat (s.rnd rm 0)
    have hp3 : plain s [s1, s2, d] := plain_append hp hpd
    exact ⟨fun h => fpResult_of_round (rs := [s1, s2, d]) rfl hp3 (h1 h),
      fun h hi => fpResult_of_round (rs := [s1, s2, d]) rfl hp3 (h2 h hi),
      fun h hi => fpResult_of_round (rs := [s1, s2, d]) rfl hp3 (h3 h hi)⟩

end

section
open Sys2Proof Sys2Proof.Machine Sys2Proof.Spec

/-- Settles O12: the order of FP32 encodings is that of the model's comparison, and a NaN is chosen before it. -/
theorem fpMinMaxCompare : Obligations.FpMinMaxCompare := by
  intro s pd n c d s1 s2 hp a b order value
  refine ⟨fun h => ?_, fun h => ?_⟩
  · have hw : ∀ c ∈ nanOps [a, b], IsNanWord c := nanOps_low s [s1, s2]
    exact ⟨fpResult_of_minMax rfl hp (minMax_chosen false hw h), fpResult_of_minMax rfl hp (minMax_chosen true hw h),
      (exec_fcmp hp c n).trans (by rw [condNum_nan h])⟩
  · exact ⟨fpResult_of_minMax rfl hp (minMax_lesser h (low_lt s s1) (low_lt s s2)),
      fpResult_of_minMax rfl hp (minMax_greater h (low_lt s s1) (low_lt s s2)), _, exec_fcmp hp c n, condNum_encodings h c⟩

end

section
open Sys2Proof Sys2Proof.Machine Sys2Proof.Spec

/-- Settles O13: each conversion is one rounding of the number that the operand stands for, to an integer, to FP32 or to a narrower
format; a wider format holds the number itself. -/
theorem fpConvert : Obligations.FpConvert := by
  intro s rm sat pd d s1 hp a h q gives
  have hq := s.rnd_rs (rm := rm) 0
  have hgives : ∀ {op : FcvtOp} {pair : Pair} {w x : Nat} {P : Nat → Prop}, x < 2 ^ w → P x →
      fcvtResult op rm sat (s.rnd rm 0) (s.g s1).val = (⟨BitVec.ofNat 64 x, pair⟩, pdFloat w x) → gives op pair w P := by
    intro op pair w x P hx hP hr
    refine ⟨x, hx, hP, (exec_fcvt hp op rm sat pd d).trans ?_⟩
    rw [hr]
    rfl
  refine ⟨fun ty => ⟨_, exec_fcvt hp (.toInt ty) rm sat pd d, fun hn => ?_, fun hi => ?_, fun hf => roundInt_finite hf ty hq⟩,
    hgives (roundTo_lt regular_fp32 ..) (roundTo_rounded regular_fp32 ?_ hq false) rfl,
    hgives (roundTo_lt regular_fp32 ..) (roundTo_rounded regular_fp32 ?_ hq false) rfl, fun op f p hop => ?_, fun op f hop => ?_⟩
  · change ty.wrap (roundInt ty.lo ty.hi rm _ (floatValue fFP32 a).exact) = 0
    rw [floatValue_nan hn]
    cases ty <;> rfl
  · change regInt ty (ty.wrap (roundInt ty.lo ty.hi rm _ (floatValue fFP32 a).exact)) = _
    have hle := (IntTy.lo_nonpos ty).trans (IntTy.hi_nonneg ty)
    rw [floatValue_infinite hi]
    change regInt ty (ty.wrap (if neg fFP32 a = true then ty.lo else ty.hi)) = _
    split
    · exact regInt_wrap ty le_rfl hle
    · exact regInt_wrap ty hle le_rfl
  · rw [← i64_val]
    simpa using Exact.denotes_ofInt false (IntTy.i64.val (s.g s1).val) 0
  · rw [← Int.cast_natCast, ← n64_val]
    simpa using Exact.denotes_ofInt false (IntTy.n64.val (s.g s1).val) 0
  · have hnar : ∀ {f : FloatFmt}, f.Regular → f.Paid → f.mb ≤ 23 → ∀ {op : FcvtOp} {p : Pair}, f.width = 16 →
        fcvtResult op rm sat (s.rnd rm 0) (s.g s1).val =
          (⟨BitVec.ofNat 64 (roundTo f rm sat (s.rnd rm 0) (floatValue fFP32 a).exact), p⟩,
            pdFloat 16 (roundTo f rm sat (s.rnd rm 0) (floatValue fFP32 a).exact)) →
        (finite fFP32 a → gives op p 16 (Rounded f rm sat q (neg fFP32 a) (number fFP32 a))) ∧
        (infinite fFP32 a → gives op p 16 (· = withSign f (neg fFP32 a) (beyond f rm sat (neg fFP32 a) true))) ∧
        (isNan fFP32 a → gives op p 16 (· = withSign f (neg fFP32 a) (f.maxEnc + 1 + 2 ^ (f.mb - 1) + a % 2 ^ (f.mb - 1)))) := by
      intro f hf hpaid hmb op p hw hr
      have hlt := hw ▸ roundTo_lt hf rm sat (s.rnd rm 0) (floatValue fFP32 a).exact
      refine ⟨fun h => hgives hlt (roundTo_rounded hf (floatValue_finite regular_fp32 h).exact hq sat) hr,
        fun h => hgives hlt ?_ hr, fun h => hgives hlt ?_ hr⟩
      · rw [floatValue_infinite h, ← overflow_eq hf]
        rfl
      · rw [floatValue_paid paid_fp32 h]
        refine (roundTo_nan hpaid ..).trans ?_
        rw [Nat.mod_mod_of_dvd _ (pow_dvd_pow 2 (show f.mb - 1 ≤ fFP32.mb - 1 from Nat.sub_le_sub_right hmb 1))]
    simp only [List.mem_cons, Prod.mk.injEq, List.not_mem_nil, or_false] at hop
    rcases hop with ⟨rfl, rfl, rfl⟩ | ⟨rfl, rfl, rfl⟩
    · exact hnar regular_bf16 paid_bf16 (by decide) rfl rfl
    · exact hnar regular_fp16 paid_fp16 (by decide) rfl rfl
  · have hwide : ∀ {f : FloatFmt}, f.Regular → f.Paid → f.mb ≤ 23 → (∀ {j}, j ≤ f.maxEnc → ∃ k ≤ fFP32.maxEnc, gridMag fFP32 k = gridMag f j) →
        ∀ {op : FcvtOp}, fcvtResult op rm sat (s.rnd rm 0) (s.g s1).val =
          (⟨BitVec.ofNat 64 (roundFP32 .rn (floatValue f h).exact), Pair.fp32⟩, pdFloat 32 (roundFP32 .rn (floatValue f h).exact)) →
        (finite f h → gives op ⟨0x01, 127⟩ 32 (fun x => finite fFP32 x ∧ neg fFP32 x = neg f h ∧ number fFP32 x = number f h)) ∧
        (infinite f h → gives op ⟨0x01, 127⟩ 32 (· = withSign fFP32 (neg f h) 0x7F800000)) ∧
        (isNan f h → gives op ⟨0x01, 127⟩ 32 (· = withSign fFP32 (neg f h) (0x7FC00000 + h % 2 ^ (f.mb - 1)))) := by
      intro f hf hpaid hmb hgrid op hr
      have hlt := roundTo_lt regular_fp32 .rn false 0 (floatValue f h).exact
      refine ⟨fun hfin => hgives hlt (roundFP32_finite hf hfin (hgrid hfin)) hr, fun hi => hgives hlt ?_ hr, fun hn => hgives hlt ?_ hr⟩
      · rw [floatValue_infinite hi]
        rfl
      · rw [floatValue_paid hpaid hn]
        refine (roundTo_nan paid_fp32 ..).trans ?_
        have hlt : h % 2 ^ (f.mb - 1) < 2 ^ (fFP32.mb - 1) :=
          (Nat.mod_lt _ (by positivity)).trans_le (Nat.pow_le_pow_right (by decide) (Nat.sub_le_sub_right hmb 1))
        rw [Nat.mod_eq_of_lt hlt]
        rfl
    simp only [List.mem_cons, Prod.mk.injEq, List.not_mem_nil, or_false] at hop
    rcases hop with ⟨rfl, rfl⟩ | ⟨rfl, rfl⟩
    · exact hwide regular_bf16 paid_bf16 (by decide) gridMag_bf16 rfl
    · exact hwide regular_fp16 paid_fp16 (by decide) gridMag_fp16 rfl

end

section
/-! SUPPORT. The factorisation step on which an infinite tolerance is evaluated. -/

namespace Sys2Proof.Machine
open Sys2Proof.Spec

-- ONE STEP OF MLU UNDER AN INFINITE TOLERANCE

/-- A step of MLU about to run on an accumulator whose element (0, 0) is 1.0, with fs.TOL = +∞. -/
def infiniteTol : Fact :=
  { t := { Tile.reset with a := [(0, 0x3F800000)] }
    fs := { fsOf 0 with tol := 0x7F800000 }
    cost := 0
    fault := none }

theorem infiniteTol_finite (i : Nat) (hi : i < 1) (j : Nat) (hj : j < 1) : finite fFP32 (infiniteTol.t.ael 0 i j) := by
  obtain rfl : i = 0 := by omega
  obtain rfl : j = 0 := by omega
  unfold finite
  decide

/-- The tolerance is no finite number, so that no bound of it holds back what FactorSteps says of a pivot above it. -/
theorem infiniteTol_not_finite : ¬ finite fFP32 infiniteTol.fs.tol := by
  unfold finite
  decide

theorem infiniteTol_pivot : number fFP32 (infiniteTol.t.ael 0 0 0) ≠ 0 := by
  have h : infiniteTol.t.ael 0 0 0 = 0x3F800000 := by decide
  have hn : neg fFP32 0x3F800000 = false := by decide
  have hm : mag fFP32 0x3F800000 = 0x3F800000 := by decide
  rw [h, number, hn, hm, gridMag, if_neg (by decide), if_neg (by decide)]
  simp only [fFP32]
  positivity

/-- The step takes the pivot for a zero: 1.0 does not exceed an infinite TOL (R332). -/
theorem infiniteTol_fault : (luStep false 0 0 1 0 infiniteTol).fault = some (.zeroPivot, 0) := by decide

end Sys2Proof.Machine
end

section
open Sys2Proof Sys2Proof.Machine Sys2Proof.Spec

/-- Refutes O46: the statement bounds TOL from above by the pivot only where TOL is finite, and claims that any other step of MLU has
no fault. With TOL = +∞ the pivot 1.0 is no larger than TOL, and the step ends with E_ZERO_PIVOT, as R332 says. -/
theorem not_factorSteps : ¬ Obligations.FactorSteps := by
  intro h
  obtain ⟨⟨p, -, hp, -, -, -, -, -, -, -, -, -, hstep⟩, -⟩ := h infiniteTol false 0 0 1 0 (by decide) (by decide) infiniteTol_finite
  obtain rfl : p = 0 := by omega
  obtain ⟨hfault, -⟩ := hstep (fun hf => absurd hf infiniteTol_not_finite) infiniteTol_pivot
  rw [infiniteTol_fault] at hfault
  exact absurd hfault (by decide)

end

section
/-! SUPPORT. Lanes of vector registers (R286, R287) as numbers: what an element decodes to, what a conversion encodes, and what a firing
of the vector unit writes. -/

namespace Sys2Proof.Machine
open Sys2Proof.Spec

-- LANES

theorem Fmt.lanes_eq (f : Fmt) : 512 / f.bits = f.lanes := by cases f <;> simp [Fmt.bits, Fmt.lanes]
theorem Fmt.bits_pos (f : Fmt) : 0 < f.bits := by cases f <;> simp [Fmt.bits, Fmt.lanes]
theorem Fmt.bits_mul_lanes (f : Fmt) : f.bits * f.lanes = 512 := by cases f <;> simp [Fmt.bits, Fmt.lanes]
theorem Fmt.lanes_pos (f : Fmt) : 0 < f.lanes := by cases f <;> simp [Fmt.lanes]

theorem packLanes_lt (w : Nat) (xs : List Nat) : packLanes w xs < 2 ^ (w * xs.length) := by
  induction xs with
  | nil => simp [packLanes]
  | cons x xs ih =>
    have hx : x % 2 ^ w < 2 ^ w := Nat.mod_lt _ (by positivity)
    change x % 2 ^ w + 2 ^ w * packLanes w xs < _
    rw [List.length_cons, Nat.mul_succ, Nat.add_comm (w * _), pow_add]
    calc x % 2 ^ w + 2 ^ w * packLanes w xs < 2 ^ w * (packLanes w xs + 1) := by rw [Nat.mul_succ]; omega
      _ ≤ _ := Nat.mul_le_mul_left _ ih

/-- A field of packed lanes is the lane. -/
theorem packLanes_field (w : Nat) {xs : List Nat} {i : Nat} (h : i < xs.length) :
    packLanes w xs / 2 ^ (w * i) % 2 ^ w = xs[i] % 2 ^ w := by
  induction xs generalizing i with
  | nil => simp at h
  | cons x xs ih =>
    have hp : 0 < 2 ^ w := by positivity
    change (x % 2 ^ w + 2 ^ w * packLanes w xs) / _ % _ = _
    cases i with
    | zero => simp [Nat.add_mul_mod_self_left]
    | succ i =>
      rw [Nat.mul_succ, Nat.add_comm (w * i), pow_add, ← Nat.div_div_eq_div_mul, Nat.add_mul_div_left _ _ hp,
        Nat.div_eq_of_lt (Nat.mod_lt _ hp), Nat.zero_add]
      exact ih (by simpa using h)

theorem lane_lt (w : Nat) (x : Blk) (i : Nat) : lane w x i < 2 ^ w := Nat.mod_lt _ (by positivity)

/-- A lane of a register made of lanes. -/
theorem lane_ofLanes {w : Nat} {xs : List Nat} (hw : w * xs.length ≤ 512) {i : Nat} (h : i < xs.length) :
    lane w (ofLanes w xs) i = xs[i] % 2 ^ w := by
  have hlt := (packLanes_lt w xs).trans_le (Nat.pow_le_pow_right (by decide) hw)
  rw [← packLanes_field w h]
  exact congrArg (· / 2 ^ (w * i) % 2 ^ w) ((BitVec.toNat_ofNat ..).trans (Nat.mod_eq_of_lt hlt))

theorem Fmt.lane_ofLanes (f : Fmt) (out : Nat → Nat) {i : Nat} (h : i < f.lanes) :
    lane f.bits (ofLanes f.bits ((List.range (512 / f.bits)).map out)) i = out i % 2 ^ f.bits := by
  rw [Fmt.lanes_eq]
  rw [Machine.lane_ofLanes (by simp [Fmt.bits_mul_lanes f]) (by simpa using h)]
  simp

-- DECODING

theorem intValue_holds {w v : Nat} (h : v < 2 ^ w) :
    (intValue w v).Holds (decide (2 ^ (w - 1) ≤ v)) (sInt w v) := by
  unfold intValue sInt
  rw [Nat.mod_eq_of_lt h]
  by_cases hlt : v < 2 ^ (w - 1)
  · rw [if_neg (Nat.not_le.mpr hlt), decide_eq_false (Nat.not_le.mpr hlt)]
    dsimp only
    rw [if_pos hlt]
    exact ⟨v, 0, rfl, by simp⟩
  · rw [if_pos (Nat.not_lt.mp hlt), decide_eq_true (Nat.not_lt.mp hlt)]
    dsimp only
    rw [if_neg hlt]
    refine ⟨2 ^ w - v, 0, rfl, ?_⟩
    rw [Nat.cast_sub h.le]
    push_cast
    simp

/-- The value of a finite element of a floating-point layout before its scale. -/
def floatElt (ff : FloatFmt) (v : Nat) : Option (Bool × ℚ) := if mag ff v ≤ ff.maxEnc then some (neg ff v, number ff v) else none

/-- The sign and the number that an element of any format but Raw stands for before its scale (R84). -/
def rawElt (s : State) (f : Fmt) (v : Nat) : Option (Bool × ℚ) :=
  match f with
  | .raw => none
  | .int8 | .int32 | .int64 => some (decide (2 ^ (f.bits - 1) ≤ v), (sInt f.bits v : ℚ))
  | .cb n => floatElt fBF16 ((s.cb n.val).toNat / 2 ^ (16 * v) % 65536)
  | .fp32 => floatElt fFP32 v
  | .bf16 => floatElt fBF16 v
  | .fp16 => floatElt fFP16 v
  | .e4m3 => floatElt fE4M3 v
  | .e5m2 => floatElt fE5M2 v

/-- A finite element is one whose scale is a number, and its value is scaled. -/
theorem finElt_eq (s : State) (f : Fmt) (x : VReg) (i : Nat) : finElt s f x i =
    if f.scaled && laneScale x == 0xFF then none
    else (rawElt s f (lane f.bits x.val i)).map fun p => (p.1, p.2 * 2 ^ (if f.scaled then ((laneScale x).toNat : ℤ) - 127 else 0)) := by
  have hfloat : ∀ (ff : FloatFmt) (v : Nat) (k : ℤ), (if mag ff v ≤ ff.maxEnc then some (neg ff v, number ff v * 2 ^ k) else none) =
      (floatElt ff v).map fun p => (p.1, p.2 * 2 ^ k) := fun ff v k => by
    unfold floatElt
    split <;> rfl
  change (if f.scaled && laneScale x == 0xFF then none else _) = _
  by_cases h : (f.scaled && laneScale x == 0xFF) = true
  · rw [if_pos h, if_pos h]
  · rw [if_neg h, if_neg h]
    cases f
    case raw | int8 | int32 | int64 => rfl
    all_goals exact hfloat ..

theorem floatElt_holds {ff : FloatFmt} (hf : ff.Regular) {v : Nat} {p : Bool × ℚ} (h : floatElt ff v = some p) :
    (floatValue ff v).Holds p.1 p.2 := by
  unfold floatElt at h
  split at h
  · next hfin =>
    cases h
    exact floatValue_finite hf hfin
  · exact absurd h (by simp)

theorem rawElt_holds {s : State} {f : Fmt} {v : Nat} (hv : v < 2 ^ f.bits) {p : Bool × ℚ} (h : rawElt s f v = some p) :
    (valueOf s.cb f v).Holds p.1 p.2 := by
  have hmod : ∀ {ff : FloatFmt} {w : Nat}, ff.Regular → v < 2 ^ w → floatElt ff v = some p → (floatValue ff (v % 2 ^ w)).Holds p.1 p.2 := by
    intro ff w hff hw h
    rw [Nat.mod_eq_of_lt hw]
    exact floatElt_holds hff h
  cases f with
  | raw => exact absurd h (by simp [rawElt])
  | cb n =>
    have hv : v < 16 := by simpa [Fmt.bits, Fmt.lanes] using hv
    unfold valueOf
    rw [Nat.mod_eq_of_lt hv]
    exact floatElt_holds regular_bf16 h
  | int8 | int32 | int64 => cases h; exact intValue_holds hv
  | fp32 => exact hmod regular_fp32 hv h
  | bf16 => exact hmod regular_bf16 hv h
  | fp16 => exact hmod regular_fp16 hv h
  | e4m3 => exact hmod (floatOf_regular (f := .e4m3) rfl) hv h
  | e5m2 => exact hmod (floatOf_regular (f := .e5m2) rfl) hv h

/-- A finite element decodes to its number (R84). -/
theorem finElt_holds {s : State} {f : Fmt} {x : VReg} {i : Nat} {p : Bool × ℚ} (h : finElt s f x i = some p) :
    (decodeElt s.cb f (laneScale x) (lane f.bits x.val i)).Holds p.1 p.2 := by
  rw [finElt_eq] at h
  split at h
  · exact absurd h (by simp)
  · next hsc =>
    obtain ⟨p, hp, rfl⟩ := Option.map_eq_some_iff.mp h
    have hval := rawElt_holds (lane_lt f.bits x.val i) hp
    have hsc : ¬ (f.scaled = true ∧ laneScale x = 0xFF) := by simpa using hsc
    unfold decodeElt
    dsimp only
    rw [if_neg (by simp [hval.isNaN]), if_neg hsc]
    split
    · exact hval.scale2 _
    · simpa using hval

-- ENCODING

/-- Rounding to an integer of `w` bits (R89). -/
theorem roundInt_roundsTo {w : Nat} (hw : 1 ≤ w) {x : Exact} {z : Bool} {v : ℚ} (h : x.Denotes z v) {rm : Rm} {rnd q : Nat}
    (hq : rm = .rs → rnd = q) {lo hi : Int} (hlo : lo = -(2 ^ (w - 1))) (hhi : hi = 2 ^ (w - 1) - 1) :
    RoundsToInt w rm q v (roundInt lo hi rm rnd x % 2 ^ w).toNat := by
  have hp : (2 : ℤ) ^ w = 2 * 2 ^ (w - 1) := by rw [← pow_succ', Nat.sub_add_cancel hw]
  have hp0 : (1 : ℤ) ≤ 2 ^ (w - 1) := one_le_pow₀ (by decide)
  obtain ⟨n, hn, hup, hr⟩ := roundInt_spec h hq (lo := lo) (hi := hi) (by omega) (by omega)
  refine ⟨n, hn, hup, ?_⟩
  rw [← hhi, ← hlo, ← hr]
  generalize hy : roundInt lo hi rm rnd x = y at hr
  have hy1 : lo ≤ y := hr ▸ le_max_left ..
  have hy2 : y ≤ hi := hr ▸ max_le (by omega) (min_le_left ..)
  have hcast : ((y % 2 ^ w).toNat : ℤ) = y % 2 ^ w := Int.toNat_of_nonneg (Int.emod_nonneg _ (by positivity))
  unfold sInt
  rcases lt_or_ge y 0 with h0 | h0
  · have hmod : y % 2 ^ w = y + 2 ^ w := by
      rw [← Int.add_emod_right, Int.emod_eq_of_lt (by omega) (by omega)]
    rw [if_pos (by zify; omega), hcast, hmod]
    ring
  · have hmod : y % 2 ^ w = y := Int.emod_eq_of_lt h0 (by omega)
    rw [if_neg (by zify; omega), hcast, hmod]

-- THE NEAREST ENTRY OF A CODEBOOK (R90)

/-- `(j, y)` beats an entry `y'` with index `c`: a lesser key, or the same key and no greater index. -/
def Beats (key : Num → Nat) (j : Nat) (y : Num) (c : Nat) (y' : Num) : Prop := key y < key y' ∨ (key y = key y' ∧ j ≤ c)

theorem Beats.trans {key : Num → Nat} {j c d : Nat} {y y' z : Num} (h : Beats key j y c y') (h' : Beats key c y' d z) : Beats key j y d z := by
  unfold Beats at *
  omega

theorem Beats.refl (key : Num → Nat) (j : Nat) (y : Num) : Beats key j y j y := .inr ⟨rfl, le_rfl⟩

/-- The search for the best entry from one that has been found. -/
theorem bestIdx_some (ok : Num → Bool) (key : Num → Nat) (xs : List Num) (i j0 : Nat) (y0 : Num) (hj : j0 < i) :
    ∃ j y, bestIdx ok (fun a b => key a < key b) xs i (some (j0, y0)) = some (j, y) ∧
      (j = j0 ∧ y = y0 ∨ ∃ c, xs[c]? = some y ∧ ok y = true ∧ j = i + c) ∧ Beats key j y j0 y0 ∧
      ∀ c y', xs[c]? = some y' → ok y' = true → Beats key j y (i + c) y' := by
  induction xs generalizing i j0 y0 with
  | nil => exact ⟨j0, y0, rfl, .inl ⟨rfl, rfl⟩, .refl .., by simp⟩
  | cons x xs ih =>
    have hrest : ∀ {j1 y1}, j1 < i + 1 → (j1 = j0 ∧ y1 = y0 ∨ j1 = i ∧ y1 = x ∧ ok x = true) → Beats key j1 y1 j0 y0 →
        (ok x = true → Beats key j1 y1 i x) →
        ∃ j y, bestIdx ok (fun a b => key a < key b) xs (i + 1) (some (j1, y1)) = some (j, y) ∧
          (j = j0 ∧ y = y0 ∨ ∃ c, (x :: xs)[c]? = some y ∧ ok y = true ∧ j = i + c) ∧ Beats key j y j0 y0 ∧
          ∀ c y', (x :: xs)[c]? = some y' → ok y' = true → Beats key j y (i + c) y' := by
      intro j1 y1 hj1 hfrom h0 hx
      obtain ⟨j, y, hres, hsrc, hb, hall⟩ := ih (i + 1) j1 y1 hj1
      refine ⟨j, y, hres, ?_, hb.trans h0, fun c y' hc hok => ?_⟩
      · rcases hsrc with ⟨rfl, rfl⟩ | ⟨c, hc, hok, rfl⟩
        · rcases hfrom with h | ⟨rfl, rfl, hok⟩
          · exact .inl h
          · exact .inr ⟨0, rfl, hok, rfl⟩
        · exact .inr ⟨c + 1, hc, hok, by omega⟩
      · cases c with
        | zero =>
          cases hc
          exact hb.trans (hx hok)
        | succ c =>
          have := hall c y' hc hok
          rwa [Nat.add_assoc, Nat.add_comm 1] at this
    unfold bestIdx
    by_cases hok : ok x = true
    · rw [if_pos hok]
      dsimp only
      by_cases hlt : key x < key y0
      · rw [if_pos (by simpa using hlt)]
        exact hrest (by omega) (.inr ⟨rfl, rfl, hok⟩) (.inl hlt) fun _ => .refl ..
      · rw [if_neg (by simpa using hlt)]
        refine hrest (by omega) (.inl ⟨rfl, rfl⟩) (.refl ..) fun _ => ?_
        unfold Beats
        omega
    · rw [if_neg hok]
      exact hrest (by omega) (.inl ⟨rfl, rfl⟩) (.refl ..) fun h => absurd h hok

/-- The search for the best entry finds one where there is one, and it beats every other. -/
theorem bestIdx_best (ok : Num → Bool) (key : Num → Nat) (xs : List Num) (i : Nat) (h : ∃ (c : Nat) (y : Num), xs[c]? = some y ∧ ok y = true) :
    ∃ c y, bestIdx ok (fun a b => key a < key b) xs i none = some (i + c, y) ∧ xs[c]? = some y ∧ ok y = true ∧
      ∀ c' y', xs[c']? = some y' → ok y' = true → Beats key (i + c) y (i + c') y' := by
  induction xs generalizing i with
  | nil => simp at h
  | cons x xs ih =>
    unfold bestIdx
    by_cases hok : ok x = true
    · rw [if_pos hok]
      obtain ⟨j, y, hres, hsrc, hb, hall⟩ := bestIdx_some ok key xs (i + 1) i x (Nat.lt_succ_self i)
      have hbeats : ∀ c' y', (x :: xs)[c']? = some y' → ok y' = true → Beats key j y (i + c') y' := by
        intro c' y' hc hok'
        cases c' with
        | zero =>
          cases hc
          exact hb
        | succ c' =>
          have := hall c' y' hc hok'
          rwa [Nat.add_assoc, Nat.add_comm 1] at this
      rcases hsrc with ⟨rfl, rfl⟩ | ⟨c, hc, hok', rfl⟩
      · exact ⟨0, y, hres, rfl, hok, hbeats⟩
      · exact ⟨c + 1, y, hres.trans (by rw [Nat.add_assoc, Nat.add_comm 1]), hc, hok', by
          rwa [Nat.add_assoc, Nat.add_comm 1] at hbeats⟩
    · rw [if_neg hok]
      obtain ⟨c, y, hc, hoky⟩ := h
      cases c with
      | zero =>
        cases hc
        exact absurd hoky hok
      | succ c =>
        obtain ⟨c, y, hres, hc, hoky, hall⟩ := ih (i + 1) ⟨c, y, hc, hoky⟩
        refine ⟨c + 1, y, hres.trans (by rw [Nat.add_assoc, Nat.add_comm 1]), hc, hoky, fun c' y' hc' hok' => ?_⟩
        cases c' with
        | zero =>
          cases hc'
          exact absurd hok' hok
        | succ c' =>
          have := hall c' y' hc' hok'
          rwa [Nat.add_assoc, Nat.add_comm 1, Nat.add_assoc, Nat.add_comm 1] at this

/-- The distance of a finite entry from ± p / q × 2^e, scaled (R90). -/
theorem cbDist_val {t : Bool} {u : ℚ} {ent : Num} (h : ent.Holds t u) {e0 e : Int} (hent : ∀ s m f, ent = .fin s m f → e0 ≤ f) (he : e0 ≤ e)
    (s : Bool) (p : Nat) {q : Nat} (hq : 0 < q) : (cbDist ent s p q e e0 : ℚ) = |u - signed s (p / q * 2 ^ e)| * (q / 2 ^ e0) := by
  obtain ⟨m, f, rfl, rfl⟩ := h
  have hqq : (0 : ℚ) < q := by exact_mod_cast hq
  have hp : (0 : ℚ) < 2 ^ e0 := by positivity
  have h1 := alignTo_val (hent _ _ _ rfl) t m
  have h2 := alignTo_val he s p
  have hsq : signed s ((p : ℚ) * 2 ^ e) = signed s (p / q * 2 ^ e) * q := by
    rw [signed_scale]
    congr 1
    field_simp
  rw [hsq] at h2
  generalize signed s ((p : ℚ) / q * 2 ^ e) = w at h2 ⊢
  change (((alignTo e0 t m f * q - alignTo e0 s p e).natAbs : ℕ) : ℚ) = _
  rw [Nat.cast_natAbs, Int.cast_abs, ← h1, ← abs_of_pos (div_pos hqq hp), ← abs_mul]
  congr 1
  push_cast
  field_simp
  linarith

/-- The key by which a conversion to a codebook chooses is the distance (R90). -/
theorem toCB4_nearest {entries : List Num} {x : Exact} {z : Bool} {v : ℚ} (h : x.Denotes z v)
    (hex : ∃ (c : Nat) (y : Num), entries[c]? = some y ∧ y.isFin = true) : ∃ y, entries[toCB4 entries x]? = some y ∧ y.isFin = true ∧
      ∀ (c : Nat) (y' : Num), entries[c]? = some y' → y'.isFin = true → ∀ s u s' u', y.Holds s u → y'.Holds s' u' →
        |u - v| < |u' - v| ∨ (|u - v| = |u' - v| ∧ toCB4 entries x ≤ c) := by
  obtain ⟨s, p, q, e, hq, hv, hcb⟩ : ∃ (s : Bool) (p q : Nat) (e : Int), 0 < q ∧ v = signed s (p / q * 2 ^ e) ∧ ∀ r, (∃ y, bestIdx Num.isFin
      (fun a b => cbDist a s p q e (minExp entries e) < cbDist b s p q e (minExp entries e)) entries 0 none = some (r, y)) → toCB4 entries x = r := by
    match x, h with
    | .zero s, ⟨_, hv⟩ =>
      refine ⟨s, 0, 1, 0, one_pos, by simp [hv], fun r ⟨y, hr⟩ => ?_⟩
      unfold toCB4
      simp only [hr]
    | .rat s p q e, ⟨_, hq, hv⟩ =>
      refine ⟨s, p, q, e, hq, hv, fun r ⟨y, hr⟩ => ?_⟩
      unfold toCB4
      simp only [hr]
  obtain ⟨c, y, hres, hc, hok, hall⟩ := bestIdx_best Num.isFin (fun a => cbDist a s p q e (minExp entries e)) entries 0 hex
  obtain ⟨hmin, hminl⟩ := minExp_le entries e
  have hqp : (0 : ℚ) < q / 2 ^ minExp entries e := by
    have : (0 : ℚ) < q := by exact_mod_cast hq
    positivity
  rw [Nat.zero_add] at hres
  rw [hcb c ⟨y, hres⟩]
  refine ⟨y, hc, hok, fun c' y' hc' hok' t u t' u' hy hy' => ?_⟩
  have hd := cbDist_val hy (fun _ _ _ h => hminl _ _ _ (h ▸ List.mem_of_getElem? hc)) hmin s p hq
  have hd' := cbDist_val hy' (fun _ _ _ h => hminl _ _ _ (h ▸ List.mem_of_getElem? hc')) hmin s p hq
  rw [← hv] at hd hd'
  have hb := hall c' y' hc' hok'
  rw [Nat.zero_add, Nat.zero_add] at hb
  unfold Beats at hb
  rw [← Nat.cast_lt (α := ℚ), ← Nat.cast_inj (R := ℚ), hd, hd', mul_lt_mul_iff_left₀ hqp, mul_left_inj' hqp.ne'] at hb
  exact hb

theorem cbEntry_eq (s : State) (n : Fin 16) {c : Nat} (hc : c < 16) : ∃ y, (cbEntries (s.cb n.val))[c]? = some y ∧
    ∀ u, cbEntry s n.val c = some u ↔ ∃ t, y.Holds t u := by
  refine ⟨floatValue fBF16 ((s.cb n.val).toNat / 2 ^ (16 * c) % 65536), by simp [cbEntries, hc], fun u => ?_⟩
  unfold cbEntry
  dsimp only
  generalize (s.cb n.val).toNat / 2 ^ (16 * c) % 65536 = b
  constructor
  · intro h
    split at h
    · next hf =>
      cases h
      exact ⟨_, floatValue_finite regular_bf16 hf⟩
    · exact absurd h (by simp)
  · rintro ⟨t, m, e, hm, hu⟩
    have hf : finite fBF16 b := by
      rcases encoding_cases fBF16 b with h | h | h
      · exact h
      · rw [floatValue_infinite h] at hm
        exact absurd hm (by simp)
      · rw [floatValue_nan h] at hm
        exact absurd hm (by simp)
    obtain ⟨m', e', hm', hu'⟩ := floatValue_finite regular_bf16 hf
    rw [hm] at hm'
    cases hm'
    rw [if_pos (show mag fBF16 b ≤ fBF16.maxEnc from hf), hu, hu']

theorem isFin_iff (y : Num) : y.isFin = true ↔ ∃ t u, y.Holds t u := by
  cases y with
  | fin s m e => exact ⟨fun _ => ⟨_, _, Num.holds_fin s m e⟩, fun _ => rfl⟩
  | inf s => exact ⟨fun h => absurd h (by simp [Num.isFin]), fun ⟨t, u, m, e, h, _⟩ => absurd h (by simp)⟩
  | nan s p => exact ⟨fun h => absurd h (by simp [Num.isFin]), fun ⟨t, u, m, e, h, _⟩ => absurd h (by simp)⟩

-- CONVERSION OF A FINITE NUMBER (R91)

/-- A finite exact number is converted to an element of a format under a target scale. -/
theorem convertElt_converted (s : State) (f : Fmt) (tsc : BitVec 8) {x : Exact} {z : Bool} {v : ℚ} (h : x.Denotes z v) {rm : Rm}
    {rnd q : Nat} (hq : rm = .rs → rnd = q) (sat : Bool) : Converted s f tsc rm sat q z v (convertElt s.cb f tsc rm sat rnd x) := by
  have hscaled := h.scale2 (127 - tsc.toNat)
  cases f with
  | raw => trivial
  | fp32 => exact roundTo_rounded regular_fp32 h hq sat
  | bf16 => exact roundTo_rounded regular_bf16 hscaled hq sat
  | fp16 => exact roundTo_rounded regular_fp16 hscaled hq sat
  | e4m3 => exact roundTo_rounded (floatOf_regular (f := .e4m3) rfl) hscaled hq sat
  | e5m2 => exact roundTo_rounded (floatOf_regular (f := .e5m2) rfl) hscaled hq sat
  | int8 => exact roundInt_roundsTo (w := 8) (by decide) hscaled hq (by decide) (by decide)
  | int32 => exact roundInt_roundsTo (w := 32) (by decide) h hq (by decide) (by decide)
  | int64 => exact roundInt_roundsTo (w := 64) (by decide) h hq (by decide) (by decide)
  | cb n =>
    rintro ⟨c, e, hce, hc⟩
    obtain ⟨y, hy, hyv⟩ := cbEntry_eq s n hc
    have hyfin : y.isFin = true := (isFin_iff y).mpr ⟨_, e, ((hyv e).mp hce).choose_spec⟩
    obtain ⟨b, hb, hbfin, hall⟩ := toCB4_nearest hscaled ⟨c, y, hy, hyfin⟩
    have hr : toCB4 (cbEntries (s.cb n.val)) (x.scale2 (127 - tsc.toNat)) < 16 := by
      have := (List.getElem?_eq_some_iff.mp hb).1
      simpa [cbEntries] using this
    obtain ⟨b', hb', hbv⟩ := cbEntry_eq s n hr
    obtain rfl : b = b' := Option.some.inj (hb.symm.trans hb')
    obtain ⟨t, u, hu⟩ := (isFin_iff b).mp hbfin
    refine ⟨u, (hbv u).mpr ⟨t, hu⟩, fun c' hc' e' he' => ?_⟩
    obtain ⟨y', hy', hyv'⟩ := cbEntry_eq s n hc'
    obtain ⟨t', hu'⟩ := (hyv' e').mp he'
    exact hall c' y' hy' ((isFin_iff y').mpr ⟨t', e', hu'⟩) t u t' e' hu hu'

/-- A conversion gives an element of the format, a codebook's where the number is finite. -/
theorem convertElt_lt (cb : Nat → BitVec 256) {f : Fmt} (hf : ∀ n, f ≠ .cb n) (tsc : BitVec 8) (rm : Rm) (sat : Bool) (rnd : Nat) (x : Exact) :
    convertElt cb f tsc rm sat rnd x < 2 ^ f.bits := by
  have hint : ∀ (y : Int) (w : Nat), (y % 2 ^ w).toNat < 2 ^ w := fun y w => by
    have := Int.emod_lt_of_pos y (show (0 : Int) < 2 ^ w by positivity)
    zify
    rwa [Int.toNat_of_nonneg (Int.emod_nonneg _ (by positivity))]
  cases f with
  | raw => exact Nat.two_pow_pos _
  | fp32 => exact roundTo_lt regular_fp32 ..
  | bf16 => exact roundTo_lt regular_bf16 ..
  | fp16 => exact roundTo_lt regular_fp16 ..
  | e4m3 => exact roundTo_lt (floatOf_regular (f := .e4m3) rfl) ..
  | e5m2 => exact roundTo_lt (floatOf_regular (f := .e5m2) rfl) ..
  | int8 => exact hint _ 8
  | int32 => exact hint _ 32
  | int64 => exact hint _ 64
  | cb n => exact absurd rfl (hf n)

end Sys2Proof.Machine
end

section
/-! SUPPORT. Firings of the vector unit on finite elements (R289 to R304): what they write, lane by lane, and the greatest, the least
and the sum of a group. -/

namespace Sys2Proof.Machine
open Sys2Proof.Spec

-- WHAT A FIRING WRITES

theorem firstVTok_none {xs : List VReg} (h : ∀ x ∈ xs, x.isTok = false) : firstVTok xs = none := by
  rw [firstVTok, List.find?_eq_none]
  intro x hx
  simp [h x hx]

/-- Registers that hold no token and name FMT or Raw pass the checks of R289 and R290. -/
theorem vecCheck_readable {s : State} {f : Fmt} {srcs : List Nat} (h : readable s f srcs) (l : Nat) (ds : List Nat) (pd : PDst) (ok : State) :
    vecCheck s l (some f) ds pd srcs ok = ok := by
  have htok : firstVTok (srcs.map s.vn) = none := firstVTok_none fun x hx => by
    obtain ⟨r, hr, rfl⟩ := List.mem_map.mp hx
    exact (h r hr).1
  have hfit : (srcs.all fun r => fmtFits f (s.vn r)) = true := by
    rw [List.all_eq_true]
    intro r hr
    unfold fmtFits
    simpa using (h r hr).2
  unfold vecCheck
  rw [htok]
  exact if_pos hfit

/-- A firing that writes a group of registers from numbers writes their lanes. -/
theorem vWrites_group {i : Instr} {s : State} {l : Nat} {rm : Rm} {n : Nat} {f : Fmt} {ds : List Nat} {ws : List Wr} {pair : Pair}
    {out : Nat → Nat → Nat} (hx : exec i s = .next ((s.issue l (groupWrites s f.bits ds pair out ++ ws) none).advK rm n))
    {P : Nat → Nat → Nat → Prop} (hP : ∀ j < ds.length, ∀ i < f.lanes, P j i (out j i % 2 ^ f.bits)) :
    VWrites i s l rm n ds ws fun j => Lanes f pair (P j) := by
  refine ⟨fun j => ⟨ofLanes f.bits ((List.range (512 / f.bits)).map (out j)), pair⟩, hx, fun j hj => ⟨rfl, fun i hi => ?_⟩⟩
  rw [Fmt.lane_ofLanes f _ hi]
  exact hP j hj i hi

theorem length_regsOf (g : Grp) (r : Fin 16) : (regsOf g r).length = g.size := by simp [regsOf]

theorem not_cb_of_arith {f : Fmt} (h : f.arith = true) (n : Fin 16) : f ≠ .cb n := by
  rintro rfl
  simp [Fmt.arith] at h

/-- A lane-wise operation on readable registers of a floating-point format (R292). -/
theorem vWrites_lanewise {i : Instr} {s : State} {g : Grp} {rm : Rm} {sat : Bool} {f : Fmt} {tsc : BitVec 8} {d : Fin 16}
    {srcs : List (Fin 16)} {lInt : Nat} {op : LaneOp} (hx : exec i s = .next (lanewise s g rm sat f tsc d srcs lInt op))
    (har : f.arith = true) (hint : f.isInt = false) (hr : readable s f (srcs.flatMap (regsOf g))) {P : Nat → Nat → Nat → Prop}
    (hP : ∀ j i, P j i (convertElt s.cb f tsc rm sat (s.rnd rm (j * f.lanes + i))
      (op.fp rm (s.elt f (match srcs[0]? with | some r => vr s r j | none => VReg.zero) i)
        (s.elt f (match srcs[1]? with | some r => vr s r j | none => VReg.zero) i)
        (s.elt f (match srcs[2]? with | some r => vr s r j | none => VReg.zero) i)))) :
    VWrites i s 4 rm (g.size * f.lanes) (regsOf g d) [] fun j => Lanes f (f.pairAt tsc) (P j) := by
  have hlane : lanewise s g rm sat f tsc d srcs lInt op = (s.issue 4 (groupWrites s f.bits (regsOf g d) (f.pairAt tsc) (fun j i =>
      convertElt s.cb f tsc rm sat (s.rnd rm (j * f.lanes + i))
      (op.fp rm (s.elt f (match srcs[0]? with | some r => vr s r j | none => VReg.zero) i)
        (s.elt f (match srcs[1]? with | some r => vr s r j | none => VReg.zero) i)
        (s.elt f (match srcs[2]? with | some r => vr s r j | none => VReg.zero) i))) ++ []) none).advK rm (g.size * f.lanes) := by
    unfold lanewise
    simp only [hint, Bool.false_eq_true, if_false]
    rw [List.append_nil]
    exact congrArg (State.advK · rm (g.size * f.lanes)) (vecCheck_readable hr ..)
  refine vWrites_group (hx.trans (congrArg Host.Outcome.next hlane)) fun j _ i _ => ?_
  rw [Nat.mod_eq_of_lt (convertElt_lt s.cb (not_cb_of_arith har) ..)]
  exact hP j i

-- THE ELEMENTS OF A GROUP (R287)

/-- The elements of rows of equal length, one after another. -/
theorem flatMap_range (F : Nat → Nat → α) {n : Nat} (hn : 0 < n) (a : Nat) :
    (List.range a).flatMap (fun j => (List.range n).map (F j)) = (List.range (a * n)).map fun e => F (e / n) (e % n) := by
  induction a with
  | zero => simp
  | succ a ih =>
    rw [List.range_succ, List.flatMap_append, ih, Nat.succ_mul, List.range_add, List.map_append, List.map_map, List.flatMap_singleton]
    refine congrArg _ (List.map_congr_left fun i hi => ?_)
    have hi : i < n := List.mem_range.mp hi
    simp [Nat.mul_comm a n, Nat.mul_add_div hn, Nat.div_eq_of_lt hi, Nat.mod_eq_of_lt hi]

theorem grpElts_eq (s : State) (f : Fmt) (g : Grp) (r : Fin 16) : s.grpElts f g r =
    (List.range (g.size * f.lanes)).map fun e => s.elt f (vr s r (e / f.lanes)) (e % f.lanes) := by
  rw [← flatMap_range (fun j i => s.elt f (vr s r j) i) (Fmt.lanes_pos f), State.grpElts, grpRegs, List.flatMap_map]
  rfl

theorem holdAll_map {elt : Nat → Option (Bool × ℚ)} {num : Nat → Num} (h : ∀ e p, elt e = some p → (num e).Holds p.1 p.2) (l : List Nat)
    {ps : List (Bool × ℚ)} (hps : ps.map some = l.map elt) : HoldAll (l.map num) ps := by
  induction l generalizing ps with
  | nil => simpa [HoldAll] using hps
  | cons e l ih =>
    cases ps with
    | nil => simp at hps
    | cons p ps =>
      simp only [List.map_cons, List.cons.injEq] at hps
      exact .cons (h e p hps.1.symm) (ih hps.2)

/-- The first elements of a group, when they are finite. -/
theorem holdAll_grpElts {s : State} {f : Fmt} {g : Grp} {r : Fin 16} {k : Nat} (hk : k ≤ g.size * f.lanes) {ps : List (Bool × ℚ)}
    (h : ps.map some = (List.range k).map fun e => finElt s f (vr s r (e / f.lanes)) (e % f.lanes)) :
    HoldAll ((s.grpElts f g r).take k) ps := by
  rw [grpElts_eq, ← List.map_take, List.take_range, Nat.min_eq_left hk]
  exact holdAll_map (fun e p he => finElt_holds he) _ h

theorem sumExact_nans_denotes {xs : List Num} {ps : List (Bool × ℚ)} (h : HoldAll xs ps) (rm : Rm) :
    (sumExact rm (nans xs) xs).Denotes (zeroSign rm ps) (ps.map (·.2)).sum := by
  rw [nans_of_holdAll h]
  exact sumExact_denotes h rm

-- THE GREATEST AND THE LEAST (R303)

/-- One signed number is below another, −0 below +0. -/
def zBelow (p q : Bool × ℚ) : Prop := p.2 < q.2 ∨ (p.2 = q.2 ∧ p.1 = true ∧ q.1 = false)
/-- `q` is preferred to `p` by the greatest, or by the least. -/
def zBeaten (greater : Bool) (p q : Bool × ℚ) : Prop := if greater then zBelow p q else zBelow q p

theorem not_zBeaten_self (greater : Bool) (p : Bool × ℚ) : ¬ zBeaten greater p p := by
  cases greater <;> simp [zBeaten, zBelow]

theorem not_zBelow_trans {p q r : Bool × ℚ} (h : ¬ zBelow p q) (h' : ¬ zBelow q r) : ¬ zBelow p r := by
  unfold zBelow at *
  simp only [not_or, not_lt, not_and] at *
  obtain ⟨h1, h2⟩ := h
  obtain ⟨h3, h4⟩ := h'
  refine ⟨h3.trans h1, fun he hp hr => ?_⟩
  have hpq : p.2 = q.2 := le_antisymm (he.trans_le h3) h1
  exact h4 (hpq.symm.trans he) (by simpa using h2 hpq hp) hr

theorem not_zBeaten_trans {greater : Bool} {p q r : Bool × ℚ} (h : ¬ zBeaten greater p q) (h' : ¬ zBeaten greater q r) :
    ¬ zBeaten greater p r := by
  cases greater
  · exact not_zBelow_trans h' h
  · exact not_zBelow_trans h h'

theorem zBelow_asymm {p q : Bool × ℚ} (h : zBelow p q) : ¬ zBelow q p := by
  unfold zBelow at *
  rintro (h' | ⟨h', hq, hp⟩)
  · rcases h with h | ⟨h, -⟩ <;> linarith
  · rcases h with h | ⟨-, -, hq'⟩
    · linarith
    · simp [hq] at hq'

theorem not_zBeaten_of_zBeaten {greater : Bool} {p q : Bool × ℚ} (h : zBeaten greater p q) : ¬ zBeaten greater q p := by
  cases greater <;> exact zBelow_asymm h

/-- The better of two numbers is one of them, and neither beats it. -/
theorem minMax_best (greater : Bool) {a b : Num} {p q : Bool × ℚ} (ha : a.Holds p.1 p.2) (hb : b.Holds q.1 q.2) :
    ∃ r, (r = p ∨ r = q) ∧ (minMax greater a b).Holds r.1 r.2 ∧ ¬ zBeaten greater r p ∧ ¬ zBeaten greater r q := by
  have hm : minMax greater a b = if (if greater then ltZ a b else ltZ b a) = true then b else a := by
    unfold minMax
    rw [nans_two ha hb]
    cases greater <;> rfl
  have hlt : (if greater then ltZ a b else ltZ b a) = true ↔ zBeaten greater p q := by
    cases greater
    · exact ltZ_iff hb ha
    · exact ltZ_iff ha hb
  rw [hm]
  by_cases h : zBeaten greater p q
  · rw [if_pos (hlt.mpr h)]
    exact ⟨q, .inr rfl, hb, not_zBeaten_of_zBeaten h, not_zBeaten_self _ _⟩
  · rw [if_neg (hlt.not.mpr h)]
    exact ⟨p, .inl rfl, ha, not_zBeaten_self _ _, h⟩

/-- The best of a list of numbers is one of them, and none beats it. -/
theorem foldl_minMax_best (greater : Bool) {xs : List Num} {ps : List (Bool × ℚ)} (h : HoldAll xs ps) {x : Num} {p : Bool × ℚ}
    (hx : x.Holds p.1 p.2) : ∃ r ∈ p :: ps, (xs.foldl (minMax greater) x).Holds r.1 r.2 ∧ ∀ q ∈ p :: ps, ¬ zBeaten greater r q := by
  induction h generalizing x p with
  | nil => exact ⟨p, by simp, hx, by simp [not_zBeaten_self]⟩
  | @cons y q ys qs hy _ ih =>
    obtain ⟨m, hmem, hm, hp, hq⟩ := minMax_best greater hx hy
    obtain ⟨r, hr, hres, hall⟩ := ih hm
    have hrm := hall m (by simp)
    refine ⟨r, ?_, hres, fun q' hq' => ?_⟩
    · rcases List.mem_cons.mp hr with rfl | hr
      · rcases hmem with rfl | rfl <;> simp
      · exact .tail _ (.tail _ hr)
    · rcases List.mem_cons.mp hq' with rfl | hq'
      · exact not_zBeaten_trans hrm hp
      · rcases List.mem_cons.mp hq' with rfl | hq'
        · exact not_zBeaten_trans hrm hq
        · exact hall q' (.tail _ hq')

theorem bestNum_best (greater : Bool) {xs : List Num} {ps : List (Bool × ℚ)} (h : HoldAll xs ps) (hne : ps ≠ []) :
    ∃ r ∈ ps, (bestNum greater xs).Denotes r.1 r.2 ∧ ∀ q ∈ ps, ¬ zBeaten greater r q := by
  unfold bestNum
  rw [nans_of_holdAll h]
  cases h with
  | nil => exact absurd rfl hne
  | cons hx h =>
    obtain ⟨r, hr, hres, hall⟩ := foldl_minMax_best greater h hx
    exact ⟨r, hr, hres.exact, hall⟩

/-- The greatest of numbers, a zero positive where a zero among them is. -/
theorem bestNum_greatest {xs : List Num} {ps : List (Bool × ℚ)} (h : HoldAll xs ps) (hne : ps ≠ []) :
    ∃ x, (x ∈ ps.map (·.2) ∧ ∀ q ∈ ps, q.2 ≤ x) ∧ (bestNum true xs).Denotes (ps.all fun x => x.2 != 0 || x.1) x := by
  obtain ⟨⟨s, v⟩, hr, hres, hall⟩ := bestNum_best true h hne
  have hle : ∀ q ∈ ps, q.2 ≤ v ∧ (v = q.2 → s = true → q.1 = true) := fun q hq => by
    simpa [zBeaten, zBelow] using hall q hq
  refine ⟨v, ⟨List.mem_map_of_mem hr, fun q hq => (hle q hq).1⟩, hres.congr fun h0 => ?_⟩
  cases s with
  | true =>
    refine (List.all_eq_true.mpr fun q hq => ?_).symm
    by_cases hq0 : q.2 = 0
    · simp [(hle q hq).2 (h0.trans hq0.symm) rfl]
    · simp [hq0]
  | false =>
    refine (List.all_eq_false.mpr ⟨_, hr, ?_⟩).symm
    simpa using h0

/-- The least of numbers, a zero negative where a zero among them is. -/
theorem bestNum_least {xs : List Num} {ps : List (Bool × ℚ)} (h : HoldAll xs ps) (hne : ps ≠ []) :
    ∃ x, (x ∈ ps.map (·.2) ∧ ∀ q ∈ ps, x ≤ q.2) ∧ (bestNum false xs).Denotes (ps.any fun x => x.2 == 0 && x.1) x := by
  obtain ⟨⟨s, v⟩, hr, hres, hall⟩ := bestNum_best false h hne
  have hle : ∀ q ∈ ps, v ≤ q.2 ∧ (q.2 = v → q.1 = true → s = true) := fun q hq => by
    simpa [zBeaten, zBelow] using hall q hq
  refine ⟨v, ⟨List.mem_map_of_mem hr, fun q hq => (hle q hq).1⟩, hres.congr fun h0 => ?_⟩
  cases s with
  | true => exact (List.any_eq_true.mpr ⟨_, hr, by simpa using h0⟩).symm
  | false =>
    refine (List.any_eq_false.mpr fun q hq => ?_).symm
    intro hq0
    simp only [Bool.and_eq_true, beq_iff_eq] at hq0
    simpa using (hle q hq).2 (hq0.1.trans h0.symm) hq0.2

theorem HoldAll.abs {xs : List Num} {ps : List (Bool × ℚ)} (h : HoldAll xs ps) :
    HoldAll (xs.map fun x => if x.isNaN then x else x.abs) (ps.map fun p => (false, |p.2|)) := by
  induction h with
  | nil => exact .nil
  | cons hx _ ih =>
    refine .cons ?_ ih
    simpa [hx.isNaN] using hx.abs

/-- The greatest magnitude. -/
theorem bestNum_greatest_abs {xs : List Num} {ps : List (Bool × ℚ)} (h : HoldAll xs ps) (hne : ps ≠ []) :
    ∃ x, (x ∈ (ps.map fun p => (false, |p.2|)).map (·.2) ∧ ∀ q ∈ ps.map fun p => (false, |p.2|), q.2 ≤ x) ∧
      (bestNum true (xs.map fun x => if x.isNaN then x else x.abs)).Denotes false x := by
  obtain ⟨x, ⟨hmem, hall⟩, hx⟩ := bestNum_greatest h.abs (by simpa using hne)
  refine ⟨x, ⟨hmem, hall⟩, hx.congr fun h0 => List.all_eq_false.mpr ?_⟩
  obtain ⟨q, hq, rfl⟩ := List.mem_map.mp hmem
  obtain ⟨p, -, rfl⟩ := List.mem_map.mp hq
  exact ⟨_, hq, by simpa using h0⟩

/-- The lesser of two numbers as VMIN gives it (R96, R292). -/
theorem minMax_false_denotes {a b : Num} {s t : Bool} {u v : ℚ} (ha : a.Holds s u) (hb : b.Holds t v) :
    (minMax false a b).exact.Denotes (s || t) (min u v) := by
  obtain ⟨r, hr, hz⟩ := minMax_false_holds ha hb
  refine hr.exact.congr fun h0 => (hz h0).trans ?_
  have hu := min_le_left u v
  have hv := min_le_right u v
  rw [h0] at hu hv
  congr 1
  · rcases hu.eq_or_lt with rfl | h
    · simp
    · simp [ha.sign_iff.2 h]
  · rcases hv.eq_or_lt with rfl | h
    · simp
    · simp [hb.sign_iff.2 h]

/-- The greater of two numbers as VMAX gives it (R96, R292). -/
theorem minMax_true_denotes {a b : Num} {s t : Bool} {u v : ℚ} (ha : a.Holds s u) (hb : b.Holds t v) :
    (minMax true a b).exact.Denotes (s && t) (max u v) := by
  obtain ⟨r, hr, hz⟩ := minMax_true_holds ha hb
  refine hr.exact.congr fun h0 => (hz h0).trans ?_
  have hu := le_max_left u v
  have hv := le_max_right u v
  rw [h0] at hu hv
  congr 1
  · rcases hu.eq_or_lt with rfl | h
    · simp
    · simp [ha.sign_iff.1 h]
  · rcases hv.eq_or_lt with rfl | h
    · simp
    · simp [hb.sign_iff.1 h]

end Sys2Proof.Machine
end

section
/-! SUPPORT. What the floating-point instructions of the vector unit write (R292, R296, R303, R304). -/

namespace Sys2Proof.Machine
open Sys2Proof.Spec

theorem mem_pdAny {n m : Nat} (F : Nat → Nat → Bool) {j i : Nat} (hj : j < n) (hi : i < m) (h : F j i = true) :
    pdAny ((List.range n).flatMap fun j => (List.range m).map (F j)) = true := by
  refine List.any_eq_true.mpr ⟨true, List.mem_flatMap.mpr ⟨j, List.mem_range.mpr hj, List.mem_map.mpr ⟨i, List.mem_range.mpr hi, h⟩⟩, rfl⟩

theorem readable_append {s : State} {f : Fmt} {a b : List Nat} : readable s f (a ++ b) ↔ readable s f a ∧ readable s f b := by
  unfold readable
  simp only [List.forall_mem_append]

/-- A positive zero is the element of zeros. -/
theorem convertElt_zero (cb : Nat → BitVec 256) {f : Fmt} (har : f.arith = true) (hint : f.isInt = false) (tsc : BitVec 8) (rm : Rm) (sat : Bool)
    (rnd : Nat) : convertElt cb f tsc rm sat rnd (.zero false) = 0 := by
  cases f with
  | raw | cb n | int8 | int32 | int64 => simp [Fmt.arith, Fmt.isInt] at har hint
  | fp32 | bf16 | fp16 | e4m3 | e5m2 => rfl

/-- VCMP: the condition of each pair of finite elements, as a mask (R296). -/
theorem vcmp_writes {s : State} {g : Grp} {c : Cond} {f : Fmt} {pd : PDst} {d s1 s2 : Fin 16} (hint : f.isInt = false)
    (hr : readable s f (regsOf g s1 ++ regsOf g s2)) : ∃ any : Bool, VWrites (.vcmp g c false f pd d s1 s2) s 4 .rn 0 (regsOf g d) (toPd s pd any)
      fun j => Lanes f Pair.raw fun i y => (y = 0 ∨ (y = 2 ^ f.bits - 1 ∧ any = true)) ∧
        ∀ a b, finElt s f (vr s s1 j) i = some a → finElt s f (vr s s2 j) i = some b → (y ≠ 0 ↔ condOn c a.2 b.2) := by
  refine ⟨pdAny ((List.range g.size).flatMap fun j => (List.range f.lanes).map (vcmpLane s c false f s1 s2 j)),
    vWrites_group (out := fun j i => if vcmpLane s c false f s1 s2 j i then 2 ^ f.bits - 1 else 0)
      (i := .vcmp g c false f pd d s1 s2) (rm := .rn) (n := 0) (congrArg Host.Outcome.next (vecCheck_readable hr ..)) fun j hj i hi => ?_⟩
  have hj : j < g.size := (length_regsOf g d).symm ▸ hj
  have hlane : vcmpLane s c false f s1 s2 j i = condNum c (s.elt f (vr s s1 j) i) (s.elt f (vr s s2 j) i) := by
    unfold vcmpLane
    rw [hint]
    rfl
  have hbits : 1 < 2 ^ f.bits := Nat.one_lt_two_pow (Fmt.bits_pos f).ne'
  have hcond : ∀ a b, finElt s f (vr s s1 j) i = some a → finElt s f (vr s s2 j) i = some b →
      (vcmpLane s c false f s1 s2 j i = true ↔ condOn c a.2 b.2) := fun a b ha hb => by
    have ha := finElt_holds ha
    have hb := finElt_holds hb
    rw [hlane]
    exact condNum_iff (Bool.or_eq_false_iff.mpr ⟨ha.isNaN, hb.isNaN⟩) (cmpNum_eq ha hb) c
  by_cases h : vcmpLane s c false f s1 s2 j i = true
  · rw [if_pos h, Nat.mod_eq_of_lt (by omega)]
    exact ⟨.inr ⟨rfl, mem_pdAny _ hj hi h⟩, fun a b ha hb => iff_of_true (by omega) ((hcond a b ha hb).mp h)⟩
  · rw [if_neg h, Nat.zero_mod]
    exact ⟨.inl rfl, fun a b ha hb => iff_of_false (by simp) ((hcond a b ha hb).not.mp h)⟩

/-- VRED: one conversion of the group's value (R303). -/
theorem vred_writes {s : State} {g : Grp} {op : RedOp} {rm : Rm} {sat : Bool} {f : Fmt} {tsc : BitVec 8} {pd : PDst} {d s1 : Fin 16}
    (har : f.arith = true) (hint : f.isInt = false) (hr : readable s f (regsOf g s1)) {P : List (Bool × ℚ) → Nat → Prop}
    (hP : ∀ xs, xs.map some = ((List.range (g.size * f.lanes)).map fun e => finElt s f (vr s s1 (e / f.lanes)) (e % f.lanes)) →
      P xs (convertElt s.cb f tsc rm sat (s.rnd rm 0) (redFp op rm (s.grpElts f g s1)))) :
    ∃ v < 2 ^ f.bits, exec (.vred op g rm sat f tsc pd d s1) s = .next (counted { s with results := s.results ++ [⟨s.cycle + 6, s.cur,
      toV s d.val ⟨BitVec.ofNat 512 v, f.pairAt tsc⟩ :: toPd s pd (v % 2 ^ (f.bits - 1) != 0), none⟩] } rm 1) ∧
      ∀ xs, xs.map some = ((List.range (g.size * f.lanes)).map fun e => finElt s f (vr s s1 (e / f.lanes)) (e % f.lanes)) → P xs v := by
  refine ⟨convertElt s.cb f tsc rm sat (s.rnd rm 0) (redFp op rm (s.grpElts f g s1)), convertElt_lt s.cb (not_cb_of_arith har) ..,
    ?_, hP⟩
  change execVred op g rm sat f tsc pd d s1 s = _
  unfold execVred
  simp only [hint, Bool.false_eq_true, if_false]
  exact congrArg (fun t => Host.Outcome.next (State.advK t rm 1)) (vecCheck_readable hr ..)

/-- VSCAN: one conversion of the value up to each element (R304). -/
theorem vscan_writes {s : State} {g : Grp} {op : ScanOp} {rm : Rm} {sat : Bool} {f : Fmt} {tsc : BitVec 8} {d s1 : Fin 16}
    (har : f.arith = true) (hint : f.isInt = false) (hr : readable s f (regsOf g s1)) {P : Nat → List (Bool × ℚ) → Nat → Prop}
    (hP : ∀ e < g.size * f.lanes, ∀ xs, HoldAll ((s.grpElts f g s1).take (e + 1)) xs →
      xs ≠ [] → P e xs (convertElt s.cb f tsc rm sat (s.rnd rm e) (scanFp op rm (s.grpElts f g s1) e))) :
    VWrites (.vscan op g rm sat f tsc d s1) s 8 rm (g.size * f.lanes) (regsOf g d) [] fun j => Lanes f (f.pairAt tsc) fun i y =>
      ∀ xs : List (Bool × ℚ), xs.map some = ((List.range (j * f.lanes + i + 1)).map fun e =>
        finElt s f (vr s s1 (e / f.lanes)) (e % f.lanes)) → P (j * f.lanes + i) xs y := by
  refine vWrites_group (out := fun j i => convertElt s.cb f tsc rm sat (s.rnd rm (j * f.lanes + i))
    (scanFp op rm (s.grpElts f g s1) (j * f.lanes + i))) ?_ fun j hj i hi xs hxs => ?_
  · change execVscan op g rm sat f tsc d s1 s = _
    unfold execVscan
    simp only [hint, Bool.false_eq_true, if_false]
    rw [List.append_nil]
    exact congrArg (fun t => Host.Outcome.next (State.advK t rm (g.size * f.lanes))) (vecCheck_readable hr ..)
  · rw [length_regsOf] at hj
    have he : j * f.lanes + i < g.size * f.lanes := by
      calc j * f.lanes + i < (j + 1) * f.lanes := by rw [Nat.succ_mul]; omega
        _ ≤ _ := Nat.mul_le_mul_right _ hj
    rw [Nat.mod_eq_of_lt (convertElt_lt s.cb (not_cb_of_arith har) ..)]
    refine hP _ he xs (holdAll_grpElts he hxs) ?_
    rintro rfl
    simpa using congrArg List.length hxs

end Sys2Proof.Machine
end

section
open Sys2Proof Sys2Proof.Machine Sys2Proof.Spec

/-- Settles O39: each lane, reduction and scan is one conversion of an exact number (`convertElt_converted`). -/
theorem vectorFloat : Obligations.VectorFloat := by
  unfold Obligations.VectorFloat
  intro s g rm sat c f tsc pd d s1 s2 har hint hr n all A B C q rounds conv elt numbers total zsum top least ztop zleast reduces scans
  obtain ⟨hr1, hr2⟩ := readable_append.mp hr
  have hconv : ∀ {x : Exact} {z : Bool} {v : ℚ} (e : Nat), x.Denotes z v →
      Converted s f tsc rm sat (pickWord s e) z v (convertElt s.cb f tsc rm sat (s.rnd rm e) x) :=
    fun e h => convertElt_converted s f tsc h (s.rnd_rs e) sat
  have hread2 : readable s f ([s1, s2].flatMap (regsOf g)) := by simpa using hr
  have hread1 : readable s f ([s1].flatMap (regsOf g)) := by simpa using hr1
  have hconv0 : ∀ {x : Exact} {z : Bool} {v : ℚ} (e : Nat), x.Denotes z v → conv 0 e z v (convertElt s.cb f tsc rm sat (s.rnd rm e) x) := by
    intro x z v e h
    have he : q 0 e = pickWord s e := congrArg (pickWord s) (by simp)
    simpa only [conv, he] using hconv e h
  have hpos : 0 < g.size * f.lanes := Nat.mul_pos (by cases g <;> decide) (Fmt.lanes_pos f)
  have hgroup : ∀ {xs : List (Bool × ℚ)}, numbers all xs → HoldAll (s.grpElts f g s1) xs ∧ xs ≠ [] := by
    intro xs h
    have htake := holdAll_grpElts (le_refl (g.size * f.lanes)) h
    rw [List.take_of_length_le (by simp [grpElts_eq])] at htake
    refine ⟨htake, ?_⟩
    rintro rfl
    have hlen : 0 = g.size * f.lanes := by simpa [numbers, all] using congrArg List.length h
    omega
  refine ⟨?vadd, ?vsub, ?vmul, ?vfma, ?vmin, ?vmax, ?vabs, ?vneg, ?vcmp, ?rsum, ?rmax, ?rmin, ?ramax, ?ssum, ?sxsum, ?smax, ?smin⟩
  case vadd => exact vWrites_lanewise rfl har hint hread2 fun j i a b ha hb => hconv _ (addExact_denotes (finElt_holds ha) (finElt_holds hb) rm)
  case vsub => exact vWrites_lanewise rfl har hint hread2 fun j i a b ha hb => hconv _ (subExact_denotes (finElt_holds ha) (finElt_holds hb) rm)
  case vmul => exact vWrites_lanewise rfl har hint hread2 fun j i a b ha hb => hconv _ (mulExact_denotes (finElt_holds ha) (finElt_holds hb))
  case vfma =>
    intro hrd
    have hread3 : readable s f ([s1, s2, d].flatMap (regsOf g)) := by simpa [readable_append] using ⟨hr1, hr2, hrd⟩
    exact vWrites_lanewise rfl har hint hread3 fun j i a b x ha hb hx =>
      hconv _ (fmaExact_denotes (finElt_holds ha) (finElt_holds hb) (finElt_holds hx) rm)
  case vmin => exact vWrites_lanewise rfl har hint hread2 fun j i a b ha hb => hconv _ (minMax_false_denotes (finElt_holds ha) (finElt_holds hb))
  case vmax => exact vWrites_lanewise rfl har hint hread2 fun j i a b ha hb => hconv _ (minMax_true_denotes (finElt_holds ha) (finElt_holds hb))
  case vabs => exact vWrites_lanewise rfl har hint hread1 fun j i a ha => hconv _ (finElt_holds ha).abs.exact
  case vneg => exact vWrites_lanewise rfl har hint hread1 fun j i a ha => hconv _ (finElt_holds ha).neg.exact
  case vcmp => exact vcmp_writes hint hr
  case rsum => exact vred_writes har hint hr1 fun xs h => hconv0 0 (sumExact_nans_denotes (hgroup h).1 rm)
  case rmax =>
    refine vred_writes har hint hr1 fun xs h => ?_
    obtain ⟨x, hx, hd⟩ := bestNum_greatest (hgroup h).1 (hgroup h).2
    exact ⟨x, hx, hconv0 0 hd⟩
  case rmin =>
    refine vred_writes har hint hr1 fun xs h => ?_
    obtain ⟨x, hx, hd⟩ := bestNum_least (hgroup h).1 (hgroup h).2
    exact ⟨x, hx, hconv0 0 hd⟩
  case ramax =>
    refine vred_writes har hint hr1 fun xs h => ?_
    obtain ⟨x, hx, hd⟩ := bestNum_greatest_abs (hgroup h).1 (hgroup h).2
    exact ⟨x, hx, hconv0 0 hd⟩
  case ssum => exact vscan_writes har hint hr1 (P := fun e xs y => conv 0 e (zsum xs) (total xs) y) fun e _ xs h _ => hconv0 e (sumExact_nans_denotes h rm)
  case sxsum =>
    refine vscan_writes har hint hr1 (P := fun e xs y => if e = 0 then y = 0 else conv 0 e (zsum (xs.take e)) (total (xs.take e)) y) fun e _ xs h _ => ?_
    by_cases he : e = 0
    · rw [if_pos he, scanFp, if_pos he]
      exact convertElt_zero s.cb har hint ..
    · rw [if_neg he, scanFp, if_neg he]
      have htake := List.forall₂_take e h
      rw [List.take_take, Nat.min_eq_left (Nat.le_succ e)] at htake
      exact hconv0 e (sumExact_nans_denotes htake rm)
  case smax =>
    refine vscan_writes har hint hr1 (P := fun e xs y => ∃ x, top xs x ∧ conv 0 e (ztop xs) x y) fun e _ xs h hne => ?_
    obtain ⟨x, hx, hd⟩ := bestNum_greatest h hne
    exact ⟨x, hx, hconv0 e hd⟩
  case smin =>
    refine vscan_writes har hint hr1 (P := fun e xs y => ∃ x, least xs x ∧ conv 0 e (zleast xs) x y) fun e _ xs h hne => ?_
    obtain ⟨x, hx, hd⟩ := bestNum_least h hne
    exact ⟨x, hx, hconv0 e hd⟩

end

section
/-! SUPPORT. The special functions of the vector unit (R298): integer square roots, a root with its sticky bit between two points of every
grid, and the exact cases of 2^x and log2. -/

namespace Sys2Proof.Machine
open Sys2Proof.Spec

-- SQUARE ROOTS

theorem isqrtGo_spec (k n r : Nat) (hr : r * r ≤ n) (hn : n < (r + 2 ^ k) * (r + 2 ^ k)) :
    isqrtGo k n r * isqrtGo k n r ≤ n ∧ n < (isqrtGo k n r + 1) * (isqrtGo k n r + 1) := by
  induction k generalizing r with
  | zero => exact ⟨hr, hn⟩
  | succ k ih =>
    have hp : r + 2 ^ (k + 1) = r + 2 ^ k + 2 ^ k := by rw [pow_succ]; ring
    rw [hp] at hn
    unfold isqrtGo
    dsimp only
    split
    · next h => exact ih _ h hn
    · next h => exact ih _ hr (Nat.lt_of_not_le h)

/-- The integer square root is the floor of the root. -/
theorem isqrt_spec (n : Nat) : isqrt n * isqrt n ≤ n ∧ n < (isqrt n + 1) * (isqrt n + 1) := by
  refine isqrtGo_spec _ n 0 (by simp) ?_
  rw [Nat.zero_add, ← pow_add]
  exact Nat.lt_log2_self.trans_le (Nat.pow_le_pow_right (by decide) (by omega))

/-- A root by its sticky bit: exact, or halfway between two neighbours of a grid that is finer than the formats'. -/
def RootOf (V w : ℚ) (r : Nat) (u : ℤ) : Prop :=
  2 ^ 159 ≤ r ∧ ((w = r * 2 ^ u ∧ w ^ 2 = V) ∨ (w = (r + 1 / 2) * 2 ^ u ∧ (r * 2 ^ u) ^ 2 < V ∧ V < ((r + 1) * 2 ^ u) ^ 2))

theorem sqrtRat_denotes {p q : Nat} (hp : 0 < p) (hq : 0 < q) (e : Int) :
    ∃ w r u, (sqrtRat p q e).Denotes false w ∧ RootOf (p / q * 2 ^ e) w r u := by
  obtain ⟨e', p', hsq, he', hp', hval⟩ : ∃ (e' : Int) (p' : Nat), sqrtRat p q e = (
      let t := 160 + q.log2
      let r := isqrt (p' * 2 ^ (2 * t) / q)
      sticky false r (r * r * q = p' * 2 ^ (2 * t)) (e' / 2 - t)) ∧ e' % 2 = 0 ∧ 0 < p' ∧ (p : ℚ) / q * 2 ^ e = p' / q * 2 ^ e' := by
    by_cases h : e % 2 = 0
    · exact ⟨e, p, by simp [sqrtRat, h], h, hp, rfl⟩
    · refine ⟨e - 1, 2 * p, by simp [sqrtRat, h], by omega, by omega, ?_⟩
      rw [zpow_sub_one₀ two_ne_zero]
      push_cast
      ring
  obtain ⟨t, ht⟩ : ∃ t, t = 160 + q.log2 := ⟨_, rfl⟩
  obtain ⟨n, hn⟩ : ∃ n, n = p' * 2 ^ (2 * t) / q := ⟨_, rfl⟩
  obtain ⟨r, hr⟩ : ∃ r, r = isqrt n := ⟨_, rfl⟩
  obtain ⟨h1, h2⟩ := isqrt_spec n
  dsimp only at hsq
  rw [← ht, ← hn, ← hr] at hsq
  rw [← hr, hn] at h1 h2
  rw [hsq, hval]
  have hqq : (0 : ℚ) < q := by exact_mod_cast hq
  have hpq : (0 : ℚ) < p' := by exact_mod_cast hp'
  have hbig : 2 ^ 159 ≤ r := by
    by_contra hlt
    have hrr : (r + 1) * (r + 1) ≤ 2 ^ 159 * 2 ^ 159 := Nat.mul_le_mul (by omega) (by omega)
    have hle : 2 ^ (159 + 159) ≤ p' * 2 ^ (2 * t) / q := by
      rw [Nat.le_div_iff_mul_le hq]
      calc 2 ^ (159 + 159) * q ≤ 2 ^ (159 + 159) * 2 ^ (q.log2 + 1) := Nat.mul_le_mul_left _ Nat.lt_log2_self.le
        _ = 2 ^ (159 + 159 + (q.log2 + 1)) := (pow_add ..).symm
        _ ≤ 2 ^ (2 * t) := Nat.pow_le_pow_right (by decide) (by omega)
        _ ≤ p' * 2 ^ (2 * t) := Nat.le_mul_of_pos_left _ hp'
    rw [← pow_add] at hrr
    exact absurd (h2.trans_le hrr) (Nat.not_lt.mpr hle)
  have hV : (p' : ℚ) / q * 2 ^ e' = p' * 2 ^ (2 * t) / q * (2 ^ (e' / 2 - (t : ℤ))) ^ 2 := by
    have : (2 : ℚ) ^ e' = 2 ^ (2 * t) * (2 ^ (e' / 2 - (t : ℤ))) ^ 2 := by
      rw [← zpow_natCast, ← zpow_natCast, ← zpow_mul, ← zpow_add₀ two_ne_zero]
      congr 1
      push_cast
      omega
    rw [this]
    ring
  set U : ℚ := 2 ^ (e' / 2 - (t : ℤ)) with hU
  have hU0 : 0 < U := by positivity
  have hlow : r * r * q ≤ p' * 2 ^ (2 * t) := (Nat.le_div_iff_mul_le hq).mp h1
  have hhigh : p' * 2 ^ (2 * t) < (r + 1) * (r + 1) * q := (Nat.div_lt_iff_lt_mul hq).mp h2
  by_cases hex : r * r * q = p' * 2 ^ (2 * t)
  · refine ⟨r * U, r, e' / 2 - t, ?_, hbig, .inl ⟨rfl, ?_⟩⟩
    · rw [sticky, if_pos (by simpa using hex), if_neg (by omega)]
      exact ⟨by omega, one_pos, by simp [hU]⟩
    · have hexq : (r : ℚ) * r * q = p' * 2 ^ (2 * t) := by exact_mod_cast hex
      rw [hV, ← hexq]
      field_simp
  · refine ⟨(r + 1 / 2) * U, r, e' / 2 - t, ?_, hbig, .inr ⟨rfl, ?_, ?_⟩⟩
    · rw [sticky, if_neg (by simpa using hex)]
      refine ⟨by omega, one_pos, ?_⟩
      rw [signed_false, zpow_sub_one₀ two_ne_zero]
      push_cast
      ring
    · have hlt : (r : ℚ) * r * q < p' * 2 ^ (2 * t) := by exact_mod_cast lt_of_le_of_ne hlow hex
      rw [hV, mul_pow]
      refine mul_lt_mul_of_pos_right ?_ (by positivity)
      rw [lt_div_iff₀ hqq, pow_two]
      exact hlt
    · have hlt : (p' : ℚ) * 2 ^ (2 * t) < (r + 1) * (r + 1) * q := by exact_mod_cast hhigh
      rw [hV, mul_pow]
      refine mul_lt_mul_of_pos_right ?_ (by positivity)
      rw [div_lt_iff₀ hqq, pow_two]
      exact hlt

theorem RootOf.scale {V w : ℚ} {r : Nat} {u : ℤ} (h : RootOf V w r u) (k : ℤ) : RootOf (V * (2 ^ k) ^ 2) (w * 2 ^ k) r (u + k) := by
  have hp : (0 : ℚ) < (2 ^ k) ^ 2 := by positivity
  obtain ⟨hr, h⟩ := h
  have hz := zpow_add₀ (two_ne_zero (α := ℚ)) u k
  refine ⟨hr, h.imp ?_ ?_⟩
  · rintro ⟨rfl, rfl⟩
    exact ⟨by rw [hz]; ring, by ring⟩
  · rintro ⟨rfl, h1, h2⟩
    refine ⟨by rw [hz]; ring, ?_, ?_⟩
    · rw [hz, ← mul_assoc, mul_pow]
      exact mul_lt_mul_of_pos_right h1 hp
    · rw [hz, ← mul_assoc, mul_pow _ (2 ^ k)]
      exact mul_lt_mul_of_pos_right h2 hp

theorem RootOf.pos {V w : ℚ} {r : Nat} {u : ℤ} (h : RootOf V w r u) : 0 < w := by
  obtain ⟨hr, ⟨rfl, -⟩ | ⟨rfl, -⟩⟩ := h
  · have : (0 : ℚ) < r := by exact_mod_cast (by positivity : 0 < 2 ^ 159).trans_le hr
    positivity
  · positivity

/-- No point of a grid lies between neighbours of a finer one. -/
theorem gridMag_gap {f : FloatFmt} (hmb : f.mb ≤ 159) {r : Nat} (hr : 2 ^ 159 ≤ r) {u : ℤ} {k : Nat} (h : (r : ℚ) * 2 ^ u < gridMag f k) :
    ((r : ℚ) + 1) * 2 ^ u ≤ gridMag f k := by
  obtain ⟨c, lo, rfl, hlo, hhi⟩ := grid_index f k
  rw [gridMag_eq f hlo hhi.le] at *
  set x : ℤ := f.emin - f.mb + c with hx
  rcases lt_or_ge x u with hxu | hxu
  · refine absurd h (not_lt.mpr ?_)
    have hlor : (lo : ℚ) ≤ 2 * r := by
      have : lo ≤ 2 * r := hhi.le.trans ((Nat.pow_le_pow_right (by decide) (by omega : f.mb + 1 ≤ 160)).trans (by omega))
      exact_mod_cast this
    calc (lo : ℚ) * 2 ^ x ≤ 2 * r * 2 ^ (u - 1) :=
          mul_le_mul hlor (zpow_le_zpow_right₀ (by norm_num) (by omega)) (by positivity) (by positivity)
      _ = r * 2 ^ u := by rw [zpow_sub_one₀ two_ne_zero]; ring
  · have hpos : (0 : ℚ) < 2 ^ u := by positivity
    have hval : (lo : ℚ) * 2 ^ x = ((lo * 2 ^ (x - u).toNat : ℕ) : ℚ) * 2 ^ u := by
      push_cast
      rw [← zpow_natCast, Int.toNat_of_nonneg (by omega), mul_assoc, ← zpow_add₀ two_ne_zero, sub_add_cancel]
    rw [hval] at h ⊢
    refine mul_le_mul_of_nonneg_right ?_ hpos.le
    exact_mod_cast (by exact_mod_cast lt_of_mul_lt_mul_right h hpos.le : r < _)

/-- Grid neighbours of the root are grid neighbours of its sticky form. -/
theorem RootOf.between {V w : ℚ} {r : Nat} {u : ℤ} (h : RootOf V w r u) {f : FloatFmt} (hmb : f.mb ≤ 159) {k : Nat} (h1 : gridMag f k ≤ w)
    (h2 : w < gridMag f (k + 1)) :
    gridMag f k ^ 2 ≤ V ∧ V < gridMag f (k + 1) ^ 2 ∧ (gridMag f k ^ 2 = V → gridMag f k = w) := by
  have hk := gridMag_nonneg f k
  have hw := h.pos
  obtain ⟨hr, ⟨rfl, rfl⟩ | ⟨rfl, hlow, hhigh⟩⟩ := h
  · refine ⟨pow_le_pow_left₀ hk h1 2, pow_lt_pow_left₀ h2 hw.le two_ne_zero, fun he => ?_⟩
    exact (pow_left_inj₀ hk hw.le two_ne_zero).mp he
  · have hp : (0 : ℚ) < 2 ^ u := by positivity
    have hlow' : gridMag f k ≤ r * 2 ^ u := by
      by_contra hlt
      have := (gridMag_gap hmb hr (not_le.mp hlt)).trans h1
      nlinarith
    have hhigh' : ((r : ℚ) + 1) * 2 ^ u ≤ gridMag f (k + 1) := gridMag_gap hmb hr (by nlinarith)
    have hlt : gridMag f k ^ 2 < V := (pow_le_pow_left₀ hk hlow' 2).trans_lt hlow
    exact ⟨hlt.le, hhigh.trans_le (pow_le_pow_left₀ (by positivity) hhigh' 2), fun he => absurd he hlt.ne⟩

/-- VRSQ of a positive number has the root that it denotes. -/
theorem rsqExact_denotes {a : Num} {s : Bool} {v : ℚ} (h : a.Holds s v) (hv : 0 < v) :
    ∃ w r u, (rsqExact a).Denotes false w ∧ RootOf v⁻¹ w r u := by
  obtain rfl := h.sign_iff.2 hv
  obtain ⟨m, e, rfl, rfl⟩ := h
  have hm : m ≠ 0 := by
    rintro rfl
    simp at hv
  rw [rsqExact, if_neg hm, if_neg Bool.false_ne_true]
  have hmq : (m : ℚ) ≠ 0 := by exact_mod_cast hm
  have h2 : (2 : ℚ) ^ e ≠ 0 := by positivity
  split
  · obtain ⟨w, r, u, hw, hr⟩ := sqrtRat_denotes one_pos (Nat.pos_of_ne_zero hm) (-e)
    refine ⟨w, r, u, hw, ?_⟩
    have hV : ((1 : ℕ) : ℚ) / m * 2 ^ (-e) = (signed false (m * 2 ^ e))⁻¹ := by
      rw [signed_false, zpow_neg]
      push_cast
      field_simp
    rwa [hV] at hr
  · obtain ⟨w, r, u, hw, hr⟩ := sqrtRat_denotes one_pos (q := 2 * m) (by omega) (-(e - 1))
    refine ⟨w, r, u, hw, ?_⟩
    have hV : ((1 : ℕ) : ℚ) / (2 * m : ℕ) * 2 ^ (-(e - 1)) = (signed false (m * 2 ^ e))⁻¹ := by
      rw [signed_false, zpow_neg, zpow_sub_one₀ two_ne_zero]
      push_cast
      field_simp
    rwa [hV] at hr

theorem maxEnc_le_beyond (f : FloatFmt) (rm : Rm) (sat s i : Bool) : f.maxEnc ≤ beyond f rm sat s i := by
  unfold beyond
  dsimp only
  split
  · exact le_rfl
  · split
    · exact Nat.le_succ _
    · cases rm <;> cases s <;> simp

/-- A root rounds to one of its neighbours on the grid. -/
theorem RootOf.rounded {V w : ℚ} {r : Nat} {u : ℤ} (h : RootOf V w r u) {f : FloatFmt} (hf : f.Regular) (hmb : f.mb ≤ 159) {rm : Rm} {sat z : Bool}
    {q y : Nat} (hy : Rounded f rm sat q z w y) : neg f y = false ∧ (mag f y < f.maxEnc → ∃ e, gridMag f e ^ 2 ≤ V ∧ V < gridMag f (e + 1) ^ 2 ∧
      (y = e ∨ y = e + 1) ∧ (rm = .rz → y = e) ∧ (gridMag f e ^ 2 = V → y = e)) := by
  have hw := h.pos
  have hmax := hf.max_lt
  rw [Rounded, if_neg hw.ne'] at hy
  obtain ⟨k, n, h1, h2, hup, hdown, hy⟩ := hy
  rw [abs_of_pos hw] at h1 h2
  have hn : n = k ∨ n = k + 1 := by tauto
  rw [decide_eq_false (not_lt.mpr hw.le)] at hy
  have hlt : (if n ≤ f.maxEnc then n else beyond f rm sat false false) < 2 ^ (f.width - 1) := by
    split
    · omega
    · exact beyond_lt hf ..
  refine ⟨hy ▸ neg_withSign f false hlt, fun hmag => ?_⟩
  rw [hy, mag_withSign f false hlt] at hmag
  have hle : n ≤ f.maxEnc := by
    by_contra hgt
    rw [if_neg hgt] at hmag
    exact absurd (hmag.trans_le (maxEnc_le_beyond f rm sat false false)) (lt_irrefl _)
  rw [if_pos hle] at hy
  obtain rfl : y = n := hy.trans (by simp [withSign])
  obtain ⟨hb1, hb2, hb3⟩ := h.between hmb h1 h2
  refine ⟨k, hb1, hb2, hn, fun hrz => hdown ?_, fun hexact => hdown fun hu => hu.1 ((hb3 hexact).trans (abs_of_pos hw).symm)⟩
  rw [hrz]
  exact And.right

-- 2^x AND LOG2

/-- VEXP2 of an integer is exact. -/
theorem exp2Exact_denotes {a : Num} {s : Bool} {n : ℤ} (h : a.Holds s (n : ℚ)) (h1 : -4000 < n) (h2 : n < 4000) :
    (exp2Exact a).Denotes false (2 ^ n) := by
  obtain ⟨m, e, rfl, hn⟩ := h
  unfold exp2Exact
  by_cases hm : m = 0
  · have hn0 : n = 0 := by simpa [hm] using hn
    simp [hm, hn0, Exact.Denotes]
  · have hm0 := Nat.pos_of_ne_zero hm
    have habs : (m : ℚ) / (1 : ℕ) * 2 ^ e < 2 ^ (12 : ℤ) := by
      have hval : |(n : ℚ)| = m / (1 : ℕ) * 2 ^ e := by
        rw [hn, abs_signed, Nat.cast_one, div_one, abs_of_nonneg (by positivity)]
      rw [← hval]
      have hlt : |n| < 2 ^ 12 := by
        rw [abs_lt]
        omega
      exact_mod_cast hlt
    have hbig : ¬ 0 < log2Rat m 1 e - 12 := by
      have := (zpow_lt_zpow_iff_right₀ (by norm_num : (1 : ℚ) < 2)).mp ((log2Rat_bounds hm0 one_pos e).1.trans_lt habs)
      omega
    dsimp only
    rw [if_neg hm, if_neg (by simpa using hbig)]
    rcases lt_or_ge e 0 with he | he
    · have hv := alignTo_val (le_refl e) s m
      rw [← hn] at hv
      have hvi : alignTo e s m e = n * 2 ^ (-e).toNat := by
        have hp : (2 : ℚ) ^ (-e).toNat * 2 ^ e = 1 := by
          rw [← zpow_natCast, ← zpow_add₀ two_ne_zero, Int.toNat_of_nonneg (by omega), neg_add_cancel, zpow_zero]
        have hq : (alignTo e s m e : ℚ) = n * 2 ^ (-e).toNat := by
          have h2 : (2 : ℚ) ^ e ≠ 0 := by positivity
          exact mul_right_cancel₀ h2 (by rw [hv, mul_assoc, hp, mul_one])
        exact_mod_cast hq
      simp only [he, if_true, hvi]
      rw [Int.mul_emod_left, Int.mul_ediv_cancel _ (by positivity)]
      simp [Exact.Denotes]
    · have hv := alignTo_val he s m
      rw [← hn, zpow_zero, mul_one] at hv
      have hvi : alignTo 0 s m e = n := by exact_mod_cast hv
      simp [not_lt.mpr he, hvi, Exact.Denotes]

/-- VLOG2 of a power of two is exact. -/
theorem log2Exact_denotes {a : Num} {s : Bool} {n : ℤ} (h : a.Holds s (2 ^ n)) : (log2Exact a).Denotes false n := by
  have hpos : (0 : ℚ) < 2 ^ n := by positivity
  obtain rfl := h.sign_iff.2 hpos
  obtain ⟨m, e, rfl, hn⟩ := h
  rw [signed_false] at hn
  have hm : m ≠ 0 := by
    rintro rfl
    exact hpos.ne' (by simpa using hn)
  obtain ⟨hl1, hl2⟩ := log2_bounds (Nat.pos_of_ne_zero hm)
  have hmq : (m : ℚ) = 2 ^ (n - e) := by
    rw [zpow_sub₀ two_ne_zero, hn, mul_div_cancel_right₀ _ (by positivity)]
  rw [hmq] at hl1 hl2
  have h1 := (zpow_le_zpow_iff_right₀ (by norm_num : (1 : ℚ) < 2)).mp hl1
  have h2 := (zpow_lt_zpow_iff_right₀ (by norm_num : (1 : ℚ) < 2)).mp hl2
  have hl : (m.log2 : ℤ) = n - e := by omega
  have hpow : m = 2 ^ m.log2 := by
    rw [← hl, zpow_natCast] at hmq
    exact_mod_cast hmq
  unfold log2Exact
  dsimp only
  rw [if_neg hm, if_neg Bool.false_ne_true, if_pos hpow, hl, sub_add_cancel]
  simpa using Exact.denotes_ofInt false n 0

-- ZEROS, NEGATIVE NUMBERS AND THE FIRING

theorem Num.Holds.zero {a : Num} {s : Bool} (h : a.Holds s 0) : ∃ e, a = .fin s 0 e := by
  obtain ⟨m, e, rfl, hv⟩ := h
  have hm : m = 0 := by
    have h2 : (2 : ℚ) ^ e ≠ 0 := by positivity
    simpa [h2] using hv.symm
  exact ⟨e, by rw [hm]⟩

theorem Num.Holds.negative {a : Num} {s : Bool} {v : ℚ} (h : a.Holds s v) (hv : v < 0) : ∃ m e, a = .fin true m e ∧ m ≠ 0 := by
  obtain rfl := h.sign_iff.1 hv
  obtain ⟨m, e, rfl, rfl⟩ := h
  refine ⟨m, e, rfl, ?_⟩
  rintro rfl
  simp at hv

/-- A special function of readable registers (R298). -/
theorem vWrites_special {i : Instr} {s : State} {l : Nat} {g : Grp} {rm : Rm} {sat : Bool} {f : Fmt} {tsc : BitVec 8} {d s1 : Fin 16}
    {fn : Num → Exact} (hx : exec i s = .next (special s l g rm sat f tsc d s1 fn)) (hcb : ∀ n, f ≠ .cb n)
    (hr : readable s f (regsOf g s1)) {P : Nat → Nat → Nat → Prop}
    (hP : ∀ j i, P j i (convertElt s.cb f tsc rm sat (s.rnd rm (j * f.lanes + i)) (fn (s.elt f (vr s s1 j) i)))) :
    VWrites i s l rm (g.size * f.lanes) (regsOf g d) [] fun j => Lanes f (f.pairAt tsc) (P j) := by
  refine vWrites_group (out := fun j i => convertElt s.cb f tsc rm sat (s.rnd rm (j * f.lanes + i)) (fn (s.elt f (vr s s1 j) i)))
    (hx.trans ?_) fun j _ i _ => ?_
  · rw [List.append_nil]
    exact congrArg (fun t => Host.Outcome.next (State.advK t rm (g.size * f.lanes))) (vecCheck_readable hr ..)
  · rw [Nat.mod_eq_of_lt (convertElt_lt s.cb hcb ..)]
    exact hP j i

/-- What one of the three formats of the special functions makes of an infinity, of GenNaN(0x3) and of a finite number. -/
theorem convertElt_special {f : Fmt} {ff : FloatFmt} (hff : (f, ff) ∈ [(Fmt.fp32, fFP32), (.bf16, fBF16), (.fp16, fFP16)]) (s : State) (tsc : BitVec 8)
    (rm : Rm) (sat : Bool) (rnd : Nat) : ff.Regular ∧ ff.mb ≤ 159 ∧ (∀ n, f ≠ .cb n) ∧
      (∀ z, convertElt s.cb f tsc rm sat rnd (.inf z) = withSign ff z (beyond ff rm sat z true)) ∧
      convertElt s.cb f tsc rm sat rnd (.nan false 3) = ff.nanEnc + 3 ∧
      ∀ x, convertElt s.cb f tsc rm sat rnd x = roundTo ff rm sat rnd (if f.scaled then x.scale2 (127 - tsc.toNat) else x) := by
  have hreg : ff.Regular := by
    simp only [List.mem_cons, Prod.mk.injEq, List.not_mem_nil, or_false] at hff
    rcases hff with ⟨rfl, rfl⟩ | ⟨rfl, rfl⟩ | ⟨rfl, rfl⟩
    · exact regular_fp32
    · exact regular_bf16
    · exact regular_fp16
  have hinf : ∀ z, roundTo ff rm sat rnd (.inf z) = withSign ff z (beyond ff rm sat z true) := fun z => by
    rw [← overflow_eq hreg]
    rfl
  simp only [List.mem_cons, Prod.mk.injEq, List.not_mem_nil, or_false] at hff
  rcases hff with ⟨rfl, rfl⟩ | ⟨rfl, rfl⟩ | ⟨rfl, rfl⟩ <;> exact ⟨hreg, by decide, by simp, hinf, rfl, fun _ => rfl⟩

/-- VRSQ of a positive number has a neighbour of the scaled root (R298). -/
theorem rsq_rounded {f : Fmt} {ff : FloatFmt} (hff : (f, ff) ∈ [(Fmt.fp32, fFP32), (.bf16, fBF16), (.fp16, fFP16)]) (s : State) (tsc : BitVec 8)
    (rm : Rm) (sat : Bool) (e : Nat) {num : Num} {z : Bool} {v : ℚ} (h : num.Holds z v) (hpos : 0 < v) :
    let y := convertElt s.cb f tsc rm sat (s.rnd rm e) (rsqExact num)
    let k : ℚ := if f.scaled then 2 ^ (127 - (tsc.toNat : ℤ)) else 1
    neg ff y = false ∧ (mag ff y < ff.maxEnc → ∃ e, (gridMag ff e) ^ 2 * v ≤ k ^ 2 ∧ k ^ 2 < (gridMag ff (e + 1)) ^ 2 * v ∧
      (y = e ∨ y = e + 1) ∧ (rm = .rz → y = e) ∧ ((gridMag ff e) ^ 2 * v = k ^ 2 → y = e)) := by
  intro y k
  obtain ⟨hreg, hmb, -, -, -, hy⟩ := convertElt_special hff s tsc rm sat (s.rnd rm e)
  obtain ⟨w, r, u, hw, hroot⟩ := rsqExact_denotes h hpos
  obtain ⟨x, w', u', hx, hw', hroot'⟩ : ∃ x w' u', y = roundTo ff rm sat (s.rnd rm e) x ∧ x.Denotes false w' ∧ RootOf (v⁻¹ * k ^ 2) w' r u' := by
    by_cases hsc : f.scaled = true
    · exact ⟨_, _, _, (hy _).trans (by rw [if_pos hsc]), hw.scale2 _, by simpa only [k, if_pos hsc] using hroot.scale (127 - (tsc.toNat : ℤ))⟩
    · exact ⟨_, _, _, (hy _).trans (by rw [if_neg hsc]), hw, by simpa only [k, if_neg hsc, one_pow, mul_one] using hroot⟩
  have hle : ∀ y : ℚ, y ≤ v⁻¹ * k ^ 2 ↔ y * v ≤ k ^ 2 := fun y => by rw [inv_mul_eq_div, le_div_iff₀ hpos]
  have hlt : ∀ y : ℚ, v⁻¹ * k ^ 2 < y ↔ k ^ 2 < y * v := fun y => by rw [inv_mul_eq_div, div_lt_iff₀ hpos]
  have heq : ∀ y : ℚ, y = v⁻¹ * k ^ 2 ↔ y * v = k ^ 2 := fun y => by rw [inv_mul_eq_div, eq_div_iff hpos.ne']
  have hround := hroot'.rounded hreg hmb (roundTo_rounded hreg hw' (s.rnd_rs (rm := rm) e) sat)
  rw [← hx] at hround
  simpa only [hle, hlt, heq] using hround

end Sys2Proof.Machine
end

section
open Sys2Proof Sys2Proof.Machine Sys2Proof.Spec

/-- Settles O40: reciprocals and exact cases are one conversion (`convertElt_converted`), and a root's sticky form has the root's neighbours on every
grid (`RootOf.between`). -/
theorem vectorFunctions : Obligations.VectorFunctions := by
  unfold Obligations.VectorFunctions
  intro s g rm sat f ff tsc d s1 hff hr n A rounds conv inf k
  obtain ⟨hreg, hmb, hcb, -⟩ := convertElt_special hff s tsc rm sat 0
  have hconv : ∀ {x : Exact} {v : ℚ} (j i : Nat), x.Denotes false v → conv j i v (convertElt s.cb f tsc rm sat (s.rnd rm (j * n + i)) x) :=
    fun j i h => convertElt_converted s f tsc h (s.rnd_rs _) sat
  have hinf : ∀ (z : Bool) (e : Nat), inf z (convertElt s.cb f tsc rm sat (s.rnd rm e) (.inf z)) := fun z e =>
    (convertElt_special hff s tsc rm sat (s.rnd rm e)).2.2.2.1 z
  have hnan : ∀ e, convertElt s.cb f tsc rm sat (s.rnd rm e) (.nan false 3) = ff.nanEnc + 3 := fun e =>
    (convertElt_special hff s tsc rm sat (s.rnd rm e)).2.2.2.2.1
  refine ⟨?vrcp, ?vrsq, ?vexp2, ?vlog2⟩
  case vrcp =>
    refine vWrites_special rfl hcb hr fun j i a ha => ⟨fun h0 => hconv j i (rcpExact_denotes (finElt_holds ha) h0), fun h0 => ?_⟩
    obtain ⟨e, he⟩ := (h0 ▸ finElt_holds ha : Num.Holds _ a.1 0).zero
    rw [State.elt, he]
    exact hinf a.1 _
  case vrsq =>
    refine vWrites_special rfl hcb hr fun j i a ha => ⟨fun h0 => ?_, fun hneg => ?_, fun hpos => ?_⟩
    · obtain ⟨e, he⟩ := (h0 ▸ finElt_holds ha : Num.Holds _ a.1 0).zero
      rw [State.elt, he]
      exact hinf a.1 _
    · obtain ⟨m, e, he, hm⟩ := (finElt_holds ha).negative hneg
      rw [State.elt, he, rsqExact, if_neg hm]
      exact hnan _
    · exact rsq_rounded hff s tsc rm sat (j * n + i) (finElt_holds ha) hpos
  case vexp2 =>
    exact vWrites_special rfl hcb hr fun j i a m ha hm h1 h2 => hconv j i (exp2Exact_denotes (hm ▸ finElt_holds ha) h1 h2)
  case vlog2 =>
    refine vWrites_special rfl hcb hr fun j i a ha => ⟨fun h0 => ?_, fun hneg => ?_, fun m hm => ?_⟩
    · obtain ⟨e, he⟩ := (h0 ▸ finElt_holds ha : Num.Holds _ a.1 0).zero
      rw [State.elt, he]
      exact hinf true _
    · obtain ⟨m, e, he, hm⟩ := (finElt_holds ha).negative hneg
      rw [State.elt, he, log2Exact, if_neg hm]
      exact hnan _
    · exact hconv j i (log2Exact_denotes (hm ▸ finElt_holds ha))

end

section
/-! SUPPORT. The conversions of the vector unit (R299 to R302): the registers and slices of a shape, the scale that VQNT chooses, and what a
conversion writes. -/

namespace Sys2Proof.Machine
open Sys2Proof.Spec

-- SHAPES

/-- The registers, slices and count of a conversion from `sf` to `f` (R299). -/
def convWide (f sf : Fmt) : Nat := max f.bits sf.bits
def convRatio (f sf : Fmt) : Nat := convWide f sf / min f.bits sf.bits
def convElts (g : Grp) (f sf : Fmt) : Nat := g.size * 512 / convWide f sf
def convSrcs (g : Grp) (f sf : Fmt) (s1 : Fin 16) : List Nat := if f.bits ≤ sf.bits then regsOf g s1 else [s1.val]
def convDsts (g : Grp) (f sf : Fmt) (d : Fin 16) : List Nat := if sf.bits ≤ f.bits then regsOf g d else [d.val]
def convSrcOff (g : Grp) (f sf : Fmt) (part : Fin 16) : Nat := if sf.bits < f.bits then part.val * convElts g f sf else 0
def convDstOff (g : Grp) (f sf : Fmt) (part : Fin 16) : Nat := if f.bits < sf.bits then part.val * convElts g f sf else 0
/-- The register of source element `e`. -/
def convSrc (s : State) (g : Grp) (f sf : Fmt) (part s1 : Fin 16) (e : Nat) : VReg :=
  s.vn ((convSrcs g f sf s1).getD ((convSrcOff g f sf part + e) / sf.lanes) 0)

/-- A conversion that R299 allows, of registers that hold no tokens. -/
structure ConvShaped (s : State) (g : Grp) (f sf : Fmt) (part d s1 : Fin 16) : Prop where
  slice : if convRatio f sf = 1 then part.val = 0 else g.size ≤ convRatio f sf ∧ part.val < convRatio f sf / g.size
  typed : sf ≠ .raw
  alignS : f.bits ≤ sf.bits → s1.val % g.size = 0
  alignD : sf.bits ≤ f.bits → d.val % g.size = 0
  noTok : ∀ q ∈ regsOf g s1, (s.vn q).isTok = false
  fmts : ∀ q ∈ convSrcs g f sf s1, (s.vn q).pair.fmt = sf.code8
  noTokD : ∀ q ∈ convDsts g f sf d, f.bits < sf.bits → (s.vn q).isTok = false

theorem Fmt.bits_eq_pow (f : Fmt) : ∃ k, f.bits = 2 ^ k := by
  cases f with
  | raw | e4m3 | e5m2 | int8 => exact ⟨3, rfl⟩
  | bf16 | fp16 => exact ⟨4, rfl⟩
  | fp32 | int32 => exact ⟨5, rfl⟩
  | int64 => exact ⟨6, rfl⟩
  | cb n => exact ⟨2, by simp [Fmt.bits, Fmt.lanes]⟩

/-- A wider format holds a whole number, two or more, of the narrower one's elements. -/
theorem Fmt.bits_ratio {a b : Fmt} (h : a.bits < b.bits) : ∃ r, 2 ≤ r ∧ b.bits = r * a.bits ∧ a.lanes = r * b.lanes := by
  obtain ⟨j, hj⟩ := Fmt.bits_eq_pow a
  obtain ⟨k, hk⟩ := Fmt.bits_eq_pow b
  rw [hj, hk] at h
  have hjk : j < k := (Nat.pow_lt_pow_iff_right (by decide)).mp h
  have hb : b.bits = 2 ^ (k - j) * a.bits := by rw [hj, hk, ← pow_add, Nat.sub_add_cancel hjk.le]
  refine ⟨2 ^ (k - j), Nat.le_self_pow (by omega) 2, hb, ?_⟩
  have h1 := Fmt.bits_mul_lanes a
  rw [← Fmt.bits_mul_lanes b, hb, Nat.mul_comm _ a.bits, Nat.mul_assoc] at h1
  exact Nat.eq_of_mul_eq_mul_left (Fmt.bits_pos a) h1

theorem Grp.size_pos (g : Grp) : 0 < g.size := by cases g <;> decide

theorem mul_512_div (g : Grp) (f : Fmt) : g.size * 512 / f.bits = g.size * f.lanes := by
  rw [← Fmt.bits_mul_lanes f, Nat.mul_left_comm, Nat.mul_div_cancel_left _ (Fmt.bits_pos f)]

/-- The elements of a slice lie in the source's registers. -/
theorem convSrcs_bound {s : State} {g : Grp} {f sf : Fmt} {part d s1 : Fin 16} (h : ConvShaped s g f sf part d s1) {e : Nat}
    (he : e < convElts g f sf) : (convSrcOff g f sf part + e) / sf.lanes < (convSrcs g f sf s1).length := by
  rw [Nat.div_lt_iff_lt_mul (Fmt.lanes_pos sf)]
  have hslice := h.slice
  unfold convElts convWide at he
  unfold convSrcOff convSrcs convElts
  unfold convRatio at hslice
  unfold convWide at *
  rcases Nat.lt_or_ge sf.bits f.bits with hlt | hge
  · obtain ⟨r, hr2, hr, hl⟩ := Fmt.bits_ratio hlt
    rw [Nat.max_eq_left hlt.le, mul_512_div] at *
    rw [Nat.min_eq_right hlt.le, hr, Nat.mul_div_cancel _ (Fmt.bits_pos sf), if_neg (by omega)] at hslice
    rw [if_pos hlt, if_neg (by omega), List.length_singleton, Nat.one_mul, hl]
    calc part.val * (g.size * f.lanes) + e < (part.val + 1) * (g.size * f.lanes) := by rw [Nat.succ_mul]; omega
      _ ≤ r / g.size * (g.size * f.lanes) := Nat.mul_le_mul_right _ hslice.2
      _ = r / g.size * g.size * f.lanes := (Nat.mul_assoc ..).symm
      _ ≤ r * f.lanes := Nat.mul_le_mul_right _ (Nat.div_mul_le_self ..)
  · rw [Nat.max_eq_right hge, mul_512_div] at he
    rw [if_neg (by omega), if_pos hge, length_regsOf]
    omega

theorem convSrc_fmt {s : State} {g : Grp} {f sf : Fmt} {part d s1 : Fin 16} (h : ConvShaped s g f sf part d s1) {e : Nat}
    (he : e < convElts g f sf) : (convSrc s g f sf part s1 e).pair.fmt = sf.code8 := by
  refine h.fmts _ ?_
  rw [List.getD_eq_getElem _ _ (convSrcs_bound h he)]
  exact List.getElem_mem _

theorem Fmt.of_code8 (f : Fmt) : Fmt.of f.code8 = some f := by
  cases f with
  | cb n => revert n; decide
  | _ => rfl

theorem Fmt.code8_ne_zero {f : Fmt} (h : f ≠ .raw) : f.code8 ≠ 0 := by
  intro h0
  have := Fmt.of_code8 f
  rw [h0] at this
  exact h (Option.some.inj this).symm

theorem laneScale_of_typed {f : Fmt} (hf : f ≠ .raw) {x : VReg} (h : x.pair.fmt = f.code8) : laneScale x = x.pair.scale :=
  if_neg (h ▸ Fmt.code8_ne_zero hf)

/-- The shape of a conversion that R299 allows. -/
theorem convShape_shaped {s : State} {g : Grp} {f sf : Fmt} {part d s1 : Fin 16} (h : ConvShaped s g f sf part d s1) :
    convShape g sf.bits f.bits part.val d s1 = ⟨convSrcs g f sf s1, convDsts g f sf d, convSrcOff g f sf part, convDstOff g f sf part,
      decide (f.bits < sf.bits), true⟩ := by
  have hslice := h.slice
  have hs : f.bits ≤ sf.bits → g.aligned s1 = true := fun hle => by simpa [Grp.aligned] using h.alignS hle
  have hd : sf.bits ≤ f.bits → g.aligned d = true := fun hle => by simpa [Grp.aligned] using h.alignD hle
  unfold convShape convSrcs convDsts convSrcOff convDstOff convElts
  unfold convRatio at hslice
  unfold convWide at *
  rcases lt_trichotomy sf.bits f.bits with hlt | heq | hgt
  · obtain ⟨r, hr2, hr, -⟩ := Fmt.bits_ratio hlt
    have hrr : f.bits / sf.bits = r := by rw [hr, Nat.mul_div_cancel _ (Fmt.bits_pos sf)]
    rw [Nat.max_eq_left hlt.le] at *
    rw [Nat.min_eq_right hlt.le, hrr, if_neg (by omega)] at hslice
    simp [hlt, hlt.le, hlt.not_ge, hlt.not_gt, hlt.ne, hrr, hslice, hd hlt.le]
    rfl
  · rw [heq, max_self, min_self, Nat.div_self (Fmt.bits_pos f), if_pos rfl] at hslice
    simp [heq, hslice, hs heq.ge, hd heq.le]
    exact ⟨rfl, rfl⟩
  · obtain ⟨r, hr2, hr, -⟩ := Fmt.bits_ratio hgt
    have hrr : sf.bits / f.bits = r := by rw [hr, Nat.mul_div_cancel _ (Fmt.bits_pos f)]
    rw [Nat.max_eq_right hgt.le] at *
    rw [Nat.min_eq_left hgt.le, hrr, if_neg (by omega)] at hslice
    simp [hgt, hgt.le, hgt.not_ge, hgt.not_gt, hgt.ne', hrr, hslice, hs hgt.le]
    rfl

-- WHAT A CONVERSION WRITES

theorem convCount_eq (g : Grp) (f sf : Fmt) : convCount g sf.bits f.bits = convElts g f sf := by
  unfold convCount convElts convWide
  congr 1
  split
  · next h => exact (Nat.max_eq_left h.le).symm
  · next h => exact (Nat.max_eq_right (Nat.not_lt.mp h)).symm

theorem convRatio_eq (f sf : Fmt) : (if sf.bits < f.bits then f.bits / sf.bits else sf.bits / f.bits) = convRatio f sf := by
  unfold convRatio convWide
  split
  · next h => rw [Nat.max_eq_left h.le, Nat.min_eq_right h.le]
  · next h => rw [Nat.max_eq_right (Nat.not_lt.mp h), Nat.min_eq_left (Nat.not_lt.mp h)]

/-- The lane of destination register `j` that a conversion with result elements `elt` writes. -/
def convLane (s : State) (g : Grp) (f sf : Fmt) (part d s1 : Fin 16) (elt : Nat → Nat → VReg → Nat) (j i : Nat) : Nat :=
  let e := j * f.lanes + i
  let po := convDstOff g f sf part
  if po ≤ e ∧ e < po + convElts g f sf then
    elt (e - po) (lane sf.bits (convSrc s g f sf part s1 (e - po)).val ((convSrcOff g f sf part + (e - po)) % sf.lanes))
      (convSrc s g f sf part s1 (e - po))
  else lane f.bits (s.vn ((convDsts g f sf d).getD j 0)).val i

theorem runElt_eq (s : State) (g : Grp) (f sf : Fmt) (part s1 : Fin 16) (e : Nat) :
    s.runElt sf.bits (convSrcs g f sf s1) (convSrcOff g f sf part + e) =
      (lane sf.bits (convSrc s g f sf part s1 e).val ((convSrcOff g f sf part + e) % sf.lanes), convSrc s g f sf part s1 e) := by
  unfold State.runElt convSrc
  rw [Fmt.lanes_eq, List.getD_eq_getElem?_getD]

/-- The first register of a conversion's source is one of its sources. -/
theorem mem_convSrcs (g : Grp) (f sf : Fmt) (s1 : Fin 16) : s1.val ∈ convSrcs g f sf s1 := by
  unfold convSrcs
  split
  · exact List.mem_map.mpr ⟨0, List.mem_range.mpr (Grp.size_pos g), rfl⟩
  · exact List.mem_singleton.mpr rfl

/-- A conversion that R299 allows writes its slice and keeps the rest. -/
theorem conversion_shaped {s : State} {l : Nat} {g : Grp} {rm : Rm} {rounds : Bool} {f sf : Fmt} {part d s1 : Fin 16}
    (h : ConvShaped s g f sf part d s1) {srcOk : Fmt → Bool} {wide whole : Bool} {body : Fmt → Shape → Pair × (Nat → Nat → VReg → Nat)}
    (hok : srcOk sf = true) (hwhole : whole = true → convRatio f sf = 1 ∨ g.size = convRatio f sf) {pair : Pair} {elt : Nat → Nat → VReg → Nat}
    (hbody : body sf (convShape g sf.bits f.bits part.val d s1) = (pair, elt)) :
    conversion s l g rm rounds f.bits part.val d s1 srcOk wide whole body =
      (fun x : State => if rounds then x.advK rm (convElts g f sf) else x)
        (s.issue l ((convDsts g f sf d).zipIdx.map fun x =>
          s.wv x.1 ⟨ofLanes f.bits ((List.range (512 / f.bits)).map (convLane s g f sf part d s1 elt x.2)), pair⟩) none) := by
  have htok : firstVTok ((boundedRegs g s1).map s.vn) = none := firstVTok_none fun x hx => by
    obtain ⟨r, hr, rfl⟩ := List.mem_map.mp hx
    exact h.noTok r (List.mem_of_mem_filter hr)
  have hfmt : (s.vn s1.val).pair.fmt = sf.code8 := h.fmts _ (mem_convSrcs g f sf s1)
  have hkeep : (if (decide (f.bits < sf.bits)) = true ∧ (!wide) = true then firstVTok [s.vn d.val] else none) = none := by
    split
    · next hk =>
      have hlt : f.bits < sf.bits := by simpa using hk.1
      refine firstVTok_none fun x hx => ?_
      obtain rfl := List.mem_singleton.mp hx
      exact h.noTokD _ (by simp [convDsts, hlt.not_ge]) hlt
    · rfl
  have hfits : ((convSrcs g f sf s1).all fun q => (s.vn q).pair.fmt = sf.code8) = true := by
    simpa using h.fmts
  have hw : ¬ (whole = true ∧ convRatio f sf ≠ 1 ∧ g.size ≠ convRatio f sf) := by
    rintro ⟨hw, h1, h2⟩
    exact (hwhole hw).elim h1 h2
  rw [convShape_shaped h] at hbody
  unfold conversion
  simp only [htok, hfmt, if_neg (Fmt.code8_ne_zero h.typed), Fmt.of_code8, convShape_shaped h, hkeep, convCount_eq, convRatio_eq, hok, hfits, hbody]
  simp only [Bool.not_true, Bool.false_eq_true, or_false, hw, if_false]
  refine congrArg (fun ws => if rounds = true then (s.issue l ws none).advK rm (convElts g f sf) else s.issue l ws none) ?_
  refine List.map_congr_left fun x hx => ?_
  obtain ⟨q, j⟩ := x
  have hq : q = (convDsts g f sf d).getD j 0 := by
    rw [List.getD_eq_getElem?_getD, List.mk_mem_zipIdx_iff_getElem?.mp hx]
    rfl
  refine congrArg (fun ys => s.wv q ⟨ofLanes f.bits ys, pair⟩) (List.map_congr_left fun i _ => ?_)
  simp only [runElt_eq, Fmt.lanes_eq, convLane, hq]

/-- Lanes of a conversion, as the obligation says them. -/
theorem vWrites_conversion {i : Instr} {s : State} {l : Nat} {g : Grp} {rm rm' : Rm} {rounds : Bool} {f sf : Fmt} {part d s1 : Fin 16} {n : Nat}
    (h : ConvShaped s g f sf part d s1) {srcOk : Fmt → Bool} {wide whole : Bool} {body : Fmt → Shape → Pair × (Nat → Nat → VReg → Nat)}
    (hx : exec i s = .next (conversion s l g rm rounds f.bits part.val d s1 srcOk wide whole body))
    (hok : srcOk sf = true) (hwhole : whole = true → convRatio f sf = 1 ∨ g.size = convRatio f sf)
    (hadv : ∀ x : State, (if rounds = true then x.advK rm (convElts g f sf) else x) = x.advK rm' n)
    {pair : Pair} {elt : Nat → Nat → VReg → Nat} (hbody : body sf (convShape g sf.bits f.bits part.val d s1) = (pair, elt))
    {P : Nat → Nat → Prop} (hP : ∀ e < convElts g f sf, P e (elt e (lane sf.bits (convSrc s g f sf part s1 e).val
      ((convSrcOff g f sf part + e) % sf.lanes)) (convSrc s g f sf part s1 e) % 2 ^ f.bits)) :
    VWrites i s l rm' n (convDsts g f sf d) [] fun j => Lanes f pair fun i y =>
      if convDstOff g f sf part ≤ j * f.lanes + i ∧ j * f.lanes + i < convDstOff g f sf part + convElts g f sf then
        P (j * f.lanes + i - convDstOff g f sf part) y
      else y = lane f.bits (s.vn ((convDsts g f sf d).getD j 0)).val i := by
  refine vWrites_group (out := convLane s g f sf part d s1 elt) (hx.trans ?_) fun j _ i _ => ?_
  · rw [conversion_shaped h hok hwhole hbody, List.append_nil]
    exact congrArg Host.Outcome.next (hadv _)
  · unfold convLane
    dsimp only
    split
    · next hin => exact hP _ (by omega)
    · exact Nat.mod_eq_of_lt (lane_lt ..)

-- THE SCALE OF VQNT (R301)

/-- The exponent of a nonzero finite number. -/
def Num.exponent : Num → Option Int
  | .fin _ m e => if m = 0 then none else some (m.log2 + e)
  | _ => none

theorem Num.Holds.exponent {x : Num} {s : Bool} {v : ℚ} (h : x.Holds s v) :
    (v = 0 ∧ x.exponent = none) ∨ ∃ l : ℤ, x.exponent = some l ∧ 2 ^ l ≤ |v| ∧ |v| < 2 ^ (l + 1) := by
  obtain ⟨m, e, rfl, rfl⟩ := h
  unfold Num.exponent
  by_cases hm : m = 0
  · exact .inl ⟨by simp [hm], if_pos hm⟩
  · obtain ⟨h1, h2⟩ := log2_bounds (Nat.pos_of_ne_zero hm)
    have hp : (0 : ℚ) < 2 ^ e := by positivity
    refine .inr ⟨_, if_neg hm, ?_, ?_⟩
    · rw [abs_signed, abs_of_nonneg (by positivity), zpow_add₀ two_ne_zero]
      exact mul_le_mul_of_nonneg_right h1 hp.le
    · rw [abs_signed, abs_of_nonneg (by positivity), add_right_comm, zpow_add₀ two_ne_zero]
      exact mul_lt_mul_of_pos_right h2 hp

/-- The search for the greatest exponent, from `a`. -/
def maxExponent (a : Option Int) (xs : List Num) : Option Int :=
  xs.foldl (fun a x => match x.exponent with
    | none => a
    | some l => match a with
      | none => some l
      | some b => if b < l then some l else a) a

theorem maxLog2_eq (xs : List Num) : maxLog2 xs = maxExponent none xs := by
  unfold maxLog2 maxExponent
  congr 1
  funext a x
  cases x with
  | fin s m e =>
    unfold Num.exponent
    by_cases hm : m = 0
    · simp [hm]
    · simp only [hm, if_false] <;> rfl
  | inf s => rfl
  | nan s p => rfl

theorem maxExponent_none {xs : List Num} (h : ∀ x ∈ xs, x.exponent = none) (a : Option Int) : maxExponent a xs = a := by
  induction xs with
  | nil => rfl
  | cons x xs ih =>
    rw [maxExponent, List.foldl_cons, h x (.head _)]
    exact ih fun y hy => h y (.tail _ hy)

theorem maxExponent_some {xs : List Num} {l : Int} (hle : ∀ x ∈ xs, ∀ k, x.exponent = some k → k ≤ l) {a : Option Int}
    (ha : ∀ b, a = some b → b ≤ l) (h : a = some l ∨ ∃ x ∈ xs, x.exponent = some l) : maxExponent a xs = some l := by
  induction xs generalizing a with
  | nil => simpa [maxExponent] using h
  | cons x xs ih =>
    rw [maxExponent, List.foldl_cons]
    refine ih (fun y hy => hle y (.tail _ hy)) ?_ ?_
    · intro b hb
      cases hx : x.exponent with
      | none => exact ha b (by simpa [hx] using hb)
      | some k =>
        have hk := hle x (.head _) k hx
        cases a with
        | none => simp [hx] at hb; omega
        | some c =>
          have hc := ha c rfl
          simp only [hx] at hb
          split at hb <;> cases hb <;> assumption
    · rcases h with rfl | ⟨y, hy, hyl⟩
      · left
        cases hx : x.exponent with
        | none => rfl
        | some k =>
          have hk := hle x (.head _) k hx
          simp [not_lt.mpr hk]
      · rcases List.mem_cons.mp hy with rfl | hy
        · left
          rw [hyl]
          cases a with
          | none => rfl
          | some c =>
            have hc := ha c rfl
            dsimp only
            split
            · rfl
            · congr 1; omega
        · exact .inr ⟨y, hy, hyl⟩

/-- The greatest exponent of numbers of which one reaches 2^l and none 2^(l+1). -/
theorem maxLog2_some {xs : List Num} {l : Int} (hex : ∃ x ∈ xs, ∃ s v, x.Holds s v ∧ 2 ^ l ≤ |v|)
    (hall : ∀ x ∈ xs, ∀ s v, x.Holds s v → |v| < 2 ^ (l + 1)) : maxLog2 xs = some l := by
  have hle : ∀ x ∈ xs, ∀ k, x.exponent = some k → k ≤ l := by
    intro x hx k hk
    obtain ⟨s, v, hv⟩ : ∃ s v, x.Holds s v := by
      cases x with
      | fin s m e => exact ⟨_, _, Num.holds_fin s m e⟩
      | inf s => simp [Num.exponent] at hk
      | nan s p => simp [Num.exponent] at hk
    rcases hv.exponent with ⟨-, h0⟩ | ⟨j, hj, hj1, -⟩
    · simp [h0] at hk
    · obtain rfl : j = k := Option.some.inj (hj.symm.trans hk)
      have := (zpow_lt_zpow_iff_right₀ (by norm_num : (1 : ℚ) < 2)).mp (hj1.trans_lt (hall x hx s v hv))
      omega
  obtain ⟨x, hx, s, v, hv, hl⟩ := hex
  rw [maxLog2_eq]
  refine maxExponent_some hle (by simp) (.inr ⟨x, hx, ?_⟩)
  rcases hv.exponent with ⟨h0, -⟩ | ⟨j, hj, -, hj2⟩
  · have hp : (0 : ℚ) < 2 ^ l := by positivity
    simp [h0] at hl
    linarith
  · have h1 := (zpow_lt_zpow_iff_right₀ (by norm_num : (1 : ℚ) < 2)).mp (hl.trans_lt hj2)
    have h2 := hle x hx j hj
    rw [hj]
    congr 1
    omega

theorem maxLog2_none {xs : List Num} (h : ∀ x ∈ xs, ∀ s v, x.Holds s v → v = 0) : maxLog2 xs = none := by
  rw [maxLog2_eq]
  refine maxExponent_none (fun x hx => ?_) none
  cases x with
  | fin s m e =>
    rcases (Num.holds_fin s m e).exponent with ⟨-, h0⟩ | ⟨j, -, hj, -⟩
    · exact h0
    · have hp : (0 : ℚ) < 2 ^ j := by positivity
      rw [h _ hx _ _ (Num.holds_fin s m e), abs_zero] at hj
      linarith
  | inf s => rfl
  | nan s p => rfl

theorem quantScale_some {cb : Nat → BitVec 256} {f : Fmt} {xs : List Num} {l top : Int} (hx : maxLog2 xs = some l) (ht : emax cb f = some top) :
    ((quantScale cb f xs).toNat : ℤ) = max 0 (min 254 (l - top + 127)) := by
  unfold quantScale
  rw [hx, ht]
  dsimp only
  rw [BitVec.toNat_ofNat, Nat.mod_eq_of_lt (by omega), Int.toNat_of_nonneg (le_max_left ..)]

theorem quantScale_none {cb : Nat → BitVec 256} {f : Fmt} {xs : List Num} (hx : maxLog2 xs = none) : quantScale cb f xs = 127 := by
  unfold quantScale
  rw [hx]

-- ELEMENTS

theorem Num.holds_of_scale2 {x : Num} {k : Int} {s : Bool} {v : ℚ} (h : (x.scale2 k).Holds s v) : ∃ u, x.Holds s u := by
  cases x with
  | fin t m e =>
    obtain ⟨m', e', heq, -⟩ := h
    cases heq
    exact ⟨_, Num.holds_fin ..⟩
  | inf t => exact absurd h (by rintro ⟨_, _, h, -⟩; simp [Num.scale2] at h)
  | nan t p => exact absurd h (by rintro ⟨_, _, h, -⟩; simp [Num.scale2] at h)

theorem floatElt_of_holds {ff : FloatFmt} {b : Nat} {s : Bool} {v : ℚ} (h : (floatValue ff b).Holds s v) : ∃ p, floatElt ff b = some p := by
  obtain ⟨m, e, hm, -⟩ := h
  rcases encoding_cases ff b with hf | hf | hf
  · exact ⟨_, if_pos hf⟩
  · rw [floatValue_infinite hf] at hm
    exact absurd hm (by simp)
  · rw [floatValue_nan hf] at hm
    exact absurd hm (by simp)

theorem rawElt_of_holds {s : State} {f : Fmt} (hf : f ≠ .raw) {v : Nat} (hv : v < 2 ^ f.bits) {z : Bool} {u : ℚ}
    (h : (valueOf s.cb f v).Holds z u) : ∃ p, rawElt s f v = some p := by
  have hmod : ∀ {ff : FloatFmt} {w : Nat}, v < 2 ^ w → (floatValue ff (v % 2 ^ w)).Holds z u → ∃ p, floatElt ff v = some p := by
    intro ff w hw h
    rw [Nat.mod_eq_of_lt hw] at h
    exact floatElt_of_holds h
  cases f with
  | raw => exact absurd rfl hf
  | int8 | int32 | int64 => exact ⟨_, rfl⟩
  | cb n =>
    have hv : v < 16 := by simpa [Fmt.bits, Fmt.lanes] using hv
    unfold valueOf at h
    rw [Nat.mod_eq_of_lt hv] at h
    exact floatElt_of_holds h
  | fp32 => exact hmod hv h
  | bf16 => exact hmod hv h
  | fp16 => exact hmod hv h
  | e4m3 => exact hmod hv h
  | e5m2 => exact hmod hv h

/-- An element that decodes to a number is finite, and has that value (R84). -/
theorem finElt_of_holds {s : State} {f : Fmt} (hf : f ≠ .raw) {x : VReg} {i : Nat} {z : Bool} {v : ℚ}
    (h : (decodeElt s.cb f (laneScale x) (lane f.bits x.val i)).Holds z v) : ∃ p, finElt s f x i = some p ∧ p.2 = v := by
  obtain ⟨p, hp⟩ : ∃ p, finElt s f x i = some p := by
    have hv := lane_lt f.bits x.val i
    rw [finElt_eq]
    unfold decodeElt at h
    dsimp only at h
    split at h
    · next hn =>
      obtain ⟨m, e, hm, -⟩ := h
      rw [hm] at hn
      exact absurd hn (by simp [Num.isNaN])
    · split at h
      · exact absurd h (by rintro ⟨_, _, h, -⟩; simp at h)
      · next hsc =>
        rw [if_neg (by simpa using hsc)]
        obtain ⟨u, hu⟩ : ∃ u, (valueOf s.cb f (lane f.bits x.val i)).Holds z u := by
          split at h
          · exact Num.holds_of_scale2 h
          · exact ⟨v, h⟩
        obtain ⟨p, hp⟩ := rawElt_of_holds hf hv hu
        exact ⟨_, by rw [hp, Option.map_some]⟩
  refine ⟨p, hp, ?_⟩
  obtain ⟨m, e, hm, hv⟩ := h
  obtain ⟨m', e', hm', hv'⟩ := finElt_holds hp
  rw [hm] at hm'
  cases hm'
  rw [hv, hv']

/-- Where a codebook has a finite entry, a conversion to it names one of its entries. -/
theorem converted_mod {s : State} {f : Fmt} {tsc : BitVec 8} {rm : Rm} {sat : Bool} {q : Nat} {z : Bool} {v : ℚ} {rnd : Nat} {x : Exact}
    (h : Converted s f tsc rm sat q z v (convertElt s.cb f tsc rm sat rnd x)) (hx : x.Denotes z v) :
    Converted s f tsc rm sat q z v (convertElt s.cb f tsc rm sat rnd x % 2 ^ f.bits) := by
  by_cases hcb : ∃ n, f = .cb n
  · obtain ⟨n, rfl⟩ := hcb
    intro hex
    have hlt : convertElt s.cb (.cb n) tsc rm sat rnd x < 2 ^ (Fmt.cb n).bits := by
      obtain ⟨c, e, hce, hc⟩ := hex
      obtain ⟨y, hy, hyv⟩ := cbEntry_eq s n hc
      obtain ⟨t, ht⟩ := (hyv e).mp hce
      obtain ⟨b, hb, -⟩ := toCB4_nearest (hx.scale2 (127 - tsc.toNat)) ⟨c, y, hy, (isFin_iff y).mpr ⟨t, e, ht⟩⟩
      have hlen := (List.getElem?_eq_some_iff.mp hb).1
      have h16 : (2 : Nat) ^ (Fmt.cb n).bits = 16 := by simp [Fmt.bits, Fmt.lanes]
      rw [h16]
      exact hlen.trans_eq (by simp [cbEntries])
    rw [Nat.mod_eq_of_lt hlt]
    exact h hex
  · rw [Nat.mod_eq_of_lt (convertElt_lt s.cb (fun n hn => hcb ⟨n, hn⟩) ..)]
    exact h

/-- The elements that VQNT looks at are those that it converts. -/
theorem length_convSrcs {g : Grp} {f sf : Fmt} (h : convRatio f sf = 1 ∨ g.size = convRatio f sf) (s1 : Fin 16) :
    (convSrcs g f sf s1).length * sf.lanes = convElts g f sf := by
  unfold convElts convSrcs
  unfold convRatio at h
  unfold convWide at *
  rcases Nat.lt_or_ge sf.bits f.bits with hlt | hge
  · obtain ⟨r, hr2, hr, hl⟩ := Fmt.bits_ratio hlt
    rw [Nat.max_eq_left hlt.le, Nat.min_eq_right hlt.le, hr, Nat.mul_div_cancel _ (Fmt.bits_pos sf)] at h
    rw [Nat.max_eq_left hlt.le, mul_512_div, if_neg hlt.not_ge, List.length_singleton, Nat.one_mul, hl, h.resolve_left (by omega)]
  · rw [Nat.max_eq_right hge, mul_512_div, if_pos hge, length_regsOf]

end Sys2Proof.Machine
end

section
open Sys2Proof Sys2Proof.Machine Sys2Proof.Spec

/-- Settles O41: a conversion that R299 allows writes its slice (`vWrites_conversion`), each element one conversion of its number
(`convertElt_converted`). -/
theorem vectorConversions : Obligations.VectorConversions := by
  unfold Obligations.VectorConversions
  intro s g rm sat f sf tsc part d s1 G wide r m srcs dsts so po src old shaped gives hsh
  obtain ⟨hslice, htyped, hal, hald, hntok, hfmts, hntokd⟩ := hsh
  have h : ConvShaped s g f sf part d s1 := ⟨hslice, htyped, hal, hald, hntok, hfmts, hntokd⟩
  have hsc : ∀ e < m, (src e).pair.scale = laneScale (src e) := fun e he => (laneScale_of_typed htyped (convSrc_fmt h he)).symm
  have hwrites : ∀ {i : Instr} {l : Nat} {p : Fin 16} {t : BitVec 8} {whole : Bool} {body : Fmt → Shape → Pair × (Nat → Nat → VReg → Nat)},
      p = part → exec i s = .next (conversion s l g rm true f.bits p.val d s1 (fun _ => true) false whole body) →
      (whole = true → r = 1 ∨ G = r) → body sf (convShape g sf.bits f.bits p.val d s1) = (f.pairAt t, fun e bits x =>
        convertElt s.cb f t rm sat (s.rnd rm e) (decodeElt s.cb sf x.pair.scale bits).exact) →
      gives i l rm m (f.pairAt t) fun e y => ∀ a, finElt s sf (src e) ((so + e) % sf.lanes) = some a →
        Converted s f t rm sat (pickWord s e) a.1 a.2 y := by
    rintro i l p t whole body rfl hx hwhole hbody
    refine vWrites_conversion h hx rfl hwhole (fun _ => rfl) hbody (P := fun e y => ∀ a, finElt s sf (src e) ((so + e) % sf.lanes) = some a →
      Converted s f t rm sat (pickWord s e) a.1 a.2 y) fun e he a ha => ?_
    have hx := (finElt_holds ha).exact
    rw [← hsc e he] at hx
    exact converted_mod (convertElt_converted s f t hx (s.rnd_rs e) sat) hx
  refine ⟨fun _ => hwrites rfl rfl (fun hw => absurd hw (by decide)) rfl, fun hf n hn => ?vcbx, fun top htop hpart hwhole => ?vqnt⟩
  case vcbx =>
    subst hf hn
    refine vWrites_conversion h (i := .vcbx g part d s1) (rm := .rn) (whole := false) (wide := true) (rounds := false)
      (srcOk := fun f => match f with | .cb _ => true | _ => false) rfl rfl (fun hw => absurd hw (by decide)) (fun _ => rfl) rfl
      (P := fun e y => y = (s.cb n.val).toNat / 2 ^ (16 * lane 4 (src e).val ((so + e) % 128)) % 65536) fun e _ => ?_
    have h4 : (Fmt.cb n).bits = 4 := by simp [Fmt.bits, Fmt.lanes]
    change (s.cb n.val).toNat / 2 ^ (16 * lane (Fmt.cb n).bits (src e).val ((so + e) % 128)) % 65536 % 65536 = _
    rw [h4, Nat.mod_mod]
  case vqnt =>
    have hso : so = 0 := by simp [so, hpart]
    let xs := (List.range m).map fun e => decodeElt s.cb sf (laneScale (src e)) (lane sf.bits (src e).val (e % sf.lanes))
    have hxs : ((List.range ((convSrcs g f sf s1).length * sf.lanes)).map fun e =>
        decodeElt s.cb sf (s.runElt sf.bits (convSrcs g f sf s1) e).2.pair.scale (s.runElt sf.bits (convSrcs g f sf s1) e).1) = xs := by
      rw [length_convSrcs hwhole s1]
      refine List.map_congr_left fun e he => ?_
      have hrun := runElt_eq s g f sf part s1 e
      rw [show convSrcOff g f sf part = 0 from hso, Nat.zero_add] at hrun
      rw [hrun, ← hsc e (List.mem_range.mp he)]
      rfl
    have hmem : ∀ x, x ∈ xs ↔ ∃ e < m, decodeElt s.cb sf (laneScale (src e)) (lane sf.bits (src e).val (e % sf.lanes)) = x := fun x => by
      simp [xs]
    have htop' : emax s.cb f = some top := by
      simp only [List.mem_cons, Prod.mk.injEq, List.not_mem_nil, or_false] at htop
      rcases htop with ⟨rfl, rfl⟩ | ⟨rfl, rfl⟩ | ⟨rfl, rfl⟩ | ⟨rfl, rfl⟩ | ⟨rfl, rfl⟩ <;> rfl
    refine ⟨quantScale s.cb f xs, fun l ⟨e, he, a, ha, hl⟩ hall => quantScale_some (maxLog2_some ?_ ?_) htop',
      fun hall => quantScale_none (maxLog2_none ?_), ?_⟩
    · exact ⟨_, (hmem _).mpr ⟨e, he, rfl⟩, a.1, a.2, finElt_holds ha, hl⟩
    · intro x hx z v hv
      obtain ⟨e, he, rfl⟩ := (hmem x).mp hx
      obtain ⟨p, hp, rfl⟩ := finElt_of_holds htyped hv
      exact hall e he p hp
    · intro x hx z v hv
      obtain ⟨e, he, rfl⟩ := (hmem x).mp hx
      obtain ⟨p, hp, rfl⟩ := finElt_of_holds htyped hv
      exact hall e he p hp
    · have hgives := hwrites (i := .vqnt g rm sat f d s1) (t := quantScale s.cb f xs) hpart.symm rfl (fun _ => hwhole) ?_
      · simpa only [hso, Nat.zero_add] using hgives
      · rw [convShape_shaped (hpart ▸ h), ← hxs]

end

section
/-! SUPPORT. Dot products in groups along K (R97), and the accumulators that take them. -/

namespace Sys2Proof.Machine
open Sys2Proof.Spec

-- DOT PRODUCTS

/-- Pairs of factors that hold pairs of signed numbers. -/
def PairsHold (xs : List (Num × Num)) (ps : List ((Bool × ℚ) × (Bool × ℚ))) : Prop :=
  List.Forall₂ (fun x p => x.1.Holds p.1.1 p.1.2 ∧ x.2.Holds p.2.1 p.2.2) xs ps

theorem PairsHold.products {xs : List (Num × Num)} {ps : List ((Bool × ℚ) × (Bool × ℚ))} (h : PairsHold xs ps) :
    HoldAll (xs.map fun p => mulNum p.1 p.2) (ps.map fun p => (xor p.1.1 p.2.1, p.1.2 * p.2.2)) := by
  induction h with
  | nil => exact .nil
  | cons hx _ ih => exact .cons (mulNum_holds hx.1 hx.2) ih

theorem PairsHold.cands {xs : List (Num × Num)} {ps : List ((Bool × ℚ) × (Bool × ℚ))} (h : PairsHold xs ps) :
    xs.flatMap (fun p => mulCands p.1 p.2) = [] := by
  induction h with
  | nil => rfl
  | cons hx _ ih => rw [List.flatMap_cons, mulCands_nil hx.1 hx.2, ih, List.append_nil]

theorem HoldAll.filter {xs : List Num} {ps : List (Bool × ℚ)} (h : HoldAll xs ps) : xs.filter (fun x => !x.isNaN) = xs := by
  induction h with
  | nil => rfl
  | cons hx _ ih => rw [List.filter_cons, hx.isNaN, ih]; rfl

theorem PairsHold.length {xs : List (Num × Num)} {ps : List ((Bool × ℚ) × (Bool × ℚ))} (h : PairsHold xs ps) : xs.length = ps.length :=
  List.Forall₂.length_eq h

theorem zeroSign_rn (ps : List (Bool × ℚ)) (hne : ps ≠ []) : zeroSign .rn ps = ps.all fun p => p.2 == 0 && p.1 := by
  unfold zeroSign
  have he : ps.isEmpty = false := by simpa using hne
  rw [he]
  by_cases h : (ps.all fun p => p.2 == 0 && p.1) = true
  · simp [h]
  · rw [Bool.not_eq_true] at h
    rw [h]
    split <;> simp at *

theorem roundFP32_lt (rm : Rm) (x : Exact) : roundFP32 rm x < 2 ^ 32 := roundTo_lt regular_fp32 ..

/-- A group of a dot product is its exact sum, rounded. -/
theorem dotGroup_rounded {xs : List (Num × Num)} {ps : List ((Bool × ℚ) × (Bool × ℚ))} (h : PairsHold xs ps) (hne : ps ≠ []) :
    ∃ t, dotGroup xs = floatValue fFP32 t ∧
      Rounded fFP32 .rn false 0 (ps.all fun p => p.1.2 * p.2.2 == 0 && xor p.1.1 p.2.1) ((ps.map fun p => p.1.2 * p.2.2).sum) t := by
  have hsum := sumExact_denotes h.products .rn
  rw [zeroSign_rn _ (by simpa using hne), List.all_map, List.map_map] at hsum
  refine ⟨_, rfl, ?_⟩
  rw [h.cands, h.products.filter]
  exact roundTo_rounded regular_fp32 hsum (fun _ => rfl) false

theorem dotAcc_lt (fuel : Nat) {acc : Nat} (h : acc < 2 ^ 32) (xs : List (Num × Num)) : dotAcc fuel acc xs < 2 ^ 32 := by
  induction fuel generalizing acc xs with
  | zero => exact h
  | succ k ih =>
    unfold dotAcc
    split
    · exact h
    · exact ih (roundFP32_lt ..) _

/-- Groups of 16 along K, one after another (R97). -/
theorem dotAcc_dotIs {n : Nat} {xs : List (Num × Num)} {ps : List ((Bool × ℚ) × (Bool × ℚ))} (h : PairsHold xs ps) (hn : ps.length = 16 * n)
    (acc : Nat) : DotIs ((List.range n).map fun g => (ps.drop (16 * g)).take 16) acc (dotAcc (n + 1) acc xs) := by
  induction n generalizing xs ps acc with
  | zero =>
    have hx : xs = [] := List.length_eq_zero_iff.mp (by rw [h.length, hn])
    subst hx
    rfl
  | succ n ih =>
    have hlen : xs.length = 16 * n + 16 := by rw [h.length, hn]; ring
    have hne : xs ≠ [] := by
      rintro rfl
      simp at hlen
    have hstep : dotAcc (n + 1 + 1) acc xs =
        dotAcc (n + 1) (roundFP32 .rn (addExact .rn (floatValue fFP32 acc) (dotGroup (xs.take 16)))) (xs.drop 16) := by
      cases xs with
      | nil => exact absurd rfl hne
      | cons x xs => rfl
    have htake : PairsHold (xs.take 16) (ps.take 16) := List.forall₂_take 16 h
    have hdrop : PairsHold (xs.drop 16) (ps.drop 16) := List.forall₂_drop 16 h
    have hlt : ps.take 16 ≠ [] := by
      intro h0
      have := congrArg List.length h0
      simp [hn] at this
    obtain ⟨t, ht, hround⟩ := dotGroup_rounded htake hlt
    rw [List.range_succ_eq_map, List.map_cons, List.map_map, hstep]
    refine ⟨t, hround, fun hft hfa => ⟨roundFP32 .rn (addExact .rn (floatValue fFP32 acc) (floatValue fFP32 t)), ?_, ?_⟩⟩
    · have hsum := addExact_denotes (floatValue_finite regular_fp32 hfa) (floatValue_finite regular_fp32 hft) .rn
      refine roundTo_rounded regular_fp32 (hsum.congr fun _ => ?_) (fun _ => rfl) false
      by_cases hs : neg fFP32 acc = neg fFP32 t
      · rw [if_pos hs, if_pos hs.symm, hs]
      · rw [if_neg hs, if_neg (Ne.symm hs)]
        rfl
    · rw [ht]
      have := ih hdrop (by rw [List.length_drop, hn]; omega) (roundFP32 .rn (addExact .rn (floatValue fFP32 acc) (floatValue fFP32 t)))
      simpa only [List.drop_drop, Function.comp_def, Nat.mul_succ, Nat.add_comm 16] using this

theorem kdim_groups {f : Fmt} : kdim f = 16 * (kdim f / 16) := by
  cases f <;> simp [kdim, Fmt.bits, Fmt.lanes]

/-- An accumulator element after one row of MMA. -/
theorem mmaElt_dotAcc {s : State} {za : Bool} {f : Fmt} {d i j : Nat} {a b : Nat → Option (Bool × ℚ)} {x y : Nat → Num}
    (ha : ∀ k p, a k = some p → (x k).Holds p.1 p.2) (hb : ∀ k p, b k = some p → (y k).Holds p.1 p.2) :
    MmaElt s za f d i j a b (dotAcc (kdim f / 16 + 1) (if za then 0 else s.here.ael d i j) ((List.range (kdim f)).map fun k => (x k, y k))) := by
  intro ps hlen hps
  refine dotAcc_dotIs (List.forall₂_iff_get.mpr ⟨by simp [hlen], fun k h1 h2 => ?_⟩) (hlen.trans kdim_groups) _
  have hk : k < kdim f := hlen ▸ h2
  obtain ⟨h3, h4⟩ := hps k hk
  rw [List.getElem?_eq_getElem h2] at h3 h4
  have hget : (List.map (fun k => (x k, y k)) (List.range (kdim f))).get ⟨k, h1⟩ = (x k, y k) := by simp
  rw [hget]
  exact ⟨ha k _ h3, hb k _ h4⟩

-- ACCUMULATORS

theorem Tile.ael_lt (t : Tile) (r i j : Nat) : t.ael r i j < 2 ^ 32 := BitVec.isLt _

theorem Tile.ael_setAel (t : Tile) (r i j x : Nat) {r' i' j' : Nat} (hi : i < 64) (hj : j < 64) (hi' : i' < 64) (hj' : j' < 64) :
    (t.setAel r i j x).ael r' i' j' = if r' = r ∧ i' = i ∧ j' = j then x % 2 ^ 32 else t.ael r' i' j' := by
  have hkey : 4096 * r' + 64 * i' + j' = 4096 * r + 64 * i + j ↔ r' = r ∧ i' = i ∧ j' = j := by omega
  unfold Tile.ael Tile.setAel
  simp only [Sparse.get_set, hkey]
  split
  · exact BitVec.toNat_ofNat ..
  · rfl

/-- Elements `0 .. n` of a row of an accumulator, each from itself. -/
def Tile.mapRow (t : Tile) (reg row n : Nat) (f : Nat → Nat → Nat) : Tile :=
  (List.range n).foldl (fun t j => t.setAel reg row j (f j (t.ael reg row j))) t

theorem Tile.mapRow_succ (t : Tile) (reg row n : Nat) (f : Nat → Nat → Nat) : t.mapRow reg row (n + 1) f =
    (t.mapRow reg row n f).setAel reg row n (f n ((t.mapRow reg row n f).ael reg row n)) := by
  unfold Tile.mapRow
  rw [List.range_succ, List.foldl_append]
  rfl

theorem Tile.mapRow_frame (t : Tile) (reg row n : Nat) (f : Nat → Nat → Nat) : ∃ a, t.mapRow reg row n f = { t with a := a } := by
  induction n with
  | zero => exact ⟨t.a, rfl⟩
  | succ n ih =>
    obtain ⟨a, ha⟩ := ih
    rw [Tile.mapRow_succ, ha]
    exact ⟨_, rfl⟩

theorem Tile.ael_mapRow (t : Tile) {reg row n : Nat} (f : Nat → Nat → Nat) (hrow : row < 64) (hn : n ≤ 64) {r i j : Nat} (hi : i < 64) (hj : j < 64) :
    (t.mapRow reg row n f).ael r i j = if r = reg ∧ i = row ∧ j < n then f j (t.ael r i j) % 2 ^ 32 else t.ael r i j := by
  induction n generalizing r i j with
  | zero => simp [Tile.mapRow]
  | succ n ih =>
    have hself := ih (by omega) (r := reg) hrow (j := n) (by omega)
    rw [if_neg (fun h => lt_irrefl _ h.2.2)] at hself
    rw [Tile.mapRow_succ, Tile.ael_setAel _ _ _ _ _ hrow (by omega) hi hj, ih (by omega) hi hj, hself]
    by_cases h : r = reg ∧ i = row ∧ j = n
    · obtain ⟨rfl, rfl, rfl⟩ := h
      simp
    · rw [if_neg h]
      refine if_congr ?_ rfl rfl
      constructor
      · rintro ⟨h1, h2, h3⟩
        exact ⟨h1, h2, by omega⟩
      · rintro ⟨h1, h2, h3⟩
        exact ⟨h1, h2, lt_of_le_of_ne (by omega) fun h' => h ⟨h1, h2, h'⟩⟩

/-- Rows `lo .. lo + n` of an accumulator, each element from itself. -/
def Tile.mapRows (t : Tile) (reg lo n : Nat) (f : Nat → Nat → Nat → Nat) : Tile :=
  (List.range n).foldl (fun t i => t.mapRow reg (lo + i) 64 (f i)) t

theorem Tile.mapRows_succ (t : Tile) (reg lo n : Nat) (f : Nat → Nat → Nat → Nat) : t.mapRows reg lo (n + 1) f =
    (t.mapRows reg lo n f).mapRow reg (lo + n) 64 (f n) := by
  unfold Tile.mapRows
  rw [List.range_succ, List.foldl_append, List.foldl_cons, List.foldl_nil]

theorem Tile.mapRows_frame (t : Tile) (reg lo n : Nat) (f : Nat → Nat → Nat → Nat) : ∃ a, t.mapRows reg lo n f = { t with a := a } := by
  induction n with
  | zero => exact ⟨t.a, rfl⟩
  | succ n ih =>
    obtain ⟨a, ha⟩ := ih
    obtain ⟨b, hb⟩ := Tile.mapRow_frame { t with a := a } reg (lo + n) 64 (f n)
    rw [Tile.mapRows_succ, ha, hb]
    exact ⟨b, rfl⟩

theorem Tile.ael_mapRows (t : Tile) {reg lo n : Nat} (f : Nat → Nat → Nat → Nat) (hn : lo + n ≤ 64) {r i j : Nat} (hi : i < 64) (hj : j < 64) :
    (t.mapRows reg lo n f).ael r i j = if r = reg ∧ lo ≤ i ∧ i < lo + n then f (i - lo) j (t.ael r i j) % 2 ^ 32 else t.ael r i j := by
  induction n with
  | zero => rw [if_neg (by omega)]; rfl
  | succ n ih =>
    rw [Tile.mapRows_succ, Tile.ael_mapRow _ _ (by omega) le_rfl hi hj, ih (by omega)]
    by_cases h : r = reg ∧ i = lo + n
    · obtain ⟨rfl, rfl⟩ := h
      simp [hj]
    · rw [if_neg (fun h' => h ⟨h'.1, h'.2.1⟩)]
      refine if_congr ?_ rfl rfl
      constructor
      · rintro ⟨h1, h2, h3⟩
        exact ⟨h1, h2, by omega⟩
      · rintro ⟨h1, h2, h3⟩
        refine ⟨h1, h2, lt_of_le_of_ne (by omega) fun h' => h ⟨h1, ?_⟩⟩
        omega

end Sys2Proof.Machine
end

section
/-! SUPPORT. What a firing of the matrix unit leaves alone, the checks of R316, and MMA and MMAT of registers (R323). -/

namespace Sys2Proof.Machine
open Sys2Proof.Spec

-- TILES THAT DIFFER IN THEIR ACCUMULATORS

/-- What an accumulation leaves alone of its tile, as the statements look at it. -/
structure Tile.AccFrame (t u : Tile) : Prop where
  banks : u.banks = t.banks
  fs : u.fs = t.fs
  m : u.m = t.m
  pv : u.pv = t.pv
  sp : u.sp = t.sp
  iq : u.iq = t.iq

theorem Tile.AccFrame.trans {t u v : Tile} (h : t.AccFrame u) (h' : u.AccFrame v) : t.AccFrame v :=
  ⟨h'.banks.trans h.banks, h'.fs.trans h.fs, h'.m.trans h.m, h'.pv.trans h.pv, h'.sp.trans h.sp, h'.iq.trans h.iq⟩

theorem Tile.accFrame_mapRow (t : Tile) (reg row n : Nat) (f : Nat → Nat → Nat) : t.AccFrame (t.mapRow reg row n f) := by
  obtain ⟨a, ha⟩ := t.mapRow_frame reg row n f
  rw [ha]
  exact ⟨rfl, rfl, rfl, rfl, rfl, rfl⟩

theorem Tile.accFrame_mapRows (t : Tile) (reg lo n : Nat) (f : Nat → Nat → Nat → Nat) : t.AccFrame (t.mapRows reg lo n f) := by
  obtain ⟨a, ha⟩ := t.mapRows_frame reg lo n f
  rw [ha]
  exact ⟨rfl, rfl, rfl, rfl, rfl, rfl⟩

-- THE FIRING'S TILE AND UNIT

@[simp] theorem State.here_modHere (s : State) (f : Tile → Tile) : (s.modHere f).here = f s.here :=
  (State.tile_modTile ..).trans (if_pos rfl)
@[simp] theorem State.here_modMe (s : State) (f : Actor → Actor) : (s.modMe f).here = s.here := rfl
@[simp] theorem State.here_issue (s : State) (l : Nat) (ws : List Wr) (tok : Option Tok) : (s.issue l ws tok).here = s.here := rfl
@[simp] theorem State.me_modMe (s : State) (f : Actor → Actor) : (s.modMe f).me = f s.me := (State.actor_modActor ..).trans (if_pos rfl)
@[simp] theorem State.me_modHere (s : State) (f : Tile → Tile) : (s.modHere f).me = s.me := rfl
@[simp] theorem State.me_issue (s : State) (l : Nat) (ws : List Wr) (tok : Option Tok) : (s.issue l ws tok).me = s.me := rfl

/-- Two states differ in the firing's tile and unit and in what is pending alone. -/
structure FiringFrame (s t : State) : Prop where
  rest : t = { s with tiles := t.tiles, actors := t.actors, results := t.results }
  tiles : ∀ k, k ≠ s.cur.tile → t.tile k = s.tile k
  actors : ∀ k, k ≠ s.cur.actor → t.actor k = s.actor k

theorem FiringFrame.refl (s : State) : FiringFrame s s := ⟨rfl, fun _ _ => rfl, fun _ _ => rfl⟩

theorem FiringFrame.cur {s t : State} (h : FiringFrame s t) : t.cur = s.cur := by rw [h.rest]
theorem FiringFrame.cycle {s t : State} (h : FiringFrame s t) : t.cycle = s.cycle := by rw [h.rest]

theorem FiringFrame.trans {s t u : State} (h : FiringFrame s t) (h' : FiringFrame t u) : FiringFrame s u := by
  refine ⟨?_, fun k hk => (h'.tiles k (h.cur ▸ hk)).trans (h.tiles k hk), fun k hk => (h'.actors k (h.cur ▸ hk)).trans (h.actors k hk)⟩
  have hrest := h'.rest
  rw [h.rest] at hrest
  exact hrest

theorem FiringFrame.modHere {s t : State} (h : FiringFrame s t) (f : Tile → Tile) : FiringFrame s (t.modHere f) :=
  h.trans ⟨rfl, fun _ hk => (State.tile_modTile ..).trans (if_neg hk), fun _ _ => rfl⟩

theorem FiringFrame.modMe {s t : State} (h : FiringFrame s t) (f : Actor → Actor) : FiringFrame s (t.modMe f) :=
  h.trans ⟨rfl, fun _ _ => rfl, fun _ hk => (State.actor_modActor ..).trans (if_neg hk)⟩

theorem FiringFrame.issue {s t : State} (h : FiringFrame s t) (l : Nat) (ws : List Wr) (tok : Option Tok) : FiringFrame s (t.issue l ws tok) :=
  h.trans ⟨rfl, fun _ _ => rfl, fun _ _ => rfl⟩

theorem FiringFrame.mat {s t : State} (h : FiringFrame s t) (l busy : Nat) (ws : List Wr) (tok : Option Tok) :
    FiringFrame s (t.mat l busy ws tok) := (h.issue l ws tok).modHere _

theorem FiringFrame.advK {s t : State} (h : FiringFrame s t) (rm : Rm) (n : Nat) : FiringFrame s (t.advK rm n) := by
  unfold State.advK
  split
  · exact h.modMe _
  · exact h

theorem FiringFrame.after {s t : State} (h : FiringFrame s t) : after s t = t.here := by
  unfold Spec.after State.here
  rw [h.cur]

theorem FiringFrame.actor {s t : State} (h : FiringFrame s t) : t.actor s.cur.actor = t.me := by
  unfold State.me
  rw [h.cur]

/-- A firing of the matrix unit, from what it changes. -/
theorem FiringFrame.matrix {i : Instr} {s t : State} (h : FiringFrame s t) {ws : List Wr} {l : Nat} {P : State → Prop} (hx : exec i s = .next t)
    (hr : t.results = s.results ++ [⟨s.cycle + l, s.cur, ws, none⟩]) (hb : t.here.banks = s.here.banks) (hfs : t.here.fs = s.here.fs) (hP : P t) :
    Matrix i s ws P :=
  ⟨t, l, hx, hr, h.rest, h.tiles, h.after ▸ hb, h.after ▸ hfs, h.actors, hP⟩

-- THE CHECKS OF R316

theorem tokCheck_none {s : State} {gx : Option (Fin 16)} {xs : List GReg} (h : ∀ x ∈ xs, x.isTok = false) (ok : State) :
    tokCheck s gx xs ok = ok := by
  unfold tokCheck firstTok
  rw [List.find?_eq_none.mpr fun x hx => by simp [h x hx]]

theorem tokCheck_some {s : State} {gx : Option (Fin 16)} {xs : List GReg} {x : GReg} (h : xs.find? GReg.isTok = some x) (ok : State) :
    tokCheck s gx xs ok = matRefuse s gx (s.passG x) x := by
  unfold tokCheck firstTok
  rw [h]

theorem rowCheck_good {s : State} {r : RowWord} {u : RowUse} (hc : r.clean = true) (hn : u.count = true → 1 ≤ r.count ∧ r.count ≤ 64)
    (ht : r.tile = 0 ∨ 0 ∉ u.tiles) (hs : u.count = true → u.srow = true → r.srow + r.count ≤ 64)
    (hd : u.count = true → u.drow = true → r.drow + r.count ≤ 64) (ok : State) : rowCheck s r u ok = ok := by
  unfold rowCheck
  rw [if_neg, if_neg]
  · rintro ⟨h1, ⟨h2, h3⟩ | ⟨h2, h3⟩⟩
    · have := hs h1 h2
      omega
    · have := hd h1 h2
      omega
  · rintro (h | ⟨h1, h2⟩ | ⟨h1, h2⟩)
    · simp [hc] at h
    · have := hn h1
      omega
    · rcases ht with ht | ht
      · exact h1 ht
      · exact ht (by simpa using h2)

theorem rowCheck_rowGood {s : State} {r : RowWord} {srow drow : Bool} {tiles : List Nat} (h : rowGood r srow drow tiles) (ok : State) :
    rowCheck s r ⟨true, srow, drow, tiles⟩ ok = ok := by
  obtain ⟨hc, h1, h64, ht, hs, hd⟩ := h
  exact rowCheck_good hc (fun _ => ⟨h1, h64⟩) ht (fun _ => hs) (fun _ => hd) ok

theorem spCheck_none {s : State} {d : Dsc} {esize : Nat} {spans : List (Nat × Nat)} (h : dscCheck s.window d esize spans = none) (ok : State) :
    spCheck s d esize spans ok = ok := by
  unfold spCheck
  rw [h]

-- ELEMENTS

/-- An element of a block decodes to its number (R78, R323). -/
theorem blockElt_holds {s : State} {f : Fmt} {blk : Nat → VReg} {e : Nat} {p : Bool × ℚ}
    (h : blockElt s f (blk (e / f.lanes)) (e % f.lanes) = some p) : (blkElt s.cb f blk e).Holds p.1 p.2 := by
  unfold blockElt at h
  unfold blkElt
  rw [Fmt.lanes_eq]
  dsimp only
  cases hm : matPair f (blk (e / f.lanes)).pair with
  | none => simp [hm] at h
  | some q =>
    obtain ⟨g, sc⟩ := q
    rw [hm] at h
    dsimp only at h ⊢
    have hh := finElt_holds h
    unfold matPair at hm
    by_cases h0 : (blk (e / f.lanes)).pair.fmt = 0
    · rw [if_pos h0] at hm
      cases hm
      rwa [laneScale, if_pos h0] at hh
    · rw [if_neg h0] at hm
      split at hm
      · next g' hg' =>
        split at hm
        · next hb =>
          cases hm
          rw [laneScale, if_neg h0, hb] at hh
          exact hh
        · exact absurd hm (by simp)
      · exact absurd hm (by simp)

theorem mElt_holds {s : State} {f : Fmt} {r e : Nat} {p : Bool × ℚ} (h : mElt s f r e = some p) : (blkElt s.cb f (s.here.mblk r) e).Holds p.1 p.2 :=
  blockElt_holds (blk := s.here.mblk r) h

/-- The elements of a B of registers. -/
theorem bElts_holds {s : State} {tr : Bool} {f : Fmt} {m : Fin 8} {tile : Nat} {el : Nat → Nat → Option (Bool × ℚ)} (h : bGood s tr f (.m m) tile el)
    {j k : Nat} {p : Bool × ℚ} (hp : el k j = some p) : (bElts s tr f (.m m) tile j k).Holds p.1 p.2 := by
  rw [h.2 k j] at hp
  exact mElt_holds hp

-- MMA AND MMAT OF REGISTERS (R323)

/-- What MMA makes of an accumulator element: its group sums added on. -/
def mmaFn (za : Bool) (f : Fmt) (arow : Nat → Num) (bcol : Nat → Nat → Num) (j x : Nat) : Nat :=
  dotAcc (kdim f / 16 + 1) (if za then 0 else x) ((List.range (kdim f)).map fun i => (arow i, bcol j i))

theorem mmaFn_lt (za : Bool) (f : Fmt) (arow : Nat → Num) (bcol : Nat → Nat → Num) (j : Nat) {x : Nat} (h : x < 2 ^ 32) :
    mmaFn za f arow bcol j x < 2 ^ 32 := by
  refine dotAcc_lt _ ?_ _
  split
  · decide
  · exact h

/-- The elements of a register or scratchpad A, from row SROW on. -/
def State.aElts (s : State) (f : Fmt) (a : MSrc) (r : RowWord) : Nat → Nat → Num :=
  match a with
  | .m m => fun n i => blkElt s.cb f (s.here.mblk m.val) ((r.srow + n) * kdim f + i)
  | .sp p => fun n i =>
    let da := s.dsc p
    let w := f.bits
    let x := rowBytes s.here da (da.rowAddr r.tile (r.srow + n) + i * w / 8) ((w + 7) / 8)
    decodeElt s.cb f r.scale (if w = 4 then x / 2 ^ (4 * (i % 2)) % 16 else x)
  | .queue _ => fun _ _ => .fin false 0 0

theorem mmaTile_eq (s : State) (tr za : Bool) (f : Fmt) (d : Fin 4) (a b : MSrc) (gx : Fin 16) :
    s.mmaTile tr za f d a b gx = s.here.mapRows d.val (rowWord (s.g gx).val).drow (rowWord (s.g gx).val).count fun n =>
      mmaFn za f (s.aElts f a (rowWord (s.g gx).val) n) (bElts s tr f b (rowWord (s.g gx).val).tile) := by
  cases a <;> rfl

theorem blksFit_iff (f : Fmt) (xs : List VReg) : blksFit f xs = true ↔ ∀ x ∈ xs, (matPair f x.pair).isSome = true := List.all_eq_true

/-- The B operand's blocks as `mma` looks at them. -/
def bBlks (s : State) (b : MSrc) : List VReg := match b with | .m x => (List.range 128).map (s.here.mblk x.val) | _ => []

theorem bBlks_fit {s : State} {tr : Bool} {f : Fmt} {b : MSrc} {tile : Nat} {el : Nat → Nat → Option (Bool × ℚ)} (h : bGood s tr f b tile el) :
    ∀ x ∈ bBlks s b, (matPair f x.pair).isSome = true := by
  cases b with
  | m r =>
    intro x hx
    obtain ⟨k, hk, rfl⟩ := List.mem_map.mp hx
    exact h.1 k (List.mem_range.mp hk)
  | sp p => simp [bBlks]
  | queue q => simp [bBlks]

theorem bGood_srcCheck {s : State} {tr : Bool} {f : Fmt} {b : MSrc} {tile : Nat} {el : Nat → Nat → Option (Bool × ℚ)} (h : bGood s tr f b tile el)
    (ok : State) : srcCheck s b f (bSpans s tr f b tile) ok = ok := by
  cases b with
  | m r => rfl
  | sp p => exact spCheck_none h.1.2.2 ok
  | queue q => rfl

theorem bGood_srcRegs {s : State} {tr : Bool} {f : Fmt} {b : MSrc} {tile : Nat} {el : Nat → Nat → Option (Bool × ℚ)} (h : bGood s tr f b tile el) :
    ∀ x ∈ srcRegs s b, x.isTok = false := by
  cases b with
  | m r => simp [srcRegs]
  | sp p => simpa [srcRegs] using ⟨h.1.1, h.1.2.1⟩
  | queue q => simp [srcRegs]

theorem srcPitch_eq (s : State) (b : MSrc) : srcPitch s b = pitchOf s b := by cases b <;> rfl

theorem Tile.mblk_congr {t u : Tile} (h : u.m = t.m) : u.mblk = t.mblk := by
  funext r b
  unfold Tile.mblk
  rw [h]

theorem Tile.ael_congr {t u : Tile} (h : u.a = t.a) : u.ael = t.ael := by
  funext r i j
  unfold Tile.ael
  rw [h]

theorem rowBytes_congr {t u : Tile} (h : u.sp = t.sp) (ds : Dsc) (a n : Nat) : rowBytes u ds a n = rowBytes t ds a n := by
  unfold rowBytes
  induction n generalizing a with
  | zero => rfl
  | succ n ih =>
    unfold Tile.spBytes Tile.spByte
    rw [h, ih]

theorem State.dsc_congr {s t : State} (h : t.bk = s.bk) : t.dsc = s.dsc := by
  funext p
  unfold State.dsc State.gn
  rw [h]

/-- What MMA reads besides the accumulators: the firing's bank, the codebooks, the m registers and the scratchpad. -/
structure SameOperands (s t : State) : Prop where
  bk : t.bk = s.bk
  cb : t.cb = s.cb
  m : t.here.m = s.here.m
  sp : t.here.sp = s.here.sp

theorem SameOperands.of_frame {s t : State} (h : FiringFrame s t) (hk : s.here.AccFrame t.here) (hctx : t.me.ctx = s.me.ctx) :
    SameOperands s t := by
  refine ⟨?_, ?_, hk.m, hk.sp⟩
  · change t.here.bank t.cur.bank = s.here.bank s.cur.bank
    unfold Tile.bank
    rw [hk.banks, h.cur]
  · funext n
    have hc : t.ctx? s.me.ctx = s.ctx? s.me.ctx := State.ctx?_congr (by rw [h.rest]) _
    unfold State.cb
    rw [hctx, hc]

theorem SameOperands.aElts {s t : State} (h : SameOperands s t) (f : Fmt) (a : MSrc) (r : RowWord) : t.aElts f a r = s.aElts f a r := by
  unfold State.aElts
  rw [h.cb, Tile.mblk_congr h.m, State.dsc_congr h.bk]
  cases a with
  | m m => rfl
  | sp p => simp only [rowBytes_congr h.sp]
  | queue q => rfl

theorem SameOperands.bElts {s t : State} (h : SameOperands s t) (tr : Bool) (f : Fmt) (b : MSrc) (tile : Nat) :
    bElts t tr f b tile = bElts s tr f b tile := by
  unfold Machine.bElts
  rw [h.cb, Tile.mblk_congr h.m, State.dsc_congr h.bk]
  cases b with
  | m m => rfl
  | sp p => simp only [rowBytes_congr h.sp]
  | queue q => rfl

/-- The accumulators after MMA, of a state that has the same operands. -/
theorem SameOperands.mmaTile {s t : State} (h : SameOperands s t) (tr za : Bool) (f : Fmt) (d : Fin 4) (a b : MSrc) (gx : Fin 16) :
    t.mmaTile tr za f d a b gx = t.here.mapRows d.val (rowWord (s.g gx).val).drow (rowWord (s.g gx).val).count fun n =>
      mmaFn za f (s.aElts f a (rowWord (s.g gx).val) n) (Machine.bElts s tr f b (rowWord (s.g gx).val).tile) := by
  have hg : t.g gx = s.g gx := by
    unfold State.g
    rw [h.bk]
  rw [mmaTile_eq, hg, h.aElts, h.bElts]

/-- The accumulators after a firing that changes rows of one of them. -/
theorem aAfter_mapRows {s t : State} {u : Tile} {reg lo n : Nat} {f : Nat → Nat → Nat → Nat} (ht : after s t = u.mapRows reg lo n f)
    (hu : u.a = s.here.a) (hn : lo + n ≤ 64) {P : Nat → Nat → Nat → Prop}
    (hP : ∀ i j, lo ≤ i → i < lo + n → j < 64 → P i j (f (i - lo) j (s.here.ael reg i j) % 2 ^ 32)) : aAfter s t reg lo (lo + n) P := by
  intro r i j hi hj
  rw [ht, Tile.ael_mapRows u f hn hi hj, Tile.ael_congr hu]
  by_cases h : r = reg ∧ lo ≤ i ∧ i < lo + n
  · obtain ⟨rfl, h1, h2⟩ := h
    rw [if_pos ⟨rfl, h1, h2⟩, if_pos ⟨rfl, h1, h2⟩]
    exact hP i j h1 h2 hj
  · rw [if_neg h, if_neg h]

/-- MMA of a register A that passes its checks (R316). -/
theorem mma_register {s : State} {tr fwd za : Bool} {f : Fmt} {d : Fin 4} {m : Fin 8} {b : MSrc} {gx : Fin 16}
    {el : Nat → Nat → Option (Bool × ℚ)} (hplain : plain s [gx]) (hb : bGood s tr f b (rowWord (s.g gx).val).tile el)
    (hr : rowGood (rowWord (s.g gx).val) true true (pitchOf s b))
    (hm : ∀ k < 2 * (rowWord (s.g gx).val).count, (matPair f (s.here.mblk m.val (2 * (rowWord (s.g gx).val).srow + k)).pair).isSome = true) (i : Instr) :
    mma s i tr fwd za f d (.m m) b gx =
      (let r := rowWord (s.g gx).val
       let bg := bGroups s b (bSpans s tr f b r.tile)
       let l := rowCycles f * r.count + 7 + bCost b bg + (if bg = [] then 0 else s.readWait)
       let s1 := (s.useRead (groupCosts bg)).mat l (l - 7) [.chain d.val] none
       if bg = [] then s1.modHere fun _ => s1.mmaTile tr za f d (.m m) b gx else s1.spReads i l (s.cycle + s.readWait) bg) := by
  have htok : ∀ x ∈ srcRegs s b ++ [s.g gx], x.isTok = false := by
    intro x hx
    rcases List.mem_append.mp hx with hx | hx
    · exact bGood_srcRegs hb x hx
    · exact List.mem_singleton.mp hx ▸ hplain gx (by simp)
  have hfit : blksFit f ((List.range (2 * (rowWord (s.g gx).val).count)).map (fun i =>
      s.here.mblk m.val (2 * (rowWord (s.g gx).val).srow + i)) ++ bBlks s b) = true := by
    rw [blksFit_iff]
    intro x hx
    rcases List.mem_append.mp hx with hx | hx
    · obtain ⟨k, hk, rfl⟩ := List.mem_map.mp hx
      exact hm k (List.mem_range.mp hk)
    · exact bBlks_fit hb x hx
  unfold mma
  dsimp only
  rw [tokCheck_none htok, srcPitch_eq, rowCheck_rowGood hr, bGood_srcCheck hb]
  exact if_neg (show ¬ (!blksFit f (_ ++ bBlks s b)) = true by rw [hfit]; decide)

/-- MMA and MMAT are one firing. -/
theorem exec_mma (tr fwd za : Bool) (f : Fmt) (d : Fin 4) (a b : MSrc) (gx : Fin 16) (s : State) :
    exec (if tr then .mmat fwd za f d a b gx else .mma fwd za f d a b gx) s =
      .next (mma s (if tr then .mmat fwd za f d a b gx else .mma fwd za f d a b gx) tr fwd za f d a b gx) := by
  cases tr <;> rfl

/-- MMA of registers accumulates row by row (R97, R323). -/
theorem mma_registers {s : State} {tr fwd za : Bool} {f : Fmt} {d : Fin 4} {m x : Fin 8} {gx : Fin 16} {el : Nat → Nat → Option (Bool × ℚ)}
    (hplain : plain s [gx]) (hb : bGood s tr f (.m x) (rowWord (s.g gx).val).tile el)
    (hr : rowGood (rowWord (s.g gx).val) true true [])
    (hm : ∀ k < 2 * (rowWord (s.g gx).val).count, (matPair f (s.here.mblk m.val (2 * (rowWord (s.g gx).val).srow + k)).pair).isSome = true) :
    Matrix (if tr then .mmat fwd za f d (.m m) (.m x) gx else .mma fwd za f d (.m m) (.m x) gx) s [.chain d.val] fun t =>
      unitKept s t ∧ keepsM s t ∧ keepsPv s t ∧ keepsSp s t ∧ queuesKept s t ∧
      aAfter s t d.val (rowWord (s.g gx).val).drow ((rowWord (s.g gx).val).drow + (rowWord (s.g gx).val).count) fun i j y => MmaElt s za f d.val i j
        (fun k => mElt s f m.val (((rowWord (s.g gx).val).srow + (i - (rowWord (s.g gx).val).drow)) * kdim f + k)) (fun k => el k j) y := by
  set r := rowWord (s.g gx).val with hrw
  obtain ⟨l, hl⟩ : ∃ l, l = rowCycles f * r.count + 7 + 0 + 0 := ⟨_, rfl⟩
  obtain ⟨s1, hs1⟩ : ∃ s1 : State, s1 = (s.useRead 0).mat l (l - 7) [.chain d.val] none := ⟨_, rfl⟩
  have hs1h : s.here.AccFrame s1.here ∧ s1.here.a = s.here.a := by
    rw [hs1, State.mat, State.here_modHere, State.here_issue, State.useRead, State.here_modHere]
    exact ⟨⟨rfl, rfl, rfl, rfl, rfl, rfl⟩, rfl⟩
  have hframe : FiringFrame s s1 := hs1 ▸ ((FiringFrame.refl s).modHere _).mat ..
  have hops : SameOperands s s1 := .of_frame hframe hs1h.1 (by rw [hs1]; rfl)
  have hx := exec_mma tr fwd za f d (.m m) (.m x) gx s
  rw [mma_register hplain hb hr hm] at hx
  replace hx := hx.trans (c := .next (s1.modHere fun _ => s1.mmaTile tr za f d (.m m) (.m x) gx)) (by rw [hs1, hl]; rfl)
  have hhere := (State.here_modHere s1 fun _ => s1.mmaTile tr za f d (.m m) (.m x) gx).trans (hops.mmaTile tr za f d (.m m) (.m x) gx)
  have hframe := hframe.modHere fun _ => s1.mmaTile tr za f d (.m m) (.m x) gx
  have hkeep := hs1h.1.trans (hhere ▸ Tile.accFrame_mapRows ..)
  obtain ⟨-, -, -, -, -, hd⟩ := hr
  refine hframe.matrix hx (l := l) (by rw [hs1]; rfl) hkeep.banks hkeep.fs ⟨by rw [hs1]; rfl, ?_, ?_, ?_, ?_, ?_⟩
  · exact (congrArg Tile.m hframe.after).trans hkeep.m
  · exact (congrArg Tile.pv hframe.after).trans hkeep.pv
  · exact (congrArg Tile.sp hframe.after).trans hkeep.sp
  · exact (congrArg Tile.iq hframe.after).trans hkeep.iq
  · refine aAfter_mapRows (hframe.after.trans hhere) hs1h.2 (hd rfl) fun i j h1 h2 _ => ?_
    rw [Nat.mod_eq_of_lt (mmaFn_lt za f _ _ j (Tile.ael_lt ..))]
    exact mmaElt_dotAcc (fun k p hp => mElt_holds hp) fun k p hp => bElts_holds hb hp

end Sys2Proof.Machine
end

section
/-! SUPPORT. Read groups that begin: what a firing with scratchpad operands does in its own cycle (R52, R323). -/

namespace Sys2Proof.Machine
open Sys2Proof.Spec

-- GROUPS (R52)

theorem filter_eq_self_of {α : Type} {l : List α} {p : α → Bool} (h : ∀ x ∈ l, p x = true) : l.filter p = l :=
  List.filter_eq_self.mpr h

/-- An instruction none of whose groups has come stays as it is. -/
theorem SpMove.read_none {m : SpMove} {now : Nat} (h : ∀ g ∈ m.reads, now < g.1) (t : Tile) : m.read t now = m := by
  have hdue : m.reads.filter (fun g => decide (g.1 ≤ now)) = [] := List.filter_eq_nil_iff.mpr fun g hg => by
    have := h g hg
    simpa using this
  have hleft : m.reads.filter (fun g => decide (now < g.1)) = m.reads := filter_eq_self_of fun g hg => by simpa using h g hg
  unfold SpMove.read
  rw [hdue, hleft]
  rfl

theorem SpMove.read_congr {t u : Tile} (h : u.sp = t.sp) (m : SpMove) (now : Nat) : m.read u now = m.read t now := by
  unfold SpMove.read
  rw [h]

theorem SpMove.read_writes (m : SpMove) (t : Tile) (now : Nat) : (m.read t now).writes = m.writes := rfl

/-- A tile none of whose writes is due stays as it is. -/
theorem Tile.writeGroups_none {t : Tile} {now : Nat} (h : ∀ m ∈ t.moves, m.over = false ∧ ∀ g ∈ m.writes, now < g.1) :
    t.writeGroups now = t := by
  have hdue : (t.moves.flatMap fun m => (m.writes.filter fun g => decide (g.1 ≤ now)).flatMap (·.2)) = [] := by
    refine List.flatMap_eq_nil_iff.mpr fun m hm => ?_
    rw [List.filter_eq_nil_iff.mpr fun g hg => by simpa using (h m hm).2 g hg]
    rfl
  have hleft : (t.moves.map fun m => { m with writes := m.writes.filter fun g => decide (now < g.1) }) = t.moves := by
    refine (List.map_congr_left fun m hm => ?_).trans (List.map_id _)
    rw [filter_eq_self_of fun g hg => by simpa using (h m hm).2 g hg]
    rfl
  have hover : t.moves.filter (fun m => !m.over) = t.moves := filter_eq_self_of fun m hm => by simp [(h m hm).1]
  unfold Tile.writeGroups
  dsimp only
  rw [hdue, hleft, hover]
  rfl

/-- What a firing with read groups leaves alone of its tile, as the statements look at it. -/
structure Tile.SpFrame (t u : Tile) : Prop where
  banks : u.banks = t.banks
  fs : u.fs = t.fs
  pv : u.pv = t.pv
  sp : u.sp = t.sp
  iq : u.iq = t.iq
  spRead : u.spRead = t.spRead

/-- The read groups of the moves of a tile to which one has been added, when none of the others is due. -/
theorem State.readMoves_append {s : State} {ms : List SpMove} {m0 : SpMove} (hmoves : s.here.moves = ms ++ [m0])
    (hnone : ∀ m ∈ ms, m.over = false ∧ ∀ g ∈ m.reads, s.cycle < g.1) (hw : m0.writes = []) (hr : m0.reads ≠ []) :
    s.readMoves s.cur.tile = if (m0.read s.here s.cycle).reads = [] then (s.modHere fun t => { t with moves := ms }).finishMove (m0.read s.here s.cycle)
      else s.modHere fun t => { t with moves := ms ++ [m0.read s.here s.cycle] } := by
  obtain ⟨m, hm⟩ : ∃ m, m = m0.read s.here s.cycle := ⟨_, rfl⟩
  obtain ⟨pairs, hpairs⟩ : ∃ pairs, pairs = s.here.moves.map fun m => (m, m.read s.here s.cycle) := ⟨_, rfl⟩
  have hdef : s.readMoves s.cur.tile = (pairs.filter fun x => !x.1.reads.isEmpty && x.2.reads.isEmpty).foldl (fun s x => s.finishMove x.2)
      (s.modHere fun t => { t with moves := (pairs.map (·.2)).filter fun m => !m.over }) := by
    rw [hpairs]
    rfl
  have hsplit : pairs = ms.map (fun m => (m, m)) ++ [(m0, m)] := by
    rw [hpairs, hmoves, List.map_append, hm]
    exact congrArg (· ++ _) (List.map_congr_left fun m hm => by rw [SpMove.read_none (hnone m hm).2])
  have hkept : ms.filter (fun m => !m.over) = ms := filter_eq_self_of fun m hm => by simp [(hnone m hm).1]
  have hdone : (ms.map fun m => (m, m)).filter (fun x => !x.1.reads.isEmpty && x.2.reads.isEmpty) = [] :=
    List.filter_eq_nil_iff.mpr fun x hx => by
      obtain ⟨m, -, rfl⟩ := List.mem_map.mp hx
      dsimp only
      cases m.reads.isEmpty <;> decide
  have hmw : m.writes = [] := by rw [hm, SpMove.read_writes, hw]
  have hr0 : m0.reads.isEmpty = false := by simpa using hr
  have hseconds : pairs.map (·.2) = ms ++ [m] := by simp [hsplit, Function.comp_def]
  rw [hdef, hseconds, hsplit, List.filter_append, List.filter_append, hdone, hkept, ← hm]
  by_cases hreads : m.reads = []
  · have hover : m.over = true := by simp [SpMove.over, hreads, hmw]
    rw [if_pos hreads]
    simp [hover, hr0, hreads]
  · have hover : m.over = false := by simp [SpMove.over, hreads]
    have hre : m.reads.isEmpty = false := by simpa using hreads
    rw [if_neg hreads]
    simp [hover, hre]

/-- The instructions whose matrix registers alone take what their scratchpad words give (R52). -/
def Placing (i : Instr) : Prop := ∀ (s : State) (m : SpMove), m.instr = i →
  s.finishMove m = s.modTile m.fire.tile fun x => { x with m := ((s.gathered m).matTile i).m, a := ((s.gathered m).matTile i).a }

/-- An instruction's read groups begin, none of the tile's other groups being due (R52). -/
theorem State.spMove_reads {s : State} {m0 : SpMove} {i : Instr} (hi : Placing i) (hinstr : m0.instr = i) (hfire : m0.fire = s.cur)
    (hnone : noneDue s) (hw : m0.writes = []) (hr : m0.reads ≠ []) :
    let m := m0.read s.here s.cycle
    let t := s.spMove m0
    FiringFrame s t ∧ t.results = s.results ∧ t.actors = s.actors ∧ s.here.SpFrame t.here ∧
    (m.reads ≠ [] → t.here.moves = s.here.moves ++ [m] ∧ t.here.m = s.here.m ∧ t.here.a = s.here.a) ∧
    (m.reads = [] → t.here.moves = s.here.moves ∧ ∃ u : State, FiringFrame s u ∧ u.actors = s.actors ∧ u.here.m = s.here.m ∧ u.here.a = s.here.a ∧
      t.here.m = ((u.gathered m).matTile i).m ∧ t.here.a = ((u.gathered m).matTile i).a) := by
  intro m t
  obtain ⟨s0, hs0⟩ : ∃ s0 : State, s0 = s.modHere fun t => { t with moves := t.moves ++ [m0] } := ⟨_, rfl⟩
  have hhere : s0.here = { s.here with moves := s.here.moves ++ [m0] } := by rw [hs0, State.here_modHere]
  have hframe : FiringFrame s s0 := hs0 ▸ (FiringFrame.refl s).modHere _
  have hread : m0.read s0.here s0.cycle = m := by
    rw [hframe.cycle]
    exact SpMove.read_congr (by rw [hhere]) ..
  have hstep := State.readMoves_append (s := s0) (ms := s.here.moves) (m0 := m0) (by rw [hhere])
    (fun m hm => ⟨(hnone m hm).1, hframe.cycle ▸ (hnone m hm).2.1⟩) hw hr
  rw [hread] at hstep
  have hmw : m.writes = [] := hw
  by_cases hreads : m.reads = []
  · obtain ⟨u, hu⟩ : ∃ u : State, u = s0.modHere fun t => { t with moves := s.here.moves } := ⟨_, rfl⟩
    have huh : u.here = { s0.here with moves := s.here.moves } := by rw [hu, State.here_modHere]
    have huf : FiringFrame s u := hu ▸ hframe.modHere _
    have htile : m.fire.tile = u.cur.tile := by
      rw [huf.cur]
      exact congrArg Firing.tile hfire
    rw [if_pos hreads, ← hu, hi u m hinstr, htile] at hstep
    have ht : t = (u.modHere fun x => { x with m := ((u.gathered m).matTile i).m, a := ((u.gathered m).matTile i).a }).modHere
        fun t => t.writeGroups s.cycle := by
      have hstep : s0.readMoves s0.cur.tile = u.modHere fun x => { x with m := ((u.gathered m).matTile i).m, a := ((u.gathered m).matTile i).a } := hstep
      rw [← hstep, hs0]
      rfl
    have hmid := State.here_modHere u fun x => { x with m := ((u.gathered m).matTile i).m, a := ((u.gathered m).matTile i).a }
    have hth : t.here = { u.here with m := ((u.gathered m).matTile i).m, a := ((u.gathered m).matTile i).a } := by
      rw [ht, State.here_modHere, hmid, Tile.writeGroups_none]
      rw [huh]
      exact fun m' hm' => ⟨(hnone m' hm').1, (hnone m' hm').2.2⟩
    rw [hth, huh, hhere]
    refine ⟨ht ▸ (huf.modHere _).modHere _, by rw [ht, hu, hs0]; rfl, by rw [ht, hu, hs0]; rfl, ⟨rfl, rfl, rfl, rfl, rfl, rfl⟩,
      fun h => absurd hreads h, fun _ => ⟨rfl, u, huf, by rw [hu, hs0]; rfl, by rw [huh, hhere], by rw [huh, hhere], rfl, rfl⟩⟩
  · rw [if_neg hreads] at hstep
    have ht : t = (s0.modHere fun t => { t with moves := s.here.moves ++ [m] }).modHere fun t => t.writeGroups s.cycle := by
      rw [← hstep, hs0]
      rfl
    have hmid := State.here_modHere s0 fun t => { t with moves := s.here.moves ++ [m] }
    have hth : t.here = { s0.here with moves := s.here.moves ++ [m] } := by
      rw [ht, State.here_modHere, hmid, Tile.writeGroups_none]
      intro m' hm'
      rcases List.mem_append.mp hm' with hm' | hm'
      · exact ⟨(hnone m' hm').1, (hnone m' hm').2.2⟩
      · obtain rfl := List.mem_singleton.mp hm'
        exact ⟨by simp [SpMove.over, hreads], by simp [hmw]⟩
    rw [hth, hhere]
    refine ⟨ht ▸ (hframe.modHere _).modHere _, by rw [ht, hs0]; rfl, by rw [ht, hs0]; rfl, ⟨rfl, rfl, rfl, rfl, rfl, rfl⟩, fun _ => ⟨rfl, rfl, rfl⟩,
      fun h => absurd h hreads⟩

-- WHAT AN INSTRUCTION MAKES OF ITS WORDS

theorem Tile.a_mapRow_congr {t u : Tile} (h : u.a = t.a) (reg row n : Nat) (f : Nat → Nat → Nat) :
    (u.mapRow reg row n f).a = (t.mapRow reg row n f).a := by
  induction n with
  | zero => exact h
  | succ n ih =>
    rw [Tile.mapRow_succ, Tile.mapRow_succ, Tile.ael_congr ih]
    unfold Tile.setAel
    rw [ih]

theorem Tile.a_mapRows_congr {t u : Tile} (h : u.a = t.a) (reg lo n : Nat) (f : Nat → Nat → Nat → Nat) :
    (u.mapRows reg lo n f).a = (t.mapRows reg lo n f).a := by
  induction n with
  | zero => exact h
  | succ n ih =>
    rw [Tile.mapRows_succ, Tile.mapRows_succ]
    exact Tile.a_mapRow_congr ih ..

theorem State.gathered_cur (s : State) (m : SpMove) : (s.gathered m).cur = m.fire := State.modCtx_cur ..

theorem State.gathered_here {s : State} {m : SpMove} (hfire : m.fire = s.cur) :
    (s.gathered m).here = { s.here with sp := m.got, banks := Sparse.set s.here.banks m.fire.bank m.bank } := by
  refine (State.here_modHere ..).trans ?_
  have hhere : (({ s with cur := m.fire } : State).modCtx ({ s with cur := m.fire } : State).me.ctx fun c => { c with cbs := m.cbs }).here = s.here := by
    unfold State.here State.tile
    rw [State.modCtx_tiles, State.modCtx_cur, hfire]
  rw [hhere]

theorem State.gathered_bk {s : State} {m : SpMove} (hfire : m.fire = s.cur) : (s.gathered m).bk = m.bank := by
  change (s.gathered m).here.bank (s.gathered m).cur.bank = m.bank
  rw [State.gathered_here hfire, State.gathered_cur]
  exact Sparse.get_set_same ..

theorem State.gathered_cb {s : State} {m : SpMove} (hfire : m.fire = s.cur) (n : Nat) :
    (s.gathered m).cb n = if (s.ctx? s.me.ctx).isSome then Sparse.get m.cbs 0 n else 0 := by
  have hme : (s.gathered m).me = s.me := by
    unfold State.me
    rw [State.gathered_cur, hfire]
    exact State.actor_congr (State.modCtx_actors ..) _
  have hme' : ({ s with cur := m.fire } : State).me = s.me := by rw [hfire]
  have hctx : (s.gathered m).ctx? s.me.ctx = (s.ctx? s.me.ctx).map fun c => { c with cbs := m.cbs } := by
    change (({ s with cur := m.fire } : State).modCtx ({ s with cur := m.fire } : State).me.ctx fun c => { c with cbs := m.cbs }).ctx? s.me.ctx = _
    rw [State.ctx?_modCtx, hme', if_pos rfl]
    rfl
  unfold State.cb
  rw [hme, hctx]
  cases s.ctx? s.me.ctx <;> rfl

/-- The firing whose words have been read has the same operands, wherever the tile's own groups stand by then. -/
theorem SameOperands.gathered {s u : State} (h : FiringFrame s u) (hact : u.actors = s.actors) (hm : u.here.m = s.here.m) {m : SpMove}
    (hfire : m.fire = s.cur) : SameOperands (s.gathered m) (u.gathered m) := by
  have hfire' : m.fire = u.cur := hfire.trans h.cur.symm
  refine ⟨?_, ?_, ?_, ?_⟩
  · rw [State.gathered_bk hfire, State.gathered_bk hfire']
  · funext n
    have hme : u.me = s.me := by
      unfold State.me
      rw [h.cur]
      exact State.actor_congr hact _
    have hctx : u.ctx? s.me.ctx = s.ctx? s.me.ctx := State.ctx?_congr (by rw [h.rest]) _
    rw [State.gathered_cb hfire, State.gathered_cb hfire', hme, hctx]
  · rw [State.gathered_here hfire, State.gathered_here hfire']
    exact hm
  · rw [State.gathered_here hfire, State.gathered_here hfire']

/-- The instructions that act on the registers, the codebooks and the words read alone. -/
def Acting (i : Instr) : Prop := ∀ s t : State, SameOperands s t → t.here.a = s.here.a →
  (t.matTile i).m = (s.matTile i).m ∧ (t.matTile i).a = (s.matTile i).a

theorem mmaTile_acting {s t : State} (h : SameOperands s t) (ha : t.here.a = s.here.a) (tr za : Bool) (f : Fmt) (d : Fin 4) (a b : MSrc) (gx : Fin 16) :
    (t.mmaTile tr za f d a b gx).m = (s.mmaTile tr za f d a b gx).m ∧ (t.mmaTile tr za f d a b gx).a = (s.mmaTile tr za f d a b gx).a := by
  rw [h.mmaTile, mmaTile_eq]
  refine ⟨?_, Tile.a_mapRows_congr ha ..⟩
  rw [(Tile.accFrame_mapRows ..).m, (Tile.accFrame_mapRows ..).m, h.m]

theorem acting_mma (tr fwd za : Bool) (f : Fmt) (d : Fin 4) (a b : MSrc) (gx : Fin 16) :
    Acting (if tr then .mmat fwd za f d a b gx else .mma fwd za f d a b gx) := by
  intro s t h ha
  cases tr
  · exact mmaTile_acting h ha ..
  · exact mmaTile_acting h ha ..

theorem placing_mma (tr fwd za : Bool) (f : Fmt) (d : Fin 4) (a b : MSrc) (gx : Fin 16) :
    Placing (if tr then .mmat fwd za f d a b gx else .mma fwd za f d a b gx) := by
  intro s m hm
  unfold State.finishMove
  cases tr
  · rw [hm]
    rfl
  · rw [hm]
    rfl

/-- A matrix firing with read groups begins them (R52, R323). -/
theorem matrix_spReads {s : State} {i : Instr} {l busy : Nat} {ws : List Wr} {gs : List (List Nat)} (hx : exec i s =
      .next (((s.useRead (groupCosts gs)).mat l busy ws none).spReads i l (s.cycle + s.readWait) gs))
    (hp : Placing i) (ha : Acting i) (hnone : noneDue s) (hgs : gs ≠ []) : Matrix i s ws fun t => ReadsIn s t i l ws gs := by
  obtain ⟨s0, hs0⟩ : ∃ s0 : State, s0 = (s.useRead (groupCosts gs)).mat l busy ws none := ⟨_, rfl⟩
  have hframe : FiringFrame s s0 := hs0 ▸ ((FiringFrame.refl s).modHere _).mat ..
  have hhere : s0.here = { s.here with spRead := s.cycle + s.readWait + groupCosts gs, arrBusy := s.cycle + busy } := by
    rw [hs0, State.mat, State.here_modHere, State.here_issue, State.useRead, State.here_modHere]
    rfl
  have hact : s0.actors = s.actors := by rw [hs0]; rfl
  have hres : s0.results = s.results ++ [⟨s.cycle + l, s.cur, ws, none⟩] := by rw [hs0]; rfl
  obtain ⟨m0, hm0⟩ : ∃ m0 : SpMove, m0 = ⟨s.cur, i, s.cycle + l, s.bk, s.books, groupStarts (s.cycle + s.readWait) gs, [], [], []⟩ := ⟨_, rfl⟩
  have hbk : s0.bk = s.bk := by
    change s0.here.bank s0.cur.bank = s.here.bank s.cur.bank
    rw [hhere, hframe.cur]
    rfl
  have hbooks : s0.books = s.books := by rw [hs0]; rfl
  rw [← hs0] at hx
  have hmove : s0.spReads i l (s.cycle + s.readWait) gs = s0.spMove m0 := by
    rw [hm0, ← hbk, ← hbooks, ← hframe.cycle, ← hframe.cur]
    rfl
  rw [hmove] at hx
  have hreads0 : m0.reads ≠ [] := by
    cases gs with
    | nil => exact absurd rfl hgs
    | cons g gs => simp [hm0, groupStarts]
  have hnone0 : noneDue s0 := by
    unfold noneDue
    rw [hhere, hframe.cycle]
    exact hnone
  obtain ⟨hf, hr, hac, hsp, hlate, hnow⟩ := State.spMove_reads (s := s0) (m0 := m0) hp (by rw [hm0]) (by rw [hm0, hframe.cur]) hnone0 (by rw [hm0]) hreads0
  have hread : m0.read s0.here s0.cycle = m0.read s.here s.cycle := by
    rw [hframe.cycle]
    exact SpMove.read_congr (by rw [hhere]) ..
  rw [hread] at hlate hnow
  have hft := hframe.trans hf
  have hafter := hft.after
  refine hft.matrix hx (hr.trans hres) (hsp.banks.trans (by rw [hhere])) (hsp.fs.trans (by rw [hhere]))
    ⟨hr.trans hres, hac.trans hact, ?_, ?_, ?_, ?_, fun h => ?_, fun h => ?_⟩
  · exact (congrArg Tile.pv hafter).trans (hsp.pv.trans (by rw [hhere]))
  · exact (congrArg Tile.sp hafter).trans (hsp.sp.trans (by rw [hhere]))
  · exact (congrArg Tile.iq hafter).trans (hsp.iq.trans (by rw [hhere]))
  · exact (congrArg Tile.spRead hafter).trans (hsp.spRead.trans (by rw [hhere]; rfl))
  · subst hm0
    obtain ⟨h1, h2, h3⟩ := hlate h
    exact ⟨(congrArg Tile.moves hafter).trans (h1.trans (by rw [hhere]; rfl)), (congrArg Tile.m hafter).trans (h2.trans (by rw [hhere])),
      (congrArg Tile.a hafter).trans (h3.trans (by rw [hhere]))⟩
  · subst hm0
    obtain ⟨h1, u, hu, hua, hum, huacc, h2, h3⟩ := hnow h
    have hfu := hframe.trans hu
    obtain ⟨m, hm⟩ : ∃ m, m = SpMove.read s.here s.cycle
      ⟨s.cur, i, s.cycle + l, s.bk, s.books, groupStarts (s.cycle + s.readWait) gs, [], [], []⟩ := ⟨_, rfl⟩
    have hfire : m.fire = s.cur := by rw [hm]; rfl
    have hops := SameOperands.gathered hfu (hua.trans hact) (hum.trans (by rw [hhere])) hfire
    have hacc : (u.gathered m).here.a = (s.gathered m).here.a := by
      rw [State.gathered_here hfire, State.gathered_here (hfire.trans hfu.cur.symm)]
      exact huacc.trans (by rw [hhere])
    obtain ⟨hmm, hma⟩ := ha _ _ hops hacc
    subst hm
    exact ⟨(congrArg Tile.moves hafter).trans (h1.trans (by rw [hhere])), (congrArg Tile.m hafter).trans (h2.trans hmm),
      (congrArg Tile.a hafter).trans (h3.trans hma)⟩

end Sys2Proof.Machine
end

section
/-! SUPPORT. MMA and MMAT with scratchpad operands (R323, R339). -/

namespace Sys2Proof.Machine
open Sys2Proof.Spec

theorem spGroups_ne_nil {ds : Dsc} {per fuel : Nat} {spans : List (Nat × Nat)} (h : spans ≠ []) : spGroups ds per (fuel + 1) spans ≠ [] := by
  cases spans with
  | nil => exact absurd rfl h
  | cons x xs => simp [spGroups, chunksOf]

theorem rowSpans_ne_nil {ds : Dsc} {t r n len : Nat} (h : n ≠ 0) : rowSpans ds t r n len ≠ [] := by simpa [rowSpans] using h

theorem kdim_ne_zero (f : Fmt) : kdim f ≠ 0 := by cases f <;> simp [kdim, Fmt.bits, Fmt.lanes]

theorem bGroups_sp_ne_nil (s : State) (tr : Bool) (f : Fmt) (p : Fin 8) (tile : Nat) : bGroups s (.sp p) (bSpans s tr f (.sp p) tile) ≠ [] := by
  refine spGroups_ne_nil (fuel := 256) ?_
  cases tr
  · exact rowSpans_ne_nil (kdim_ne_zero f)
  · exact rowSpans_ne_nil (n := 64) (by decide)

theorem groupCosts_append (a b : List (List Nat)) : groupCosts (a ++ b) = groupCosts a + groupCosts b := by
  unfold groupCosts
  rw [List.map_append, List.sum_append]

/-- MMA of a register A and a scratchpad B begins B's groups. -/
theorem mma_register_scratch {s : State} {tr fwd za : Bool} {f : Fmt} {d : Fin 4} {m p : Fin 8} {gx : Fin 16} {el : Nat → Nat → Option (Bool × ℚ)}
    (hplain : plain s [gx]) (hb : bGood s tr f (.sp p) (rowWord (s.g gx).val).tile el)
    (hr : rowGood (rowWord (s.g gx).val) true true (pitchOf s (.sp p)))
    (hm : ∀ k < 2 * (rowWord (s.g gx).val).count, (matPair f (s.here.mblk m.val (2 * (rowWord (s.g gx).val).srow + k)).pair).isSome = true)
    (hnone : noneDue s) :
    let i : Instr := if tr then .mmat fwd za f d (.m m) (.sp p) gx else .mma fwd za f d (.m m) (.sp p) gx
    let bg := bGroups s (.sp p) (bSpans s tr f (.sp p) (rowWord (s.g gx).val).tile)
    Matrix i s [.chain d.val] fun t => ReadsIn s t i (rowCycles f * (rowWord (s.g gx).val).count + 7 + (groupCosts bg + 3) + readLag s)
      [.chain d.val] bg := by
  intro i bg
  have hbg : bg ≠ [] := bGroups_sp_ne_nil s tr f p _
  have hx := exec_mma tr fwd za f d (.m m) (.sp p) gx s
  rw [mma_register hplain hb hr hm] at hx
  refine matrix_spReads (busy := rowCycles f * (rowWord (s.g gx).val).count + 7 + (groupCosts bg + 3) + readLag s - 7) (hx.trans ?_) (placing_mma _ _ _ _ _ _ _ _) (acting_mma _ _ _ _ _ _ _ _) hnone hbg
  dsimp only
  rw [if_neg hbg, if_neg hbg]
  rfl

/-- MMA of a scratchpad A begins B's groups, if any, and then A's. -/
theorem mma_scratch {s : State} {tr fwd za : Bool} {f : Fmt} {d : Fin 4} {p : Fin 8} {b : MSrc} {gx : Fin 16} {el : Nat → Nat → Option (Bool × ℚ)}
    (hplain : plain s [gx]) (hb : bGood s tr f b (rowWord (s.g gx).val).tile el)
    (hr : rowGood (rowWord (s.g gx).val) true true (pitchOf s (.sp p) ++ pitchOf s b))
    (ha : spGood s p (f.bits / 8) (rowSpans (s.dsc p) (rowWord (s.g gx).val).tile (rowWord (s.g gx).val).srow (rowWord (s.g gx).val).count 128))
    (hnone : noneDue s) :
    let i : Instr := if tr then .mmat fwd za f d (.sp p) b gx else .mma fwd za f d (.sp p) b gx
    let bg := bGroups s b (bSpans s tr f b (rowWord (s.g gx).val).tile)
    let ag := spGroups (s.dsc p) 1 65 (rowSpans (s.dsc p) (rowWord (s.g gx).val).tile (rowWord (s.g gx).val).srow (rowWord (s.g gx).val).count 128)
    Matrix i s [.chain d.val] fun t => ReadsIn s t i
      (rowCycles f * (rowWord (s.g gx).val).count + 7 + 4 + (groupCosts ag - (rowWord (s.g gx).val).count) +
        (if bg = [] then 0 else groupCosts bg + 3) + readLag s) [.chain d.val] (bg ++ ag) := by
  intro i bg ag
  obtain ⟨ht1, ht2, hdsc⟩ := ha
  have hag : ag ≠ [] := spGroups_ne_nil (fuel := 64) (rowSpans_ne_nil (by have := hr.2.1; omega))
  have htok : ∀ x ∈ srcRegs s (.sp p) ++ srcRegs s b ++ [s.g gx], x.isTok = false := by
    intro x hx
    rcases List.mem_append.mp hx with hx | hx
    · rcases List.mem_append.mp hx with hx | hx
      · exact (by simpa [srcRegs] using ⟨ht1, ht2⟩ : ∀ x ∈ srcRegs s (.sp p), x.isTok = false) x hx
      · exact bGood_srcRegs hb x hx
    · exact List.mem_singleton.mp hx ▸ hplain gx (by simp)
  have hcost : bCost b bg = if bg = [] then 0 else groupCosts bg + 3 := by
    cases b with
    | m r => rfl
    | sp q => exact (if_neg (bGroups_sp_ne_nil s tr f q _)).symm
    | queue q => exact absurd hb id
  have hrun : mma s i tr fwd za f d (.sp p) b gx = ((s.useRead (groupCosts (bg ++ ag))).mat
      (rowCycles f * (rowWord (s.g gx).val).count + 7 + 4 + (groupCosts ag - (rowWord (s.g gx).val).count) + bCost b bg + s.readWait)
      (rowCycles f * (rowWord (s.g gx).val).count + 7 + 4 + (groupCosts ag - (rowWord (s.g gx).val).count) + bCost b bg + s.readWait - 7)
      [.chain d.val] none).spReads i (rowCycles f * (rowWord (s.g gx).val).count + 7 + 4 + (groupCosts ag - (rowWord (s.g gx).val).count) +
        bCost b bg + s.readWait) (s.cycle + s.readWait) (bg ++ ag) := by
    unfold mma
    dsimp only
    rw [tokCheck_none htok, srcPitch_eq, srcPitch_eq, rowCheck_rowGood hr, bGood_srcCheck hb]
    rw [groupCosts_append, Nat.add_comm (groupCosts bg)]
    refine (spCheck_none hdsc _).trans (if_neg (show ¬ (!blksFit f (bBlks s b)) = true from ?_))
    rw [(blksFit_iff f _).mpr (bBlks_fit hb)]
    decide
  rw [← hcost]
  exact matrix_spReads ((exec_mma tr fwd za f d (.sp p) b gx s).trans (congrArg Host.Outcome.next hrun)) (placing_mma _ _ _ _ _ _ _ _) (acting_mma _ _ _ _ _ _ _ _) hnone
    (by simp [hag])

end Sys2Proof.Machine
end

section
/-! SUPPORT. Rows of queues (R237, R318): how the queue forms of the matrix unit take a row, and MMA of one (R323, R324). -/

namespace Sys2Proof.Machine
open Sys2Proof.Spec

-- QUEUES

@[simp] theorem Tile.queue_setQueue (t : Tile) (q k : Nat) (es : List Entry) : (t.setQueue q es).queue k = if k = q then es else t.queue k := by
  unfold Tile.setQueue Tile.queue
  dsimp only
  split
  · next h =>
    rw [Sparse.get_del]
    subst h
    rfl
  · exact Sparse.get_set ..

theorem rowEntries_prefix (es : List Entry) (n : Nat) : rowEntries es n <+: es := by
  induction n generalizing es with
  | zero => simp [rowEntries]
  | succ n ih =>
    cases es with
    | nil => simp [rowEntries]
    | cons e es =>
      unfold rowEntries
      dsimp only
      split
      · exact ⟨es, rfl⟩
      · exact List.cons_prefix_cons.mpr ⟨rfl, ih es⟩

theorem rowEntries_length (es : List Entry) (n : Nat) : (rowEntries es n).length ≤ n := by
  induction n generalizing es with
  | zero => simp [rowEntries]
  | succ n ih =>
    cases es with
    | nil => simp [rowEntries]
    | cons e es =>
      unfold rowEntries
      dsimp only
      split
      · simp
      · exact Nat.succ_le_succ (ih es)

theorem take_rowEntries (es : List Entry) (n : Nat) : es.take (rowEntries es n).length = rowEntries es n :=
  (List.prefix_iff_eq_take.mp (rowEntries_prefix es n)).symm

theorem State.consume_frame (s : State) (q n : Nat) : FiringFrame s (s.consume q n) := ((FiringFrame.refl s).modHere _).modMe _
theorem State.consume_here (s : State) (q n : Nat) : (s.consume q n).here = s.here.setQueue q ((s.here.queue q).drop n) := by
  unfold State.consume
  rw [State.here_modMe, State.here_modHere]
theorem State.consume_me (s : State) (q n : Nat) :
    (s.consume q n).me = { s.me with retained := s.me.retained ++ ((s.here.queue q).take n).map fun e => (q, e) } := by
  unfold State.consume
  rw [State.me_modMe, State.me_modHere]

theorem State.takeRow_frame (s : State) (q n : Nat) : FiringFrame s (s.takeRow q n) := (s.consume_frame q n).modMe _
theorem State.takeRow_here (s : State) (q n : Nat) : (s.takeRow q n).here = s.here.setQueue q ((s.here.queue q).drop n) := s.consume_here q n
theorem State.takeRow_me (s : State) (q n : Nat) : (s.takeRow q n).me =
    { s.me with
      retained := s.me.retained ++ ((s.here.queue q).take n).map fun e => (q, e)
      rc := Sparse.set s.me.rc q (Sparse.get s.me.rc 0 q + 1) } := by
  unfold State.takeRow
  rw [State.me_modMe, State.consume_me]

/-- A state whose queues, row counters and retained input are those after a row has been taken. -/
structure TookRow (s t : State) (q n : Nat) : Prop where
  frame : FiringFrame s t
  iq : t.here.iq = (s.takeRow q n).here.iq
  rc : t.me.rc = (s.takeRow q n).me.rc
  retained : t.me.retained = (s.takeRow q n).me.retained

theorem TookRow.refl (s : State) (q n : Nat) : TookRow s (s.takeRow q n) q n := ⟨s.takeRow_frame q n, rfl, rfl, rfl⟩

theorem Tile.queue_congr {t u : Tile} (h : u.iq = t.iq) (k : Nat) : u.queue k = t.queue k := by
  unfold Tile.queue
  rw [h]

/-- The row has been taken as the statements say it. -/
theorem TookRow.rowTaken {s t : State} {q : Fin 8} {n : Nat} (h : TookRow s t q.val (rowEntries (s.here.queue q.val) n).length) :
    rowTaken s t q (rowEntries (s.here.queue q.val) n) := by
  have hq : ∀ k, (after s t).queue k = _ := fun k => by
    rw [h.frame.after, Tile.queue_congr h.iq k, State.takeRow_here, Tile.queue_setQueue]
  refine ⟨(hq _).trans (if_pos rfl), fun k hk => (hq k).trans (if_neg hk), ?_, ?_⟩
  · rw [h.frame.actor, h.rc, State.takeRow_me]
    exact Sparse.get_set_same ..
  · rw [h.frame.actor, h.retained, State.takeRow_me, List.take_length]
    exact congrArg (fun es => s.me.retained ++ es.map fun e => (q.val, e)) (take_rowEntries ..)

-- THE FRAME OF THE QUEUE FORMS

theorem State.headKind_data {s : State} {q : Nat} {e : Entry} (h : s.head q = some e) (hd : dataFlit e) : s.headKind q = .data e := by
  unfold State.headKind
  rw [h]
  simp [hd.1, hd.2]

/-- What a queue form does once it has taken its row: the row limit, then a token among the flits, then its body (R316, R318). -/
def afterRow (s1 : State) (es : List Entry) (row : Nat) (body : State → List Entry → Nat → State) : State :=
  if 64 ≤ row then matError s1 none .bounds Cause.rowRange 0
  else match firstVTok ((List.range es.length).map (rowFlit es)) with
    | some x => matRefuse s1 none (passV x) GReg.zero
    | none => body s1 es row

theorem afterRow_limit {s1 : State} {es : List Entry} {row : Nat} (h : 64 ≤ row) (body : State → List Entry → Nat → State) :
    afterRow s1 es row body = matError s1 none .bounds Cause.rowRange 0 := if_pos h

theorem afterRow_token {s1 : State} {es : List Entry} {row : Nat} (h : row < 64) {x : VReg}
    (hx : firstVTok ((List.range es.length).map (rowFlit es)) = some x) (body : State → List Entry → Nat → State) :
    afterRow s1 es row body = matRefuse s1 none (passV x) GReg.zero := by
  unfold afterRow
  rw [if_neg (Nat.not_le.mpr h), hx]

theorem afterRow_body {s1 : State} {es : List Entry} {row : Nat} (h : row < 64)
    (hx : firstVTok ((List.range es.length).map (rowFlit es)) = none) (body : State → List Entry → Nat → State) :
    afterRow s1 es row body = body s1 es row := by
  unfold afterRow
  rw [if_neg (Nat.not_le.mpr h), hx]

/-- A queue form whose row word is clean and whose row holds data takes the row. -/
theorem queueRow_taken {s : State} {gx : Fin 16} {q : Fin 8} {n : Nat} {es : List Entry} (hp : plain s [gx])
    (hc : (rowWord (s.g gx).val).clean = true) (hrow : rowAt s q n es) (body : State → List Entry → Nat → State) :
    queueRow s gx q n body = afterRow (s.takeRow q.val es.length) es ((rowWord (s.g gx).val).drow + s.rcOf q.val) body := by
  obtain ⟨⟨e, he, hd⟩, hes, hpoi⟩ := hrow
  have hfind : es.find? (·.hdr.poi) = none := List.find?_eq_none.mpr fun x hx => by simp [hpoi x hx]
  unfold queueRow
  dsimp only
  rw [tokCheck_none (fun x hx => List.mem_singleton.mp hx ▸ hp gx (by simp)),
    rowCheck_good hc (fun h => absurd h (by decide)) (.inr (by simp)) (fun h => absurd h (by decide)) (fun h => absurd h (by decide)),
    State.headKind_data he hd, ← hes]
  dsimp only
  rw [hfind]
  rfl

theorem State.head_queue {s : State} {q : Nat} {e : Entry} (h : s.head q = some e) : (s.here.queue q).head? = some e ∧ s.me.item.isSome = true := by
  unfold State.head at h
  split at h
  · next i e' hi he =>
    split at h
    · cases h
      exact ⟨he, by rw [hi]; rfl⟩
    · exact absurd h (by simp)
  · exact absurd h (by simp)

/-- A queue form whose row holds a poisoned flit. -/
theorem queueRow_poisoned {s : State} {gx : Fin 16} {q : Fin 8} {n : Nat} {x y : Entry} (hp : plain s [gx])
    (hc : (rowWord (s.g gx).val).clean = true) (hx : s.head q.val = some x) (hb : x.bare = false)
    (hy : (rowEntries (s.here.queue q.val) n).find? (fun e => e.hdr.poi) = some y) (body : State → List Entry → Nat → State) :
    queueRow s gx q n body = s.poisonRow q.val (rowEntries (s.here.queue q.val) n).length y.hdr.err := by
  unfold queueRow
  dsimp only
  rw [tokCheck_none (fun x hx => List.mem_singleton.mp hx ▸ hp gx (by simp)),
    rowCheck_good hc (fun h => absurd h (by decide)) (.inr (by simp)) (fun h => absurd h (by decide)) (fun h => absurd h (by decide))]
  by_cases hpoi : x.hdr.poi = true
  · have hkind : s.headKind q.val = .poison x.hdr.err := by
      unfold State.headKind
      rw [hx]
      simp [hpoi]
    rw [hkind]
    have hxy : x = y := by
      obtain ⟨r, hr⟩ := List.head?_eq_some_iff.mp (State.head_queue hx).1
      rw [hr] at hy
      cases n with
      | zero => simp [rowEntries] at hy
      | succ n =>
        unfold rowEntries at hy
        dsimp only at hy
        split at hy <;> simpa [hpoi] using hy
    rw [hxy]
  · rw [State.headKind_data hx ⟨by simpa using hpoi, hb⟩]
    dsimp only
    rw [hy]

-- FLITS

theorem matPair_token (f : Fmt) : matPair f Pair.token = none := rfl

theorem rowFlit_not_token {f : Fmt} {x : VReg} (h : (matPair f x.pair).isSome = true) : x.isTok = false := by
  unfold VReg.isTok
  refine decide_eq_false fun he => ?_
  rw [he, matPair_token] at h
  exact absurd h (by decide)

/-- An element of a queue row; one of a missing flit is +0 (R318). -/
theorem rowElt_holds {s : State} {f : Fmt} {es : List Entry} {k : Nat} {p : Bool × ℚ}
    (h : (if k / f.lanes < es.length then blockElt s f (rowFlit es (k / f.lanes)) (k % f.lanes) else some (false, 0)) = some p) :
    (rowElt s.cb f es k).Holds p.1 p.2 := by
  unfold rowElt
  rw [Fmt.lanes_eq]
  split at h
  · next hlt =>
    rw [if_pos hlt]
    exact blockElt_holds h
  · next hge =>
    cases h
    rw [if_neg hge]
    exact ⟨0, 0, rfl, by simp⟩

-- EMISSION

/-- Flits placed in the hold store one after another. -/
def State.emitAll (s : State) (oq : Nat) (ys : List VReg) : State := ys.foldl (fun x y => x.emit oq y) s

/-- What emission leaves: the hold store grows, and the item's first header may be fixed. -/
theorem State.emitAll_spec (s : State) (oq : Nat) (ys : List VReg) : FiringFrame s (s.emitAll oq ys) ∧ (s.emitAll oq ys).here = s.here ∧
    (s.emitAll oq ys).results = s.results ∧ ∃ it, it.isSome = s.me.item.isSome ∧
      (s.emitAll oq ys).me = { s.me with hold := s.me.hold ++ ys.map (fun y => ⟨oq, y⟩), item := it } := by
  induction ys generalizing s with
  | nil => exact ⟨.refl s, rfl, rfl, s.me.item, rfl, by simp [State.emitAll]⟩
  | cons y ys ih =>
    obtain ⟨hf, hh, hr, it, hit, hme⟩ := ih (s.emit oq y)
    have hme1 : (s.emit oq y).me = { s.me with hold := s.me.hold ++ [⟨oq, y⟩], item := s.me.item.map fun i => i.emitted s.me.hs } := State.me_modMe ..
    refine ⟨((FiringFrame.refl s).modMe _).trans hf, hh.trans rfl, hr.trans rfl, it, ?_, ?_⟩
    · rw [hit, hme1]
      exact Option.isSome_map
    · refine hme.trans ?_
      rw [hme1]
      simp

end Sys2Proof.Machine
end

section
/-! SUPPORT. MMA and MMAT of a queue row (R318, R323, R324). -/

namespace Sys2Proof.Machine
open Sys2Proof.Spec

/-- The accumulators after a firing that changes one row of one of them. -/
theorem aAfter_mapRow {s t : State} {u : Tile} {reg row : Nat} {f : Nat → Nat → Nat} (ht : after s t = u.mapRow reg row 64 f)
    (hu : u.a = s.here.a) (hrow : row < 64) {P : Nat → Nat → Nat → Prop}
    (hP : ∀ j, j < 64 → P row j (f j (s.here.ael reg row j) % 2 ^ 32)) : aAfter s t reg row (row + 1) P := by
  have hrows : u.mapRow reg row 64 f = u.mapRows reg row 1 fun _ => f := by
    rw [Tile.mapRows_succ]
    rfl
  refine aAfter_mapRows (ht.trans hrows) hu hrow fun i j h1 h2 hj => ?_
  obtain rfl : i = row := by omega
  exact hP j hj

/-- What the firing's tile keeps of its state when a row has been taken and an accumulator changed. -/
theorem matrix_tookRow {i : Instr} {s t : State} {q : Fin 8} {n l : Nat} {d : Nat} {P : State → Prop}
    (hx : exec i s = .next t) (h : TookRow s t q.val (rowEntries (s.here.queue q.val) n).length)
    (hk : (s.takeRow q.val (rowEntries (s.here.queue q.val) n).length).here.AccFrame t.here)
    (hr : t.results = s.results ++ [⟨s.cycle + l, s.cur, [.chain d], none⟩]) (hP : P t) :
    Matrix i s [.chain d] fun t => rowTaken s t q (rowEntries (s.here.queue q.val) n) ∧ keepsM s t ∧ keepsPv s t ∧ keepsSp s t ∧ P t := by
  have hh := s.takeRow_here q.val (rowEntries (s.here.queue q.val) n).length
  have hafter := h.frame.after
  refine h.frame.matrix hx hr (hk.banks.trans (by rw [hh]; rfl)) (hk.fs.trans (by rw [hh]; rfl)) ⟨h.rowTaken, ?_, ?_, ?_, hP⟩
  · exact (congrArg Tile.m hafter).trans (hk.m.trans (by rw [hh]; rfl))
  · exact (congrArg Tile.pv hafter).trans (hk.pv.trans (by rw [hh]; rfl))
  · exact (congrArg Tile.sp hafter).trans (hk.sp.trans (by rw [hh]; rfl))

/-- A row of flits that are no tokens passes its check. -/
theorem firstVTok_rowFlit {es : List Entry} {n : Nat} (hn : es.length ≤ n) (h : ∀ k < n, (rowFlit es k).isTok = false) :
    firstVTok ((List.range es.length).map (rowFlit es)) = none := by
  refine firstVTok_none fun x hx => ?_
  obtain ⟨k, hk, rfl⟩ := List.mem_map.mp hx
  exact h k ((List.mem_range.mp hk).trans_le hn)

/-- The flits that MMA.fwd places in the hold store. -/
theorem foldl_emit (s : State) (oq : Nat) (es : List Entry) :
    es.foldl (fun x e => x.emit oq ⟨e.data, ⟨e.hdr.fmt, e.hdr.scale⟩⟩) s = s.emitAll oq (es.map fun e => ⟨e.data, ⟨e.hdr.fmt, e.hdr.scale⟩⟩) :=
  List.foldl_map.symm

/-- MMA of a queue row accumulates into one row (R97, R318, R323, R324). -/
theorem mma_queueRow {s : State} {tr fwd za : Bool} {f : Fmt} {d : Fin 4} {q m : Fin 8} {gx : Fin 16} {el : Nat → Nat → Option (Bool × ℚ)}
    {es : List Entry} (hplain : plain s [gx]) (hb : bGood s tr f (.m m) (rowWord (s.g gx).val).tile el)
    (hc : (rowWord (s.g gx).val).clean = true) (hes : rowAt s q 2 es)
    (hrow : (rowWord (s.g gx).val).drow + s.rcOf q.val < 64) (hfit : ∀ k < 2, (matPair f (rowFlit es k).pair).isSome = true) :
    Matrix (if tr then .mmat fwd za f d (.queue q) (.m m) gx else .mma fwd za f d (.queue q) (.m m) gx) s [.chain d.val] fun t =>
      rowTaken s t q es ∧ keepsM s t ∧ keepsPv s t ∧ keepsSp s t ∧
      (t.actor s.cur.actor).hold = s.me.hold ++ (if fwd then es.map fun e =>
          ⟨s.cur.trig.toNat / 2 ^ 4 % 8, ⟨e.data, ⟨e.hdr.fmt, e.hdr.scale⟩⟩⟩ else []) ∧
      aAfter s t d.val ((rowWord (s.g gx).val).drow + s.rcOf q.val) ((rowWord (s.g gx).val).drow + s.rcOf q.val + 1) fun i j y =>
        MmaElt s za f d.val i j (fun k => if k / f.lanes < es.length then blockElt s f (rowFlit es (k / f.lanes)) (k % f.lanes) else some (false, 0))
          (fun k => el k j) y := by
  obtain ⟨row, hrw⟩ : ∃ row, row = (rowWord (s.g gx).val).drow + s.rcOf q.val := ⟨_, rfl⟩
  have hesr := hes.2.1
  obtain ⟨s1, hs1⟩ : ∃ s1 : State, s1 = s.takeRow q.val es.length := ⟨_, rfl⟩
  obtain ⟨fn, hfn⟩ : ∃ fn, fn = mmaFn za f (rowElt s.cb f es) (bElts s tr f (.m m) (rowWord (s.g gx).val).tile) := ⟨_, rfl⟩
  obtain ⟨s2, hs2⟩ : ∃ s2 : State, s2 = (s1.mat (rowCycles f + 7) (rowCycles f) [.chain d.val] none).modHere fun t => t.mapRow d.val row 64 fn := ⟨_, rfl⟩
  obtain ⟨t, ht⟩ : ∃ t : State, t = if fwd = true then s2.emitAll (trigOq s.cur.trig) (es.map fun e => ⟨e.data, ⟨e.hdr.fmt, e.hdr.scale⟩⟩) else s2 := ⟨_, rfl⟩
  have hx : exec (if tr then .mmat fwd za f d (.queue q) (.m m) gx else .mma fwd za f d (.queue q) (.m m) gx) s = .next t := by
    refine (exec_mma tr fwd za f d (.queue q) (.m m) gx s).trans (congrArg Host.Outcome.next ?_)
    unfold mma
    dsimp only
    refine (queueRow_taken hplain hc hes _).trans ((afterRow_body hrow (firstVTok_rowFlit (hesr ▸ rowEntries_length _ 2) fun k hk => rowFlit_not_token (hfit k hk)) _).trans ?_)
    have hblk : blksFit f ((List.range 2).map (rowFlit es) ++ bBlks s (.m m)) = true := by
      rw [blksFit_iff]
      intro x hx
      rcases List.mem_append.mp hx with hx | hx
      · obtain ⟨k, hk, rfl⟩ := List.mem_map.mp hx
        exact hfit k (List.mem_range.mp hk)
      · exact bBlks_fit hb x hx
    refine (if_neg (show ¬ (!blksFit f ((List.range 2).map (rowFlit es) ++ bBlks s (.m m))) = true by rw [hblk]; decide)).trans ?_
    rw [ht, hs2, hs1, hfn, hrw, ← foldl_emit]
    rfl
  have hf1 : FiringFrame s s2 := hs2 ▸ ((hs1 ▸ s.takeRow_frame q.val es.length).mat ..).modHere _
  have hh2 : s2.here = Tile.mapRow { s1.here with arrBusy := s1.cycle + rowCycles f } d.val row 64 fn := by
    rw [hs2, State.here_modHere, State.mat, State.here_modHere, State.here_issue]
  have hme2 : s2.me = s1.me := by rw [hs2]; rfl
  have hr2 : s2.results = s.results ++ [⟨s.cycle + (rowCycles f + 7), s.cur, [.chain d.val], none⟩] := by rw [hs2, hs1]; rfl
  obtain ⟨hft, hht, hrt, hit⟩ : FiringFrame s t ∧ t.here = s2.here ∧ t.results = s2.results ∧ ∃ it, t.me =
      { s1.me with hold := s1.me.hold ++ (if fwd then es.map fun e => ⟨trigOq s.cur.trig, ⟨e.data, ⟨e.hdr.fmt, e.hdr.scale⟩⟩⟩ else []), item := it } := by
    rw [ht]
    cases fwd
    · exact ⟨hf1, rfl, rfl, s2.me.item, by rw [← hme2]; simp⟩
    · obtain ⟨hf, hh, hr, it, -, hme⟩ := s2.emitAll_spec (trigOq s.cur.trig) (es.map fun e => ⟨e.data, ⟨e.hdr.fmt, e.hdr.scale⟩⟩)
      rw [if_pos rfl]
      refine ⟨hf1.trans hf, hh, hr, it, hme.trans ?_⟩
      rw [hme2, List.map_map]
      rfl
  obtain ⟨it, hit⟩ := hit
  have hs1h : s1.here = _ := hs1 ▸ s.takeRow_here q.val es.length
  have hacc : s1.here.AccFrame t.here := by
    rw [hht, hh2]
    have := Tile.accFrame_mapRow { s1.here with arrBusy := s1.cycle + rowCycles f } d.val row 64 fn
    exact ⟨this.banks, this.fs, this.m, this.pv, this.sp, this.iq⟩
  have htook : TookRow s t q.val es.length := ⟨hft, hs1 ▸ hacc.iq, by rw [hit, hs1], by rw [hit, hs1]⟩
  subst hesr
  rw [← hrw]
  refine matrix_tookRow hx htook (hs1 ▸ hacc) (hrt.trans hr2) ⟨?_, ?_⟩
  · rw [hft.actor, hit, hs1, State.takeRow_me]
    rfl
  · refine aAfter_mapRow (hft.after.trans (hht.trans hh2)) (by rw [hs1h]; rfl) (hrw ▸ hrow) fun j _ => ?_
    rw [hfn, Nat.mod_eq_of_lt (mmaFn_lt za f _ _ j (Tile.ael_lt ..))]
    exact mmaElt_dotAcc (fun k p hp => rowElt_holds hp) fun k p hp => bElts_holds hb hp

end Sys2Proof.Machine
end

section
/-! SUPPORT. MACC of a register and of a queue row (R325). -/

namespace Sys2Proof.Machine
open Sys2Proof.Spec

-- THE COUNTER

@[simp] theorem State.here_advK (s : State) (rm : Rm) (n : Nat) : (s.advK rm n).here = s.here := by
  unfold State.advK
  split
  · exact State.here_modMe ..
  · rfl
@[simp] theorem State.results_advK (s : State) (rm : Rm) (n : Nat) : (s.advK rm n).results = s.results := by
  unfold State.advK
  split <;> rfl
theorem State.me_advK (s : State) (rm : Rm) (n : Nat) :
    (s.advK rm n).me = { s.me with k := if rm = .rs then s.me.k + BitVec.ofNat 64 n else s.me.k } := by
  unfold State.advK
  by_cases h : rm = .rs
  · rw [if_pos h, if_pos h, State.me_modMe]
  · rw [if_neg h, if_neg h]
theorem counted_eq (s : State) (rm : Rm) (n : Nat) : counted s rm n = s.advK rm n := rfl

/-- The counter after a firing that leaves it until it advances. -/
theorem FiringFrame.k_advK {s u : State} (h : FiringFrame s u) (hk : u.me.k = s.me.k) (rm : Rm) (n : Nat) :
    ((u.advK rm n).actor s.cur.actor).k = ((counted s rm n).actor s.cur.actor).k := by
  rw [counted_eq, (h.advK rm n).actor, ((FiringFrame.refl s).advK rm n).actor, State.me_advK, State.me_advK, hk]

-- SUMS

/-- A sum of an accumulator element and another number, rounded once (R91, R96, R325). -/
theorem roundTo_addExact {x : Nat} {b : Num} {v : Bool × ℚ} (hx : finite fFP32 x) (hb : b.Holds v.1 v.2) {rm : Rm} {rnd q : Nat}
    (hq : rm = .rs → rnd = q) (sat : Bool) :
    Rounded fFP32 rm sat q (if neg fFP32 x = v.1 then v.1 else rm = .rd) (number fFP32 x + v.2)
      (roundTo fFP32 rm sat rnd (addExact rm (floatValue fFP32 x) b)) := by
  refine roundTo_rounded regular_fp32 ((addExact_denotes (floatValue_finite regular_fp32 hx) hb rm).congr fun _ => ?_) hq sat
  by_cases hs : neg fFP32 x = v.1
  · rw [if_pos hs, if_pos hs, hs]
  · rw [if_neg hs, if_neg hs]
    rfl

/-- What MACC makes of an accumulator element. -/
def maccFn (s : State) (rm : Rm) (sat : Bool) (n : Nat) (y : Num) (x : Nat) : Nat :=
  roundTo fFP32 rm sat (s.rnd rm n) (addExact rm (floatValue fFP32 x) y)

theorem maccFn_mod (s : State) (rm : Rm) (sat : Bool) (n : Nat) (y : Num) (x : Nat) : maccFn s rm sat n y x % 2 ^ 32 = maccFn s rm sat n y x :=
  Nat.mod_eq_of_lt (roundTo_lt regular_fp32 ..)

-- MACC

/-- MACC adds one accumulator to another. -/
theorem macc_register (s : State) (rm : Rm) (sat : Bool) (d a : Fin 4) :
    Matrix (.macc rm sat d a) s [.chain d.val] fun t => t.actors = (counted s rm 4096).actors ∧ keepsM s t ∧ keepsPv s t ∧
      keepsSp s t ∧ queuesKept s t ∧ aAfter s t d.val 0 64 fun i j y =>
        y = maccFn s rm sat (64 * i + j) (floatValue fFP32 (s.here.ael a.val i j)) (s.here.ael d.val i j) := by
  obtain ⟨fn, hfn⟩ : ∃ fn : Nat → Nat → Nat → Nat, fn = fun i j _ =>
    maccFn s rm sat (64 * i + j) (floatValue fFP32 (s.here.ael a.val i j)) (s.here.ael d.val i j) := ⟨_, rfl⟩
  obtain ⟨u, hu⟩ : ∃ u : State, u = (s.mat 67 67 [.chain d.val] none).modHere fun t => t.mapRows d.val 0 64 fn := ⟨_, rfl⟩
  have hx : exec (.macc rm sat d a) s = .next (u.advK rm 4096) := by
    rw [hu, hfn]
    unfold Tile.mapRows Tile.mapRow
    simp only [Nat.zero_add]
    rfl
  have hhere : (u.advK rm 4096).here = Tile.mapRows { s.here with arrBusy := s.cycle + 67 } d.val 0 64 fn := by
    rw [State.here_advK, hu, State.here_modHere, State.mat, State.here_modHere, State.here_issue]
  have hframe : FiringFrame s (u.advK rm 4096) := (hu ▸ ((FiringFrame.refl s).mat ..).modHere _ : FiringFrame s u).advK rm 4096
  have hkeep := Tile.accFrame_mapRows { s.here with arrBusy := s.cycle + 67 } d.val 0 64 fn
  rw [← hhere] at hkeep
  refine hframe.matrix hx (l := 67) (by rw [State.results_advK, hu]; rfl) hkeep.banks hkeep.fs ⟨?_, ?_, ?_, ?_, ?_, ?_⟩
  · unfold counted State.advK
    rw [hu]
    split <;> rfl
  · exact (congrArg Tile.m hframe.after).trans hkeep.m
  · exact (congrArg Tile.pv hframe.after).trans hkeep.pv
  · exact (congrArg Tile.sp hframe.after).trans hkeep.sp
  · exact (congrArg Tile.iq hframe.after).trans hkeep.iq
  · refine aAfter_mapRows (lo := 0) (n := 64) (hframe.after.trans hhere) rfl le_rfl fun i j _ _ _ => ?_
    rw [hfn]
    exact maccFn_mod ..

/-- A flit that MACC reads is no token. -/
theorem not_token_of_fmt {f : Fmt} (hf : f ∈ [Fmt.fp32, .bf16, .fp16]) {x : VReg} (h : x.pair.fmt = 0 ∨ x.pair.fmt = f.code8) : x.isTok = false := by
  unfold VReg.isTok
  refine decide_eq_false fun he => ?_
  rw [he] at h
  simp only [List.mem_cons, List.not_mem_nil, or_false] at hf
  obtain rfl | rfl | rfl := hf <;> exact absurd h (by decide)

/-- MACC of a queue row adds it to a row of an accumulator. -/
theorem macc_queueRow {s : State} {f : Fmt} (rm : Rm) (sat : Bool) (d : Fin 4) {q : Fin 8} {gx : Fin 16} {es : List Entry} (hplain : plain s [gx])
    (hf : f ∈ [Fmt.fp32, .bf16, .fp16]) (hes : rowAt s q (f.bits / 8) es) (hc : (rowWord (s.g gx).val).clean = true)
    (hrow : (rowWord (s.g gx).val).drow + s.rcOf q.val < 64)
    (hfit : ∀ k < f.bits / 8, (rowFlit es k).pair.fmt = 0 ∨ (rowFlit es k).pair.fmt = f.code8) :
    Matrix (.maccQueue f rm sat d q gx) s [.chain d.val] fun t => rowTaken s t q es ∧ keepsM s t ∧ keepsPv s t ∧ keepsSp s t ∧
      (t.actor s.cur.actor).k = ((counted s rm 64).actor s.cur.actor).k ∧
      aAfter s t d.val ((rowWord (s.g gx).val).drow + s.rcOf q.val) ((rowWord (s.g gx).val).drow + s.rcOf q.val + 1) fun i j y =>
        y = maccFn s rm sat j (s.elt f (rowFlit es (j / f.lanes)) (j % f.lanes)) (s.here.ael d.val i j) := by
  obtain ⟨row, hrw⟩ : ∃ row, row = (rowWord (s.g gx).val).drow + s.rcOf q.val := ⟨_, rfl⟩
  have hesr := hes.2.1
  obtain ⟨s1, hs1⟩ : ∃ s1 : State, s1 = s.takeRow q.val es.length := ⟨_, rfl⟩
  obtain ⟨fn, hfn⟩ : ∃ fn : Nat → Nat → Nat, fn = fun j x => maccFn s rm sat j (s.elt f (rowFlit es (j / f.lanes)) (j % f.lanes)) x := ⟨_, rfl⟩
  obtain ⟨u, hu⟩ : ∃ u : State, u = (s1.mat 4 1 [.chain d.val] none).modHere fun t => t.mapRow d.val row 64 fn := ⟨_, rfl⟩
  have hn : 64 * f.bits / 512 = f.bits / 8 := Nat.mul_div_mul_left f.bits 8 (by decide : 0 < 64)
  have hx : exec (.maccQueue f rm sat d q gx) s = .next (u.advK rm 64) := by
    change execMaccQueue f rm sat d q gx s = _
    unfold execMaccQueue
    dsimp only
    rw [hn]
    refine congrArg Host.Outcome.next ((queueRow_taken hplain hc hes _).trans ((afterRow_body hrow (firstVTok_rowFlit
      (hesr ▸ rowEntries_length _ _) fun k hk => not_token_of_fmt hf (hfit k hk)) _).trans ?_))
    have hall : ((List.range (f.bits / 8)).all fun i => fmtFits f (rowFlit es i)) = true :=
      List.all_eq_true.mpr fun k hk => by simpa [fmtFits] using hfit k (List.mem_range.mp hk)
    rw [hall, hu, hfn, hrw, hs1]
    simp only [← Fmt.lanes_eq]
    rfl
  have hh1 : s1.here = _ := hs1 ▸ s.takeRow_here q.val es.length
  have hhere : (u.advK rm 64).here = Tile.mapRow { s1.here with arrBusy := s1.cycle + 1 } d.val row 64 fn := by
    rw [State.here_advK, hu, State.here_modHere, State.mat, State.here_modHere, State.here_issue]
  have hframe1 : FiringFrame s u := hu ▸ ((hs1 ▸ s.takeRow_frame q.val es.length).mat ..).modHere _
  have hme : u.me = s1.me := by rw [hu]; rfl
  have hmeA := State.me_advK u rm 64
  rw [hme] at hmeA
  have hacc : s1.here.AccFrame (u.advK rm 64).here := by
    have := Tile.accFrame_mapRow { s1.here with arrBusy := s1.cycle + 1 } d.val row 64 fn
    rw [hhere]
    exact ⟨this.banks, this.fs, this.m, this.pv, this.sp, this.iq⟩
  have htook : TookRow s (u.advK rm 64) q.val es.length := ⟨hframe1.advK rm 64, hs1 ▸ hacc.iq, by rw [hmeA, hs1], by rw [hmeA, hs1]⟩
  have hk : u.me.k = s.me.k := by rw [hme, hs1, State.takeRow_me]
  have hafter := htook.frame.after
  subst hesr
  rw [← hrw]
  refine matrix_tookRow hx htook (hs1 ▸ hacc) (l := 4) (by rw [State.results_advK, hu, hs1]; rfl) ⟨hframe1.k_advK hk rm 64, ?_⟩
  refine aAfter_mapRow (hafter.trans hhere) (by rw [hh1]; rfl) (hrw ▸ hrow) fun j _ => ?_
  rw [hfn]
  exact maccFn_mod ..

end Sys2Proof.Machine
end

section
/-! SUPPORT. MDRAIN (R253, R326). -/

namespace Sys2Proof.Machine
open Sys2Proof.Spec

-- ERRORS TAKEN BY AN ITEM

/-- A token attached to the firing's own item (R401). -/
theorem State.attach_item {s : State} {i : Item} (h : s.me.item = some i) (t : Tok) : s.attach s.cur.actor t =
    s.modMe fun a => { a with item := some { i.attach t with marked := if i.record.isNone then s.cycle else i.marked } } := by
  unfold State.attach
  dsimp only
  rw [show (s.actor s.cur.actor).item = some i from h]
  rfl

-- THE FLITS OF A DRAIN

/-- Flit `k` of row `i` of a drain. -/
def drainFlit (s : State) (f : Fmt) (rm : Rm) (sat : Bool) (a : Nat) (r : RowWord) (i k : Nat) : VReg :=
  ⟨BitVec.ofNat 512 (packLanes f.bits (convRow s f r.scale rm sat a (r.srow + i) i) / 2 ^ (512 * k)), f.pairAt r.scale⟩

/-- The flits of a drain, `f.bits / 8` a row. -/
def drainFlits (s : State) (f : Fmt) (rm : Rm) (sat : Bool) (a : Nat) (r : RowWord) : List VReg :=
  (List.range r.count).flatMap fun i => (List.range (f.bits / 8)).map (drainFlit s f rm sat a r i)

theorem targets_bytes {f : Fmt} (hf : f ∈ targets) : 0 < f.bits / 8 ∧ f.bits / 8 * f.lanes = 64 ∧ ∀ n, f ≠ .cb n := by
  simp only [targets, List.mem_cons, List.not_mem_nil, or_false] at hf
  obtain rfl | rfl | rfl | rfl | rfl | rfl := hf <;> exact ⟨by decide, rfl, nofun⟩

theorem drainFlits_eq (s : State) {f : Fmt} (hf : f ∈ targets) (rm : Rm) (sat : Bool) (a : Nat) (r : RowWord) : drainFlits s f rm sat a r =
    (List.range (r.count * (f.bits / 8))).map fun x => drainFlit s f rm sat a r (x / (f.bits / 8)) (x % (f.bits / 8)) :=
  flatMap_range _ (targets_bytes hf).1 _

/-- A field of the low `n` bits of a number. -/
theorem toNat_ofNat_field (x : Nat) {n p w : Nat} (h : p + w ≤ n) : (BitVec.ofNat n x).toNat / 2 ^ p % 2 ^ w = x / 2 ^ p % 2 ^ w := by
  obtain ⟨m, rfl⟩ := Nat.exists_eq_add_of_le h
  rw [BitVec.toNat_ofNat, Nat.add_assoc, pow_add, Nat.mod_mul_right_div_self, Nat.mod_mod_of_dvd _ (Nat.pow_dvd_pow 2 (Nat.le_add_right ..))]

/-- A lane of a piece of 512 bits of packed lanes. -/
theorem lane_piece (f : Fmt) (x k : Nat) {l : Nat} (hl : l < f.lanes) :
    lane f.bits (BitVec.ofNat 512 (x / 2 ^ (512 * k))) l = x / 2 ^ (f.bits * (k * f.lanes + l)) % 2 ^ f.bits := by
  have hw : f.bits * l + f.bits ≤ 512 := by
    rw [← Fmt.bits_mul_lanes f, ← Nat.mul_succ]
    exact Nat.mul_le_mul_left _ hl
  have hexp : f.bits * (k * f.lanes + l) = 512 * k + f.bits * l := by
    rw [← Fmt.bits_mul_lanes f]
    ring
  unfold lane
  rw [toNat_ofNat_field _ hw, hexp, pow_add, Nat.div_div_eq_div_mul]

/-- An accumulator element after its conversion. -/
theorem convRow_converted (s : State) {f : Fmt} (hf : ∀ n, f ≠ .cb n) (scale : BitVec 8) (rm : Rm) (sat : Bool) (a : Fin 4) (srow n : Nat) {j : Nat}
    (hj : j < (convRow s f scale rm sat a.val (srow + n) n).length) :
    rowConverted s f scale rm sat a srow n j ((convRow s f scale rm sat a.val (srow + n) n)[j] % 2 ^ f.bits) := by
  intro hfin
  simp only [convRow, List.getElem_map, List.getElem_range]
  rw [Nat.mod_eq_of_lt (convertElt_lt s.cb hf ..)]
  exact convertElt_converted s f scale (floatValue_finite regular_fp32 hfin).exact (s.rnd_rs _) sat

/-- Each lane of a drained flit is a converted element of its row (R321, R326). -/
theorem drainFlit_lanes (s : State) {f : Fmt} (hf : f ∈ targets) (rm : Rm) (sat : Bool) (a : Fin 4) (r : RowWord) (i : Nat) {k : Nat} (hk : k < f.bits / 8) :
    Lanes f (f.pairAt r.scale) (fun l y => rowConverted s f r.scale rm sat a r.srow i (k * f.lanes + l) y) (drainFlit s f rm sat a.val r i k) := by
  refine ⟨rfl, fun l hl => ?_⟩
  obtain ⟨-, hrow, hcb⟩ := targets_bytes hf
  have hj : k * f.lanes + l < (convRow s f r.scale rm sat a.val (r.srow + i) i).length := by
    rw [convRow, List.length_map, List.length_range]
    calc k * f.lanes + l < (k + 1) * f.lanes := by rw [Nat.succ_mul]; omega
      _ ≤ f.bits / 8 * f.lanes := Nat.mul_le_mul_right _ hk
      _ = 64 := hrow
  unfold drainFlit
  rw [lane_piece f _ k hl, packLanes_field _ hj]
  exact convRow_converted s hcb r.scale rm sat a r.srow i hj

-- THE FIRING

/-- A state that is the firing's but for the input queues and the retained input. -/
structure InputOnly (s s1 : State) : Prop where
  frame : FiringFrame s s1
  results : s1.results = s.results
  here : ∃ iq, s1.here = { s.here with iq := iq }
  me : ∃ ret, s1.me = { s.me with retained := ret }

theorem InputOnly.refl (s : State) : InputOnly s s := ⟨.refl s, rfl, ⟨_, rfl⟩, ⟨_, rfl⟩⟩

theorem Tile.setQueue_frame (t : Tile) (q : Nat) (es : List Entry) : ∃ iq, t.setQueue q es = { t with iq := iq } := by
  unfold Tile.setQueue
  exact ⟨_, rfl⟩

theorem InputOnly.consume (s : State) (q n : Nat) : InputOnly s (s.consume q n) :=
  ⟨s.consume_frame q n, rfl, by rw [State.consume_here]; exact Tile.setQueue_frame .., ⟨_, s.consume_me q n⟩⟩

theorem InputOnly.convRow {s s1 : State} (h : InputOnly s s1) : Machine.convRow s1 = Machine.convRow s := by
  obtain ⟨iq, hh⟩ := h.here
  obtain ⟨ret, hm⟩ := h.me
  have hcb : s1.cb = s.cb := by
    funext n
    have hc : s1.ctx? s.me.ctx = s.ctx? s.me.ctx := State.ctx?_congr (by rw [h.frame.rest]) _
    unfold State.cb
    rw [hm, hc]
  have hrnd : s1.rnd = s.rnd := by
    funext rm e
    unfold State.rnd State.rng
    rw [hm]
    rfl
  funext f scale rm sat reg row n
  unfold Machine.convRow
  rw [hcb, hrnd, hh]
  rfl

theorem InputOnly.drainFlits {s s1 : State} (h : InputOnly s s1) : Machine.drainFlits s1 = Machine.drainFlits s := by
  funext f rm sat a r
  unfold Machine.drainFlits drainFlit
  rw [h.convRow]

/-- MDRAIN's flits are placed, and its route set. -/
def State.drain (s : State) (f : Fmt) (rm : Rm) (sat : Bool) (oq a : Nat) (r : RowWord) (e : Nat) : State :=
  routeTo ((((s.mat (r.count + 4) (r.count + 4) [] none).modMe fun u => { u with drainBusy := s.cycle + r.count + 4 }).emitAll oq
    (drainFlits s f rm sat a r)).advK rm (64 * r.count)) oq e

/-- A flit leaves by an entry of its station's route table (R253). -/
def GoodRoute (s : State) (e : Nat) : Prop := e ≤ 15 ∧ ((s.here.cfg s.cur.cfg).route e).1 = true

theorem routeTo_good {s : State} {e : Nat} (h : GoodRoute s e) (oq : Nat) : routeTo s oq e =
    s.modMe fun a => { a with choice := { a.choice with routes := Sparse.set a.choice.routes oq e } } := if_pos h

theorem routeTo_bad {s : State} {e : Nat} (h : ¬ GoodRoute s e) (oq : Nat) : routeTo s oq e = s.emitError .bounds Cause.routeEntry 0 := if_neg h

/-- The route of a firing, or the error that stands in its place. -/
theorem routeTo_spec (s : State) (oq e : Nat) (h : GoodRoute s e ∨ s.me.item ≠ none) : FiringFrame s (routeTo s oq e) ∧
    (routeTo s oq e).here = s.here ∧ (routeTo s oq e).results = s.results ∧ ∃ it ch, (routeTo s oq e).me = { s.me with item := it, choice := ch } ∧
      (GoodRoute s e → ch.routes = Sparse.set s.me.choice.routes oq e) ∧ (¬ GoodRoute s e → ch = s.me.choice) := by
  by_cases hg : GoodRoute s e
  · rw [routeTo_good hg]
    exact ⟨(FiringFrame.refl s).modMe _, rfl, rfl, s.me.item, _, State.me_modMe .., fun _ => rfl, fun h => absurd hg h⟩
  · obtain ⟨i, hi⟩ := Option.ne_none_iff_exists'.mp (h.resolve_left hg)
    rw [routeTo_bad hg, State.emitError, State.attach_item hi]
    exact ⟨(FiringFrame.refl s).modMe _, rfl, rfl, _, s.me.choice, State.me_modMe .., fun h => absurd h hg, fun _ => rfl⟩

/-- What MDRAIN leaves: its flits in the hold store, the route, and the counter advanced. -/
theorem matrix_drain {i : Instr} {s s1 : State} {f : Fmt} {rm : Rm} {sat : Bool} {oq : Fin 8} {a : Fin 4} {r : RowWord} {e : Nat} (hs1 : InputOnly s s1)
    (hf : f ∈ targets) (hx : exec i s = .next (s1.drain f rm sat oq.val a.val r e)) (he : GoodRoute s e ∨ s.me.item ≠ none) {P : State → Prop}
    (hP : ∀ t, FiringFrame s t → t.here.iq = s1.here.iq → P t) :
    Matrix i s [] fun t => keepsM s t ∧ keepsA s t ∧ keepsPv s t ∧ keepsSp s t ∧ P t ∧
      (t.actor s.cur.actor).k = ((counted s rm (64 * r.count)).actor s.cur.actor).k ∧
      (∃ ys : List VReg, ys.length = r.count * (f.bits / 8) ∧ (t.actor s.cur.actor).hold = s.me.hold ++ ys.map (fun y => ⟨oq.val, y⟩) ∧
        ∀ x < r.count * (f.bits / 8), Lanes f (f.pairAt r.scale)
          (fun l y => rowConverted s f r.scale rm sat a r.srow (x / (f.bits / 8)) (x % (f.bits / 8) * f.lanes + l) y) (ys.getD x ⟨0, Pair.raw⟩)) ∧
      (GoodRoute s e → (t.actor s.cur.actor).choice.routes = Sparse.set s.me.choice.routes oq.val e) ∧
      (¬ GoodRoute s e → (t.actor s.cur.actor).choice = s.me.choice) := by
  obtain ⟨iq, hh1⟩ := hs1.here
  obtain ⟨ret, hm1⟩ := hs1.me
  obtain ⟨u, hu⟩ : ∃ u : State, u = (s1.mat (r.count + 4) (r.count + 4) [] none).modMe fun u => { u with drainBusy := s1.cycle + r.count + 4 } := ⟨_, rfl⟩
  obtain ⟨ys, hys⟩ : ∃ ys, ys = drainFlits s f rm sat a.val r := ⟨_, rfl⟩
  obtain ⟨w, hw⟩ : ∃ w : State, w = (u.emitAll oq.val ys).advK rm (64 * r.count) := ⟨_, rfl⟩
  obtain ⟨t, ht⟩ : ∃ t : State, t = routeTo w oq.val e := ⟨_, rfl⟩
  have hxt : exec i s = .next t := by rw [ht, hw, hys, hu, ← hs1.drainFlits, hx]; rfl
  obtain ⟨hfe, hhe, hre, it, hit, hme⟩ := u.emitAll_spec oq.val ys
  have hfu : FiringFrame s u := hu ▸ (hs1.frame.mat ..).modMe _
  have hfw : FiringFrame s w := hw ▸ (hfu.trans hfe).advK ..
  have hhu : u.here = { s1.here with arrBusy := s1.cycle + (r.count + 4) } := by
    rw [hu, State.here_modMe, State.mat, State.here_modHere, State.here_issue]
  have hhw : w.here = u.here := by rw [hw, State.here_advK, hhe]
  have hmu : u.me = { s1.me with drainBusy := s1.cycle + r.count + 4 } := by
    rw [hu, State.me_modMe, State.mat, State.me_modHere, State.me_issue]
  have hmw := State.me_advK (u.emitAll oq.val ys) rm (64 * r.count)
  rw [← hw, hme, hmu, hm1] at hmw
  have hitem : w.me.item ≠ none ↔ s.me.item ≠ none := by
    rw [hmw, ← Option.isSome_iff_ne_none, ← Option.isSome_iff_ne_none, hit, hmu, hm1]
  have hgood : GoodRoute w e ↔ GoodRoute s e := by
    unfold GoodRoute
    rw [hhw, hhu, hh1, hfw.cur]
    rfl
  obtain ⟨hft, hht, hrt, it', ch, hmt, hyes, hno⟩ := routeTo_spec w oq.val e (he.imp hgood.mpr hitem.mpr)
  rw [← ht] at hft hht hrt hmt
  have hframe := hfw.trans hft
  have hactor := hframe.actor
  have hafter := hframe.after
  have hhere : t.here = { s.here with iq := iq, arrBusy := s1.cycle + (r.count + 4) } := by rw [hht, hhw, hhu, hh1]
  have hres : t.results = s.results ++ [⟨s.cycle + (r.count + 4), s.cur, [], none⟩] := by
    rw [hrt, hw, State.results_advK, hre, hu]
    change s1.results ++ [⟨s1.cycle + (r.count + 4), s1.cur, [], none⟩] = _
    rw [hs1.results, hs1.frame.cycle, hs1.frame.cur]
  rw [hhere] at hafter
  rw [hmt] at hactor
  refine hframe.matrix hxt hres (by rw [hhere]) (by rw [hhere]) ⟨?_, ?_, ?_, ?_, ?_, ?_, ?_, ?_, ?_⟩
  · exact (congrArg Tile.m hafter).trans rfl
  · exact (congrArg Tile.a hafter).trans rfl
  · exact (congrArg Tile.pv hafter).trans rfl
  · exact (congrArg Tile.sp hafter).trans rfl
  · exact hP t hframe (by rw [hhere, hh1])
  · rw [hactor, hmw, counted_eq, ((FiringFrame.refl s).advK rm _).actor, State.me_advK]
  · refine ⟨ys, by simp [hys, drainFlits_eq s hf], by rw [hactor, hmw], fun x hx => ?_⟩
    rw [hys, drainFlits_eq s hf, List.getD_eq_getElem _ _ (by simpa using hx), List.getElem_map, List.getElem_range]
    exact drainFlit_lanes s hf rm sat a r _ (Nat.mod_lt _ (targets_bytes hf).1)
  · intro h
    rw [hactor]
    exact (hyes (hgood.mpr h)).trans (by rw [hmw])
  · intro h
    rw [hactor]
    exact (hno fun h' => h (hgood.mp h')).trans (by rw [hmw])

theorem flits_per_row (f : Fmt) : 8 * f.bits / 64 = f.bits / 8 := Nat.mul_div_mul_left f.bits 8 (by decide : 0 < 8)

/-- MDRAIN with its route in a register. -/
theorem exec_mdrain_reg {s : State} {f : Fmt} (rm : Rm) (sat : Bool) (oq : Fin 8) (a : Fin 4) {g gx : Fin 16} (hplain : plain s [gx]) (hg : plain s [g])
    (hr : rowGood (rowWord (s.g gx).val) true false []) (hsc : f = .fp32 → (rowWord (s.g gx).val).scale = 127) :
    exec (.mdrain f rm sat oq a (.reg g) gx) s = .next (s.drain f rm sat oq.val a.val (rowWord (s.g gx).val) (s.g g).val.toNat) := by
  have htok : ∀ x ∈ [s.g g] ++ [s.g gx], x.isTok = false := by
    simpa using ⟨hg g (by simp), hplain gx (by simp)⟩
  refine congrArg Host.Outcome.next ?_
  dsimp only
  rw [tokCheck_none htok, rowCheck_rowGood hr, if_neg fun h => h.2 (hsc h.1), flits_per_row]
  rfl

/-- MDRAIN with its route in a flit. -/
theorem exec_mdrain_queue {s : State} {f : Fmt} (rm : Rm) (sat : Bool) (oq : Fin 8) (a : Fin 4) {q : Fin 8} {gx : Fin 16} {e : Entry} (hplain : plain s [gx])
    (hr : rowGood (rowWord (s.g gx).val) true false []) (hsc : f = .fp32 → (rowWord (s.g gx).val).scale = 127)
    (he : s.head q.val = some e) (hd : dataFlit e) :
    exec (.mdrain f rm sat oq a (.queue q) gx) s =
      .next ((s.consume q.val 1).drain f rm sat oq.val a.val (rowWord (s.g gx).val) (e.data.toNat % 16)) := by
  have htok : ∀ x ∈ [] ++ [s.g gx], x.isTok = false := by simpa using hplain gx (by simp)
  refine congrArg Host.Outcome.next ?_
  dsimp only
  rw [tokCheck_none htok, rowCheck_rowGood hr, if_neg fun h => h.2 (hsc h.1), State.headKind_data he hd, flits_per_row]
  rfl

end Sys2Proof.Machine
end

section
/-! SUPPORT. Matrix instructions that are refused have their token alone (R316, R318, R337). -/

namespace Sys2Proof.Machine
open Sys2Proof.Spec

-- TOKENS

theorem passG_eq (s : State) (x : GReg) : s.passG x = passed s x := by
  unfold State.passG State.gRecord passed at_ State.dev
  dsimp only
  rw [Nat.mod_mod, Nat.mod_eq_of_lt (show (s.actor s.cur.actor).hs.seq.toNat < 2 ^ 48 from BitVec.isLt _),
    Nat.mod_eq_of_lt (show (s.actor s.cur.actor).hs.wid.toNat < 2 ^ 64 from BitVec.isLt _)]
  rfl

/-- A token's origin does not depend on the input that its unit has taken. -/
theorem State.tok_takeRow (s : State) (q n : Nat) : (s.takeRow q n).tok = s.tok := by
  have hme : (s.takeRow q n).actor s.cur.actor = _ := s.takeRow_me q n
  have hcopies : ((s.takeRow q n).tile s.me.tile).copies = (s.tile s.me.tile).copies := by
    by_cases h : s.me.tile = s.cur.tile
    · have hh : (s.takeRow q n).tile s.cur.tile = _ := s.takeRow_here q n
      obtain ⟨iq, hq⟩ := Tile.setQueue_frame s.here q ((s.here.queue q).drop n)
      rw [h, hh, hq]
      rfl
    · rw [(s.takeRow_frame q n).tiles _ h]
  have horigin : (s.takeRow q n).origin s.cur.actor = s.origin s.cur.actor := by
    funext slot
    unfold State.origin State.cfgNo
    rw [hme]
    dsimp only
    rw [hcopies]
    rfl
  funext e c d
  unfold State.tok State.raise
  rw [show (s.takeRow q n).origin (s.takeRow q n).cur.actor = _ from horigin]
  rfl

-- THE CHECKS OF R316 THAT FAIL

theorem rowCheck_bad {s : State} {r : RowWord} {u : RowUse}
    (h : !r.clean ∨ (u.count ∧ (r.count = 0 ∨ 64 < r.count)) ∨ (r.tile ≠ 0 ∧ u.tiles.contains 0)) (ok : State) :
    rowCheck s r u ok = s.issue 2 [] (some (s.tok .bounds 0x05 0)) := by
  unfold rowCheck
  rw [if_pos h]
  rfl

theorem rowCheck_range {s : State} {r : RowWord} {u : RowUse}
    (h : ¬ (!r.clean ∨ (u.count ∧ (r.count = 0 ∨ 64 < r.count)) ∨ (r.tile ≠ 0 ∧ u.tiles.contains 0)))
    (h' : u.count ∧ ((u.srow ∧ 64 < r.srow + r.count) ∨ (u.drow ∧ 64 < r.drow + r.count))) (ok : State) :
    rowCheck s r u ok = s.issue 2 [] (some (s.tok .bounds 0x0C 0)) := by
  unfold rowCheck
  rw [if_neg h, if_pos h']
  rfl

theorem spCheck_some {s : State} {d : Dsc} {esize : Nat} {spans : List (Nat × Nat)} {c : BitVec 8} {a : Nat}
    (h : dscCheck s.window d esize spans = some (c, a)) (ok : State) :
    spCheck s d esize spans ok = s.issue 2 [] (some (s.tok .bounds c a)) := by
  unfold spCheck
  rw [h]
  rfl

/-- The third check of R316 for an operand of the scratchpad, as the statements write it. -/
def BadRow (s : State) (sp : Fin 8) (r : RowWord) : Prop :=
  r.clean = false ∨ r.count = 0 ∨ 64 < r.count ∨ (r.tile ≠ 0 ∧ (s.dsc sp).tilePitch = 0)

theorem badRow_iff (s : State) (sp : Fin 8) (r : RowWord) (srow drow : Bool) :
    (!r.clean ∨ ((⟨true, srow, drow, [(s.dsc sp).tilePitch]⟩ : RowUse).count ∧ (r.count = 0 ∨ 64 < r.count)) ∨
      (r.tile ≠ 0 ∧ (⟨true, srow, drow, [(s.dsc sp).tilePitch]⟩ : RowUse).tiles.contains 0)) ↔ BadRow s sp r := by
  have hp : [(s.dsc sp).tilePitch].contains 0 = true ↔ (s.dsc sp).tilePitch = 0 := by simp [eq_comm]
  unfold BadRow
  simp only [hp, true_and, Bool.not_eq_true', or_assoc]

/-- An instruction whose firing performs the checks of R316: its g operands, the row word and how it uses it, and the rest. -/
def Checked (i : Instr) (s : State) (sp : Fin 8) (gx : Fin 16) (srow drow : Bool) (ok : State) : Prop :=
  exec i s = .next (tokCheck s none [s.gn (2 * sp.val), s.gn (2 * sp.val + 1), s.g gx]
    (rowCheck s (rowWord (s.g gx).val) ⟨true, srow, drow, [(s.dsc sp).tilePitch]⟩ ok))

/-- A firing that has only a token, 2 cycles on (R316, notes/assumptions/11.md). -/
def Refused (i : Instr) (s : State) (t : Tok) : Prop :=
  ∃ u, exec i s = .next u ∧ u = { s with results := s.results ++ [⟨s.cycle + 2, s.cur, [], some t⟩] }

section
variable {i : Instr} {s : State} {sp : Fin 8} {gx : Fin 16} {srow drow : Bool} {ok : State} (h : Checked i s sp gx srow drow ok)
include h

theorem Checked.token {x : GReg} (hx : [s.gn (2 * sp.val), s.gn (2 * sp.val + 1), s.g gx].find? (fun x => x.isTok) = some x) :
    Refused i s (passed s x) :=
  ⟨_, (Eq.trans h (congrArg Host.Outcome.next (tokCheck_some hx _))), by rw [passG_eq]; rfl⟩

variable (hx : [s.gn (2 * sp.val), s.gn (2 * sp.val + 1), s.g gx].find? (fun x => x.isTok) = none)
include hx

theorem Checked.rows : exec i s = .next (rowCheck s (rowWord (s.g gx).val) ⟨true, srow, drow, [(s.dsc sp).tilePitch]⟩ ok) :=
  Eq.trans h (congrArg Host.Outcome.next (tokCheck_none (fun x hm => by simpa using List.find?_eq_none.mp hx x hm) _))

theorem Checked.bad (hb : BadRow s sp (rowWord (s.g gx).val)) : Refused i s (s.tok .bounds 0x05 0) :=
  ⟨_, (h.rows hx).trans (congrArg Host.Outcome.next (rowCheck_bad ((badRow_iff ..).mpr hb) _)), rfl⟩

theorem Checked.range (hb : ¬ BadRow s sp (rowWord (s.g gx).val))
    (hr : (srow ∧ 64 < (rowWord (s.g gx).val).srow + (rowWord (s.g gx).val).count) ∨ (drow ∧ 64 < (rowWord (s.g gx).val).drow + (rowWord (s.g gx).val).count)) :
    Refused i s (s.tok .bounds 0x0C 0) :=
  ⟨_, (h.rows hx).trans (congrArg Host.Outcome.next (rowCheck_range (fun h' => hb ((badRow_iff ..).mp h')) ⟨rfl, hr⟩ _)), rfl⟩

theorem Checked.rest (hb : ¬ BadRow s sp (rowWord (s.g gx).val))
    (hs : srow = true → (rowWord (s.g gx).val).srow + (rowWord (s.g gx).val).count ≤ 64)
    (hd : drow = true → (rowWord (s.g gx).val).drow + (rowWord (s.g gx).val).count ≤ 64) : exec i s = .next ok := by
  unfold BadRow at hb
  push Not at hb
  obtain ⟨hc, h0, h64, ht⟩ := hb
  refine (h.rows hx).trans (congrArg Host.Outcome.next (rowCheck_good (by simpa using hc) (fun _ => ⟨by omega, h64⟩) ?_ (fun _ => hs) (fun _ => hd) _))
  by_cases h' : (rowWord (s.g gx).val).tile = 0
  · exact .inl h'
  · exact .inr (by simpa [eq_comm] using ht h')

end

/-- MLD of the scratchpad, from its fourth check on. -/
def mldRest (f : Fmt) (d : Fin 8) (sp : Fin 8) (gx : Fin 16) (s : State) : State :=
  spCheck s (s.dsc sp) (f.bits / 8) (rowSpans (s.dsc sp) (rowWord (s.g gx).val).tile (rowWord (s.g gx).val).srow (rowWord (s.g gx).val).count 128)
    (let gs := spGroups (s.dsc sp) 2 33 (rowSpans (s.dsc sp) (rowWord (s.g gx).val).tile (rowWord (s.g gx).val).srow (rowWord (s.g gx).val).count 128)
     let l := s.readWait + groupCosts gs + 3
     ((s.useRead (groupCosts gs)).mat l l [.mark (.m d.val)] none).spReads (.mld f d sp gx) l (s.cycle + s.readWait) gs)

theorem checked_mld (s : State) (f : Fmt) (d sp : Fin 8) (gx : Fin 16) : Checked (.mld f d sp gx) s sp gx true true (mldRest f d sp gx s) := rfl

theorem checked_mldt (s : State) (f : Fmt) (d sp : Fin 8) (gx : Fin 16) : ∃ ok, Checked (.mldt f d sp gx) s sp gx false false
    (if (rowWord (s.g gx).val).count ≠ 64 ∨ (rowWord (s.g gx).val).srow ≠ 0 ∨ (rowWord (s.g gx).val).drow ≠ 0 then
      matError s none .bounds Cause.rowRange 0 else ok) := ⟨_, rfl⟩

theorem checked_mst (s : State) (f : Fmt) (rm : Rm) (sat : Bool) (sp : Fin 8) (src : MstSrc) (gx : Fin 16) :
    ∃ ok, Checked (.mst f rm sat sp src gx) s sp gx true true ok := ⟨_, rfl⟩

/-- The refusals of MLD, MLDT and MST. -/
theorem refused_moves (s : State) (f : Fmt) (rm : Rm) (sat : Bool) (d sp : Fin 8) (src : MstSrc) (gx : Fin 16) :
    let r := rowWord (s.g gx).val
    let regs : List GReg := [s.gn (2 * sp.val), s.gn (2 * sp.val + 1), s.g gx]
    (∀ x, regs.find? (fun x => x.isTok) = some x →
      Refused (.mld f d sp gx) s (passed s x) ∧ Refused (.mldt f d sp gx) s (passed s x) ∧ Refused (.mst f rm sat sp src gx) s (passed s x)) ∧
    (regs.find? (fun x => x.isTok) = none →
      (BadRow s sp r → ∀ i ∈ [Instr.mld f d sp gx, .mldt f d sp gx, .mst f rm sat sp src gx], Refused i s (s.tok .bounds 0x05 0)) ∧
      (¬ BadRow s sp r → 64 < r.srow + r.count ∨ 64 < r.drow + r.count →
        ∀ i ∈ [Instr.mld f d sp gx, .mst f rm sat sp src gx], Refused i s (s.tok .bounds 0x0C 0)) ∧
      (¬ BadRow s sp r → r.count ≠ 64 ∨ r.srow ≠ 0 ∨ r.drow ≠ 0 → Refused (.mldt f d sp gx) s (s.tok .bounds 0x0C 0)) ∧
      (¬ BadRow s sp r → r.srow + r.count ≤ 64 → r.drow + r.count ≤ 64 → ∀ c a,
        dscCheck s.window (s.dsc sp) (f.bits / 8) (rowSpans (s.dsc sp) r.tile r.srow r.count 128) = some (c, a) →
        Refused (.mld f d sp gx) s (s.tok .bounds c a))) := by
  intro r regs
  have hld := checked_mld s f d sp gx
  obtain ⟨_, hldt⟩ := checked_mldt s f d sp gx
  obtain ⟨_, hst⟩ := checked_mst s f rm sat sp src gx
  refine ⟨fun x hx => ⟨hld.token hx, hldt.token hx, hst.token hx⟩, fun hx => ⟨fun hb i hi => ?_, fun hb hr i hi => ?_, fun hb hr => ?_,
    fun hb hs hd c a hsp => ?_⟩⟩
  · simp only [List.mem_cons, List.not_mem_nil, or_false] at hi
    obtain rfl | rfl | rfl := hi
    · exact hld.bad hx hb
    · exact hldt.bad hx hb
    · exact hst.bad hx hb
  · have hr' : ((true : Bool) ∧ 64 < r.srow + r.count) ∨ ((true : Bool) ∧ 64 < r.drow + r.count) := by simpa using hr
    simp only [List.mem_cons, List.not_mem_nil, or_false] at hi
    obtain rfl | rfl := hi
    · exact hld.range hx hb hr'
    · exact hst.range hx hb hr'
  · refine ⟨_, (hldt.rest hx hb nofun nofun).trans (congrArg Host.Outcome.next (if_pos hr)), rfl⟩
  · exact ⟨_, (hld.rest hx hb (fun _ => hs) (fun _ => hd)).trans (congrArg Host.Outcome.next (spCheck_some hsp _)), rfl⟩

/-- The refusals of MPERM (R337). -/
theorem refused_mperm {s : State} (cols inv : Bool) (d pv : Fin 4) {g : Fin 16} (hg : plain s [g]) :
    ((nWord false (s.g g).val).clean = false → exec (.mperm cols inv d pv g) s = issued s 2 [] (some (s.tok .bounds 0x05 0))) ∧
    ((nWord false (s.g g).val).clean = true → (∃ k < (nWord false (s.g g).val).n, 63 < s.here.pvel pv.val k) →
      exec (.mperm cols inv d pv g) s = issued s 2 [] (some (s.tok .bounds 0x0B 0))) := by
  have htok : ∀ x ∈ [s.g g], x.isTok = false := fun x hx => List.mem_singleton.mp hx ▸ hg g (by simp)
  refine ⟨fun hc => congrArg Host.Outcome.next ?_, fun hc hk => congrArg Host.Outcome.next ?_⟩
  · rw [tokCheck_none htok, if_pos (by rw [hc]; rfl)]
    rfl
  · have hany : ((List.range (nWord false (s.g g).val).n).any fun k => decide (63 < s.here.pvel pv.val k)) = true := by simpa using hk
    rw [tokCheck_none htok, if_neg (by rw [hc]; decide), if_pos hany]
    rfl

-- QUEUE ROWS THAT ARE REFUSED

/-- An instruction that is a queue form of rows of `n` flits. -/
def QueueForm (i : Instr) (s : State) (gx : Fin 16) (q : Fin 8) (n : Nat) : Prop := ∃ body, exec i s = .next (queueRow s gx q n body)

theorem queueForm_macc (f : Fmt) (rm : Rm) (sat : Bool) (d : Fin 4) (q : Fin 8) (gx : Fin 16) (s : State) :
    QueueForm (.maccQueue f rm sat d q gx) s gx q (f.bits / 8) := by
  have hn : 64 * f.bits / 512 = f.bits / 8 := Nat.mul_div_mul_left f.bits 8 (by decide : 0 < 64)
  exact hn ▸ ⟨_, rfl⟩
theorem queueForm_mld (d q : Fin 8) (gx : Fin 16) (s : State) : QueueForm (.mldQueue d q gx) s gx q 2 := ⟨_, rfl⟩
theorem queueForm_mma (tr fwd za : Bool) (f : Fmt) (d : Fin 4) (q : Fin 8) (b : MSrc) (gx : Fin 16) (s : State) :
    QueueForm (if tr then .mmat fwd za f d (.queue q) b gx else .mma fwd za f d (.queue q) b gx) s gx q 2 := by
  have hx := exec_mma tr fwd za f d (.queue q) b gx s
  unfold mma at hx
  exact ⟨_, hx⟩

/-- A row is taken and its instruction refused. -/
def RowRefused (i : Instr) (s : State) (q : Fin 8) (es : List Entry) (tk : Tok) : Prop :=
  ∃ t, exec i s = .next t ∧ rowTaken s t q es ∧ keepsA s t ∧ keepsM s t ∧ t.results = s.results ++ [⟨s.cycle + 2, s.cur, [], some tk⟩]

/-- What stands of the tile's registers when a row has been taken. -/
theorem TookRow.tile {s t : State} {q n : Nat} (h : TookRow s t q n) (hh : t.here = (s.takeRow q n).here) :
    keepsA s t ∧ keepsM s t ∧ keepsPv s t ∧ keepsSp s t := by
  obtain ⟨iq, hq⟩ := Tile.setQueue_frame s.here q ((s.here.queue q).drop n)
  have hafter : after s t = { s.here with iq := iq } := by rw [h.frame.after, hh, State.takeRow_here, hq]
  refine ⟨?_, ?_, ?_, ?_⟩
  · exact (congrArg Tile.a hafter).trans rfl
  · exact (congrArg Tile.m hafter).trans rfl
  · exact (congrArg Tile.pv hafter).trans rfl
  · exact (congrArg Tile.sp hafter).trans rfl

theorem rowRefused_of_issue {i : Instr} {s : State} {q : Fin 8} {n : Nat} {es : List Entry} (hes : es = rowEntries (s.here.queue q.val) n) {tk : Tok}
    (hx : exec i s = .next ((s.takeRow q.val es.length).issue 2 [] (some tk))) : RowRefused i s q es tk := by
  subst hes
  have htook : TookRow s ((s.takeRow q.val (rowEntries (s.here.queue q.val) n).length).issue 2 [] (some tk)) q.val
      (rowEntries (s.here.queue q.val) n).length := ⟨(s.takeRow_frame ..).issue .., rfl, rfl, rfl⟩
  obtain ⟨ha, hm, -, -⟩ := htook.tile rfl
  exact ⟨_, hx, htook.rowTaken, ha, hm, rfl⟩

/-- A row past the last row of the registers (R318). -/
theorem QueueForm.limit {i : Instr} {s : State} {gx : Fin 16} {q : Fin 8} {n : Nat} {es : List Entry} (h : QueueForm i s gx q n) (hp : plain s [gx])
    (hc : (rowWord (s.g gx).val).clean = true) (hes : rowAt s q n es) (hrow : 64 ≤ (rowWord (s.g gx).val).drow + s.rcOf q.val) :
    RowRefused i s q es (s.tok .bounds 0x0C 0) := by
  obtain ⟨body, hx⟩ := h
  rw [queueRow_taken hp hc hes, afterRow_limit hrow] at hx
  refine rowRefused_of_issue hes.2.1 (hx.trans ?_)
  rw [← s.tok_takeRow q.val es.length]
  rfl

theorem map_rowFlit (es : List Entry) : (List.range es.length).map (rowFlit es) = es.map fun e => ⟨e.data, ⟨e.hdr.fmt, e.hdr.scale⟩⟩ := by
  refine List.ext_getElem (by simp) fun k h1 h2 => ?_
  have hk : k < es.length := by simpa using h1
  simp only [List.getElem_map, List.getElem_range, rowFlit, List.getElem?_eq_getElem hk]

theorem firstVTok_entries (es : List Entry) : firstVTok ((List.range es.length).map (rowFlit es)) =
    (es.find? fun e => (⟨e.hdr.fmt, e.hdr.scale⟩ : Pair) = Pair.token).map fun e => ⟨e.data, ⟨e.hdr.fmt, e.hdr.scale⟩⟩ := by
  rw [map_rowFlit, firstVTok, List.find?_map]
  rfl

/-- A row that holds an error token (R342). -/
theorem QueueForm.token {i : Instr} {s : State} {gx : Fin 16} {q : Fin 8} {n : Nat} {es : List Entry} (h : QueueForm i s gx q n) (hp : plain s [gx])
    (hc : (rowWord (s.g gx).val).clean = true) (hes : rowAt s q n es) (hrow : (rowWord (s.g gx).val).drow + s.rcOf q.val < 64) {x : Entry}
    (hx : es.find? (fun e => (⟨e.hdr.fmt, e.hdr.scale⟩ : Pair) = Pair.token) = some x) : RowRefused i s q es ⟨x.data.setWidth 256, false⟩ := by
  obtain ⟨body, hrun⟩ := h
  rw [queueRow_taken hp hc hes, afterRow_token hrow (x := ⟨x.data, ⟨x.hdr.fmt, x.hdr.scale⟩⟩) (by rw [firstVTok_entries, hx]; rfl)] at hrun
  exact rowRefused_of_issue hes.2.1 hrun

/-- MLD of a row that holds a reserved format code (R316, R342). -/
theorem mldQueue_reserved {s : State} (d : Fin 8) {gx : Fin 16} {q : Fin 8} {es : List Entry} (hp : plain s [gx])
    (hc : (rowWord (s.g gx).val).clean = true) (hes : rowAt s q 2 es) (hrow : (rowWord (s.g gx).val).drow + s.rcOf q.val < 64) {x : Entry}
    (ht : ∀ e ∈ es, (⟨e.hdr.fmt, e.hdr.scale⟩ : Pair) ≠ Pair.token) (hx : es.find? (fun e => (Fmt.of e.hdr.fmt).isNone) = some x) :
    RowRefused (.mldQueue d q gx) s q es (s.tok .formatReserved 0x01 x.hdr.fmt.toNat) := by
  have hnone : firstVTok ((List.range es.length).map (rowFlit es)) = none := by
    rw [firstVTok_entries, List.find?_eq_none.mpr fun e he => by simpa using ht e he]
    rfl
  refine rowRefused_of_issue hes.2.1 (congrArg Host.Outcome.next ((queueRow_taken hp hc hes _).trans ((afterRow_body hrow hnone _).trans ?_)))
  rw [hx, ← s.tok_takeRow q.val es.length]
  rfl

/-- A row that holds a poisoned flit: it is taken, and its record passes to the item (R237, R318). -/
theorem QueueForm.poisoned {i : Instr} {s : State} {gx : Fin 16} {q : Fin 8} {n : Nat} (h : QueueForm i s gx q n) (hp : plain s [gx])
    (hc : (rowWord (s.g gx).val).clean = true) {x y : Entry} (hx : s.head q.val = some x) (hb : x.bare = false)
    (hy : (rowEntries (s.here.queue q.val) n).find? (fun e => e.hdr.poi) = some y) :
    ∃ t, exec i s = .next t ∧ rowTaken s t q (rowEntries (s.here.queue q.val) n) ∧ keepsA s t ∧ keepsM s t ∧ keepsPv s t ∧
      keepsSp s t ∧ t.results = s.results ∧
      ∀ it, s.me.item = some it → it.record = none → ∃ it', (t.actor s.cur.actor).item = some it' ∧ it'.record = some y.hdr.err := by
  obtain ⟨body, hrun⟩ := h
  obtain ⟨j, hj⟩ := Option.isSome_iff_exists.mp (State.head_queue hx).2
  obtain ⟨len, hlen⟩ : ∃ len, len = (rowEntries (s.here.queue q.val) n).length := ⟨_, rfl⟩
  have hj' : (s.takeRow q.val len).me.item = some j := by rw [State.takeRow_me, hj]
  rw [queueRow_poisoned hp hc hx hb hy, ← hlen, State.poisonRow,
    show (s.takeRow q.val len).attach s.cur.actor _ = _ from State.attach_item hj' ⟨y.hdr.err, false⟩] at hrun
  obtain ⟨t, ht⟩ : ∃ t : State, t = (s.takeRow q.val len).modMe fun a => { a with item := some { j.attach ⟨y.hdr.err, false⟩ with
    marked := if j.record.isNone then (s.takeRow q.val len).cycle else j.marked } } := ⟨_, rfl⟩
  rw [← ht] at hrun
  have hme : t.me = _ := ht ▸ State.me_modMe ..
  have htook : TookRow s t q.val len := ⟨ht ▸ (s.takeRow_frame ..).modMe _, by rw [ht]; rfl, by rw [hme], by rw [hme]⟩
  obtain ⟨ha, hm, hpv, hsp⟩ := htook.tile (by rw [ht]; rfl)
  refine ⟨t, hrun, (hlen ▸ htook).rowTaken, ha, hm, hpv, hsp, by rw [ht]; rfl, fun it hit hrec => ⟨_, by rw [htook.frame.actor, hme], ?_⟩⟩
  obtain rfl : j = it := Option.some.inj (hj.symm.trans hit)
  dsimp only
  unfold Item.attach
  rw [hrec]

end Sys2Proof.Machine
end

section
/-! SETTLED. Obligations.MatrixProducts. -/

namespace Sys2Proof.Machine
open Sys2Proof.Spec

theorem matrix_mono {i : Instr} {s : State} {ws : List Wr} {P Q : State → Prop} (h : Matrix i s ws P) (hPQ : ∀ t, P t → Q t) : Matrix i s ws Q := by
  obtain ⟨t, l, hx, hr, hrest, htiles, hb, hfs, hactors, hP⟩ := h
  exact ⟨t, l, hx, hr, hrest, htiles, hb, hfs, hactors, hPQ t hP⟩

theorem aAfter_mono {s t : State} {d lo hi : Nat} {P Q : Nat → Nat → Nat → Prop} (h : aAfter s t d lo hi P)
    (hPQ : ∀ i j y, P i j y → Q i j y) : aAfter s t d lo hi Q := by
  intro r i j hi hj
  have := h r i j hi hj
  split
  · next hc =>
    rw [if_pos hc] at this
    exact hPQ i j _ this
  · next hc => rwa [if_neg hc] at this

/-- The queue forms that take a row to refuse it or to pass its record on. -/
theorem queueForm_of_mem {f : Fmt} {rm : Rm} {sat : Bool} {d : Fin 4} {q : Fin 8} {gx : Fin 16} {n : Nat} {i : Instr}
    (h : (n, i) ∈ [(f.bits / 8, Instr.maccQueue f rm sat d q gx), (2, .mldQueue ⟨d.val, by omega⟩ q gx)]) (s : State) : QueueForm i s gx q n := by
  simp only [List.mem_cons, List.not_mem_nil, or_false, Prod.mk.injEq] at h
  obtain ⟨rfl, rfl⟩ | ⟨rfl, rfl⟩ := h
  · exact queueForm_macc ..
  · exact queueForm_mld ..

/-- The queue forms, those of MMA and MMAT included. -/
theorem queueForm_of_mem_mma {fwd za : Bool} {f : Fmt} {rm : Rm} {sat : Bool} {d : Fin 4} {q : Fin 8} {b : MSrc} {gx : Fin 16} {n : Nat} {i : Instr}
    (h : (n, i) ∈ [(f.bits / 8, Instr.maccQueue f rm sat d q gx), (2, .mldQueue ⟨d.val, by omega⟩ q gx), (2, .mma fwd za f d (.queue q) b gx),
      (2, .mmat fwd za f d (.queue q) b gx)]) (s : State) : QueueForm i s gx q n := by
  simp only [List.mem_cons, List.not_mem_nil, or_false, Prod.mk.injEq] at h
  obtain ⟨rfl, rfl⟩ | ⟨rfl, rfl⟩ | ⟨rfl, rfl⟩ | ⟨rfl, rfl⟩ := h
  · exact queueForm_macc ..
  · exact queueForm_mld ..
  · exact queueForm_mma false ..
  · exact queueForm_mma true ..

end Sys2Proof.Machine

section
open Sys2Proof Sys2Proof.Machine Sys2Proof.Spec

/-- Settles O44: the tile after each product is the tile before it with rows of an accumulator mapped element by element,
each check of R316 that holds is passed by one lemma, and each that fails leaves a token alone. -/
theorem matrixProducts : Obligations.MatrixProducts := by
  unfold Obligations.MatrixProducts
  refine ⟨?mma, ?macc, ?mdrain, ?refusals, ?mperm, ?limit, ?mldQueue, ?poisoned⟩
  case mma =>
    intro s fwd za tr f d b gx el hp _ r run bg hb
    refine ⟨fun m hr hm => ⟨?_, ?_⟩, fun p hr ha hnone => mma_scratch hp hb hr ha hnone, ?_⟩
    · rintro x rfl
      exact mma_registers hp hb hr hm
    · rintro p rfl hnone
      exact mma_register_scratch hp hb hr hm hnone
    · rintro q m es rfl hc hes row flit hrow hfit
      exact mma_queueRow hp hb hc hes hrow hfit
  case macc =>
    intro s f rm sat d a q gx es sum
    constructor
    · refine matrix_mono (macc_register s rm sat d a) ?_
      rintro t ⟨hk, hm, hpv, hsp, hiq, ha⟩
      refine ⟨hk, hm, hpv, hsp, hiq, aAfter_mono ha ?_⟩
      rintro i j y rfl v hv hx w ⟨⟩
      exact roundTo_addExact hx (floatValue_finite regular_fp32 hv) (s.rnd_rs _) sat
    · intro hp hf hes r row flit hc hrow hfit
      refine matrix_mono (macc_queueRow rm sat d hp hf hes hc hrow hfit) ?_
      rintro t ⟨hrt, hm, hpv, hsp, hk, ha⟩
      refine ⟨hrt, hm, hpv, hsp, hk, aAfter_mono ha ?_⟩
      rintro i j y rfl hx v hv
      exact roundTo_addExact hx (finElt_holds hv) (s.rnd_rs _) sat
  case mdrain =>
    intro s f rm sat oq a g gx q hp hf r n good places hr hsc
    refine ⟨fun hg he => ?_, fun e he hd hroute => ?_⟩
    · exact matrix_drain (.refl s) hf (exec_mdrain_reg rm sat oq a hp hg hr hsc) he fun t ht hiq => (congrArg Tile.iq ht.after).trans hiq
    · refine matrix_drain (.consume s q.val 1) hf (exec_mdrain_queue rm sat oq a hp hr hsc he hd) hroute fun t ht hiq => ?_
      have hq : ∀ k, (after s t).queue k = if k = q.val then (s.here.queue q.val).drop 1 else s.here.queue k := fun k => by
        rw [ht.after, Tile.queue_congr hiq, State.consume_here, Tile.queue_setQueue]
      exact ⟨(hq _).trans (if_pos rfl), fun k hk => (hq k).trans (if_neg hk)⟩
  case refusals =>
    intro s f rm sat d sp src gx
    exact refused_moves s f rm sat d sp src gx
  case mperm =>
    intro s cols inv d pv g hg
    exact refused_mperm cols inv d pv hg
  case limit =>
    intro s f rm sat d q gx es n i hi hp hc hes hrow
    exact (queueForm_of_mem hi s).limit hp hc hes hrow
  case mldQueue =>
    intro s d q gx es x hp hc hes hrow
    exact ⟨fun hx => (queueForm_mld d q gx s).token hp hc hes hrow hx, fun ht hx => mldQueue_reserved d hp hc hes hrow ht hx⟩
  case poisoned =>
    intro s fwd za f rm sat d q b gx x y n i hi hp hc hx hb hy
    exact (queueForm_of_mem_mma hi s).poisoned hp hc hx hb hy

end
end
